-- ==== Sys2Proof/Word.lean ====
section
/-! DEFINITION. The word types of the model and their plainest arithmetic: 32-bit register words, bytes, the 64-bit
tag of R31, and the comparison of two tags of R35 and R36. -/

namespace Sys2Proof

/-- A register or memory word (R248, R297). -/
abbrev Word := BitVec 32

/-- One byte of memory. -/
abbrev Byte := BitVec 8

/-- A tag: an unsigned 64-bit count of 62.5 ps units (R31). -/
abbrev Tag := BitVec 64

/-- `a` is after `b` in the signed sense of R35; at exactly half the range the subject `a` counts as before (R36). -/
def Tag.after (a b : Tag) : Bool :=
  let d := (a - b).toNat
  decide (0 < d ∧ d < 2 ^ 63)

/-- The subject `a` is before the reference `b` (R35), the tie at half the range included (R36). -/
def Tag.before (a b : Tag) : Bool :=
  decide (2 ^ 63 ≤ (a - b).toNat)

/-- The low word of a tag. -/
def Tag.lo (t : Tag) : Word := t.setWidth 32

/-- The high word of a tag. -/
def Tag.hi (t : Tag) : Word := (t >>> 32).setWidth 32

/-- A tag from its high and low words. -/
def Tag.ofWords (h l : Word) : Tag := h.setWidth 64 <<< 32 ||| l.setWidth 64

end Sys2Proof
end

