-- ==== Sys2Proof/Syntax.lean ====
section
/-! DEFINITION. The commands of the block: one constructor of `Instr` for each row of spec/opcode_table.json, with
the row's operands. Index ranges that the spec fixes (packs, axes, legs, cores, ...) are `Fin` types. -/

namespace Sys2Proof

/-- Pack number p (R6). -/
abbrev PackIx := Fin 4
/-- Axis of a pack. -/
abbrev AxisIx := Fin 6
/-- Phase set of a pack. -/
abbrev SetIx := Fin 6
/-- Leg of a pack. -/
abbrev LegIx := Fin 18
/-- Core number: host cores 0 to 7, loop cores of packs 0 to 3 as 8 to 11 (R337). -/
abbrev CoreIx := Fin 12
/-- Fabric lane F0 to F3. -/
abbrev FabIx := Fin 4
/-- Loop-engine vector register. -/
abbrev VReg := Fin 16
/-- Lane of a vector register: x, y, z, w. -/
abbrev VLane := Fin 4
/-- General or floating-point register number. -/
abbrev RegIx := Fin 32
/-- Context number (R286). -/
abbrev CtxIx := Fin 32
/-- Tenant number. -/
abbrev TenIx := Fin 8
/-- DMA channel. -/
abbrev DmaIx := Fin 32
/-- Scheduled action slot. -/
abbrev SlotIx := Fin 64

/-- Who makes a request (R361): a core in its running bank, a DMA channel, a fabric requester with the source
node, tenant and security bit of its frame, or a scheduled action slot. -/
inductive Master where
  | core (c : CoreIx)
  | dma (k : DmaIx)
  | fabric (node : Byte) (rten : TenIx) (sec : Bool)
  | slot (n : SlotIx)
deriving DecidableEq, Repr

/-- The two die-to-die links (R26). -/
inductive DieLink where
  | field
  | memory
deriving DecidableEq, Repr

/-- The class of a field pin's voltage (R118). -/
inductive PinClass where
  | neg
  | low
  | open_
  | high
  | bat
deriving DecidableEq, Repr

/-- The pin diagnostics of R119. -/
inductive PinDiag where
  | open_
  | bat
  | neg
  | stuck
deriving DecidableEq, Repr

/-- What a shutdown sequence covers: a whole phase set, or one leg (R179). -/
inductive SeqRef where
  | set (s : SetIx)
  | leg (l : LegIx)
deriving DecidableEq, Repr

/-- What starts a DMA channel (R333). -/
inductive DmaCause where
  | command (m : Master)
  | leash
  | slot (n : SlotIx)
deriving DecidableEq, Repr

/-- The outcomes of the start-up steps that the environment supplies (R456, R457): the number of failed pace-lock
tries, whether the fuse words read, the SRAM pages that fail the self-test, the pairs that fail injection, the codes
read back from the lo and hi DAC of comparator 16p + n, the packs whose SARs fail, and the number of repaired columns. -/
structure StartEnv where
  paceFails : Nat
  fusesOk : Bool
  badPages : List (BitVec 20)
  injFails : List (Fin 16)
  dac : List (BitVec 16 × BitVec 16)
  sarFails : List PackIx
  cols : BitVec 16
deriving DecidableEq, Repr

/-- A fabric frame's header fields and payload as they reach the link layer (R406). `intact` is the result of the
FEC and CRC checks (R404, R411), `icvOk` that of the ICV check, made from UP on (R410). -/
structure Frame where
  intact : Bool
  icvOk : Bool
  seq : BitVec 12
  ack : BitVec 12
  ackV : Bool
  dst : Byte
  src : Byte
  tenant : TenIx
  sec : Bool
  plen : BitVec 9
  txid : BitVec 12
  status : BitVec 4
  len : BitVec 9
  addr : BitVec 52
  tag : Tag
  credit : Word
  payload : List Byte
deriving DecidableEq, Repr

/-- What a JOIN frame carries (R419 to R421): whether the partner's certificate and signature verify and the key is
agreed, the partner's node number, a node assignment for this device, and a lock report. -/
structure JoinInfo where
  idOk : Bool
  partner : Byte
  assign : Option Byte
  locked : Bool
deriving DecidableEq, Repr

/-- A whole Ethernet or CAN frame at a port: destination key (MAC address and VID, or CAN identifier word), the
bytes, whether its FCS is good, and the tag of its ingress timestamp point (R425, R428). -/
structure NetFrame where
  dst : Nat
  vid : BitVec 12
  fcsOk : Bool
  bytes : List Byte
  tag : Tag
deriving DecidableEq, Repr

/-- The commands of the block, one constructor per row of spec/opcode_table.json, in the table's order. -/
inductive Instr where
  -- registers
  | registerWrite (m : Master) (a v : Word)
  | readLatchLo (m : Master) (a : Word)
  | writeLatchHi (m : Master) (a v : Word)
  | loWriteCommit (m : Master) (a v : Word)
  -- boundaries
  | periodBoundary (p : PackIx) (s : SetIx)
  | baseBoundary (p : PackIx)
  -- die-to-die links
  | fieldLinkLoss
  | memoryLinkLoss
  | d2dTransferRetry (l : DieLink)
  | d2dIdleTimeout (l : DieLink)
  | d2dRetrainDone (l : DieLink)
  | d2dRetrainTimeout (l : DieLink)
  -- time
  | tsync (ln : FabIx) (domain : Byte) (gm : Tag)
  | syncLossTimeout
  | aoShadowCopy
  | slotArm (m : Master) (n : SlotIx) (skipLate : Bool) (kind : Fin 4)
  | slotDisarm (m : Master) (n : SlotIx) (skipLate : Bool) (kind : Fin 4)
  | slotFire (n : SlotIx)
  | slotRefusal (n : SlotIx)
  -- acquisition
  | sampleHold (p : PackIx) (e : Fin 32)
  | conversionEnd (p : PackIx) (sar : Fin 4) (code : BitVec 16)
  | reconversionEnd (p : PackIx) (sar : Fin 4) (code : BitVec 16)
  | sampleRouterDelivery (p : PackIx)
  | selfcal (m : Master) (p : PackIx)
  | selfcalDone (p : PackIx) (ok : Bool)
  | calSetCommit (m : Master) (p : PackIx) (sdm : Bool) (k : Fin 64) (cfg : Word)
  | resultSnapshotRead (m : Master) (a : Word)
  | sdmEnable (m : Master) (p : PackIx) (n : Fin 8) (v : Word)
  | decimatorOutput (p : PackIx) (n : Fin 8) (bits : List Bool)
  | fastPathOutput (p : PackIx) (n : Fin 8) (bits : List Bool)
  | modulatorStuck (p : PackIx) (n : Fin 8)
  | stuckClear (p : PackIx) (n : Fin 8)
  | resolverEnable (m : Master) (p : PackIx) (r : Fin 2) (v : Word)
  | resolverHold (p : PackIx) (r : Fin 2) (pol : Bool)
  -- position
  | modeChange (m : Master) (p : PackIx) (i : Fin 6) (v : Word)
  | invChange (m : Master) (p : PackIx) (i : Fin 6) (v : Word)
  | positionEdge (p : PackIx) (i : Fin 6) (e : Tag × Fin 3 × PinClass) (more : List (Tag × Fin 3 × PinClass))
  | standstillTimeout (p : PackIx) (i : Fin 6)
  | positionLatch (p : PackIx) (i : Fin 6)
  | posSnapshotRead (m : Master) (p : PackIx) (i : Fin 6)
  | pinDiagnostic (p : PackIx) (i : Fin 6) (k : Fin 3) (d : PinDiag)
  | pinDiagnosticClear (p : PackIx) (i : Fin 6) (k : Fin 3) (d : PinDiag)
  | sensorSupplyEnable (m : Master) (n : Fin 8) (autoRetry : Bool)
  | sensorSupplyShort (e : Fin 8 × Bool)
  | sensorSupplyRetry (n : Fin 8)
  | sensorReverseBlock (n : Fin 8)
  | sensorUndervoltage (n : Fin 8)
  | emulatorEdge (p : PackIx)
  | resync (m : Master) (p : PackIx)
  -- loop engine
  | runReadyDeadline (p : PackIx) (a : AxisIx)
  | runStart (p : PackIx)
  | leNop (p : PackIx)
  | leEnd (p : PackIx)
  | rep (p : PackIx) (c : Fin 16) (n : Fin 64)
  | vadd (p : PackIx) (d a b : VReg)
  | vsub (p : PackIx) (d a b : VReg)
  | vmul (p : PackIx) (d a b : VReg)
  | vfma (p : PackIx) (d a b c : VReg)
  | vdot (p : PackIx) (d a b : VReg)
  | vmin (p : PackIx) (d a b : VReg)
  | vmax (p : PackIx) (d a b : VReg)
  | vclamp (p : PackIx) (d a b c : VReg)
  | vcmpgt (p : PackIx) (d a b : VReg)
  | vcmpge (p : PackIx) (d a b : VReg)
  | vsel (p : PackIx) (d a b c : VReg)
  | vswz (p : PackIx) (d a : VReg) (sel : BitVec 8)
  | vabs (p : PackIx) (d a : VReg)
  | vneg (p : PackIx) (d a : VReg)
  | vli (p : PackIx) (d : VReg) (k : VLane) (imm : BitVec 8)
  | vrcp (p : PackIx) (d a : VReg)
  | vrsqrt (p : PackIx) (d a : VReg)
  | vsqrt (p : PackIx) (d a : VReg)
  | vdiv (p : PackIx) (d a b : VReg)
  | csc (p : PackIx) (d a : VReg)
  | crot (p : PackIx) (d a b : VReg)
  | cvec (p : PackIx) (d a : VReg)
  | cwrap (p : PackIx) (d a : VReg)
  | aclr (p : PackIx) (acc : Fin 4)
  | alim (p : PackIx) (a b : VReg) (acc : Fin 4)
  | amac (p : PackIx) (a b : VReg) (acc : Fin 4)
  | aadd (p : PackIx) (a : VReg) (acc : Fin 4)
  | aget (p : PackIx) (d : VReg) (acc : Fin 4)
  | lin (p : PackIx) (d : VReg) (k : VLane) (sl : Fin 16)
  | lin4 (p : PackIx) (d : VReg) (sl : Fin 16)
  | lflg (p : PackIx) (d : VReg) (k : VLane) (sl : Fin 16)
  | ltg (p : PackIx) (d : VReg) (k : VLane) (sl : Fin 16)
  | lrs (p : PackIx) (d : VReg) (sl : Fin 16) (e : Fin 4)
  | lsp (p : PackIx) (d : VReg) (k : VLane) (n : Fin 4)
  | lk (p : PackIx) (d : VReg) (w : Fin 128)
  | lst (p : PackIx) (d : VReg) (w : Fin 64)
  | sst (p : PackIx) (a : VReg) (w : Fin 64)
  | lmode (p : PackIx) (d : VReg)
  | dout (p : PackIx) (a : VReg) (base : Fin 8) (mask : BitVec 4)
  | mout (p : PackIx) (a : VReg) (mo : Fin 8) (k : VLane)
  | eout (p : PackIx) (a : VReg)
  | evt (p : PackIx) (ch : Fin 64)
  | runStop (p : PackIx)
  | releaseLimit (p : PackIx) (a : AxisIx)
  | arm (m : Master) (p : PackIx) (a : AxisIx)
  | axisOpen (m : Master) (p : PackIx) (a : AxisIx)
  | axisClose (m : Master) (p : PackIx) (a : AxisIx)
  | disarm (m : Master) (p : PackIx) (a : AxisIx)
  | gaitForce (m : Master) (p : PackIx) (a : AxisIx) (en : Bool) (g : Fin 8)
  | coefficientWrite (m : Master) (p : PackIx) (a : AxisIx) (g : Fin 8) (w : Fin 128) (v : Word)
  -- pulse-width modulation
  | carrierStart (p : PackIx) (l : LegIx)
  | pwmEdge (p : PackIx) (l : LegIx) (high : Bool)
  | deadTimeExpiry (p : PackIx) (l : LegIx)
  | blankingEnd (p : PackIx) (l : LegIx)
  | peakThresholdStep (p : PackIx) (l : LegIx)
  | loadGo (m : Master) (p : PackIx) (s : SetIx)
  | setEnable (m : Master) (p : PackIx) (s : SetIx)
  | setDisable (m : Master) (p : PackIx) (s : SetIx)
  | legOn (m : Master) (p : PackIx) (mask : BitVec 18)
  | legOff (m : Master) (p : PackIx) (mask : BitVec 18)
  | sequenceDwellEnd (p : PackIx) (who : SeqRef)
  | forceWrite (m : Master) (p : PackIx) (s : SetIx) (code : BitVec 12)
  | maskEvent (p : PackIx) (s : SetIx) (t : Tag) (state : BitVec 3)
  | maskEventApply (p : PackIx) (s : SetIx)
  | maskPtrWrite (m : Master) (p : PackIx) (s : SetIx) (v : Word)
  -- comparators, muzzle, thermal
  | comparatorLevelChange (p : PackIx) (n : Fin 16) (isU : Bool) (e : Tag × Bool) (more : List (Tag × Bool))
  | thresholdWrite (m : Master) (p : PackIx) (n : Fin 16) (v : Word)
  | readback (m : Master) (p : PackIx)
  | readbackDone (p : PackIx) (codes : List (BitVec 16 × BitVec 16))
  | checkWindowOpen (p : PackIx) (n : Fin 16)
  | checkWindowEnd (p : PackIx) (n : Fin 16) (u l : Bool)
  | checkRestoreEnd (p : PackIx) (n : Fin 16)
  | protectionInputChange (p : PackIx) (l : LegIx) (low : Bool) (e : Tag × PinClass) (more : List (Tag × PinClass))
  | incidentWindowEnd (p : PackIx)
  | softwareTrip (m : Master) (p : PackIx) (mask : BitVec 6)
  | tripClear (m : Master) (p : PackIx) (s : SetIx)
  | thermalSample (i : Fin 12) (temp : BitVec 12)
  | thermalSensorTimeout (i : Fin 12)
  -- image
  | setTrial (m : Master)
  | confirm (m : Master)
  | markBad (m : Master)
  | raiseSvn (m : Master)
  | stage (m : Master)
  | stagingDone
  | swapGo (m : Master)
  | swapAbort (m : Master)
  | revert (m : Master)
  | recoveryImage (a len : Word)
  -- instruction set, integer
  | add (c : CoreIx) (rd ra rb : RegIx)
  | sub (c : CoreIx) (rd ra rb : RegIx)
  | and_ (c : CoreIx) (rd ra rb : RegIx)
  | or_ (c : CoreIx) (rd ra rb : RegIx)
  | xor_ (c : CoreIx) (rd ra rb : RegIx)
  | nor (c : CoreIx) (rd ra rb : RegIx)
  | sll (c : CoreIx) (rd ra rb : RegIx)
  | srl (c : CoreIx) (rd ra rb : RegIx)
  | sra (c : CoreIx) (rd ra rb : RegIx)
  | slli (c : CoreIx) (rd ra : RegIx) (sh : BitVec 5)
  | srli (c : CoreIx) (rd ra : RegIx) (sh : BitVec 5)
  | srai (c : CoreIx) (rd ra : RegIx) (sh : BitVec 5)
  | slt (c : CoreIx) (rd ra rb : RegIx)
  | sltu (c : CoreIx) (rd ra rb : RegIx)
  | seq (c : CoreIx) (rd ra rb : RegIx)
  | sne (c : CoreIx) (rd ra rb : RegIx)
  | min_ (c : CoreIx) (rd ra rb : RegIx)
  | max_ (c : CoreIx) (rd ra rb : RegIx)
  | minu (c : CoreIx) (rd ra rb : RegIx)
  | maxu (c : CoreIx) (rd ra rb : RegIx)
  | mul (c : CoreIx) (rd ra rb : RegIx)
  | mulh (c : CoreIx) (rd ra rb : RegIx)
  | mulhu (c : CoreIx) (rd ra rb : RegIx)
  | div (c : CoreIx) (rd ra rb : RegIx)
  | divu (c : CoreIx) (rd ra rb : RegIx)
  | rem (c : CoreIx) (rd ra rb : RegIx)
  | remu (c : CoreIx) (rd ra rb : RegIx)
  | addi (c : CoreIx) (rd ra : RegIx) (imm : BitVec 16)
  | andi (c : CoreIx) (rd ra : RegIx) (imm : BitVec 16)
  | ori (c : CoreIx) (rd ra : RegIx) (imm : BitVec 16)
  | xori (c : CoreIx) (rd ra : RegIx) (imm : BitVec 16)
  | slti (c : CoreIx) (rd ra : RegIx) (imm : BitVec 16)
  | sltiu (c : CoreIx) (rd ra : RegIx) (imm : BitVec 16)
  | lui (c : CoreIx) (rd : RegIx) (imm : BitVec 16)
  -- loads and stores
  | ldw (c : CoreIx) (rd ra : RegIx) (imm : BitVec 16)
  | ldh (c : CoreIx) (rd ra : RegIx) (imm : BitVec 16)
  | ldhu (c : CoreIx) (rd ra : RegIx) (imm : BitVec 16)
  | ldb (c : CoreIx) (rd ra : RegIx) (imm : BitVec 16)
  | ldbu (c : CoreIx) (rd ra : RegIx) (imm : BitVec 16)
  | loadDataReturn (c : CoreIx)
  | stw (c : CoreIx) (rd ra : RegIx) (imm : BitVec 16)
  | sth (c : CoreIx) (rd ra : RegIx) (imm : BitVec 16)
  | stb (c : CoreIx) (rd ra : RegIx) (imm : BitVec 16)
  | flw (c : CoreIx) (fd ra : RegIx) (imm : BitVec 16)
  | fsw (c : CoreIx) (fd ra : RegIx) (imm : BitVec 16)
  -- control transfer, loops, system
  | beq (c : CoreIx) (ra rb : RegIx) (off : BitVec 16)
  | bne (c : CoreIx) (ra rb : RegIx) (off : BitVec 16)
  | j (c : CoreIx) (off : BitVec 26)
  | jal (c : CoreIx) (off : BitVec 26)
  | jalr (c : CoreIx) (rd ra : RegIx) (imm : BitVec 16)
  | loop (c : CoreIx) (n : Fin 3) (rc : RegIx) (off : BitVec 16)
  | loopi (c : CoreIx) (n : Fin 3) (cnt : BitVec 10) (off : BitVec 14)
  | mfs (c : CoreIx) (rd : RegIx) (spr : BitVec 16)
  | mts (c : CoreIx) (ra : RegIx) (spr : BitVec 16)
  | eret (c : CoreIx)
  | erets (c : CoreIx)
  | trap (c : CoreIx) (code : BitVec 20)
  | flush (c : CoreIx) (ra : RegIx)
  | vectorLineReloadDone (c : CoreIx)
  | fence (c : CoreIx)
  | yield_ (c : CoreIx)
  -- floating point
  | fadd (c : CoreIx) (fd fa fb : RegIx)
  | fsub (c : CoreIx) (fd fa fb : RegIx)
  | fmul (c : CoreIx) (fd fa fb : RegIx)
  | fdiv (c : CoreIx) (fd fa fb : RegIx)
  | fsqrt (c : CoreIx) (fd fa : RegIx)
  | fmadd (c : CoreIx) (fd fa fb : RegIx)
  | fmin (c : CoreIx) (fd fa fb : RegIx)
  | fmax (c : CoreIx) (fd fa fb : RegIx)
  | fabs (c : CoreIx) (fd fa : RegIx)
  | fneg (c : CoreIx) (fd fa : RegIx)
  | fmov (c : CoreIx) (fd fa : RegIx)
  | feq (c : CoreIx) (rd fa fb : RegIx)
  | flt (c : CoreIx) (rd fa fb : RegIx)
  | fle (c : CoreIx) (rd fa fb : RegIx)
  | fun_ (c : CoreIx) (rd fa fb : RegIx)
  | fcvtWS (c : CoreIx) (rd fa : RegIx)
  | fcvtSW (c : CoreIx) (fd ra : RegIx)
  | fmvXS (c : CoreIx) (rd fa : RegIx)
  | fmvSX (c : CoreIx) (fd ra : RegIx)
  | faddD (c : CoreIx) (fd fa fb : RegIx)
  | fsubD (c : CoreIx) (fd fa fb : RegIx)
  | fmulD (c : CoreIx) (fd fa fb : RegIx)
  | fcvtDS (c : CoreIx) (fd fa : RegIx)
  | fcvtSD (c : CoreIx) (fd fa : RegIx)
  | ctxsLo (c : CoreIx) (ra rb : RegIx)
  | ctxsHi (c : CoreIx) (ra rb : RegIx)
  | ctxrLo (c : CoreIx) (rd ra : RegIx)
  | ctxrHi (c : CoreIx) (rd ra : RegIx)
  | reservedEncoding (c : CoreIx) (w : Word)
  -- execution and contexts
  | asyncExceptionEntry (c : CoreIx)
  | storeErrorResponse (c : CoreIx)
  | lineReadDone (c : CoreIx) (line : Word)
  | start (c : CoreIx) (x : CtxIx)
  | stop (c : CoreIx) (x : CtxIx)
  | wake (c : CoreIx) (x : CtxIx)
  | contextSwitch (c : CoreIx)
  | spillComplete (c : CoreIx)
  | restoreComplete (c : CoreIx)
  | checkpoint (c : CoreIx) (forced : Bool)
  | restEntry (c : CoreIx)
  | restExit (c : CoreIx)
  | storeConfirm (c : CoreIx)
  -- coherence, memory
  | readMiss (c : Fin 8) (line : Word)
  | ownershipRequest (c : Fin 8) (rival : Option (Fin 8)) (line : Word)
  | eviction (c : Fin 8) (line : Word)
  | uncachedAccess (m : Master) (write : Bool) (a v : Word)
  | initStart (m : Master)
  | initDone
  | scrubRead (a : Word)
  | elogPop (m : Master)
  | elogSnapshotRead (m : Master)
  | pageRetire (m : Master) (n : Fin 64) (page : BitVec 20)
  | pageClosed
  | program (m : Master)
  | erase (m : Master)
  | retireBlock (m : Master)
  | nvCommandDone (verifyFails : Bool)
  | dmaStart (k : DmaIx) (cause : DmaCause)
  | dmaStop (m : Master) (k : DmaIx)
  | dmaBurst (k : DmaIx)
  | haltedClear (m : Master) (k : DmaIx)
  -- leash channels, interrupts, mailboxes (ring 4 is the system router)
  | raise (m : Master) (ring : Fin 5) (ch : Fin 64) (data : Byte)
  | leashEventDelivery (g : Fin 320)
  | flagSet (m : Master) (ring : Fin 5) (w : Fin 2) (mask : Word)
  | flagClear (m : Master) (ring : Fin 5) (w : Fin 2) (mask : Word)
  | doorbell (c : CoreIx) (v : Word)
  | doorbellAlias (m : Master) (c : CoreIx) (v : Word)
  | pendSet (c : CoreIx) (i : Fin 32) (mask : Word)
  | pendClear (c : CoreIx) (i : Fin 32) (mask : Word)
  | maskSet (c : CoreIx) (i : Fin 32) (mask : Word)
  | maskClear (c : CoreIx) (i : Fin 32) (mask : Word)
  | mailboxSend (m : Master) (c : CoreIx) (ch : Fin 16) (v : Word)
  | mailboxReceive (c : CoreIx) (ch : Fin 16)
  -- tenants
  | tenantReset (m : Master) (t : TenIx)
  | tenantResetDone (t : TenIx)
  | vlogPop (m : Master) (view : Option TenIx)
  | vlogSnapshotRead (m : Master) (view : Option TenIx)
  -- littermates and records (pair numbers of R373)
  | mismatch (n : Fin 16) (cmpA cmpB : Bool)
  | recoveryDone (n : Fin 16)
  | alarmPop (m : Master) (t : TenIx)
  | slogPop (m : Master)
  | slogSnapshotRead (m : Master)
  | recordPortWrite
  -- fabric and network
  | rdFrame (ln : FabIx) (f : Frame)
  | rdrFrame (ln : FabIx) (f : Frame)
  | wrFrame (ln : FabIx) (f : Frame)
  | wraFrame (ln : FabIx) (f : Frame)
  | mbxFrame (ln : FabIx) (f : Frame)
  | mbxaFrame (ln : FabIx) (f : Frame)
  | ethFrame (ln : FabIx) (f : Frame)
  | joinFrame (ln : FabIx) (f : Frame) (i : JoinInfo)
  | leaveFrame (ln : FabIx) (f : Frame)
  | nakFrame (ln : FabIx) (f : Frame)
  | idleFrame (ln : FabIx) (f : Frame)
  | replayTimeout (ln : FabIx)
  | signalDetect (ln : FabIx)
  | trainingDone (ln : FabIx) (polInv : Bool)
  | linkSignalLoss (ln : FabIx)
  | linkFrameTimeout (ln : FabIx)
  | requestTimeout (ln : FabIx) (txid : BitVec 12)
  | leave (m : Master) (ln : FabIx)
  | drainTimeout (ln : FabIx)
  | restart (m : Master) (ln : FabIx)
  | fabricMailboxSend (m : Master) (sl : Fin 16) (v : Word)
  | ethernetFrameReceive (port : Fin 22) (f : NetFrame)
  | tailAdvance (m : Master) (can : Bool) (q : Fin 64) (v : Word)
  | frameLaunch (can : Bool) (q : Fin 64)
  | canFrameReceive (k : Fin 8) (f : NetFrame)
  | keyInstall (m : Master) (sa : Nat) (key : List Word)
  | spiGo (m : Master) (p : PackIx) (k : Fin 4)
  | spiTrigger (p : PackIx) (k : Fin 4)
  | spiTransferEnd (p : PackIx) (k : Fin 4) (rx : List Word)
  -- power, start-up, reset
  | den (m : Master)
  | kennel (m : Master)
  | pointOfNoReturn
  | denTimeout
  | whistleEdge (n : Fin 8) (level : Bool) (t : Tag)
  | wakeTimer
  | supplyOk (core : Bool)
  | supplyOkTimeout (core : Bool)
  | coreBrownOut
  | fieldSupplyLoss
  | paceWindow (i : Fin 101) (ps : Nat)
  | powerOnReset
  | resetN
  | device (m : Master)
  | pack (m : Master) (p : PackIx)
  | packResetDone (p : PackIx) (e : StartEnv)
  -- rows at the end of the table
  | rcFieldRead (m : Master) (a : Word)
  | bankCommandDone
  | uncorrectableCodeword (ln : FabIx)
  | canBusOffRecovery (k : Fin 8)
  | supplyRetry (core : Bool)
  | lowPowerEntryComplete
  | resetRelease (e : StartEnv)
deriving DecidableEq, Repr

end Sys2Proof
end

