-- ==== Sys2Proof/Decode.lean ====
section
/-! DEFINITION. The opcode table gives no row any bits, so no word spells a command. The words that the block's own programs are
made of are decoded here: a core's instructions (R249 to R268) and the loop engine's operations (R127). -/

namespace Sys2Proof

/-- The command that a word spells by the table's bits: none of its rows has bits. -/
def decodeTableWord (_nbits _w : Nat) : Option Instr := none

/-- The field of `n` bits from bit `lo` of a word. -/
def wordField (w : Word) (lo n : Nat) : Nat := w.toNat / 2 ^ lo % 2 ^ n

/-- The register number from bit `lo` of a word (R249). -/
def regField (w : Word) (lo : Nat) : RegIx := ⟨w.toNat / 2 ^ lo % 32, Nat.mod_lt _ (by decide)⟩

/-! ### A core's instructions (R249) -/

/-- A special register number that R260 lists. -/
def sprListed (n : Nat) : Bool := decide (n ≤ 6 ∨ (8 ≤ n ∧ n ≤ 16))

/-- Op 0x00 with three registers, by fn (R250). -/
def intOps : List (Nat × (CoreIx → RegIx → RegIx → RegIx → Instr)) :=
  [(0x00, .add), (0x01, .sub), (0x02, .and_), (0x03, .or_), (0x04, .xor_), (0x05, .nor), (0x06, .sll), (0x07, .srl), (0x08, .sra),
   (0x0C, .slt), (0x0D, .sltu), (0x0E, .seq), (0x0F, .sne), (0x10, .min_), (0x11, .max_), (0x12, .minu), (0x13, .maxu), (0x18, .mul),
   (0x19, .mulh), (0x1A, .mulhu), (0x1C, .div), (0x1D, .divu), (0x1E, .rem), (0x1F, .remu)]

/-- Op 0x00 with a shift by sh, by fn (R250). -/
def shiftOps : List (Nat × (CoreIx → RegIx → RegIx → BitVec 5 → Instr)) := [(0x09, .slli), (0x0A, .srli), (0x0B, .srai)]

/-- The I and B formats, by op: registers at [25:21] and [20:16], and imm or off (R250, R256). -/
def immOps : List (Nat × (CoreIx → RegIx → RegIx → BitVec 16 → Instr)) :=
  [(0x01, .addi), (0x02, .andi), (0x03, .ori), (0x04, .xori), (0x05, .slti), (0x06, .sltiu), (0x08, .ldw), (0x09, .ldh), (0x0A, .ldhu),
   (0x0B, .ldb), (0x0C, .ldbu), (0x0D, .stw), (0x0E, .sth), (0x0F, .stb), (0x10, .beq), (0x11, .bne), (0x14, .jalr), (0x1C, .flw),
   (0x1D, .fsw)]

/-- Op 0x1E with three registers, by fn (R264). -/
def fpOps3 : List (Nat × (CoreIx → RegIx → RegIx → RegIx → Instr)) :=
  [(0x00, .fadd), (0x01, .fsub), (0x02, .fmul), (0x03, .fdiv), (0x05, .fmadd), (0x06, .fmin), (0x07, .fmax), (0x10, .feq), (0x11, .flt),
   (0x12, .fle), (0x13, .fun_)]

/-- Op 0x1E with two registers, by fn (R264). -/
def fpOps2 : List (Nat × (CoreIx → RegIx → RegIx → Instr)) :=
  [(0x04, .fsqrt), (0x08, .fabs), (0x09, .fneg), (0x0A, .fmov), (0x18, .fcvtWS), (0x19, .fcvtSW), (0x1A, .fmvXS), (0x1B, .fmvSX)]

/-- Op 0x1E on binary64 pairs, by fn: every register number is even (R264). -/
def fpOpsD : List (Nat × (CoreIx → RegIx → RegIx → RegIx → Instr)) := [(0x20, .faddD), (0x21, .fsubD), (0x22, .fmulD)]

/-- The floating-point instruction of a word with op 0x1E (R264). -/
def decodeFp (c : CoreIx) (w : Word) : Option Instr :=
  let rd := regField w 21
  let ra := regField w 16
  let rb := regField w 11
  let fn := wordField w 0 6
  if wordField w 6 5 ≠ 0 then none
  else
    match fpOps3.lookup fn, fpOpsD.lookup fn with
    | some f, _ => some (f c rd ra rb)
    | none, some f => if rd.val % 2 = 0 ∧ ra.val % 2 = 0 ∧ rb.val % 2 = 0 then some (f c rd ra rb) else none
    | none, none =>
      if rb.val ≠ 0 then none
      else if fn = 0x28 then (if rd.val % 2 = 0 then some (.fcvtDS c rd ra) else none)
      else if fn = 0x29 then (if ra.val % 2 = 0 then some (.fcvtSD c rd ra) else none)
      else (fpOps2.lookup fn).map fun f => f c rd ra

/-- The system instruction of a word with op 0x17: the S format, and flush with its register (R260). -/
def decodeSys (c : CoreIx) (w : Word) : Option Instr :=
  let code := wordField w 6 20
  let fn := wordField w 0 6
  if fn = 2 then some (.trap c (BitVec.ofNat 20 code))
  else if fn = 3 then (if code = (regField w 16).val * 1024 then some (.flush c (regField w 16)) else none)
  else if code ≠ 0 then none
  else if fn = 0 then some (.eret c)
  else if fn = 1 then some (.erets c)
  else if fn = 4 then some (.fence c)
  else if fn = 5 then some (.yield_ c)
  else none

/-- The context save or restore of a word with op 0x1A (R267). -/
def decodeCtx (c : CoreIx) (w : Word) : Option Instr :=
  let rd := regField w 21
  let ra := regField w 16
  let rb := regField w 11
  let fn := wordField w 0 6
  if wordField w 6 5 ≠ 0 then none
  else if fn = 0 then (if rd.val = 0 then some (.ctxsLo c ra rb) else none)
  else if fn = 1 then (if rd.val = 0 then some (.ctxsHi c ra rb) else none)
  else if fn = 2 then (if rb.val = 0 then some (.ctxrLo c rd ra) else none)
  else if fn = 3 then (if rb.val = 0 then some (.ctxrHi c rd ra) else none)
  else none

/-- The integer instruction of a word with op 0x00 (R250). -/
def decodeInt (c : CoreIx) (w : Word) : Option Instr :=
  let rd := regField w 21
  let ra := regField w 16
  let rb := regField w 11
  let fn := wordField w 0 6
  match shiftOps.lookup fn with
  | some f => if rb.val = 0 then some (f c rd ra (BitVec.ofNat 5 (wordField w 6 5))) else none
  | none => if wordField w 6 5 = 0 then (intOps.lookup fn).map fun f => f c rd ra rb else none

/-- The hardware loop instruction of a word: an off of 0 and an n of 3 are reserved (R256). -/
def decodeLoop (c : CoreIx) (w : Word) (op : Nat) : Option Instr :=
  let n := wordField w 24 2
  if h : n < 3 then
    if op = 0x15 then
      if wordField w 21 3 = 0 ∧ wordField w 0 16 ≠ 0 then some (.loop c ⟨n, h⟩ (regField w 16) (BitVec.ofNat 16 (wordField w 0 16)))
      else none
    else if wordField w 0 14 ≠ 0 then
      some (.loopi c ⟨n, h⟩ (BitVec.ofNat 10 (wordField w 14 10)) (BitVec.ofNat 14 (wordField w 0 14)))
    else none
  else none

/-- The instruction of core `c` that a word encodes; none for a reserved encoding (R249, R268). -/
def decodeCore (c : CoreIx) (w : Word) : Option Instr :=
  let op := wordField w 26 6
  let rd := regField w 21
  let ra := regField w 16
  let imm := BitVec.ofNat 16 (wordField w 0 16)
  if op = 0x00 then decodeInt c w
  else if op = 0x07 then (if ra.val = 0 then some (.lui c rd imm) else none)
  else if op = 0x12 then some (.j c (BitVec.ofNat 26 (wordField w 0 26)))
  else if op = 0x13 then some (.jal c (BitVec.ofNat 26 (wordField w 0 26)))
  else if op = 0x15 ∨ op = 0x16 then decodeLoop c w op
  else if op = 0x17 then decodeSys c w
  else if op = 0x18 then (if ra.val = 0 ∧ sprListed imm.toNat then some (.mfs c rd imm) else none)
  else if op = 0x19 then (if rd.val = 0 ∧ sprListed imm.toNat then some (.mts c ra imm) else none)
  else if op = 0x1A then decodeCtx c w
  else if op = 0x1E then decodeFp c w
  else (immOps.lookup op).map fun f => f c rd ra imm

/-- A reserved encoding (R268). -/
def reservedWord (w : Word) : Bool := (decodeCore 0 w).isNone

/-! ### The loop engine's operations -/

/-- The vector register field from bit `lo` of an operation. -/
def vregField (w : Word) (lo : Nat) : VReg := ⟨w.toNat / 2 ^ lo % 16, Nat.mod_lt _ (by decide)⟩

/-- The part of an operation's imm field from bit `lo` as a number below `n`. -/
def immFin (w : Word) (lo n : Nat) (h : 0 < n) : Fin n := ⟨w.toNat / 2 ^ lo % n, Nat.mod_lt _ h⟩

/-- Operations of d, a and b. -/
def leOps3 : List (Nat × (PackIx → VReg → VReg → VReg → Instr)) :=
  [(0x04, .vadd), (0x05, .vsub), (0x06, .vmul), (0x08, .vdot), (0x09, .vmin), (0x0A, .vmax), (0x0C, .vcmpgt), (0x0D, .vcmpge),
   (0x16, .vdiv), (0x19, .crot)]

/-- Operations of d, a, b and c. -/
def leOps4 : List (Nat × (PackIx → VReg → VReg → VReg → VReg → Instr)) := [(0x07, .vfma), (0x0B, .vclamp), (0x0E, .vsel)]

/-- Operations of d and a. -/
def leOps2 : List (Nat × (PackIx → VReg → VReg → Instr)) :=
  [(0x10, .vabs), (0x11, .vneg), (0x13, .vrcp), (0x14, .vrsqrt), (0x15, .vsqrt), (0x18, .csc), (0x1A, .cvec), (0x1B, .cwrap)]

/-- Operations of d, a lane and a slot. -/
def leOpsIn : List (Nat × (PackIx → VReg → VLane → Fin 16 → Instr)) := [(0x28, .lin), (0x2A, .lflg), (0x2B, .ltg)]

/-- The remaining operations of the table of R127, each with its own fields. -/
def decodeLeRest (p : PackIx) (w : Word) (op : Nat) : Option Instr :=
  let d := vregField w 22
  let a := vregField w 18
  let b := vregField w 14
  let lane := immFin w 0 4 (by decide)
  let slot := immFin w 2 16 (by decide)
  if op = 0x00 then some (.leNop p)
  else if op = 0x01 then some (.leEnd p)
  else if op = 0x02 then some (.rep p (vregField w 10) (immFin w 0 64 (by decide)))
  else if op = 0x0F then some (.vswz p d a (BitVec.ofNat 8 (wordField w 0 8)))
  else if op = 0x12 then some (.vli p d lane (BitVec.ofNat 8 (wordField w 2 8)))
  else if op = 0x20 then some (.aclr p lane)
  else if op = 0x21 then some (.alim p a b lane)
  else if op = 0x22 then some (.amac p a b lane)
  else if op = 0x23 then some (.aadd p a lane)
  else if op = 0x24 then some (.aget p d lane)
  else if op = 0x29 then some (.lin4 p d slot)
  else if op = 0x2C then some (.lrs p d slot (immFin w 6 4 (by decide)))
  else if op = 0x2D then some (.lsp p d lane (immFin w 2 4 (by decide)))
  else if op = 0x2E then some (.lk p d (immFin w 0 128 (by decide)))
  else if op = 0x2F then some (.lst p d (immFin w 0 64 (by decide)))
  else if op = 0x30 then some (.sst p a (immFin w 0 64 (by decide)))
  else if op = 0x31 then some (.lmode p d)
  else if op = 0x34 then some (.dout p a (immFin w 0 8 (by decide)) (BitVec.ofNat 4 (wordField w 3 4)))
  else if op = 0x35 then some (.mout p a (immFin w 0 8 (by decide)) (immFin w 3 4 (by decide)))
  else if op = 0x36 then some (.eout p a)
  else if op = 0x37 then some (.evt p (immFin w 0 64 (by decide)))
  else none

/-- The operation of pack `p`'s loop engine that a word of program memory encodes; none for a reserved op code. A field that the
operation does not use is not looked at (log 142). -/
def decodeLe (p : PackIx) (w : Word) : Option Instr :=
  let op := wordField w 26 6
  let d := vregField w 22
  let a := vregField w 18
  let b := vregField w 14
  match leOps3.lookup op, leOps4.lookup op, leOps2.lookup op, leOpsIn.lookup op with
  | some f, _, _, _ => some (f p d a b)
  | _, some f, _, _ => some (f p d a b (vregField w 10))
  | _, _, some f, _ => some (f p d a)
  | _, _, _, some f => some (f p d (immFin w 0 4 (by decide)) (immFin w 2 16 (by decide)))
  | _, _, _, _ => decodeLeRest p w op

end Sys2Proof
end

