-- ==== Sys2Proof/Config.lean ====
section
/-! DEFINITION. The constants an implementation fixes and the free values of the spec. A free value is opaque: nothing
in Lean can evaluate it, so a claim that holds holds for every value of it. -/

namespace Sys2Proof

/-- A free 32-bit value, applied to the step's counter `State.free` (log 20). -/
opaque Config.freeWord : Nat → Word

/-- Which of two requests the mutual-exclusion arbiter grants first (R328): true for the first named (log 25). -/
opaque Config.arbiter : Nat → Bool

/-- Whether tininess is detected before rounding, which IEEE 754 leaves to the implementation (R264, log 21). -/
opaque Config.tinyBefore : Bool

/-- Whether infinity times zero plus a quiet NaN signals invalid, which IEEE 754 leaves to the implementation (R264, log
21). -/
opaque Config.fmaInvalid : Bool

/-- The period of the field die's standby oscillator in picoseconds, within 250 MHz ± 5 % (R20, R43, log 117). -/
opaque Config.standbyPs : Nat

/-- The delay of a protection input's crossing in nanoseconds; R200 bounds it by 15 ns and states no value (log 123). -/
opaque Config.protDelay : Nat

/-- The phase of the 100 MHz modulator clock against the pack timebase: a 10 ns edge stands at each tick whose count is this
value modulo 10 (R88, log 125). -/
opaque Config.sdmPhase : Nat

/-- The SHA-384 digest of a byte string (FIPS 180-4), which R223 names and the spec does not define (log 46). -/
opaque Config.sha384 : List Byte → Nat

/-- Whether a signature verifies over a message with a public key under ML-DSA-65 (FIPS 204), in its pure form with an empty
context string, which R223 names and the spec does not define (log 46). -/
opaque Config.mldsa65 : (key msg sig : List Byte) → Bool

/-- The public-key digest that the fuses of a key slot hold (R223, log 46). -/
opaque Config.fuseDigest : Nat → Nat

/-- Whether the revocation fuse of a key slot is blown (R223, log 46). -/
opaque Config.revoked : Nat → Bool

end Sys2Proof
end

