-- ==== Sys2Proof/Machine/Map.lean ====
section
/-! DEFINITION. Finite maps as plain data in one canonical form: a list of keys and values, keys strictly rising, no
value equal to the one an unlisted key reads as. Registers, memory and every array of hidden state are held so. -/

namespace Sys2Proof.Machine

/-- A map from natural-number keys; what an unlisted key reads as is named at each access. -/
abbrev SMap (α : Type) := List (Nat × α)

/-- The value at key `k`, `d` where the key is not listed. -/
def SMap.get {α : Type} (d : α) : SMap α → Nat → α
  | [], _ => d
  | (j, v) :: m, k => if j = k then v else SMap.get d m k

/-- The map without key `k`. -/
def SMap.erase {α : Type} : SMap α → Nat → SMap α
  | [], _ => []
  | (j, v) :: m, k => if j = k then SMap.erase m k else (j, v) :: SMap.erase m k

/-- Insert a pair before the first greater key. -/
def SMap.insert {α : Type} : SMap α → Nat → α → SMap α
  | [], k, v => [(k, v)]
  | (j, w) :: m, k, v => if k < j then (k, v) :: (j, w) :: m else (j, w) :: SMap.insert m k v

/-- Write `v` at key `k`; the value an unlisted key reads as removes the entry. -/
def SMap.set {α : Type} [DecidableEq α] (d : α) (m : SMap α) (k : Nat) (v : α) : SMap α :=
  if v = d then m.erase k else (m.erase k).insert k v

/-- Change the value at key `k`. -/
def SMap.upd {α : Type} [DecidableEq α] (d : α) (m : SMap α) (k : Nat) (f : α → α) : SMap α :=
  m.set d k (f (m.get d k))

/-- Every key of the list is above `lo`. -/
def SMap.above {α : Type} (lo : Nat) (m : SMap α) : Bool :=
  m.all (fun e => decide (lo < e.1))

/-- Keys strictly rising. -/
def SMap.sorted {α : Type} : SMap α → Bool
  | [] => true
  | (k, _) :: m => SMap.above k m && SMap.sorted m

/-- The canonical form: keys strictly rising, and no entry equal to `d k`, the value key `k` reads as when unlisted. -/
def SMap.wf {α : Type} [DecidableEq α] (d : Nat → α) (m : SMap α) : Bool :=
  m.sorted && m.all (fun e => decide (e.2 ≠ d e.1))

end Sys2Proof.Machine
end

