-- ==== Sys2Proof/Machine/Regs.lean ====
section
/-! DEFINITION. The register map: every register of the spec as a name, with its block, offset, strides, access masks
(R8) and reset value, and every field of it as a constant. Reserved bits are in no mask (R9). -/

namespace Sys2Proof.Machine

/-- The register blocks (R297, R298). `plsh` and `slsh` are LSH of a pack and of the system, `pjnl` and `sjnl` JNL. -/
inductive Blk where
  | pwm
  | adc
  | sdm
  | cmp
  | pos
  | rsv
  | le
  | muz
  | plsh
  | pjnl
  | spi
  | img
  | time
  | ten
  | sjnl
  | slsh
  | mem
  | dma
  | trc
  | fab
  | eth
  | can
  | pwr
  | thm
  | int
  | mbx
  | chk
  | sched
deriving DecidableEq, Repr

/-- Where a block lies: in each pack's space, in the system space, or private to each core (R297). -/
inductive Space where
  | pack
  | sys
  | priv
deriving DecidableEq, Repr

/-- The space of a block. -/
def Blk.space : Blk → Space
  | .pwm => .pack
  | .adc => .pack
  | .sdm => .pack
  | .cmp => .pack
  | .pos => .pack
  | .rsv => .pack
  | .le => .pack
  | .muz => .pack
  | .plsh => .pack
  | .pjnl => .pack
  | .spi => .pack
  | .img => .sys
  | .time => .sys
  | .ten => .sys
  | .sjnl => .sys
  | .slsh => .sys
  | .mem => .sys
  | .dma => .sys
  | .trc => .sys
  | .fab => .sys
  | .eth => .sys
  | .can => .sys
  | .pwr => .sys
  | .thm => .sys
  | .int => .priv
  | .mbx => .priv
  | .chk => .priv
  | .sched => .priv

/-- The base of a block: an offset in the pack space, or a local address. -/
def Blk.base : Blk → Nat
  | .pwm => 0x0
  | .adc => 0x100000
  | .sdm => 0x140000
  | .cmp => 0x180000
  | .pos => 0x200000
  | .rsv => 0x280000
  | .le => 0x300000
  | .muz => 0x380000
  | .plsh => 0x3C0000
  | .pjnl => 0x3E0000
  | .spi => 0x3F0000
  | .img => 0x50000000
  | .time => 0x50100000
  | .ten => 0x50200000
  | .sjnl => 0x50300000
  | .slsh => 0x50400000
  | .mem => 0x50500000
  | .dma => 0x50600000
  | .trc => 0x50700000
  | .fab => 0x51000000
  | .eth => 0x52000000
  | .can => 0x53000000
  | .pwr => 0x54000000
  | .thm => 0x56000000
  | .int => 0xE0000000
  | .mbx => 0xE0010000
  | .chk => 0xE0020000
  | .sched => 0xE0030000

/-- The first address beyond a block; a block extends to the next block's base (R297, R298). -/
def Blk.limit : Blk → Nat
  | .pwm => 0x100000
  | .adc => 0x140000
  | .sdm => 0x180000
  | .cmp => 0x200000
  | .pos => 0x280000
  | .rsv => 0x300000
  | .le => 0x380000
  | .muz => 0x3C0000
  | .plsh => 0x3E0000
  | .pjnl => 0x3F0000
  | .spi => 0x400000
  | .img => 0x50100000
  | .time => 0x50200000
  | .ten => 0x50300000
  | .sjnl => 0x50400000
  | .slsh => 0x50500000
  | .mem => 0x50600000
  | .dma => 0x50700000
  | .trc => 0x51000000
  | .fab => 0x52000000
  | .eth => 0x53000000
  | .can => 0x54000000
  | .pwr => 0x55000000
  | .thm => 0x57000000
  | .int => 0xE0010000
  | .mbx => 0xE0020000
  | .chk => 0xE0030000
  | .sched => 0xE0040000

/-- The registers of the device. Registers that repeat by pack, core or index are one name with indices. -/
inductive RegName where
  | PWM_BASE
  | PWM_STATUS
  | PWM_BASE_TAG_LO
  | PWM_BASE_TAG_HI
  | PWM_LEG_ON
  | PWM_LEG_OFF
  | PWM_SET_CTL
  | PWM_SET_CAR
  | PWM_SET_RUN
  | PWM_SET_LOAD
  | PWM_SET_STAT
  | PWM_SET_CNT
  | PWM_SET_TAG_LO
  | PWM_SET_TAG_HI
  | PWM_SET_SDN
  | PWM_MASK_CTL
  | PWM_MASK_PTR
  | PWM_FORCE
  | PWM_MASK
  | PWM_LEGCTL
  | PWM_LEGMIN
  | PWM_LEGPCM
  | PWM_LEGPH
  | PWM_DUTY
  | PWM_CMPR
  | PWM_CMPF
  | PWM_LEGSTAT
  | PWM_LEGW
  | ADC_CTL
  | ADC_STATUS
  | ADC_CNT
  | ADC_EVT_0
  | ADC_EVT_1
  | ADC_EVT_2
  | ADC_ROUTE
  | ADC_IN
  | ADC_ENT_CTL
  | ADC_ENT_HOLD
  | ADC_ENT_DUE
  | ADC_RES
  | ADC_RES_V
  | ADC_RES_TAG_LO
  | ADC_RES_TAG_HI
  | ADC_CAL_OFS
  | ADC_CAL_GAIN
  | ADC_CAL_LVL
  | ADC_CAL_CFG
  | SDM_CH
  | SDM_FLT
  | SDM_OFF
  | SDM_FTHR
  | SDM_CALSEL
  | SDM_STAT
  | SDM_RES
  | SDM_RES_V
  | SDM_RES_TAG_LO
  | SDM_RES_TAG_HI
  | SDM_CAL_OFS
  | SDM_CAL_GAIN
  | SDM_CAL_LVL
  | SDM_CAL_CFG
  | CMP_CFG
  | CMP_FLT
  | CMP_THR
  | CMP_CHK
  | CMP_CHKOFF
  | CMP_STAT
  | CMP_EVTAG_LO
  | CMP_EVTAG_HI
  | CMP_RDBK
  | CMP_CTL
  | CMP_GSTAT
  | POS_CFG
  | POS_HMAP
  | POS_IDX
  | POS_PITCH
  | POS_REF
  | POS_SPDCFG
  | POS_DIAG
  | POS_LAT
  | POS_STAT
  | POS_DSTAT
  | POS_CNT
  | POS_WRAP
  | POS_SPD
  | POS_SECT
  | POS_ETAG_LO
  | POS_ETAG_HI
  | POS_ICAP
  | POS_IERR
  | POS_ITAG_LO
  | POS_ITAG_HI
  | POS_SCAP
  | POS_SCNT
  | POS_STAG_LO
  | POS_STAG_HI
  | POS_EMU_CFG
  | POS_EMU_POS
  | POS_EMU_STAT
  | POS_EMU_CMD
  | RSV_CTL
  | RSV_EXC
  | RSV_PH
  | RSV_AMP
  | RSV_STAT
  | RSV_START_LO
  | RSV_START_HI
  | RSV_SMP
  | RSV_INFO
  | RSV_TAG_LO
  | RSV_TAG_HI
  | LE_STATUS
  | LE_AX_CMD
  | LE_AX_STAT
  | LE_AX_PROG
  | LE_AX_STEPS
  | LE_AX_RDY
  | LE_AX_POL
  | LE_AX_CNT
  | LE_AX_IN
  | LE_AX_LTAG_LO
  | LE_AX_LTAG_HI
  | LE_FE_CFG
  | LE_FE_LIM
  | LE_FE_ERR
  | LE_RAMP_SRC
  | LE_GAIT_CFG
  | LE_GAIT_HYS
  | LE_GAIT_SEL
  | LE_SP
  | LE_RAMP
  | LE_RAMP_V
  | LE_MOUT
  | LE_INPOL
  | LE_GAIT_LO
  | LE_GAIT_HI
  | LE_GAIT_CAL
  | LE_COEF
  | LE_PROGMEM
  | LE_STATE
  | MUZ_CTL
  | MUZ_SWTRIP
  | MUZ_INC
  | MUZ_SEEN
  | MUZ_LIVE
  | MUZ_SRC
  | MUZ_PROT
  | MUZ_PAT
  | MUZ_SET_STAT
  | MUZ_SET_TAG_LO
  | MUZ_SET_TAG_HI
  | MUZ_SET_INC
  | PLSH_FLAG
  | PLSH_FLAG_SET
  | PLSH_FLAG_CLR
  | PLSH_OVR
  | PLSH_RAISE
  | PLSH_PROD
  | PLSH_CONS
  | PLSH_ATTR
  | PLSH_LAST
  | PLSH_TAG_LO
  | PLSH_TAG_HI
  | PJNL_PSTAT
  | PJNL_PFILL
  | PJNL_PMTAG_LO
  | PJNL_PMTAG_HI
  | PJNL_PCTAG_LO
  | PJNL_PCTAG_HI
  | PJNL_PREC
  | SPI_CTL
  | SPI_TRG
  | SPI_CMD
  | SPI_STAT
  | SPI_TAG_LO
  | SPI_TAG_HI
  | SPI_TX
  | SPI_RX
  | IMG_STATUS
  | IMG_ERR
  | IMG_ID
  | IMG_SVN
  | IMG_SWAP_SRC
  | IMG_SWAP_CTL
  | IMG_SWAP_AT_LO
  | IMG_SWAP_AT_HI
  | IMG_SWAP_CMD
  | IMG_SWAP_STAT
  | IMG_SWAP_SCOPE
  | IMG_SWAP_TAG_LO
  | IMG_SWAP_TAG_HI
  | IMG_BANK
  | IMG_BANK_CMD
  | IMG_BANK_SEQ
  | TIME_NOW_LO
  | TIME_NOW_HI
  | TIME_CTL
  | TIME_STATUS
  | TIME_OFFSET
  | TIME_RATE
  | TIME_STEP_LO
  | TIME_STEP_HI
  | TIME_STEP_AT_LO
  | TIME_STEP_AT_HI
  | TIME_ACT_TGT_LO
  | TIME_ACT_TGT_HI
  | TIME_ACT_CTL
  | TIME_ACT_ADDR
  | TIME_ACT_DATA
  | TIME_ACT_STAT
  | TIME_ACT_FIRE_LO
  | TIME_ACT_FIRE_HI
  | TEN_SELF
  | TEN_RST
  | TEN_RST_STAT
  | TEN_MY_STAT
  | TEN_MY_POP
  | TEN_MY_LF_LO
  | TEN_MY_LF_HI
  | TEN_MY_LL_LO
  | TEN_MY_LL_HI
  | TEN_MY_E
  | TEN_CFG
  | TEN_NOTE
  | TEN_AQ
  | TEN_VLOG_STAT
  | TEN_VLOG_POP
  | TEN_VLOG_LF_LO
  | TEN_VLOG_LF_HI
  | TEN_VLOG_LL_LO
  | TEN_VLOG_LL_HI
  | TEN_VLOG_E
  | SJNL_PSTAT
  | SJNL_PFILL
  | SJNL_PMTAG_LO
  | SJNL_PMTAG_HI
  | SJNL_PCTAG_LO
  | SJNL_PCTAG_HI
  | SJNL_PREC
  | JNL_AQ_STAT
  | JNL_AQ_POP
  | JNL_SLOG_STAT
  | JNL_SLOG_POP
  | JNL_SLOG_LF_LO
  | JNL_SLOG_LF_HI
  | JNL_SLOG_LL_LO
  | JNL_SLOG_LL_HI
  | JNL_SLOG_E
  | SLSH_FLAG
  | SLSH_FLAG_SET
  | SLSH_FLAG_CLR
  | SLSH_OVR
  | SLSH_RAISE
  | SLSH_PROD
  | SLSH_CONS
  | SLSH_ATTR
  | SLSH_LAST
  | SLSH_TAG_LO
  | SLSH_TAG_HI
  | LSH_DB
  | MBX_TX
  | MBX_TX_STAT
  | MEM_ELOG_STAT
  | MEM_ELOG_POP
  | MEM_ELOG_LF_LO
  | MEM_ELOG_LF_HI
  | MEM_ELOG_LL_LO
  | MEM_ELOG_LL_HI
  | MEM_ELOG_E
  | MEM_SCRUB_CTL
  | MEM_SCRUB_STAT
  | MEM_INIT_BASE
  | MEM_INIT_CNT
  | MEM_INIT_CMD
  | MEM_INIT_STAT
  | MEM_RETIRE_STAT
  | MEM_NV_SRC
  | MEM_NV_DST
  | MEM_NV_LEN
  | MEM_NV_CMD
  | MEM_NV_STAT
  | MEM_NV_SPARE
  | MEM_REPAIR
  | MEM_RETIRE
  | MEM_RGN_BASE
  | MEM_RGN_LIMIT
  | MEM_RGN_ATTR
  | MEM_WIN_BASE
  | MEM_WIN_CTL
  | DMA_CTL
  | DMA_SRC_LO
  | DMA_SRC_HI
  | DMA_DST_LO
  | DMA_DST_HI
  | DMA_LEN
  | DMA_NEXT
  | DMA_CMD
  | DMA_STAT
  | DMA_TAG_LO
  | DMA_TAG_HI
  | TRC_CTL
  | TRC_STAT
  | TRC_CNT
  | FAB_CTL
  | FAB_NODE
  | FAB_REQ_STAT
  | FAB_LSTAT
  | FAB_LCMD
  | FAB_LCNT
  | FAB_LCNT2
  | FAB_ROUTE
  | FAB_INMAP
  | FAB_MRX
  | FAB_MTX
  | FAB_MTX_CFG
  | FAB_MTX_STAT
  | ETH_Q_BASE
  | ETH_Q_CFG
  | ETH_Q_HEAD
  | ETH_Q_TAIL
  | ETH_Q_STAT
  | CAN_Q_BASE
  | CAN_Q_CFG
  | CAN_Q_HEAD
  | CAN_Q_TAIL
  | CAN_Q_STAT
  | PWR_CMD
  | PWR_STAT
  | PWR_DEN_CTL
  | PWR_AO_CAUSE
  | PWR_AO_WAKE
  | PWR_AO_TAG_LO
  | PWR_AO_TAG_HI
  | PWR_RST_CMD
  | PWR_RST_STAT
  | PWR_PACE_STAT
  | PWR_PACE_SEEN
  | PWR_PACE_SEL
  | PWR_PACE_MEAS
  | PWR_PACE_CNT
  | PWR_WHISTLE
  | PWR_D2D_STATUS
  | PWR_SENS_CTL
  | PWR_SENS_STAT
  | THM_THR
  | THM_LSH
  | THM_STAT
  | THM_SEN
  | INT_DOORBELL
  | INT_STAT
  | INT_CNT
  | INT_FAST
  | INT_DBT
  | INT_PEND
  | INT_PEND_SET
  | INT_PEND_CLR
  | INT_MASK
  | INT_MASK_SET
  | INT_MASK_CLR
  | MBX_RX
  | MBX_RX_FULL
  | MBX_RX_STAT
  | MBX_RX_SNAP_TAG_LO
  | MBX_RX_SNAP_TAG_HI
  | MBX_RX_CFG
  | CHK_CTL
  | CHK_STAT
  | CHK_POS
  | SCHED_SAVE
  | SCHED_CMD
  | SCHED_STAT
  | SCHED_CNT
  | SCHED_FP
  | SCHED_DF_EPC
  | SCHED_DF_CAUSE
  | SCHED_DF_VAL
  | SCHED_DF_STATUS
  | SCHED_CTX
  | SCHED_CTX_ENTRY
  | SCHED_CTX_ARG
  | SCHED_CTX_STAT
deriving DecidableEq, Repr

/-- A register's place and access masks: its block, its offset, the stride and count of each index, the bits firmware
writes (`rw`), clears by writing one (`w1c`) and clears by reading (`rc`), and its reset value. -/
structure Row where
  blk : Blk
  off : Nat
  sI : Nat := 0
  nI : Nat := 1
  sJ : Nat := 0
  nJ : Nat := 1
  rw : Word := 0
  w1c : Word := 0
  rc : Word := 0
  rst : Word := 0
deriving DecidableEq, Repr

/-- The row of each register, as its chapter's table gives it. -/
def RegName.row : RegName → Row
  | .PWM_BASE => { blk := .pwm, off := 0x0, rw := 0xFFFFFF, rst := 0xC350 }
  | .PWM_STATUS => { blk := .pwm, off := 0x4, w1c := 0x3, rst := 0x4 }
  | .PWM_BASE_TAG_LO => { blk := .pwm, off := 0x8 }
  | .PWM_BASE_TAG_HI => { blk := .pwm, off := 0xC }
  | .PWM_LEG_ON => { blk := .pwm, off := 0x10 }
  | .PWM_LEG_OFF => { blk := .pwm, off := 0x14 }
  | .PWM_SET_CTL => { blk := .pwm, off := 0x100, sI := 0x40, nI := 6, rw := 0x3FFFFF }
  | .PWM_SET_CAR => { blk := .pwm, off := 0x104, sI := 0x40, nI := 6, rw := 0x3FFFFFFF, rst := 0xC350 }
  | .PWM_SET_RUN => { blk := .pwm, off := 0x108, sI := 0x40, nI := 6, rw := 0x1 }
  | .PWM_SET_LOAD => { blk := .pwm, off := 0x10C, sI := 0x40, nI := 6 }
  | .PWM_SET_STAT => { blk := .pwm, off := 0x110, sI := 0x40, nI := 6, w1c := 0x3FC }
  | .PWM_SET_CNT => { blk := .pwm, off := 0x114, sI := 0x40, nI := 6, rc := 0xFFFFFFFF }
  | .PWM_SET_TAG_LO => { blk := .pwm, off := 0x118, sI := 0x40, nI := 6 }
  | .PWM_SET_TAG_HI => { blk := .pwm, off := 0x11C, sI := 0x40, nI := 6 }
  | .PWM_SET_SDN => { blk := .pwm, off := 0x120, sI := 0x40, nI := 6, rw := 0x3FF, rst := 0xA }
  | .PWM_MASK_CTL => { blk := .pwm, off := 0x124, sI := 0x40, nI := 6, rw := 0xFFFF07FF, rst := 0x280 }
  | .PWM_MASK_PTR => { blk := .pwm, off := 0x128, sI := 0x40, nI := 6, rw := 0x3F, w1c := 0x600, rc := 0xFFFF0000 }
  | .PWM_FORCE => { blk := .pwm, off := 0x12C, sI := 0x40, nI := 6, rw := 0xFFF }
  | .PWM_MASK => { blk := .pwm, off := 0x400, sI := 0x40, nI := 6, sJ := 0x4, nJ := 16, rw := 0xFFF }
  | .PWM_LEGCTL => { blk := .pwm, off := 0x800, sI := 0x40, nI := 18, rw := 0xFFFFFF3, rst := 0x640640 }
  | .PWM_LEGMIN => { blk := .pwm, off := 0x804, sI := 0x40, nI := 18, rw := 0xFFF0FFF }
  | .PWM_LEGPCM => { blk := .pwm, off := 0x808, sI := 0x40, nI := 18, rw := 0xFFFF000F }
  | .PWM_LEGPH => { blk := .pwm, off := 0x80C, sI := 0x40, nI := 18, rw := 0xFFFFFFF }
  | .PWM_DUTY => { blk := .pwm, off := 0x810, sI := 0x40, nI := 18, rw := 0xFFFFFFFF }
  | .PWM_CMPR => { blk := .pwm, off := 0x814, sI := 0x40, nI := 18, rw := 0xFFFFFFF }
  | .PWM_CMPF => { blk := .pwm, off := 0x818, sI := 0x40, nI := 18, rw := 0xFFFFFFF }
  | .PWM_LEGSTAT => { blk := .pwm, off := 0x81C, sI := 0x40, nI := 18, w1c := 0x3F00, rst := 0xC }
  | .PWM_LEGW => { blk := .pwm, off := 0x820, sI := 0x40, nI := 18 }
  | .ADC_CTL => { blk := .adc, off := 0x0 }
  | .ADC_STATUS => { blk := .adc, off := 0x4, w1c := 0x108 }
  | .ADC_CNT => { blk := .adc, off := 0x8, rc := 0xFFFFFFFF }
  | .ADC_EVT_0 => { blk := .adc, off := 0xC, w1c := 0xFFFFFFFF }
  | .ADC_EVT_1 => { blk := .adc, off := 0x10, w1c := 0xFFFFFFFF }
  | .ADC_EVT_2 => { blk := .adc, off := 0x14, w1c := 0xFFFFFFFF }
  | .ADC_ROUTE => { blk := .adc, off := 0x100, sI := 0x4, nI := 16, rw := 0xFF, rst := 0xE }
  | .ADC_IN => { blk := .adc, off := 0x140, sI := 0x4, nI := 16, rw := 0xFFF, rst := 0xE0 }
  | .ADC_ENT_CTL => { blk := .adc, off := 0x200, sI := 0x10, nI := 32, rw := 0x7FFF, rst := 0x600 }
  | .ADC_ENT_HOLD => { blk := .adc, off := 0x204, sI := 0x10, nI := 32, rw := 0xFFFFFF }
  | .ADC_ENT_DUE => { blk := .adc, off := 0x208, sI := 0x10, nI := 32, rw := 0xFFFFFF }
  | .ADC_RES => { blk := .adc, off := 0x400, sI := 0x10, nI := 16, rc := 0x80000000 }
  | .ADC_RES_V => { blk := .adc, off := 0x404, sI := 0x10, nI := 16 }
  | .ADC_RES_TAG_LO => { blk := .adc, off := 0x408, sI := 0x10, nI := 16 }
  | .ADC_RES_TAG_HI => { blk := .adc, off := 0x40C, sI := 0x10, nI := 16 }
  | .ADC_CAL_OFS => { blk := .adc, off := 0x600, sI := 0x10, nI := 64, rw := 0xFFFFFFFF }
  | .ADC_CAL_GAIN => { blk := .adc, off := 0x604, sI := 0x10, nI := 64, rw := 0xFFFFFFFF, rst := 0x3F800000 }
  | .ADC_CAL_LVL => { blk := .adc, off := 0x608, sI := 0x10, nI := 64, rw := 0xFFFFFFFF }
  | .ADC_CAL_CFG => { blk := .adc, off := 0x60C, sI := 0x10, nI := 64, rw := 0x7 }
  | .SDM_CH => { blk := .sdm, off := 0x0, sI := 0x40, nI := 8, rw := 0x7FFFFF, rst := 0x607014 }
  | .SDM_FLT => { blk := .sdm, off := 0x4, sI := 0x40, nI := 8, rw := 0x7FFFFF, rst := 0xA1203 }
  | .SDM_OFF => { blk := .sdm, off := 0x8, sI := 0x40, nI := 8, rw := 0xFFFFFF }
  | .SDM_FTHR => { blk := .sdm, off := 0xC, sI := 0x40, nI := 8, rw := 0xFFFFFFFF, rst := 0x7FFF8000 }
  | .SDM_CALSEL => { blk := .sdm, off := 0x10, sI := 0x40, nI := 8, rw := 0xF }
  | .SDM_STAT => { blk := .sdm, off := 0x14, sI := 0x40, nI := 8, w1c := 0x7C, rc := 0xFFFF0000 }
  | .SDM_RES => { blk := .sdm, off := 0x20, sI := 0x40, nI := 8 }
  | .SDM_RES_V => { blk := .sdm, off := 0x24, sI := 0x40, nI := 8 }
  | .SDM_RES_TAG_LO => { blk := .sdm, off := 0x28, sI := 0x40, nI := 8 }
  | .SDM_RES_TAG_HI => { blk := .sdm, off := 0x2C, sI := 0x40, nI := 8 }
  | .SDM_CAL_OFS => { blk := .sdm, off := 0x400, sI := 0x10, nI := 32, rw := 0xFFFFFFFF }
  | .SDM_CAL_GAIN => { blk := .sdm, off := 0x404, sI := 0x10, nI := 32, rw := 0xFFFFFFFF, rst := 0x3F800000 }
  | .SDM_CAL_LVL => { blk := .sdm, off := 0x408, sI := 0x10, nI := 32, rw := 0xFFFFFFFF }
  | .SDM_CAL_CFG => { blk := .sdm, off := 0x40C, sI := 0x10, nI := 32, rw := 0x7 }
  | .CMP_CFG => { blk := .cmp, off := 0x0, sI := 0x40, nI := 16, rw := 0xFFFF, rst := 0x1F0 }
  | .CMP_FLT => { blk := .cmp, off := 0x4, sI := 0x40, nI := 16, rw := 0x1F1F, rst := 0x203 }
  | .CMP_THR => { blk := .cmp, off := 0x8, sI := 0x40, nI := 16, rw := 0x3FF03FF, rst := 0x3FF0000 }
  | .CMP_CHK => { blk := .cmp, off := 0xC, sI := 0x40, nI := 16, rw := 0x7FF, rst := 0x60 }
  | .CMP_CHKOFF => { blk := .cmp, off := 0x10, sI := 0x40, nI := 16, rw := 0xFFFFFF }
  | .CMP_STAT => { blk := .cmp, off := 0x14, sI := 0x40, nI := 16, w1c := 0x12FC, rc := 0xFFFF0000 }
  | .CMP_EVTAG_LO => { blk := .cmp, off := 0x18, sI := 0x40, nI := 16 }
  | .CMP_EVTAG_HI => { blk := .cmp, off := 0x1C, sI := 0x40, nI := 16 }
  | .CMP_RDBK => { blk := .cmp, off := 0x20, sI := 0x40, nI := 16 }
  | .CMP_CTL => { blk := .cmp, off := 0x400 }
  | .CMP_GSTAT => { blk := .cmp, off := 0x404, w1c := 0x8 }
  | .POS_CFG => { blk := .pos, off := 0x0, sI := 0x100, nI := 6, rw := 0x7FFFFFFF, rst := 0x70 }
  | .POS_HMAP => { blk := .pos, off := 0x4, sI := 0x100, nI := 6, rw := 0x3FFFF, rst := 0x1D850 }
  | .POS_IDX => { blk := .pos, off := 0x8, sI := 0x100, nI := 6, rw := 0xDFF, rst := 0x102 }
  | .POS_PITCH => { blk := .pos, off := 0xC, sI := 0x100, nI := 6, rw := 0xFFFFFFFF, rst := 0x1 }
  | .POS_REF => { blk := .pos, off := 0x10, sI := 0x100, nI := 6, rw := 0xFFFFFFFF }
  | .POS_SPDCFG => { blk := .pos, off := 0x14, sI := 0x100, nI := 6, rw := 0xFFFFFFFF, rst := 0x19018081 }
  | .POS_DIAG => { blk := .pos, off := 0x18, sI := 0x100, nI := 6, rw := 0x1FFFF, rst := 0x814 }
  | .POS_LAT => { blk := .pos, off := 0x1C, sI := 0x100, nI := 6, rw := 0xFFFFFF }
  | .POS_STAT => { blk := .pos, off := 0x20, sI := 0x100, nI := 6, w1c := 0x7FF, rst := 0x800 }
  | .POS_DSTAT => { blk := .pos, off := 0x24, sI := 0x100, nI := 6, w1c := 0xFFF }
  | .POS_CNT => { blk := .pos, off := 0x28, sI := 0x100, nI := 6, rw := 0xFFFFFFFF }
  | .POS_WRAP => { blk := .pos, off := 0x2C, sI := 0x100, nI := 6 }
  | .POS_SPD => { blk := .pos, off := 0x30, sI := 0x100, nI := 6 }
  | .POS_SECT => { blk := .pos, off := 0x34, sI := 0x100, nI := 6 }
  | .POS_ETAG_LO => { blk := .pos, off := 0x38, sI := 0x100, nI := 6 }
  | .POS_ETAG_HI => { blk := .pos, off := 0x3C, sI := 0x100, nI := 6 }
  | .POS_ICAP => { blk := .pos, off := 0x40, sI := 0x100, nI := 6 }
  | .POS_IERR => { blk := .pos, off := 0x44, sI := 0x100, nI := 6 }
  | .POS_ITAG_LO => { blk := .pos, off := 0x48, sI := 0x100, nI := 6 }
  | .POS_ITAG_HI => { blk := .pos, off := 0x4C, sI := 0x100, nI := 6 }
  | .POS_SCAP => { blk := .pos, off := 0x50, sI := 0x100, nI := 6 }
  | .POS_SCNT => { blk := .pos, off := 0x54, sI := 0x100, nI := 6, rc := 0xFFFF }
  | .POS_STAG_LO => { blk := .pos, off := 0x58, sI := 0x100, nI := 6 }
  | .POS_STAG_HI => { blk := .pos, off := 0x5C, sI := 0x100, nI := 6 }
  | .POS_EMU_CFG => { blk := .pos, off := 0x800, rw := 0xFFFF001F, rst := 0x3FF0000 }
  | .POS_EMU_POS => { blk := .pos, off := 0x804 }
  | .POS_EMU_STAT => { blk := .pos, off := 0x808, w1c := 0x3, rc := 0xFFFF0000 }
  | .POS_EMU_CMD => { blk := .pos, off := 0x80C }
  | .RSV_CTL => { blk := .rsv, off := 0x0, sI := 0x100, nI := 2, rw := 0xFFFFFF, rst := 0xE3240 }
  | .RSV_EXC => { blk := .rsv, off := 0x4, sI := 0x100, nI := 2, rw := 0xFFF0FFF, rst := 0xFFF0618 }
  | .RSV_PH => { blk := .rsv, off := 0x8, sI := 0x100, nI := 2, rw := 0x3FFFF }
  | .RSV_AMP => { blk := .rsv, off := 0xC, sI := 0x100, nI := 2, rw := 0xFFFFFFFF, rst := 0xA0004000 }
  | .RSV_STAT => { blk := .rsv, off := 0x10, sI := 0x100, nI := 2, w1c := 0x1E, rc := 0xFFFF0000 }
  | .RSV_START_LO => { blk := .rsv, off := 0x18, sI := 0x100, nI := 2 }
  | .RSV_START_HI => { blk := .rsv, off := 0x1C, sI := 0x100, nI := 2 }
  | .RSV_SMP => { blk := .rsv, off := 0x40, sI := 0x100, nI := 2, sJ := 0x10, nJ := 4 }
  | .RSV_INFO => { blk := .rsv, off := 0x44, sI := 0x100, nI := 2, sJ := 0x10, nJ := 4 }
  | .RSV_TAG_LO => { blk := .rsv, off := 0x48, sI := 0x100, nI := 2, sJ := 0x10, nJ := 4 }
  | .RSV_TAG_HI => { blk := .rsv, off := 0x4C, sI := 0x100, nI := 2, sJ := 0x10, nJ := 4 }
  | .LE_STATUS => { blk := .le, off := 0x0, rst := 0xE }
  | .LE_AX_CMD => { blk := .le, off := 0x100, sI := 0x100, nI := 6 }
  | .LE_AX_STAT => { blk := .le, off := 0x104, sI := 0x100, nI := 6, w1c := 0x300FFE40 }
  | .LE_AX_PROG => { blk := .le, off := 0x108, sI := 0x100, nI := 6, rw := 0xFFF0FFF }
  | .LE_AX_STEPS => { blk := .le, off := 0x10C, sI := 0x100, nI := 6, rw := 0x1FFF }
  | .LE_AX_RDY => { blk := .le, off := 0x110, sI := 0x100, nI := 6, rw := 0xFFFFFF }
  | .LE_AX_POL => { blk := .le, off := 0x114, sI := 0x100, nI := 6, rw := 0x7FF, rst := 0x83 }
  | .LE_AX_CNT => { blk := .le, off := 0x118, sI := 0x100, nI := 6, rc := 0xFFFFFFFF }
  | .LE_AX_IN => { blk := .le, off := 0x11C, sI := 0x100, nI := 6, rw := 0xFFFF }
  | .LE_AX_LTAG_LO => { blk := .le, off := 0x120, sI := 0x100, nI := 6 }
  | .LE_AX_LTAG_HI => { blk := .le, off := 0x124, sI := 0x100, nI := 6 }
  | .LE_FE_CFG => { blk := .le, off := 0x128, sI := 0x100, nI := 6, rw := 0xFFFFFF7F }
  | .LE_FE_LIM => { blk := .le, off := 0x12C, sI := 0x100, nI := 6, rw := 0xFFFFFFFF, rst := 0x7F800000 }
  | .LE_FE_ERR => { blk := .le, off := 0x130, sI := 0x100, nI := 6 }
  | .LE_RAMP_SRC => { blk := .le, off := 0x134, sI := 0x100, nI := 6, rw := 0xFFFF }
  | .LE_GAIT_CFG => { blk := .le, off := 0x138, sI := 0x100, nI := 6, rw := 0x7FFFF }
  | .LE_GAIT_HYS => { blk := .le, off := 0x13C, sI := 0x100, nI := 6, rw := 0xFFFFFFFF }
  | .LE_GAIT_SEL => { blk := .le, off := 0x140, sI := 0x100, nI := 6, rw := 0x3C0, rc := 0xFFFF0000 }
  | .LE_SP => { blk := .le, off := 0x150, sI := 0x100, nI := 6, sJ := 0x4, nJ := 4, rw := 0xFFFFFFFF }
  | .LE_RAMP => { blk := .le, off := 0x160, sI := 0x100, nI := 6, sJ := 0x4, nJ := 4, rw := 0xFFFFFFFF, rst := 0x7F800000 }
  | .LE_RAMP_V => { blk := .le, off := 0x170, sI := 0x100, nI := 6, sJ := 0x4, nJ := 4 }
  | .LE_MOUT => { blk := .le, off := 0x180, sI := 0x100, nI := 6, sJ := 0x4, nJ := 8 }
  | .LE_INPOL => { blk := .le, off := 0x800, sI := 0x40, nI := 6, sJ := 0x4, nJ := 16, rw := 0x1FFFF }
  | .LE_GAIT_LO => { blk := .le, off := 0xA00, sI := 0x80, nI := 6, sJ := 0x10, nJ := 8, rw := 0xFFFFFFFF }
  | .LE_GAIT_HI => { blk := .le, off := 0xA04, sI := 0x80, nI := 6, sJ := 0x10, nJ := 8, rw := 0xFFFFFFFF, rst := 0x7F800000 }
  | .LE_GAIT_CAL => { blk := .le, off := 0xA08, sI := 0x80, nI := 6, sJ := 0x10, nJ := 8, rw := 0xFFFFFFFF }
  | .LE_COEF => { blk := .le, off := 0x10000, sI := 0x1000, nI := 6, sJ := 0x4, nJ := 1024, rw := 0xFFFFFFFF }
  | .LE_PROGMEM => { blk := .le, off := 0x20000, sI := 0x4, nI := 4096 }
  | .LE_STATE => { blk := .le, off := 0x30000, sI := 0x400, nI := 6, sJ := 0x4, nJ := 256 }
  | .MUZ_CTL => { blk := .muz, off := 0x0, rw := 0xFF, rst := 0x1 }
  | .MUZ_SWTRIP => { blk := .muz, off := 0x4 }
  | .MUZ_INC => { blk := .muz, off := 0x8, w1c := 0x800000 }
  | .MUZ_SEEN => { blk := .muz, off := 0x10, sI := 0x4, nI := 3, w1c := 0xFFFFFFFF }
  | .MUZ_LIVE => { blk := .muz, off := 0x20, sI := 0x4, nI := 3 }
  | .MUZ_SRC => { blk := .muz, off := 0x100, sI := 0x4, nI := 76, rw := 0x7F3F, rst := 0x1F00 }
  | .MUZ_PROT => { blk := .muz, off := 0x300, sI := 0x4, nI := 18, rw := 0x3FFF, rst := 0x430 }
  | .MUZ_PAT => { blk := .muz, off := 0x400, sI := 0x20, nI := 6, rw := 0x3 }
  | .MUZ_SET_STAT => { blk := .muz, off := 0x404, sI := 0x20, nI := 6, w1c := 0x61, rst := 0x7F00 }
  | .MUZ_SET_TAG_LO => { blk := .muz, off := 0x408, sI := 0x20, nI := 6 }
  | .MUZ_SET_TAG_HI => { blk := .muz, off := 0x40C, sI := 0x20, nI := 6 }
  | .MUZ_SET_INC => { blk := .muz, off := 0x410, sI := 0x20, nI := 6, rc := 0xFFFF0000 }
  | .PLSH_FLAG => { blk := .plsh, off := 0x0, sI := 0x4, nI := 2 }
  | .PLSH_FLAG_SET => { blk := .plsh, off := 0x8, sI := 0x4, nI := 2 }
  | .PLSH_FLAG_CLR => { blk := .plsh, off := 0x10, sI := 0x4, nI := 2 }
  | .PLSH_OVR => { blk := .plsh, off := 0x18, sI := 0x4, nI := 2, w1c := 0xFFFFFFFF }
  | .PLSH_RAISE => { blk := .plsh, off := 0x20 }
  | .PLSH_PROD => { blk := .plsh, off := 0x100, sI := 0x20, nI := 64 }
  | .PLSH_CONS => { blk := .plsh, off := 0x104, sI := 0x20, nI := 64 }
  | .PLSH_ATTR => { blk := .plsh, off := 0x108, sI := 0x20, nI := 64, rst := 0x2 }
  | .PLSH_LAST => { blk := .plsh, off := 0x10C, sI := 0x20, nI := 64, rc := 0xFFFF0000 }
  | .PLSH_TAG_LO => { blk := .plsh, off := 0x110, sI := 0x20, nI := 64 }
  | .PLSH_TAG_HI => { blk := .plsh, off := 0x114, sI := 0x20, nI := 64 }
  | .PJNL_PSTAT => { blk := .pjnl, off := 0x0, sI := 0x20, nI := 2, w1c := 0x3F0, rc := 0xFFFF0000 }
  | .PJNL_PFILL => { blk := .pjnl, off := 0x4, sI := 0x20, nI := 2, rc := 0xFFFF0000 }
  | .PJNL_PMTAG_LO => { blk := .pjnl, off := 0x8, sI := 0x20, nI := 2 }
  | .PJNL_PMTAG_HI => { blk := .pjnl, off := 0xC, sI := 0x20, nI := 2 }
  | .PJNL_PCTAG_LO => { blk := .pjnl, off := 0x10, sI := 0x20, nI := 2 }
  | .PJNL_PCTAG_HI => { blk := .pjnl, off := 0x14, sI := 0x20, nI := 2 }
  | .PJNL_PREC => { blk := .pjnl, off := 0x18, sI := 0x20, nI := 2, rc := 0xFFFF0000 }
  | .SPI_CTL => { blk := .spi, off := 0x0, sI := 0x100, nI := 4, rw := 0xFFFFFFF, rst := 0x7190 }
  | .SPI_TRG => { blk := .spi, off := 0x4, sI := 0x100, nI := 4, rw := 0x3FFFFFFF }
  | .SPI_CMD => { blk := .spi, off := 0x8, sI := 0x100, nI := 4 }
  | .SPI_STAT => { blk := .spi, off := 0xC, sI := 0x100, nI := 4, w1c := 0x1E, rc := 0xFFFF0000 }
  | .SPI_TAG_LO => { blk := .spi, off := 0x10, sI := 0x100, nI := 4 }
  | .SPI_TAG_HI => { blk := .spi, off := 0x14, sI := 0x100, nI := 4 }
  | .SPI_TX => { blk := .spi, off := 0x40, sI := 0x100, nI := 4, sJ := 0x4, nJ := 16, rw := 0xFFFFFFFF }
  | .SPI_RX => { blk := .spi, off := 0x80, sI := 0x100, nI := 4, sJ := 0x4, nJ := 16 }
  | .IMG_STATUS => { blk := .img, off := 0x0, w1c := 0x30 }
  | .IMG_ERR => { blk := .img, off := 0x4 }
  | .IMG_ID => { blk := .img, off := 0x10, sI := 0x4, nI := 4 }
  | .IMG_SVN => { blk := .img, off := 0x20 }
  | .IMG_SWAP_SRC => { blk := .img, off := 0x40, rw := 0xFFFFFFFC }
  | .IMG_SWAP_CTL => { blk := .img, off := 0x44, rw := 0x3 }
  | .IMG_SWAP_AT_LO => { blk := .img, off := 0x48, rw := 0xFFFFFFFF }
  | .IMG_SWAP_AT_HI => { blk := .img, off := 0x4C, rw := 0xFFFFFFFF }
  | .IMG_SWAP_CMD => { blk := .img, off := 0x50 }
  | .IMG_SWAP_STAT => { blk := .img, off := 0x54, w1c := 0x78 }
  | .IMG_SWAP_SCOPE => { blk := .img, off := 0x58 }
  | .IMG_SWAP_TAG_LO => { blk := .img, off := 0x60 }
  | .IMG_SWAP_TAG_HI => { blk := .img, off := 0x64 }
  | .IMG_BANK => { blk := .img, off := 0x80, w1c := 0x400 }
  | .IMG_BANK_CMD => { blk := .img, off := 0x84 }
  | .IMG_BANK_SEQ => { blk := .img, off := 0x88, sI := 0x4, nI := 2 }
  | .TIME_NOW_LO => { blk := .time, off := 0x0 }
  | .TIME_NOW_HI => { blk := .time, off := 0x4 }
  | .TIME_CTL => { blk := .time, off := 0x10, rw := 0xFFF01, rst := 0x30000 }
  | .TIME_STATUS => { blk := .time, off := 0x14, w1c := 0x18, rc := 0xFFFF0000 }
  | .TIME_OFFSET => { blk := .time, off := 0x18 }
  | .TIME_RATE => { blk := .time, off := 0x1C }
  | .TIME_STEP_LO => { blk := .time, off := 0x20 }
  | .TIME_STEP_HI => { blk := .time, off := 0x24 }
  | .TIME_STEP_AT_LO => { blk := .time, off := 0x28 }
  | .TIME_STEP_AT_HI => { blk := .time, off := 0x2C }
  | .TIME_ACT_TGT_LO => { blk := .time, off := 0x1000, sI := 0x20, nI := 64, rw := 0xFFFFFFFF }
  | .TIME_ACT_TGT_HI => { blk := .time, off := 0x1004, sI := 0x20, nI := 64, rw := 0xFFFFFFFF }
  | .TIME_ACT_CTL => { blk := .time, off := 0x1008, sI := 0x20, nI := 64, rw := 0xF }
  | .TIME_ACT_ADDR => { blk := .time, off := 0x100C, sI := 0x20, nI := 64, rw := 0xFFFFFFFF }
  | .TIME_ACT_DATA => { blk := .time, off := 0x1010, sI := 0x20, nI := 64, rw := 0xFFFFFFFF }
  | .TIME_ACT_STAT => { blk := .time, off := 0x1014, sI := 0x20, nI := 64, w1c := 0x1F }
  | .TIME_ACT_FIRE_LO => { blk := .time, off := 0x1018, sI := 0x20, nI := 64 }
  | .TIME_ACT_FIRE_HI => { blk := .time, off := 0x101C, sI := 0x20, nI := 64 }
  | .TEN_SELF => { blk := .ten, off := 0x0 }
  | .TEN_RST => { blk := .ten, off := 0x4 }
  | .TEN_RST_STAT => { blk := .ten, off := 0x8, w1c := 0xFF00 }
  | .TEN_MY_STAT => { blk := .ten, off := 0x100 }
  | .TEN_MY_POP => { blk := .ten, off := 0x104 }
  | .TEN_MY_LF_LO => { blk := .ten, off := 0x108 }
  | .TEN_MY_LF_HI => { blk := .ten, off := 0x10C }
  | .TEN_MY_LL_LO => { blk := .ten, off := 0x110 }
  | .TEN_MY_LL_HI => { blk := .ten, off := 0x114 }
  | .TEN_MY_E => { blk := .ten, off := 0x120, sI := 0x4, nI := 8 }
  | .TEN_CFG => { blk := .ten, off := 0x800, sI := 0x10, nI := 8 }
  | .TEN_NOTE => { blk := .ten, off := 0x804, sI := 0x10, nI := 8 }
  | .TEN_AQ => { blk := .ten, off := 0x808, sI := 0x10, nI := 8 }
  | .TEN_VLOG_STAT => { blk := .ten, off := 0x1000, sI := 0x100, nI := 8, rc := 0xFFFF0000 }
  | .TEN_VLOG_POP => { blk := .ten, off := 0x1004, sI := 0x100, nI := 8 }
  | .TEN_VLOG_LF_LO => { blk := .ten, off := 0x1008, sI := 0x100, nI := 8 }
  | .TEN_VLOG_LF_HI => { blk := .ten, off := 0x100C, sI := 0x100, nI := 8 }
  | .TEN_VLOG_LL_LO => { blk := .ten, off := 0x1010, sI := 0x100, nI := 8 }
  | .TEN_VLOG_LL_HI => { blk := .ten, off := 0x1014, sI := 0x100, nI := 8 }
  | .TEN_VLOG_E => { blk := .ten, off := 0x1020, sI := 0x100, nI := 8, sJ := 0x4, nJ := 8 }
  | .SJNL_PSTAT => { blk := .sjnl, off := 0x0, sI := 0x20, nI := 8, w1c := 0x3F0, rc := 0xFFFF0000 }
  | .SJNL_PFILL => { blk := .sjnl, off := 0x4, sI := 0x20, nI := 8, rc := 0xFFFF0000 }
  | .SJNL_PMTAG_LO => { blk := .sjnl, off := 0x8, sI := 0x20, nI := 8 }
  | .SJNL_PMTAG_HI => { blk := .sjnl, off := 0xC, sI := 0x20, nI := 8 }
  | .SJNL_PCTAG_LO => { blk := .sjnl, off := 0x10, sI := 0x20, nI := 8 }
  | .SJNL_PCTAG_HI => { blk := .sjnl, off := 0x14, sI := 0x20, nI := 8 }
  | .SJNL_PREC => { blk := .sjnl, off := 0x18, sI := 0x20, nI := 8, rc := 0xFFFF0000 }
  | .JNL_AQ_STAT => { blk := .sjnl, off := 0x400, sI := 0x10, nI := 8 }
  | .JNL_AQ_POP => { blk := .sjnl, off := 0x404, sI := 0x10, nI := 8 }
  | .JNL_SLOG_STAT => { blk := .sjnl, off := 0x600, rc := 0xFFFF0000 }
  | .JNL_SLOG_POP => { blk := .sjnl, off := 0x604 }
  | .JNL_SLOG_LF_LO => { blk := .sjnl, off := 0x608 }
  | .JNL_SLOG_LF_HI => { blk := .sjnl, off := 0x60C }
  | .JNL_SLOG_LL_LO => { blk := .sjnl, off := 0x610 }
  | .JNL_SLOG_LL_HI => { blk := .sjnl, off := 0x614 }
  | .JNL_SLOG_E => { blk := .sjnl, off := 0x620, sI := 0x4, nI := 8 }
  | .SLSH_FLAG => { blk := .slsh, off := 0x0, sI := 0x4, nI := 2 }
  | .SLSH_FLAG_SET => { blk := .slsh, off := 0x8, sI := 0x4, nI := 2 }
  | .SLSH_FLAG_CLR => { blk := .slsh, off := 0x10, sI := 0x4, nI := 2 }
  | .SLSH_OVR => { blk := .slsh, off := 0x18, sI := 0x4, nI := 2, w1c := 0xFFFFFFFF }
  | .SLSH_RAISE => { blk := .slsh, off := 0x20 }
  | .SLSH_PROD => { blk := .slsh, off := 0x100, sI := 0x20, nI := 64 }
  | .SLSH_CONS => { blk := .slsh, off := 0x104, sI := 0x20, nI := 64 }
  | .SLSH_ATTR => { blk := .slsh, off := 0x108, sI := 0x20, nI := 64, rst := 0x2 }
  | .SLSH_LAST => { blk := .slsh, off := 0x10C, sI := 0x20, nI := 64, rc := 0xFFFF0000 }
  | .SLSH_TAG_LO => { blk := .slsh, off := 0x110, sI := 0x20, nI := 64 }
  | .SLSH_TAG_HI => { blk := .slsh, off := 0x114, sI := 0x20, nI := 64 }
  | .LSH_DB => { blk := .slsh, off := 0xC00, sI := 0x4, nI := 12 }
  | .MBX_TX => { blk := .slsh, off := 0x10000, sI := 0x400, nI := 12, sJ := 0x4, nJ := 256 }
  | .MBX_TX_STAT => { blk := .slsh, off := 0x20000, sI := 0x40, nI := 12, sJ := 0x4, nJ := 16, w1c := 0x6 }
  | .MEM_ELOG_STAT => { blk := .mem, off := 0x0, rc := 0xFFFF0000 }
  | .MEM_ELOG_POP => { blk := .mem, off := 0x4 }
  | .MEM_ELOG_LF_LO => { blk := .mem, off := 0x8 }
  | .MEM_ELOG_LF_HI => { blk := .mem, off := 0xC }
  | .MEM_ELOG_LL_LO => { blk := .mem, off := 0x10 }
  | .MEM_ELOG_LL_HI => { blk := .mem, off := 0x14 }
  | .MEM_ELOG_E => { blk := .mem, off := 0x20, sI := 0x4, nI := 8 }
  | .MEM_SCRUB_CTL => { blk := .mem, off := 0x40, rw := 0xFFFFFFFF, rst := 0xA03E8 }
  | .MEM_SCRUB_STAT => { blk := .mem, off := 0x44, w1c := 0x3 }
  | .MEM_INIT_BASE => { blk := .mem, off := 0x50, rw := 0xFFFFF000 }
  | .MEM_INIT_CNT => { blk := .mem, off := 0x54, rw := 0x1FFF }
  | .MEM_INIT_CMD => { blk := .mem, off := 0x58 }
  | .MEM_INIT_STAT => { blk := .mem, off := 0x5C, w1c := 0x6 }
  | .MEM_RETIRE_STAT => { blk := .mem, off := 0x60, w1c := 0x2 }
  | .MEM_NV_SRC => { blk := .mem, off := 0x70, rw := 0xFFFFFFC0 }
  | .MEM_NV_DST => { blk := .mem, off := 0x74, rw := 0xFFFFFFC0 }
  | .MEM_NV_LEN => { blk := .mem, off := 0x78, rw := 0x7FC0 }
  | .MEM_NV_CMD => { blk := .mem, off := 0x7C }
  | .MEM_NV_STAT => { blk := .mem, off := 0x80, w1c := 0x7E }
  | .MEM_NV_SPARE => { blk := .mem, off := 0x84, sI := 0x4, nI := 2, rst := 0x29 }
  | .MEM_REPAIR => { blk := .mem, off := 0x90 }
  | .MEM_RETIRE => { blk := .mem, off := 0x100, sI := 0x4, nI := 64, rw := 0xFFFFF001 }
  | .MEM_RGN_BASE => { blk := .mem, off := 0x4000, sI := 0x100, nI := 45, sJ := 0x10, nJ := 16 }
  | .MEM_RGN_LIMIT => { blk := .mem, off := 0x4004, sI := 0x100, nI := 45, sJ := 0x10, nJ := 16 }
  | .MEM_RGN_ATTR => { blk := .mem, off := 0x4008, sI := 0x100, nI := 45, sJ := 0x10, nJ := 16 }
  | .MEM_WIN_BASE => { blk := .mem, off := 0x8000, sI := 0x400, nI := 12, sJ := 0x10, nJ := 64, rw := 0xFFFFFFF }
  | .MEM_WIN_CTL => { blk := .mem, off := 0x8004, sI := 0x400, nI := 12, sJ := 0x10, nJ := 64, rw := 0x7, w1c := 0x8 }
  | .DMA_CTL => { blk := .dma, off := 0x100, sI := 0x40, nI := 32, rw := 0xFFFF }
  | .DMA_SRC_LO => { blk := .dma, off := 0x104, sI := 0x40, nI := 32, rw := 0xFFFFFFFF }
  | .DMA_SRC_HI => { blk := .dma, off := 0x108, sI := 0x40, nI := 32, rw := 0xFFFFF }
  | .DMA_DST_LO => { blk := .dma, off := 0x10C, sI := 0x40, nI := 32, rw := 0xFFFFFFFF }
  | .DMA_DST_HI => { blk := .dma, off := 0x110, sI := 0x40, nI := 32, rw := 0xFFFFF }
  | .DMA_LEN => { blk := .dma, off := 0x114, sI := 0x40, nI := 32, rw := 0xFFFFFC }
  | .DMA_NEXT => { blk := .dma, off := 0x118, sI := 0x40, nI := 32, rw := 0xFFFFFFE0 }
  | .DMA_CMD => { blk := .dma, off := 0x11C, sI := 0x40, nI := 32 }
  | .DMA_STAT => { blk := .dma, off := 0x120, sI := 0x40, nI := 32, w1c := 0x26 }
  | .DMA_TAG_LO => { blk := .dma, off := 0x128, sI := 0x40, nI := 32 }
  | .DMA_TAG_HI => { blk := .dma, off := 0x12C, sI := 0x40, nI := 32 }
  | .TRC_CTL => { blk := .trc, off := 0x0, rw := 0x3F, rst := 0x3E }
  | .TRC_STAT => { blk := .trc, off := 0x4, w1c := 0x30000 }
  | .TRC_CNT => { blk := .trc, off := 0x8, rc := 0xFFFFFFFF }
  | .FAB_CTL => { blk := .fab, off := 0x0, rw := 0xF3FFFF, rst := 0x32 }
  | .FAB_NODE => { blk := .fab, off := 0x4 }
  | .FAB_REQ_STAT => { blk := .fab, off := 0x8, w1c := 0x1, rc := 0xFFFF0000 }
  | .FAB_LSTAT => { blk := .fab, off := 0x10, sI := 0x4, nI := 4, w1c := 0x70000 }
  | .FAB_LCMD => { blk := .fab, off := 0x20, sI := 0x4, nI := 4 }
  | .FAB_LCNT => { blk := .fab, off := 0x30, sI := 0x8, nI := 4, rc := 0xFFFFFFFF }
  | .FAB_LCNT2 => { blk := .fab, off := 0x34, sI := 0x8, nI := 4, rc := 0xFFFFFFFF }
  | .FAB_ROUTE => { blk := .fab, off := 0x400, sI := 0x4, nI := 256, rw := 0x3F }
  | .FAB_INMAP => { blk := .fab, off := 0x800, sI := 0x4, nI := 32 }
  | .FAB_MRX => { blk := .fab, off := 0x900, sI := 0x4, nI := 32 }
  | .FAB_MTX => { blk := .fab, off := 0x1000, sI := 0x40, nI := 16, sJ := 0x4, nJ := 8 }
  | .FAB_MTX_CFG => { blk := .fab, off := 0x1020, sI := 0x40, nI := 16 }
  | .FAB_MTX_STAT => { blk := .fab, off := 0x1024, sI := 0x40, nI := 16, w1c := 0x3E }
  | .ETH_Q_BASE => { blk := .eth, off := 0x1000, sI := 0x20, nI := 64, rw := 0xFFFFFFF0 }
  | .ETH_Q_CFG => { blk := .eth, off := 0x1004, sI := 0x20, nI := 64, rw := 0xFFFFFF, rst := 0x300004 }
  | .ETH_Q_HEAD => { blk := .eth, off := 0x1008, sI := 0x20, nI := 64 }
  | .ETH_Q_TAIL => { blk := .eth, off := 0x100C, sI := 0x20, nI := 64, rw := 0x3FF }
  | .ETH_Q_STAT => { blk := .eth, off := 0x1010, sI := 0x20, nI := 64, w1c := 0x3, rc := 0xFFFF0000 }
  | .CAN_Q_BASE => { blk := .can, off := 0x100, sI := 0x20, nI := 16, rw := 0xFFFFFFF0 }
  | .CAN_Q_CFG => { blk := .can, off := 0x104, sI := 0x20, nI := 16, rw := 0xFFFFFF, rst := 0x300004 }
  | .CAN_Q_HEAD => { blk := .can, off := 0x108, sI := 0x20, nI := 16 }
  | .CAN_Q_TAIL => { blk := .can, off := 0x10C, sI := 0x20, nI := 16, rw := 0x3FF }
  | .CAN_Q_STAT => { blk := .can, off := 0x110, sI := 0x20, nI := 16, w1c := 0x3, rc := 0xFFFF0000 }
  | .PWR_CMD => { blk := .pwr, off := 0x0 }
  | .PWR_STAT => { blk := .pwr, off := 0x4, w1c := 0x6 }
  | .PWR_DEN_CTL => { blk := .pwr, off := 0x8, rw := 0xFFF1 }
  | .PWR_AO_CAUSE => { blk := .pwr, off := 0x10 }
  | .PWR_AO_WAKE => { blk := .pwr, off := 0x14, rw := 0xFFFFFFFF }
  | .PWR_AO_TAG_LO => { blk := .pwr, off := 0x18 }
  | .PWR_AO_TAG_HI => { blk := .pwr, off := 0x1C }
  | .PWR_RST_CMD => { blk := .pwr, off := 0x40 }
  | .PWR_RST_STAT => { blk := .pwr, off := 0x44, w1c := 0xF00, rc := 0xFF000000 }
  | .PWR_PACE_STAT => { blk := .pwr, off := 0x100, sI := 0x4, nI := 4 }
  | .PWR_PACE_SEEN => { blk := .pwr, off := 0x110, sI := 0x4, nI := 4, w1c := 0xFFFFFFFF }
  | .PWR_PACE_SEL => { blk := .pwr, off := 0x120, rw := 0x7F }
  | .PWR_PACE_MEAS => { blk := .pwr, off := 0x124 }
  | .PWR_PACE_CNT => { blk := .pwr, off := 0x128, rc := 0xFFFF }
  | .PWR_WHISTLE => { blk := .pwr, off := 0x200, sI := 0x4, nI := 8, rw := 0x3FFF, w1c := 0x18000, rst := 0x10 }
  | .PWR_D2D_STATUS => { blk := .pwr, off := 0x800, rc := 0xFFFF1000 }
  | .PWR_SENS_CTL => { blk := .pwr, off := 0xA00, sI := 0x8, nI := 8, rw := 0x3 }
  | .PWR_SENS_STAT => { blk := .pwr, off := 0xA04, sI := 0x8, nI := 8, w1c := 0x1C, rc := 0xFFFF0000 }
  | .THM_THR => { blk := .thm, off := 0x0, sI := 0x4, nI := 2, rw := 0x1FFFFFF, rst := 0x19B9187 }
  | .THM_LSH => { blk := .thm, off := 0x8, rw := 0x7F }
  | .THM_STAT => { blk := .thm, off := 0xC, w1c := 0x1F0, rc := 0xFFFF0000 }
  | .THM_SEN => { blk := .thm, off := 0x100, sI := 0x4, nI := 12 }
  | .INT_DOORBELL => { blk := .int, off := 0x0 }
  | .INT_STAT => { blk := .int, off := 0x4, w1c := 0x20000 }
  | .INT_CNT => { blk := .int, off := 0x8, rc := 0xFFFFFFFF }
  | .INT_FAST => { blk := .int, off := 0xC, rw := 0xFFFFFFFF }
  | .INT_DBT => { blk := .int, off := 0x10 }
  | .INT_PEND => { blk := .int, off := 0x100, sI := 0x4, nI := 32 }
  | .INT_PEND_SET => { blk := .int, off := 0x180, sI := 0x4, nI := 32 }
  | .INT_PEND_CLR => { blk := .int, off := 0x200, sI := 0x4, nI := 32 }
  | .INT_MASK => { blk := .int, off := 0x280, sI := 0x4, nI := 32, rst := 0xFFFFFFFF }
  | .INT_MASK_SET => { blk := .int, off := 0x300, sI := 0x4, nI := 32 }
  | .INT_MASK_CLR => { blk := .int, off := 0x380, sI := 0x4, nI := 32 }
  | .MBX_RX => { blk := .mbx, off := 0x0, sI := 0x40, nI := 16, sJ := 0x4, nJ := 8 }
  | .MBX_RX_FULL => { blk := .mbx, off := 0x400 }
  | .MBX_RX_STAT => { blk := .mbx, off := 0x404, w1c := 0xFFFFFFFF }
  | .MBX_RX_SNAP_TAG_LO => { blk := .mbx, off := 0x440 }
  | .MBX_RX_SNAP_TAG_HI => { blk := .mbx, off := 0x444 }
  | .MBX_RX_CFG => { blk := .mbx, off := 0x500, sI := 0x4, nI := 16 }
  | .CHK_CTL => { blk := .chk, off := 0x0, rw := 0x3FF, rst := 0x64 }
  | .CHK_STAT => { blk := .chk, off := 0x4, w1c := 0x2 }
  | .CHK_POS => { blk := .chk, off := 0x8 }
  | .SCHED_SAVE => { blk := .sched, off := 0x0, rw := 0xFFFFFE00 }
  | .SCHED_CMD => { blk := .sched, off := 0x4 }
  | .SCHED_STAT => { blk := .sched, off := 0x8, rst := 0x7040 }
  | .SCHED_CNT => { blk := .sched, off := 0xC, rc := 0xFFFFFFFF }
  | .SCHED_FP => { blk := .sched, off := 0x10 }
  | .SCHED_DF_EPC => { blk := .sched, off := 0x20 }
  | .SCHED_DF_CAUSE => { blk := .sched, off := 0x24 }
  | .SCHED_DF_VAL => { blk := .sched, off := 0x28 }
  | .SCHED_DF_STATUS => { blk := .sched, off := 0x2C }
  | .SCHED_CTX => { blk := .sched, off := 0x100, sI := 0x10, nI := 32, rw := 0x1FFFF }
  | .SCHED_CTX_ENTRY => { blk := .sched, off := 0x104, sI := 0x10, nI := 32, rw := 0xFFFFFFFC }
  | .SCHED_CTX_ARG => { blk := .sched, off := 0x108, sI := 0x10, nI := 32, rw := 0xFFFFFFFF }
  | .SCHED_CTX_STAT => { blk := .sched, off := 0x10C, sI := 0x10, nI := 32 }

/-- The registers of each block, in the order of their offsets. -/
def Blk.regs : Blk → List RegName
  | .pwm => [.PWM_BASE, .PWM_STATUS, .PWM_BASE_TAG_LO, .PWM_BASE_TAG_HI, .PWM_LEG_ON, .PWM_LEG_OFF, .PWM_SET_CTL,
      .PWM_SET_CAR, .PWM_SET_RUN, .PWM_SET_LOAD, .PWM_SET_STAT, .PWM_SET_CNT, .PWM_SET_TAG_LO,
      .PWM_SET_TAG_HI, .PWM_SET_SDN, .PWM_MASK_CTL, .PWM_MASK_PTR, .PWM_FORCE, .PWM_MASK, .PWM_LEGCTL,
      .PWM_LEGMIN, .PWM_LEGPCM, .PWM_LEGPH, .PWM_DUTY, .PWM_CMPR, .PWM_CMPF, .PWM_LEGSTAT, .PWM_LEGW]
  | .adc => [.ADC_CTL, .ADC_STATUS, .ADC_CNT, .ADC_EVT_0, .ADC_EVT_1, .ADC_EVT_2, .ADC_ROUTE, .ADC_IN,
      .ADC_ENT_CTL, .ADC_ENT_HOLD, .ADC_ENT_DUE, .ADC_RES, .ADC_RES_V, .ADC_RES_TAG_LO, .ADC_RES_TAG_HI,
      .ADC_CAL_OFS, .ADC_CAL_GAIN, .ADC_CAL_LVL, .ADC_CAL_CFG]
  | .sdm => [.SDM_CH, .SDM_FLT, .SDM_OFF, .SDM_FTHR, .SDM_CALSEL, .SDM_STAT, .SDM_RES, .SDM_RES_V,
      .SDM_RES_TAG_LO, .SDM_RES_TAG_HI, .SDM_CAL_OFS, .SDM_CAL_GAIN, .SDM_CAL_LVL, .SDM_CAL_CFG]
  | .cmp => [.CMP_CFG, .CMP_FLT, .CMP_THR, .CMP_CHK, .CMP_CHKOFF, .CMP_STAT, .CMP_EVTAG_LO, .CMP_EVTAG_HI,
      .CMP_RDBK, .CMP_CTL, .CMP_GSTAT]
  | .pos => [.POS_CFG, .POS_HMAP, .POS_IDX, .POS_PITCH, .POS_REF, .POS_SPDCFG, .POS_DIAG, .POS_LAT, .POS_STAT,
      .POS_DSTAT, .POS_CNT, .POS_WRAP, .POS_SPD, .POS_SECT, .POS_ETAG_LO, .POS_ETAG_HI, .POS_ICAP,
      .POS_IERR, .POS_ITAG_LO, .POS_ITAG_HI, .POS_SCAP, .POS_SCNT, .POS_STAG_LO, .POS_STAG_HI,
      .POS_EMU_CFG, .POS_EMU_POS, .POS_EMU_STAT, .POS_EMU_CMD]
  | .rsv => [.RSV_CTL, .RSV_EXC, .RSV_PH, .RSV_AMP, .RSV_STAT, .RSV_START_LO, .RSV_START_HI, .RSV_SMP, .RSV_INFO,
      .RSV_TAG_LO, .RSV_TAG_HI]
  | .le => [.LE_STATUS, .LE_AX_CMD, .LE_AX_STAT, .LE_AX_PROG, .LE_AX_STEPS, .LE_AX_RDY, .LE_AX_POL, .LE_AX_CNT,
      .LE_AX_IN, .LE_AX_LTAG_LO, .LE_AX_LTAG_HI, .LE_FE_CFG, .LE_FE_LIM, .LE_FE_ERR, .LE_RAMP_SRC,
      .LE_GAIT_CFG, .LE_GAIT_HYS, .LE_GAIT_SEL, .LE_SP, .LE_RAMP, .LE_RAMP_V, .LE_MOUT, .LE_INPOL,
      .LE_GAIT_LO, .LE_GAIT_HI, .LE_GAIT_CAL, .LE_COEF, .LE_PROGMEM, .LE_STATE]
  | .muz => [.MUZ_CTL, .MUZ_SWTRIP, .MUZ_INC, .MUZ_SEEN, .MUZ_LIVE, .MUZ_SRC, .MUZ_PROT, .MUZ_PAT, .MUZ_SET_STAT,
      .MUZ_SET_TAG_LO, .MUZ_SET_TAG_HI, .MUZ_SET_INC]
  | .plsh => [.PLSH_FLAG, .PLSH_FLAG_SET, .PLSH_FLAG_CLR, .PLSH_OVR, .PLSH_RAISE, .PLSH_PROD, .PLSH_CONS,
      .PLSH_ATTR, .PLSH_LAST, .PLSH_TAG_LO, .PLSH_TAG_HI]
  | .pjnl => [.PJNL_PSTAT, .PJNL_PFILL, .PJNL_PMTAG_LO, .PJNL_PMTAG_HI, .PJNL_PCTAG_LO, .PJNL_PCTAG_HI, .PJNL_PREC]
  | .spi => [.SPI_CTL, .SPI_TRG, .SPI_CMD, .SPI_STAT, .SPI_TAG_LO, .SPI_TAG_HI, .SPI_TX, .SPI_RX]
  | .img => [.IMG_STATUS, .IMG_ERR, .IMG_ID, .IMG_SVN, .IMG_SWAP_SRC, .IMG_SWAP_CTL, .IMG_SWAP_AT_LO,
      .IMG_SWAP_AT_HI, .IMG_SWAP_CMD, .IMG_SWAP_STAT, .IMG_SWAP_SCOPE, .IMG_SWAP_TAG_LO, .IMG_SWAP_TAG_HI,
      .IMG_BANK, .IMG_BANK_CMD, .IMG_BANK_SEQ]
  | .time => [.TIME_NOW_LO, .TIME_NOW_HI, .TIME_CTL, .TIME_STATUS, .TIME_OFFSET, .TIME_RATE, .TIME_STEP_LO,
      .TIME_STEP_HI, .TIME_STEP_AT_LO, .TIME_STEP_AT_HI, .TIME_ACT_TGT_LO, .TIME_ACT_TGT_HI, .TIME_ACT_CTL,
      .TIME_ACT_ADDR, .TIME_ACT_DATA, .TIME_ACT_STAT, .TIME_ACT_FIRE_LO, .TIME_ACT_FIRE_HI]
  | .ten => [.TEN_SELF, .TEN_RST, .TEN_RST_STAT, .TEN_MY_STAT, .TEN_MY_POP, .TEN_MY_LF_LO, .TEN_MY_LF_HI,
      .TEN_MY_LL_LO, .TEN_MY_LL_HI, .TEN_MY_E, .TEN_CFG, .TEN_NOTE, .TEN_AQ, .TEN_VLOG_STAT, .TEN_VLOG_POP,
      .TEN_VLOG_LF_LO, .TEN_VLOG_LF_HI, .TEN_VLOG_LL_LO, .TEN_VLOG_LL_HI, .TEN_VLOG_E]
  | .sjnl => [.SJNL_PSTAT, .SJNL_PFILL, .SJNL_PMTAG_LO, .SJNL_PMTAG_HI, .SJNL_PCTAG_LO, .SJNL_PCTAG_HI, .SJNL_PREC,
      .JNL_AQ_STAT, .JNL_AQ_POP, .JNL_SLOG_STAT, .JNL_SLOG_POP, .JNL_SLOG_LF_LO, .JNL_SLOG_LF_HI,
      .JNL_SLOG_LL_LO, .JNL_SLOG_LL_HI, .JNL_SLOG_E]
  | .slsh => [.SLSH_FLAG, .SLSH_FLAG_SET, .SLSH_FLAG_CLR, .SLSH_OVR, .SLSH_RAISE, .SLSH_PROD, .SLSH_CONS,
      .SLSH_ATTR, .SLSH_LAST, .SLSH_TAG_LO, .SLSH_TAG_HI, .LSH_DB, .MBX_TX, .MBX_TX_STAT]
  | .mem => [.MEM_ELOG_STAT, .MEM_ELOG_POP, .MEM_ELOG_LF_LO, .MEM_ELOG_LF_HI, .MEM_ELOG_LL_LO, .MEM_ELOG_LL_HI,
      .MEM_ELOG_E, .MEM_SCRUB_CTL, .MEM_SCRUB_STAT, .MEM_INIT_BASE, .MEM_INIT_CNT, .MEM_INIT_CMD,
      .MEM_INIT_STAT, .MEM_RETIRE_STAT, .MEM_NV_SRC, .MEM_NV_DST, .MEM_NV_LEN, .MEM_NV_CMD, .MEM_NV_STAT,
      .MEM_NV_SPARE, .MEM_REPAIR, .MEM_RETIRE, .MEM_RGN_BASE, .MEM_RGN_LIMIT, .MEM_RGN_ATTR, .MEM_WIN_BASE,
      .MEM_WIN_CTL]
  | .dma => [.DMA_CTL, .DMA_SRC_LO, .DMA_SRC_HI, .DMA_DST_LO, .DMA_DST_HI, .DMA_LEN, .DMA_NEXT, .DMA_CMD,
      .DMA_STAT, .DMA_TAG_LO, .DMA_TAG_HI]
  | .trc => [.TRC_CTL, .TRC_STAT, .TRC_CNT]
  | .fab => [.FAB_CTL, .FAB_NODE, .FAB_REQ_STAT, .FAB_LSTAT, .FAB_LCMD, .FAB_LCNT, .FAB_LCNT2, .FAB_ROUTE,
      .FAB_INMAP, .FAB_MRX, .FAB_MTX, .FAB_MTX_CFG, .FAB_MTX_STAT]
  | .eth => [.ETH_Q_BASE, .ETH_Q_CFG, .ETH_Q_HEAD, .ETH_Q_TAIL, .ETH_Q_STAT]
  | .can => [.CAN_Q_BASE, .CAN_Q_CFG, .CAN_Q_HEAD, .CAN_Q_TAIL, .CAN_Q_STAT]
  | .pwr => [.PWR_CMD, .PWR_STAT, .PWR_DEN_CTL, .PWR_AO_CAUSE, .PWR_AO_WAKE, .PWR_AO_TAG_LO, .PWR_AO_TAG_HI,
      .PWR_RST_CMD, .PWR_RST_STAT, .PWR_PACE_STAT, .PWR_PACE_SEEN, .PWR_PACE_SEL, .PWR_PACE_MEAS,
      .PWR_PACE_CNT, .PWR_WHISTLE, .PWR_D2D_STATUS, .PWR_SENS_CTL, .PWR_SENS_STAT]
  | .thm => [.THM_THR, .THM_LSH, .THM_STAT, .THM_SEN]
  | .int => [.INT_DOORBELL, .INT_STAT, .INT_CNT, .INT_FAST, .INT_DBT, .INT_PEND, .INT_PEND_SET, .INT_PEND_CLR,
      .INT_MASK, .INT_MASK_SET, .INT_MASK_CLR]
  | .mbx => [.MBX_RX, .MBX_RX_FULL, .MBX_RX_STAT, .MBX_RX_SNAP_TAG_LO, .MBX_RX_SNAP_TAG_HI, .MBX_RX_CFG]
  | .chk => [.CHK_CTL, .CHK_STAT, .CHK_POS]
  | .sched => [.SCHED_SAVE, .SCHED_CMD, .SCHED_STAT, .SCHED_CNT, .SCHED_FP, .SCHED_DF_EPC, .SCHED_DF_CAUSE,
      .SCHED_DF_VAL, .SCHED_DF_STATUS, .SCHED_CTX, .SCHED_CTX_ENTRY, .SCHED_CTX_ARG, .SCHED_CTX_STAT]

/-- The blocks, for address decoding. -/
def allBlks : List Blk := [.pwm, .adc, .sdm, .cmp, .pos, .rsv, .le, .muz, .plsh, .pjnl, .spi, .img, .time, .ten, .sjnl, .slsh, .mem, .dma, .trc, .fab, .eth, .can, .pwr, .thm, .int, .mbx, .chk, .sched]

/-- A field: its register, lowest bit and width. -/
structure Fld where
  r : RegName
  lo : Nat
  w : Nat
deriving DecidableEq, Repr

def F.PWM_BASE.base : Fld := ⟨.PWM_BASE, 0, 24⟩
def F.PWM_STATUS.cfg_clamp : Fld := ⟨.PWM_STATUS, 0, 1⟩
def F.PWM_STATUS.clk_lost : Fld := ⟨.PWM_STATUS, 1, 1⟩
def F.PWM_STATUS.clk_ok : Fld := ⟨.PWM_STATUS, 2, 1⟩
def F.PWM_BASE_TAG_LO.tag : Fld := ⟨.PWM_BASE_TAG_LO, 0, 32⟩
def F.PWM_BASE_TAG_HI.tag : Fld := ⟨.PWM_BASE_TAG_HI, 0, 32⟩
def F.PWM_LEG_ON.en : Fld := ⟨.PWM_LEG_ON, 0, 18⟩
def F.PWM_LEG_OFF.en : Fld := ⟨.PWM_LEG_OFF, 0, 18⟩
def F.PWM_SET_CTL.mode : Fld := ⟨.PWM_SET_CTL, 0, 2⟩
def F.PWM_SET_CTL.ldsync : Fld := ⟨.PWM_SET_CTL, 2, 1⟩
def F.PWM_SET_CTL.mask_en : Fld := ⟨.PWM_SET_CTL, 3, 1⟩
def F.PWM_SET_CTL.legs : Fld := ⟨.PWM_SET_CTL, 4, 18⟩
def F.PWM_SET_CAR.car : Fld := ⟨.PWM_SET_CAR, 0, 24⟩
def F.PWM_SET_CAR.ncar_m1 : Fld := ⟨.PWM_SET_CAR, 24, 6⟩
def F.PWM_SET_RUN.en : Fld := ⟨.PWM_SET_RUN, 0, 1⟩
def F.PWM_SET_RUN.en_pend : Fld := ⟨.PWM_SET_RUN, 1, 1⟩
def F.PWM_SET_LOAD.go : Fld := ⟨.PWM_SET_LOAD, 0, 1⟩
def F.PWM_SET_STAT.cnt_run : Fld := ⟨.PWM_SET_STAT, 0, 1⟩
def F.PWM_SET_STAT.seq : Fld := ⟨.PWM_SET_STAT, 1, 1⟩
def F.PWM_SET_STAT.drop : Fld := ⟨.PWM_SET_STAT, 2, 1⟩
def F.PWM_SET_STAT.short : Fld := ⟨.PWM_SET_STAT, 3, 1⟩
def F.PWM_SET_STAT.term : Fld := ⟨.PWM_SET_STAT, 4, 1⟩
def F.PWM_SET_STAT.maxd : Fld := ⟨.PWM_SET_STAT, 5, 1⟩
def F.PWM_SET_STAT.cfg_clamp : Fld := ⟨.PWM_SET_STAT, 6, 1⟩
def F.PWM_SET_STAT.cfg_err : Fld := ⟨.PWM_SET_STAT, 7, 1⟩
def F.PWM_SET_STAT.dout_ign : Fld := ⟨.PWM_SET_STAT, 8, 1⟩
def F.PWM_SET_STAT.force_clr : Fld := ⟨.PWM_SET_STAT, 9, 1⟩
def F.PWM_SET_STAT.ld_wait : Fld := ⟨.PWM_SET_STAT, 10, 1⟩
def F.PWM_SET_CNT.drop_cnt : Fld := ⟨.PWM_SET_CNT, 0, 16⟩
def F.PWM_SET_CNT.term_cnt : Fld := ⟨.PWM_SET_CNT, 16, 16⟩
def F.PWM_SET_TAG_LO.tag : Fld := ⟨.PWM_SET_TAG_LO, 0, 32⟩
def F.PWM_SET_TAG_HI.tag : Fld := ⟨.PWM_SET_TAG_HI, 0, 32⟩
def F.PWM_SET_SDN.dwell : Fld := ⟨.PWM_SET_SDN, 0, 10⟩
def F.PWM_MASK_CTL.smode : Fld := ⟨.PWM_MASK_CTL, 0, 1⟩
def F.PWM_MASK_CTL.ch : Fld := ⟨.PWM_MASK_CTL, 1, 6⟩
def F.PWM_MASK_CTL.n_ent_m1 : Fld := ⟨.PWM_MASK_CTL, 7, 4⟩
def F.PWM_MASK_CTL.dly : Fld := ⟨.PWM_MASK_CTL, 16, 16⟩
def F.PWM_MASK_PTR.ptr : Fld := ⟨.PWM_MASK_PTR, 0, 4⟩
def F.PWM_MASK_PTR.dir : Fld := ⟨.PWM_MASK_PTR, 4, 1⟩
def F.PWM_MASK_PTR.bank : Fld := ⟨.PWM_MASK_PTR, 5, 1⟩
def F.PWM_MASK_PTR.state : Fld := ⟨.PWM_MASK_PTR, 6, 3⟩
def F.PWM_MASK_PTR.late : Fld := ⟨.PWM_MASK_PTR, 9, 1⟩
def F.PWM_MASK_PTR.ovr : Fld := ⟨.PWM_MASK_PTR, 10, 1⟩
def F.PWM_MASK_PTR.step_cnt : Fld := ⟨.PWM_MASK_PTR, 16, 16⟩
def F.PWM_FORCE.code : Fld := ⟨.PWM_FORCE, 0, 12⟩
def F.PWM_MASK.code : Fld := ⟨.PWM_MASK, 0, 12⟩
def F.PWM_LEGCTL.pol_h : Fld := ⟨.PWM_LEGCTL, 0, 1⟩
def F.PWM_LEGCTL.pol_l : Fld := ⟨.PWM_LEGCTL, 1, 1⟩
def F.PWM_LEGCTL.dt_rise : Fld := ⟨.PWM_LEGCTL, 4, 12⟩
def F.PWM_LEGCTL.dt_fall : Fld := ⟨.PWM_LEGCTL, 16, 12⟩
def F.PWM_LEGMIN.min_pulse : Fld := ⟨.PWM_LEGMIN, 0, 12⟩
def F.PWM_LEGMIN.blank : Fld := ⟨.PWM_LEGMIN, 16, 12⟩
def F.PWM_LEGPCM.cmp : Fld := ⟨.PWM_LEGPCM, 0, 4⟩
def F.PWM_LEGPCM.slope : Fld := ⟨.PWM_LEGPCM, 16, 16⟩
def F.PWM_LEGPH.ph : Fld := ⟨.PWM_LEGPH, 0, 28⟩
def F.PWM_DUTY.d : Fld := ⟨.PWM_DUTY, 0, 32⟩
def F.PWM_CMPR.cmpr : Fld := ⟨.PWM_CMPR, 0, 28⟩
def F.PWM_CMPF.cmpf : Fld := ⟨.PWM_CMPF, 0, 28⟩
def F.PWM_LEGSTAT.out_h : Fld := ⟨.PWM_LEGSTAT, 0, 1⟩
def F.PWM_LEGSTAT.out_l : Fld := ⟨.PWM_LEGSTAT, 1, 1⟩
def F.PWM_LEGSTAT.src : Fld := ⟨.PWM_LEGSTAT, 2, 3⟩
def F.PWM_LEGSTAT.en : Fld := ⟨.PWM_LEGSTAT, 5, 1⟩
def F.PWM_LEGSTAT.en_pend : Fld := ⟨.PWM_LEGSTAT, 6, 1⟩
def F.PWM_LEGSTAT.seq : Fld := ⟨.PWM_LEGSTAT, 7, 1⟩
def F.PWM_LEGSTAT.drop_hi : Fld := ⟨.PWM_LEGSTAT, 8, 1⟩
def F.PWM_LEGSTAT.drop_lo : Fld := ⟨.PWM_LEGSTAT, 9, 1⟩
def F.PWM_LEGSTAT.short : Fld := ⟨.PWM_LEGSTAT, 10, 1⟩
def F.PWM_LEGSTAT.term : Fld := ⟨.PWM_LEGSTAT, 11, 1⟩
def F.PWM_LEGSTAT.maxd : Fld := ⟨.PWM_LEGSTAT, 12, 1⟩
def F.PWM_LEGSTAT.cfg_clamp : Fld := ⟨.PWM_LEGSTAT, 13, 1⟩
def F.PWM_LEGW.w : Fld := ⟨.PWM_LEGW, 0, 28⟩
def F.ADC_CTL.selfcal : Fld := ⟨.ADC_CTL, 0, 1⟩
def F.ADC_STATUS.cal_busy : Fld := ⟨.ADC_STATUS, 0, 1⟩
def F.ADC_STATUS.cal_ok : Fld := ⟨.ADC_STATUS, 1, 1⟩
def F.ADC_STATUS.cal_fail : Fld := ⟨.ADC_STATUS, 2, 1⟩
def F.ADC_STATUS.cfg_clamp : Fld := ⟨.ADC_STATUS, 3, 1⟩
def F.ADC_STATUS.sar_busy : Fld := ⟨.ADC_STATUS, 4, 4⟩
def F.ADC_STATUS.refused : Fld := ⟨.ADC_STATUS, 8, 1⟩
def F.ADC_CNT.ovr_cnt : Fld := ⟨.ADC_CNT, 0, 16⟩
def F.ADC_CNT.miss_cnt : Fld := ⟨.ADC_CNT, 16, 16⟩
def F.ADC_EVT_0.ovr : Fld := ⟨.ADC_EVT_0, 0, 16⟩
def F.ADC_EVT_0.cal_x : Fld := ⟨.ADC_EVT_0, 16, 16⟩
def F.ADC_EVT_1.miss : Fld := ⟨.ADC_EVT_1, 0, 32⟩
def F.ADC_EVT_2.late : Fld := ⟨.ADC_EVT_2, 0, 16⟩
def F.ADC_EVT_2.clamp : Fld := ⟨.ADC_EVT_2, 16, 16⟩
def F.ADC_ROUTE.diff : Fld := ⟨.ADC_ROUTE, 0, 1⟩
def F.ADC_ROUTE.axis : Fld := ⟨.ADC_ROUTE, 1, 3⟩
def F.ADC_ROUTE.le_in : Fld := ⟨.ADC_ROUTE, 4, 4⟩
def F.ADC_IN.auto : Fld := ⟨.ADC_IN, 0, 1⟩
def F.ADC_IN.gain : Fld := ⟨.ADC_IN, 1, 2⟩
def F.ADC_IN.gmin : Fld := ⟨.ADC_IN, 3, 2⟩
def F.ADC_IN.gmax : Fld := ⟨.ADC_IN, 5, 2⟩
def F.ADC_IN.recon_en : Fld := ⟨.ADC_IN, 7, 1⟩
def F.ADC_IN.cal_en : Fld := ⟨.ADC_IN, 8, 1⟩
def F.ADC_IN.cal_gait : Fld := ⟨.ADC_IN, 9, 1⟩
def F.ADC_IN.cal_fix : Fld := ⟨.ADC_IN, 10, 2⟩
def F.ADC_ENT_CTL.en : Fld := ⟨.ADC_ENT_CTL, 0, 1⟩
def F.ADC_ENT_CTL.input : Fld := ⟨.ADC_ENT_CTL, 1, 4⟩
def F.ADC_ENT_CTL.sh : Fld := ⟨.ADC_ENT_CTL, 5, 3⟩
def F.ADC_ENT_CTL.src : Fld := ⟨.ADC_ENT_CTL, 8, 3⟩
def F.ADC_ENT_CTL.div : Fld := ⟨.ADC_ENT_CTL, 11, 4⟩
def F.ADC_ENT_HOLD.hold : Fld := ⟨.ADC_ENT_HOLD, 0, 24⟩
def F.ADC_ENT_DUE.due : Fld := ⟨.ADC_ENT_DUE, 0, 24⟩
def F.ADC_RES.code : Fld := ⟨.ADC_RES, 0, 16⟩
def F.ADC_RES.range : Fld := ⟨.ADC_RES, 16, 2⟩
def F.ADC_RES.flags : Fld := ⟨.ADC_RES, 18, 8⟩
def F.ADC_RES.cal_set : Fld := ⟨.ADC_RES, 26, 2⟩
def F.ADC_RES.new : Fld := ⟨.ADC_RES, 31, 1⟩
def F.ADC_RES_V.v : Fld := ⟨.ADC_RES_V, 0, 32⟩
def F.ADC_RES_TAG_LO.tag : Fld := ⟨.ADC_RES_TAG_LO, 0, 32⟩
def F.ADC_RES_TAG_HI.tag : Fld := ⟨.ADC_RES_TAG_HI, 0, 32⟩
def F.ADC_CAL_OFS.ofs : Fld := ⟨.ADC_CAL_OFS, 0, 32⟩
def F.ADC_CAL_GAIN.gain : Fld := ⟨.ADC_CAL_GAIN, 0, 32⟩
def F.ADC_CAL_LVL.lvl : Fld := ⟨.ADC_CAL_LVL, 0, 32⟩
def F.ADC_CAL_CFG.valid : Fld := ⟨.ADC_CAL_CFG, 0, 1⟩
def F.ADC_CAL_CFG.range : Fld := ⟨.ADC_CAL_CFG, 1, 2⟩
def F.SDM_CH.en : Fld := ⟨.SDM_CH, 0, 1⟩
def F.SDM_CH.clk_div : Fld := ⟨.SDM_CH, 1, 7⟩
def F.SDM_CH.edge : Fld := ⟨.SDM_CH, 8, 1⟩
def F.SDM_CH.cap_dly : Fld := ⟨.SDM_CH, 9, 3⟩
def F.SDM_CH.axis : Fld := ⟨.SDM_CH, 12, 3⟩
def F.SDM_CH.le_in : Fld := ⟨.SDM_CH, 15, 4⟩
def F.SDM_CH.sync : Fld := ⟨.SDM_CH, 19, 1⟩
def F.SDM_CH.src : Fld := ⟨.SDM_CH, 20, 3⟩
def F.SDM_FLT.order : Fld := ⟨.SDM_FLT, 0, 2⟩
def F.SDM_FLT.osr : Fld := ⟨.SDM_FLT, 2, 9⟩
def F.SDM_FLT.f_order : Fld := ⟨.SDM_FLT, 11, 2⟩
def F.SDM_FLT.f_osr : Fld := ⟨.SDM_FLT, 13, 6⟩
def F.SDM_FLT.f_cnt : Fld := ⟨.SDM_FLT, 19, 3⟩
def F.SDM_FLT.f_en : Fld := ⟨.SDM_FLT, 22, 1⟩
def F.SDM_OFF.off : Fld := ⟨.SDM_OFF, 0, 24⟩
def F.SDM_FTHR.f_lo : Fld := ⟨.SDM_FTHR, 0, 16⟩
def F.SDM_FTHR.f_hi : Fld := ⟨.SDM_FTHR, 16, 16⟩
def F.SDM_CALSEL.cal_en : Fld := ⟨.SDM_CALSEL, 0, 1⟩
def F.SDM_CALSEL.cal_gait : Fld := ⟨.SDM_CALSEL, 1, 1⟩
def F.SDM_CALSEL.cal_fix : Fld := ⟨.SDM_CALSEL, 2, 2⟩
def F.SDM_STAT.unsettled : Fld := ⟨.SDM_STAT, 0, 1⟩
def F.SDM_STAT.stuck : Fld := ⟨.SDM_STAT, 1, 1⟩
def F.SDM_STAT.stuck_seen : Fld := ⟨.SDM_STAT, 2, 1⟩
def F.SDM_STAT.sync_err : Fld := ⟨.SDM_STAT, 3, 1⟩
def F.SDM_STAT.f_trip : Fld := ⟨.SDM_STAT, 4, 1⟩
def F.SDM_STAT.cfg_clamp : Fld := ⟨.SDM_STAT, 5, 1⟩
def F.SDM_STAT.cal_x : Fld := ⟨.SDM_STAT, 6, 1⟩
def F.SDM_STAT.f_trip_cnt : Fld := ⟨.SDM_STAT, 16, 16⟩
def F.SDM_RES.s : Fld := ⟨.SDM_RES, 0, 32⟩
def F.SDM_RES_V.v : Fld := ⟨.SDM_RES_V, 0, 32⟩
def F.SDM_RES_TAG_LO.tag : Fld := ⟨.SDM_RES_TAG_LO, 0, 32⟩
def F.SDM_RES_TAG_HI.tag : Fld := ⟨.SDM_RES_TAG_HI, 0, 32⟩
def F.SDM_CAL_OFS.ofs : Fld := ⟨.SDM_CAL_OFS, 0, 32⟩
def F.SDM_CAL_GAIN.gain : Fld := ⟨.SDM_CAL_GAIN, 0, 32⟩
def F.SDM_CAL_LVL.lvl : Fld := ⟨.SDM_CAL_LVL, 0, 32⟩
def F.SDM_CAL_CFG.valid : Fld := ⟨.SDM_CAL_CFG, 0, 1⟩
def F.SDM_CAL_CFG.range : Fld := ⟨.SDM_CAL_CFG, 1, 2⟩
def F.CMP_CFG.mode : Fld := ⟨.CMP_CFG, 0, 2⟩
def F.CMP_CFG.diff : Fld := ⟨.CMP_CFG, 2, 1⟩
def F.CMP_CFG.blank_en : Fld := ⟨.CMP_CFG, 3, 1⟩
def F.CMP_CFG.bleg : Fld := ⟨.CMP_CFG, 4, 5⟩
def F.CMP_CFG.lsh_en : Fld := ⟨.CMP_CFG, 9, 1⟩
def F.CMP_CFG.lsh_ch : Fld := ⟨.CMP_CFG, 10, 6⟩
def F.CMP_FLT.m : Fld := ⟨.CMP_FLT, 0, 5⟩
def F.CMP_FLT.k : Fld := ⟨.CMP_FLT, 8, 5⟩
def F.CMP_THR.lo : Fld := ⟨.CMP_THR, 0, 10⟩
def F.CMP_THR.hi : Fld := ⟨.CMP_THR, 16, 10⟩
def F.CMP_CHK.en : Fld := ⟨.CMP_CHK, 0, 1⟩
def F.CMP_CHK.method : Fld := ⟨.CMP_CHK, 1, 2⟩
def F.CMP_CHK.act : Fld := ⟨.CMP_CHK, 3, 1⟩
def F.CMP_CHK.src : Fld := ⟨.CMP_CHK, 4, 3⟩
def F.CMP_CHK.div : Fld := ⟨.CMP_CHK, 7, 4⟩
def F.CMP_CHKOFF.off : Fld := ⟨.CMP_CHKOFF, 0, 24⟩
def F.CMP_STAT.out_u : Fld := ⟨.CMP_STAT, 0, 1⟩
def F.CMP_STAT.out_l : Fld := ⟨.CMP_STAT, 1, 1⟩
def F.CMP_STAT.evt_u : Fld := ⟨.CMP_STAT, 2, 1⟩
def F.CMP_STAT.evt_l : Fld := ⟨.CMP_STAT, 3, 1⟩
def F.CMP_STAT.chk_miss : Fld := ⟨.CMP_STAT, 4, 1⟩
def F.CMP_STAT.chk_fail : Fld := ⟨.CMP_STAT, 5, 1⟩
def F.CMP_STAT.chk_skip : Fld := ⟨.CMP_STAT, 6, 1⟩
def F.CMP_STAT.chk_part : Fld := ⟨.CMP_STAT, 7, 1⟩
def F.CMP_STAT.dac_fail : Fld := ⟨.CMP_STAT, 8, 1⟩
def F.CMP_STAT.cfg_clamp : Fld := ⟨.CMP_STAT, 9, 1⟩
def F.CMP_STAT.in_chk : Fld := ⟨.CMP_STAT, 10, 1⟩
def F.CMP_STAT.pcm : Fld := ⟨.CMP_STAT, 11, 1⟩
def F.CMP_STAT.pcm_dup : Fld := ⟨.CMP_STAT, 12, 1⟩
def F.CMP_STAT.chk_cnt : Fld := ⟨.CMP_STAT, 16, 16⟩
def F.CMP_EVTAG_LO.tag : Fld := ⟨.CMP_EVTAG_LO, 0, 32⟩
def F.CMP_EVTAG_HI.tag : Fld := ⟨.CMP_EVTAG_HI, 0, 32⟩
def F.CMP_RDBK.lo_code : Fld := ⟨.CMP_RDBK, 0, 16⟩
def F.CMP_RDBK.hi_code : Fld := ⟨.CMP_RDBK, 16, 16⟩
def F.CMP_CTL.rdbk : Fld := ⟨.CMP_CTL, 0, 1⟩
def F.CMP_GSTAT.rdbk_busy : Fld := ⟨.CMP_GSTAT, 0, 1⟩
def F.CMP_GSTAT.rdbk_ok : Fld := ⟨.CMP_GSTAT, 1, 1⟩
def F.CMP_GSTAT.rdbk_fail : Fld := ⟨.CMP_GSTAT, 2, 1⟩
def F.CMP_GSTAT.refused : Fld := ⟨.CMP_GSTAT, 3, 1⟩
def F.CMP_GSTAT.fail : Fld := ⟨.CMP_GSTAT, 16, 16⟩
def F.POS_CFG.mode : Fld := ⟨.POS_CFG, 0, 3⟩
def F.POS_CFG.dir_inv : Fld := ⟨.POS_CFG, 3, 1⟩
def F.POS_CFG.axis : Fld := ⟨.POS_CFG, 4, 3⟩
def F.POS_CFG.le_in : Fld := ⟨.POS_CFG, 7, 4⟩
def F.POS_CFG.lsh_en : Fld := ⟨.POS_CFG, 11, 1⟩
def F.POS_CFG.lsh_ch : Fld := ⟨.POS_CFG, 12, 6⟩
def F.POS_CFG.flt : Fld := ⟨.POS_CFG, 18, 12⟩
def F.POS_CFG.inv : Fld := ⟨.POS_CFG, 30, 1⟩
def F.POS_HMAP.map : Fld := ⟨.POS_HMAP, 0, 18⟩
def F.POS_IDX.tol : Fld := ⟨.POS_IDX, 0, 8⟩
def F.POS_IDX.learn : Fld := ⟨.POS_IDX, 8, 1⟩
def F.POS_IDX.ref_valid : Fld := ⟨.POS_IDX, 9, 1⟩
def F.POS_IDX.z_gate : Fld := ⟨.POS_IDX, 10, 1⟩
def F.POS_IDX.z_edge : Fld := ⟨.POS_IDX, 11, 1⟩
def F.POS_PITCH.pitch : Fld := ⟨.POS_PITCH, 0, 32⟩
def F.POS_REF.ref : Fld := ⟨.POS_REF, 0, 32⟩
def F.POS_SPDCFG.t_span : Fld := ⟨.POS_SPDCFG, 0, 6⟩
def F.POS_SPDCFG.mt_lo : Fld := ⟨.POS_SPDCFG, 6, 8⟩
def F.POS_SPDCFG.mt_hi : Fld := ⟨.POS_SPDCFG, 14, 8⟩
def F.POS_SPDCFG.ss_to : Fld := ⟨.POS_SPDCFG, 22, 10⟩
def F.POS_DIAG.bias_en : Fld := ⟨.POS_DIAG, 0, 1⟩
def F.POS_DIAG.dwell : Fld := ⟨.POS_DIAG, 1, 7⟩
def F.POS_DIAG.st_n : Fld := ⟨.POS_DIAG, 8, 8⟩
def F.POS_DIAG.st_en : Fld := ⟨.POS_DIAG, 16, 1⟩
def F.POS_LAT.lat : Fld := ⟨.POS_LAT, 0, 24⟩
def F.POS_STAT.hall_inv : Fld := ⟨.POS_STAT, 0, 1⟩
def F.POS_STAT.hall_skip : Fld := ⟨.POS_STAT, 1, 1⟩
def F.POS_STAT.quad_err : Fld := ⟨.POS_STAT, 2, 1⟩
def F.POS_STAT.idx_seen : Fld := ⟨.POS_STAT, 3, 1⟩
def F.POS_STAT.idx_slip : Fld := ⟨.POS_STAT, 4, 1⟩
def F.POS_STAT.dir_chg : Fld := ⟨.POS_STAT, 5, 1⟩
def F.POS_STAT.wrap_up : Fld := ⟨.POS_STAT, 6, 1⟩
def F.POS_STAT.wrap_dn : Fld := ⟨.POS_STAT, 7, 1⟩
def F.POS_STAT.wrap_sat : Fld := ⟨.POS_STAT, 8, 1⟩
def F.POS_STAT.cnt_gap : Fld := ⟨.POS_STAT, 9, 1⟩
def F.POS_STAT.cfg_clamp : Fld := ⟨.POS_STAT, 10, 1⟩
def F.POS_STAT.still : Fld := ⟨.POS_STAT, 11, 1⟩
def F.POS_STAT.dir : Fld := ⟨.POS_STAT, 12, 1⟩
def F.POS_STAT.diag : Fld := ⟨.POS_STAT, 13, 1⟩
def F.POS_DSTAT.seen : Fld := ⟨.POS_DSTAT, 0, 12⟩
def F.POS_DSTAT.live : Fld := ⟨.POS_DSTAT, 12, 12⟩
def F.POS_CNT.cnt : Fld := ⟨.POS_CNT, 0, 32⟩
def F.POS_WRAP.wrap : Fld := ⟨.POS_WRAP, 0, 32⟩
def F.POS_SPD.spd : Fld := ⟨.POS_SPD, 0, 32⟩
def F.POS_SECT.levels : Fld := ⟨.POS_SECT, 0, 3⟩
def F.POS_SECT.sector : Fld := ⟨.POS_SECT, 3, 3⟩
def F.POS_SECT.sect_valid : Fld := ⟨.POS_SECT, 6, 1⟩
def F.POS_SECT.edges : Fld := ⟨.POS_SECT, 8, 8⟩
def F.POS_ETAG_LO.tag : Fld := ⟨.POS_ETAG_LO, 0, 32⟩
def F.POS_ETAG_HI.tag : Fld := ⟨.POS_ETAG_HI, 0, 32⟩
def F.POS_ICAP.cap : Fld := ⟨.POS_ICAP, 0, 32⟩
def F.POS_IERR.err : Fld := ⟨.POS_IERR, 0, 32⟩
def F.POS_ITAG_LO.tag : Fld := ⟨.POS_ITAG_LO, 0, 32⟩
def F.POS_ITAG_HI.tag : Fld := ⟨.POS_ITAG_HI, 0, 32⟩
def F.POS_SCAP.cap : Fld := ⟨.POS_SCAP, 0, 32⟩
def F.POS_SCNT.slip_cnt : Fld := ⟨.POS_SCNT, 0, 16⟩
def F.POS_STAG_LO.tag : Fld := ⟨.POS_STAG_LO, 0, 32⟩
def F.POS_STAG_HI.tag : Fld := ⟨.POS_STAG_HI, 0, 32⟩
def F.POS_EMU_CFG.src : Fld := ⟨.POS_EMU_CFG, 0, 1⟩
def F.POS_EMU_CFG.src_idx : Fld := ⟨.POS_EMU_CFG, 1, 3⟩
def F.POS_EMU_CFG.z_en : Fld := ⟨.POS_EMU_CFG, 4, 1⟩
def F.POS_EMU_CFG.lines_m1 : Fld := ⟨.POS_EMU_CFG, 16, 16⟩
def F.POS_EMU_POS.state : Fld := ⟨.POS_EMU_POS, 0, 18⟩
def F.POS_EMU_STAT.lag : Fld := ⟨.POS_EMU_STAT, 0, 1⟩
def F.POS_EMU_STAT.lost : Fld := ⟨.POS_EMU_STAT, 1, 1⟩
def F.POS_EMU_STAT.backlog : Fld := ⟨.POS_EMU_STAT, 2, 12⟩
def F.POS_EMU_STAT.lost_cnt : Fld := ⟨.POS_EMU_STAT, 16, 16⟩
def F.POS_EMU_CMD.resync : Fld := ⟨.POS_EMU_CMD, 0, 1⟩
def F.RSV_CTL.en : Fld := ⟨.RSV_CTL, 0, 1⟩
def F.RSV_CTL.in_sin : Fld := ⟨.RSV_CTL, 1, 4⟩
def F.RSV_CTL.in_cos : Fld := ⟨.RSV_CTL, 5, 4⟩
def F.RSV_CTL.sh_sin : Fld := ⟨.RSV_CTL, 9, 3⟩
def F.RSV_CTL.sh_cos : Fld := ⟨.RSV_CTL, 12, 3⟩
def F.RSV_CTL.gain : Fld := ⟨.RSV_CTL, 15, 2⟩
def F.RSV_CTL.axis : Fld := ⟨.RSV_CTL, 17, 3⟩
def F.RSV_CTL.le_in : Fld := ⟨.RSV_CTL, 20, 4⟩
def F.RSV_EXC.exc_div : Fld := ⟨.RSV_EXC, 0, 12⟩
def F.RSV_EXC.amp : Fld := ⟨.RSV_EXC, 16, 12⟩
def F.RSV_PH.ph : Fld := ⟨.RSV_PH, 0, 18⟩
def F.RSV_AMP.lo : Fld := ⟨.RSV_AMP, 0, 16⟩
def F.RSV_AMP.hi : Fld := ⟨.RSV_AMP, 16, 16⟩
def F.RSV_STAT.run : Fld := ⟨.RSV_STAT, 0, 1⟩
def F.RSV_STAT.amp_bad : Fld := ⟨.RSV_STAT, 1, 1⟩
def F.RSV_STAT.ovr : Fld := ⟨.RSV_STAT, 2, 1⟩
def F.RSV_STAT.cfg_clamp : Fld := ⟨.RSV_STAT, 3, 1⟩
def F.RSV_STAT.miss : Fld := ⟨.RSV_STAT, 4, 1⟩
def F.RSV_STAT.amp_cnt : Fld := ⟨.RSV_STAT, 16, 16⟩
def F.RSV_START_LO.tag : Fld := ⟨.RSV_START_LO, 0, 32⟩
def F.RSV_START_HI.tag : Fld := ⟨.RSV_START_HI, 0, 32⟩
def F.RSV_SMP.sin : Fld := ⟨.RSV_SMP, 0, 16⟩
def F.RSV_SMP.cos : Fld := ⟨.RSV_SMP, 16, 16⟩
def F.RSV_INFO.pol : Fld := ⟨.RSV_INFO, 0, 1⟩
def F.RSV_INFO.amp_bad : Fld := ⟨.RSV_INFO, 1, 1⟩
def F.RSV_INFO.flags : Fld := ⟨.RSV_INFO, 8, 8⟩
def F.RSV_INFO.seq : Fld := ⟨.RSV_INFO, 16, 8⟩
def F.RSV_TAG_LO.tag : Fld := ⟨.RSV_TAG_LO, 0, 32⟩
def F.RSV_TAG_HI.tag : Fld := ⟨.RSV_TAG_HI, 0, 32⟩
def F.LE_STATUS.busy : Fld := ⟨.LE_STATUS, 0, 1⟩
def F.LE_STATUS.cur : Fld := ⟨.LE_STATUS, 1, 3⟩
def F.LE_AX_CMD.cmd : Fld := ⟨.LE_AX_CMD, 0, 3⟩
def F.LE_AX_STAT.state : Fld := ⟨.LE_AX_STAT, 0, 3⟩
def F.LE_AX_STAT.pend : Fld := ⟨.LE_AX_STAT, 3, 3⟩
def F.LE_AX_STAT.late : Fld := ⟨.LE_AX_STAT, 6, 1⟩
def F.LE_AX_STAT.late_cause : Fld := ⟨.LE_AX_STAT, 7, 2⟩
def F.LE_AX_STAT.in_flt : Fld := ⟨.LE_AX_STAT, 9, 1⟩
def F.LE_AX_STAT.fe_trip : Fld := ⟨.LE_AX_STAT, 10, 1⟩
def F.LE_AX_STAT.prog_err : Fld := ⟨.LE_AX_STAT, 11, 1⟩
def F.LE_AX_STAT.dclamp : Fld := ⟨.LE_AX_STAT, 12, 1⟩
def F.LE_AX_STAT.dnan : Fld := ⟨.LE_AX_STAT, 13, 1⟩
def F.LE_AX_STAT.cmd_rej : Fld := ⟨.LE_AX_STAT, 14, 1⟩
def F.LE_AX_STAT.cmd_repl : Fld := ⟨.LE_AX_STAT, 15, 1⟩
def F.LE_AX_STAT.cmd_lost : Fld := ⟨.LE_AX_STAT, 16, 1⟩
def F.LE_AX_STAT.no_good : Fld := ⟨.LE_AX_STAT, 17, 1⟩
def F.LE_AX_STAT.gait_none : Fld := ⟨.LE_AX_STAT, 18, 1⟩
def F.LE_AX_STAT.coef_ecc : Fld := ⟨.LE_AX_STAT, 19, 1⟩
def F.LE_AX_STAT.fault_cause : Fld := ⟨.LE_AX_STAT, 20, 4⟩
def F.LE_AX_STAT.late_run : Fld := ⟨.LE_AX_STAT, 24, 4⟩
def F.LE_AX_STAT.cfg_clamp : Fld := ⟨.LE_AX_STAT, 28, 1⟩
def F.LE_AX_STAT.no_meas : Fld := ⟨.LE_AX_STAT, 29, 1⟩
def F.LE_AX_PROG.open_entry : Fld := ⟨.LE_AX_PROG, 0, 12⟩
def F.LE_AX_PROG.closed_entry : Fld := ⟨.LE_AX_PROG, 16, 12⟩
def F.LE_AX_STEPS.steps : Fld := ⟨.LE_AX_STEPS, 0, 13⟩
def F.LE_AX_RDY.rdy : Fld := ⟨.LE_AX_RDY, 0, 24⟩
def F.LE_AX_POL.late_act : Fld := ⟨.LE_AX_POL, 0, 1⟩
def F.LE_AX_POL.late_n : Fld := ⟨.LE_AX_POL, 1, 4⟩
def F.LE_AX_POL.fault_act : Fld := ⟨.LE_AX_POL, 5, 2⟩
def F.LE_AX_POL.flt_n : Fld := ⟨.LE_AX_POL, 7, 4⟩
def F.LE_AX_CNT.late_cnt : Fld := ⟨.LE_AX_CNT, 0, 16⟩
def F.LE_AX_CNT.replay_late : Fld := ⟨.LE_AX_CNT, 16, 16⟩
def F.LE_AX_IN.inmask : Fld := ⟨.LE_AX_IN, 0, 16⟩
def F.LE_AX_LTAG_LO.tag : Fld := ⟨.LE_AX_LTAG_LO, 0, 32⟩
def F.LE_AX_LTAG_HI.tag : Fld := ⟨.LE_AX_LTAG_HI, 0, 32⟩
def F.LE_FE_CFG.fe_en : Fld := ⟨.LE_FE_CFG, 0, 1⟩
def F.LE_FE_CFG.fe_ramp : Fld := ⟨.LE_FE_CFG, 1, 1⟩
def F.LE_FE_CFG.sp : Fld := ⟨.LE_FE_CFG, 2, 2⟩
def F.LE_FE_CFG.mo : Fld := ⟨.LE_FE_CFG, 4, 3⟩
def F.LE_FE_CFG.fe_time : Fld := ⟨.LE_FE_CFG, 8, 24⟩
def F.LE_FE_LIM.lim : Fld := ⟨.LE_FE_LIM, 0, 32⟩
def F.LE_FE_ERR.e_ : Fld := ⟨.LE_FE_ERR, 0, 32⟩
def F.LE_RAMP_SRC.cfg : Fld := ⟨.LE_RAMP_SRC, 0, 16⟩
def F.LE_RAMP_SRC.active : Fld := ⟨.LE_RAMP_SRC, 16, 4⟩
def F.LE_GAIT_CFG.m : Fld := ⟨.LE_GAIT_CFG, 0, 3⟩
def F.LE_GAIT_CFG.abs : Fld := ⟨.LE_GAIT_CFG, 3, 1⟩
def F.LE_GAIT_CFG.n_gait_m1 : Fld := ⟨.LE_GAIT_CFG, 4, 3⟩
def F.LE_GAIT_CFG.init : Fld := ⟨.LE_GAIT_CFG, 7, 3⟩
def F.LE_GAIT_CFG.dwell : Fld := ⟨.LE_GAIT_CFG, 10, 8⟩
def F.LE_GAIT_CFG.en : Fld := ⟨.LE_GAIT_CFG, 18, 1⟩
def F.LE_GAIT_HYS.h : Fld := ⟨.LE_GAIT_HYS, 0, 32⟩
def F.LE_GAIT_SEL.cur : Fld := ⟨.LE_GAIT_SEL, 0, 3⟩
def F.LE_GAIT_SEL.cand : Fld := ⟨.LE_GAIT_SEL, 3, 3⟩
def F.LE_GAIT_SEL.force_en : Fld := ⟨.LE_GAIT_SEL, 6, 1⟩
def F.LE_GAIT_SEL.force : Fld := ⟨.LE_GAIT_SEL, 7, 3⟩
def F.LE_GAIT_SEL.chg_cnt : Fld := ⟨.LE_GAIT_SEL, 16, 16⟩
def F.LE_SP.target : Fld := ⟨.LE_SP, 0, 32⟩
def F.LE_RAMP.rate : Fld := ⟨.LE_RAMP, 0, 32⟩
def F.LE_RAMP_V.r : Fld := ⟨.LE_RAMP_V, 0, 32⟩
def F.LE_MOUT.value : Fld := ⟨.LE_MOUT, 0, 32⟩
def F.LE_INPOL.sub : Fld := ⟨.LE_INPOL, 0, 8⟩
def F.LE_INPOL.flt : Fld := ⟨.LE_INPOL, 8, 8⟩
def F.LE_INPOL.absent_flt : Fld := ⟨.LE_INPOL, 16, 1⟩
def F.LE_GAIT_LO.lo : Fld := ⟨.LE_GAIT_LO, 0, 32⟩
def F.LE_GAIT_HI.hi : Fld := ⟨.LE_GAIT_HI, 0, 32⟩
def F.LE_GAIT_CAL.cal : Fld := ⟨.LE_GAIT_CAL, 0, 32⟩
def F.LE_COEF.w : Fld := ⟨.LE_COEF, 0, 32⟩
def F.LE_PROGMEM.op : Fld := ⟨.LE_PROGMEM, 0, 32⟩
def F.LE_STATE.w : Fld := ⟨.LE_STATE, 0, 32⟩
def F.MUZ_CTL.inc_win : Fld := ⟨.MUZ_CTL, 0, 8⟩
def F.MUZ_SWTRIP.trip : Fld := ⟨.MUZ_SWTRIP, 0, 6⟩
def F.MUZ_INC.num : Fld := ⟨.MUZ_INC, 0, 16⟩
def F.MUZ_INC.sets : Fld := ⟨.MUZ_INC, 16, 6⟩
def F.MUZ_INC.open_ : Fld := ⟨.MUZ_INC, 22, 1⟩
def F.MUZ_INC.cfg_clamp : Fld := ⟨.MUZ_INC, 23, 1⟩
def F.MUZ_SEEN.seen : Fld := ⟨.MUZ_SEEN, 0, 32⟩
def F.MUZ_LIVE.live : Fld := ⟨.MUZ_LIVE, 0, 32⟩
def F.MUZ_SRC.sets : Fld := ⟨.MUZ_SRC, 0, 6⟩
def F.MUZ_SRC.leg : Fld := ⟨.MUZ_SRC, 8, 5⟩
def F.MUZ_SRC.sw : Fld := ⟨.MUZ_SRC, 13, 2⟩
def F.MUZ_PROT.en_h : Fld := ⟨.MUZ_PROT, 0, 1⟩
def F.MUZ_PROT.en_l : Fld := ⟨.MUZ_PROT, 1, 1⟩
def F.MUZ_PROT.pol_h : Fld := ⟨.MUZ_PROT, 2, 1⟩
def F.MUZ_PROT.pol_l : Fld := ⟨.MUZ_PROT, 3, 1⟩
def F.MUZ_PROT.m : Fld := ⟨.MUZ_PROT, 4, 5⟩
def F.MUZ_PROT.k : Fld := ⟨.MUZ_PROT, 9, 5⟩
def F.MUZ_PROT.live_h : Fld := ⟨.MUZ_PROT, 14, 1⟩
def F.MUZ_PROT.live_l : Fld := ⟨.MUZ_PROT, 15, 1⟩
def F.MUZ_PAT.pat : Fld := ⟨.MUZ_PAT, 0, 2⟩
def F.MUZ_SET_STAT.tripped : Fld := ⟨.MUZ_SET_STAT, 0, 1⟩
def F.MUZ_SET_STAT.assert : Fld := ⟨.MUZ_SET_STAT, 1, 1⟩
def F.MUZ_SET_STAT.eff : Fld := ⟨.MUZ_SET_STAT, 2, 2⟩
def F.MUZ_SET_STAT.fallback : Fld := ⟨.MUZ_SET_STAT, 4, 1⟩
def F.MUZ_SET_STAT.clr_rej : Fld := ⟨.MUZ_SET_STAT, 5, 1⟩
def F.MUZ_SET_STAT.cfg_clamp : Fld := ⟨.MUZ_SET_STAT, 6, 1⟩
def F.MUZ_SET_STAT.first : Fld := ⟨.MUZ_SET_STAT, 8, 7⟩
def F.MUZ_SET_STAT.fault : Fld := ⟨.MUZ_SET_STAT, 16, 12⟩
def F.MUZ_SET_TAG_LO.tag : Fld := ⟨.MUZ_SET_TAG_LO, 0, 32⟩
def F.MUZ_SET_TAG_HI.tag : Fld := ⟨.MUZ_SET_TAG_HI, 0, 32⟩
def F.MUZ_SET_INC.inc : Fld := ⟨.MUZ_SET_INC, 0, 16⟩
def F.MUZ_SET_INC.trip_cnt : Fld := ⟨.MUZ_SET_INC, 16, 16⟩
def F.PLSH_FLAG.flag : Fld := ⟨.PLSH_FLAG, 0, 32⟩
def F.PLSH_FLAG_SET.flag : Fld := ⟨.PLSH_FLAG_SET, 0, 32⟩
def F.PLSH_FLAG_CLR.flag : Fld := ⟨.PLSH_FLAG_CLR, 0, 32⟩
def F.PLSH_OVR.ovr : Fld := ⟨.PLSH_OVR, 0, 32⟩
def F.PLSH_RAISE.ch : Fld := ⟨.PLSH_RAISE, 0, 6⟩
def F.PLSH_RAISE.data : Fld := ⟨.PLSH_RAISE, 8, 8⟩
def F.PLSH_PROD.pkind : Fld := ⟨.PLSH_PROD, 0, 4⟩
def F.PLSH_PROD.pidx : Fld := ⟨.PLSH_PROD, 4, 6⟩
def F.PLSH_CONS.ckind : Fld := ⟨.PLSH_CONS, 0, 3⟩
def F.PLSH_CONS.core : Fld := ⟨.PLSH_CONS, 3, 4⟩
def F.PLSH_CONS.idx : Fld := ⟨.PLSH_CONS, 7, 10⟩
def F.PLSH_ATTR.en : Fld := ⟨.PLSH_ATTR, 0, 1⟩
def F.PLSH_ATTR.sec : Fld := ⟨.PLSH_ATTR, 1, 1⟩
def F.PLSH_ATTR.owner : Fld := ⟨.PLSH_ATTR, 2, 3⟩
def F.PLSH_ATTR.held : Fld := ⟨.PLSH_ATTR, 5, 1⟩
def F.PLSH_LAST.data : Fld := ⟨.PLSH_LAST, 0, 8⟩
def F.PLSH_LAST.ovr_cnt : Fld := ⟨.PLSH_LAST, 16, 16⟩
def F.PLSH_TAG_LO.tag : Fld := ⟨.PLSH_TAG_LO, 0, 32⟩
def F.PLSH_TAG_HI.tag : Fld := ⟨.PLSH_TAG_HI, 0, 32⟩
def F.PJNL_PSTAT.paired : Fld := ⟨.PJNL_PSTAT, 0, 1⟩
def F.PJNL_PSTAT.rec : Fld := ⟨.PJNL_PSTAT, 1, 1⟩
def F.PJNL_PSTAT.failed : Fld := ⟨.PJNL_PSTAT, 2, 1⟩
def F.PJNL_PSTAT.inj_fail : Fld := ⟨.PJNL_PSTAT, 3, 1⟩
def F.PJNL_PSTAT.cmp_a : Fld := ⟨.PJNL_PSTAT, 4, 1⟩
def F.PJNL_PSTAT.cmp_b : Fld := ⟨.PJNL_PSTAT, 5, 1⟩
def F.PJNL_PSTAT.restart : Fld := ⟨.PJNL_PSTAT, 6, 1⟩
def F.PJNL_PSTAT.forced : Fld := ⟨.PJNL_PSTAT, 7, 1⟩
def F.PJNL_PSTAT.jstall : Fld := ⟨.PJNL_PSTAT, 8, 1⟩
def F.PJNL_PSTAT.late_ckpt : Fld := ⟨.PJNL_PSTAT, 9, 1⟩
def F.PJNL_PSTAT.recent : Fld := ⟨.PJNL_PSTAT, 12, 2⟩
def F.PJNL_PSTAT.mm_cnt : Fld := ⟨.PJNL_PSTAT, 16, 16⟩
def F.PJNL_PFILL.fill : Fld := ⟨.PJNL_PFILL, 0, 16⟩
def F.PJNL_PFILL.peak : Fld := ⟨.PJNL_PFILL, 16, 16⟩
def F.PJNL_PMTAG_LO.tag : Fld := ⟨.PJNL_PMTAG_LO, 0, 32⟩
def F.PJNL_PMTAG_HI.tag : Fld := ⟨.PJNL_PMTAG_HI, 0, 32⟩
def F.PJNL_PCTAG_LO.tag : Fld := ⟨.PJNL_PCTAG_LO, 0, 32⟩
def F.PJNL_PCTAG_HI.tag : Fld := ⟨.PJNL_PCTAG_HI, 0, 32⟩
def F.PJNL_PREC.last : Fld := ⟨.PJNL_PREC, 0, 16⟩
def F.PJNL_PREC.max_ : Fld := ⟨.PJNL_PREC, 16, 16⟩
def F.SPI_CTL.mode : Fld := ⟨.SPI_CTL, 0, 2⟩
def F.SPI_CTL.div : Fld := ⟨.SPI_CTL, 2, 10⟩
def F.SPI_CTL.bits_m1 : Fld := ⟨.SPI_CTL, 12, 5⟩
def F.SPI_CTL.nw_m1 : Fld := ⟨.SPI_CTL, 17, 4⟩
def F.SPI_CTL.lsb : Fld := ⟨.SPI_CTL, 21, 1⟩
def F.SPI_CTL.trig : Fld := ⟨.SPI_CTL, 22, 2⟩
def F.SPI_CTL.set : Fld := ⟨.SPI_CTL, 24, 3⟩
def F.SPI_CTL.en : Fld := ⟨.SPI_CTL, 27, 1⟩
def F.SPI_TRG.off : Fld := ⟨.SPI_TRG, 0, 24⟩
def F.SPI_TRG.ch : Fld := ⟨.SPI_TRG, 24, 6⟩
def F.SPI_CMD.go : Fld := ⟨.SPI_CMD, 0, 1⟩
def F.SPI_STAT.busy : Fld := ⟨.SPI_STAT, 0, 1⟩
def F.SPI_STAT.done : Fld := ⟨.SPI_STAT, 1, 1⟩
def F.SPI_STAT.ovr : Fld := ⟨.SPI_STAT, 2, 1⟩
def F.SPI_STAT.abort : Fld := ⟨.SPI_STAT, 3, 1⟩
def F.SPI_STAT.cfg_clamp : Fld := ⟨.SPI_STAT, 4, 1⟩
def F.SPI_STAT.xfer_cnt : Fld := ⟨.SPI_STAT, 16, 16⟩
def F.SPI_TAG_LO.tag : Fld := ⟨.SPI_TAG_LO, 0, 32⟩
def F.SPI_TAG_HI.tag : Fld := ⟨.SPI_TAG_HI, 0, 32⟩
def F.SPI_TX.word : Fld := ⟨.SPI_TX, 0, 32⟩
def F.SPI_RX.word : Fld := ⟨.SPI_RX, 0, 32⟩
def F.IMG_STATUS.phase : Fld := ⟨.IMG_STATUS, 0, 3⟩
def F.IMG_STATUS.bank : Fld := ⟨.IMG_STATUS, 3, 1⟩
def F.IMG_STATUS.len_clamp : Fld := ⟨.IMG_STATUS, 4, 1⟩
def F.IMG_STATUS.svn_clamp : Fld := ⟨.IMG_STATUS, 5, 1⟩
def F.IMG_STATUS.fallback : Fld := ⟨.IMG_STATUS, 6, 1⟩
def F.IMG_ERR.code : Fld := ⟨.IMG_ERR, 0, 8⟩
def F.IMG_ERR.swap : Fld := ⟨.IMG_ERR, 8, 1⟩
def F.IMG_ERR.rec : Fld := ⟨.IMG_ERR, 16, 16⟩
def F.IMG_ID.id : Fld := ⟨.IMG_ID, 0, 32⟩
def F.IMG_SVN.img : Fld := ⟨.IMG_SVN, 0, 8⟩
def F.IMG_SVN.fuse : Fld := ⟨.IMG_SVN, 8, 8⟩
def F.IMG_SWAP_SRC.addr : Fld := ⟨.IMG_SWAP_SRC, 2, 30⟩
def F.IMG_SWAP_CTL.at_en : Fld := ⟨.IMG_SWAP_CTL, 0, 1⟩
def F.IMG_SWAP_CTL.skip_late : Fld := ⟨.IMG_SWAP_CTL, 1, 1⟩
def F.IMG_SWAP_AT_LO.tag : Fld := ⟨.IMG_SWAP_AT_LO, 0, 32⟩
def F.IMG_SWAP_AT_HI.tag : Fld := ⟨.IMG_SWAP_AT_HI, 0, 32⟩
def F.IMG_SWAP_CMD.cmd : Fld := ⟨.IMG_SWAP_CMD, 0, 3⟩
def F.IMG_SWAP_STAT.state : Fld := ⟨.IMG_SWAP_STAT, 0, 3⟩
def F.IMG_SWAP_STAT.late : Fld := ⟨.IMG_SWAP_STAT, 3, 1⟩
def F.IMG_SWAP_STAT.dropped : Fld := ⟨.IMG_SWAP_STAT, 4, 1⟩
def F.IMG_SWAP_STAT.deferred : Fld := ⟨.IMG_SWAP_STAT, 5, 1⟩
def F.IMG_SWAP_STAT.failed : Fld := ⟨.IMG_SWAP_STAT, 6, 1⟩
def F.IMG_SWAP_STAT.undo : Fld := ⟨.IMG_SWAP_STAT, 7, 1⟩
def F.IMG_SWAP_SCOPE.path : Fld := ⟨.IMG_SWAP_SCOPE, 0, 32⟩
def F.IMG_SWAP_TAG_LO.tag : Fld := ⟨.IMG_SWAP_TAG_LO, 0, 32⟩
def F.IMG_SWAP_TAG_HI.tag : Fld := ⟨.IMG_SWAP_TAG_HI, 0, 32⟩
def F.IMG_BANK.boot : Fld := ⟨.IMG_BANK, 0, 1⟩
def F.IMG_BANK.state_a : Fld := ⟨.IMG_BANK, 1, 2⟩
def F.IMG_BANK.state_b : Fld := ⟨.IMG_BANK, 3, 2⟩
def F.IMG_BANK.tries_a : Fld := ⟨.IMG_BANK, 5, 2⟩
def F.IMG_BANK.tries_b : Fld := ⟨.IMG_BANK, 7, 2⟩
def F.IMG_BANK.busy : Fld := ⟨.IMG_BANK, 9, 1⟩
def F.IMG_BANK.cmd_rej : Fld := ⟨.IMG_BANK, 10, 1⟩
def F.IMG_BANK_CMD.cmd : Fld := ⟨.IMG_BANK_CMD, 0, 3⟩
def F.IMG_BANK_SEQ.seq : Fld := ⟨.IMG_BANK_SEQ, 0, 32⟩
def F.TIME_NOW_LO.tag : Fld := ⟨.TIME_NOW_LO, 0, 32⟩
def F.TIME_NOW_HI.tag : Fld := ⟨.TIME_NOW_HI, 0, 32⟩
def F.TIME_CTL.sync_en : Fld := ⟨.TIME_CTL, 0, 1⟩
def F.TIME_CTL.domain : Fld := ⟨.TIME_CTL, 8, 8⟩
def F.TIME_CTL.loss_n : Fld := ⟨.TIME_CTL, 16, 4⟩
def F.TIME_STATUS.state : Fld := ⟨.TIME_STATUS, 0, 2⟩
def F.TIME_STATUS.stepped : Fld := ⟨.TIME_STATUS, 2, 1⟩
def F.TIME_STATUS.lock_lost : Fld := ⟨.TIME_STATUS, 3, 1⟩
def F.TIME_STATUS.cfg_clamp : Fld := ⟨.TIME_STATUS, 4, 1⟩
def F.TIME_STATUS.slew_sat : Fld := ⟨.TIME_STATUS, 5, 1⟩
def F.TIME_STATUS.lost_cnt : Fld := ⟨.TIME_STATUS, 16, 16⟩
def F.TIME_OFFSET.offset : Fld := ⟨.TIME_OFFSET, 0, 32⟩
def F.TIME_RATE.rate : Fld := ⟨.TIME_RATE, 0, 32⟩
def F.TIME_STEP_LO.step : Fld := ⟨.TIME_STEP_LO, 0, 32⟩
def F.TIME_STEP_HI.step : Fld := ⟨.TIME_STEP_HI, 0, 32⟩
def F.TIME_STEP_AT_LO.tag : Fld := ⟨.TIME_STEP_AT_LO, 0, 32⟩
def F.TIME_STEP_AT_HI.tag : Fld := ⟨.TIME_STEP_AT_HI, 0, 32⟩
def F.TIME_ACT_TGT_LO.tgt : Fld := ⟨.TIME_ACT_TGT_LO, 0, 32⟩
def F.TIME_ACT_TGT_HI.tgt : Fld := ⟨.TIME_ACT_TGT_HI, 0, 32⟩
def F.TIME_ACT_CTL.arm : Fld := ⟨.TIME_ACT_CTL, 0, 1⟩
def F.TIME_ACT_CTL.skip_late : Fld := ⟨.TIME_ACT_CTL, 1, 1⟩
def F.TIME_ACT_CTL.kind : Fld := ⟨.TIME_ACT_CTL, 2, 2⟩
def F.TIME_ACT_ADDR.addr : Fld := ⟨.TIME_ACT_ADDR, 0, 32⟩
def F.TIME_ACT_DATA.data : Fld := ⟨.TIME_ACT_DATA, 0, 32⟩
def F.TIME_ACT_STAT.fired : Fld := ⟨.TIME_ACT_STAT, 0, 1⟩
def F.TIME_ACT_STAT.late : Fld := ⟨.TIME_ACT_STAT, 1, 1⟩
def F.TIME_ACT_STAT.dropped : Fld := ⟨.TIME_ACT_STAT, 2, 1⟩
def F.TIME_ACT_STAT.refused : Fld := ⟨.TIME_ACT_STAT, 3, 1⟩
def F.TIME_ACT_STAT.race : Fld := ⟨.TIME_ACT_STAT, 4, 1⟩
def F.TIME_ACT_FIRE_LO.tag : Fld := ⟨.TIME_ACT_FIRE_LO, 0, 32⟩
def F.TIME_ACT_FIRE_HI.tag : Fld := ⟨.TIME_ACT_FIRE_HI, 0, 32⟩
def F.TEN_SELF.ten : Fld := ⟨.TEN_SELF, 0, 3⟩
def F.TEN_SELF.sec : Fld := ⟨.TEN_SELF, 3, 1⟩
def F.TEN_RST.ten : Fld := ⟨.TEN_RST, 0, 3⟩
def F.TEN_RST.go : Fld := ⟨.TEN_RST, 8, 1⟩
def F.TEN_RST_STAT.busy : Fld := ⟨.TEN_RST_STAT, 0, 8⟩
def F.TEN_RST_STAT.done : Fld := ⟨.TEN_RST_STAT, 8, 8⟩
def F.TEN_MY_STAT.own : Fld := ⟨.TEN_MY_STAT, 0, 32⟩
def F.TEN_MY_POP.pop : Fld := ⟨.TEN_MY_POP, 0, 1⟩
def F.TEN_MY_LF_LO.tag : Fld := ⟨.TEN_MY_LF_LO, 0, 32⟩
def F.TEN_MY_LF_HI.tag : Fld := ⟨.TEN_MY_LF_HI, 0, 32⟩
def F.TEN_MY_LL_LO.tag : Fld := ⟨.TEN_MY_LL_LO, 0, 32⟩
def F.TEN_MY_LL_HI.tag : Fld := ⟨.TEN_MY_LL_HI, 0, 32⟩
def F.TEN_MY_E.word : Fld := ⟨.TEN_MY_E, 0, 32⟩
def F.TEN_CFG.num : Fld := ⟨.TEN_CFG, 0, 3⟩
def F.TEN_CFG.en : Fld := ⟨.TEN_CFG, 3, 1⟩
def F.TEN_CFG.sec_ok : Fld := ⟨.TEN_CFG, 4, 1⟩
def F.TEN_CFG.axes_act : Fld := ⟨.TEN_CFG, 5, 2⟩
def F.TEN_CFG.self_rst : Fld := ⟨.TEN_CFG, 7, 1⟩
def F.TEN_NOTE.core : Fld := ⟨.TEN_NOTE, 0, 4⟩
def F.TEN_NOTE.src : Fld := ⟨.TEN_NOTE, 4, 10⟩
def F.TEN_AQ.aq_base : Fld := ⟨.TEN_AQ, 11, 21⟩
def F.TEN_VLOG_STAT.count : Fld := ⟨.TEN_VLOG_STAT, 0, 6⟩
def F.TEN_VLOG_STAT.lost : Fld := ⟨.TEN_VLOG_STAT, 16, 16⟩
def F.TEN_VLOG_POP.pop : Fld := ⟨.TEN_VLOG_POP, 0, 1⟩
def F.TEN_VLOG_LF_LO.tag : Fld := ⟨.TEN_VLOG_LF_LO, 0, 32⟩
def F.TEN_VLOG_LF_HI.tag : Fld := ⟨.TEN_VLOG_LF_HI, 0, 32⟩
def F.TEN_VLOG_LL_LO.tag : Fld := ⟨.TEN_VLOG_LL_LO, 0, 32⟩
def F.TEN_VLOG_LL_HI.tag : Fld := ⟨.TEN_VLOG_LL_HI, 0, 32⟩
def F.TEN_VLOG_E.word : Fld := ⟨.TEN_VLOG_E, 0, 32⟩
def F.SJNL_PSTAT.paired : Fld := ⟨.SJNL_PSTAT, 0, 1⟩
def F.SJNL_PSTAT.rec : Fld := ⟨.SJNL_PSTAT, 1, 1⟩
def F.SJNL_PSTAT.failed : Fld := ⟨.SJNL_PSTAT, 2, 1⟩
def F.SJNL_PSTAT.inj_fail : Fld := ⟨.SJNL_PSTAT, 3, 1⟩
def F.SJNL_PSTAT.cmp_a : Fld := ⟨.SJNL_PSTAT, 4, 1⟩
def F.SJNL_PSTAT.cmp_b : Fld := ⟨.SJNL_PSTAT, 5, 1⟩
def F.SJNL_PSTAT.restart : Fld := ⟨.SJNL_PSTAT, 6, 1⟩
def F.SJNL_PSTAT.forced : Fld := ⟨.SJNL_PSTAT, 7, 1⟩
def F.SJNL_PSTAT.jstall : Fld := ⟨.SJNL_PSTAT, 8, 1⟩
def F.SJNL_PSTAT.late_ckpt : Fld := ⟨.SJNL_PSTAT, 9, 1⟩
def F.SJNL_PSTAT.recent : Fld := ⟨.SJNL_PSTAT, 12, 2⟩
def F.SJNL_PSTAT.mm_cnt : Fld := ⟨.SJNL_PSTAT, 16, 16⟩
def F.SJNL_PFILL.fill : Fld := ⟨.SJNL_PFILL, 0, 16⟩
def F.SJNL_PFILL.peak : Fld := ⟨.SJNL_PFILL, 16, 16⟩
def F.SJNL_PMTAG_LO.tag : Fld := ⟨.SJNL_PMTAG_LO, 0, 32⟩
def F.SJNL_PMTAG_HI.tag : Fld := ⟨.SJNL_PMTAG_HI, 0, 32⟩
def F.SJNL_PCTAG_LO.tag : Fld := ⟨.SJNL_PCTAG_LO, 0, 32⟩
def F.SJNL_PCTAG_HI.tag : Fld := ⟨.SJNL_PCTAG_HI, 0, 32⟩
def F.SJNL_PREC.last : Fld := ⟨.SJNL_PREC, 0, 16⟩
def F.SJNL_PREC.max_ : Fld := ⟨.SJNL_PREC, 16, 16⟩
def F.JNL_AQ_STAT.count : Fld := ⟨.JNL_AQ_STAT, 0, 7⟩
def F.JNL_AQ_STAT.head : Fld := ⟨.JNL_AQ_STAT, 7, 6⟩
def F.JNL_AQ_STAT.ovf : Fld := ⟨.JNL_AQ_STAT, 13, 1⟩
def F.JNL_AQ_POP.pop : Fld := ⟨.JNL_AQ_POP, 0, 1⟩
def F.JNL_SLOG_STAT.count : Fld := ⟨.JNL_SLOG_STAT, 0, 8⟩
def F.JNL_SLOG_STAT.lost : Fld := ⟨.JNL_SLOG_STAT, 16, 16⟩
def F.JNL_SLOG_POP.pop : Fld := ⟨.JNL_SLOG_POP, 0, 1⟩
def F.JNL_SLOG_LF_LO.tag : Fld := ⟨.JNL_SLOG_LF_LO, 0, 32⟩
def F.JNL_SLOG_LF_HI.tag : Fld := ⟨.JNL_SLOG_LF_HI, 0, 32⟩
def F.JNL_SLOG_LL_LO.tag : Fld := ⟨.JNL_SLOG_LL_LO, 0, 32⟩
def F.JNL_SLOG_LL_HI.tag : Fld := ⟨.JNL_SLOG_LL_HI, 0, 32⟩
def F.JNL_SLOG_E.word : Fld := ⟨.JNL_SLOG_E, 0, 32⟩
def F.SLSH_FLAG.flag : Fld := ⟨.SLSH_FLAG, 0, 32⟩
def F.SLSH_FLAG_SET.flag : Fld := ⟨.SLSH_FLAG_SET, 0, 32⟩
def F.SLSH_FLAG_CLR.flag : Fld := ⟨.SLSH_FLAG_CLR, 0, 32⟩
def F.SLSH_OVR.ovr : Fld := ⟨.SLSH_OVR, 0, 32⟩
def F.SLSH_RAISE.ch : Fld := ⟨.SLSH_RAISE, 0, 6⟩
def F.SLSH_RAISE.data : Fld := ⟨.SLSH_RAISE, 8, 8⟩
def F.SLSH_PROD.pkind : Fld := ⟨.SLSH_PROD, 0, 4⟩
def F.SLSH_PROD.pidx : Fld := ⟨.SLSH_PROD, 4, 6⟩
def F.SLSH_CONS.ckind : Fld := ⟨.SLSH_CONS, 0, 3⟩
def F.SLSH_CONS.core : Fld := ⟨.SLSH_CONS, 3, 4⟩
def F.SLSH_CONS.idx : Fld := ⟨.SLSH_CONS, 7, 10⟩
def F.SLSH_ATTR.en : Fld := ⟨.SLSH_ATTR, 0, 1⟩
def F.SLSH_ATTR.sec : Fld := ⟨.SLSH_ATTR, 1, 1⟩
def F.SLSH_ATTR.owner : Fld := ⟨.SLSH_ATTR, 2, 3⟩
def F.SLSH_ATTR.held : Fld := ⟨.SLSH_ATTR, 5, 1⟩
def F.SLSH_LAST.data : Fld := ⟨.SLSH_LAST, 0, 8⟩
def F.SLSH_LAST.ovr_cnt : Fld := ⟨.SLSH_LAST, 16, 16⟩
def F.SLSH_TAG_LO.tag : Fld := ⟨.SLSH_TAG_LO, 0, 32⟩
def F.SLSH_TAG_HI.tag : Fld := ⟨.SLSH_TAG_HI, 0, 32⟩
def F.LSH_DB.src : Fld := ⟨.LSH_DB, 0, 10⟩
def F.MBX_TX.word : Fld := ⟨.MBX_TX, 0, 32⟩
def F.MBX_TX_STAT.full : Fld := ⟨.MBX_TX_STAT, 0, 1⟩
def F.MBX_TX_STAT.aborted : Fld := ⟨.MBX_TX_STAT, 1, 1⟩
def F.MBX_TX_STAT.rej : Fld := ⟨.MBX_TX_STAT, 2, 1⟩
def F.MEM_ELOG_STAT.count : Fld := ⟨.MEM_ELOG_STAT, 0, 7⟩
def F.MEM_ELOG_STAT.lost : Fld := ⟨.MEM_ELOG_STAT, 16, 16⟩
def F.MEM_ELOG_POP.pop : Fld := ⟨.MEM_ELOG_POP, 0, 1⟩
def F.MEM_ELOG_LF_LO.tag : Fld := ⟨.MEM_ELOG_LF_LO, 0, 32⟩
def F.MEM_ELOG_LF_HI.tag : Fld := ⟨.MEM_ELOG_LF_HI, 0, 32⟩
def F.MEM_ELOG_LL_LO.tag : Fld := ⟨.MEM_ELOG_LL_LO, 0, 32⟩
def F.MEM_ELOG_LL_HI.tag : Fld := ⟨.MEM_ELOG_LL_HI, 0, 32⟩
def F.MEM_ELOG_E.word : Fld := ⟨.MEM_ELOG_E, 0, 32⟩
def F.MEM_SCRUB_CTL.sram_ms : Fld := ⟨.MEM_SCRUB_CTL, 0, 16⟩
def F.MEM_SCRUB_CTL.nvm_s : Fld := ⟨.MEM_SCRUB_CTL, 16, 16⟩
def F.MEM_SCRUB_STAT.sram_pass : Fld := ⟨.MEM_SCRUB_STAT, 0, 1⟩
def F.MEM_SCRUB_STAT.nvm_pass : Fld := ⟨.MEM_SCRUB_STAT, 1, 1⟩
def F.MEM_INIT_BASE.base : Fld := ⟨.MEM_INIT_BASE, 12, 20⟩
def F.MEM_INIT_CNT.cnt : Fld := ⟨.MEM_INIT_CNT, 0, 13⟩
def F.MEM_INIT_CMD.start : Fld := ⟨.MEM_INIT_CMD, 0, 1⟩
def F.MEM_INIT_STAT.busy : Fld := ⟨.MEM_INIT_STAT, 0, 1⟩
def F.MEM_INIT_STAT.cnt_clamp : Fld := ⟨.MEM_INIT_STAT, 1, 1⟩
def F.MEM_INIT_STAT.refused : Fld := ⟨.MEM_INIT_STAT, 2, 1⟩
def F.MEM_RETIRE_STAT.busy : Fld := ⟨.MEM_RETIRE_STAT, 0, 1⟩
def F.MEM_RETIRE_STAT.bad_page : Fld := ⟨.MEM_RETIRE_STAT, 1, 1⟩
def F.MEM_RETIRE_STAT.used : Fld := ⟨.MEM_RETIRE_STAT, 6, 7⟩
def F.MEM_NV_SRC.src : Fld := ⟨.MEM_NV_SRC, 6, 26⟩
def F.MEM_NV_DST.dst : Fld := ⟨.MEM_NV_DST, 6, 26⟩
def F.MEM_NV_LEN.len : Fld := ⟨.MEM_NV_LEN, 6, 9⟩
def F.MEM_NV_CMD.cmd : Fld := ⟨.MEM_NV_CMD, 0, 2⟩
def F.MEM_NV_STAT.busy : Fld := ⟨.MEM_NV_STAT, 0, 1⟩
def F.MEM_NV_STAT.done : Fld := ⟨.MEM_NV_STAT, 1, 1⟩
def F.MEM_NV_STAT.not_erased : Fld := ⟨.MEM_NV_STAT, 2, 1⟩
def F.MEM_NV_STAT.no_spare : Fld := ⟨.MEM_NV_STAT, 3, 1⟩
def F.MEM_NV_STAT.ue : Fld := ⟨.MEM_NV_STAT, 4, 1⟩
def F.MEM_NV_STAT.len_clamp : Fld := ⟨.MEM_NV_STAT, 5, 1⟩
def F.MEM_NV_STAT.refused : Fld := ⟨.MEM_NV_STAT, 6, 1⟩
def F.MEM_NV_STAT.lines : Fld := ⟨.MEM_NV_STAT, 8, 9⟩
def F.MEM_NV_SPARE.spare : Fld := ⟨.MEM_NV_SPARE, 0, 6⟩
def F.MEM_NV_SPARE.retired : Fld := ⟨.MEM_NV_SPARE, 16, 12⟩
def F.MEM_REPAIR.cols : Fld := ⟨.MEM_REPAIR, 0, 16⟩
def F.MEM_RETIRE.en : Fld := ⟨.MEM_RETIRE, 0, 1⟩
def F.MEM_RETIRE.page : Fld := ⟨.MEM_RETIRE, 12, 20⟩
def F.MEM_RGN_BASE.base : Fld := ⟨.MEM_RGN_BASE, 12, 20⟩
def F.MEM_RGN_LIMIT.limit : Fld := ⟨.MEM_RGN_LIMIT, 12, 20⟩
def F.MEM_RGN_ATTR.en : Fld := ⟨.MEM_RGN_ATTR, 0, 1⟩
def F.MEM_RGN_ATTR.r : Fld := ⟨.MEM_RGN_ATTR, 1, 1⟩
def F.MEM_RGN_ATTR.w : Fld := ⟨.MEM_RGN_ATTR, 2, 1⟩
def F.MEM_RGN_ATTR.x : Fld := ⟨.MEM_RGN_ATTR, 3, 1⟩
def F.MEM_RGN_ATTR.user : Fld := ⟨.MEM_RGN_ATTR, 4, 1⟩
def F.MEM_RGN_ATTR.sec : Fld := ⟨.MEM_RGN_ATTR, 5, 1⟩
def F.MEM_RGN_ATTR.owner : Fld := ⟨.MEM_RGN_ATTR, 6, 3⟩
def F.MEM_WIN_BASE.base : Fld := ⟨.MEM_WIN_BASE, 0, 28⟩
def F.MEM_WIN_CTL.en : Fld := ⟨.MEM_WIN_CTL, 0, 1⟩
def F.MEM_WIN_CTL.r : Fld := ⟨.MEM_WIN_CTL, 1, 1⟩
def F.MEM_WIN_CTL.wr : Fld := ⟨.MEM_WIN_CTL, 2, 1⟩
def F.MEM_WIN_CTL.locked : Fld := ⟨.MEM_WIN_CTL, 3, 1⟩
def F.DMA_CTL.chain : Fld := ⟨.DMA_CTL, 0, 1⟩
def F.DMA_CTL.trig : Fld := ⟨.DMA_CTL, 1, 2⟩
def F.DMA_CTL.lsh_ch : Fld := ⟨.DMA_CTL, 3, 6⟩
def F.DMA_CTL.done_en : Fld := ⟨.DMA_CTL, 9, 1⟩
def F.DMA_CTL.done_ch : Fld := ⟨.DMA_CTL, 10, 6⟩
def F.DMA_SRC_LO.src : Fld := ⟨.DMA_SRC_LO, 0, 32⟩
def F.DMA_SRC_HI.src : Fld := ⟨.DMA_SRC_HI, 0, 20⟩
def F.DMA_DST_LO.dst : Fld := ⟨.DMA_DST_LO, 0, 32⟩
def F.DMA_DST_HI.dst : Fld := ⟨.DMA_DST_HI, 0, 20⟩
def F.DMA_LEN.len : Fld := ⟨.DMA_LEN, 2, 22⟩
def F.DMA_NEXT.next : Fld := ⟨.DMA_NEXT, 5, 27⟩
def F.DMA_CMD.start : Fld := ⟨.DMA_CMD, 0, 1⟩
def F.DMA_CMD.stop : Fld := ⟨.DMA_CMD, 1, 1⟩
def F.DMA_STAT.busy : Fld := ⟨.DMA_STAT, 0, 1⟩
def F.DMA_STAT.done : Fld := ⟨.DMA_STAT, 1, 1⟩
def F.DMA_STAT.halted : Fld := ⟨.DMA_STAT, 2, 1⟩
def F.DMA_STAT.cause : Fld := ⟨.DMA_STAT, 3, 2⟩
def F.DMA_STAT.clamp : Fld := ⟨.DMA_STAT, 5, 1⟩
def F.DMA_TAG_LO.tag : Fld := ⟨.DMA_TAG_LO, 0, 32⟩
def F.DMA_TAG_HI.tag : Fld := ⟨.DMA_TAG_HI, 0, 32⟩
def F.TRC_CTL.en : Fld := ⟨.TRC_CTL, 0, 1⟩
def F.TRC_CTL.cls : Fld := ⟨.TRC_CTL, 1, 4⟩
def F.TRC_CTL.wrap : Fld := ⟨.TRC_CTL, 5, 1⟩
def F.TRC_STAT.fill : Fld := ⟨.TRC_STAT, 0, 16⟩
def F.TRC_STAT.gap : Fld := ⟨.TRC_STAT, 16, 1⟩
def F.TRC_STAT.full : Fld := ⟨.TRC_STAT, 17, 1⟩
def F.TRC_CNT.gaps : Fld := ⟨.TRC_CNT, 0, 16⟩
def F.TRC_CNT.ovw : Fld := ⟨.TRC_CNT, 16, 16⟩
def F.FAB_CTL.tmo : Fld := ⟨.FAB_CTL, 0, 16⟩
def F.FAB_CTL.ts_lane : Fld := ⟨.FAB_CTL, 16, 2⟩
def F.FAB_CTL.lane_en : Fld := ⟨.FAB_CTL, 20, 4⟩
def F.FAB_NODE.node : Fld := ⟨.FAB_NODE, 0, 8⟩
def F.FAB_NODE.valid : Fld := ⟨.FAB_NODE, 8, 1⟩
def F.FAB_REQ_STAT.len_clamp : Fld := ⟨.FAB_REQ_STAT, 0, 1⟩
def F.FAB_REQ_STAT.late_rsp : Fld := ⟨.FAB_REQ_STAT, 16, 16⟩
def F.FAB_LSTAT.state : Fld := ⟨.FAB_LSTAT, 0, 3⟩
def F.FAB_LSTAT.pol_inv : Fld := ⟨.FAB_LSTAT, 3, 1⟩
def F.FAB_LSTAT.loss : Fld := ⟨.FAB_LSTAT, 4, 4⟩
def F.FAB_LSTAT.partner : Fld := ⟨.FAB_LSTAT, 8, 8⟩
def F.FAB_LSTAT.surprise : Fld := ⟨.FAB_LSTAT, 16, 1⟩
def F.FAB_LSTAT.drain_to : Fld := ⟨.FAB_LSTAT, 17, 1⟩
def F.FAB_LSTAT.id_err : Fld := ⟨.FAB_LSTAT, 18, 1⟩
def F.FAB_LCMD.cmd : Fld := ⟨.FAB_LCMD, 0, 2⟩
def F.FAB_LCNT.corr : Fld := ⟨.FAB_LCNT, 0, 16⟩
def F.FAB_LCNT.uncorr : Fld := ⟨.FAB_LCNT, 16, 16⟩
def F.FAB_LCNT2.replays : Fld := ⟨.FAB_LCNT2, 0, 16⟩
def F.FAB_LCNT2.icv_err : Fld := ⟨.FAB_LCNT2, 16, 16⟩
def F.FAB_ROUTE.pri : Fld := ⟨.FAB_ROUTE, 0, 2⟩
def F.FAB_ROUTE.pen : Fld := ⟨.FAB_ROUTE, 2, 1⟩
def F.FAB_ROUTE.alt : Fld := ⟨.FAB_ROUTE, 3, 2⟩
def F.FAB_ROUTE.aen : Fld := ⟨.FAB_ROUTE, 5, 1⟩
def F.FAB_INMAP.en : Fld := ⟨.FAB_INMAP, 0, 1⟩
def F.FAB_INMAP.node : Fld := ⟨.FAB_INMAP, 1, 8⟩
def F.FAB_INMAP.rten : Fld := ⟨.FAB_INMAP, 9, 3⟩
def F.FAB_INMAP.lten : Fld := ⟨.FAB_INMAP, 12, 3⟩
def F.FAB_INMAP.sec_ok : Fld := ⟨.FAB_INMAP, 15, 1⟩
def F.FAB_MRX.core : Fld := ⟨.FAB_MRX, 0, 4⟩
def F.FAB_MRX.ch : Fld := ⟨.FAB_MRX, 4, 4⟩
def F.FAB_MRX.node : Fld := ⟨.FAB_MRX, 8, 8⟩
def F.FAB_MRX.ten : Fld := ⟨.FAB_MRX, 16, 3⟩
def F.FAB_MRX.en : Fld := ⟨.FAB_MRX, 19, 1⟩
def F.FAB_MTX.word : Fld := ⟨.FAB_MTX, 0, 32⟩
def F.FAB_MTX_CFG.node : Fld := ⟨.FAB_MTX_CFG, 0, 8⟩
def F.FAB_MTX_CFG.core : Fld := ⟨.FAB_MTX_CFG, 8, 4⟩
def F.FAB_MTX_CFG.ch : Fld := ⟨.FAB_MTX_CFG, 12, 4⟩
def F.FAB_MTX_CFG.owner : Fld := ⟨.FAB_MTX_CFG, 16, 3⟩
def F.FAB_MTX_CFG.sec : Fld := ⟨.FAB_MTX_CFG, 19, 1⟩
def F.FAB_MTX_CFG.en : Fld := ⟨.FAB_MTX_CFG, 20, 1⟩
def F.FAB_MTX_STAT.busy : Fld := ⟨.FAB_MTX_STAT, 0, 1⟩
def F.FAB_MTX_STAT.sent : Fld := ⟨.FAB_MTX_STAT, 1, 1⟩
def F.FAB_MTX_STAT.rej : Fld := ⟨.FAB_MTX_STAT, 2, 1⟩
def F.FAB_MTX_STAT.aborted : Fld := ⟨.FAB_MTX_STAT, 3, 1⟩
def F.FAB_MTX_STAT.refused : Fld := ⟨.FAB_MTX_STAT, 4, 1⟩
def F.FAB_MTX_STAT.lost : Fld := ⟨.FAB_MTX_STAT, 5, 1⟩
def F.ETH_Q_BASE.base : Fld := ⟨.ETH_Q_BASE, 4, 28⟩
def F.ETH_Q_CFG.size : Fld := ⟨.ETH_Q_CFG, 0, 11⟩
def F.ETH_Q_CFG.buf_len : Fld := ⟨.ETH_Q_CFG, 11, 12⟩
def F.ETH_Q_CFG.en : Fld := ⟨.ETH_Q_CFG, 23, 1⟩
def F.ETH_Q_HEAD.head : Fld := ⟨.ETH_Q_HEAD, 0, 10⟩
def F.ETH_Q_TAIL.tail : Fld := ⟨.ETH_Q_TAIL, 0, 10⟩
def F.ETH_Q_STAT.clamp : Fld := ⟨.ETH_Q_STAT, 0, 1⟩
def F.ETH_Q_STAT.late : Fld := ⟨.ETH_Q_STAT, 1, 1⟩
def F.ETH_Q_STAT.drop_cnt : Fld := ⟨.ETH_Q_STAT, 16, 16⟩
def F.CAN_Q_BASE.base : Fld := ⟨.CAN_Q_BASE, 4, 28⟩
def F.CAN_Q_CFG.size : Fld := ⟨.CAN_Q_CFG, 0, 11⟩
def F.CAN_Q_CFG.buf_len : Fld := ⟨.CAN_Q_CFG, 11, 12⟩
def F.CAN_Q_CFG.en : Fld := ⟨.CAN_Q_CFG, 23, 1⟩
def F.CAN_Q_HEAD.head : Fld := ⟨.CAN_Q_HEAD, 0, 10⟩
def F.CAN_Q_TAIL.tail : Fld := ⟨.CAN_Q_TAIL, 0, 10⟩
def F.CAN_Q_STAT.clamp : Fld := ⟨.CAN_Q_STAT, 0, 1⟩
def F.CAN_Q_STAT.late : Fld := ⟨.CAN_Q_STAT, 1, 1⟩
def F.CAN_Q_STAT.drop_cnt : Fld := ⟨.CAN_Q_STAT, 16, 16⟩
def F.PWR_CMD.cmd : Fld := ⟨.PWR_CMD, 0, 2⟩
def F.PWR_STAT.busy : Fld := ⟨.PWR_STAT, 0, 1⟩
def F.PWR_STAT.refused : Fld := ⟨.PWR_STAT, 1, 1⟩
def F.PWR_STAT.aborted : Fld := ⟨.PWR_STAT, 2, 1⟩
def F.PWR_STAT.gov : Fld := ⟨.PWR_STAT, 3, 1⟩
def F.PWR_STAT.rest : Fld := ⟨.PWR_STAT, 16, 12⟩
def F.PWR_DEN_CTL.trc_ret : Fld := ⟨.PWR_DEN_CTL, 0, 1⟩
def F.PWR_DEN_CTL.den_to : Fld := ⟨.PWR_DEN_CTL, 4, 12⟩
def F.PWR_AO_CAUSE.whistle : Fld := ⟨.PWR_AO_CAUSE, 0, 8⟩
def F.PWR_AO_CAUSE.timer : Fld := ⟨.PWR_AO_CAUSE, 8, 1⟩
def F.PWR_AO_CAUSE.leash : Fld := ⟨.PWR_AO_CAUSE, 9, 1⟩
def F.PWR_AO_CAUSE.alarm : Fld := ⟨.PWR_AO_CAUSE, 10, 1⟩
def F.PWR_AO_CAUSE.from_ : Fld := ⟨.PWR_AO_CAUSE, 11, 2⟩
def F.PWR_AO_CAUSE.sup_fault : Fld := ⟨.PWR_AO_CAUSE, 13, 1⟩
def F.PWR_AO_CAUSE.core_bo : Fld := ⟨.PWR_AO_CAUSE, 14, 1⟩
def F.PWR_AO_CAUSE.den_to : Fld := ⟨.PWR_AO_CAUSE, 15, 1⟩
def F.PWR_AO_WAKE.cnt : Fld := ⟨.PWR_AO_WAKE, 0, 32⟩
def F.PWR_AO_TAG_LO.tag : Fld := ⟨.PWR_AO_TAG_LO, 0, 32⟩
def F.PWR_AO_TAG_HI.tag : Fld := ⟨.PWR_AO_TAG_HI, 0, 32⟩
def F.PWR_RST_CMD.kind : Fld := ⟨.PWR_RST_CMD, 0, 2⟩
def F.PWR_RST_CMD.pack : Fld := ⟨.PWR_RST_CMD, 4, 2⟩
def F.PWR_RST_CMD.go : Fld := ⟨.PWR_RST_CMD, 8, 1⟩
def F.PWR_RST_STAT.cause : Fld := ⟨.PWR_RST_STAT, 0, 3⟩
def F.PWR_RST_STAT.pack_busy : Fld := ⟨.PWR_RST_STAT, 4, 4⟩
def F.PWR_RST_STAT.pack_done : Fld := ⟨.PWR_RST_STAT, 8, 4⟩
def F.PWR_RST_STAT.stage : Fld := ⟨.PWR_RST_STAT, 12, 4⟩
def F.PWR_RST_STAT.halt : Fld := ⟨.PWR_RST_STAT, 16, 1⟩
def F.PWR_RST_STAT.dev_cnt : Fld := ⟨.PWR_RST_STAT, 24, 8⟩
def F.PWR_PACE_STAT.out : Fld := ⟨.PWR_PACE_STAT, 0, 32⟩
def F.PWR_PACE_SEEN.seen : Fld := ⟨.PWR_PACE_SEEN, 0, 32⟩
def F.PWR_PACE_SEL.isl : Fld := ⟨.PWR_PACE_SEL, 0, 7⟩
def F.PWR_PACE_MEAS.step : Fld := ⟨.PWR_PACE_MEAS, 0, 12⟩
def F.PWR_PACE_MEAS.reg : Fld := ⟨.PWR_PACE_MEAS, 16, 12⟩
def F.PWR_PACE_CNT.loss : Fld := ⟨.PWR_PACE_CNT, 0, 16⟩
def F.PWR_WHISTLE.en : Fld := ⟨.PWR_WHISTLE, 0, 1⟩
def F.PWR_WHISTLE.det : Fld := ⟨.PWR_WHISTLE, 1, 3⟩
def F.PWR_WHISTLE.flt : Fld := ⟨.PWR_WHISTLE, 4, 8⟩
def F.PWR_WHISTLE.wake_den : Fld := ⟨.PWR_WHISTLE, 12, 1⟩
def F.PWR_WHISTLE.wake_ken : Fld := ⟨.PWR_WHISTLE, 13, 1⟩
def F.PWR_WHISTLE.live : Fld := ⟨.PWR_WHISTLE, 14, 1⟩
def F.PWR_WHISTLE.seen : Fld := ⟨.PWR_WHISTLE, 15, 1⟩
def F.PWR_WHISTLE.cfg_clamp : Fld := ⟨.PWR_WHISTLE, 16, 1⟩
def F.PWR_D2D_STATUS.fld_up : Fld := ⟨.PWR_D2D_STATUS, 0, 1⟩
def F.PWR_D2D_STATUS.mem_up : Fld := ⟨.PWR_D2D_STATUS, 1, 1⟩
def F.PWR_D2D_STATUS.fld_fail : Fld := ⟨.PWR_D2D_STATUS, 2, 1⟩
def F.PWR_D2D_STATUS.mem_fail : Fld := ⟨.PWR_D2D_STATUS, 3, 1⟩
def F.PWR_D2D_STATUS.fld_loss : Fld := ⟨.PWR_D2D_STATUS, 4, 4⟩
def F.PWR_D2D_STATUS.mem_loss : Fld := ⟨.PWR_D2D_STATUS, 8, 4⟩
def F.PWR_D2D_STATUS.crc_sat : Fld := ⟨.PWR_D2D_STATUS, 12, 1⟩
def F.PWR_D2D_STATUS.crc_err : Fld := ⟨.PWR_D2D_STATUS, 16, 16⟩
def F.PWR_SENS_CTL.en : Fld := ⟨.PWR_SENS_CTL, 0, 1⟩
def F.PWR_SENS_CTL.auto_retry : Fld := ⟨.PWR_SENS_CTL, 1, 1⟩
def F.PWR_SENS_STAT.on : Fld := ⟨.PWR_SENS_STAT, 0, 1⟩
def F.PWR_SENS_STAT.ilim : Fld := ⟨.PWR_SENS_STAT, 1, 1⟩
def F.PWR_SENS_STAT.short : Fld := ⟨.PWR_SENS_STAT, 2, 1⟩
def F.PWR_SENS_STAT.ext : Fld := ⟨.PWR_SENS_STAT, 3, 1⟩
def F.PWR_SENS_STAT.uv : Fld := ⟨.PWR_SENS_STAT, 4, 1⟩
def F.PWR_SENS_STAT.short_cnt : Fld := ⟨.PWR_SENS_STAT, 16, 16⟩
def F.THM_THR.warn : Fld := ⟨.THM_THR, 0, 8⟩
def F.THM_THR.limit : Fld := ⟨.THM_THR, 8, 8⟩
def F.THM_THR.trip : Fld := ⟨.THM_THR, 16, 8⟩
def F.THM_THR.flt_trip : Fld := ⟨.THM_THR, 24, 1⟩
def F.THM_LSH.en : Fld := ⟨.THM_LSH, 0, 1⟩
def F.THM_LSH.ch : Fld := ⟨.THM_LSH, 1, 6⟩
def F.THM_STAT.core : Fld := ⟨.THM_STAT, 0, 2⟩
def F.THM_STAT.fld : Fld := ⟨.THM_STAT, 2, 2⟩
def F.THM_STAT.warn_seen : Fld := ⟨.THM_STAT, 4, 1⟩
def F.THM_STAT.limit_seen : Fld := ⟨.THM_STAT, 5, 1⟩
def F.THM_STAT.trip_seen : Fld := ⟨.THM_STAT, 6, 1⟩
def F.THM_STAT.flt_seen : Fld := ⟨.THM_STAT, 7, 1⟩
def F.THM_STAT.cfg_clamp : Fld := ⟨.THM_STAT, 8, 1⟩
def F.THM_STAT.chg_cnt : Fld := ⟨.THM_STAT, 16, 16⟩
def F.THM_SEN.temp : Fld := ⟨.THM_SEN, 0, 12⟩
def F.THM_SEN.warn : Fld := ⟨.THM_SEN, 12, 1⟩
def F.THM_SEN.limit : Fld := ⟨.THM_SEN, 13, 1⟩
def F.THM_SEN.trip : Fld := ⟨.THM_SEN, 14, 1⟩
def F.THM_SEN.flt : Fld := ⟨.THM_SEN, 15, 1⟩
def F.THM_SEN.valid : Fld := ⟨.THM_SEN, 16, 1⟩
def F.INT_DOORBELL.src : Fld := ⟨.INT_DOORBELL, 0, 10⟩
def F.INT_STAT.last : Fld := ⟨.INT_STAT, 0, 10⟩
def F.INT_STAT.pend_any : Fld := ⟨.INT_STAT, 16, 1⟩
def F.INT_STAT.ovr : Fld := ⟨.INT_STAT, 17, 1⟩
def F.INT_CNT.dup : Fld := ⟨.INT_CNT, 0, 16⟩
def F.INT_CNT.taken : Fld := ⟨.INT_CNT, 16, 16⟩
def F.INT_FAST.fast : Fld := ⟨.INT_FAST, 0, 32⟩
def F.INT_DBT.ten : Fld := ⟨.INT_DBT, 0, 8⟩
def F.INT_PEND.pend : Fld := ⟨.INT_PEND, 0, 32⟩
def F.INT_PEND_SET.pend : Fld := ⟨.INT_PEND_SET, 0, 32⟩
def F.INT_PEND_CLR.pend : Fld := ⟨.INT_PEND_CLR, 0, 32⟩
def F.INT_MASK.mask : Fld := ⟨.INT_MASK, 0, 32⟩
def F.INT_MASK_SET.mask : Fld := ⟨.INT_MASK_SET, 0, 32⟩
def F.INT_MASK_CLR.mask : Fld := ⟨.INT_MASK_CLR, 0, 32⟩
def F.MBX_RX.word : Fld := ⟨.MBX_RX, 0, 32⟩
def F.MBX_RX_FULL.full : Fld := ⟨.MBX_RX_FULL, 0, 16⟩
def F.MBX_RX_STAT.rej : Fld := ⟨.MBX_RX_STAT, 0, 16⟩
def F.MBX_RX_STAT.clamp : Fld := ⟨.MBX_RX_STAT, 16, 16⟩
def F.MBX_RX_SNAP_TAG_LO.tag : Fld := ⟨.MBX_RX_SNAP_TAG_LO, 0, 32⟩
def F.MBX_RX_SNAP_TAG_HI.tag : Fld := ⟨.MBX_RX_SNAP_TAG_HI, 0, 32⟩
def F.MBX_RX_CFG.src : Fld := ⟨.MBX_RX_CFG, 0, 10⟩
def F.MBX_RX_CFG.sender : Fld := ⟨.MBX_RX_CFG, 10, 6⟩
def F.MBX_RX_CFG.en : Fld := ⟨.MBX_RX_CFG, 16, 1⟩
def F.MBX_RX_CFG.sec : Fld := ⟨.MBX_RX_CFG, 17, 1⟩
def F.MBX_RX_CFG.owner : Fld := ⟨.MBX_RX_CFG, 18, 3⟩
def F.CHK_CTL.interval : Fld := ⟨.CHK_CTL, 0, 10⟩
def F.CHK_STAT.paired : Fld := ⟨.CHK_STAT, 0, 1⟩
def F.CHK_STAT.cfg_clamp : Fld := ⟨.CHK_STAT, 1, 1⟩
def F.CHK_POS.pos : Fld := ⟨.CHK_POS, 0, 28⟩
def F.SCHED_SAVE.base : Fld := ⟨.SCHED_SAVE, 9, 23⟩
def F.SCHED_CMD.ctx : Fld := ⟨.SCHED_CMD, 0, 5⟩
def F.SCHED_CMD.cmd : Fld := ⟨.SCHED_CMD, 5, 3⟩
def F.SCHED_STAT.cur : Fld := ⟨.SCHED_STAT, 0, 5⟩
def F.SCHED_STAT.fast : Fld := ⟨.SCHED_STAT, 5, 1⟩
def F.SCHED_STAT.live : Fld := ⟨.SCHED_STAT, 6, 6⟩
def F.SCHED_STAT.free_banks : Fld := ⟨.SCHED_STAT, 12, 4⟩
def F.SCHED_STAT.spill_busy : Fld := ⟨.SCHED_STAT, 16, 1⟩
def F.SCHED_CNT.sw_cnt : Fld := ⟨.SCHED_CNT, 0, 16⟩
def F.SCHED_CNT.spill_cnt : Fld := ⟨.SCHED_CNT, 16, 16⟩
def F.SCHED_FP.owner : Fld := ⟨.SCHED_FP, 0, 6⟩
def F.SCHED_FP.valid : Fld := ⟨.SCHED_FP, 6, 1⟩
def F.SCHED_DF_EPC.value : Fld := ⟨.SCHED_DF_EPC, 0, 32⟩
def F.SCHED_DF_CAUSE.value : Fld := ⟨.SCHED_DF_CAUSE, 0, 32⟩
def F.SCHED_DF_VAL.value : Fld := ⟨.SCHED_DF_VAL, 0, 32⟩
def F.SCHED_DF_STATUS.value : Fld := ⟨.SCHED_DF_STATUS, 0, 32⟩
def F.SCHED_CTX.prio : Fld := ⟨.SCHED_CTX, 0, 4⟩
def F.SCHED_CTX.user : Fld := ⟨.SCHED_CTX, 4, 1⟩
def F.SCHED_CTX.fp : Fld := ⟨.SCHED_CTX, 5, 1⟩
def F.SCHED_CTX.wake_en : Fld := ⟨.SCHED_CTX, 6, 1⟩
def F.SCHED_CTX.wake_src : Fld := ⟨.SCHED_CTX, 7, 10⟩
def F.SCHED_CTX_ENTRY.entry : Fld := ⟨.SCHED_CTX_ENTRY, 2, 30⟩
def F.SCHED_CTX_ARG.arg : Fld := ⟨.SCHED_CTX_ARG, 0, 32⟩
def F.SCHED_CTX_STAT.state : Fld := ⟨.SCHED_CTX_STAT, 0, 3⟩
def F.SCHED_CTX_STAT.bank : Fld := ⟨.SCHED_CTX_STAT, 3, 3⟩
def F.SCHED_CTX_STAT.resident : Fld := ⟨.SCHED_CTX_STAT, 6, 1⟩

end Sys2Proof.Machine
end

