-- ==== Sys2Proof/Machine/State.lean ====
section
/-! DEFINITION. The state of the block as plain data. Every register the spec tables is in `regs`; the structures below
hold what no register shows. An array of hidden state is a finite map (Machine/Map.lean). -/

namespace Sys2Proof.Machine

/-- What stops the block. -/
inductive Fault where
  /-- Raised by a command whose operand lists are not of the length the spec fixes for them (WellFormed.lean): no
  environment sends one. Safe: it allows less than the device. -/
  | illFormed
deriving DecidableEq, Repr

/-- Why a command is refused. -/
inductive Refusal where
  /-- Raised by an arm of `exec` that has no meaning yet. Safe. -/
  | notModelled (mnemonic : String)
  /-- Raised by an access to the debug block at 0xF000_0000, whose registers and effects the spec does not give
  (R297, R401). Safe: the model stops where the device goes on. -/
  | debugBlock
deriving DecidableEq, Repr

/-- The timebases (R31 to R44): raw crystal ticks, the tag with its fraction in 10^-9 tag units, whether the system
timebase is stopped (the core die is held in reset or off, R42, R44), the message counts of R38 and R486, and the always-on shadow of
R44 with the raw tick of the last copy and the cycles counted from it. `raw` goes on while the timebase is stopped (log 115). -/
structure Clock where
  raw : Nat := 0
  tag : Tag := 0
  frac : Nat := 0
  stopped : Bool := false
  good : Nat := 0
  bad : Nat := 0
  lastMsg : Tag := 0
  aoTag : Tag := 0
  aoRate : Word := 0
  aoState : Nat := 0
  aoStepped : Bool := false
  aoCycles : Nat := 0
  aoAt : Nat := 0
  /-- Slots whose refusal has not yet returned to the TIME block (R53). -/
  slotRefs : List Nat := []
  /-- Slots that were late at arming or at a step, or met a write in their fire tick, and fire in this tick (R41, R54, R56). -/
  due : List Nat := []
  /-- The raw tick after the one in which a slot last fired, 0 for none (R56). -/
  fired : SMap Nat := []
  /-- The last tag that the field die of a pack received, and the raw tick at which its forwarded clock went (R43). -/
  lost : SMap (Tag × Nat) := []
deriving DecidableEq, Repr

/-- The values that registers held at the start of a tick, of those written in it (R73, R81, R94, R147): the tick, and each
register with its pack and indices. The model's own field, not the spec's. -/
structure Was where
  at_ : Nat := 0
  regs : List (RegName × Nat × Nat × Nat × Word) := []
deriving DecidableEq, Repr

/-- One record of a log or alarm queue: four words of content, a count and two tags (R318, R365, R396, R399). -/
structure LogRec where
  a : Word := 0
  b : Word := 0
  c : Word := 0
  d : Word := 0
  count : Word := 1
  first : Tag := 0
  last : Tag := 0
  /-- The timing domain and the requester that order the records of one tag (R61, R367); no word of the record. -/
  key : Nat := 0
deriving DecidableEq, Repr

/-- The read and write latches and the snapshots of one reader (R46, R47, R83, R319, R354). -/
structure Latch where
  hi : Word := 0
  wr : Option Word := none
  res : List Word := []
  elog : List Word := []
  vlog : List Word := []
  slog : List Word := []
  mbx : List Word := []
  mbxTag : Tag := 0
  pos : SMap (List Word) := []
deriving DecidableEq, Repr

/-- The owner tenant and security attribute of a resource (R30). A resource that no OWN record assigns belongs to T0
with the secure attribute (R360). -/
structure Owner where
  ten : Nat := 0
  sec : Bool := true
deriving DecidableEq, Repr

/-- The owned resources (R360) that have no owner register of their own. -/
inductive Res where
  | pack (p : Nat)
  | axis (p a : Nat)
  | set (p s : Nat)
  | dma (k : Nat)
  | slot (n : Nat)
  | window (c w : Nat)
  | netq (can : Bool) (q : Nat)
  | host (c : Nat)
  | sens (n : Nat)
deriving DecidableEq, Repr

/-- The four states of a line in a host core's data cache (Coherence). -/
inductive Mesi where
  | i
  | s
  | e
  | m
deriving DecidableEq, Repr

/-- Memory state beside the bytes: the valid bits in three copies (R310), the flipped bits of each stored SRAM word and
the number of flipped bits of each nonvolatile line (R312) and of each word of the loop-engine arrays (R313, R315), cache line states keyed 8·line + core, L2 lines (1 clean, 2
dirty), programmed lines and retired blocks of the memory die (R322 to R326), closed pages and pages closing (R320). -/
structure RamSt where
  valid : SMap (BitVec 3) := []
  flips : SMap (BitVec 39) := []
  nvFlips : SMap Nat := []
  leFlips : SMap Nat := []
  l1 : SMap Mesi := []
  l2 : SMap Nat := []
  /-- A cached copy with flipped bits, by 9 · line + cache (host L1 data caches 0 to 7, the L2 8): the word of the line and how many bits
  (R312 to R314). -/
  cFlips : SMap (Nat × Nat) := []
  nvProg : SMap Bool := []
  nvRetired : SMap Bool := []
  nvJob : Nat := 0
  /-- The source, destination and length in bytes that the running command was given (R322). -/
  nvArg : Nat × Nat × Nat := (0, 0, 0)
  closing : List (Nat × Nat) := []
  closed : List Nat := []
deriving DecidableEq, Repr

/-- A trace record: its class and tag; a gap record: the class, count, first and last tag of the records dropped (R401, log 92). -/
structure TrcRec where
  cls : Nat := 0
  gap : Bool := false
  n : Nat := 1
  first : Tag := 0
  last : Tag := 0
deriving DecidableEq, Repr

/-- The logs (R318, R365, R399), oldest first, and what waits for the record port (R400): staged log records, alarm
entries to copy, host-pair journal records and trace records. -/
structure LogSt where
  vlog : SMap (List LogRec) := []
  elog : List LogRec := []
  slog : List LogRec := []
  /-- Staged records: log 0 to 7 a violation log, 8 the error log, 9 the system log. -/
  staged : List (Nat × LogRec) := []
  alarms : SMap (List LogRec) := []
  aqPort : List (Nat × Nat) := []
  jnlPort : List Nat := []
  trcPort : List TrcRec := []
  trace : List TrcRec := []
  /-- The run of dropped trace records of each class, as the gap record that it leaves. -/
  trcGap : SMap (Option TrcRec) := []
deriving DecidableEq, Repr

/-- An event of a leash channel (R336). -/
structure LEv where
  data : Byte := 0
  tag : Tag := 0
  /-- The place of the software that raised it in the order of R304; 0 of hardware (R340). -/
  rank : Nat := 0
deriving DecidableEq, Repr

/-- Leash events raised and not yet delivered, by global channel in the order of R340, the held event of each channel (R344), and the
tick and tag of the event that a channel delivered last. -/
structure LshSt where
  flight : SMap (List LEv) := []
  held : SMap (List LEv) := []
  last : SMap (Option (Nat × Tag)) := []
deriving DecidableEq, Repr

/-- A running DMA transfer: its next source and destination address, the bytes left and a waiting stop (R333, R335). -/
structure DmaRun where
  src : Nat := 0
  dst : Nat := 0
  left : Nat := 0
  stop : Bool := false
  /-- 0 nothing, 1 a remote read, 2 a remote write of this many bytes is outstanding. -/
  wait : Nat := 0
  wlen : Nat := 0
deriving DecidableEq, Repr

/-- The answer to the last access made by a command: error response and data. The model's own field, not the spec's. -/
structure Resp where
  err : Bool := false
  data : Word := 0
deriving DecidableEq, Repr

/-- The calibration a sample was taken with (R73, R78): whether it applies, the set number and the set's words. -/
structure CalUse where
  on : Bool := false
  set : Nat := 0
  ofs : Word := 0
  gain : Word := 0x3F800000
  lvl : Word := 0
  range : Nat := 0
  valid : Bool := true
deriving DecidableEq, Repr

/-- A sample on its way to the sample router (R82): kind 0 an entry's sample, 1 a decimator output, 2 the repeat of a missed
hold (R70); its input or channel, code or raw output, the raw tick by which it is in time (R71), and the axis and input slot that
its input was bound to when it was taken (R241). -/
structure Samp where
  kind : Nat := 0
  n : Nat := 0
  diff : Bool := false
  gain : Nat := 0
  raw : Int := 0
  den : Nat := 1
  code : Nat := 0
  tag : Tag := 0
  due : Nat := 0
  flags : Nat := 0
  cal : CalUse := {}
  toSlot : Bool := true
  axis : Nat := 7
  leIn : Nat := 0
deriving DecidableEq, Repr

/-- A sample-and-hold (R64): 0 tracking, 1 holding a sample that waits for its SAR, 2 converting, 3 reconverting; the sample,
whether it belongs to a resolver channel (channel and sine), the entry that holds and the raw tick of the hold, recon_en and gmin
as they stood then (R73), the raw tick at which its conversion started, and the one from which a hold may follow (R70). -/
structure Hold where
  st : Nat := 0
  smp : Samp := {}
  rsv : Option (Nat × Bool) := none
  auto : Bool := false
  recon : Bool := false
  gmin : Nat := 0
  ent : Nat := 0
  heldAt : Nat := 0
  at_ : Nat := 0
  freeAt : Nat := 0
deriving DecidableEq, Repr

/-- A resolver pair under conversion and the channel's counts (R92 to R94); the raw tick of phase 0, and the first raw tick at which
its next pair may be due. -/
structure Rsv where
  pol : Bool := false
  tag : Tag := 0
  lo : Nat := 0
  hi : Nat := 0
  sin : Option (BitVec 16) := none
  cos : Option (BitVec 16) := none
  flags : Nat := 0
  seq : Nat := 0
  held : Nat := 0
  badRun : Nat := 0
  open_ : Bool := false
  start : Nat := 0
  next : Nat := 0
deriving DecidableEq, Repr

/-- A sigma-delta channel (R87 to R90): outputs since settling began, outputs since the reference edge, fast outputs since
enable and how many consecutive ones lie beyond a threshold, whether the modulator clock runs, whether it waits for a boundary of
its source, and in raw ticks the reference edge and the edges at the last two boundaries (R88). -/
structure Sdm where
  outs : Nat := 0
  j : Nat := 0
  fast : Nat := 0
  beyond : Nat := 0
  clk : Bool := false
  wait : Bool := false
  ref : Nat := 0
  edge : Nat := 0
  edge0 : Nat := 0
deriving DecidableEq, Repr

/-- What a pack's acquisition holds beside its registers: sample-and-holds, samples on the way, entry periods since period
0, for each axis and source the boundaries since the axis was armed and one (R67), the boundary of each entry's last hold and one,
the gain in force of each input, inputs that have delivered since their axis was armed, staged calibration words, and the periods counted by the check of each comparator
(R195). -/
structure Acq where
  hold : SMap Hold := []
  out : List Samp := []
  ent : SMap Nat := []
  arm : SMap Nat := []
  entHeld : SMap Nat := []
  gain : SMap Nat := []
  got : SMap Bool := []
  rsv : SMap Rsv := []
  sdm : SMap Sdm := []
  staged : SMap (Option Word) := []
  chk : SMap Nat := []
deriving DecidableEq, Repr


/-- A register bank (R285) with its waiting load deliveries (R253): `ldNew` from the last instruction, `ldDue` of loads
whose next instruction has executed. Registers are numbered 0 to 31 g, 32 to 63 f, 64 STATUS, 65 EPC, 66 ECAUSE, 67
EVAL, 68 to 76 the loop registers lpstart_0, lpend_0, lpcount_0 and so on. -/
structure Bank where
  g : SMap Word := []
  lp : SMap Word := []
  status : Word := 13
  epc : Word := 0
  ecause : Word := 0
  eval : Word := 0
  pc : Word := 0
  ldNew : List (Nat × Word) := []
  ldDue : List (Nat × Word) := []
deriving DecidableEq, Repr

/-- A store waiting in a commit queue (R378): address, size in bytes, value, and whether it is of user mode. -/
structure CStore where
  addr : Nat := 0
  size : Nat := 4
  val : Word := 0
  user : Bool := false
  ctx : Nat := 0
deriving DecidableEq, Repr

/-- What a core holds beside its banks and its private registers. -/
structure Core where
  /-- The core pair is held in reset. -/
  held : Bool := true
  vbase : Word := 0
  fcsr : Word := 0
  f : SMap Word := []
  /-- Ready tag of each context (R287), order of last running (R290), contexts started and never run (R286). -/
  readyTag : SMap Tag := []
  lastRun : SMap Nat := []
  runSeq : Nat := 0
  fresh : SMap Bool := []
  /-- Spill or restore in progress: spill flag and context (R290). -/
  job : Option (Bool × Nat) := none
  queue : List CStore := []
  /-- Error responses on the way to the core (R281), a pending store error, whether more arrived. -/
  errResp : List Word := []
  storeErr : Option Word := none
  storeLost : Bool := false
  ctxFault : Option Word := none
  /-- The last instruction shields the next boundary from asynchronous events (R254, R262, R263). -/
  shield : Bool := false
  /-- The lines of code held, each with its sixteen words: a loop core's line buffer, a host core's instruction cache, the newest first
  (R269, R274); a loop core's prefetch buffer. -/
  lines : List (Nat × List Word) := []
  pre : Option (Nat × List Word) := none
  /-- Branch-target entries, the one least recently hit or allocated last: the instruction's address, the target address, and in a loop
  core the target line, empty until it has been read (R269, R270). -/
  btb : List (Nat × Nat × List Word) := []
  /-- The vector buffer's good lines; a line of the table that is not among them is bad (R273). The vector line being reloaded (R274). -/
  vecs : List (Nat × List Word) := []
  vecReload : Option Nat := none
  /-- Held lines whose copy has a parity error (R312, R313). -/
  codeBad : List Nat := []
  /-- The line that execution is in, and the next line where it has been requested (R271). -/
  lineIn : Option Nat := none
  want : Option Nat := none
  /-- The word of an instruction that has started and waits, and whether an event may abandon it (R276, R386, R416). -/
  waiting : Option (Word × Bool) := none
  /-- A load through a fabric window in progress: its transaction and, once it has come, the answer (0 data, 1 refused). -/
  win : Option (Nat × Option (Nat × Word)) := none
deriving DecidableEq, Repr

/-- A journal record (R385): type, position, word 1, data words 2 and 3, tag, byte mask. -/
structure JRec where
  ty : Nat
  pos : Nat := 0
  a : Word := 0
  x : Word := 0
  y : Word := 0
  tag : Tag := 0
  mask : Nat := 15
  /-- The words of a mailbox read (type 2, two records in the journal). -/
  ws : List Word := []
deriving DecidableEq, Repr

/-- A checkpoint of a core pair (R382): the banks, the core's own state and its private registers. -/
structure Ckpt where
  banks : SMap Bank := []
  core : Core := {}
  regs : SMap (SMap Word) := []
  rdr : SMap Latch := []
deriving DecidableEq, Repr

/-- A littermate pair (R373 to R395): the tags of the last two mismatches, the journal since the checkpoint, the
records that re-execution has still to take, and a checkpoint deferred by a recovery. -/
structure Pair where
  mm : List Tag := []
  jnl : List JRec := []
  replay : List JRec := []
  deferred : Bool := false
  ck : Ckpt := {}
  /-- A base boundary has come since a loop core's checkpoint; the tag from which a host core's interval counts (R382). -/
  due : Bool := false
  ckAt : Tag := 0
  /-- The position of the last mismatch, and whether a journal record cannot be read (R391). -/
  pos : Nat := 0
  jbad : Bool := false
deriving DecidableEq, Repr

/-- A resolver pair as `lrs` presents it: the words of RSV_SMP and RSV_INFO and the hold tag (R93). -/
abbrev RsvPair := Word × Word × Tag

/-- An input slot of an axis (R130, R131): the last delivered value, flag byte and tag, freshness, whether anything came since
arming, the last good value; then what the present run is given: value, flag word and resolver entries. -/
structure InSlot where
  v : Word := 0
  flags : Nat := 0
  tag : Tag := 0
  fresh : Bool := false
  good : Option Word := none
  goodFifo : List RsvPair := []
  pv : Word := 0
  pw : Nat := 0
  ptag : Tag := 0
  fifo : List RsvPair := []
deriving DecidableEq, Repr

/-- What the loop engine holds of an axis beside its registers: input slots, the tag of Bk, since when its run is ready, whether
the run of this period has started and whether it was released, the first run in its state, consecutive fault-counted runs,
measurement outputs released since arming, the following-error deadline, consecutive equal gait candidates, a gait that
changes at the next boundary, held coefficient writes (R150), values of `pend` and of the forced gait from before the
cutoff (R142, R153), and whether the last recovery touched this period's run (R140); `lim` says that this period's release limit has passed (R137). -/
structure Ax where
  slots : SMap InSlot := []
  bk : Tag := 0
  bkRaw : Nat := 0
  ready : Option Tag := none
  ran : Bool := false
  done : Bool := false
  first : Bool := true
  fltRuns : Nat := 0
  measured : SMap Bool := []
  fe : Option Tag := none
  candRun : Nat := 0
  nextGait : Option Nat := none
  coef : List (Nat × Word) := []
  late : Bool := false
  forceWas : Option (Bool × Nat) := none
  recov : Bool := false
  lim : Bool := false
deriving DecidableEq, Repr

/-- The loop engine of a pack: vector registers (4·register + lane), accumulators with their limits, program position, steps
executed, a running repetition (first operation, length, passes left) and the staged stores of the run (R125, R127, R128); `first` for lmode (R145), `read` the inputs journaled by this run (R385). -/
structure Eng where
  v : SMap Word := []
  acc : SMap Word := []
  lo : SMap Word := []
  hi : SMap Word := []
  pc : Nat := 0
  steps : Nat := 0
  rep : Option (Nat × Nat × Nat) := none
  duty : SMap (Option Word) := []
  mout : SMap (Option Word) := []
  eout : Option Nat := none
  evts : List Nat := []
  st : SMap (Option (List Word)) := []
  first : Bool := false
  read : List Nat := []
deriving DecidableEq, Repr



/-- One staged value of a swap (R236): a register of a pack; a binding of an axis with state_clr; a gait change with
gait_init. Program words are written at staging and need no entry. -/
inductive SwapOp where
  | reg (r : RegName) (p i j : Nat) (v : Word)
  | bind (p a : Nat) (x : Option Nat) (clr : Bool)
  | gait (p a : Nat) (init : Bool)
deriving DecidableEq, Repr

/-- The header of an image with its lengths clamped, whether any was, and the start of the signature (R218, R219). -/
structure ImgHdr where
  svn : Nat := 0
  recOff : Nat := 0
  recCnt : Nat := 0
  scope : Nat := 0
  slot : Nat := 0
  sig : Nat := 0
  lenClamp : Bool := false
  svnClamp : Bool := false
  id : List Word := []
deriving DecidableEq, Repr

/-- The configuration controller (R226 to R246): whether it writes now, so that no lock applies (R15), the staged swap with
its scope (pack, and axis or none), the raw tick of the accepted GO, an ABORT that came after the cutoff, the program entries
that staging displaced, the undo set with its scope, the fused security version, the bank commands in progress, oldest first, and
of the swap image being staged its byte address, the header as first read and the verdict of its authentication, 0 where it is
accepted (R225). -/
structure ImgSt where
  ctlr : Bool := false
  staged : List SwapOp := []
  scope : Nat × Option Nat := (0, none)
  goAt : Nat := 0
  abortLate : Bool := false
  prog : List SwapOp := []
  undo : List SwapOp := []
  undoScope : Nat × Option Nat := (0, none)
  svn : Nat := 0
  bankJobs : List Nat := []
  src : Nat := 0
  hdr : ImgHdr := {}
  verdict : Nat := 0
deriving DecidableEq, Repr

/-- A majority filter (R188): its samples since the last refill, newest first, each with the tag of the raw transition that its
level began with; the level that stands for the samples before them; the raw level now, its tag, and the raw tick of the last
sample. -/
structure Flt where
  hist : List (Bool × Tag) := []
  fill : Bool := false
  raw : Bool := false
  tag : Tag := 0
  at_ : Nat := 0
deriving DecidableEq, Repr

/-- A comparator beside its registers: the filters of its levels U and L, the DAC codes in force, a threshold write held by a
check window, a hi value that waits for the end of peak current drive, the raw tick after the one in which a write was last
applied, the raw tick of the last window's start and the count of periods it was due at, the levels before the window, the tie of the next alternate window, a mismatch in the
last swap window (R188, R192, R195 to R198). -/
structure Cmp where
  u : Flt := {}
  l : Flt := {}
  lo : Nat := 0
  hi : Nat := 1023
  held : Option Word := none
  hiWait : Bool := false
  thrAt : Nat := 0
  winAt : Nat := 0
  cntAt : Nat := 0
  preU : Bool := false
  preL : Bool := false
  tieHigh : Bool := false
  swapMiss : Bool := false
  window : Bool := false
deriving DecidableEq, Repr

/-- What a write or an event leaves to the tick after it (R171, R174, R179, R192): a set's force codes, its mask pointer, a
comparator's thresholds, the selector of a leg or a set. -/
inductive Soon where
  | force (p x : Nat) (v : Word)
  | ptr (p x v : Nat)
  | thr (p n : Nat) (v : Word)
  | leg (p l : Nat)
  | set (p x : Nat)
deriving DecidableEq, Repr

/-- A thermal sensor beside its register: consecutive samples at or above, and at or below, each flag's thresholds, valid readings
in a row since a failure (R213, R216), the raw tick of its last reading or missed sample, and whether it is silent. -/
structure Therm where
  up : SMap Nat := []
  down : SMap Nat := []
  good : Nat := 0
  at_ : Nat := 0
  silent : Bool := false
deriving DecidableEq, Repr


/-- Who waits for a fabric response (R416): a core's load of some bytes, a core's store, a DMA channel, a send slot. -/
inductive ReqBy where
  | load (c n : Nat)
  | store (c a : Nat)
  | dma (k : Nat)
  | slot (m : Nat)
deriving DecidableEq, Repr

/-- An outstanding fabric request: its transaction, lane, requester and deadline (R416). -/
structure OutReq where
  txid : Nat
  lane : Nat
  by_ : ReqBy
  due : Tag := 0
deriving DecidableEq, Repr

/-- An SPI transfer in progress: the words latched at its start, the tag of its first SCK edge and the raw tick of its end (R430). -/
structure Spi where
  tx : List Word := []
  tag : Tag := 0
  fin : Nat := 0
deriving DecidableEq, Repr

/-- The fabric and the network (R402 to R429). By lane: the next sequence numbers out and in, the retransmit buffer (type and
frame, oldest first), whether a NAK is out, replays without an ack advancing, tags of losses, whether the partner has reported
its lock and whether IDENT's checks have passed, whether a LEAVE has come in and gone out, the Ethernet frame in reassembly, the
last unsequenced frame sent. By lane
and virtual channel (4·lane + vc): frames that wait for credit, credit units in use and owed. Then the outstanding requests,
the forwarding table (address, VID, mask of ports), the root key digest, frames dropped, what last left each port, secure
association keys, controllers in bus-off, whether Ethernet and CAN have stopped (R443), and by ring (64 for CAN plus its number) the tag at which the
device reached the descriptor at its head (R428); by lane the raw ticks at which the frames of the retransmit buffer were last sent
(R411) and the raw tick of the last valid frame (R413). -/
structure NetSt where
  seqTx : SMap Nat := []
  seqRx : SMap Nat := []
  buf : SMap (List (Nat × Frame)) := []
  naked : SMap Bool := []
  reps : SMap Nat := []
  losses : SMap (List Tag) := []
  told : SMap Bool := []
  idOk : SMap Bool := []
  lvIn : SMap Bool := []
  lvOut : SMap Bool := []
  part : SMap (List Byte) := []
  last : SMap (Option (Nat × Frame)) := []
  waitq : SMap (List (Nat × Frame)) := []
  used : SMap Nat := []
  owed : SMap Nat := []
  reqs : List OutReq := []
  nextTx : Nat := 0
  fwd : List (Nat × Nat × Nat) := []
  rootKey : List Word := []
  drops : Nat := 0
  outs : SMap (Nat × List Byte) := []
  keys : SMap (List Word) := []
  busOff : SMap Bool := []
  stopped : Bool := false
  reach : SMap Tag := []
  spi : SMap Spi := []
  waits : SMap (List Nat) := []
  /-- The deadline of each link's drain (R422), and the leash events that each SPI master has still to take (R430). -/
  drain : SMap Tag := []
  spiEv : SMap Nat := []
  heard : SMap Nat := []
deriving DecidableEq, Repr

/-- A latch of a position interface that waits (R115): its instant L_k as raw tick and tag, and once an edge tagged after it has
come, what stood before that edge: counter, speed, flags and edges of the window. -/
structure PLatch where
  raw : Nat
  tag : Tag
  val : Option (Word × Word × Nat × Nat) := none
deriving DecidableEq, Repr

/-- What a position interface holds beside its registers: the accepted pin levels before inversion; for each pin the level that it
presents to its filter, the raw tick and tag at which that level began and the raw tick from which its fine capture takes another tag (R97); the
history of counted edges (tag and count, newest first, R110), the counted edges since the last latch (newest first; whether
still in the history) and the last one before it (R111), whether a valid Hall state has been seen and an edge counted since the
mode was set, the flags of R116 since the last latch, edges counted since standstill and the tag of the last one (R113), for each
pin the accepted edges of the other two since its own last one, and for each condition of R119 whether it holds and the raw tick
since when (4·pin + condition), and the latches that wait (R115). -/
structure Pos where
  pins : BitVec 3 := 0
  lvl : SMap Bool := []
  runAt : SMap Nat := []
  runTag : SMap Tag := []
  capAt : SMap Nat := []
  hist : List (Tag × Word) := []
  win : List (Tag × Word × Bool) := []
  pre : Option (Tag × Word) := none
  hallOk : Bool := false
  known : Bool := false
  fl : Nat := 0
  edges : Nat := 0
  last : Option Tag := none
  st : SMap Nat := []
  cond : SMap (Bool × Nat) := []
  lq : List PLatch := []
deriving DecidableEq, Repr

/-- The encoder emulator of a pack (R122 to R124): the source position in states, the steps still to emit, the raw tick of the next
one and the ticks from one to the next. -/
structure Emu where
  src : Nat := 0
  todo : Int := 0
  next : Nat := 0
  gap : Nat := 100
deriving DecidableEq, Repr

/-- A phase set beside its registers: the raw tick of its last boundary, the active carrier and count, an accepted go
(R159), old values of shadow registers written after the cutoff (register, leg, value), a restart due at the next base boundary
(R183), an event that waits for its raw tick (R174), whether a released duty of the present OPEN or CLOSED stay has taken effect
(R145, R169), the legs whose released duties wait for the boundary (R159), the raw tick at which its sequence started and whether
its dwell has ended (R179, R181), the safe pattern configured when the set tripped (R204), the raw tick after the one of its trip
(R205); `off` is the offset of its boundary from the base grid (R133). In the pack's base counter, number 6, `on` says that a
boundary has come since its release at raw tick `rel` (R154). -/
structure PSet where
  bk : Nat := 0
  car : Nat := 50000
  ncar : Nat := 1
  period : Nat := 0
  off : Nat := 0
  go : Bool := false
  goLate : Bool := false
  late : List (RegName × Nat × Word) := []
  restart : Bool := false
  maskWait : Option (Nat × Nat) := none
  dutyIn : Bool := false
  released : List Nat := []
  seqAt : Nat := 0
  dwellDone : Bool := false
  pat : Nat := 0
  tripAt : Nat := 0
  on : Bool := false
  rel : Nat := 0
deriving DecidableEq, Repr

/-- A leg beside its registers: the values that have transferred and those active since its carrier start (R163), carriers started
since Bk, the start of its carrier in 1/16 ticks and the carrier's length in tag units, the generator's commanded outputs, a
turn-on waiting for its dead time (`some true` the high output), the raw ticks of the last turn-offs, the blanking timer with
its first tick and the tick of its end and its runs before that a filter may still hold (R177, R190), the falling threshold of peak current mode (R176), whether the carrier's pulse has
ended, the tick of its end at CMPF with the maxd bits of leg and set before it (R177), its own sequence and the raw tick of its
start, whether the carrier delivers edges (dropped pulses keep the other output on), the tag units from the low pulse's command to
the end of its carrier, where the generator's low pulse spans the carrier's end (R167), and whether the configuration controller
has written its PWM_LEGCTL (R172). -/
structure PLeg where
  tW : Nat := 0
  tD : Word := 0
  tR : Nat := 0
  tF : Nat := 0
  d : Word := 0
  cr : Nat := 0
  cf : Nat := 0
  ph : Nat := 0
  j : Nat := 0
  cs : Nat := 0
  c16 : Nat := 0
  genH : Bool := false
  genL : Bool := false
  edges : Bool := false
  span : Option Nat := none
  pendOn : Option Bool := none
  offH : Nat := 0
  offL : Nat := 0
  blank : Bool := false
  blankAt : Nat := 0
  blankTo : Nat := 0
  blanks : List (Nat × Nat) := []
  thr : Nat := 0
  thrN : Nat := 0
  ended : Bool := false
  maxdAt : Option (Nat × Bool × Bool) := none
  seqOwn : Bool := false
  seqAt : Nat := 0
  cfgd : Bool := false
deriving DecidableEq, Repr


/-- A held alarm of Den, or an alarm that waits for the release of tenants (R432, R439, R445): tenant and entry. -/
abbrev HeldAlarm := Nat × LogRec

/-- Power and start-up (R431 to R452, R453 to R462): the mode (0 before start-up completes, 1 Run, 2 Den, 3 Kennel), an entry
in progress and its target, whether its point of no return has passed, a wake held until the entry completes, the supplies
requested and good (field, core), tries of each, alarms that wait, windows out of and in the band by island and the step last
measured, the trace-loss marker, tags of die-link losses, retries of a transfer, a device reset in progress, and of each sensor output
since which raw tick it limits (1) or was turned off by a short (2), the count of always-on cycles at which the entry completed
(R446, R447), and the raw tick at which the enable of the field group (0) or core group (1) last changed (R432). -/
structure PwrSt where
  mode : Nat := 0
  target : Option Nat := none
  past : Bool := false
  wake : Bool := false
  fldEn : Bool := true
  coreEn : Bool := false
  fldOk : Bool := false
  coreOk : Bool := false
  tries : SMap Nat := []
  alarms : List HeldAlarm := []
  slow : SMap Nat := []
  good : SMap Nat := []
  step : SMap Nat := []
  marker : Option (Nat × Tag) := none
  d2d : SMap (List Tag) := []
  retry : SMap Nat := []
  cause : Nat := 0
  sens : SMap (Nat × Nat) := []
  entryCyc : Nat := 0
  enAt : SMap Nat := []
deriving DecidableEq, Repr

/-- The state of the block. -/
structure State where
  pending : List Instr
  clk : Clock := {}
  regs : SMap (SMap Word) := []
  mem : List Host.Cell := []
  ram : RamSt := {}
  log : LogSt := {}
  lsh : LshSt := {}
  rdr : SMap Latch := []
  own : SMap Owner := []
  mbxTag : SMap Tag := []
  dma : SMap DmaRun := []
  free : Nat := 0
  resp : Resp := {}
  banks : SMap Bank := []
  cores : SMap Core := []
  pairs : SMap Pair := []
  psets : SMap PSet := []
  plegs : SMap PLeg := []
  axSet : SMap (Option Nat) := []
  cmps : SMap Cmp := []
  therm : SMap Therm := []
  prots : SMap Flt := []
  fld : SMap PinClass := []
  soon : List Soon := []
  incTag : SMap Tag := []
  toOpen : SMap Bool := []
  acqs : SMap Acq := []
  axs : SMap Ax := []
  engs : SMap Eng := []
  poss : SMap Pos := []
  emus : SMap Emu := []
  net : NetSt := {}
  pwr : PwrSt := {}
  img : ImgSt := {}
  was : Was := {}
deriving DecidableEq, Repr

/-- The block right after reset, before any command: every register at its reset value, memory with nothing listed. -/
def State.reset : State := { pending := [] }

end Sys2Proof.Machine
end

