-- ==== Sys2Proof/Machine/Ops.lean ====
section
/-! DEFINITION. The named operations over the state that every family uses: registers and their fields, tags,
requesters and owners, the logs and alarm queues, the interrupt controller's pending bits, journal records, leash
events, and bytes of memory. -/

namespace Sys2Proof.Machine

/-! ### Registers -/

/-- The reset value of a register; context 0 of a core resets to RUNNING and resident (R286). -/
def resetWord (r : RegName) (i : Nat) : Word :=
  if r = .SCHED_CTX_STAT ∧ i = 0 then 0x42 else r.row.rst

/-- The map of a block's registers in a pack, core or the system is found under this key. -/
def regBlk (r : RegName) (p : Nat) : Nat := p * 32 + r.row.blk.ctorIdx

/-- The key of a register within its block: its name, its first and second index. -/
def regKey (r : RegName) (i j : Nat) : Nat := Nat.pair r.ctorIdx (Nat.pair i j)

/-- The word a register holds; `p` is its pack or core. -/
def State.rd (s : State) (r : RegName) (p : Nat := 0) (i : Nat := 0) (j : Nat := 0) : Word :=
  SMap.get (resetWord r i) (s.regs.get [] (regBlk r p)) (regKey r i j)

/-- Hardware sets the word a register holds. -/
def State.wr (s : State) (r : RegName) (v : Word) (p : Nat := 0) (i : Nat := 0) (j : Nat := 0) : State :=
  { s with regs := s.regs.upd [] (regBlk r p) fun m => SMap.set (resetWord r i) m (regKey r i j) v }

/-- The word offset of an array word of the loop engine in its block: program, coefficient or state memory. -/
def leOff (r : RegName) (i j : Nat) : Nat := r.row.off + r.row.sI * i + r.row.sJ * j

/-- The key of an array word of a pack's loop engine in the map of flipped bits. -/
def leKey (p : Nat) (r : RegName) (i j : Nat) : Nat := p * 0x10000 + leOff r i j / 4

/-- A word of the loop engine's arrays is written, with correct check bits (R312). -/
def State.wrLe (s : State) (r : RegName) (v : Word) (p i j : Nat) : State :=
  let s1 := s.wr r v p i j
  { s1 with ram := { s1.ram with leFlips := s1.ram.leFlips.set 0 (leKey p r i j) 0 } }

/-- Every register of a block, in one pack, core or the system, takes its reset value. -/
def State.resetBlk (s : State) (b : Blk) (p : Nat := 0) : State :=
  { s with regs := s.regs.set [] (p * 32 + b.ctorIdx) [] }

/-- The mask of a field in its register. -/
def Fld.mask (f : Fld) : Word := BitVec.ofNat 32 ((2 ^ f.w - 1) <<< f.lo)

/-- The value of a field in a word. -/
def Fld.get (f : Fld) (w : Word) : Nat := (w.toNat >>> f.lo) % 2 ^ f.w

/-- A word with a field replaced; the value is taken modulo the field's width. -/
def Fld.put (f : Fld) (w : Word) (n : Nat) : Word :=
  (w &&& ~~~f.mask) ||| BitVec.ofNat 32 ((n % 2 ^ f.w) <<< f.lo)

/-- The value of a register's field. -/
def State.f (s : State) (f : Fld) (p : Nat := 0) (i : Nat := 0) (j : Nat := 0) : Nat :=
  f.get (s.rd f.r p i j)

/-- Set a register's field. -/
def State.put (s : State) (f : Fld) (n : Nat) (p : Nat := 0) (i : Nat := 0) (j : Nat := 0) : State :=
  s.wr f.r (f.put (s.rd f.r p i j) n) p i j

/-- A one-bit field read as a truth value. -/
def State.bit (s : State) (f : Fld) (p : Nat := 0) (i : Nat := 0) (j : Nat := 0) : Bool :=
  s.f f p i j != 0

/-- Set a sticky bit. -/
def State.setb (s : State) (f : Fld) (p : Nat := 0) (i : Nat := 0) (j : Nat := 0) : State :=
  s.put f 1 p i j

/-- Clear a bit. -/
def State.clrb (s : State) (f : Fld) (p : Nat := 0) (i : Nat := 0) (j : Nat := 0) : State :=
  s.put f 0 p i j

/-- Set a bit to a truth value. -/
def State.putb (s : State) (f : Fld) (b : Bool) (p : Nat := 0) (i : Nat := 0) (j : Nat := 0) : State :=
  s.put f b.toNat p i j

/-- Set a sticky bit when a condition holds. -/
def State.setIf (s : State) (c : Bool) (f : Fld) (p : Nat := 0) (i : Nat := 0) (j : Nat := 0) : State :=
  if c then s.setb f p i j else s

/-- Add one to a count that saturates (R51). -/
def State.inc (s : State) (f : Fld) (p : Nat := 0) (i : Nat := 0) (j : Nat := 0) : State :=
  if s.f f p i j + 1 < 2 ^ f.w then s.put f (s.f f p i j + 1) p i j else s.put f (2 ^ f.w - 1) p i j

/-- Bit `n` of a register. -/
def State.nbit (s : State) (r : RegName) (n : Nat) (p : Nat := 0) (i : Nat := 0) (j : Nat := 0) : Bool :=
  (s.rd r p i j).getLsbD n

/-- Set or clear bit `n` of a register. -/
def State.putNbit (s : State) (r : RegName) (n : Nat) (b : Bool) (p : Nat := 0) (i : Nat := 0) (j : Nat := 0) : State :=
  s.put ⟨r, n, 1⟩ b.toNat p i j

/-- The 64-bit value of a _LO and _HI register pair. -/
def State.pairAt (s : State) (lo hi : RegName) (p : Nat := 0) (i : Nat := 0) (j : Nat := 0) : Tag :=
  Tag.ofWords (s.rd hi p i j) (s.rd lo p i j)

/-- Set a _LO and _HI register pair. -/
def State.setPair (s : State) (lo hi : RegName) (t : Tag) (p : Nat := 0) (i : Nat := 0) (j : Nat := 0) : State :=
  (s.wr lo t.lo p i j).wr hi t.hi p i j

/-- What firmware's write of `v` makes of a register by the access codes of its fields alone (R8, R9). -/
def Row.write (w : Row) (old v : Word) : Word :=
  ((old &&& ~~~w.rw) ||| (v &&& w.rw)) &&& ~~~(v &&& w.w1c)

/-- The bits that the tables define in the registers that only the configuration controller writes; the others are reserved and
read as zero (R9). -/
def RegName.cfgBits : RegName → Word
  | .PLSH_PROD | .SLSH_PROD => 0x3FF
  | .PLSH_CONS | .SLSH_CONS => 0x1FFFF
  | .PLSH_ATTR | .SLSH_ATTR => 0x3F
  | .FAB_INMAP => 0xFFFF
  | .FAB_MRX => 0xFFFFF
  | .FAB_MTX_CFG | .MBX_RX_CFG => 0x1FFFFF
  | _ => 0xFFFFFFFF

/-- What a read leaves in a register by the access codes of its fields alone: rc fields cleared (R8). -/
def Row.afterRead (w : Row) (old : Word) : Word := old &&& ~~~w.rc

/-- The present tag (R31). -/
def State.now (s : State) : Tag := s.clk.tag

/-! ### The clock -/

/-- Change the clock. -/
def State.updClk (s : State) (f : Clock → Clock) : State := { s with clk := f s.clk }

/-- Tag units of 10^9 ticks at the rate correction in force (R31, R34). -/
def State.tickRate (s : State) : Int := 16 * (1000000000 + (s.rd .TIME_RATE).toInt)

/-- The tag units of a number of ticks at the rate in force (R34). -/
def State.tickUnits (s : State) (n : Nat) : Tag := BitVec.ofInt 64 ((n : Int) * s.tickRate / 1000000000)

/-- The ticks of `n` cycles of the always-on clock, 488,281.25 tag units each, rounded up to a whole tick (R44). -/
def aoTicks (n : Nat) : Nat := (1953125 * n + 63) / 64

/-- The raw tick at which the always-on cycle `n` after the last copy of the shadow starts (R44). -/
def State.aoRaw (s : State) (n : Nat) : Nat := s.clk.aoAt + aoTicks n

/-- The tag that R44 assigns to the start of that cycle. -/
def State.aoTagAt (s : State) (n : Nat) : Tag := s.clk.aoTag + BitVec.ofNat 64 (16 * aoTicks n)

/-- The always-on cycles begun since the last copy at raw tick `q`. -/
def State.aoSince (s : State) (q : Nat) : Nat := 64 * (q - s.clk.aoAt) / 1953125

/-- While the timebase is stopped the always-on domain counts its cycles, and what is tagged carries the tag of the start of its
cycle (R43, R44). -/
def State.aoCount (s : State) (q : Nat) : State :=
  let c := max s.clk.aoCycles (s.aoSince q)
  s.updClk fun k => { k with raw := q, aoCycles := c, tag := s.aoTagAt c }

/-- `n` raw ticks with nothing to do: the tag advances by 16 units each and the rate correction's share (R31, R34, log 1); while the
timebase is stopped, with the always-on cycles (log 115). -/
def State.ticks (s : State) (n : Nat) : State :=
  if s.clk.stopped then s.aoCount (s.clk.raw + n)
  else
    let t := n * s.tickRate + s.clk.frac
    s.updClk fun k => { k with raw := k.raw + n, tag := k.tag + BitVec.ofInt 64 (t / 1000000000), frac := (t % 1000000000).toNat }

/-- The raw tick that a tag names: the first whose tag is at or after it, at the rate in force (R34). -/
def State.rawOf (s : State) (t : Tag) : Nat :=
  if s.clk.stopped then ((s.clk.aoAt : Int) - (-(t - s.clk.aoTag).toInt) / 16).toNat
  else
    let d := (t - s.now).toInt * 1000000000 - s.clk.frac
    ((s.clk.raw : Int) - (-d) / max 1 s.tickRate).toNat

/-- The ticks until the tag is at or after `t`; none where the rate would stop it. -/
def State.ticksTo (s : State) (t : Tag) : Nat :=
  if s.clk.stopped then
    if Tag.after t s.now then s.aoRaw (64 * (((t - s.clk.aoTag).toNat + 15) / 16 - 1) / 1953125 + 1) - s.clk.raw else 0
  else if Tag.after t s.now ∧ 0 < s.tickRate then
    (((t - s.now).toNat : Int) * 1000000000 - s.clk.frac + s.tickRate - 1) / s.tickRate |>.toNat
  else 0

/-- The period of the standby oscillator in ps: within 250 MHz ± 5 %, it is the device's own (R20, R43, log 117). -/
def standbyPs : Nat := max 3810 (min 4210 Config.standbyPs)

/-- Whole cycles of the standby oscillator in a number of ticks. -/
def standbyCycles (n : Nat) : Nat := n * 1000 / standbyPs

/-- A dead time or dwell counted in standby cycles, rounded up so that it is never shorter than programmed: in ticks (R183). -/
def standbyTicks (n : Nat) : Nat := ((n * 1000 + 3809) / 3810 * standbyPs + 999) / 1000

/-- A dead time or dwell of a pack in ticks: counted in standby cycles while the forwarded clock is absent (R183). -/
def State.guardTicks (s : State) (p n : Nat) : Nat := if s.bit F.PWM_STATUS.clk_ok p then n else standbyTicks n

/-- The tag of an occurrence on the field die of a pack: the present one, and while the forwarded clock is absent outside Den the
last tag received and 61 units for each cycle of the standby oscillator (R43). -/
def State.fieldNow (s : State) (p : Nat) : Tag :=
  if s.bit F.PWM_STATUS.clk_ok p || s.pwr.past then s.now
  else
    let (t, r) := s.clk.lost.get (0, 0) p
    t + BitVec.ofNat 64 (61 * standbyCycles (s.clk.raw - r))

/-- The tag of an occurrence that an edge detector of a pack's field die captures: its fine capture `t`, or what the die can
tell while tag capture is stopped (R33, R43). -/
def State.capTag (s : State) (p : Nat) (t : Tag) : Tag := if s.bit F.PWM_STATUS.clk_ok p then t else s.fieldNow p

/-! ### Values at the start of a tick -/

/-- Keep the value that a register held at the start of the present tick; a write of the register follows. What the configuration
controller writes is in force in its own tick (R241). -/
def State.keepWas (s : State) (r : RegName) (p i j : Nat) : State :=
  let old := if s.was.at_ = s.clk.raw then s.was.regs else []
  if s.img.ctlr then s
  else if old.any fun e => e.1 == r && e.2.1 == p && e.2.2.1 == i && e.2.2.2.1 == j then s
  else { s with was := { at_ := s.clk.raw, regs := (r, p, i, j, s.rd r p i j) :: old } }

/-- The value that a register held at the start of the present tick: a write of the same tick is not yet seen (R73, R81, R94,
R147). -/
def State.rdWas (s : State) (r : RegName) (p : Nat := 0) (i : Nat := 0) (j : Nat := 0) : Word :=
  if s.was.at_ = s.clk.raw then
    match s.was.regs.find? fun e => e.1 == r && e.2.1 == p && e.2.2.1 == i && e.2.2.2.1 == j with
    | some e => e.2.2.2.2
    | none => s.rd r p i j
  else s.rd r p i j

/-- A field's value at the start of the present tick. -/
def State.fWas (s : State) (f : Fld) (p : Nat := 0) (i : Nat := 0) (j : Nat := 0) : Nat := f.get (s.rdWas f.r p i j)


/-! ### Structures in maps -/

/-- A register bank of core `c`: 0 to 7 resident, 8 the fast bank. -/
def State.bank (s : State) (c b : Nat) : Bank := s.banks.get {} (16 * c + b)

/-- Replace a register bank. -/
def State.setBank (s : State) (c b : Nat) (k : Bank) : State := { s with banks := s.banks.set {} (16 * c + b) k }

/-- Core `c`. -/
def State.core (s : State) (c : Nat) : Core := s.cores.get {} c

/-- Replace core `c`. -/
def State.setCore (s : State) (c : Nat) (k : Core) : State := { s with cores := s.cores.set {} c k }

/-- Change core `c`. -/
def State.updCore (s : State) (c : Nat) (f : Core → Core) : State := s.setCore c (f (s.core c))

/-- The bank that runs on core `c` (R285, R286). -/
def State.runBank (s : State) (c : Nat) : Nat :=
  if s.bit F.SCHED_STAT.fast c then 8 else s.f F.SCHED_CTX_STAT.bank c (s.f F.SCHED_STAT.cur c)

/-- The running bank of core `c`. -/
def State.cur (s : State) (c : Nat) : Bank := s.bank c (s.runBank c)

/-- Change the running bank of core `c`. -/
def State.updCur (s : State) (c : Nat) (f : Bank → Bank) : State := s.setBank c (s.runBank c) (f (s.cur c))

/-- Littermate pair `n` (R373). -/
def State.pair (s : State) (n : Nat) : Pair := s.pairs.get {} n

/-- Change pair `n`. -/
def State.updPair (s : State) (n : Nat) (f : Pair → Pair) : State :=
  { s with pairs := s.pairs.set {} n (f (s.pair n)) }

/-- A fresh value for what the spec leaves open (log 20). -/
def State.fresh (s : State) : State × Word := ({ s with free := s.free + 1 }, Config.freeWord s.free)

/-! ### Requesters and owners -/

/-- A number for each resource, the key of the ownership map. -/
def Res.key : Res → Nat
  | .pack p => Nat.pair 0 p
  | .axis p a => Nat.pair 1 (Nat.pair p a)
  | .set p x => Nat.pair 2 (Nat.pair p x)
  | .dma k => Nat.pair 3 k
  | .slot n => Nat.pair 4 n
  | .window c w => Nat.pair 5 (Nat.pair c w)
  | .netq b q => Nat.pair 6 (Nat.pair b.toNat q)
  | .host c => Nat.pair 7 c
  | .sens n => Nat.pair 8 n

/-- The owner of a resource. -/
def State.owner (s : State) (r : Res) : Owner := s.own.get {} r.key

/-- A tenant that may issue secure requests; T0 always may (R359). -/
def State.secOk (s : State) (t : Nat) : Bool := t == 0 || s.bit F.TEN_CFG.sec_ok 0 t

/-- An enabled tenant; T0 always is (R359). -/
def State.tenEn (s : State) (t : Nat) : Bool := t == 0 || s.bit F.TEN_CFG.en 0 t

/-- A request at a check point: its master, master number in the tables, tenant, security state, privilege and context
(R361), and whether it has a local tenant at all (R365). -/
structure Req where
  m : Master
  mno : Nat
  ten : Nat
  sec : Bool
  user : Bool := false
  ctx : Nat := 0
  mapped : Bool := true
deriving DecidableEq, Repr

/-- The lowest FAB_INMAP entry that maps a remote node and tenant (R415). -/
def State.inmap (s : State) (node rten : Nat) : Option Nat :=
  (List.range 32).find? fun e =>
    s.bit F.FAB_INMAP.en 0 e && s.f F.FAB_INMAP.node 0 e == node && s.f F.FAB_INMAP.rten 0 e == rten

/-- The tenant of core `c` (R361): a host core's from the CORE record, a loop core's the owner of its pack. -/
def State.coreTen (s : State) (c : Nat) : Nat :=
  if c < 8 then (s.owner (.host c)).ten else (s.owner (.pack (c - 8))).ten

/-- The request a master makes (R361). -/
def State.req (s : State) : Master → Req
  | .core c =>
    let t := s.coreTen c
    let um := (s.cur c).status.getLsbD 1
    { m := .core c, mno := c, ten := t, sec := s.secOk t && !um, user := um, ctx := s.f F.SCHED_STAT.cur c }
  | .dma k =>
    let o := s.owner (.dma k)
    { m := .dma k, mno := 12 + k, ten := o.ten, sec := o.sec }
  | .fabric node rten sec =>
    match s.inmap node.toNat rten with
    | some e => { m := .fabric node rten sec, mno := 44, ten := s.f F.FAB_INMAP.lten 0 e,
                  sec := sec && s.bit F.FAB_INMAP.sec_ok 0 e }
    | none => { m := .fabric node rten sec, mno := 44, ten := 0, sec := false, mapped := false }
  | .slot n =>
    let o := s.owner (.slot n)
    { m := .slot n, mno := 48, ten := o.ten, sec := o.sec }

/-- The request of a hardware producer or loop-engine axis, with the owner of its element (R361). -/
def hwReq (o : Owner) (mno : Nat) : Req := { m := .slot 0, mno := mno, ten := o.ten, sec := o.sec }

/-- The reader whose latches a request uses (R46): a core's running bank, a DMA channel, a fabric requester. A fabric requester is
a remote node, whatever its tenant (log 116). -/
def State.reader (s : State) : Master → Nat
  | .core c => 16 * c + s.runBank c
  | .dma k => 256 + k
  | .fabric node _ _ => 512 + node.toNat
  | .slot n => 1024 + n

/-- The latches and snapshots of a reader. -/
def State.latch (s : State) (m : Master) : Latch := s.rdr.get {} (s.reader m)

/-- Change the latches of a reader. -/
def State.updLatch (s : State) (m : Master) (f : Latch → Latch) : State :=
  { s with rdr := s.rdr.set {} (s.reader m) (f (s.latch m)) }

/-! ### Littermate pairs by register -/

/-- The system block's register of the same place as a pack block's (LSH and JNL have one layout in both). -/
def RegName.sys : RegName → RegName
  | .PLSH_FLAG => .SLSH_FLAG
  | .PLSH_OVR => .SLSH_OVR
  | .PLSH_PROD => .SLSH_PROD
  | .PLSH_CONS => .SLSH_CONS
  | .PLSH_ATTR => .SLSH_ATTR
  | .PLSH_LAST => .SLSH_LAST
  | .PLSH_TAG_LO => .SLSH_TAG_LO
  | .PLSH_TAG_HI => .SLSH_TAG_HI
  | .PJNL_PSTAT => .SJNL_PSTAT
  | .PJNL_PFILL => .SJNL_PFILL
  | .PJNL_PMTAG_LO => .SJNL_PMTAG_LO
  | .PJNL_PMTAG_HI => .SJNL_PMTAG_HI
  | .PJNL_PCTAG_LO => .SJNL_PCTAG_LO
  | .PJNL_PCTAG_HI => .SJNL_PCTAG_HI
  | .PJNL_PREC => .SJNL_PREC
  | r => r

/-- The register of pair `n` for the name in the pack's JNL block, with its pack and group. -/
def pairReg (n : Nat) (r : RegName) : RegName × Nat × Nat :=
  if n < 4 then (r, n, 0) else if n < 8 then (r, n - 4, 1) else (r.sys, 0, n - 8)

/-- A field of pair `n`, named by the pack block's field. -/
def State.pf (s : State) (f : Fld) (n : Nat) : Nat :=
  let (r, p, g) := pairReg n f.r
  s.f { f with r := r } p g

/-- Set a field of pair `n`. -/
def State.putPf (s : State) (f : Fld) (v n : Nat) : State :=
  let (r, p, g) := pairReg n f.r
  s.put { f with r := r } v p g

/-- Set a tag register of pair `n`. -/
def State.setPairTag (s : State) (lo hi : RegName) (t : Tag) (n : Nat) : State :=
  let (rl, p, g) := pairReg n lo
  let (rh, _, _) := pairReg n hi
  s.setPair rl rh t p g

/-- The littermate pair of core `c` (R373). -/
def corePair (c : Nat) : Nat := if c < 8 then 8 + c else c - 4

/-- Pair `n` runs as a pair. -/
def State.paired (s : State) (n : Nat) : Bool := s.pf F.PJNL_PSTAT.paired n != 0

/-- A recovery of pair `n` runs. -/
def State.recovering (s : State) (n : Nat) : Bool := s.pf F.PJNL_PSTAT.rec n != 0

/-- The records a journal partition holds (R385, R386). -/
def jnlSize (n : Nat) : Nat := if n < 4 then 1024 else if n < 8 then 7168 else 2048

/-- The records that a journal takes: a mailbox read takes two (R385). -/
def jnlFill (js : List JRec) : Nat := (js.map fun r => if r.ty = 2 then 2 else 1).sum

/-- Write a journal record of a pair that runs as a pair (R385); a host pair's record waits for the record port (R400). -/
def State.jnl (s : State) (n : Nat) (r : JRec) : State :=
  if s.paired n then
    let s1 := s.updPair n fun k => { k with jnl := k.jnl ++ [r] }
    let k := jnlFill (s1.pair n).jnl
    let s2 := s1.putPf F.PJNL_PFILL.fill k n
    let s3 := if s2.pf F.PJNL_PFILL.peak n < k then s2.putPf F.PJNL_PFILL.peak k n else s2
    if 8 ≤ n then { s3 with log := { s3.log with jnlPort := s3.log.jnlPort ++ [n] } } else s3
  else s

/-- Instructions completed since the checkpoint, the position of a journal record. -/
def State.jpos (s : State) (c : Nat) : Nat := s.f F.CHK_POS.pos c

/-! ### Interrupts -/

/-- Whether source `src` is pending at core `c`. -/
def State.pends (s : State) (c src : Nat) : Bool := s.nbit .INT_PEND (src % 32) c (src / 32)

/-- Set or clear the pending bit of a source. -/
def State.putPend (s : State) (c src : Nat) (b : Bool) : State := s.putNbit .INT_PEND (src % 32) b c (src / 32)

/-- The better of two READY or waiting contexts (R287): higher prio, then the earlier tag, then the lower number. -/
def State.outranks (s : State) (c x y : Nat) : Bool :=
  let px := s.f F.SCHED_CTX.prio c x
  let py := s.f F.SCHED_CTX.prio c y
  let tx := (s.core c).readyTag.get 0 x
  let ty := (s.core c).readyTag.get 0 y
  decide (py < px) || (px == py && (Tag.before tx ty || (tx == ty && decide (x < y))))

/-- The best of a list of contexts by R287. -/
def State.bestCtx (s : State) (c : Nat) : List Nat → Option Nat
  | [] => none
  | x :: xs =>
    match State.bestCtx s c xs with
    | none => some x
    | some y => if s.outranks c y x then some y else some x

/-- The state code of a context. -/
def State.ctxState (s : State) (c x : Nat) : Nat := s.f F.SCHED_CTX_STAT.state c x

/-- The contexts of a core in a state. -/
def State.ctxsIn (s : State) (c st : Nat) : List Nat := (List.range 32).filter fun x => s.ctxState c x == st

/-- A context becomes READY with a ready tag (R287). -/
def State.makeReady (s : State) (c x : Nat) (t : Tag) : State :=
  (s.put F.SCHED_CTX_STAT.state 1 c x).updCore c fun k => { k with readyTag := k.readyTag.set 0 x t }

/-- The banks 0 to 7 that no context holds. -/
def State.freeBanks (s : State) (c : Nat) : List Nat :=
  (List.range 8).filter fun b =>
    !(List.range 32).any fun x => s.bit F.SCHED_CTX_STAT.resident c x && s.f F.SCHED_CTX_STAT.bank c x == b

/-- The live contexts of a core (R286). -/
def State.liveCtxs (s : State) (c : Nat) : List Nat := (List.range 32).filter fun x => s.ctxState c x != 0

/-- SCHED_STAT shows the live contexts and the free banks. -/
def State.showSched (s : State) (c : Nat) : State :=
  (s.put F.SCHED_STAT.live (s.liveCtxs c).length c).put F.SCHED_STAT.free_banks (s.freeBanks c).length c

/-- The context that the scheduler runs by R287: the best of the READY and RUNNING ones. -/
def State.selected (s : State) (c : Nat) : Option Nat :=
  s.bestCtx c ((List.range 32).filter fun x => s.ctxState c x == 1 || s.ctxState c x == 2)

/-- The least recently running context that may be spilled (R290). -/
def State.spillPick (s : State) (c : Nat) : Option Nat :=
  let xs := (List.range 32).filter fun x =>
    s.bit F.SCHED_CTX_STAT.resident c x && s.ctxState c x != 2 && s.ctxState c x != 4 && x != s.f F.SCHED_STAT.cur c
  xs.foldl (fun best x => match best with
    | none => some x
    | some y => if (s.core c).lastRun.get 0 x < (s.core c).lastRun.get 0 y then some x else some y) none

/-- The scheduler starts a spill when no bank is free and a live context has none, else the restore of a selected context
without a bank (R290). -/
def State.schedJobs (s0 : State) (c : Nat) : State :=
  let s := s0.showSched c
  match (s.core c).job with
  | some _ => s
  | none =>
    let homeless := (s.liveCtxs c).any fun x => !s.bit F.SCHED_CTX_STAT.resident c x && s.ctxState c x != 4
    let job : Option (Bool × Nat) :=
      if homeless && (s.freeBanks c).isEmpty then (s.spillPick c).map fun x => (true, x)
      else match s.selected c with
        | some x => if s.bit F.SCHED_CTX_STAT.resident c x then none else some (false, x)
        | none => none
    (s.updCore c fun k => { k with job := job }).putb F.SCHED_STAT.spill_busy job.isSome c

/-- A source has become pending: the first context in the order of R287 that waits on it takes the pending bit and
becomes READY with this tag (R288, R289), and the scheduler looks for a bank for it (R290). -/
def State.wakeBySource (s : State) (c src : Nat) (t : Tag) : State :=
  match s.bestCtx c ((s.ctxsIn c 3).filter fun x => s.bit F.SCHED_CTX.wake_en c x && s.f F.SCHED_CTX.wake_src c x == src) with
  | none => s
  | some x => ((s.putPend c src false).makeReady c x t).schedJobs c

/-- A doorbell, pending-bit set or hardware delivery of a source to a core (R346, R347). -/
def State.pendSrc (s : State) (c src : Nat) : State :=
  if s.pends c src then (s.setb F.INT_STAT.ovr c).inc F.INT_CNT.dup c
  else
    let s1 := (s.putPend c src true).jnl (corePair c)
      { ty := 3, pos := s.jpos c, a := BitVec.ofNat 32 src, tag := s.now }
    s1.wakeBySource c src s.now

/-- Ring the notice source of a tenant at its notice core (R366, R397), where its TENANT entry names one. -/
def State.ringNotice (s : State) (t : Nat) : State :=
  if s.bit F.TEN_CFG.en 0 t then s.pendSrc (s.f F.TEN_NOTE.core 0 t) (s.f F.TEN_NOTE.src 0 t) else s

/-! ### Logs and alarms -/

/-- A log loses the entry whose first tag is `t` (R319): log 0 to 7 a violation log, 8 the error log, 9 the system log. -/
def State.lose (s : State) (lg : Nat) (t : Tag) : State :=
  if lg < 8 then
    let s1 := if s.f F.TEN_VLOG_STAT.lost 0 lg = 0 then s.setPair .TEN_VLOG_LF_LO .TEN_VLOG_LF_HI t 0 lg else s
    (s1.setPair .TEN_VLOG_LL_LO .TEN_VLOG_LL_HI t 0 lg).inc F.TEN_VLOG_STAT.lost 0 lg
  else if lg = 8 then
    let s1 := if s.f F.MEM_ELOG_STAT.lost = 0 then s.setPair .MEM_ELOG_LF_LO .MEM_ELOG_LF_HI t else s
    (s1.setPair .MEM_ELOG_LL_LO .MEM_ELOG_LL_HI t).inc F.MEM_ELOG_STAT.lost
  else
    let s1 := if s.f F.JNL_SLOG_STAT.lost = 0 then s.setPair .JNL_SLOG_LF_LO .JNL_SLOG_LF_HI t else s
    (s1.setPair .JNL_SLOG_LL_LO .JNL_SLOG_LL_HI t).inc F.JNL_SLOG_STAT.lost

/-- The entries of a log, oldest first. -/
def State.logOf (s : State) (lg : Nat) : List LogRec :=
  if lg < 8 then s.log.vlog.get [] lg else if lg = 8 then s.log.elog else s.log.slog

/-- Set the entries of a log and its count. -/
def State.setLog (s : State) (lg : Nat) (es : List LogRec) : State :=
  if lg < 8 then
    ({ s with log := { s.log with vlog := s.log.vlog.set [] lg es } }).put F.TEN_VLOG_STAT.count es.length 0 lg
  else if lg = 8 then ({ s with log := { s.log with elog := es } }).put F.MEM_ELOG_STAT.count es.length
  else ({ s with log := { s.log with slog := es } }).put F.JNL_SLOG_STAT.count es.length

/-- The entries a log holds at most (R318, R365, R399). -/
def logSize (lg : Nat) : Nat := if lg < 8 then 32 else if lg = 8 then 64 else 128

/-- Whether a new record is the repeat of an entry (R318, R366); the system log coalesces nothing. -/
def sameEntry (lg : Nat) (e r : LogRec) : Bool :=
  if lg < 8 then e.a == r.a && e.b == r.b
  else if lg = 8 then e.a == r.a && e.b &&& 0xF == r.b &&& 0xF else false

/-- An entry with one more occurrence at tag `t`; counts saturate. -/
def LogRec.again (e : LogRec) (t : Tag) : LogRec :=
  { e with count := if e.count = 0xFFFFFFFF then e.count else e.count + 1, last := t }

/-- Change the first entry that a test picks. -/
def updFirst {α : Type} (t : α → Bool) (f : α → α) : List α → List α
  | [] => []
  | x :: xs => if t x then f x :: xs else x :: updFirst t f xs

/-- The number of a self-timed island among the timing domains: C00 to C33 as 0 to 33, then I000 up (R18, R61). -/
def island (n : Nat) : Nat := 34 + n

/-- The domain of a core: its leading twin's island (R18). -/
def coreDomain (c : Nat) : Nat := if c < 8 then island (48 + c) else island (12 * (c - 8) + 2)

/-- The domain of a memory address: the nonvolatile memory controller, or the island of the bank (R18, R297). -/
def memDomain (a : Nat) : Nat :=
  if a < 0x4000000 then island 95
  else if a < 0x11000000 then island (71 + (a - 0x10000000) / 0x200000)
  else if a < 0x11800000 then island (12 * ((a - 0x11000000) / 0x200000) + 6)
  else if a < 0x12000000 then island (79 + (a - 0x11800000) / 0x200000)
  else island (12 * ((a - 0x40000000) / 0x1000000) + 6)

/-- The domain of a leash channel's router (R30). -/
def lshDomain (g : Nat) : Nat := if g < 256 then island (12 * (g / 64) + 11) else island 99

/-- The domain of the check point that an address is checked at (R18, R30, log 145). -/
def checkDomain (a : Nat) : Nat :=
  if 0x40000000 ≤ a ∧ a < 0x44000000 then
    let p := (a - 0x40000000) / 0x1000000
    if a % 0x1000000 / 0x20000 = 0x1E then island (12 * p + 11) else island (12 * p + 8)
  else if 0x50400000 ≤ a ∧ a < 0x50500000 then island 99
  else if 0x52000000 ≤ a ∧ a < 0x54000000 then island 87
  else island 92

/-- The domain in which an alarm arises (R18, R396, log 145). -/
def alarmDomain (kind idx : Nat) (d6 : Word) : Nat :=
  match kind with
  | 1 => idx / 6
  | 2 => island (12 * (idx / 6))
  | 3 => if idx < 8 then island (12 * (idx % 4) + 4) else island 64
  | 4 => 4
  | 5 => 4
  | 6 => memDomain d6.toNat
  | 7 => island (96 + idx)
  | 8 => if idx % 16 < 8 then 9 + idx / 16 else 5 + idx / 16
  | 9 => idx / 6
  | 10 => idx / 16
  | 11 => coreDomain idx
  | 12 => island (85 + idx / 16)
  | 13 => island 92
  | _ => 32

/-- A new record takes its place: after those that are there, but those of its own tag stand in the order of their keys (R61, R367). -/
def insRec (r : LogRec) : List LogRec → List LogRec
  | [] => [r]
  | e :: es => if e.first == r.first && decide (r.key < e.key) then r :: e :: es else e :: insRec r es

/-- The same for a staged record among those of its log. -/
def insStaged (lg : Nat) (r : LogRec) : List (Nat × LogRec) → List (Nat × LogRec)
  | [] => [(lg, r)]
  | e :: es =>
    if e.1 == lg && e.2.first == r.first && decide (r.key < e.2.key) then (lg, r) :: e :: es else e :: insStaged lg r es

/-- A record enters its log: coalesced, or a new entry, the oldest dropped where the log is full; a new violation entry
rings the tenant's notice (R318, R319, R366, R367, R399). -/
def State.enterLog (s : State) (lg : Nat) (r : LogRec) : State :=
  let es := s.logOf lg
  if es.any (sameEntry lg · r) then s.setLog lg (updFirst (sameEntry lg · r) (·.again r.last) es)
  else
    let s1 := match es with
      | e :: rest => if logSize lg ≤ es.length then (s.lose lg e.first).setLog lg (insRec r rest) else s.setLog lg (insRec r es)
      | [] => s.setLog lg [r]
    if lg < 8 then s1.ringNotice lg else s1

/-- Remove the first element that a test picks. -/
def dropFirst {α : Type} (t : α → Bool) : List α → List α
  | [] => []
  | x :: xs => if t x then xs else x :: dropFirst t xs

/-- A record is staged for its log at the record port; beyond 8 the oldest staged record of the log is lost (R400). -/
def State.stageRec (s : State) (lg : Nat) (r : LogRec) : State :=
  let mine := s.log.staged.filter (·.1 == lg)
  let s1 := match mine with
    | (_, o) :: _ =>
      if 8 ≤ mine.length then
        ({ s with log := { s.log with staged := dropFirst (·.1 == lg) s.log.staged } }).lose lg o.first
      else s
    | [] => s
  { s1 with log := { s1.log with staged := insStaged lg r s1.log.staged } }

/-- Remove the oldest entry of a log (R319, R367). -/
def State.popLog (s : State) (lg : Nat) : State := s.setLog lg (s.logOf lg).tail

/-- The eight words of a log's oldest entry; an empty log reads zero (R318, R319, R365, R399). -/
def State.logWords (s : State) (lg : Nat) : List Word :=
  match s.logOf lg with
  | [] => List.replicate 8 0
  | e :: _ =>
    if lg < 8 then [e.a, e.b, e.c, e.count, e.first.lo, e.first.hi, e.last.lo, e.last.hi]
    else if lg = 8 then [e.a, e.b, e.count, 0, e.first.lo, e.first.hi, e.last.lo, e.last.hi]
    else [e.a, e.b, e.c, e.d, e.first.lo, e.first.hi, e.last.lo, e.last.hi]

/-- The codes of an access in a violation entry (R365). -/
inductive AccKind where
  | read
  | write
  | fetch
  | event
deriving DecidableEq, Repr

def AccKind.code : AccKind → Nat
  | .read => 0
  | .write => 1
  | .fetch => 2
  | .event => 3

/-- A refusal is entered in the violation log of the requester's tenant, in the layout of R365; that of a scheduled action
with kind 8 and the slot number, whichever check refused it (R53). `dom` is the domain of the check point (R367). -/
def State.violation (s : State) (q : Req) (addr kind0 : Nat) (acc : AccKind) (own : Option Owner) (detail0 : Nat := 0)
    (dom : Nat := checkDomain addr) : State :=
  let (kind, detail) := match q.m, q.mno with
    | .slot n, 48 => (8, n.val)
    | _, _ => (kind0, detail0)
  let w1 := (addr / 2 ^ 32) % 2 ^ 20 + (kind % 16) * 2 ^ 20 + acc.code * 2 ^ 24 + (q.mno % 64) * 2 ^ 26
  let o := own.getD { ten := 0, sec := false }
  let w2 := o.ten % 8 + own.isSome.toNat * 8 + q.sec.toNat * 16 + (own.isSome && o.sec).toNat * 32 + q.user.toNat * 64 +
    (q.ctx % 32) * 2 ^ 7 + (detail % 512) * 2 ^ 12
  s.stageRec q.ten { a := BitVec.ofNat 32 addr, b := BitVec.ofNat 32 w1, c := BitVec.ofNat 32 w2, first := s.now, last := s.now, key := 64 * dom + q.mno }

/-- The source field of an error-log entry for a master number (R318): host core, loop core, DMA, fabric. -/
def elogSource (mno : Nat) : Nat := if mno < 8 then 1 else if mno < 12 then 2 else if mno < 44 then 4 else 5

/-- An error is entered in the error log (R318). -/
def State.elogAdd (s : State) (addr kind source mno : Nat) (retired : Bool := false) (pos : Nat := 0x7F) : State :=
  let w1 := kind % 16 + (source % 16) * 16 + (mno % 64) * 2 ^ 8 + retired.toNat * 2 ^ 14 + (pos % 128) * 2 ^ 15
  s.stageRec 8 { a := BitVec.ofNat 32 addr, b := BitVec.ofNat 32 w1, first := s.now, last := s.now, key := 64 * memDomain addr + mno }

/-- The domain in which a record of the system log arises: TIME, the configuration controller, the comparators, the always-on domain, the
checker, a lane's link layer (R18, log 145). -/
def slogDomain (ty : Nat) (b : Word) : Nat :=
  match ty with
  | 1 => 4
  | 2 => island 83
  | 3 => alarmDomain 3 b.toNat 0
  | 4 => 32
  | 5 => island 83
  | 6 => island 92
  | _ => island (88 + b.toNat % 4)

/-- A record of the system log: its type, words 1 to 3 and words 6 and 7 (R399). -/
def State.slogAdd (s : State) (ty : Nat) (b : Word := 0) (c : Word := 0) (d : Word := 0) (e : Tag := 0) : State :=
  s.stageRec 9 { a := BitVec.ofNat 32 ty, b := b, c := c, d := d, first := s.now, last := e, key := 64 * slogDomain ty b }

/-- The entries of a tenant's alarm queue, as the device table mirrors it (R400). -/
def State.aq (s : State) (t : Nat) : List LogRec := s.log.alarms.get [] t

/-- Whether an alarm entry is the overflow entry (R398). -/
def LogRec.isOvf (e : LogRec) : Bool := e.a &&& 0xF == 15

/-- The entry at position `i` of a tenant's alarm queue waits for the record port. -/
def State.markAq (s : State) (t i : Nat) : State :=
  let ring := (s.f F.JNL_AQ_STAT.head 0 t + i) % 64
  if s.log.aqPort.contains (t, ring) then s
  else { s with log := { s.log with aqPort := s.log.aqPort ++ [(t, ring)] } }

/-- Set a tenant's alarm queue with its status register, and mark the entries at the positions `is` for the record port. -/
def State.setAq (s : State) (t : Nat) (es : List LogRec) (is : List Nat) : State :=
  let s1 := ({ s with log := { s.log with alarms := s.log.alarms.set [] t es } }).put F.JNL_AQ_STAT.count es.length 0 t
  let s2 := s1.putb F.JNL_AQ_STAT.ovf (es.any LogRec.isOvf) 0 t
  is.foldl (fun s i => s.markAq t i) s2

/-- A new alarm entry, among those of its own tag in the order of R61; the entries from it on wait for the record port. -/
def State.newAq (s : State) (t : Nat) (r : LogRec) : State :=
  let es := insRec r (s.aq t)
  (s.setAq t es ((List.range es.length).filter fun i => es.idxOf r ≤ i)).ringNotice t

/-- The enable of a supply group, of the core with `core`, else of the field die, is driven high or low; the tick of a change is noted
(R431, R432). -/
def State.supply (s : State) (core on : Bool) : State :=
  if (if core then s.pwr.coreEn else s.pwr.fldEn) = on then s
  else { s with pwr := { s.pwr with
    fldEn := if core then s.pwr.fldEn else on, coreEn := if core then on else s.pwr.coreEn, enAt := s.pwr.enAt.set 0 core.toNat s.clk.raw } }

/-- A wake that meets an entry past its point of no return, or Den or Kennel (R446, R448): its bit of PWR_AO_CAUSE is set, the
first wake writes the tag and the state left, and the supplies are asked for, or the wake is held until the entry completes. -/
def State.wakePast (s : State) (bit : Nat) : State :=
  let st := if s.pwr.target.isSome then s.pwr.target.getD 2 else s.pwr.mode
  let s1 :=
    if s.pwr.wake then s
    else
      let w := s.rd .PWR_AO_CAUSE &&& 0xFFFFE000
      (s.wr .PWR_AO_CAUSE (F.PWR_AO_CAUSE.from_.put w st)).setPair .PWR_AO_TAG_LO .PWR_AO_TAG_HI s.now
  let s2 := s1.putNbit .PWR_AO_CAUSE bit true
  let s3 : State := { s2 with pwr := { s2.pwr with wake := true } }
  if s3.pwr.target.isNone then (if s3.pwr.mode = 2 then (s3.supply false true).supply true true else s3.supply false true) else s3

/-- The entries of the field die's table of held alarms (R445). -/
def heldSize : Nat := 32

/-- An alarm that arises in Den is held, coalesced under R397 and R398, and wakes the device (R445, R446). The overflow entry of
the table is T0's (log 49). -/
def State.holdAlarm (s : State) (t : Nat) (w0 d6 d7 : Word) (tag : Tag) : State :=
  let hs := s.pwr.alarms
  let same (h : HeldAlarm) : Bool := h.1 == t && h.2.a == w0
  let isOvf (h : HeldAlarm) : Bool := h.2.a &&& 0xF == 15
  let kbit : Word := BitVec.ofNat 32 (2 ^ (w0.toNat % 16))
  let new :=
    if hs.any same then updFirst same (fun h => (h.1, { h.2.again tag with c := d6, d := d7 })) hs
    else if hs.any isOvf then updFirst isOvf (fun h => (h.1, { h.2.again tag with c := h.2.c ||| kbit })) hs
    else if heldSize ≤ hs.length + 1 then hs ++ [(0, { a := 15, c := kbit, first := tag, last := tag })]
    else hs ++ [(t, { a := w0, c := d6, d := d7, first := tag, last := tag })]
  let s1 := { s with pwr := { s.pwr with alarms := new } }
  if s1.pwr.mode == 2 || s1.pwr.target == some 2 then s1.wakePast 10 else s1

/-- An alarm entered in the queue of one tenant (R396 to R398), or held in Den (R445); `tag` is the tag of the occurrence. -/
def State.alarmTo (s : State) (t kind idx code : Nat) (d6 : Word := 0) (d7 : Word := 0) (tag : Tag) : State :=
  let w0 : Word := BitVec.ofNat 32 (kind % 16 + (idx % 1024) * 16 + (code % 256) * 2 ^ 16)
  if s.pwr.past then s.holdAlarm t w0 d6 d7 tag
  else if s.tenEn t then
    let key := 64 * alarmDomain kind idx d6
    let es := s.aq t
    match es.findIdx? (fun e => e.a == w0) with
    | some i => s.setAq t (updFirst (fun e => e.a == w0) (fun e => { e.again tag with c := d6, d := d7 }) es) [i]
    | none =>
      let kbit : Word := BitVec.ofNat 32 (2 ^ (kind % 16))
      match es.findIdx? LogRec.isOvf with
      | some i =>
        if 64 ≤ es.length then
          s.setAq t (updFirst LogRec.isOvf (fun e => { e.again tag with c := e.c ||| kbit }) es) [i]
        else s.newAq t { a := w0, c := d6, d := d7, first := tag, last := tag, key := key }
      | none =>
        if 63 ≤ es.length then
          s.newAq t { a := 15, c := kbit, first := tag, last := tag, key := key }
        else s.newAq t { a := w0, c := d6, d := d7, first := tag, last := tag, key := key }
  else s

/-- An alarm for T0 and for further tenants, each once. -/
def State.alarm (s : State) (ts : List Nat) (kind idx code : Nat) (d6 : Word := 0) (d7 : Word := 0) (tag : Tag) : State :=
  (ts.dedup).foldl (fun s t => s.alarmTo t kind idx code d6 d7 tag) s

/-- Remove the oldest entry of a tenant's alarm queue (R396, R398). -/
def State.popAq (s : State) (t : Nat) : State :=
  match s.aq t with
  | [] => s
  | _ :: es =>
    let h := s.f F.JNL_AQ_STAT.head 0 t
    let s1 := { s with log := { s.log with aqPort := s.log.aqPort.filter (· != (t, h)) } }
    (s1.put F.JNL_AQ_STAT.head ((h + 1) % 64) 0 t).setAq t es []

/-! ### Leash events -/

/-- The register of global channel `g` for the name in the pack's LSH block, with its pack and channel (R336). -/
def lshReg (g : Nat) (r : RegName) : RegName × Nat × Nat :=
  if g < 256 then (r, g / 64, g % 64) else (r.sys, 0, g - 256)

/-- A field of global channel `g`. -/
def State.lf (s : State) (f : Fld) (g : Nat) : Nat :=
  let (r, p, c) := lshReg g f.r
  s.f { f with r := r } p c

/-- Set a field of global channel `g`. -/
def State.putLf (s : State) (f : Fld) (v g : Nat) : State :=
  let (r, p, c) := lshReg g f.r
  s.put { f with r := r } v p c

/-- The owner of a channel (R341). -/
def State.lshOwner (s : State) (g : Nat) : Owner :=
  { ten := s.lf F.PLSH_ATTR.owner g, sec := s.lf F.PLSH_ATTR.sec g != 0 }

/-- The place of a requester in the order in which a bank port grants requests of one step (R304): loop cores, then DMA channels
and the controller with its slots (log 111), host cores, the fabric; the lower master number first. -/
def Req.rank (q : Req) : Nat :=
  64 * (if q.mno < 8 then 3 else if q.mno < 12 then 1 else if q.mno = 44 then 4 else 2) + q.mno

/-- A raised event takes its place among those in flight: in tag order, those of one tag in the order of their requesters (R340). -/
def putEv (e : LEv) : List LEv → List LEv
  | [] => [e]
  | x :: xs => if Tag.before e.tag x.tag || (e.tag == x.tag && decide (e.rank < x.rank)) then e :: x :: xs else x :: putEv e xs

/-- Put an event on a channel that is in use; it reaches its consumer when it is delivered (R336, R339, R340). -/
def State.raiseEv (s : State) (g : Nat) (data : Byte) (t : Tag) (rank : Nat := 0) : State :=
  if s.lf F.PLSH_ATTR.en g != 0 then
    { s with lsh := { s.lsh with flight := s.lsh.flight.set [] g (putEv ⟨data, t, rank⟩ (s.lsh.flight.get [] g)) } }
  else s

/-- A hardware producer raises an event: on a channel of which it is not the configured producer it raises nothing, and
the attempt is entered with kind 7 in the violation log of the producer's owner (R337, R338). -/
def State.produce (s : State) (g pkind pidx : Nat) (data : Byte) (t : Tag) (o : Owner) (mno detail : Nat) : State :=
  if s.lf F.PLSH_PROD.pkind g = pkind ∧ s.lf F.PLSH_PROD.pidx g = pidx then s.raiseEv g data t
  else s.violation (hwReq o mno) 0 7 .event (some (s.lshOwner g)) detail (lshDomain g)

/-! ### Bytes of memory -/

/-- The bank that booted: 0 for A, 1 for B. -/
def State.boot (s : State) : Nat := s.f F.IMG_BANK.boot

/-- The cell of a local nonvolatile address: the booted bank answers at 0x0000_0000 (R297). -/
def State.nvKey (s : State) (a : Nat) : Nat :=
  if (a < 0x2000000) = (s.boot = 0) then a % 0x2000000 else 0x2000000 + a % 0x2000000

/-- What a byte that nothing has written reads as: an erased nonvolatile byte 0xFF, an SRAM byte 0 (log 2). -/
def memDefault (k : Nat) : Byte := if k < 0x4000000 then 0xFF else 0

/-- The cell of a local memory address. -/
def State.cell (s : State) (a : Nat) : Nat := if a < 0x4000000 then s.nvKey a else a

/-- An SRAM address (R297). -/
def isSram (a : Nat) : Bool := decide (0x10000000 ≤ a ∧ a < 0x12000000)

/-- A nonvolatile address (R297). -/
def isNv (a : Nat) : Bool := decide (a < 0x4000000)

/-- The valid bit of an SRAM word, read by majority of its three copies (R310). -/
def State.wvalid (s : State) (a : Nat) : Bool :=
  let v := s.ram.valid.get 0 (a / 4)
  (v.getLsbD 0 && v.getLsbD 1) || (v.getLsbD 0 && v.getLsbD 2) || (v.getLsbD 1 && v.getLsbD 2)

/-- The byte at a local memory address; a word whose valid bit is 0 reads zero (R310). -/
def State.byte (s : State) (a : Nat) : Byte :=
  if isSram a && !s.wvalid a then 0 else SMap.get (memDefault (s.cell a)) s.mem (s.cell a)

/-- Set the cell of a byte. -/
def State.setCell (s : State) (k : Nat) (b : Byte) : State := { s with mem := SMap.set (memDefault k) s.mem k b }

/-- Store a byte to SRAM; in a word whose valid bit is 0 it merges into zero, and the valid bit is set (R310). -/
def State.setByte (s : State) (a : Nat) (b : Byte) : State :=
  let w := a - a % 4
  let s1 := if s.wvalid a then s
    else { ((((s.setCell w 0).setCell (w + 1) 0).setCell (w + 2) 0).setCell (w + 3) 0) with
           ram := { s.ram with valid := s.ram.valid.set 0 (a / 4) 7 } }
  s1.setCell a b

/-- `n` bytes from an address, least significant first. -/
def State.bytes (s : State) (a n : Nat) : List Byte := (List.range n).map fun i => s.byte (a + i)

/-- Store bytes to SRAM from an address up. -/
def State.setBytes (s : State) (a : Nat) : List Byte → State
  | [] => s
  | b :: bs => State.setBytes (s.setByte a b) (a + 1) bs

/-- A number from its bytes, least significant first (R248). -/
def ofBytes : List Byte → Nat
  | [] => 0
  | b :: bs => b.toNat + 256 * ofBytes bs

/-- The `n` low bytes of a number, least significant first. -/
def toBytes : Nat → Nat → List Byte
  | 0, _ => []
  | n + 1, v => BitVec.ofNat 8 v :: toBytes n (v / 256)

/-- The word at an address. -/
def State.word (s : State) (a : Nat) : Word := BitVec.ofNat 32 (ofBytes (s.bytes a 4))

/-- The number of flipped bits of the codeword at an SRAM address (R312). -/
def State.nflips (s : State) (a : Nat) : Nat :=
  let v := s.ram.flips.get 0 (a / 4)
  (List.range 39).countP fun i => v.getLsbD i

/-- Set the flipped bits of the codeword at an SRAM address. -/
def State.setFlips (s : State) (a : Nat) (v : BitVec 39) : State :=
  { s with ram := { s.ram with flips := s.ram.flips.set 0 (a / 4) v } }

/-- Store a word to SRAM: a new codeword, without flipped bits (R312). -/
def State.setWord (s : State) (a : Nat) (v : Word) : State := (s.setBytes a (toBytes 4 v.toNat)).setFlips a 0

/-- Store words to SRAM from an address up. -/
def State.setWords (s : State) (a : Nat) : List Word → State
  | [] => s
  | v :: vs => State.setWords (s.setWord a v) (a + 4) vs

/-- Mark the word at an SRAM address uncorrectable: the fixed check pattern of R314. -/
def State.markBad (s : State) (a : Nat) : State := s.setFlips a 3

/-- The page of an address (4 KiB). -/
def pageOf (a : Nat) : Nat := a / 4096

/-- The answer of a target to an access: data, a refusal, an uncorrectable error, or an answer that a fabric response
will bring. -/
inductive Rsp where
  | ok (d : Word)
  | refused
  | ue
  | wait (txid : Nat)
deriving DecidableEq, Repr

/-- What a block makes of a register write: accepted, an error response alone, or an error response with an entry of the
kind in the requester's violation log. -/
inductive Wr where
  | ok
  | err
  | viol (kind : Nat)
deriving DecidableEq, Repr

/-! ### Outcomes -/

/-- The outcome of a command of the block. -/
abbrev Out := Host.Outcome State Fault Refusal

/-- Answer a next state in which the last access was accepted with the data `d`. -/
def ok (s : State) (d : Word := 0) : Out := .next { s with resp := { err := false, data := d } }

/-- Answer a next state in which the last access got an error response. -/
def errResp (s : State) : Out := .next { s with resp := { err := true, data := 0 } }

/-- Apply a function while a condition holds, else leave the state: a time-driven event whose condition does not hold
does not occur (log 5). -/
def State.when_ (s : State) (c : Bool) (f : State → State) : State := if c then f s else s

end Sys2Proof.Machine
end

