-- ==== Sys2Proof/Machine/Frames.lean ====
section
/-! DEFINITION. The sending side of a fabric link: virtual channels, credits, sequence numbers and the retransmit buffer (R406
to R412), routing (R424) and outstanding requests (R416). -/

namespace Sys2Proof.Machine

/-- The virtual channel of a frame type (R408). -/
def frameVc (ty : Nat) : Nat :=
  if ty = 1 ∨ ty = 3 ∨ ty = 5 then 0 else if ty = 2 ∨ ty = 4 ∨ ty = 6 then 1 else if ty = 8 then 3 else 2

/-- A frame type that carries a sequence number: all but IDLE and NAK (R408). -/
def sequenced (ty : Nat) : Bool := ty != 0 && ty != 11

/-- The receive buffer of a virtual channel in credit units of 64 bytes (R406, R412). -/
def vcUnits (vc : Nat) : Nat := if vc = 0 then 512 else if vc = 1 then 512 else if vc = 2 then 64 else 1024

/-- The credit units of a frame: header, payload padded to words, ICV and CRC. -/
def frameUnits (f : Frame) : Nat := (32 + (f.plen.toNat + 3) / 4 * 4 + 20 + 63) / 64

/-- A frame with nothing in its header. -/
def emptyFrame : Frame :=
  { intact := true, icvOk := true, seq := 0, ack := 0, ackV := false, dst := 0, src := 0, tenant := 0, sec := false, plen := 0, txid := 0,
    status := 0, len := 0, addr := 0, tag := 0, credit := 0, payload := [] }

/-- A sequence number is after another (R411). -/
def seqAfter (a b : Nat) : Bool :=
  let d := (a + 4096 - b % 4096) % 4096
  decide (1 ≤ d ∧ d ≤ 2047)

/-- The state code of a lane: 0 DOWN, 1 TRAIN, 2 IDENT, 3 TLOCK, 4 UP, 5 DRAIN, 6 FAILED. -/
def State.lnSt (s : State) (ln : Nat) : Nat := s.f F.FAB_LSTAT.state 0 ln

/-- The credits owed to the partner, one byte for each virtual channel, as the next frame carries them (R406). -/
def State.owedWord (s : State) (ln : Nat) : Word :=
  BitVec.ofNat 32 ((List.range 4).foldl (fun n vc => n + min (s.net.owed.get 0 (4 * ln + vc)) 255 * 256 ^ vc) 0)

/-- The credits that the next frame carries are no longer owed. -/
def State.owedSent (s : State) (ln : Nat) : State :=
  { s with net := { s.net with owed := (List.range 4).foldl (fun (m : SMap Nat) vc =>
      m.set 0 (4 * ln + vc) (m.get 0 (4 * ln + vc) - 255)) s.net.owed } }

/-- Put a frame on the lane: with the next sequence number into the retransmit buffer, or unsequenced (R406, R411). -/
def State.transmit (s : State) (ln ty : Nat) (f : Frame) : State :=
  let rx := s.net.seqRx.get 0 ln
  let n := s.net.seqTx.get 0 ln
  let f1 := { f with src := BitVec.ofNat 8 (s.f F.FAB_NODE.node), ack := BitVec.ofNat 12 (rx + 4095), ackV := rx != 0,
                     credit := s.owedWord ln }
  let s1 := s.owedSent ln
  if sequenced ty then
    let f2 := { f1 with seq := BitVec.ofNat 12 n }
    let vc := 4 * ln + frameVc ty
    { s1 with net := { s1.net with
        seqTx := s1.net.seqTx.set 0 ln ((n + 1) % 4096)
        buf := s1.net.buf.set [] ln (s1.net.buf.get [] ln ++ [(ty, f2)])
        waits := s1.net.waits.set [] ln (s1.net.waits.get [] ln ++ [s.clk.raw])
        used := s1.net.used.set 0 vc (s1.net.used.get 0 vc + frameUnits f) } }
  else { s1 with net := { s1.net with last := s1.net.last.set none ln (some (ty, if ty = 11 then f1 else { f1 with seq := 0 })) } }

/-- Requests that have been sent on a lane and have no response. -/
def State.sentReqs (s : State) (ln : Nat) : Nat :=
  (s.net.reqs.filter fun r => r.lane == ln).length - (s.net.waitq.get [] (4 * ln)).length

/-- A frame may be sent now: credit, room in the retransmit buffer, and fewer than 256 outstanding requests (R411, R412,
R416). -/
def State.maySend (s : State) (ln ty : Nat) (f : Frame) : Bool :=
  !sequenced ty ||
  (decide (s.net.used.get 0 (4 * ln + frameVc ty) + frameUnits f ≤ vcUnits (frameVc ty)) &&
   decide ((s.net.buf.get [] ln).length < 512) && (frameVc ty != 0 || decide (s.sentReqs ln ≤ 256)))

/-- Send a frame on a lane, or hold it behind what already waits on its virtual channel (R412). -/
def State.send (s : State) (ln ty : Nat) (f : Frame) : State :=
  let vc := 4 * ln + frameVc ty
  let q := s.net.waitq.get [] vc
  if q.isEmpty && s.maySend ln ty f then s.transmit ln ty f
  else { s with net := { s.net with waitq := s.net.waitq.set [] vc (q ++ [(ty, f)]) } }

/-- The frames that wait on a virtual channel are sent while they may be. -/
def State.drainVc (s : State) (ln vc : Nat) : State :=
  (s.net.waitq.get [] (4 * ln + vc)).foldl (fun s e =>
    match s.net.waitq.get [] (4 * ln + vc) with
    | h :: rest =>
      if h = e ∧ s.maySend ln e.1 e.2 then
        ({ s with net := { s.net with waitq := s.net.waitq.set [] (4 * ln + vc) rest } }).transmit ln e.1 e.2
      else s
    | [] => s) s

/-- Every virtual channel of a lane is drained. -/
def State.drainLane (s : State) (ln : Nat) : State := (List.range 4).foldl (fun s vc => s.drainVc ln vc) s

/-- The lane that a request to a node takes: the primary while it is UP, otherwise the alternate while it is UP (R421,
R424). -/
def State.laneTo (s : State) (node : Nat) : Option Nat :=
  let pri := s.f F.FAB_ROUTE.pri 0 node
  let alt := s.f F.FAB_ROUTE.alt 0 node
  if s.bit F.FAB_ROUTE.pen 0 node && s.lnSt pri == 4 then some pri
  else if s.bit F.FAB_ROUTE.aen 0 node && s.lnSt alt == 4 then some alt
  else none

/-- Issue a request to a node over its lane: it is outstanding until its response or its deadline (R416). The transaction. -/
def State.issue (s : State) (ln ty : Nat) (f : Frame) (by_ : ReqBy) : State × Nat :=
  let t := s.net.nextTx
  let due := s.now + BitVec.ofNat 64 (16000 * s.f F.FAB_CTL.tmo)
  let s1 := { s with net := { s.net with nextTx := (t + 1) % 4096, reqs := s.net.reqs ++ [({ txid := t, lane := ln, by_ := by_, due := due } : OutReq)] } }
  (s1.send ln ty { f with txid := BitVec.ofNat 12 t, tag := s.now }, t)

/-- An unsolicited MBXA with status 5 to the remote sender of a receive channel (R418). -/
def State.abortNotice (s : State) (core ch : Nat) : State :=
  match (List.range 32).find? fun e => s.bit F.FAB_MRX.en 0 e && s.f F.FAB_MRX.core 0 e == core && s.f F.FAB_MRX.ch 0 e == ch with
  | none => s
  | some e =>
    let node := s.f F.FAB_MRX.node 0 e
    match s.laneTo node with
    | some ln => s.send ln 6 { emptyFrame with dst := BitVec.ofNat 8 node, tenant := Fin.ofNat 8 (s.f F.FAB_MRX.ten 0 e),
                                               status := 5, addr := BitVec.ofNat 52 (core + 16 * ch), tag := s.now }
    | none => s

end Sys2Proof.Machine
end

