-- ==== Sys2Proof/Machine/Mem.lean ====
section
/-! DEFINITION. Memory as the checker and the bank ports serve it: regions (R301), refusals (R302), coherence (R327,
R328), aliases (R308), error correction (R312 to R315), retired pages and blocks (R320, R326), and the accesses. -/

namespace Sys2Proof.Machine

/-- The right of a region entry that an access needs (R301). -/
def regionRight (w : Word) : AccKind → Bool
  | .read => w.getLsbD 1
  | .write => w.getLsbD 2
  | .fetch => w.getLsbD 3
  | .event => false

/-- The region entry of a master that holds every byte of an access: the lowest-numbered with en = 1 (R301). -/
def State.regionEntry (s : State) (mno a n : Nat) : Option Nat :=
  (List.range (if 12 ≤ mno ∧ mno < 44 then 4 else 16)).find? fun e =>
    s.bit F.MEM_RGN_ATTR.en 0 mno e &&
    decide (s.f F.MEM_RGN_BASE.base 0 mno e ≤ pageOf a ∧ pageOf (a + n - 1) ≤ s.f F.MEM_RGN_LIMIT.limit 0 mno e)

/-- A scheduled action is checked against its tenant's regions (R53): some master's entry that the tenant owns admits it
(log 43). -/
def State.tenantRegion (s : State) (q : Req) (acc : AccKind) (a n : Nat) : Bool :=
  (List.range 45).any fun m => (List.range 16).any fun e =>
    let w := s.rd .MEM_RGN_ATTR 0 m e
    w.getLsbD 0 && F.MEM_RGN_ATTR.owner.get w == q.ten && regionRight w acc && (!w.getLsbD 5 || q.sec) &&
    decide (s.f F.MEM_RGN_BASE.base 0 m e ≤ pageOf a ∧ pageOf (a + n - 1) ≤ s.f F.MEM_RGN_LIMIT.limit 0 m e)

/-- The checker admits a memory access of `n` bytes (R301). -/
def State.regionOk (s : State) (q : Req) (acc : AccKind) (a n : Nat) : Bool :=
  if q.mno = 48 then s.tenantRegion q acc a n else
  match s.regionEntry q.mno a n with
  | none => false
  | some e =>
    let w := s.rd .MEM_RGN_ATTR 0 q.mno e
    regionRight w acc && (!q.user || w.getLsbD 4) && (!w.getLsbD 5 || q.sec)

/-- The owner of the region an access matches, for the violation entry. -/
def State.regionOwner (s : State) (q : Req) (a n : Nat) : Option Owner :=
  (s.regionEntry q.mno a n).map fun e =>
    { ten := s.f F.MEM_RGN_ATTR.owner 0 q.mno e, sec := s.bit F.MEM_RGN_ATTR.sec 0 q.mno e }

/-- An access refused under R302: entered with kind 1 in the requester's violation log. -/
def State.refuse (s : State) (q : Req) (acc : AccKind) (a n : Nat) : State :=
  s.violation q a 1 acc (s.regionOwner q a n)

/-- The uncorrectable-error alarm of R315: for T0 and the tenant that owns the reading master. -/
def State.ueAlarm (s : State) (q : Req) (kind a : Nat) : State :=
  s.alarm [0, q.ten] 6 q.mno kind (BitVec.ofNat 32 a) 0 s.now

/-! ### Coherence -/

/-- The 64-byte line of an address. -/
def lineOf (a : Nat) : Nat := a / 64

/-- An address that host cores cache (R297). -/
def cached (a : Nat) : Bool :=
  decide (a < 0x2000000 ∨ (0x10000000 ≤ a ∧ a < 0x11000000) ∨ (0x11800000 ≤ a ∧ a < 0x12000000))

/-- The state of a line in host core `c`'s data cache. -/
def State.l1 (s : State) (line c : Nat) : Mesi := s.ram.l1.get .i (8 * line + c)

/-- Set the state of a line in a cache. -/
def State.setL1 (s : State) (line c : Nat) (x : Mesi) : State :=
  { s with ram := { s.ram with l1 := s.ram.l1.set .i (8 * line + c) x } }

/-- Set the state of a line in the L2: 0 absent, 1 clean, 2 dirty. -/
def State.setL2 (s : State) (line : Nat) (v : Nat) : State :=
  { s with ram := { s.ram with l2 := s.ram.l2.set 0 line v } }

/-- The flipped bits of a cache's copy of a line: the word and their number (R312); cache 8 is the L2. -/
def State.cFlip (s : State) (line w : Nat) : Nat × Nat := s.ram.cFlips.get (0, 0) (9 * line + w)

/-- Set or clear the flipped bits of a cache's copy of a line. -/
def State.setCFlip (s : State) (line w : Nat) (v : Nat × Nat) : State :=
  { s with ram := { s.ram with cFlips := s.ram.cFlips.set (0, 0) (9 * line + w) v } }

/-- A dirty line of host core `c` goes back: a correctable word is corrected; an uncorrectable one is marked in memory, by a pattern that
decodes as uncorrectable, and the core takes a store error (R313, R314). -/
def State.writeBack (s : State) (line c : Nat) : State :=
  match s.cFlip line c with
  | (_, 0) => s
  | (_, 1) => (s.setCFlip line c (0, 0)).elogAdd (line * 64) 6 7 c
  | (w, _) =>
    let s1 := ((s.setCFlip line c (0, 0)).elogAdd (line * 64) 7 7 c).markBad (line * 64 + 4 * w)
    s1.updCore c fun k => { k with errResp := k.errResp ++ [BitVec.ofNat 32 (line * 64 + 4 * w)] }

/-- A cache gives its dirty copy back to the L2 and keeps the line in `x`; a clean copy goes to `x` at once. -/
def State.giveUp (s : State) (line c : Nat) (x : Mesi) : State :=
  match s.l1 line c with
  | .i => s
  | .m => ((s.writeBack line c).setL1 line c x).setL2 line 2
  | _ => if x = .i then (s.setL1 line c x).setCFlip line c (0, 0) else s.setL1 line c x

/-- The directory recalls and invalidates every copy of a line (R327). -/
def State.recall (s : State) (line : Nat) : State := (List.range 8).foldl (fun s c => s.giveUp line c .i) s

/-- The other caches keep a line at most as S (R327, read miss and uncached read). -/
def State.shareOut (s : State) (line c : Nat) : State :=
  (List.range 8).foldl (fun s d => if d = c then s else s.giveUp line d .s) s

/-- A read miss: E if no other copy exists, S otherwise; a line held is left as it is (R327). -/
def State.readMissAt (s : State) (c line : Nat) : State :=
  match s.l1 line c with
  | .i =>
    let others := (List.range 8).any fun d => d != c && s.l1 line d != .i
    let s1 := s.shareOut line c
    let s2 := if s1.ram.l2.get 0 line = 0 then s1.setL2 line 1 else s1
    s2.setL1 line c (if others then .s else .e)
  | _ => s

/-- An ownership request: every other copy invalidated, the line held in M (R327). -/
def State.ownLine (s : State) (c line : Nat) : State :=
  let s1 := (List.range 8).foldl (fun s d => if d = c then s else s.giveUp line d .i) s
  let s2 := if s1.ram.l2.get 0 line = 0 then s1.setL2 line 1 else s1
  s2.setL1 line c .m

/-- Eviction of a line: a dirty one is written back to the L2 (R327). -/
def State.evictLine (s : State) (c line : Nat) : State := s.giveUp line c .i

/-- The directory's part of a load or store by a master: a host core caches, every other master passes through (R299,
R327). -/
def State.cohere (s : State) (q : Req) (write : Bool) (a : Nat) : State :=
  if cached a then
    if q.mno < 8 then if write then s.ownLine q.mno (lineOf a) else s.readMissAt q.mno (lineOf a)
    else if write then s.recall (lineOf a) else s.shareOut (lineOf a) 8
  else s

/-! ### Error correction -/

/-- The three copies of a valid bit that disagree are corrected and logged as a corrected error (R310). -/
def State.fixValid (s : State) (a source mno : Nat) : State :=
  let v := s.ram.valid.get 0 (a / 4)
  if v = 0 ∨ v = 7 then s
  else
    let m := s.wvalid a
    ({ s with ram := { s.ram with valid := s.ram.valid.set 0 (a / 4) (if m then 7 else 0) } }).elogAdd (a - a % 4) 1 source mno

/-- The position of a single flipped bit. -/
def flipPos (v : BitVec 39) : Nat := ((List.range 39).find? fun i => v.getLsbD i).getD 0

/-- Error correction of the SRAM word at an address for a reader: corrected and written back, or uncorrectable (R312,
R313, R315). A word whose valid bit is 0 is not checked (R310). -/
def State.eccRead (s : State) (a source mno : Nat) : State × Bool :=
  let s1 := s.fixValid a source mno
  if !s1.wvalid a then (s1, true)
  else if s1.nflips a = 0 then (s1, true)
  else if s1.nflips a = 1 then
    ((s1.elogAdd (a - a % 4) 1 source mno (pos := flipPos (s1.ram.flips.get 0 (a / 4)))).setFlips a 0, true)
  else (s1.elogAdd (a - a % 4) 2 source mno, false)

/-- The memory link is up and reads of nonvolatile memory are answered (R28). -/
def State.memUp (s : State) : Bool := s.bit F.PWR_D2D_STATUS.mem_up

/-- The erase block of a nonvolatile cell: bank · 2048 + block (16 KiB). -/
def nvBlk (k : Nat) : Nat := k / 0x4000

/-- Error correction of a nonvolatile line for a reader (R312, R28): two bits corrected, three detected. -/
def State.nvRead (s : State) (a source mno : Nat) : State × Bool :=
  if !s.memUp then (s.elogAdd (a - a % 64) 5 source mno, false)
  else
    let n := s.ram.nvFlips.get 0 (s.nvKey a / 64)
    if n = 0 then (s, true)
    else if n = 1 then (s.elogAdd (a - a % 64) 3 source mno, true)
    else if n = 2 then (s.elogAdd (a - a % 64) 4 source mno, true)
    else (s.elogAdd (a - a % 64) 5 source mno, false)

/-- A page that MEM_RETIRE has closed (R320). -/
def State.pageClosedAt (s : State) (a : Nat) : Bool := s.ram.closed.contains (pageOf a)

/-- The nonvolatile block under a running program or erase, if any (R307). -/
def State.nvBusyAt (s : State) (a : Nat) : Bool :=
  s.bit F.MEM_NV_STAT.busy && s.ram.nvJob != 3 && isNv a && decide (0x2000000 ≤ a) &&
  decide (nvBlk (s.nvKey a) = nvBlk (s.nvKey s.ram.nvArg.2.1))

/-- A retired nonvolatile block answers every read with an error response (R326). -/
def State.blkRetired (s : State) (a : Nat) : Bool := isNv a && s.ram.nvRetired.get false (nvBlk (s.nvKey a))

/-- The memory address that an alias names, itself otherwise (R308). -/
def unalias (a : Nat) : Nat := if 0x20000000 ≤ a ∧ a < 0x22000000 ∨ 0x30000000 ≤ a ∧ a < 0x32000000 then 0x10000000 + a % 0x10000000 else a

/-- The cache that serves a master's access to an address: a host core's own where it holds the line, else the L2 where it does. -/
def State.servedBy (s : State) (q : Req) (a : Nat) : Option Nat :=
  if !cached a then none
  else if q.mno < 8 && s.l1 (lineOf a) q.mno != .i then some q.mno
  else if s.ram.l2.get 0 (lineOf a) = 0 then none else some 8

/-- The word at an address is read from the cache that serves the access: a clean copy with an error is discarded and the line read again,
a single flipped bit of a dirty one is corrected, and two are uncorrectable (R312, R313); false for those. -/
def State.cacheRead (s : State) (q : Req) (a : Nat) (by_ : Option Nat) : State × Bool :=
  match by_ with
  | none => (s, true)
  | some w =>
    let line := lineOf a
    let (i, n) := s.cFlip line w
    let dirty := if w < 8 then s.l1 line w == .m else s.ram.l2.get 0 line == 2
    if n = 0 ∨ i ≠ a % 64 / 4 then (s, true)
    else if dirty && decide (2 ≤ n) then (s.elogAdd (line * 64) 7 (elogSource q.mno) q.mno, false)
    else ((s.setCFlip line w (0, 0)).elogAdd (line * 64) 6 (elogSource q.mno) q.mno, true)

/-- A whole word is stored: in the cache that serves the access, too, its codeword is a new one (R312). -/
def State.cacheMend (s : State) (by_ : Option Nat) (a : Nat) : State :=
  match by_ with
  | some w => if (s.cFlip (lineOf a) w).1 = a % 64 / 4 then s.setCFlip (lineOf a) w (0, 0) else s
  | none => s

/-- A range of bytes cut at word boundaries, with fuel for its length. -/
def pieces : Nat → Nat → Nat → List (Nat × Nat)
  | 0, _, _ => []
  | k + 1, a, n =>
    if n = 0 then []
    else
      let m := min n (4 - a % 4)
      (a, m) :: pieces k (a + m) (n - m)

/-- The words that a range of bytes covers. -/
def piecesOf (a n : Nat) : List (Nat × Nat) := pieces (n + 1) a n

/-- An address of memory: nonvolatile, SRAM or an alias of it (R297). -/
def isMem (a : Nat) : Bool := isNv a || isSram (unalias a)

/-- A memory read of `n` bytes within one word, or an instruction fetch, by a request (R301, R302, R310 to R315). -/
def State.memRead (s : State) (q : Req) (acc : AccKind) (a0 n : Nat) : State × Rsp :=
  let a := unalias a0
  let src := elogSource q.mno
  if !s.regionOk q acc a n then (s.refuse q acc a0 n, .refused)
  else if s.pageClosedAt a || s.blkRetired a then (s.elogAdd a 10 src q.mno (retired := true), .refused)
  else if s.nvBusyAt a then (s.refuse q acc a0 n, .refused)
  else
    let (s1, whole) := if acc = .read then (s.cohere q false a).cacheRead q a (s.servedBy q a) else (s, true)
    let (s2, good) := if isNv a then s1.nvRead a src q.mno else s1.eccRead a src q.mno
    if whole && good then (s2, .ok (BitVec.ofNat 32 (ofBytes (s2.bytes a n))))
    else (s2.ueAlarm q (if !whole then 7 else if isNv a then 5 else 2) a, .ue)

/-- The value an alias store leaves in the bytes it covers (R308): set bits, clear bits, or the plain value. -/
def aliasVal (a0 : Nat) (old v : Nat) : Nat :=
  if 0x20000000 ≤ a0 ∧ a0 < 0x22000000 then old ||| v
  else if 0x30000000 ≤ a0 ∧ a0 < 0x32000000 then old &&& (v ^^^ 0xFFFFFFFF)
  else v

/-- A memory write of the `n` low bytes of `v` within one word by a request (R301, R308, R310, R314). A partial store or
an alias write that reads an uncorrectable word is not performed. A store to nonvolatile memory that its region admits gets
an error response and enters no log (R230). -/
def State.memWrite (s : State) (q : Req) (a0 n : Nat) (v : Word) : State × Rsp :=
  let a := unalias a0
  let src := elogSource q.mno
  if !s.regionOk q .write a n then (s.refuse q .write a0 n, .refused)
  else if isNv a then (s, .refused)
  else if s.pageClosedAt a then (s.elogAdd a 10 src q.mno (retired := true), .refused)
  else
    let s1 := if a0 = a then s.cohere q true a else s.recall (lineOf a)
    let by_ := s1.servedBy q a
    if n = 4 ∧ a0 = a then ((s1.cacheMend by_ a).setWord a v, .ok 0)
    else
      let (s1, whole) := s1.cacheRead q a by_
      let (s2, good) := s1.eccRead a src q.mno
      if whole && good then
        let old := ofBytes (s2.bytes a n)
        (s2.setBytes a (toBytes n (aliasVal a0 old v.toNat)), .ok 0)
      else (s2, .ue)

end Sys2Proof.Machine
end

