-- ==== Sys2Proof/Machine/Pairs.lean ====
section
/-! DEFINITION. Core pairs: reset (R286, R350, R357, R464), checkpoints (R382 to R384), mismatches, recovery and failure
(R375, R381, R387 to R394), and the trace (R401). -/

namespace Sys2Proof.Machine

/-! ### Trace -/

/-- The records the trace buffer holds (R401). -/
def trcSize : Nat := 32768

/-- A trace record is dropped into the gap of its class (R401). -/
def State.traceDrop (s : State) (r : TrcRec) : State :=
  let g := match s.log.trcGap.get none r.cls with
    | some g => { g with n := g.n + 1, last := r.first }
    | none => { r with gap := true }
  { s with log := { s.log with trcGap := s.log.trcGap.set none r.cls (some g) } }

/-- A trace record of a class is offered: recorded behind the gap records that are due, not recorded as its class is not selected, or
dropped by fill and waiting records into the class's gap (R401). -/
def State.trace (s : State) (cls : Nat) (t : Tag := s.now) : State :=
  if !s.bit F.TRC_CTL.en || !(s.rd .TRC_CTL).getLsbD (1 + cls) then s
  else
    let fill := s.log.trace.length
    let wait := s.log.trcPort.length
    let drop :=
      (cls == 3 && (decide (trcSize * 7 / 8 ≤ fill) || decide (0 < wait))) ||
      (cls == 2 && (decide (trcSize * 15 / 16 ≤ fill) || decide (32 < wait))) ||
      (cls == 1 && decide (trcSize ≤ fill)) ||
      (cls == 0 && decide (trcSize ≤ fill) && !s.bit F.TRC_CTL.wrap)
    let r : TrcRec := { cls := cls, first := t, last := t }
    if drop then s.traceDrop r
    else
      let gaps := (List.range 4).filterMap fun k => s.log.trcGap.get none k
      let s1 := { s with log := { s.log with trcGap := [], trcPort := s.log.trcPort ++ gaps ++ [r] } }
      gaps.foldl (fun s _ => (s.setb F.TRC_STAT.gap).inc F.TRC_CNT.gaps) s1

/-- The record port writes the oldest waiting trace record to the buffer; to a full one without wrap no record is written: a gap record
stays, another is dropped (R400, R401). -/
def State.tracePut (s : State) : State :=
  match s.log.trcPort with
  | [] => s
  | r :: rest =>
    let full := decide (trcSize ≤ s.log.trace.length)
    if full && !s.bit F.TRC_CTL.wrap then
      if r.gap then s else ({ s with log := { s.log with trcPort := rest } } : State).traceDrop r
    else
    let buf := (if full then s.log.trace.tail else s.log.trace) ++ [r]
    let s1 := { s with log := { s.log with trcPort := rest, trace := buf } }
    let s2 := if full then s1.inc F.TRC_CNT.ovw else s1
    ((s2.put F.TRC_STAT.fill (min buf.length 0xFFFF)).setIf (decide (trcSize ≤ buf.length)) F.TRC_STAT.full)

/-! ### Reset of a core pair -/

/-- The receive channels of a core are cleared: each sender sees aborted, a sending core is rung at source 511, and a
remote sender gets an abort notice (R357, R418). -/
def State.clearMailboxes (s : State) (c : Nat) : State :=
  (List.range 16).foldl (fun s ch =>
    let s1 := (List.range 8).foldl (fun s w => s.wr .MBX_RX 0 c ch w) s
    let s2 := (s1.putNbit .MBX_RX_FULL ch false c).clrb F.MBX_TX_STAT.full 0 c ch
    if s2.bit F.MBX_RX_CFG.en c ch then
      let s3 := s2.setb F.MBX_TX_STAT.aborted 0 c ch
      let snd := s3.f F.MBX_RX_CFG.sender c ch
      if snd < 12 then s3.pendSrc snd 511 else if snd = 44 then s3.abortNotice c ch else s3
    else s2) (s.wr .MBX_RX_STAT 0 c)

/-- The L1 of a host core is written back, then invalidated (R464). -/
def State.flushL1 (s : State) (c : Nat) : State :=
  s.ram.l1.foldl (fun s e => if e.1 % 8 = c then s.giveUp (e.1 / 8) c .i else s) s

/-- The other words of an SRAM line whose word at `a` has been read: true where each of them reads without an uncorrectable error
(R312, R315). A nonvolatile line is protected as a whole. -/
def State.lineRest (s : State) (q : Req) (a : Nat) : State × Bool :=
  let a1 := unalias a
  if isNv a1 then (s, true)
  else (List.range 16).foldl (fun (x : State × Bool) i =>
    let w := lineOf a1 * 64 + 4 * i
    if w = a1 - a1 % 4 then x
    else
      let (s1, g) := x.1.eccRead w (elogSource q.mno) q.mno
      (if g then s1 else s1.ueAlarm q 2 w, x.2 && g)) (s, true)

/-- The sixteen words of the line that holds a memory address. -/
def State.lineWords (s : State) (a : Nat) : List Word := (List.range 16).map fun i => s.word (lineOf (unalias a) * 64 + 4 * i)

/-- Read the line that holds an address for a core's fetch: the answer for the word there, and the line's words where every one of
them is good, so that the line can be kept (R271, R273, R274, R315). -/
def State.lineRead (s : State) (q : Req) (a : Nat) : State × Rsp × Option (List Word) :=
  match s.memRead q .fetch a 4 with
  | (s1, .ok d) =>
    let (s2, g) := s1.lineRest q a
    (s2, .ok d, if g then some (s2.lineWords a) else none)
  | (s1, r) => (s1, r, none)

/-- Load the vector buffer: a line whose load fails is bad, and is not among those held (R273). -/
def State.loadVectors (s : State) (c : Nat) : State :=
  let q : Req := { s.req (.core ⟨c % 12, Nat.mod_lt c (by decide)⟩) with user := false }
  let b := lineOf (s.core c).vbase.toNat
  (List.range 8).foldl (fun s i =>
    match s.lineRead q ((b + i) * 64) with
    | (s1, _, some ws) => s1.updCore c fun k => { k with vecs := (b + i, ws) :: k.vecs }
    | (s1, _, none) => s1) s

/-- The state of a core pair that a checkpoint copies: the banks, the core's own state and its private registers (R382). -/
def State.ckptOf (s : State) (c : Nat) : Ckpt :=
  { banks := (List.range 9).foldl (fun m b => m.set {} b (s.bank c b)) []
    core := s.core c
    regs := (s.regs.filter fun e => e.1 == regBlk .INT_PEND c || e.1 == regBlk .SCHED_CMD c)
    rdr := (List.range 9).foldl (fun m b => m.set {} b (s.rdr.get {} (16 * c + b))) [] }

/-- Reset core pair `c` with a reason for EVAL: 0 power-on or device, 1 tenant, 2 recovery, 3 third fault, 4 pack (R278,
R284, R286, R350, R357, R464). Context 0 runs in bank 0 at vector 0; a failed pair stays held (R394). Until its first checkpoint the
pair is rebuilt from here (log 146). -/
def State.resetCore (s : State) (c reason : Nat) : State :=
  let vb := (s.core c).vbase
  let dbt := s.rd .INT_DBT c
  let df := (s.rd .SCHED_DF_EPC c, s.rd .SCHED_DF_CAUSE c, s.rd .SCHED_DF_VAL c, s.rd .SCHED_DF_STATUS c)
  let paired := s.bit F.CHK_STAT.paired c
  let ck := (s.pair (corePair c)).ck
  let s1 := (((s.resetBlk .int c).resetBlk .sched c).resetBlk .chk c).wr .INT_DBT dbt c
  let s2 := s1.putb F.CHK_STAT.paired paired c
  let s3 := if reason = 3 then
      (((s2.wr .SCHED_DF_EPC df.1 c).wr .SCHED_DF_CAUSE df.2.1 c).wr .SCHED_DF_VAL df.2.2.1 c).wr .SCHED_DF_STATUS df.2.2.2 c
    else s2
  let s4 := if reason = 2 then
      (List.range 32).foldl (fun s i =>
        let m := ck.regs.get [] (regBlk .INT_PEND c)
        (s.wr .INT_PEND (SMap.get 0 m (regKey .INT_PEND i 0)) c i).wr .INT_MASK
          (SMap.get 0xFFFFFFFF m (regKey .INT_MASK i 0)) c i) s3
    else s3.clearMailboxes c
  let s5 := (List.range 9).foldl (fun s b =>
    { s.setBank c b (if b = 0 then { pc := vb, eval := BitVec.ofNat 32 reason } else {}) with
      rdr := s.rdr.set {} (16 * c + b) {} }) s4
  let s6 := s5.setCore c { vbase := vb, held := s5.pf F.PJNL_PSTAT.failed (corePair c) != 0 }
  let s7 := if c < 8 then s6.flushL1 c else s6
  let s8 := s7.updPair (corePair c) fun p => { p with jnl := [], replay := [], deferred := false }
  let s9 := ((s8.putPf F.PJNL_PFILL.fill 0 (corePair c)).putPf F.PJNL_PSTAT.rec 0 (corePair c)).loadVectors c
  s9.updPair (corePair c) fun p => { p with ck := s9.ckptOf c, due := false, ckAt := s9.now }

/-! ### Checkpoints -/

/-- The tenants that a pair's alarms go to (R393): T0, and the pack's owner or the core's tenant. -/
def State.pairTens (s : State) (n : Nat) : List Nat :=
  [0, if n < 8 then (s.owner (.pack (n % 4))).ten else s.coreTen (n - 8)]

/-- The core of a core pair. -/
def pairCore (n : Nat) : Nat := if n < 8 then n + 4 else n - 8

/-- A checkpoint of a core pair is taken: the state is copied and every journal record before it is freed (R382, R383). -/
def State.takeCkpt (s : State) (c : Nat) (forced : Bool) : State :=
  let n := corePair c
  let s1 := s.updPair n fun p => { p with ck := s.ckptOf c, jnl := [], deferred := false, due := false, ckAt := s.now }
  let s2 := (s1.putPf F.PJNL_PFILL.fill 0 n).setPairTag .PJNL_PCTAG_LO .PJNL_PCTAG_HI s1.now n
  let s3 := if forced then s2.putPf F.PJNL_PSTAT.forced 1 n else s2
  (s3.jnl n { ty := 9, tag := s3.now }).wr .CHK_POS 0 c

/-- The tags of the mismatches within the last 1 s (R393). -/
def recentMm (now : Tag) (ts : List Tag) : List Tag := ts.filter fun t => !Tag.after now (t + 16000000000)

/-- A mismatch of pair `n` is counted (R375): which comparators reported, its tag, the counts; with whether the pair has
now failed (R393). -/
def State.countMismatch (s : State) (n : Nat) (a b : Bool) : State × Bool :=
  let s1 := if a then s.putPf F.PJNL_PSTAT.cmp_a 1 n else s
  let s2 := if b then s1.putPf F.PJNL_PSTAT.cmp_b 1 n else s1
  let ts := (s.now :: recentMm s.now (s.pair n).mm).take 3
  let (r, p, g) := pairReg n .PJNL_PSTAT
  let s3 := (s2.inc { F.PJNL_PSTAT.mm_cnt with r := r } p g).setPairTag .PJNL_PMTAG_LO .PJNL_PMTAG_HI s.now n
  let s4 := (s3.updPair n fun k => { k with mm := ts }).putPf F.PJNL_PSTAT.recent ts.length n
  (s4, decide (3 ≤ ts.length))

/-- The records of a journal that re-execution takes as inputs or compares (R387). -/
def replayOf (js : List JRec) : List JRec := js.filter fun r => r.ty != 6 && r.ty != 9

/-- A mismatch of core pair `n` (R381, R387, R390, R391, R393, R394): the unconfirmed stores are discarded; the pair fails,
or restarts at vector 0 where its journal cannot be read, or recovers: the checkpoint is restored, the UNDO records are
applied newest first, and the journal supplies the inputs from there. A failed pair is held in a reset that is none for recovery
(R357). -/
def State.mismatchCore (s : State) (n : Nat) (a b : Bool) : State :=
  let c := pairCore n
  let pos := s.jpos c
  let (s1, failed) := s.countMismatch n a b
  let s2 := (s1.updCore c fun k => { k with queue := [] }).updPair n fun k => { k with pos := pos }
  if failed then
    let s3 := (s2.putPf F.PJNL_PSTAT.failed 1 n).resetCore c 0
    s3.alarm (s3.pairTens n) 3 n 3 0 (BitVec.ofNat 32 pos) s3.now
  else if (s2.pair n).jbad then
    let s3 := (s2.putPf F.PJNL_PSTAT.restart 1 n).resetCore c 2
    s3.alarm (s3.pairTens n) 3 n 2 0 (BitVec.ofNat 32 pos) s3.now
  else
    let p := s2.pair n
    let ck := p.ck
    let s3 := (List.range 9).foldl (fun s i =>
      { s.setBank c i (ck.banks.get {} i) with rdr := s.rdr.set {} (16 * c + i) (ck.rdr.get {} i) }) s2
    let k := s3.core c
    let s4 := s3.setCore c { ck.core with held := k.held, queue := [], lines := k.lines, pre := k.pre, btb := k.btb, vecs := k.vecs, codeBad := k.codeBad,
                                          errResp := k.errResp }
    let s5 := { s4 with regs := (s4.regs.set [] (regBlk .INT_PEND c) (ck.regs.get [] (regBlk .INT_PEND c))).set []
                                  (regBlk .SCHED_CMD c) (ck.regs.get [] (regBlk .SCHED_CMD c)) }
    let undo := (p.jnl.filter (·.ty == 6)).reverse
    let s6 := undo.foldl (fun s r => s.setWord r.a.toNat r.x) s5
    let js := p.jnl.filter (·.ty != 6)
    let s7 := s6.updPair n fun p => { p with jnl := js, replay := replayOf js }
    (s7.putPf F.PJNL_PSTAT.rec 1 n).wr .CHK_POS 0 c

/-- The loop engine's checkpoint at a base boundary, or deferred while a recovery runs (R382, R384). -/
def State.engCkpt (s : State) (p : Nat) : State :=
  if !s.paired p then s
  else if s.recovering p then (s.putPf F.PJNL_PSTAT.late_ckpt 1 p).updPair p fun k => { k with deferred := true }
  else
    let s1 := (s.updPair p fun k => { k with jnl := [], deferred := false }).putPf F.PJNL_PFILL.fill 0 p
    (s1.setPairTag .PJNL_PCTAG_LO .PJNL_PCTAG_HI s1.now p).jnl p { ty := 9, tag := s1.now }

/-- The recovery of a pair has ended: its length is recorded, an alarm and a system log record entered (R387, R388, R399); a loop engine takes a deferred checkpoint (R384). The length in steps is a matter of pace: a free value (log 20). -/
def State.endRecovery (s : State) (n : Nat) : State :=
  let (s1, v) := s.fresh
  let len := min v.toNat 0xFFFF
  let s2 := (s1.putPf F.PJNL_PSTAT.rec 0 n).putPf F.PJNL_PREC.last len n
  let s3 := if s2.pf F.PJNL_PREC.max_ n < len then s2.putPf F.PJNL_PREC.max_ len n else s2
  let s4 := s3.alarm (s3.pairTens n) 3 n 1 v (BitVec.ofNat 32 (s3.pair n).pos) s3.now
  let s5 := s4.slogAdd 3 (BitVec.ofNat 32 n) v
  if n < 4 && (s5.pair n).deferred then s5.engCkpt n else s5

end Sys2Proof.Machine
end

