-- ==== Sys2Proof/Machine/Contexts.lean ====
section
/-! DEFINITION. Contexts of a core as its SCHED registers command them (R285 to R292): START, STOP and WAKE, the jobs of the
spill machinery, and a core's own request. -/

namespace Sys2Proof.Machine

/-- Core `c` as a master. -/
def coreM (c : Nat) : Master := .core ⟨c % 12, Nat.mod_lt c (by decide)⟩

/-- The address of a context's save block (R296). -/
def State.saveBlock (s : State) (c x : Nat) : Nat := s.f F.SCHED_SAVE.base c * 512 + 0x200 * x

/-- The header word of a save area (R296). -/
def saveHeader (x : Nat) (upper spill fast : Bool) : Word :=
  BitVec.ofNat 32 (x + upper.toNat * 32 + spill.toNat * 64 + fast.toNat * 128)

/-- A core's own machine-mode request, as the save port makes it. -/
def State.saveReq (s : State) (c : Nat) : Req :=
  { s.req (coreM c) with user := false, sec := s.secOk (s.coreTen c) }

/-- START of a FREE context: READY, with no saved floating-point area (R286, R294); refused otherwise (R292), as false. -/
def State.ctxStart (s : State) (c x : Nat) : State × Bool :=
  if s.ctxState c x ≠ 0 then (s, false)
  else
    let (s1, _) := s.memWrite (s.saveReq c) (s.saveBlock c x + 0x100) 4 0
    let s2 := (s1.makeReady c x s1.now).updCore c fun k => { k with fresh := k.fresh.set false x true }
    (s2.schedJobs c, true)

/-- STOP of a context other than the running one: FREE without a spill, its floating-point ownership invalidated (R292). -/
def State.ctxStop (s : State) (c x : Nat) : State × Bool :=
  if s.ctxState c x = 2 then (s, false)
  else
    let s1 := s.wr .SCHED_CTX_STAT 0 c x
    let s2 := if s1.bit F.SCHED_FP.valid c && s1.f F.SCHED_FP.owner c == x then s1.clrb F.SCHED_FP.valid c else s1
    let s3 := s2.updCore c fun k => { k with fresh := k.fresh.set false x false,
                                             job := if k.job.map Prod.snd = some x then none else k.job }
    ((s3.putb F.SCHED_STAT.spill_busy (s3.core c).job.isSome c).schedJobs c, true)

/-- WAKE makes a WAITING context READY; another context is left as it is (R289). -/
def State.ctxWake (s : State) (c x : Nat) : State :=
  if s.ctxState c x = 3 then (s.makeReady c x s.now).schedJobs c else s

end Sys2Proof.Machine
end

