-- ==== Sys2Proof/Machine/Flags.lean ====
section
/-! DEFINITION. Floating-point arithmetic and its flags (R264, R265), over any binary format: exact values as integers
times powers of two, one rounding at the end. The loop engine's FP32 (R145) uses the same operations. -/

namespace Sys2Proof.Machine

/-- A binary format: exponent bits and fraction bits. -/
structure Fmt where
  eb : Nat
  mb : Nat

/-- binary32. -/
def f32 : Fmt := ⟨8, 23⟩

/-- binary64. -/
def f64 : Fmt := ⟨11, 52⟩

/-- The exponent bias of a format. -/
def Fmt.bias (f : Fmt) : Nat := 2 ^ (f.eb - 1) - 1

/-- The code of infinity without its sign. -/
def Fmt.inf (f : Fmt) : Nat := (2 ^ f.eb - 1) * 2 ^ f.mb

/-- The sign bit. -/
def Fmt.signBit (f : Fmt) : Nat := 2 ^ (f.eb + f.mb)

/-- The canonical NaN (R264). -/
def Fmt.nan (f : Fmt) : Nat := f.inf + 2 ^ (f.mb - 1)

/-- The sticky flags in the order of FCSR: nx, uf, of, dz, nv. -/
abbrev Flags := BitVec 5

def fNx : Flags := 1
def fUf : Flags := 2
def fOf : Flags := 4
def fDz : Flags := 8
def fNv : Flags := 16

/-- The rounding modes of FCSR.rm. -/
inductive Rm where
  | nearest
  | zero
  | down
  | up
deriving DecidableEq, Repr

/-- The mode a code of FCSR.rm names. -/
def rmOf (n : Nat) : Rm := if n % 4 = 0 then .nearest else if n % 4 = 1 then .zero else if n % 4 = 2 then .down else .up

/-- A value: a NaN (signalling or quiet), an infinity, or a finite `m · 2^e` with its sign. -/
inductive FVal where
  | nan (sig : Bool)
  | inf (s : Bool)
  | fin (s : Bool) (m : Nat) (e : Int)
deriving DecidableEq, Repr

/-- The value of a code. -/
def unpack (f : Fmt) (w : Nat) : FVal :=
  let s := decide (f.signBit ≤ w % (2 * f.signBit))
  let a := w % f.signBit
  let ex := a / 2 ^ f.mb
  let fr := a % 2 ^ f.mb
  if f.inf < a then .nan (decide (fr < 2 ^ (f.mb - 1)))
  else if a = f.inf then .inf s
  else if ex = 0 then .fin s fr (1 - (f.bias : Int) - f.mb)
  else .fin s (fr + 2 ^ f.mb) (ex - (f.bias : Int) - f.mb)

/-- A signed code. -/
def signed (f : Fmt) (s : Bool) (a : Nat) : Nat := if s then f.signBit + a else a

/-- Round `m / 2^d` to an integer in a mode, with whether it was inexact. -/
def roundShift (rm : Rm) (s : Bool) (m d : Nat) : Nat × Bool :=
  let q := m / 2 ^ d
  let r := m % 2 ^ d
  let up := match rm with
    | .nearest => decide (2 ^ d < 2 * r) || (decide (2 * r = 2 ^ d) && q % 2 == 1)
    | .zero => false
    | .down => s && r != 0
    | .up => !s && r != 0
  (if r != 0 && up then q + 1 else q, r != 0)

/-- Round `m · 2^k` to an integer multiple of `2^q`, in units of `2^q`, with whether it was inexact. -/
def roundAt (rm : Rm) (s : Bool) (m : Nat) (k q : Int) : Nat × Bool :=
  if q ≤ k then (m * 2 ^ (k - q).toNat, false) else roundShift rm s m (q - k).toNat

/-- Round the exact value `m · 2^e` to a format, once (R264). A tiny inexact result sets uf. -/
def pack (f : Fmt) (rm : Rm) (s : Bool) (m : Nat) (e : Int) : Nat × Flags :=
  if m = 0 then (signed f s 0, 0)
  else
    let top : Int := e + Nat.log2 m
    let emin : Int := 1 - (f.bias : Int)
    let q : Int := max (top - f.mb) (emin - f.mb)
    let (r, nx) := roundAt rm s m e q
    let code := (q - (emin - f.mb)).toNat * 2 ^ f.mb + r
    if f.inf ≤ code then
      let big := match rm with
        | .nearest => true
        | .zero => false
        | .down => s
        | .up => !s
      (signed f s (if big then f.inf else f.inf - 1), fOf ||| fNx)
    else
      let before := decide (top < emin)
      let (r2, _) := roundAt rm s m e (top - f.mb)
      let after := before && !(decide (top = emin - 1) && decide (2 ^ (f.mb + 1) ≤ r2))
      let uf := nx && before && (after || Config.tinyBefore)
      (signed f s code, (if nx then fNx else 0) ||| (if uf then fUf else 0))

/-- The NaN result of an operation with a NaN operand; a signalling one is invalid. -/
def nanOut (f : Fmt) (xs : List FVal) : Nat × Flags :=
  (f.nan, if xs.any (· == .nan true) then fNv else 0)

/-- Whether a value is a NaN. -/
def FVal.isNan : FVal → Bool
  | .nan _ => true
  | _ => false

/-- The value with its sign flipped. -/
def FVal.neg : FVal → FVal
  | .nan b => .nan b
  | .inf s => .inf !s
  | .fin s m e => .fin (!s) m e

/-- The integer `±m` scaled by `2^(e - k)`, for `k ≤ e`. -/
def scaled (s : Bool) (m : Nat) (e k : Int) : Int :=
  let v : Int := (m * 2 ^ (e - k).toNat : Nat)
  if s then -v else v

/-- Sum of two values, rounded once. A zero sum of opposite signs is +0, or -0 when rounding down. -/
def addVal (f : Fmt) (rm : Rm) (x y : FVal) : Nat × Flags :=
  match x, y with
  | .nan a, b => nanOut f [.nan a, b]
  | a, .nan b => nanOut f [a, .nan b]
  | .inf s, .inf t => if s = t then (signed f s f.inf, 0) else (f.nan, fNv)
  | .inf s, _ => (signed f s f.inf, 0)
  | _, .inf t => (signed f t f.inf, 0)
  | .fin s m e, .fin t n g =>
    let k := min e g
    let v := scaled s m e k + scaled t n g k
    if v = 0 then
      let neg := if s = t then s else decide (rm = .down)
      (signed f neg 0, 0)
    else pack f rm (decide (v < 0)) v.natAbs k

/-- Product of two values as a value, exact, or the flags of an invalid product. -/
def mulExact (x y : FVal) : Option FVal :=
  match x, y with
  | .nan a, _ => some (.nan a)
  | _, .nan b => some (.nan b)
  | .inf s, .inf t => some (.inf (s != t))
  | .inf s, .fin t n _ => if n = 0 then none else some (.inf (s != t))
  | .fin s m _, .inf t => if m = 0 then none else some (.inf (s != t))
  | .fin s m e, .fin t n g => some (.fin (s != t) (m * n) (e + g))

/-- Product of two values, rounded once. -/
def mulVal (f : Fmt) (rm : Rm) (x y : FVal) : Nat × Flags :=
  if x.isNan || y.isNan then nanOut f [x, y]
  else
    match mulExact x y with
    | none => (f.nan, fNv)
    | some (.fin s m e) => pack f rm s m e
    | some (.inf s) => (signed f s f.inf, 0)
    | some (.nan _) => (f.nan, 0)

/-- `x · y + z` with one rounding. -/
def fmaVal (f : Fmt) (rm : Rm) (x y z : FVal) : Nat × Flags :=
  if x.isNan || y.isNan then nanOut f [x, y, z]
  else
    match mulExact x y with
    | none => (f.nan, if z.isNan && z != .nan true && !Config.fmaInvalid then 0 else fNv)
    | some p => addVal f rm p z

/-- Quotient, rounded once. -/
def divVal (f : Fmt) (rm : Rm) (x y : FVal) : Nat × Flags :=
  match x, y with
  | .nan a, b => nanOut f [.nan a, b]
  | a, .nan b => nanOut f [a, .nan b]
  | .inf _, .inf _ => (f.nan, fNv)
  | .inf s, .fin t _ _ => (signed f (s != t) f.inf, 0)
  | .fin s _ _, .inf t => (signed f (s != t) 0, 0)
  | .fin s m e, .fin t n g =>
    if n = 0 then if m = 0 then (f.nan, fNv) else (signed f (s != t) f.inf, fDz)
    else
      let k := 2 * f.mb + 4 + Nat.log2 n
      let q := (m * 2 ^ k) / n
      let st := if (m * 2 ^ k) % n = 0 then 0 else 1
      pack f rm (s != t) (2 * q + st) (e - g - k - 1)

/-- The integer square root of `n`, bit by bit from bit `k - 1` down, onto the root `r` found so far. -/
def isqrtFrom (n : Nat) : Nat → Nat → Nat
  | 0, r => r
  | k + 1, r => isqrtFrom n k (if (r + 2 ^ k) * (r + 2 ^ k) ≤ n then r + 2 ^ k else r)

/-- The integer square root. -/
def isqrt (n : Nat) : Nat := isqrtFrom n (Nat.log2 n / 2 + 1) 0

/-- Square root, rounded once. -/
def sqrtVal (f : Fmt) (rm : Rm) (x : FVal) : Nat × Flags :=
  match x with
  | .nan a => nanOut f [.nan a]
  | .inf s => if s then (f.nan, fNv) else (f.inf, 0)
  | .fin s m e =>
    if m = 0 then (signed f s 0, 0)
    else if s then (f.nan, fNv)
    else
      let k : Nat := 2 * f.mb + 8 + (e % 2).toNat
      let n := m * 2 ^ k
      let r := isqrt n
      let st := if r * r = n then 0 else 1
      pack f rm false (2 * r + st) ((e - k) / 2 - 1)

/-- Comparison of two values that are no NaN: less. -/
def ltVal (x y : FVal) : Bool :=
  match x, y with
  | .inf s, .inf t => s && !t
  | .inf s, _ => s
  | _, .inf t => !t
  | .fin s m e, .fin t n g =>
    let k := min e g
    decide (scaled s m e k < scaled t n g k)
  | _, _ => false

/-- Comparison of two values that are no NaN: equal; the zeros are equal. -/
def eqVal (x y : FVal) : Bool :=
  match x, y with
  | .inf s, .inf t => s == t
  | .fin s m e, .fin t n g =>
    let k := min e g
    decide (scaled s m e k = scaled t n g k)
  | _, _ => false

/-- A binary32 operation of two operands on codes. -/
def op2 (f : Fmt) (g : FVal → FVal → Nat × Flags) (a b : Nat) : Nat × Flags := g (unpack f a) (unpack f b)

/-- Minimum or maximum by R265: with one NaN the other operand, with two the canonical NaN, -0 below +0; only a
signalling NaN is invalid. -/
def minmax (f : Fmt) (wantMax : Bool) (a b : Nat) : Nat × Flags :=
  let x := unpack f a
  let y := unpack f b
  let fl : Flags := if x == .nan true || y == .nan true then fNv else 0
  if x.isNan then (if y.isNan then f.nan else b, fl)
  else if y.isNan then (a, fl)
  else
    let aLess := ltVal x y || (eqVal x y && decide (f.signBit ≤ a))
    (if aLess != wantMax then a else b, fl)

/-- Round a value to a signed 32-bit integer in a mode (R265): beyond range saturates, a NaN gives 0, both invalid. -/
def toInt32 (rm : Rm) (x : FVal) : BitVec 32 × Flags :=
  match x with
  | .nan _ => (0, fNv)
  | .inf s => (if s then 0x80000000 else 0x7FFFFFFF, fNv)
  | .fin s m e =>
    let (n, nx) := roundAt rm s m e 0
    if s then
      if 2 ^ 31 < n then (0x80000000, fNv) else (BitVec.ofInt 32 (-(n : Int)), if nx then fNx else 0)
    else if 2 ^ 31 ≤ n then (0x7FFFFFFF, fNv) else (BitVec.ofNat 32 n, if nx then fNx else 0)

/-- A signed integer as a rounded code. -/
def ofInt (f : Fmt) (rm : Rm) (v : Int) : Nat × Flags := pack f rm (decide (v < 0)) v.natAbs 0

/-- Convert between formats with one rounding. -/
def convert (a b : Fmt) (rm : Rm) (w : Nat) : Nat × Flags :=
  match unpack a w with
  | .nan sg => nanOut b [.nan sg]
  | .inf s => (signed b s b.inf, 0)
  | .fin s m e => pack b rm s m e

end Sys2Proof.Machine
end

