-- ==== Sys2Proof/Machine/Fp32.lean ====
section
/-! DEFINITION. binary32 on words outside the cores: round to nearest even, and for the loop engine subnormal operands and
results flushed to zero of the same sign (R126). -/

namespace Sys2Proof.Machine

/-- The value of a word. -/
def fval (w : Word) : FVal := unpack f32 w.toNat

/-- A code as a word. -/
def fword (r : Nat × Flags) : Word := BitVec.ofNat 32 r.1

/-- The quotient of two integers as a word, rounded once to nearest even. -/
def ratWord (n : Int) (d : Nat) : Word :=
  fword (divVal f32 .nearest (.fin (decide (n < 0)) n.natAbs 0) (.fin false d 0))

/-- An integer as a word. -/
def intWord (n : Int) : Word := fword (ofInt f32 .nearest n)

/-- Subtraction, IEEE. -/
def fsubW (a b : Word) : Word := fword (addVal f32 .nearest (fval a) (fval b).neg)

/-- Multiplication, IEEE. -/
def fmulW (a b : Word) : Word := fword (mulVal f32 .nearest (fval a) (fval b))

/-- A NaN word. -/
def isNanW (w : Word) : Bool := (fval w).isNan

/-- The magnitude of a word. -/
def absW (w : Word) : Word := w &&& 0x7FFFFFFF

/-- The value of a word is less than another's; false with a NaN. -/
def ltW (a b : Word) : Bool := !isNanW a && !isNanW b && ltVal (fval a) (fval b)

/-- At most; false with a NaN. -/
def leW (a b : Word) : Bool := !isNanW a && !isNanW b && !ltVal (fval b) (fval a)

/-- The magnitude of a word exceeds the fraction `n / d`; false with a NaN. -/
def absGt (w : Word) (n d : Nat) : Bool :=
  match fval w with
  | .nan _ => false
  | .inf _ => true
  | .fin _ m e => if 0 ≤ e then decide (n < m * 2 ^ e.toNat * d) else decide (n * 2 ^ (-e).toNat < m * d)

/-- A word with subnormals flushed to zero of the same sign (R126). -/
def ftz (w : Word) : Word := if w &&& 0x7F800000 = 0 then w &&& 0x80000000 else w

/-- An operation of the loop engine on two words (R126). -/
def eng2 (g : FVal → FVal → Nat × Flags) (a b : Word) : Word := ftz (fword (g (fval (ftz a)) (fval (ftz b))))

def engAdd (a b : Word) : Word := eng2 (addVal f32 .nearest) a b
def engSub (a b : Word) : Word := eng2 (fun x y => addVal f32 .nearest x y.neg) a b
def engMul (a b : Word) : Word := eng2 (mulVal f32 .nearest) a b
def engDiv (a b : Word) : Word := eng2 (divVal f32 .nearest) a b
def engSqrt (a : Word) : Word := ftz (fword (sqrtVal f32 .nearest (fval (ftz a))))

/-- `a · b + c` with one rounding (R126). -/
def engFma (a b c : Word) : Word := ftz (fword (fmaVal f32 .nearest (fval (ftz a)) (fval (ftz b)) (fval (ftz c))))

/-- minimumNumber and maximumNumber, -0 below +0 (R126). -/
def engMin (a b : Word) : Word := fword (minmax f32 false (ftz a).toNat (ftz b).toNat)
def engMax (a b : Word) : Word := fword (minmax f32 true (ftz a).toNat (ftz b).toNat)

/-- Comparisons of the loop engine: 1.0 or 0.0; false with a NaN. -/
def engGt (a b : Word) : Word := if ltW (ftz b) (ftz a) then 0x3F800000 else 0
def engGe (a b : Word) : Word := if leW (ftz b) (ftz a) then 0x3F800000 else 0

/-- The sum of finite values, exact, as `v · 2^k`. -/
def sumExact (xs : List (Bool × Nat × Int)) : Int × Int :=
  let k := xs.foldl (fun k x => min k x.2.2) 0
  (xs.foldl (fun v x => v + scaled x.1 x.2.1 x.2.2 k) 0, k)

/-- The exact sum of exact lane products, rounded once (R126, vdot). -/
def engDot (ps : List (Word × Word)) : Word :=
  let vs := ps.map fun p => (fval (ftz p.1), fval (ftz p.2))
  let prods := vs.map fun v => mulExact v.1 v.2
  if vs.any (fun v => v.1.isNan || v.2.isNan) || prods.any (·.isNone) then BitVec.ofNat 32 f32.nan
  else
    let infs := prods.filterMap fun p => match p with
      | some (.inf s) => some s
      | _ => none
    match infs with
    | s :: rest => if rest.all (· == s) then BitVec.ofNat 32 (signed f32 s f32.inf) else BitVec.ofNat 32 f32.nan
    | [] =>
      let fins := prods.filterMap fun p => match p with
        | some (.fin s m e) => some (s, m, e)
        | _ => none
      let (v, k) := sumExact fins
      if v = 0 then if fins.all (·.1) then 0x80000000 else 0
      else ftz (fword (pack f32 .nearest (decide (v < 0)) v.natAbs k))

/-- The floor of a finite value, and the value less its floor, as a fraction `m · 2^e` with `0 ≤ m · 2^e < 1`. -/
def floorOf (w : Word) : Option (Int × Nat × Int) :=
  match fval (ftz w) with
  | .fin s m e =>
    if 0 ≤ e then some (scaled s m e 0, 0, 0)
    else
      let d := 2 ^ (-e).toNat
      let v : Int := if s then -(m : Int) else m
      some (v / d, (v % d).toNat, e)
  | _ => none

end Sys2Proof.Machine
end

