-- ==== Sys2Proof/Machine/Pwm.lean ====
section
/-! DEFINITION. Pulse-width modulation: carriers and periods, shadow transfer, the selector, the dead-time guard, pulse
drops, peak current mode, the output mask, forces, enables and shutdown sequences (R154 to R184, R487). -/

namespace Sys2Proof.Machine

/-- A phase set of a pack. -/
def State.pset (s : State) (p x : Nat) : PSet := s.psets.get {} (8 * p + x)

/-- Change a phase set. -/
def State.updSet (s : State) (p x : Nat) (f : PSet → PSet) : State :=
  { s with psets := s.psets.set {} (8 * p + x) (f (s.pset p x)) }

/-- A leg of a pack. -/
def State.pleg (s : State) (p l : Nat) : PLeg := s.plegs.get {} (32 * p + l)

/-- Change a leg. -/
def State.updLeg (s : State) (p l : Nat) (f : PLeg → PLeg) : State :=
  { s with plegs := s.plegs.set {} (32 * p + l) (f (s.pleg p l)) }

/-- The phase set an axis is bound to by the image (R14). -/
def State.setOfAxis (s : State) (p a : Nat) : Option Nat := s.axSet.get none (8 * p + a)

/-- The axis that a phase set is bound to; a phase set belongs to at most one axis (R5). -/
def State.axisOfSet (s : State) (p x : Nat) : Option Nat := (List.range 6).find? fun a => s.setOfAxis p a == some x

/-- The state code of an axis: 0 UNCONFIGURED to 6 SHUTDOWN. -/
def State.axSt (s : State) (p a : Nat) : Nat := s.f F.LE_AX_STAT.state p a

/-- The state code of the axis that a set is bound to. -/
def State.setAxSt (s : State) (p x : Nat) : Option Nat := (s.axisOfSet p x).map (s.axSt p)

/-- Leg `l` is a member of set `x`. -/
def State.member (s : State) (p x l : Nat) : Bool := (s.f F.PWM_SET_CTL.legs p x).testBit l

/-- The member legs of a set in ascending order (R157). -/
def State.legsOf (s : State) (p x : Nat) : List Nat := (List.range 18).filter (s.member p x)

/-- The set that a leg belongs to. -/
def State.setOfLeg (s : State) (p l : Nat) : Option Nat := (List.range 6).find? fun x => s.member p x l

/-- The member index of a leg in its set (R157). -/
def State.memberIx (s : State) (p x l : Nat) : Nat := ((s.legsOf p x).findIdx? (· == l)).getD 0

/-- A set is running when its axis is ARMED, OPEN, CLOSED or in SHUTDOWN; an unbound set while en = 1 or its sequence runs
(R202). -/
def State.setRunning (s : State) (p x : Nat) : Bool :=
  match s.setAxSt p x with
  | some st => st == 2 || st == 3 || st == 4 || st == 6
  | none => s.bit F.PWM_SET_RUN.en p x || s.bit F.PWM_SET_STAT.seq p x

/-- An axis in one of the five states that lock structural registers (R15). -/
def axLocked (st : Nat) : Bool := decide (2 ≤ st ∧ st ≤ 6)

/-- The structure of an axis is locked: in the five states, and while an ARM is pending (R143); never to the configuration
controller (R15, R222, R240). -/
def State.axLk (s : State) (p a : Nat) : Bool :=
  !s.img.ctlr && (axLocked (s.axSt p a) || s.f F.LE_AX_STAT.pend p a == 1)

/-- The structural registers of a set are locked (R158). -/
def State.setLocked (s : State) (p x : Nat) : Bool :=
  match s.axisOfSet p x with
  | some a => s.axLk p a
  | none => !s.img.ctlr && (s.bit F.PWM_SET_RUN.en p x || s.bit F.PWM_SET_STAT.seq p x)

/-- The structural registers of a leg are locked with its set (R158). -/
def State.legLocked (s : State) (p l : Nat) : Bool :=
  match s.setOfLeg p l with
  | some x => s.setLocked p x
  | none => false

/-- PWM_BASE is locked (R154). -/
def State.baseLocked (s : State) (p : Nat) : Bool :=
  (List.range 6).any (fun a => s.axLk p a) ||
  (!s.img.ctlr && (List.range 6).any fun x => s.bit F.PWM_SET_RUN.en p x || s.bit F.PWM_SET_STAT.seq p x)

/-! ### Selector and guard -/

/-- The outputs of a safe pattern: 0 all off, 1 all low on, 2 all high on (R204). -/
def patOut (pat : Nat) : Bool × Bool := (pat == 2, pat == 1)

/-- A force or mask code: 1 both off, 2 low on, 3 high on (R169). -/
def codeOut (c : Nat) : Bool × Bool := (c == 3, c == 2)

/-- The muzzle asserts for a set: a trip or SAFE, as MUZ_SET_STAT shows, or the field link's loss (R169, R206). -/
def State.muzzled (s : State) (p x : Nat) : Bool := s.bit F.MUZ_SET_STAT.assert p x

/-- The level of the selector that applies to a leg (R169). -/
def State.legLevel (s : State) (p l : Nat) : Nat :=
  match s.setOfLeg p l with
  | none => 3
  | some x =>
    let ax := s.setAxSt p x
    let idle := !s.bit F.PWM_LEGSTAT.en p l || !s.setRunning p x ||
      (match ax with
       | some st => st == 0 || st == 1 || st == 2 || ((st == 3 || st == 4) && !(s.pset p x).dutyIn)
       | none => false)
    if s.muzzled p x then 1
    else if s.bit F.PWM_LEGSTAT.seq p l then 2
    else if idle then 3
    else
      let j := s.memberIx p x l
      if (s.f F.PWM_FORCE.code p x / 4 ^ j) % 4 ≠ 0 then 4
      else if s.bit F.PWM_SET_CTL.mask_en p x && (s.f F.PWM_MASK.code p x (s.f F.PWM_MASK_PTR.ptr p x) / 4 ^ j) % 4 != 0 then 5
      else 6

/-- The outputs that the selector asks of a leg: high, low (R169). -/
def State.legWant (s : State) (p l : Nat) : Bool × Bool :=
  match s.setOfLeg p l with
  | none => (false, false)
  | some x =>
    let j := s.memberIx p x l
    let lev := s.legLevel p l
    if lev = 1 then patOut (s.f F.MUZ_SET_STAT.eff p x)
    else if lev = 2 then patOut (s.f F.MUZ_SET_STAT.eff p x)
    else if lev = 3 then (false, false)
    else if lev = 4 then codeOut (s.f F.PWM_FORCE.code p x / 4 ^ j % 4)
    else if lev = 5 then codeOut (s.f F.PWM_MASK.code p x (s.f F.PWM_MASK_PTR.ptr p x) / 4 ^ j % 4)
    else ((s.pleg p l).genH, (s.pleg p l).genL)

/-- An output of a leg turns on at the pin, and the blanking timer starts (R177). -/
def State.turnOn (s : State) (p l : Nat) (high : Bool) : State :=
  let s1 := s.setb (if high then F.PWM_LEGSTAT.out_h else F.PWM_LEGSTAT.out_l) p l
  let n := s.f F.PWM_LEGMIN.blank p l
  s1.updLeg p l fun k => { k with
    pendOn := none, blank := n != 0, blankAt := s.clk.raw, blankTo := s.clk.raw + s.guardTicks p n
    blanks := (k.blankAt, k.blankTo) :: k.blanks.filter fun b => decide (s.clk.raw < b.2 + 1024) }

/-- The raw tick at which a leg's waiting turn-on may happen: the other output has been off for the dead time (R165). -/
def State.deadDue (s : State) (p l : Nat) (high : Bool) : Nat :=
  let k := s.pleg p l
  if high then k.offL + s.guardTicks p (s.f F.PWM_LEGCTL.dt_rise p l) else k.offH + s.guardTicks p (s.f F.PWM_LEGCTL.dt_fall p l)

/-- The leg's set has tripped in this tick: what the pattern turns on waits until every assertion of the tick is known (R205). -/
def State.tripNow (s : State) (p l : Nat) : Bool :=
  match s.setOfLeg p l with
  | some x => s.muzzled p x && (s.pset p x).tripAt == s.clk.raw + 1
  | none => false

/-- The selector's outputs reach the guard (R165): a turn-off at once; a turn-on once the other output has been off for the
dead time, else it waits; a waiting turn-on that its source withdraws does not happen. -/
def State.guardLeg (s : State) (p l : Nat) : State :=
  let (wh, wl) := s.legWant p l
  let s0 := s.put F.PWM_LEGSTAT.src (s.legLevel p l) p l
  let oh := s.bit F.PWM_LEGSTAT.out_h p l
  let ol := s.bit F.PWM_LEGSTAT.out_l p l
  let s1 := if oh && !wh then (s0.clrb F.PWM_LEGSTAT.out_h p l).updLeg p l fun k => { k with offH := s.clk.raw } else s0
  let s2 := if ol && !wl then (s1.clrb F.PWM_LEGSTAT.out_l p l).updLeg p l fun k => { k with offL := s.clk.raw } else s1
  let on (high : Bool) : State :=
    let other := if high then s2.bit F.PWM_LEGSTAT.out_l p l else s2.bit F.PWM_LEGSTAT.out_h p l
    if !other && decide (s2.deadDue p l high ≤ s.clk.raw) && !s2.tripNow p l then s2.turnOn p l high
    else s2.updLeg p l fun k => { k with pendOn := some high }
  if wh && !oh then on true
  else if wl && !ol then on false
  else s2.updLeg p l fun k => { k with pendOn := none }

/-- The U level of the leg's comparator ends its pulse now: in peak current mode, the high output on at the pin, blanking ended
(R177). -/
def State.pcmHit (s : State) (p l : Nat) : Bool :=
  let k := s.pleg p l
  (match s.setOfLeg p l with
   | some x => s.f F.PWM_SET_CTL.mode p x == 3
   | none => false) &&
  k.edges && !k.ended && k.genH && s.bit F.PWM_LEGSTAT.en p l && s.bit F.PWM_LEGSTAT.out_h p l && decide (k.blankTo ≤ s.clk.raw) &&
    s.bit F.CMP_STAT.out_u p (s.f F.PWM_LEGPCM.cmp p l)

/-- A turn-off by the comparator is recorded where the generator is selected (R166, R177). -/
def State.termNoted (s : State) (p l : Nat) : State :=
  match s.setOfLeg p l with
  | some x =>
    if s.legLevel p l = 6 then ((s.setb F.PWM_LEGSTAT.term p l).setb F.PWM_SET_STAT.term p x).inc F.PWM_SET_CNT.term_cnt p x else s
  | none => s

/-- The comparator ends the pulse of a leg where it does so now (R177). -/
def State.pcmEnd (s : State) (p l : Nat) : State :=
  if s.pcmHit p l then
    ((s.termNoted p l).updLeg p l fun k => { k with genH := false, genL := true, ended := true }).guardLeg p l
  else s

/-- The selector of a leg is evaluated: its outputs reach the guard, and a comparator that is already true ends a pulse that has no
blanking (R165, R170, R177). -/
def State.drive (s : State) (p l : Nat) : State := (s.guardLeg p l).pcmEnd p l

/-- The selector of every leg of a set is evaluated again (R170). -/
def State.driveSet (s : State) (p x : Nat) : State := (s.legsOf p x).foldl (fun s l => s.drive p l) s

/-! ### The tick after -/

/-- Leave something to the next tick. -/
def State.later (s : State) (e : Soon) : State := { s with soon := s.soon ++ [e] }

/-! ### Numbers -/

/-- `floor(m · 2^e · k + 1/2)` of a non-negative finite value, at most `top`. -/
def scaleRound (m : Nat) (e : Int) (k top : Nat) : Nat :=
  let n := m * k * 2
  let v := if 0 ≤ e then (n * 2 ^ e.toNat + 1) / 2 else (n / 2 ^ ((-e).toNat) + 1) / 2
  min v top

/-- A duty code as `floor(d · k + 0.5)`, a value outside [0, 1] clamped and a NaN taken as 0 (R161). -/
def dutyScale (d : Word) (k : Nat) : Nat :=
  match unpack f32 d.toNat with
  | .nan _ => 0
  | .inf sg => if sg then 0 else k
  | .fin sg m e => if sg then 0 else scaleRound m e k k

/-- The commanded high time w = floor(d × 16 × C + 0.5) (R161). -/
def dutyW (d : Word) (c : Nat) : Nat := dutyScale d (16 * c)

/-- A duty written by firmware or by dout is clamped to [0, 1], with NaN as 0 (R129, R161). -/
def clampDuty (d : Word) : Word × Bool :=
  match unpack f32 d.toNat with
  | .nan _ => (0, true)
  | .inf sg => (if sg then 0 else 0x3F800000, true)
  | .fin sg m e =>
    if m = 0 then (d, false)
    else if sg then (0, true)
    else if ltVal (.fin false 1 0) (.fin false m e) then (0x3F800000, true)
    else (d, false)

/-! ### Shadow registers -/

/-- The period of a set in ticks: active carrier times carriers. -/
def PSet.ticks (k : PSet) : Nat := k.car * k.ncar

/-- The next boundary of a pack's base counter: one period after the last, or the release of its timebase (R154). -/
def State.baseDue (s : State) (p : Nat) : Nat :=
  let k := s.pset p 6
  if k.on then k.bk + k.ticks else k.rel

/-- The next boundary at which a set transfers: of its own counter, or the base boundary at which that starts (R155, R159); while
the clock is absent, or the restart after it waits, none is near (R183). -/
def State.afterCutoff (s : State) (p x : Nat) : Bool :=
  let k := s.pset p x
  let due := if s.bit F.PWM_SET_STAT.cnt_run p x then k.bk + k.ticks else s.baseDue p
  s.bit F.PWM_STATUS.clk_ok p && !k.restart && decide (due < s.clk.raw + 32)

/-- Write a shadow register of a set; after the cutoff the value waits for the boundary after the next (R159). -/
def State.shadowWr (s : State) (p x : Nat) (r : RegName) (i : Nat) (v : Word) : State :=
  let s1 := if s.afterCutoff p x && !(s.pset p x).late.any (fun e => e.1 == r && e.2.1 == i) then
      s.updSet p x fun k => { k with late := (r, i, s.rd r p i) :: k.late }
    else s
  (s1.wr r v p i).putb F.PWM_SET_STAT.ld_wait (s.bit F.PWM_SET_CTL.ldsync p x && !(s.pset p x).go) p x

/-- The value of a shadow register at the cutoff. -/
def State.atCutoff (s : State) (p x : Nat) (r : RegName) (i : Nat) : Word :=
  match (s.pset p x).late.find? fun e => e.1 == r && e.2.1 == i with
  | some e => e.2.2
  | none => s.rd r p i

/-- The active carrier of a write: C clamped to 100 to 10,000,000, ncar reduced so that P stays within 10,000,000 (R155). -/
def carClamp (w : Word) : Nat × Nat × Bool :=
  let c0 := F.PWM_SET_CAR.car.get w
  let n0 := F.PWM_SET_CAR.ncar_m1.get w + 1
  let c := max 100 (min c0 10000000)
  let n := if 10000000 < c * n0 then 10000000 / c else n0
  (c, n, c != c0 || n != n0)

/-- A leg's values transfer at a boundary (R159, R161 to R163, R178). -/
def State.transferLeg (s : State) (p x l : Nat) : State :=
  let c16 := 16 * (s.pset p x).car
  let mode := s.f F.PWM_SET_CTL.mode p x
  let d := s.atCutoff p x .PWM_DUTY l
  let r0 := F.PWM_CMPR.cmpr.get (s.atCutoff p x .PWM_CMPR l)
  let f0 := F.PWM_CMPF.cmpf.get (s.atCutoff p x .PWM_CMPF l)
  let h0 := F.PWM_LEGPH.ph.get (s.atCutoff p x .PWM_LEGPH l)
  let top := if mode = 3 then c16 - 16 * (s.f F.PWM_LEGCTL.dt_fall p l + s.f F.PWM_LEGMIN.min_pulse p l) else c16
  let clamped := decide (c16 - 1 < h0) || (mode == 2 && decide (c16 < r0)) || (decide (2 ≤ mode) && decide (top < f0))
  let s1 := s.setIf clamped F.PWM_LEGSTAT.cfg_clamp p l
  s1.updLeg p l fun k => { k with tW := dutyW d (s.pset p x).car, tD := d, tR := min r0 c16,
                                  tF := if 2 ≤ mode then min f0 top else f0, ph := min h0 (c16 - 1) }

/-- A boundary of a set without a transfer: values written until then wait for the next one in full (R159, R183). -/
def State.noTransfer (s : State) (p x : Nat) : State :=
  s.updSet p x fun k => { k with late := [], go := k.go || k.goLate, goLate := false }

/-- The shadow transfer of a set at its boundary: with ldsync only after an accepted go; a release of the loop engine counts
as a go for the duties it carries (R159). Values written after the cutoff stay for the next boundary. -/
def State.transfer (s : State) (p x : Nat) : State :=
  let k := s.pset p x
  let s1 :=
    if !s.bit F.PWM_SET_CTL.ldsync p x || k.go then
      let (c, n, cl) := carClamp (s.atCutoff p x .PWM_SET_CAR x)
      let s1 := (s.setIf cl F.PWM_SET_STAT.cfg_clamp p x).updSet p x fun k => { k with car := c, ncar := n }
      (s1.legsOf p x).foldl (fun s l => s.transferLeg p x l) s1
    else
      k.released.foldl (fun s l => s.updLeg p l fun q =>
        { q with tW := dutyW (s.atCutoff p x .PWM_DUTY l) k.car, tD := s.atCutoff p x .PWM_DUTY l }) s
  (s1.updSet p x fun k => { k with late := [], go := k.goLate, goLate := false, released := [],
                                   dutyIn := k.dutyIn || !k.released.isEmpty }).putb
    F.PWM_SET_STAT.ld_wait (s.bit F.PWM_SET_CTL.ldsync p x && !k.goLate) p x

/-- LOAD_GO: allow the transfer at the next boundary, if it is accepted by the cutoff (R159). -/
def State.loadGo (s : State) (p x : Nat) : State :=
  if s.afterCutoff p x then s.updSet p x fun k => { k with goLate := true }
  else (s.updSet p x fun k => { k with go := true }).clrb F.PWM_SET_STAT.ld_wait p x

/-! ### Threshold DACs -/

/-- A comparator. -/
def State.cmp (s : State) (p n : Nat) : Cmp := s.cmps.get {} (16 * p + n)

/-- Change a comparator. -/
def State.updCmp (s : State) (p n : Nat) (f : Cmp → Cmp) : State :=
  { s with cmps := s.cmps.set {} (16 * p + n) (f (s.cmp p n)) }

/-- The enabled legs of sets in peak current mode that name a comparator, in ascending order (R191). -/
def State.pcmDrivers (s : State) (p n : Nat) : List Nat :=
  (List.range 18).filter fun l =>
    match s.setOfLeg p l with
    | some x => s.f F.PWM_SET_CTL.mode p x == 3 && s.bit F.PWM_LEGSTAT.en p l && s.f F.PWM_LEGPCM.cmp p l == n
    | none => false

/-- The code of a comparator's hi DAC: the threshold of the lowest leg that drives it, else the one written (R176, R191). -/
def State.dacHi (s : State) (p n : Nat) : Nat :=
  match s.pcmDrivers p n with
  | l :: _ => (s.pleg p l).thr
  | [] => (s.cmp p n).hi

/-- A threshold write is applied to the DACs; a hi value waits while a leg drives that DAC (R191, R192). -/
def State.applyThr (s : State) (p n : Nat) (v : Word) : State :=
  let free := (s.pcmDrivers p n).isEmpty
  s.updCmp p n fun k =>
    { k with lo := F.CMP_THR.lo.get v, hi := if free then F.CMP_THR.hi.get v else k.hi, hiWait := !free, thrAt := s.clk.raw + 1 }

/-! ### Mask and force -/

/-- An event applies to the mask: the pointer steps, or is selected by the state (R173). -/
def State.maskApply (s : State) (p x st : Nat) : State :=
  let ptr := s.f F.PWM_MASK_PTR.ptr p x
  let n := s.f F.PWM_MASK_CTL.n_ent_m1 p x
  let new :=
    if s.bit F.PWM_MASK_CTL.smode p x then 8 * s.f F.PWM_MASK_PTR.bank p x + st
    else if s.bit F.PWM_MASK_PTR.dir p x then (if ptr = 0 ∨ n < ptr then n else ptr - 1)
    else if n ≤ ptr then 0 else ptr + 1
  let s1 := ((s.put F.PWM_MASK_PTR.ptr new p x).put F.PWM_MASK_PTR.state st p x).inc F.PWM_MASK_PTR.step_cnt p x
  (s1.updSet p x fun k => { k with maskWait := none }).driveSet p x

/-- An event reaches the mask of a set: a waiting one applies first, with ovr; the event applies dly ticks after its own tick, or at
once, with late, if that tick has passed (R34, R173, R174). While the pack clock is absent the mask stands still (R183). -/
def State.maskEventAt (s : State) (p x : Nat) (t : Tag) (st : Nat) : State :=
  if !s.bit F.PWM_STATUS.clk_ok p then s
  else
    let s1 := match (s.pset p x).maskWait with
      | some (_, w) => (s.maskApply p x w).setb F.PWM_MASK_PTR.ovr p x
      | none => s
    let due := s.rawOf t + s.f F.PWM_MASK_CTL.dly p x
    if due < s.clk.raw then (s1.maskApply p x st).setb F.PWM_MASK_PTR.late p x
    else if due = s.clk.raw then s1.maskApply p x st
    else s1.updSet p x fun k => { k with maskWait := some (due, st) }

/-- The pointer of a mask moves, and a waiting event is discarded (R174). -/
def State.ptrSet (s : State) (p x v : Nat) : State :=
  ((s.put F.PWM_MASK_PTR.ptr v p x).updSet p x fun k => { k with maskWait := none }).driveSet p x

/-- A write to PWM_MASK_PTR: dir and bank from the next event; the pointer in the tick after, or with the boundary of a swap (R173,
R174, R241). -/
def State.maskPtrWrite (s : State) (p x : Nat) (v : Word) : State :=
  let w := RegName.PWM_MASK_PTR.row.write (s.rd .PWM_MASK_PTR p x) v
  let s1 := s.wr .PWM_MASK_PTR (F.PWM_MASK_PTR.ptr.put w (s.f F.PWM_MASK_PTR.ptr p x)) p x
  if s.img.ctlr then s1.ptrSet p x (F.PWM_MASK_PTR.ptr.get v) else s1.later (.ptr p x (F.PWM_MASK_PTR.ptr.get v))

/-- The force codes of a set change. -/
def State.forceSet (s : State) (p x : Nat) (v : Word) : State := (s.put F.PWM_FORCE.code v.toNat p x).driveSet p x

/-- A write to PWM_FORCE applies in the tick after, or with the boundary of a swap (R171, R241). -/
def State.forceWrite (s : State) (p x : Nat) (v : Word) : State :=
  if s.img.ctlr then s.forceSet p x v else s.later (.force p x v)

/-- The force is cleared at the boundary at which CLOSED begins (R171). -/
def State.forceClear (s : State) (p x : Nat) : State :=
  if s.f F.PWM_FORCE.code p x = 0 then s else (s.put F.PWM_FORCE.code 0 p x).setb F.PWM_SET_STAT.force_clr p x

/-! ### Time -/

/-- What was left to the tick after happens (R171, R174, R179, R192). -/
def State.settle (s : State) : State :=
  s.soon.foldl (fun s e => match e with
    | .force p x v => s.forceSet p x v
    | .ptr p x v => s.ptrSet p x v
    | .thr p n v => s.applyThr p n v
    | .leg p l => s.drive p l
    | .set p x => s.driveSet p x) { s with soon := [] }

/-- `n` ticks pass; what was left to the tick after happens in the first (log 1). -/
def State.run (s : State) (n : Nat) : State :=
  if n = 0 then s
  else if s.soon.isEmpty then s.ticks n
  else (s.ticks 1).settle.ticks (n - 1)

/-- One tick with nothing commanded. -/
def State.tick (s : State) : State := s.run 1

/-- An event whose instant is raw tick `due`: the clock runs on to it and the event happens (log 1). -/
def State.atRaw (s : State) (due : Nat) (f : State → State) : State := f (s.run (due - s.clk.raw))

/-- An event that happens in the raw tick `due` and in no later one (log 1). -/
def State.inRaw (s : State) (due : Nat) (f : State → State) : State :=
  if due < s.clk.raw then s else s.atRaw due f

/-- An event whose instant is the first tick with a tag at or after `due` (log 1). -/
def State.atTag (s : State) (due : Tag) (f : State → State) : State :=
  let s1 := s.run (s.ticksTo due)
  if Tag.after due s1.now then s else f s1

/-! ### Carriers -/

/-- Record a dropped pulse of a leg whose outputs come from the generator (R166). -/
def State.dropped (s : State) (p x l : Nat) (high : Bool) : State :=
  if s.legLevel p l = 6 then
    ((s.setb (if high then F.PWM_LEGSTAT.drop_hi else F.PWM_LEGSTAT.drop_lo) p l).setb F.PWM_SET_STAT.drop p x).inc
      F.PWM_SET_CNT.drop_cnt p x
  else s

/-- What a carrier of commanded high time w delivers (R166): 0 no high pulse, 1 both pulses, 2 no low pulse; with whether a
high or a low pulse is dropped. -/
def carrierKind (w c16 dr df m : Nat) : Nat × Bool × Bool :=
  if w = 0 then (0, false, false)
  else if w < dr + m then (0, true, false)
  else if w + df + m ≤ c16 then (1, false, false)
  else if w < c16 then (2, false, true)
  else (2, false, false)

/-- The commanded high time of an active leg: the duty's w, or in direct mode CMPF − CMPR (R161). -/
def PLeg.highTime (k : PLeg) (mode : Nat) : Nat := if mode = 2 then k.tF - k.tR else k.tW

/-- Where the high pulse of the running carrier, of active high time w, is commanded from or to, in tag units from the carrier's
start; in peak current mode CMPF is the latest end (R161). -/
def PLeg.edgeAt (k : PLeg) (mode w : Nat) (high : Bool) : Nat :=
  if mode = 2 ∨ mode = 3 then (if high then (if mode = 2 then k.cr else 0) else k.cf)
  else if mode = 1 then k.c16 / 2 - w / 2 + (if high then 0 else w)
  else if high then 0 else w

/-- The low pulse that spans the start of this carrier ends at the carrier's high edge and is shorter than the least pulse, or
is withdrawn before its dead time has elapsed (R167). -/
def PLeg.shortSpan (k : PLeg) (kind rise df m : Nat) : Bool :=
  match k.span with
  | some n => kind != 0 && decide (n + rise < df + m)
  | none => false

/-- Record a short spanning pulse (R167). -/
def State.markShort (s : State) (p x l : Nat) (short : Bool) : State :=
  if short then (s.setb F.PWM_LEGSTAT.short p l).setb F.PWM_SET_STAT.short p x else s

/-- The start of a leg's next carrier in 1/16 ticks: Bk + j × C + ph, until the carriers of the period have started (R155,
R163). -/
def State.nextCarrier (s : State) (p x l : Nat) : Option Nat :=
  let q := s.pset p x
  let k := s.pleg p l
  if k.j < q.ncar then some (16 * (q.bk + k.j * q.car) + k.ph) else none

/-- A leg's carrier starts at `cs`: the transferred values become active (R163), the carrier is evaluated for drops (R166), or the
spanning low pulse is found short (R167), or the peak command is taken and the pulse starts (R176). -/
def State.carrierStart (s : State) (p x l cs : Nat) : State :=
  let mode := s.f F.PWM_SET_CTL.mode p x
  let k := s.pleg p l
  let w := k.highTime mode
  let c16 := 16 * (s.pset p x).car
  let dr := 16 * s.f F.PWM_LEGCTL.dt_rise p l
  let df := 16 * s.f F.PWM_LEGCTL.dt_fall p l
  let m := max (16 * s.f F.PWM_LEGMIN.min_pulse p l) 1
  let s1 := (s.put F.PWM_LEGW.w w p l).updLeg p l fun k =>
    { k with d := k.tD, cr := k.tR, cf := k.tF, span := none, j := k.j + 1, cs := cs, c16 := c16, ended := false, maxdAt := none }
  if mode = 3 then
    let c := dutyScale k.tD 1023
    let s2 := s1.updLeg p l fun k => { k with thr := c, thrN := 0, ended := c == 0, edges := c != 0, genH := c != 0, genL := c == 0 }
    s2.drive p l
  else
    let (kind, dh, dl) := carrierKind w c16 dr df m
    let s2 := if dh then s1.dropped p x l true else if dl then s1.dropped p x l false else s1
    let rise := (s1.pleg p l).edgeAt mode w true
    let s3 := s2.updLeg p l fun q =>
      if kind = 0 then { q with edges := false, genH := false, genL := true }
      else if kind = 2 then { q with edges := false, genH := true, genL := false }
      else { q with edges := true, genH := rise == 0, genL := rise != 0 }
    (s3.markShort p x l (k.shortSpan kind (if kind = 2 then 0 else rise) df m)).drive p l

/-- CARRIER_START of a leg at its instant (R155, R163). -/
def State.carrierAt (s : State) (p x l : Nat) : State :=
  match s.nextCarrier p x l with
  | some cs => s.atRaw (cs / 16) fun s => s.carrierStart p x l cs
  | none => s

/-- A commanded edge of the generator: the high output is commanded on or off (R161, R164). In modes 1 and 2 the off edge
begins the low pulse that spans the carrier's end, noted where the generator is selected (R166, R167); in peak current mode the
off edge is CMPF and sets maxd (R177). -/
def State.edgeNow (s : State) (p x l : Nat) (high : Bool) : State :=
  let mode := s.f F.PWM_SET_CTL.mode p x
  let k := s.pleg p l
  let gen := s.legLevel p l == 6
  let s1 := if mode = 3 && gen then (s.setb F.PWM_LEGSTAT.maxd p l).setb F.PWM_SET_STAT.maxd p x else s
  let at_ := if mode = 3 && gen && s.bit F.PWM_LEGSTAT.out_h p l && decide (k.blankTo ≤ s.clk.raw) then
      some (s.clk.raw, s.bit F.PWM_LEGSTAT.maxd p l, s.bit F.PWM_SET_STAT.maxd p x)
    else none
  let sp := if !high && (mode == 1 || mode == 2) && gen then
      some (k.c16 - k.edgeAt mode (s.f F.PWM_LEGW.w p l) false)
    else none
  (s1.updLeg p l fun k => { k with genH := high, genL := !high, ended := !high, span := sp, maxdAt := at_ }).drive p l

/-- PWM_EDGE of a leg: the next edge of its carrier's pulse, at its instant (R161, R164). -/
def State.pwmEdge (s : State) (p x l : Nat) (high : Bool) : State :=
  let k := s.pleg p l
  if !k.edges || k.ended || k.genH == high then s
  else s.atRaw ((k.cs + k.edgeAt (s.f F.PWM_SET_CTL.mode p x) (s.f F.PWM_LEGW.w p l) high) / 16) fun s => s.edgeNow p x l high

/-- A comparator trip in the tick of a turn-off at CMPF is the turn-off that is recorded (R177). -/
def State.termAfterMaxd (s : State) (p x l : Nat) : State :=
  match (s.pleg p l).maxdAt with
  | some (t, a, b) =>
    if t = s.clk.raw then
      (((s.putb F.PWM_LEGSTAT.maxd a p l).putb F.PWM_SET_STAT.maxd b p x).termNoted p l).updLeg p l fun k => { k with maxdAt := none }
    else s
  | none => s

/-- The U level of comparator `n` turns true: it ends the pulse of every leg that it watches in peak current mode and that is not
blanked (R176, R177). -/
def State.pcmTrip (s : State) (p n : Nat) : State :=
  (List.range 18).foldl (fun s l =>
    match s.setOfLeg p l with
    | some x =>
      if s.f F.PWM_SET_CTL.mode p x = 3 && s.f F.PWM_LEGPCM.cmp p l = n then (s.termAfterMaxd p x l).pcmEnd p l else s
    | none => s) s

/-- PEAK_THRESHOLD_STEP: every 4 ticks the threshold is c − floor(slope × n / 256), held at 0 (R176). -/
def State.pcmStep (s : State) (p l : Nat) : State :=
  let k := s.pleg p l
  s.atRaw (k.cs / 16 + k.thrN + 4) fun s => s.updLeg p l fun k =>
    let n := k.thrN + 4
    let c := dutyScale k.d 1023
    { k with thrN := n, thr := c - s.f F.PWM_LEGPCM.slope p l * n / 256 }

/-! ### Enables and sequences -/

/-- dt_rise + dt_fall + 2 × min_pulse ≥ C for a member leg: enable and ARM are refused (R168). -/
def State.tooTight (s : State) (p x : Nat) : Bool :=
  (s.legsOf p x).any fun l =>
    decide ((carClamp (s.rd .PWM_SET_CAR p x)).1 ≤
      s.f F.PWM_LEGCTL.dt_rise p l + s.f F.PWM_LEGCTL.dt_fall p l + 2 * s.f F.PWM_LEGMIN.min_pulse p l)

/-- A sequence covers a leg: its own or its set's. -/
def State.seqOf (s : State) (p x l : Nat) : Bool := (s.pleg p l).seqOwn || s.bit F.PWM_SET_STAT.seq p x

/-- A sequence covers a leg, whatever set it is in. -/
def State.legSeq (s : State) (p l : Nat) : Bool :=
  match s.setOfLeg p l with
  | some x => s.seqOf p x l
  | none => (s.pleg p l).seqOwn

/-- Enable a leg, or hold the enable pending while a sequence covers it (R180); a leg of no set stays idle (R157). -/
def State.enableLeg (s : State) (p l : Nat) : State :=
  if s.bit F.PWM_LEGSTAT.en p l then s
  else if s.legSeq p l then s.setb F.PWM_LEGSTAT.en_pend p l
  else (s.setb F.PWM_LEGSTAT.en p l).drive p l

/-- Enable every member leg of a set (R182). -/
def State.enableLegs (s : State) (p x : Nat) : State := (s.legsOf p x).foldl (fun s l => s.enableLeg p l) s

/-- Hold the enable of every member leg that is not enabled pending (R180). -/
def State.pendLegs (s : State) (p x : Nat) : State :=
  (s.legsOf p x).foldl (fun s l => if s.bit F.PWM_LEGSTAT.en p l then s else s.setb F.PWM_LEGSTAT.en_pend p l) s

/-- The pending enables of a set and of its legs are cancelled, as a written disable cancels them (R180). -/
def State.cancelPend (s : State) (p x : Nat) : State :=
  (s.legsOf p x).foldl (fun s l => s.clrb F.PWM_LEGSTAT.en_pend p l) (s.clrb F.PWM_SET_RUN.en_pend p x)

/-- A shutdown sequence of a whole set starts: the enables of its members are cleared now, and the safe pattern is selected at
level 2 in the next tick (R179); legs already in their own sequence keep their own dwell (R181). A pending enable stays pending
(R180). -/
def State.startSeq0 (s : State) (p x : Nat) : State :=
  if s.bit F.PWM_SET_STAT.seq p x then s
  else
    let s1 := (s.setb F.PWM_SET_STAT.seq p x).updSet p x fun k => { k with seqAt := s.clk.raw, dwellDone := false }
    ((s1.legsOf p x).foldl (fun s l => (s.clrb F.PWM_LEGSTAT.en p l).setb F.PWM_LEGSTAT.seq p l) s1).later (.set p x)

/-- A sequence of one leg starts with its disable (R179); a leg of no set has no pattern and no dwell, and goes idle at once (log
121). A leg that is not enabled only loses a pending enable. -/
def State.disableLeg (s : State) (p l : Nat) : State :=
  if s.bit F.PWM_LEGSTAT.en p l then
    let s1 := s.clrb F.PWM_LEGSTAT.en p l
    if (s.setOfLeg p l).isNone then s1
    else ((s1.setb F.PWM_LEGSTAT.seq p l).updLeg p l fun k => { k with seqOwn := true, seqAt := s.clk.raw }).later (.leg p l)
  else s.clrb F.PWM_LEGSTAT.en_pend p l

/-- The raw tick at which a dwell ends that a sequence of set `x` started in tick `t`: one tick to the pattern, then the dwell in µs,
counted in standby cycles while the clock is absent (R179, R183). -/
def State.dwellDue (s : State) (p x t : Nat) : Nat := t + 1 + s.guardTicks p (1000 * s.f F.PWM_SET_SDN.dwell p x)

/-- SET_ENABLE of an unbound set (R168, R180): refused where the dead times leave no duty; pending while a sequence covers
it. The truth value is false for an error response. -/
def State.setEnable (s : State) (p x : Nat) : State × Bool :=
  if (s.axisOfSet p x).isSome then (s, false)
  else if s.tooTight p x then (s.setb F.PWM_SET_STAT.cfg_err p x, false)
  else if s.bit F.PWM_SET_STAT.seq p x || (s.legsOf p x).any (s.seqOf p x) then
    ((s.setb F.PWM_SET_RUN.en_pend p x).pendLegs p x, true)
  else ((s.setb F.PWM_SET_RUN.en p x).enableLegs p x, true)

/-- SET_DISABLE of an unbound set: its sequence starts, whether or not en was 1; a pending enable is cancelled (R179, R180). -/
def State.setDisable (s : State) (p x : Nat) : State × Bool :=
  if (s.axisOfSet p x).isSome then (s, false)
  else (((s.cancelPend p x).clrb F.PWM_SET_RUN.en p x).startSeq0 p x, true)

/-- Pending enables take effect at a period boundary after every sequence that covers a leg has completed (R180). -/
def State.pendingEnables (s : State) (p x : Nat) : State :=
  let s1 := (s.legsOf p x).foldl (fun s l =>
    if s.bit F.PWM_LEGSTAT.en_pend p l && !s.seqOf p x l then
      (s.clrb F.PWM_LEGSTAT.en_pend p l).setb F.PWM_LEGSTAT.en p l
    else s) s
  if s1.bit F.PWM_SET_RUN.en_pend p x && !s1.bit F.PWM_SET_STAT.seq p x && !(s1.legsOf p x).any (s1.seqOf p x) then
    (s1.clrb F.PWM_SET_RUN.en_pend p x).setb F.PWM_SET_RUN.en p x
  else s1

/-! ### Counters -/

/-- The set counter follows the membership: it starts at the first base boundary after legs becomes non-empty and runs until
legs becomes empty (R155). -/
def State.legsChanged (s : State) (p x : Nat) : State :=
  if s.f F.PWM_SET_CTL.legs p x = 0 then s.clrb F.PWM_SET_STAT.cnt_run p x else s

/-- At a base boundary a set counter starts, or restarts after the clock was absent: this is the set's first period boundary,
and no carrier of a leg runs yet (R155, R163, R183). -/
def State.startCounter (s : State) (p x : Nat) : State :=
  if s.f F.PWM_SET_CTL.legs p x != 0 && s.bit F.PWM_STATUS.clk_ok p && (!s.bit F.PWM_SET_STAT.cnt_run p x || (s.pset p x).restart) then
    let s1 := (s.legsOf p x).foldl (fun s l => s.updLeg p l fun k => { k with edges := false, span := none }) s
    ((s1.setb F.PWM_SET_STAT.cnt_run p x).setPair .PWM_SET_TAG_LO .PWM_SET_TAG_HI s.now p x).updSet p x fun k =>
      { k with bk := s.clk.raw, period := 0, off := 0, restart := false }
  else s

/-- The carriers of a new period of a set have still to start (R155). -/
def State.newCarriers (s : State) (p x : Nat) : State :=
  (s.legsOf p x).foldl (fun s l => s.updLeg p l fun k => { k with j := 0 }) s

end Sys2Proof.Machine
end

