-- ==== Sys2Proof/Machine/Muzzle.lean ====
section
/-! DEFINITION. Window comparators, the muzzle and thermal limits (R185 to R217), and the fault transitions of an axis that
a trip causes (R141, R143). -/

namespace Sys2Proof.Machine

/-! ### The muzzle's output and an axis's fault -/

/-- The faulted switches of a set turn a pattern to all off (R204). -/
def patSafe (pat fault : Nat) : Bool :=
  (pat == 2 && (List.range 6).any fun j => fault.testBit (2 * j)) ||
  (pat == 1 && (List.range 6).any fun j => fault.testBit (2 * j + 1))

/-- The effective pattern and the muzzle's hold on a set (R204, R206): while tripped, or while the bound axis is in SAFE. A
pattern written while tripped is 1 waits for the clear (R204, R241). -/
def State.muzRefresh (s : State) (p x : Nat) : State :=
  let trip := s.bit F.MUZ_SET_STAT.tripped p x
  let hold := trip || s.setAxSt p x == some 5
  let pat := if trip then (s.pset p x).pat else s.f F.MUZ_PAT.pat p x
  let fall := patSafe pat (s.f F.MUZ_SET_STAT.fault p x) || (trip && s.bit F.MUZ_SET_STAT.fallback p x)
  let s1 := (s.putb F.MUZ_SET_STAT.assert hold p x).put F.MUZ_SET_STAT.eff (if fall then 0 else pat) p x
  (s1.putb F.MUZ_SET_STAT.fallback fall p x).driveSet p x

/-- The muzzle's hold follows the axis's set, where it has one. -/
def State.axRefresh (s : State) (p a : Nat) : State :=
  match s.setOfAxis p a with
  | some x => (s.muzRefresh p x).driveSet p x
  | none => s

/-- The owner of an axis. -/
def State.axOwner (s : State) (p a : Nat) : Owner := s.owner (.axis p a)

/-- The engine's view of an axis. -/
def State.ax (s : State) (p a : Nat) : Ax := s.axs.get {} (8 * p + a)

/-- Change the engine's view of an axis. -/
def State.updAx (s : State) (p a : Nat) (f : Ax → Ax) : State := { s with axs := s.axs.set {} (8 * p + a) (f (s.ax p a)) }

/-- Held coefficient writes apply when the run ends (R150). -/
def State.coefApply (s : State) (p a : Nat) : State :=
  let ws := (s.ax p a).coef
  (ws.foldl (fun s w => s.wrLe .LE_COEF w.2 p a w.1) s).updAx p a fun k => { k with coef := [] }

/-- A run of the axis in progress is stopped and releases nothing; a recovery that it restarted ends (R388). -/
def State.dropRun (s : State) (p a : Nat) : State :=
  if s.bit F.LE_STATUS.busy p && s.f F.LE_STATUS.cur p == a then
    let s1 := ((s.clrb F.LE_STATUS.busy p).put F.LE_STATUS.cur 7 p).coefApply p a
    if s1.recovering p then s1.endRecovery p else s1
  else s

/-- An axis enters a state; its set's selector and muzzle follow. -/
def State.setAx (s : State) (p a st : Nat) : State := (s.put F.LE_AX_STAT.state st p a).axRefresh p a

/-- A fault discards any pending command and sets cmd_lost; the cause is recorded, and an alarm of kind 2 goes to the axis's
owner (R141). -/
def State.faultNoted (s : State) (p a cause : Nat) : State :=
  let s1 := s.put F.LE_AX_STAT.fault_cause cause p a
  let s2 := if s1.f F.LE_AX_STAT.pend p a = 0 then s1
    else (s1.put F.LE_AX_STAT.pend 0 p a).setb F.LE_AX_STAT.cmd_lost p a
  s2.alarm [(s2.axOwner p a).ten] 2 (6 * p + a) cause 0 0 s2.now

/-- A fault that leads to SAFE: from ARMED, OPEN and CLOSED in the tick of detection; in SHUTDOWN only the cause is recorded
(R141, R143). -/
def State.axSafe (s : State) (p a cause : Nat) : State :=
  let st := s.axSt p a
  if st = 2 ∨ st = 3 ∨ st = 4 then (((s.faultNoted p a cause).dropRun p a).put F.LE_AX_STAT.state 5 p a).axRefresh p a
  else if st = 5 ∨ st = 6 then s.put F.LE_AX_STAT.fault_cause cause p a
  else s

/-! ### Sources -/

/-- Whether source `x` of a pack is live (R190, R191, R194, R195, R197, R200, R214). -/
def State.srcLive (s : State) (p x : Nat) : Bool :=
  if x < 32 then
    let n := x % 16
    let level := if x < 16 then s.bit F.CMP_STAT.out_u p n && (s.pcmDrivers p n).isEmpty else s.bit F.CMP_STAT.out_l p n
    (level || s.bit F.CMP_STAT.dac_fail p n || (s.bit F.CMP_STAT.chk_fail p n && s.bit F.CMP_CHK.act p n)) &&
      !s.bit F.CMP_STAT.in_chk p n
  else if x < 40 then s.nbit .MUZ_LIVE (x % 32) p (x / 32)
  else if x < 76 then
    let l := (x - 40) / 2
    if x % 2 = 0 then s.bit F.MUZ_PROT.live_h p l else s.bit F.MUZ_PROT.live_l p l
  else if x = 76 then (List.range 12).any fun i => s.bit F.THM_SEN.trip 0 i
  else s.nbit .MUZ_LIVE (x % 32) p (x / 32)

/-- Whether a source is routed to a set (R201): the thermal trip to every set. -/
def State.routed (s : State) (p x st : Nat) : Bool :=
  if x < 76 then (s.f F.MUZ_SRC.sets p x).testBit st else x == 76

/-- The switches that a source marks in a set (R201): bit 2j the high switch of member j, bit 2j + 1 the low switch. -/
def State.marks (s : State) (p x st : Nat) : Nat :=
  let (leg, sw) := if x < 40 then (s.f F.MUZ_SRC.leg p x, s.f F.MUZ_SRC.sw p x)
    else if x < 76 then ((x - 40) / 2, if x % 2 = 0 then 1 else 2) else (31, 0)
  if leg < 18 && s.member p st leg then sw * 4 ^ s.memberIx p st leg else 0

/-- A trip opens an incident, or joins the open one at or before the end of its window (R210). -/
def State.incident (s : State) (p st : Nat) (t : Tag) : State :=
  let first := s.incTag.get 0 p
  let joins := s.bit F.MUZ_INC.open_ p && !Tag.after t (first + BitVec.ofNat 64 (s.f F.MUZ_CTL.inc_win p * 160000))
  let s1 := if joins then s.put F.MUZ_INC.sets (s.f F.MUZ_INC.sets p ||| 2 ^ st) p
    else { ((s.put F.MUZ_INC.num (s.f F.MUZ_INC.num p + 1) p).put F.MUZ_INC.sets (2 ^ st) p).setb F.MUZ_INC.open_ p with
           incTag := s.incTag.set 0 p t }
  s1.put F.MUZ_SET_INC.inc (s1.f F.MUZ_INC.num p) p st

/-- The owner of a phase set: its axis's where it is bound, else its own (R217). -/
def State.setOwner (s : State) (p x : Nat) : Owner :=
  match s.axisOfSet p x with
  | some a => s.owner (.axis p a)
  | none => s.owner (.set p x)

/-- The alarm of a trip takes the first source and the tag that a further assertion of the same tick gives it (R205, R210). -/
def State.alarmFix (s : State) (w0 : Word) (old new : Tag) (d6 : Word) (t : Nat) : State :=
  let hit (e : LogRec) : Bool := e.a == w0 && e.last == old
  let fix (e : LogRec) : LogRec := { e with c := d6, last := new, first := if e.first = old then new else e.first }
  if s.pwr.past then
    { s with pwr := { s.pwr with alarms := updFirst (fun h => h.1 == t && hit h.2) (fun h => (h.1, fix h.2)) s.pwr.alarms } }
  else match (s.aq t).findIdx? hit with
    | some i => s.setAq t (updFirst hit fix (s.aq t)) [i]
    | none => s

/-- The tenants that get the alarm of a trip, and word 6 of it (R210). -/
def State.tripNote (s : State) (p st : Nat) : List Nat × Word :=
  ([0, (s.setOwner p st).ten], BitVec.ofNat 32 (s.f F.MUZ_INC.num p + s.f F.MUZ_SET_STAT.first p st * 2 ^ 16))

/-- The switches that a source marks join the faulted switches of a set (R204). -/
def State.addMarks (s : State) (p st x : Nat) : State :=
  s.put F.MUZ_SET_STAT.fault (s.f F.MUZ_SET_STAT.fault p st ||| s.marks p x st) p st

/-- A source trips a running set (R202): the trip is latched with its tag and first source, the axis enters SAFE or the
unbound set's enables are cleared and its shutdown sequence starts (R207), the incident and its alarm are recorded (R210). What the
pattern turns on follows from the next tick on, once every assertion of this one is known (R203, R205). -/
def State.trip (s : State) (p st x : Nat) (t : Tag) : State :=
  let s0 := s.updSet p st fun k => { k with pat := s.f F.MUZ_PAT.pat p st, tripAt := s.clk.raw + 1 }
  let s1 := ((s0.setb F.MUZ_SET_STAT.tripped p st).put F.MUZ_SET_STAT.first x p st).setPair .MUZ_SET_TAG_LO .MUZ_SET_TAG_HI t p st
  let s2 := (s1.addMarks p st x).inc F.MUZ_SET_INC.trip_cnt p st
  let s3 := (s2.incident p st t).muzRefresh p st
  let s4 := match s3.axisOfSet p st with
    | some a => s3.axSafe p a 6
    | none => ((s3.cancelPend p st).clrb F.PWM_SET_RUN.en p st).startSeq0 p st
  let (ts, d6) := s4.tripNote p st
  ((s4.alarm ts 1 (6 * p + st) 0 d6 0 t).muzRefresh p st).later (.set p st)

/-- A further source asserts toward a set in the tick of its trip: one trip, with the lowest source and the earliest tag (R205). -/
def State.joinTrip (s : State) (p st x : Nat) (t : Tag) : State :=
  let old := s.pairAt .MUZ_SET_TAG_LO .MUZ_SET_TAG_HI p st
  let new := if Tag.before t old then t else old
  let s1 := (s.put F.MUZ_SET_STAT.first (min x (s.f F.MUZ_SET_STAT.first p st)) p st).setPair .MUZ_SET_TAG_LO .MUZ_SET_TAG_HI new p st
  let s2 := if s1.incTag.get 0 p = old then { s1 with incTag := s1.incTag.set 0 p new } else s1
  let (ts, d6) := s2.tripNote p st
  ts.dedup.foldl (fun s t => s.alarmFix (BitVec.ofNat 32 (1 + (6 * p + st) * 16)) old new d6 t) s2

/-- A source asserts toward a set: a trip of a running set; toward a tripped set it adds its marks (R202, R204, R205). -/
def State.assertTo (s : State) (p st x : Nat) (t : Tag) : State :=
  if s.bit F.MUZ_SET_STAT.tripped p st then
    let s1 := if (s.pset p st).tripAt = s.clk.raw + 1 then s.joinTrip p st x t else s
    (s1.addMarks p st x).muzRefresh p st
  else if s.setRunning p st then s.trip p st x t else s

/-- A source takes the level it has now: MUZ_LIVE follows, and a rise is seen and acts on every set in the route. -/
def State.srcEval0 (s : State) (p x : Nat) (t : Tag) : State :=
  let now := s.srcLive p x
  let was := s.nbit .MUZ_LIVE (x % 32) p (x / 32)
  let s1 := s.putNbit .MUZ_LIVE (x % 32) now p (x / 32)
  if now && !was then
    let s2 := s1.putNbit .MUZ_SEEN (x % 32) true p (x / 32)
    (List.range 6).foldl (fun s st => if s.routed p x st then s.assertTo p st x t else s) s2
  else s1

/-- Some leg of a pack may drive a threshold DAC, or has driven one (R191). -/
def State.pcmAny (s : State) (p : Nat) : Bool :=
  (List.range 6).any (fun x => s.f F.PWM_SET_CTL.mode p x == 3) || (List.range 16).any fun n => s.bit F.CMP_STAT.pcm p n

/-- The legs that drive threshold DACs have changed: pcm and pcm_dup show it, and U is withdrawn from the muzzle or reaches it
again (R191); a hi value written meanwhile is applied when no leg drives the DAC (R192). -/
def State.pcmPass (s : State) (p : Nat) : State :=
  (List.range 16).foldl (fun s n =>
    let ds := s.pcmDrivers p n
    if ds.isEmpty && !s.bit F.CMP_STAT.pcm p n then s
    else
      let s1 := (s.putb F.CMP_STAT.pcm (!ds.isEmpty) p n).setIf (decide (2 ≤ ds.length)) F.CMP_STAT.pcm_dup p n
      let s2 := if ds.isEmpty && (s1.cmp p n).hiWait then
          s1.updCmp p n fun k => { k with hi := s.f F.CMP_THR.hi p n, hiWait := false, thrAt := s.clk.raw + 1 }
        else s1
      (s2.srcEval0 p n s.now).srcEval0 p (16 + n) s.now) s

/-- The legs that drive threshold DACs are found again until nothing changes: a U that reaches the muzzle again may trip a set of
the pack, whose legs then drive none (R191, R207). -/
def State.pcmRefresh (s : State) (p : Nat) : State :=
  if s.pcmAny p then (List.range 7).foldl (fun s _ => s.pcmPass p) s else s

/-- A source is evaluated, with what follows of the DACs that its trips release. -/
def State.srcEval (s : State) (p x : Nat) (t : Tag) : State := (s.srcEval0 p x t).pcmRefresh p

/-- Both sources of a comparator are evaluated. -/
def State.cmpEval (s : State) (p n : Nat) (t : Tag) : State := ((s.srcEval0 p n t).srcEval0 p (16 + n) t).pcmRefresh p

/-- A source that pulses: asserted and withdrawn in one tick (R89 fast paths, R209). -/
def State.srcPulse (s : State) (p x : Nat) (t : Tag) : State :=
  let s1 := s.putNbit .MUZ_SEEN (x % 32) true p (x / 32)
  ((List.range 6).foldl (fun s st => if s.routed p x st then s.assertTo p st x t else s) s1).pcmRefresh p

/-- A set becomes running: every source that is asserted then trips it in that tick (R202, R194). -/
def State.muzRunning (s : State) (p st : Nat) : State :=
  ((List.range 77).foldl (fun s x =>
    if s.nbit .MUZ_LIVE (x % 32) p (x / 32) && s.routed p x st then s.assertTo p st x s.now else s) s).pcmRefresh p

/-- What follows a change of a set's running state or of its enables: the legs that drive threshold DACs (R191), and the
sources asserted when the set becomes running (R202). -/
def State.runChanged (s : State) (p x : Nat) (was : Bool) : State :=
  let s1 := s.pcmRefresh p
  if s1.setRunning p x && !was then s1.muzRunning p x else s1

/-- A shutdown sequence of a whole set starts, and its legs drive no threshold DAC any longer (R179, R191). -/
def State.startSeq (s : State) (p x : Nat) : State := (s.startSeq0 p x).pcmRefresh p

/-! ### Faults that lead to SHUTDOWN or OPEN -/

/-- An axis enters SHUTDOWN, and the shutdown sequence of its set starts (R141, R179); its set may become running by it (R202). -/
def State.axShutdown (s : State) (p a : Nat) : State :=
  let s1 := (s.dropRun p a).put F.LE_AX_STAT.state 6 p a
  match s1.setOfAxis p a with
  | some x => ((s1.startSeq0 p x).axRefresh p a).runChanged p x (s.setRunning p x)
  | none => s1

/-- A fault that takes the axis's fault action: SAFE, SHUTDOWN, or OPEN from the next boundary; an axis in ARMED takes SAFE,
and one already OPEN takes SAFE instead of OPEN (R141). -/
def State.axFault (s : State) (p a cause : Nat) : State :=
  let st := s.axSt p a
  let act := s.f F.LE_AX_POL.fault_act p a
  if st = 3 ∨ st = 4 then
    if act = 1 then (s.faultNoted p a cause).axShutdown p a
    else if act = 2 ∧ st = 4 then
      let s1 := s.faultNoted p a cause
      { s1 with toOpen := s1.toOpen.set false (8 * p + a) true }
    else s.axSafe p a cause
  else s.axSafe p a cause

/-! ### Majority filters -/

/-- The true samples among the last `m`, those before the last refill at its level (R188). -/
def Flt.trues (f : Flt) (m : Nat) : Nat :=
  let h := f.hist.take m
  h.countP (·.1) + if f.fill then m - h.length else 0

/-- The output of a filter that stands at `now`: k of the last m samples decide (R188). -/
def Flt.out (f : Flt) (m k : Nat) (now : Bool) : Bool :=
  if k ≤ f.trues m then true else if k ≤ m - f.trues m then false else now

/-- The tag of the oldest sample of a level among the last `m`: of the transition that began the accepted run (R189, log 112). -/
def Flt.since (f : Flt) (m : Nat) (lvl : Bool) : Tag := ((f.hist.take m).filter (·.1 == lvl)).getLast?.elim f.tag (·.2)

/-- The whole history is the present output (R188, R241). -/
def Flt.refill (f : Flt) (out : Bool) : Flt := { f with hist := [], fill := out }

/-- How a filter is sampled: m and k, the sample after a tick, which samples are forced false, and the tag of a tick. -/
structure Sampling where
  m : Nat
  k : Nat
  next : Nat → Nat
  mask : Nat → Bool
  tagAt : Nat → Tag

/-- A long run of one level before tick `q` has filled the history; the samples of its last 256 ticks are still taken one by one. -/
def Flt.skip (f : Flt) (g : Sampling) (q : Nat) : Flt :=
  if f.at_ + 512 < q then { f with hist := [], fill := f.raw && !g.mask (q - 256), at_ := q - 256 } else f

/-- Samples of the present raw level before tick `stop`, and the changes of the output: tick, level and tag; with `one` they end at
the first change. -/
def Flt.take (g : Sampling) (one : Bool) : Nat → Flt → Bool → Nat → List (Nat × Bool × Tag) → Flt × Bool × List (Nat × Bool × Tag)
  | 0, f, out, _, cs => (f, out, cs)
  | n + 1, f, out, stop, cs =>
    let want := f.out g.m g.k out
    if want != out then
      let cs := cs ++ [(f.at_, want, f.since g.m want)]
      if one then (f, want, cs) else Flt.take g one n f want stop cs
    else
      let q := g.next f.at_
      if stop ≤ q then (f, out, cs)
      else
        let off := f.raw && g.mask q
        let e := (f.raw && !off, if off then g.tagAt q else f.tag)
        Flt.take g one n { f with hist := (e :: f.hist).take g.m, at_ := q } out stop cs

/-- A filter takes raw transitions (tick, tag, level), oldest first, and then the samples up to the next change of its output, if the
raw level as it stands brings one. -/
def Flt.feed (g : Sampling) (now : Nat) : List (Nat × Tag × Bool) → Flt → Bool → Flt × Bool × List (Nat × Bool × Tag)
  | [], f, out =>
    let (f1, o1, c1) := Flt.take g false 200 (f.skip g now) out (now + 1) []
    let (f2, o2, c2) := Flt.take g true 200 f1 o1 (now + 300) []
    if c1.isEmpty && !c2.isEmpty then (f2, o2, c2) else (f1, o1, c1)
  | (r, t, b) :: tr, f, out =>
    let (f1, o1, c1) := Flt.take g false 200 (f.skip g r) out r []
    let (f2, o2, c2) := Flt.feed g (max now r) tr { f1 with raw := b, tag := if b == f1.raw then f1.tag else t } o1
    (f2, o2, c1 ++ c2)

/-- The next sample after tick `q`: every 4 ticks since the release of the pack's timebase, or each cycle of the standby oscillator
while the forwarded clock is absent (R20, R187). -/
def State.nextSample (s : State) (p q : Nat) : Nat :=
  if s.bit F.PWM_STATUS.clk_ok p then
    let r := (s.pset p 6).rel
    if q < r then r else r + 4 * ((q - r) / 4 + 1)
  else
    let r := (s.clk.lost.get (0, 0) p).2
    r + (((q - r) * 1000 / standbyPs + 1) * standbyPs + 999) / 1000

/-- The tag of a raw tick, past or to come, at the rate in force (R34). -/
def State.tagOf (s : State) (q : Nat) : Tag :=
  if s.clk.stopped then s.aoTagAt (s.aoSince q)
  else if q < s.clk.raw then s.now - s.tickUnits (s.clk.raw - q) else s.now + s.tickUnits (q - s.clk.raw)

/-- The clock runs on to the last of some raw transitions. -/
def State.runTo (s : State) (tr : List (Nat × Tag × Bool)) : State := s.run (tr.foldl (fun m e => max m e.1) 0 - s.clk.raw)

/-! ### Comparators -/

/-- The owner of a comparator: of analogue input `n` of the pack (R217): its axis's, or the pack's. -/
def State.ainOwner (s : State) (p n : Nat) : Owner :=
  let a := s.f F.ADC_ROUTE.axis p n
  if a < 6 then s.owner (.axis p a) else s.owner (.pack p)

/-- A sample of a level at tick `q` is blanked: the blanking timer of leg bleg runs then (R190), for L in dual-level mode and for
both levels of a window with blank_en; a bleg of 18 or more names no leg, and in a check's window and restore time nothing is blanked
(R195). -/
def State.cmpBlanked (s : State) (p n : Nat) (isU : Bool) (q : Nat) : Bool :=
  let k := s.pleg p (s.f F.CMP_CFG.bleg p n)
  decide (s.f F.CMP_CFG.bleg p n < 18) && !s.bit F.CMP_STAT.in_chk p n && ((k.blankAt, k.blankTo) :: k.blanks).any (fun b => decide (b.1 ≤ q ∧ q < b.2)) &&
    (if s.f F.CMP_CFG.mode p n = 2 then !isU else s.bit F.CMP_CFG.blank_en p n)

/-- How the filter of a level is sampled (R186 to R188, R190). -/
def State.cmpSampling (s : State) (p n : Nat) (isU : Bool) : Sampling :=
  { m := s.f F.CMP_FLT.m p n, k := s.f F.CMP_FLT.k p n, next := s.nextSample p
    mask := fun q => s.f F.CMP_CFG.mode p n == 0 || s.cmpBlanked p n isU q, tagAt := s.tagOf }

/-- A filtered level changes, with the tag of its raw transition (R189): the event flags, the leash event, peak-current
termination (R177) and the muzzle (R202). -/
def State.cmpLevel (s : State) (p n : Nat) (isU lvl : Bool) (t : Tag) : State :=
  let s1 := s.putb (if isU then F.CMP_STAT.out_u else F.CMP_STAT.out_l) lvl p n
  let s2 := if lvl then (s1.setb (if isU then F.CMP_STAT.evt_u else F.CMP_STAT.evt_l) p n).setPair .CMP_EVTAG_LO .CMP_EVTAG_HI t p n
    else s1
  let data : Byte := BitVec.ofNat 8 (s2.f F.CMP_STAT.out_u p n + 2 * s2.f F.CMP_STAT.out_l p n)
  let s3 := if s2.bit F.CMP_CFG.lsh_en p n && !s2.bit F.CMP_STAT.in_chk p n then
      s2.produce (64 * p + s2.f F.CMP_CFG.lsh_ch p n) 2 n data t (s2.ainOwner p n) 49 (64 * p + s2.f F.CMP_CFG.lsh_ch p n)
    else s2
  (if isU && lvl then s3.pcmTrip p n else s3).cmpEval p n t

/-- COMPARATOR_LEVEL_CHANGE: the raw output has taken these transitions (tag and level), oldest first; its samples pass the
filter until the filtered level changes (R187 to R190). -/
def State.cmpFeed (s : State) (p n : Nat) (isU : Bool) (tr : List (Tag × Bool)) : State :=
  let rs := tr.map fun e => (s.rawOf e.1, e.1, e.2)
  let k := s.cmp p n
  let (f, _, cs) := Flt.feed (s.cmpSampling p n isU) s.clk.raw rs (if isU then k.u else k.l)
    (s.bit (if isU then F.CMP_STAT.out_u else F.CMP_STAT.out_l) p n)
  let s1 := s.updCmp p n fun k => if isU then { k with u := f } else { k with l := f }
  (cs.foldl (fun s c => s.atRaw c.1 fun s => s.cmpLevel p n isU c.2.1 (s.capTag p c.2.2)) s1).runTo rs

/-- A change of a filter's length or majority refills the histories of both levels with their present outputs (R188, R241). -/
def State.cmpRefill (s : State) (p n : Nat) : State :=
  s.updCmp p n fun k => { k with u := { k.u.refill (s.bit F.CMP_STAT.out_u p n) with at_ := s.clk.raw },
                                 l := { k.l.refill (s.bit F.CMP_STAT.out_l p n) with at_ := s.clk.raw } }

/-- The filters of a comparator take their samples up to now, before a setting of theirs changes. -/
def State.cmpCatch (s : State) (p n : Nat) : State :=
  let go (isU : Bool) (f : Flt) (out : Bool) : Flt :=
    (Flt.take (s.cmpSampling p n isU) false 200 (f.skip (s.cmpSampling p n isU) s.clk.raw) out (s.clk.raw + 1) []).1
  s.updCmp p n fun k => { k with u := go true k.u (s.bit F.CMP_STAT.out_u p n), l := go false k.l (s.bit F.CMP_STAT.out_l p n) }

/-- THRESHOLD_WRITE: stored, and applied in the tick after, or after the check window ends (R192). -/
def State.thrWrite (s : State) (p n : Nat) (v : Word) : State :=
  let s1 := s.wr .CMP_THR (RegName.CMP_THR.row.write 0 v) p n
  if (s1.cmp p n).window then s1.updCmp p n fun k => { k with held := some v } else s1.later (.thr p n v)

/-- A readback may start (R193). -/
def State.rdbkOk (s : State) (p : Nat) : Bool :=
  !(List.range 6).any (fun a => s.axSt p a == 2 || s.axSt p a == 3 || s.axSt p a == 4) &&
  !(List.range 6).any (fun x => s.bit F.PWM_SET_RUN.en p x || s.bit F.PWM_SET_STAT.seq p x || (s.legsOf p x).any fun l =>
      s.bit F.PWM_LEGSTAT.en p l || s.bit F.PWM_LEGSTAT.seq p l) &&
  !s.bit F.ADC_STATUS.cal_busy p

/-- READBACK: every threshold DAC of the pack is read back; refused as R193 lists. False for an error response. -/
def State.readbackStart (s : State) (p : Nat) : State × Bool :=
  if s.rdbkOk p && !s.bit F.CMP_GSTAT.rdbk_busy p then (s.setb F.CMP_GSTAT.rdbk_busy p, true)
  else (s.setb F.CMP_GSTAT.refused p, false)

/-- A code read lies within 64 × t ± 256 (R193). -/
def dacPass (t : Nat) (code : BitVec 16) : Bool := decide (code.toNat ≤ 64 * t + 256 ∧ 64 * t ≤ code.toNat + 256)

/-- The codes read back of a comparator's DACs, lo then hi: kept, and the comparator passes or fails (R193, R194). -/
def State.dacRead (s : State) (p n : Nat) (c : BitVec 16 × BitVec 16) : State :=
  let good := dacPass (s.f F.CMP_THR.lo p n) c.1 && dacPass (s.f F.CMP_THR.hi p n) c.2
  let s1 := (s.put F.CMP_RDBK.lo_code c.1.toNat p n).put F.CMP_RDBK.hi_code c.2.toNat p n
  (s1.putb F.CMP_STAT.dac_fail (!good) p n).putNbit .CMP_GSTAT (16 + n) (!good) p

/-- The alarm of a comparator whose DAC fails (R194). -/
def State.dacAlarm (s : State) (p n : Nat) : State :=
  if s.bit F.CMP_STAT.dac_fail p n then s.alarm [(s.owner (.pack p)).ten] 10 (16 * p + n) 1 (s.rd .CMP_STAT p n) 0 s.now else s

/-- A readback of a pack has passed or failed (R193). -/
def State.rdbkResult (s : State) (p : Nat) : State :=
  let bad := s.f F.CMP_GSTAT.fail p != 0
  (s.putb F.CMP_GSTAT.rdbk_ok (!bad) p).putb F.CMP_GSTAT.rdbk_fail bad p

/-- The end of a readback with the codes read: the failing comparators and their alarms (R193, R194). -/
def State.readbackDone (s : State) (p : Nat) (codes : List (BitVec 16 × BitVec 16)) : State :=
  ((List.range 16).foldl (fun s n =>
    let s1 := (s.dacRead p n (codes.getD n (0, 0))).dacAlarm p n
    s1.cmpEval p n s1.now) (s.clrb F.CMP_GSTAT.rdbk_busy p)).rdbkResult p

/-- READBACK_DONE of a readback that runs (R193). -/
def State.readbackEnd (s : State) (p : Nat) (codes : List (BitVec 16 × BitVec 16)) : State :=
  if s.bit F.CMP_GSTAT.rdbk_busy p then s.readbackDone p codes else s

/-- Two comparators of a pack have sources that share a routed phase set. -/
def State.shareRoute (s : State) (p n m : Nat) : Bool :=
  let r (k : Nat) := s.f F.MUZ_SRC.sets p k ||| s.f F.MUZ_SRC.sets p (16 + k)
  (r n &&& r m) != 0

/-- The period of source `src` of a check: a set's or the base's (R195). -/
def State.srcTicks (s : State) (p src : Nat) : Nat := (s.pset p (min src 6)).ticks

/-- The window of a check, W = 64 + 4m ticks, and the restore time after it (R195). -/
def State.chkW (s : State) (p n : Nat) : Nat := 64 + 4 * s.f F.CMP_FLT.m p n

/-- An offset that would extend the restore time past the next boundary is clamped (R195). -/
def State.chkClamp (s : State) (p n : Nat) : State :=
  let top := s.srcTicks p (s.f F.CMP_CHK.src p n) - (2 * s.chkW p n - 16)
  if top < s.f F.CMP_CHKOFF.off p n then (s.put F.CMP_CHKOFF.off top p n).setb F.CMP_STAT.cfg_clamp p n else s

/-- The raw tick at which the window of a check is due in this period of its source, in every (div + 1)th; a source 7 has no
boundary (R195). -/
def State.chkDue (s : State) (p n : Nat) : Option Nat :=
  let cnt := SMap.get 0 (s.acqs.get {} p).chk n
  let src := s.f F.CMP_CHK.src p n
  if s.bit F.CMP_CHK.en p n && src != 7 && cnt != 0 && (cnt - 1) % (s.f F.CMP_CHK.div p n + 1) == 0 && (s.cmp p n).cntAt != (s.pset p src).bk + 1 then
    some ((s.pset p src).bk + s.f F.CMP_CHKOFF.off p n)
  else none

/-- A due window cannot be run, for a reason of its own comparator or one under check (R198). -/
def State.chkBarred (s : State) (p n : Nat) : Bool :=
  let k := s.cmp p n
  s.bit F.CMP_STAT.out_u p n || s.bit F.CMP_STAT.out_l p n || !(s.pcmDrivers p n).isEmpty ||
    (k.thrAt != 0 && decide (s.clk.raw + 1 < k.thrAt + 100)) ||
    (List.range 16).any fun m => m != n && s.bit F.CMP_STAT.in_chk p m && s.shareRoute p n m

/-- The window of an enabled check opens, or is skipped as R198 lists; of two that are due in one tick the lower-numbered
comparator's runs (R195, R198). -/
def State.chkStart (s : State) (p n : Nat) : State :=
  let s0 := s.updCmp p n fun k => { k with cntAt := (s.pset p (s.f F.CMP_CHK.src p n)).bk + 1 }
  let lower := (List.range n).any fun m => s.chkDue p m == some s.clk.raw && s.shareRoute p n m && !s.chkBarred p m
  if s.chkBarred p n || lower then s0.setb F.CMP_STAT.chk_skip p n
  else
    let s1 := (s0.setb F.CMP_STAT.in_chk p n).updCmp p n fun k =>
      { k with window := true, winAt := s.clk.raw, preU := s.bit F.CMP_STAT.out_u p n, preL := s.bit F.CMP_STAT.out_l p n }
    s1.cmpEval p n s1.now

/-- CHECK_WINDOW_OPEN at its instant; no check runs while the pack timebase clock is absent (R195). -/
def State.chkOpen (s : State) (p n : Nat) : State :=
  match s.chkDue p n with
  | some t => if s.bit F.PWM_STATUS.clk_ok p && !s.bit F.CMP_STAT.in_chk p n then s.atRaw t fun s => s.chkStart p n else s
  | none => s

/-- The expected levels of a check and whether each is checked (R196): U, L, U checked, L checked. -/
def State.chkExpect (s : State) (p n : Nat) : Bool × Bool × Bool × Bool :=
  let k := s.cmp p n
  let method := s.f F.CMP_CHK.method p n
  let dual := s.f F.CMP_CFG.mode p n == 2
  if method = 0 then (!k.preU, !k.preL, true, true)
  else
    let high := method == 2 || (method == 3 && k.tieHigh)
    let far (t : Nat) : Bool := if high then decide (t < 1007) else decide (16 < t)
    (high, if dual then high else !high, far k.hi, far k.lo)

/-- At the end of W the filter outputs are compared with the expected values (R196, R197); a held threshold write applies in the
tick after (R192), and alternate ties take turns. -/
def State.chkCompare (s : State) (p n : Nat) : State :=
  let (eu, el, cu, cl) := s.chkExpect p n
  let miss := (cu && s.bit F.CMP_STAT.out_u p n != eu) || (cl && s.bit F.CMP_STAT.out_l p n != el)
  let swap := s.f F.CMP_CHK.method p n == 0
  let fail := miss && (!swap || (s.cmp p n).swapMiss)
  let s1 := (s.inc F.CMP_STAT.chk_cnt p n).setIf (!(cu && cl)) F.CMP_STAT.chk_part p n
  let s2 := s1.setIf (miss && swap) F.CMP_STAT.chk_miss p n
  let first := fail && !s2.bit F.CMP_STAT.chk_fail p n
  let s3 := s2.setIf fail F.CMP_STAT.chk_fail p n
  let s4 := if first then s3.alarm [(s3.ainOwner p n).ten] 10 (16 * p + n) 2 (s3.rd .CMP_STAT p n) 0 s3.now else s3
  let s5 := s4.updCmp p n fun k =>
    { k with window := false, swapMiss := miss && swap, tieHigh := if s.f F.CMP_CHK.method p n = 3 then !k.tieHigh else k.tieHigh, held := none }
  match (s4.cmp p n).held with
  | some v => s5.later (.thr p n v)
  | none => s5

/-- CHECK_WINDOW_END at its instant, where the filtered levels are `u` and `l` (R195 to R197, log 110). -/
def State.chkEnd (s : State) (p n : Nat) (u l : Bool) : State :=
  let t := s.run ((s.cmp p n).winAt + s.chkW p n - s.clk.raw)
  if (s.cmp p n).window && t.bit F.CMP_STAT.out_u p n == u && t.bit F.CMP_STAT.out_l p n == l then t.chkCompare p n else s

/-- CHECK_RESTORE_END: the comparator guards its sets again (R195). -/
def State.chkRestore (s : State) (p n : Nat) : State :=
  if (s.cmp p n).window || !s.bit F.CMP_STAT.in_chk p n then s
  else s.atRaw ((s.cmp p n).winAt + 2 * s.chkW p n - 16) fun s =>
    let s1 := s.clrb F.CMP_STAT.in_chk p n
    s1.cmpEval p n s1.now

/-! ### Protection inputs -/

/-- The field pin of a side of a leg (R199). -/
def protPin (p l : Nat) (low : Bool) : Nat := 72 + 36 * p + 2 * l + low.toNat

/-- The class of a field pin; a pin of which nothing has been reported is in the open band (R118, log 122). -/
def State.pinClass (s : State) (n : Nat) : PinClass := s.fld.get .open_ n

/-- A side is asserted by its pin: at the level that pol selects in class low or high, in every other class whatever pol says, and
never while the side is disabled (R200). -/
def State.protRaw (s : State) (p l : Nat) (low : Bool) (c : PinClass) : Bool :=
  let en := if low then s.bit F.MUZ_PROT.en_l p l else s.bit F.MUZ_PROT.en_h p l
  let pol := if low then s.bit F.MUZ_PROT.pol_l p l else s.bit F.MUZ_PROT.pol_h p l
  en && match c with
    | .low => !pol
    | .high => pol
    | _ => true

/-- The filter of a protection input. -/
def State.prot (s : State) (p l : Nat) (low : Bool) : Flt := s.prots.get {} (protPin p l low)

/-- Set the filter of a protection input. -/
def State.setProt (s : State) (p l : Nat) (low : Bool) (f : Flt) : State := { s with prots := s.prots.set {} (protPin p l low) f }

/-- The filtered assertion of a side as MUZ_PROT shows it. -/
def protLive (low : Bool) : Fld := if low then F.MUZ_PROT.live_l else F.MUZ_PROT.live_h

/-- The filtered assertion of a side changes (R200, R202). -/
def State.protChange (s : State) (p l : Nat) (low asserted : Bool) (t : Tag) : State :=
  (s.putb (protLive low) asserted p l).srcEval p (40 + 2 * l + low.toNat) t

/-- PROTECTION_INPUT_CHANGE: the pin has taken these classes, oldest first; within 15 ns each reaches the filter, whose samples
then change the assertion (R200, log 123). -/
def State.protFeed (s : State) (p l : Nat) (low : Bool) (tr : List (Tag × PinClass)) : State :=
  let rs := tr.map fun e => (s.rawOf e.1 + min 15 Config.protDelay, e.1, s.protRaw p l low e.2)
  let g : Sampling := { m := s.f F.MUZ_PROT.m p l, k := s.f F.MUZ_PROT.k p l, next := s.nextSample p, mask := fun _ => false, tagAt := s.tagOf }
  let (f, _, cs) := Flt.feed g s.clk.raw rs (s.prot p l low) (s.bit (protLive low) p l)
  let s0 := tr.foldl (fun s e => { s with fld := s.fld.set .open_ (protPin p l low) e.2 }) s
  (cs.foldl (fun s c => s.atRaw c.1 fun s => s.protChange p l low c.2.1 (s.capTag p c.2.2)) (s0.setProt p l low f)).runTo rs

/-- After a write of a leg's MUZ_PROT a side's filter takes the raw level that the pin now gives; a disabled side is not asserted
(R200). With another m or k its history is its present output (R188). -/
def State.protWritten (s : State) (p l : Nat) (low refill : Bool) : State :=
  let raw := s.protRaw p l low (s.pinClass (protPin p l low))
  let on := if low then s.bit F.MUZ_PROT.en_l p l else s.bit F.MUZ_PROT.en_h p l
  let f0 := s.prot p l low
  let f1 := if refill then f0.refill (s.bit (protLive low) p l) else f0
  let f2 := { f1 with raw := raw, tag := if raw == f1.raw then f1.tag else s.now, at_ := s.clk.raw }
  if on then s.setProt p l low f2
  else
    let s1 := s.setProt p l low { f2 with hist := [], fill := false }
    if s1.bit (protLive low) p l then s1.protChange p l low false s1.now else s1

/-- SOFTWARE_TRIP toward one set: source 77 for one tick (R209). -/
def State.swTrip (s : State) (p st : Nat) : State :=
  let s1 := s.putNbit .MUZ_SEEN 13 true p 2
  (s1.assertTo p st 77 s.now).pcmRefresh p

/-- TRIP_CLEAR: a written 1 clears a trip unless a source routed to the set is live (R208). False for an error response. -/
def State.tripClear (s : State) (p st : Nat) : State × Bool :=
  if (List.range 77).any fun x => s.nbit .MUZ_LIVE (x % 32) p (x / 32) && s.routed p x st then
    (s.setb F.MUZ_SET_STAT.clr_rej p st, false)
  else if !s.bit F.MUZ_SET_STAT.tripped p st then (s, true)
  else
    let s1 := ((s.clrb F.MUZ_SET_STAT.tripped p st).put F.MUZ_SET_STAT.fault 0 p st).put F.MUZ_SET_STAT.first 0x7F p st
    ((s1.clrb F.MUZ_SET_STAT.fallback p st).muzRefresh p st, true)

/-! ### Thermal limits -/

/-- A thermal sensor. -/
def State.thm (s : State) (i : Nat) : Therm := s.therm.get {} i

/-- The fields of flag `g` of a sensor: 0 warn, 1 limit, 2 trip. -/
def thmFlag (g : Nat) : Fld := if g = 0 then F.THM_SEN.warn else if g = 1 then F.THM_SEN.limit else F.THM_SEN.trip

/-- The threshold of flag `g` on a sensor's die in 0.125 °C units (R212, R213). -/
def State.thmThr (s : State) (i g : Nat) : Int :=
  let d := if i < 8 then 0 else 1
  8 * (if g = 0 then s.f F.THM_THR.warn 0 d else if g = 1 then s.f F.THM_THR.limit 0 d else s.f F.THM_THR.trip 0 d : Nat)

/-- The highest state of a die: 0 normal to 3 trip. -/
def State.thmDie (s : State) (lo n : Nat) : Nat :=
  (List.range n).foldl (fun m i => max m (if s.bit F.THM_SEN.trip 0 (lo + i) then 3 else if s.bit F.THM_SEN.limit 0 (lo + i) then 2
    else if s.bit F.THM_SEN.warn 0 (lo + i) then 1 else 0)) 0

/-- The tag of an occurrence at a sensor: those of the field die are tagged there, with the clock of the first pack that has it (R22,
R43). -/
def State.thmTag (s : State) (i : Nat) : Tag :=
  if i < 8 then s.now else s.fieldNow (((List.range 4).find? fun p => s.bit F.PWM_STATUS.clk_ok p).getD 0)

/-- A thermal flag changes: its actions by R214. -/
def State.thmSet (s : State) (i g : Nat) (v : Bool) : State :=
  if s.bit (thmFlag g) 0 i == v then s
  else
    let s1 := (s.putb (thmFlag g) v 0 i).inc F.THM_STAT.chg_cnt
    let s2 := (s1.put F.THM_STAT.core (s1.thmDie 0 8)).put F.THM_STAT.fld (s1.thmDie 8 4)
    let s3 := if v then
        let s3 := s2.setb (if g = 0 then F.THM_STAT.warn_seen else if g = 1 then F.THM_STAT.limit_seen else F.THM_STAT.trip_seen)
        let s4 := s3.alarm [0] 5 i (g + 1) (s3.rd .THM_SEN 0 i) 0 (s3.thmTag i)
        if g = 1 && s4.bit F.THM_LSH.en then
          s4.produce (256 + s4.f F.THM_LSH.ch) 6 0 (BitVec.ofNat 8 i) (s4.thmTag i) {} 49 (256 + s4.f F.THM_LSH.ch)
        else s4
      else s2
    if g = 2 then (List.range 4).foldl (fun s p => s.srcEval p 76 (s.thmTag i)) s3 else s3

/-- One sample's counts for flag `g`: the flag sets after 100 consecutive samples at or above θ, clears after 100 at or below
θ − 4 °C, and a sample between restarts both counts (R213). `t` none: the sensor counts as above every threshold. -/
def State.thmCount (s : State) (i g : Nat) (t : Option Int) : State :=
  let th := s.thmThr i g
  let up := match t with
    | some v => decide (th ≤ v)
    | none => true
  let dn := match t with
    | some v => decide (v ≤ th - 32)
    | none => false
  let k := s.thm i
  let u := if up then min (k.up.get 0 g + 1) 100 else 0
  let d := if dn then min (k.down.get 0 g + 1) 100 else 0
  let s1 := { s with therm := s.therm.set {} i { k with up := k.up.set 0 g u, down := k.down.set 0 g d } }
  if u = 100 then s1.thmSet i g true else if d = 100 then s1.thmSet i g false else s1

/-- The die of a sensor: 0 core, 1 field (R212). -/
def thmDieOf (i : Nat) : Nat := if i < 8 then 0 else 1

/-- A failed sensor with flt_trip = 0 has its flags cleared and is left out: no count of it goes on (R216). -/
def State.thmOut (s : State) (i : Nat) : State :=
  let s1 := ((s.thmSet i 0 false).thmSet i 1 false).thmSet i 2 false
  { s1 with therm := s1.therm.set {} i { s1.thm i with up := [], down := [] } }

/-- A sensor fails (R216). -/
def State.thmFail (s : State) (i : Nat) : State :=
  let s1 := (s.setb F.THM_SEN.flt 0 i).setb F.THM_STAT.flt_seen
  let s2 := if s.bit F.THM_SEN.flt 0 i then s1 else s1.alarm [0] 5 i 4 (s1.rd .THM_SEN 0 i) 0 (s1.thmTag i)
  { s2 with therm := s2.therm.set {} i { s2.thm i with good := 0 } }

/-- The counts of a sensor's three flags for one sample, in 0.125 °C units; a failed one counts as hot with flt_trip = 1, and is left
out with 0 (R216). -/
def State.thmFlags (s : State) (i : Nat) (t : Int) : State :=
  if s.bit F.THM_SEN.flt 0 i then
    if s.bit F.THM_THR.flt_trip 0 (thmDieOf i) then ((s.thmCount i 0 none).thmCount i 1 none).thmCount i 2 none
    else s.thmOut i
  else ((s.thmCount i 0 (some t)).thmCount i 1 (some t)).thmCount i 2 (some t)

/-- THERMAL_SAMPLE of sensor `i`, signed in 0.125 °C units (R212 to R216). -/
def State.thmSample (s : State) (i : Nat) (temp : BitVec 12) : State :=
  let t := temp.toInt
  let s0 := (s.put F.THM_SEN.temp temp.toNat 0 i).setb F.THM_SEN.valid 0 i
  let s1 := { s0 with therm := s0.therm.set {} i { s0.thm i with at_ := s.clk.raw, silent := false } }
  if t < -440 ∨ 1600 < t then (s1.thmFail i).thmFlags i t
  else
    let g := min ((s1.thm i).good + 1) 100
    let s2 := { s1 with therm := s1.therm.set {} i { s1.thm i with good := g } }
    let s3 := if g = 100 then s2.clrb F.THM_SEN.flt 0 i else s2
    s3.thmFlags i t

/-- One missed sample of a silent sensor. -/
def State.thmMissed (s : State) (i n : Nat) : State := (List.range n).foldl (fun s _ => s.thmFlags i 0) s

/-- THERMAL_SENSOR_TIMEOUT: no reading for 100 µs fails the sensor; from then on each 10 µs without a reading is a sample missed,
which counts as R216 says (log 124). -/
def State.thmTimeout (s : State) (i : Nat) : State :=
  let k := s.thm i
  s.atRaw (k.at_ + if k.silent then 10000 else 100000) fun s =>
    let first := k.at_ + if k.silent then 10000 else 100000
    let n := (s.clk.raw - first) / 10000 + 1
    let s1 := if k.silent then s else s.thmFail i
    ({ s1 with therm := s1.therm.set {} i { s1.thm i with at_ := first + (n - 1) * 10000, silent := true } } : State).thmMissed i (min n 100)

/-- Thresholds as a write by T0 leaves them: at most 175 °C, rising, each clamp reported; every count restarts (R215). -/
def State.thmThrWrite (s : State) (d : Nat) (v : Word) : State :=
  let w0 := F.THM_THR.warn.get v
  let l0 := F.THM_THR.limit.get v
  let t0 := F.THM_THR.trip.get v
  let w := min w0 175
  let l := max (min l0 175) w
  let t := max (min t0 175) l
  let s1 := ((s.put F.THM_THR.warn w 0 d).put F.THM_THR.limit l 0 d).put F.THM_THR.trip t 0 d
  let s2 := (s1.put F.THM_THR.flt_trip (F.THM_THR.flt_trip.get v) 0 d).setIf (w != w0 || l != l0 || t != t0) F.THM_STAT.cfg_clamp
  (List.range 12).foldl (fun s i =>
    if (i < 8) = (d = 0) then { s with therm := s.therm.set {} i { s.thm i with up := [], down := [] } } else s) s2

end Sys2Proof.Machine
end

