-- ==== Sys2Proof/Machine/Time.lean ====
section
/-! DEFINITION. Time: following the grandmaster (R38, R39, R486), the always-on shadow (R44), and the action slots up to
their firing (R41, R52 to R58). -/

namespace Sys2Proof.Machine

/-- A free truth value (log 20). -/
def State.freshBit (s : State) : State × Bool :=
  let (s1, v) := s.fresh
  (s1, v.getLsbD 0)

/-- A free number below `n` (log 20). -/
def State.freshBelow (s : State) (n : Nat) : State × Nat :=
  let (s1, v) := s.fresh
  (s1, v.toNat % n)

/-- TIME_STATUS.state: 0 FREE, 1 LOCKED, 2 HOLDOVER, 3 RELOCK. -/
def State.timeSt (s : State) : Nat := s.f F.TIME_STATUS.state

/-- A departure from LOCKED at a tag (R45). -/
def State.lockLost (s : State) (t : Tag) : State :=
  let s1 := (s.setb F.TIME_STATUS.lock_lost).inc F.TIME_STATUS.lost_cnt
  s1.alarm [0] 4 0 1 (s1.rd .TIME_STATUS) 0 t

/-- The state of the timebase changes at a tag; the message counts start anew, and leaving LOCKED is reported (R38, R45, R486). -/
def State.timeToAt (s : State) (st : Nat) (t : Tag) : State :=
  let was := s.timeSt
  let s1 := (s.put F.TIME_STATUS.state st).updClk fun k => { k with good := 0, bad := 0 }
  if was = 1 ∧ st ≠ 1 then s1.lockLost t else s1

/-- The state of the timebase changes now. -/
def State.timeTo (s : State) (st : Nat) : State := s.timeToAt st s.now

/-! ### Slots up to their firing -/

/-- The target of a slot. -/
def State.slotTgt (s : State) (n : Nat) : Tag := s.pairAt .TIME_ACT_TGT_LO .TIME_ACT_TGT_HI 0 n

/-- A slot is armed. -/
def State.slotArmed (s : State) (n : Nat) : Bool := s.bit F.TIME_ACT_CTL.arm 0 n

/-- The present tag is at or after the slot's target (R52, R36). -/
def State.slotReached (s : State) (n : Nat) : Bool := !Tag.after (s.slotTgt n) s.now

/-- The slot has fired in this tick (R56). -/
def State.slotJust (s : State) (n : Nat) : Bool := SMap.get 0 s.clk.fired n == s.clk.raw + 1

/-- A slot drops its action, and no longer waits to fire (R54, R58). -/
def State.slotDrop (s : State) (n : Nat) : State :=
  (((s.clrb F.TIME_ACT_CTL.arm 0 n).setb F.TIME_ACT_STAT.dropped 0 n).setPair .TIME_ACT_FIRE_LO .TIME_ACT_FIRE_HI s.now 0 n).updClk
    fun k => { k with due := k.due.filter (· != n) }

/-- The slot's target has passed: it fires at once, or drops the action with skip_late (R41, R54). -/
def State.slotLate (s : State) (n : Nat) : State :=
  let s1 := s.setb F.TIME_ACT_STAT.late 0 n
  if s1.bit F.TIME_ACT_CTL.skip_late 0 n then s1.slotDrop n
  else s1.updClk fun k => { k with due := k.due ++ [n] }

/-- A write to TIME_ACT_CTL_n (R54, R56). False for an error response. A write in the fire tick sets race, and the fire
prevails, whichever of the two comes first. -/
def State.slotCtl (s : State) (n : Nat) (v : Word) : State × Bool :=
  let arm := v.getLsbD 0
  let kind := F.TIME_ACT_CTL.kind.get v
  if s.slotArmed n then
    if kind ≠ s.f F.TIME_ACT_CTL.kind 0 n then (s.setIf (s.slotReached n) F.TIME_ACT_STAT.race 0 n, false)
    else
      let s1 := s.put F.TIME_ACT_CTL.skip_late (F.TIME_ACT_CTL.skip_late.get v) 0 n
      if arm then (s1, true)
      else if s1.slotReached n then
        ((s1.setb F.TIME_ACT_STAT.race 0 n).updClk fun k => { k with due := k.due ++ [n] }, true)
      else (s1.clrb F.TIME_ACT_CTL.arm 0 n, true)
  else if s.slotJust n then
    let s1 := s.setb F.TIME_ACT_STAT.race 0 n
    if kind ≠ s.f F.TIME_ACT_CTL.kind 0 n then (s1, false)
    else (s1.put F.TIME_ACT_CTL.skip_late (F.TIME_ACT_CTL.skip_late.get v) 0 n, true)
  else if arm && kind == 3 then (s, false)
  else
    let s1 := s.wr .TIME_ACT_CTL (RegName.TIME_ACT_CTL.row.write 0 v) 0 n
    if arm && Tag.before (s1.slotTgt n) s1.now then (s1.slotLate n, true) else (s1, true)

/-- A write to TGT, ADDR or DATA of a slot is refused while the slot is armed; in its fire tick it sets race (R56). -/
def State.slotLocked (s : State) (n : Nat) : State × Bool :=
  if s.slotArmed n || s.slotJust n then (s.setIf (s.slotJust n || s.slotReached n) F.TIME_ACT_STAT.race 0 n, true) else (s, false)

/-- Den or Kennel entry disarms every armed slot (R58). -/
def State.slotsOff (s : State) : State :=
  (List.range 64).foldl (fun s n => if s.slotArmed n then s.slotDrop n else s) s

/-- The step makes armed slots whose target it passes late; a target equal to the new tag is reached without being late
(R41). -/
def State.slotsAtStep (s : State) : State :=
  (List.range 64).foldl (fun s n => if s.slotArmed n && Tag.before (s.slotTgt n) s.now then s.slotLate n else s) s

/-! ### Synchronisation -/

/-- The measured offset in ns, the fraction of a tag unit's 1/16 ns rounded up or down as left open (log 33), saturated. -/
def nsOffset (d : Tag) (up : Bool) : Word :=
  let n := d.toInt
  let q := n / 16 + (if up && n % 16 ≠ 0 then 1 else 0)
  BitVec.ofInt 32 (max (-(2 ^ 31 - 1)) (min q (2 ^ 31 - 1)))

/-- An accepted message that does not step: offset and rate. How far the rate is slewed is left open within ±200,000 parts
per 10^9 (R39, log 33). -/
def State.timeSlew (s : State) (d : Tag) : State :=
  let (s1, up) := s.freshBit
  let (s2, r) := s1.freshBelow 400001
  ((s2.wr .TIME_OFFSET (nsOffset d up)).wr .TIME_RATE (BitVec.ofInt 32 ((r : Int) - 200000))).putb
    F.TIME_STATUS.slew_sat (r == 0 || r == 400000)

/-- The one step of R39, with its record and the slots it passes (R41). -/
def State.timeStep (s : State) (gm : Tag) : State :=
  let d := gm - s.now
  let (s1, up) := s.freshBit
  let s2 := (s1.wr .TIME_OFFSET (nsOffset (s.now - gm) up)).updClk fun k => { k with tag := gm, frac := 0 }
  let s3 := ((s2.setPair .TIME_STEP_LO .TIME_STEP_HI d).setPair .TIME_STEP_AT_LO .TIME_STEP_AT_HI gm).setb F.TIME_STATUS.stepped
  ((s3.slogAdd 1 d.lo d.hi 0 gm).timeTo 3).slotsAtStep

/-- TSYNC: a message of the grandmaster's time `gm` (R38, R39, R486). -/
def State.tsyncMsg (s : State) (ln : Nat) (domain : Byte) (gm : Tag) : State :=
  if s.bit F.TIME_CTL.sync_en && s.f F.TIME_CTL.domain == domain.toNat && s.f F.FAB_CTL.ts_lane == ln && !s.clk.stopped then
    let d := s.now - gm
    let within := decide (d.toInt.natAbs ≤ 80)
    let s1 :=
      if s.timeSt = 0 then s.timeStep gm
      else
        let s1 := s.timeSlew d
        if s.timeSt = 2 then s1.timeTo 3
        else if s.timeSt = 3 then
          if !within then s1.updClk fun k => { k with good := 0 }
          else if s1.clk.good = 7 then s1.timeTo 1
          else s1.updClk fun k => { k with good := k.good + 1 }
        else if within then s1.updClk fun k => { k with bad := 0 }
        else if s1.clk.bad = 1 then s1.timeTo 3
        else s1.updClk fun k => { k with bad := 1 }
    s1.updClk fun k => { k with lastMsg := s1.now }
  else s

/-- Ticks within which any crossing of R21 on the device has passed (R60, log 118). -/
def crossTicks : Nat := 30

/-- The deadline of the synchronisation messages: loss_n ms after the tag of the last accepted one (R486). -/
def State.syncDue (s : State) : Tag := s.clk.lastMsg + BitVec.ofNat 64 (s.f F.TIME_CTL.loss_n * 16000000)

/-- SYNC_LOSS_TIMEOUT (R38, R59, R60, R486): declared once the deadline and the crossing bound have passed, with the deadline as its
tag. -/
def State.syncLoss (s : State) : State :=
  s.when_ (s.timeSt == 1 || s.timeSt == 3) fun s => s.atTag (s.syncDue + s.tickUnits crossTicks + 1) fun s => s.timeToAt 2 s.syncDue

/-! ### The always-on shadow -/

/-- The shadow copy at the start of a 32.768 kHz cycle; while the core die is held the clock runs on to the start of the next cycle,
which is counted (R43, R44). -/
def State.aoCopy (s : State) : State :=
  if s.clk.stopped then s.run (s.aoRaw (s.clk.aoCycles + 1) - s.clk.raw)
  else s.updClk fun k => { k with aoTag := k.tag, aoRate := s.rd .TIME_RATE, aoState := s.timeSt, aoStepped := s.bit F.TIME_STATUS.stepped,
                                  aoCycles := 0, aoAt := k.raw }

/-- The core die is held in reset or turned off: the shadow stops being copied, the timebase stops, and the always-on cycles are
counted from the last copy (R44). -/
def State.aoHold (s : State) : State := (s.updClk fun k => { k with stopped := true }).aoCount s.clk.raw

/-- Release of the timebases at step 2 of start-up: the tag from the shadow, rate and stepped kept, LOCKED and RELOCK to
HOLDOVER (R42, R44). -/
def State.aoRelease (s : State) : State :=
  if s.clk.stopped then
    let k := s.clk
    let s1 := ((s.wr .TIME_RATE k.aoRate).putb F.TIME_STATUS.stepped k.aoStepped).put F.TIME_STATUS.state k.aoState
    let s2 := s1.updClk fun k => { k with tag := s.aoTagAt k.aoCycles, frac := 0, stopped := false, aoTag := s.aoTagAt k.aoCycles,
                                          aoCycles := 0, aoAt := s.aoRaw k.aoCycles }
    if k.aoState = 1 ∨ k.aoState = 3 then s2.timeTo 2 else s2
  else s

end Sys2Proof.Machine
end

