-- ==== Sys2Proof/Machine/Acq.lean ====
section
/-! DEFINITION. Analogue acquisition: holds and conversions, auto-range, calibration, the sample router, sigma-delta channels
and resolver channels (R63 to R94). -/

namespace Sys2Proof.Machine

/-! ### Loop-engine input slots -/

/-- The resolver channel bound to a slot of an axis (R130). -/
def State.slotRsv (s : State) (p a i : Nat) : Option Nat :=
  (List.range 2).find? fun r => s.f F.RSV_CTL.axis p r == a && s.f F.RSV_CTL.le_in p r == i

/-- Every slot of inmask is fresh, and there is one (R134); a resolver slot is never waited for (R130). -/
def State.allFresh (s : State) (p a : Nat) : Bool :=
  let m := s.f F.LE_AX_IN.inmask p a
  let need := (List.range 16).filter fun i => m.testBit i && (s.slotRsv p a i).isNone
  !need.isEmpty && need.all fun i => (SMap.get {} (s.ax p a).slots i : InSlot).fresh

/-- The axis runs its program in this state. -/
def State.axRuns (s : State) (p a : Nat) : Bool := s.axSt p a == 3 || s.axSt p a == 4

/-- The period of an axis in ticks: that of its phase set. -/
def State.axTicks (s : State) (p a : Nat) : Nat :=
  match s.setOfAxis p a with
  | some x => (s.pset p x).ticks
  | none => s.f F.PWM_BASE.base p

/-- The release limit of the run of the present period, Bk+1 − 62 ns, as a raw tick (R137). -/
def State.limTick (s : State) (p a : Nat) : Nat := (s.ax p a).bkRaw + s.axTicks p a - 62

/-- The release limit of the run of the present period has passed (R137). -/
def State.pastLimit (s : State) (p a : Nat) : Bool := (s.ax p a).lim || decide (s.limTick p a < s.clk.raw)

/-- The run of the present period becomes ready, once (R134), and not past its release limit, where it is skipped (R138); a run that
waits for a recovery is late by it (R140). -/
def State.makeRunReady (s : State) (p a : Nat) : State :=
  let k := s.ax p a
  if s.axRuns p a && k.ready.isNone && !k.ran && !s.pastLimit p a then
    s.updAx p a fun k => { k with ready := some s.now, recov := k.recov || s.recovering p }
  else s

/-- A value reaches an input slot; tagged at or after Bk it makes the slot fresh, and the last one makes the run ready
(R130, R134). -/
def State.slotIn (s : State) (p a i : Nat) (v : Word) (flags : Nat) (t : Tag) : State :=
  if 6 ≤ a ∨ 16 ≤ i then s
  else
    let k := s.ax p a
    let x : InSlot := SMap.get {} k.slots i
    let fresh := (x.fresh || !Tag.before t k.bk) && (s.slotRsv p a i).isNone
    let s1 := s.updAx p a fun k => { k with slots := k.slots.set {} i { x with v := v, flags := flags, tag := t, fresh := fresh } }
    if fresh && !x.fresh && s1.allFresh p a then s1.makeRunReady p a else s1

/-! ### Inputs, entries and sample-and-holds -/

/-- A pack's acquisition. -/
def State.acq (s : State) (p : Nat) : Acq := s.acqs.get {} p

/-- Change a pack's acquisition. -/
def State.updAcq (s : State) (p : Nat) (f : Acq → Acq) : State := { s with acqs := s.acqs.set {} p (f (s.acq p)) }

/-- A sample-and-hold. -/
def State.sh (s : State) (p h : Nat) : Hold := SMap.get {} (s.acq p).hold h

/-- Set a sample-and-hold. -/
def State.setSh (s : State) (p h : Nat) (k : Hold) : State := s.updAcq p fun q => { q with hold := q.hold.set {} h k }

/-- The even input of the differential pair of input `n` (R63). -/
def State.diffOf (s : State) (p n : Nat) : Bool := s.bit F.ADC_ROUTE.diff p (n - n % 2)

/-- Input `n` is the negative side of a differential pair, whose registers are ignored (R63). -/
def State.negSide (s : State) (p n : Nat) : Bool := n % 2 == 1 && s.diffOf p n

/-- The axis an input is bound to; 6 and 7 for none. -/
def State.ainAxis (s : State) (p n : Nat) : Nat := if s.negSide p n then 7 else s.f F.ADC_ROUTE.axis p n

/-- Boundary and period of a source: 0 to 5 a phase set, 6 the pack's base period (R67), in raw ticks. -/
def State.srcTime (s : State) (p src : Nat) : Nat × Nat :=
  ((s.pset p (min src 6)).bk, (s.pset p (min src 6)).ticks)

/-- gmin and gmax in force: with gmin above gmax, gmax for both (R74). -/
def State.gainLim (s : State) (p n : Nat) : Nat × Nat :=
  let lo := s.f F.ADC_IN.gmin p n
  let hi := s.f F.ADC_IN.gmax p n
  (min lo hi, hi)

/-- The boundaries of its source that count for an entry: since its input's axis was armed, or for an input of no axis since the entry
was enabled (R67). -/
def State.entCount (s : State) (p e : Nat) : Nat :=
  let a := s.ainAxis p (s.f F.ADC_ENT_CTL.input p e)
  if a < 6 then SMap.get 0 (s.acq p).arm (7 * a + s.f F.ADC_ENT_CTL.src p e) - 1 else SMap.get 0 (s.acq p).ent e

/-- The first gain of an auto-range input: when its axis is armed, or auto is written to 1 (R74). -/
def State.firstGain (s : State) (p n : Nat) : State :=
  let (lo, hi) := s.gainLim p n
  let s1 := s.setIf (decide (hi < s.f F.ADC_IN.gmin p n)) F.ADC_STATUS.cfg_clamp p
  s1.updAcq p fun q => { q with gain := q.gain.set 0 n (max lo (min hi (s.f F.ADC_IN.gain p n))) }

/-- The gain of a hold of an input; a write of this tick is not yet seen (R73, R74). -/
def State.holdGain (s : State) (p n : Nat) : Nat :=
  if s.fWas F.ADC_IN.auto p n != 0 then SMap.get 0 (s.acq p).gain n else s.fWas F.ADC_IN.gain p n

/-- The calibration set in use for slot `i` of axis `a`: the one its current gait names (R78). -/
def State.gaitCal (s : State) (p a i : Nat) : Nat := s.f F.LE_GAIT_CAL.cal p a (s.f F.LE_GAIT_SEL.cur p a) / 4 ^ i % 4

/-- The calibration of an analogue input at a hold; a write or commit of this tick is not yet seen (R73, R78, R81). -/
def State.calAdc (s : State) (p n : Nat) : CalUse :=
  let a := s.ainAxis p n
  let k := if s.fWas F.ADC_IN.cal_gait p n != 0 && a < 6 then s.gaitCal p a (s.f F.ADC_ROUTE.le_in p n) else s.fWas F.ADC_IN.cal_fix p n
  let c := 4 * n + k
  { on := s.fWas F.ADC_IN.cal_en p n != 0, set := k, ofs := s.rdWas .ADC_CAL_OFS p c, gain := s.rdWas .ADC_CAL_GAIN p c,
    lvl := s.rdWas .ADC_CAL_LVL p c, range := s.fWas F.ADC_CAL_CFG.range p c, valid := s.fWas F.ADC_CAL_CFG.valid p c != 0 }

/-- The calibration of a sigma-delta channel at a window's end; a write or commit of this tick is not yet seen (R78, R81). -/
def State.calSdm (s : State) (p n : Nat) : CalUse :=
  let a := s.f F.SDM_CH.axis p n
  let k := if s.fWas F.SDM_CALSEL.cal_gait p n != 0 && a < 6 then s.gaitCal p a (s.f F.SDM_CH.le_in p n)
    else s.fWas F.SDM_CALSEL.cal_fix p n
  let c := 4 * n + k
  { on := s.fWas F.SDM_CALSEL.cal_en p n != 0, set := k, ofs := s.rdWas .SDM_CAL_OFS p c, gain := s.rdWas .SDM_CAL_GAIN p c,
    lvl := s.rdWas .SDM_CAL_LVL p c, range := 0, valid := s.fWas F.SDM_CAL_CFG.valid p c != 0 }

/-- sar_busy follows the sample-and-holds under conversion. -/
def State.sarBusy (s : State) (p : Nat) : State :=
  s.put F.ADC_STATUS.sar_busy ((List.range 8).foldl (fun m h => if 2 ≤ (s.sh p h).st then m ||| 2 ^ (h / 2) else m) 0) p

/-- SAR `k` takes its next waiting sample, if it is free: entries before resolver channels, then the earlier hold tag, then the
lower sample-and-hold (R69). A conversion that would start in this very tick has not begun: the order holds among all holds of the
tick. -/
def State.sarNext (s : State) (p k : Nat) : State :=
  let back (q : Hold) : Hold := if q.st = 2 ∧ q.at_ = s.clk.raw then { q with st := 1 } else q
  let x := back (s.sh p (2 * k))
  let y := back (s.sh p (2 * k + 1))
  let start (h : Nat) (q : Hold) : State :=
    (((s.setSh p (2 * k) x).setSh p (2 * k + 1) y).setSh p h { q with st := 2, at_ := s.clk.raw }).sarBusy p
  if 2 ≤ x.st || 2 ≤ y.st then s.sarBusy p
  else if x.st = 1 && y.st = 1 then
    let yFirst := (x.rsv.isSome && y.rsv.isNone) || (x.rsv.isSome == y.rsv.isSome && Tag.before y.smp.tag x.smp.tag)
    if yFirst then start (2 * k + 1) y else start (2 * k) x
  else if x.st = 1 then start (2 * k) x
  else if y.st = 1 then start (2 * k + 1) y
  else s.sarBusy p

/-- A sample-and-hold cannot take a hold now (R70, R92). -/
def State.shBusy (s : State) (p h : Nat) : Bool := (s.sh p h).st != 0 || decide (s.clk.raw < (s.sh p h).freeAt)

/-- A sample-and-hold that an enabled resolver channel names is used by that channel alone (R92). -/
def State.shRsv (s : State) (p h : Nat) : Bool :=
  (List.range 2).any fun r => s.bit F.RSV_CTL.en p r && (s.f F.RSV_CTL.sh_sin p r == h || s.f F.RSV_CTL.sh_cos p r == h)

/-- A missed hold (R70): counted, and for an input bound to an axis the previous sample is delivered again as stale. -/
def State.missHold (s : State) (p e n : Nat) : State :=
  let s1 := (s.putNbit .ADC_EVT_1 e true p).inc F.ADC_CNT.miss_cnt p
  if s.ainAxis p n < 6 then
    s1.updAcq p fun q => { q with out := q.out ++
      [{ kind := 2, n := n, tag := s.now, axis := s.ainAxis p n, leIn := s.f F.ADC_ROUTE.le_in p n }] }
  else s1

/-- Entry `e` may hold at all: enabled, with a source, its input no negative side of a pair (R63, log 127), and no internal calibration
or threshold readback of the pack runs and the last calibration did not fail (R77, R193). -/
def State.entHolds (s : State) (p e : Nat) : Bool :=
  s.bit F.ADC_ENT_CTL.en p e && s.f F.ADC_ENT_CTL.src p e != 7 && !s.negSide p (s.f F.ADC_ENT_CTL.input p e) &&
    !s.bit F.ADC_STATUS.cal_busy p && !s.bit F.ADC_STATUS.cal_fail p && !s.bit F.CMP_GSTAT.rdbk_busy p

/-- The raw tick of entry `e`'s hold in the present period of its source, where it has one that is still to be taken (R67, R68). -/
def State.holdDue (s : State) (p e : Nat) : Option Nat :=
  let (bk, per) := s.srcTime p (s.f F.ADC_ENT_CTL.src p e)
  let cnt := s.entCount p e
  if s.entHolds p e && cnt != 0 && (cnt - 1) % (s.f F.ADC_ENT_CTL.div p e + 1) == 0 && SMap.get 0 (s.acq p).entHeld e != bk + 1 then
    some (bk + min (s.f F.ADC_ENT_HOLD.hold p e) (per - 1))
  else none

/-- Entry `e` takes its sample, and the SAR the sample-and-hold's (R64, R73). -/
def State.takeHold (s : State) (p e : Nat) : State :=
  let n := s.f F.ADC_ENT_CTL.input p e
  let h := s.f F.ADC_ENT_CTL.sh p e
  let (bk, per) := s.srcTime p (s.f F.ADC_ENT_CTL.src p e)
  let smp : Samp := { n := n, diff := s.diffOf p n, gain := s.holdGain p n, tag := s.now, cal := s.calAdc p n,
                      due := bk + min (s.f F.ADC_ENT_DUE.due p e) per, axis := s.ainAxis p n, leIn := s.f F.ADC_ROUTE.le_in p n }
  let lo := min (s.fWas F.ADC_IN.gmin p n) (s.fWas F.ADC_IN.gmax p n)
  (s.setSh p h { st := 1, smp := smp, auto := s.fWas F.ADC_IN.auto p n != 0, recon := s.fWas F.ADC_IN.recon_en p n != 0, gmin := lo,
                 ent := e, heldAt := s.clk.raw }).sarNext p (h / 2)

/-- SAMPLE_HOLD of entry `e` at its instant (R67, R70): of two entries on one sample-and-hold in one tick the higher-numbered one
misses its hold. -/
def State.sampleHold (s : State) (p e : Nat) : State :=
  match s.holdDue p e with
  | none => s
  | some due => s.inRaw due fun s =>
    let h := s.f F.ADC_ENT_CTL.sh p e
    let k := s.sh p h
    let s1 := s.updAcq p fun q => { q with entHeld := q.entHeld.set 0 e ((s.srcTime p (s.f F.ADC_ENT_CTL.src p e)).1 + 1) }
    if s.shRsv p h then s1.missHold p e (s.f F.ADC_ENT_CTL.input p e)
    else if k.st ≠ 0 ∧ k.rsv.isNone ∧ k.heldAt = s.clk.raw ∧ e < k.ent then (s1.missHold p k.ent k.smp.n).takeHold p e
    else if s.shBusy p h then s1.missHold p e (s.f F.ADC_ENT_CTL.input p e)
    else s1.takeHold p e

/-- A code at the end of scale (R75). -/
def endOfScale (diff : Bool) (c : BitVec 16) : Bool := if diff then c == 0x8000 || c == 0x7FFF else c == 0xFFFF

/-- The code as a number: unsigned single-ended, two's complement differential (R65). -/
def codeVal (diff : Bool) (c : BitVec 16) : Int := if diff then c.toInt else c.toNat

/-- The next boundary of source `src`: of a counter that runs, or the base boundary at which it starts (R155). -/
def State.srcNext (s : State) (p src : Nat) : Nat :=
  if src < 6 && s.bit F.PWM_SET_STAT.cnt_run p src then (s.srcTime p src).1 + (s.srcTime p src).2 else s.baseDue p

/-- Entry `e` holds in the next period of its source: its count goes on to a period of its own, or its axis is armed there (R67). -/
def State.holdsNext (s : State) (p e : Nat) : Bool :=
  let a := s.ainAxis p (s.f F.ADC_ENT_CTL.input p e)
  let src := s.f F.ADC_ENT_CTL.src p e
  let armed := if a < 6 then SMap.get 0 (s.acq p).arm (7 * a + src) != 0 else true
  let arms := decide (a < 6) && s.f F.LE_AX_STAT.pend p a == 1 && s.axSt p a == 1 && s.setOfAxis p a == some src
  s.entHolds p e && (arms || (armed && s.entCount p e % (s.f F.ADC_ENT_CTL.div p e + 1) == 0))

/-- An entry needs SAR `k` for a hold from now on and before `w` ticks have passed (R76). -/
def State.entrySoon (s : State) (p k w : Nat) : Bool :=
  (List.range 32).any fun e =>
    let src := s.f F.ADC_ENT_CTL.src p e
    let hit (t : Nat) : Bool := decide (s.clk.raw ≤ t ∧ t < s.clk.raw + w)
    s.f F.ADC_ENT_CTL.sh p e / 2 == k &&
      ((match s.holdDue p e with
        | some t => hit t
        | none => false) ||
       (s.holdsNext p e && hit (s.srcNext p src + min (s.f F.ADC_ENT_HOLD.hold p e) ((s.srcTime p src).2 - 1))))

/-- The conditions of a reconversion, with the settings of the hold (R73, R76); the crossing to the router is taken at its bound of 40 ns (log 35). -/
def State.reconOk (s : State) (p h : Nat) : Bool :=
  let k := s.sh p h
  let other := s.sh p (if h % 2 = 0 then h + 1 else h - 1)
  k.auto && decide (k.gmin < k.smp.gain) && k.recon &&
    !(other.st == 1 && other.rsv.isNone) && !s.entrySoon p (h / 2) 175 && decide (s.clk.raw + 215 ≤ k.smp.due)

/-- The next gain of an auto-range input from the final result of a sample (R74): one step from the gain of that result, which after a
reconversion is the lowered one (log 127). -/
def State.nextGain (s : State) (p n g : Nat) (diff ovr : Bool) (c : BitVec 16) : State :=
  let v := (codeVal diff c).natAbs
  let full := if diff then 32768 else 65536
  let (lo, hi) := s.gainLim p n
  let s1 := s.setIf (decide (hi < s.f F.ADC_IN.gmin p n)) F.ADC_STATUS.cfg_clamp p
  let g' := if (ovr || decide (9 * full < 10 * v)) && decide (lo < g) then g - 1
    else if !ovr && decide (5 * v < full) && decide (g < hi) then g + 1 else g
  s1.updAcq p fun q => { q with gain := q.gain.set 0 n g' }

/-- A sample-and-hold tracks its input again, and its SAR takes the next sample (R64, R70). -/
def State.shFree (s : State) (p h : Nat) : State := (s.setSh p h { freeAt := s.clk.raw + 60 }).sarNext p (h / 2)

/-- An entry's final result leaves for the sample router. -/
def State.entryDone (s : State) (p h : Nat) (c : BitVec 16) (flags : Nat) : State :=
  let k := s.sh p h
  let m := k.smp
  let s1 := if k.auto then s.nextGain p m.n m.gain m.diff (endOfScale m.diff c) c else s
  let smp := { m with raw := codeVal m.diff c, code := c.toNat, flags := flags }
  (s1.updAcq p fun q => { q with out := q.out ++ [smp] }).shFree p h

/-! ### Resolver channels -/

/-- A resolver channel. -/
def State.rsvc (s : State) (p r : Nat) : Rsv := SMap.get {} (s.acq p).rsv r

/-- Set a resolver channel. -/
def State.setRsvc (s : State) (p r : Nat) (k : Rsv) : State := s.updAcq p fun q => { q with rsv := q.rsv.set {} r k }

/-- The owner of a block element bound to axis `a`, 6 and 7 for none: the axis's or the pack's. -/
def State.boundOwner (s : State) (p a : Nat) : Owner := if a < 6 then s.owner (.axis p a) else s.owner (.pack p)

/-- A pair enters position 0 of its FIFO (R93), with its amplitude check (R94); seq is the number of pairs before it (log 127). -/
def State.pairIn (s : State) (p r : Nat) (k : Rsv) (sn cs : BitVec 16) : State :=
  let a := sn.toInt.natAbs * sn.toInt.natAbs + cs.toInt.natAbs * cs.toInt.natAbs
  let bad := decide (a < k.lo * 32768 ∨ k.hi * 32768 < a)
  let s1 := [2, 1, 0].foldl (fun s i =>
    (((s.wr .RSV_SMP (s.rd .RSV_SMP p r i) p r (i + 1)).wr .RSV_INFO (s.rd .RSV_INFO p r i) p r (i + 1)).wr .RSV_TAG_LO
      (s.rd .RSV_TAG_LO p r i) p r (i + 1)).wr .RSV_TAG_HI (s.rd .RSV_TAG_HI p r i) p r (i + 1)) s
  let s2 := (s1.wr .RSV_SMP (cs.setWidth 32 <<< 16 ||| sn.setWidth 32) p r 0).setPair .RSV_TAG_LO .RSV_TAG_HI k.tag p r 0
  let s3 := ((((s2.wr .RSV_INFO 0 p r 0).putb F.RSV_INFO.pol k.pol p r 0).putb F.RSV_INFO.amp_bad bad p r 0).put
    F.RSV_INFO.flags k.flags p r 0).put F.RSV_INFO.seq k.seq p r 0
  let run := if bad then k.badRun + 1 else 0
  let s4 := s3.setRsvc p r { k with sin := none, cos := none, open_ := false, seq := (k.seq + 1) % 256, held := min (k.held + 1) 4,
                                    badRun := min run 2 }
  let s5 := if bad then (s4.setb F.RSV_STAT.amp_bad p r).inc F.RSV_STAT.amp_cnt p r else s4
  if 2 ≤ run then s5.alarm [(s5.boundOwner p (s5.f F.RSV_CTL.axis p r)).ten] 8 (16 * p + 8 + r) 2 0 0 s5.now else s5

/-- One winding's conversion has ended (R92, R93). -/
def State.rsvDone (s : State) (p h r : Nat) (isSin : Bool) (c : BitVec 16) : State :=
  let ovr := endOfScale true c
  let s1 := (s.setIf ovr F.RSV_STAT.ovr p r).shFree p h
  let k0 := s1.rsvc p r
  let k := { k0 with flags := if ovr then k0.flags ||| 3 else k0.flags, sin := if isSin then some c else k0.sin,
                     cos := if isSin then k0.cos else some c }
  match k.sin, k.cos with
  | some a, some b => s1.pairIn p r k a b
  | _, _ => s1.setRsvc p r k

/-- The next hold instant of a resolver channel at or after raw tick `t`, with its polarity: start + (N/4 + ph) mod N and start +
(3N/4 + ph) mod N in each cycle of N = 64 × exc_div ticks (R92). -/
def State.rsvDue (s : State) (p r t : Nat) : Nat × Bool :=
  let n := 64 * max 1 (s.f F.RSV_EXC.exc_div p r)
  let c := (s.rsvc p r).start
  let next (q : Nat) : Nat :=
    let o := c + (q * (n / 4) + s.f F.RSV_PH.ph p r) % n
    if t ≤ o then o else o + (t - o + n - 1) / n * n
  if next 1 ≤ next 3 then (next 1, false) else (next 3, true)

/-- Sine and cosine are held together, or the pair is skipped; two windings on one sample-and-hold are always skipped (R92, log 127).
A threshold write of this tick is not yet seen (R94). -/
def State.rsvTake (s : State) (p r : Nat) (pol : Bool) : State :=
  let a := s.f F.RSV_CTL.sh_sin p r
  let b := s.f F.RSV_CTL.sh_cos p r
  let s0 := s.setRsvc p r { s.rsvc p r with next := s.clk.raw + 1 }
  if s.shBusy p a || s.shBusy p b || a == b then s0.setb F.RSV_STAT.miss p r
  else
    let s1 := s0.setRsvc p r { s0.rsvc p r with pol := pol, tag := s.now, lo := s.fWas F.RSV_AMP.lo p r, hi := s.fWas F.RSV_AMP.hi p r,
                                                sin := none, cos := none, flags := 0, open_ := true }
    let smp (n : Nat) : Samp := { n := n, diff := true, gain := s.f F.RSV_CTL.gain p r, tag := s.now }
    let s2 := s1.setSh p a { st := 1, smp := smp (s.f F.RSV_CTL.in_sin p r), rsv := some (r, true), heldAt := s.clk.raw }
    let s3 := s2.setSh p b { st := 1, smp := smp (s.f F.RSV_CTL.in_cos p r), rsv := some (r, false), heldAt := s.clk.raw }
    (s3.sarNext p (a / 2)).sarNext p (b / 2)

/-- RESOLVER_HOLD at the channel's next instant, where the peak there has polarity `pol` (R92, log 110). -/
def State.rsvHold (s : State) (p r : Nat) (pol : Bool) : State :=
  let due := s.rsvDue p r (max (s.rsvc p r).next (max (s.rsvc p r).start s.clk.raw))
  if s.bit F.RSV_STAT.run p r && due.2 == pol then s.inRaw due.1 fun s => s.rsvTake p r pol else s

/-! ### Conversions -/

/-- The sample-and-hold of SAR `k` in a stage. -/
def State.sarAt (s : State) (p k st : Nat) : Option Nat := [2 * k, 2 * k + 1].find? fun h => (s.sh p h).st == st

/-- A conversion of sample-and-hold `h` has ended: the over-range test; a reconversion, or the final result (R75, R76). -/
def State.convDone (s : State) (p h : Nat) (c : BitVec 16) : State :=
  let q := s.sh p h
  match q.rsv with
  | some (r, isSin) => s.rsvDone p h r isSin c
  | none =>
    if endOfScale q.smp.diff c then
      let s1 := (s.putNbit .ADC_EVT_0 q.smp.n true p).inc F.ADC_CNT.ovr_cnt p
      if s1.reconOk p h then
        (s1.setSh p h { q with st := 3, at_ := s.clk.raw, smp := { q.smp with gain := q.smp.gain - 1 } }).sarBusy p
      else s1.entryDone p h c 3
    else s.entryDone p h c 0

/-- CONVERSION_END of SAR `k`, 166.7 ns after its start (R66). -/
def State.convEnd (s : State) (p k : Nat) (c : BitVec 16) : State :=
  match s.sarAt p k 2 with
  | none => s
  | some h => s.atRaw ((s.sh p h).at_ + 167) fun s => s.convDone p h c

/-- RECONVERSION_END, 175 ns after its start: flagged ovr and recon, and clamp if it over-ranges again (R66, R76). -/
def State.reconEnd (s : State) (p k : Nat) (c : BitVec 16) : State :=
  match s.sarAt p k 3 with
  | none => s
  | some h => s.atRaw ((s.sh p h).at_ + 175) fun s => s.entryDone p h c (if endOfScale (s.sh p h).smp.diff c then 7 else 5)

/-! ### The sample router -/

/-- The voltage of a code as FP32 (R65, R78): code × FS / 65,536 or 32,768, rounded once (log 36). -/
def Samp.vraw (m : Samp) : Word :=
  if m.kind = 1 then ratWord m.raw m.den else ratWord (m.raw * 33) (10 * 2 ^ m.gain * (if m.diff then 32768 else 65536))

/-- The calibrated value and whether the calibration is extrapolated or the set not valid (R78 to R80). The factor exceeds 4
where |v| > 4·lvl and |v| > FS(g_c) / 2, or the ranges are gain 1 and gain 8. -/
def Samp.calibrate (m : Samp) : Word × Bool :=
  let raw := m.vraw
  if !m.cal.on then (raw, false)
  else
    let (o, g) := if m.cal.valid then (m.cal.ofs, m.cal.gain) else (0, 0x3F800000)
    let v := fmulW (fsubW raw o) g
    let beyondFs := if m.kind = 1 then absGt v 1 2 else absGt v 33 (20 * 2 ^ m.cal.range)
    let lvl4 := fmulW m.cal.lvl 0x40800000
    let far := m.kind != 1 && ((m.gain == 0 && m.cal.range == 3) || (m.gain == 3 && m.cal.range == 0))
    let x := far || (beyondFs && ltW lvl4 (absW v))
    (v, !m.cal.valid || x)

/-- A sample's result group and stickies are written in one tick (R82, R83); the sticky cal_x is set with the sample's flag, for a set
that is not valid too (R80, log 127). -/
def State.writeResult (s : State) (p : Nat) (m : Samp) (v : Word) (flags : Nat) (x : Bool) : State :=
  if m.kind = 1 then
    let s1 := ((s.wr .SDM_RES (BitVec.ofInt 32 m.raw) p m.n).wr .SDM_RES_V v p m.n).setPair .SDM_RES_TAG_LO .SDM_RES_TAG_HI m.tag p m.n
    s1.setIf x F.SDM_STAT.cal_x p m.n
  else
    let s1 := ((((s.put F.ADC_RES.code m.code p m.n).put F.ADC_RES.range m.gain p m.n).put F.ADC_RES.flags flags p m.n).put
      F.ADC_RES.cal_set m.cal.set p m.n).setb F.ADC_RES.new p m.n
    let s2 := (s1.wr .ADC_RES_V v p m.n).setPair .ADC_RES_TAG_LO .ADC_RES_TAG_HI m.tag p m.n
    let s3 := if x then s2.putNbit .ADC_EVT_0 (16 + m.n) true p else s2
    let s4 := if flags.testBit 4 then s3.putNbit .ADC_EVT_2 m.n true p else s3
    if flags.testBit 1 then s4.putNbit .ADC_EVT_2 (16 + m.n) true p else s4

/-- SAMPLE_ROUTER_DELIVERY: the oldest sample on its way reaches its result registers and the input slot that its input was bound to
when it was taken (R70, R71, R78 to R82, R241). -/
def State.routerDeliver (s : State) (p : Nat) : State :=
  match (s.acq p).out with
  | [] => s
  | m :: rest =>
    let s0 := s.updAcq p fun q => { q with out := rest }
    if m.kind = 2 then
      if SMap.get false (s0.acq p).got m.n then
        s0.slotIn p m.axis m.leIn (s0.rd .ADC_RES_V p m.n) (s0.f F.ADC_RES.flags p m.n ||| 8) m.tag
      else s0.slotIn p m.axis m.leIn 0 8 m.tag
    else
      let (v, x) := m.calibrate
      let late := m.kind == 0 && decide (m.due < s.clk.raw)
      let flags := m.flags ||| (if late then 16 else 0) ||| (if x then 32 else 0)
      let s1 := s0.writeResult p m v flags x
      if m.kind = 1 then
        if m.toSlot then s1.slotIn p m.axis m.leIn v flags m.tag else s1
      else (s1.updAcq p fun q => { q with got := q.got.set false m.n true }).slotIn p m.axis m.leIn v flags m.tag

/-! ### Self-calibration -/

/-- SELFCAL (R77). False for an error response, which is entered in no log. -/
def State.selfcalStart (s : State) (p : Nat) : State × Bool :=
  if (List.range 6).any (fun a => s.axSt p a == 2 || s.axSt p a == 3 || s.axSt p a == 4) || s.bit F.ADC_STATUS.cal_busy p ||
      s.bit F.CMP_GSTAT.rdbk_busy p then (s.setb F.ADC_STATUS.refused p, false)
  else (s.setb F.ADC_STATUS.cal_busy p, true)

/-- SELFCAL_DONE (R77). -/
def State.selfcalEnd (s : State) (p : Nat) (ok : Bool) : State :=
  if s.bit F.ADC_STATUS.cal_busy p then
    ((s.clrb F.ADC_STATUS.cal_busy p).putb F.ADC_STATUS.cal_ok ok p).putb F.ADC_STATUS.cal_fail (!ok) p
  else s

/-! ### Calibration sets -/

/-- The axis a calibration set's input or channel is bound to. -/
def State.calAxis (s : State) (p : Nat) (sdm : Bool) (k : Nat) : Nat :=
  if sdm then s.f F.SDM_CH.axis p (k / 4) else s.ainAxis p (k / 4)

/-- The axis is CLOSED, so calibration is locked (R81). -/
def State.calLocked (s : State) (p a : Nat) : Bool := !s.img.ctlr && decide (a < 6) && s.axSt p a == 4

/-- A write to a word of calibration set `k` (input or channel k / 4): words 0 to 2 are staged, word 3 commits all (R81). -/
def State.calWrite (s : State) (p : Nat) (sdm : Bool) (k w : Nat) (v : Word) : State × Wr :=
  if s.calLocked p (s.calAxis p sdm k) then (s, .viol 5)
  else
    let key (w : Nat) := (2 * k + sdm.toNat) * 4 + w
    let regs : List RegName := if sdm then [.SDM_CAL_OFS, .SDM_CAL_GAIN, .SDM_CAL_LVL] else [.ADC_CAL_OFS, .ADC_CAL_GAIN, .ADC_CAL_LVL]
    if w < 3 then
      (s.updAcq p fun q => { q with staged := q.staged.set none (key w) (some (if w = 2 then absW v else v)) }, .ok)
    else
      let cfg : RegName := if sdm then .SDM_CAL_CFG else .ADC_CAL_CFG
      let s1 := [0, 1, 2].foldl (fun s w =>
        match SMap.get none (s.acq p).staged (key w) with
        | some v =>
          let r := regs.getD w .ADC_CAL_OFS
          ((s.keepWas r p k 0).wr r v p k).updAcq p fun q => { q with staged := q.staged.set none (key w) none }
        | none => s) s
      ((s1.keepWas cfg p k 0).wr cfg (cfg.row.write 0 v) p k, .ok)

/-! ### Sigma-delta channels -/

/-- A sigma-delta channel. -/
def State.sdmc (s : State) (p n : Nat) : Sdm := SMap.get {} (s.acq p).sdm n

/-- Set a sigma-delta channel. -/
def State.setSdmc (s : State) (p n : Nat) (k : Sdm) : State := s.updAcq p fun q => { q with sdm := q.sdm.set {} n k }

/-- The order of the main decimator. -/
def State.sdmN (s : State) (p n : Nat) : Nat := max 1 (s.f F.SDM_FLT.order p n)

/-- Settling starts again: the first N − 1 outputs are unsettled (R87). -/
def State.unsettle (s : State) (p n : Nat) : State :=
  (s.setSdmc p n { s.sdmc p n with outs := 0 }).putb F.SDM_STAT.unsettled (decide (1 < s.sdmN p n)) p n

/-- The sums of each run of `n` successive elements, from a running sum. -/
def movingFrom (acc : Int) : List Int → List Int → List Int
  | x :: xs, y :: ys => (acc + x) :: movingFrom (acc + x - y) xs ys
  | _, _ => []

/-- Each sum of `n` successive elements of a list. -/
def movingSum (n : Nat) (xs : List Int) : List Int := movingFrom (xs.take (n - 1)).sum (xs.drop (n - 1)) xs

/-- The sinc output of order `k` and ratio `n` over a window of data bits: 1 counts +1, 0 counts −1 (R86). -/
def sincOut (k n : Nat) (bits : List Bool) : Int :=
  ((List.range k).foldl (fun xs _ => movingSum n xs) (bits.map fun b => if b then 1 else -1)).headD 0

/-- The length of a sinc window (R86). -/
def sincLen (k n : Nat) : Nat := k * (n - 1) + 1

/-- The first edge of the 100 MHz modulator clock at or after raw tick `b` (R88). -/
def sdmEdge (b : Nat) : Nat := b + (Config.sdmPhase % 10 + 10 - b % 10) % 10

/-- The modulator clock period of a channel in ticks (R84). -/
def State.sdmClk (s : State) (p n : Nat) : Nat := 10 * s.f F.SDM_CH.clk_div p n

/-- The source whose boundaries a synchronised channel follows; 7 is as 6. -/
def State.sdmSrc (s : State) (p n : Nat) : Nat := min 6 (s.f F.SDM_CH.src p n)

/-- The raw tick at which window `j` of a synchronised channel ends: the reference edge + off + j × OSR clocks (R88). -/
def State.sdmWindow (s : State) (p n : Nat) : Nat :=
  (s.sdmc p n).ref + (s.f F.SDM_OFF.off p n + (s.sdmc p n).j * s.f F.SDM_FLT.osr p n) * s.sdmClk p n

/-- An output leaves for the router with tag `t` (R86, R87, R90). -/
def State.sdmOut (s : State) (p n : Nat) (bits : List Bool) (t : Tag) (slot : Bool) : State :=
  let k := s.sdmc p n
  let ord := s.sdmN p n
  let osr := s.f F.SDM_FLT.osr p n
  let flags := (if k.outs + 1 < ord then 64 else 0) + (if s.bit F.SDM_STAT.stuck p n then 128 else 0)
  let smp : Samp := { kind := 1, n := n, raw := sincOut ord osr bits, den := osr ^ ord, tag := t, flags := flags, cal := s.calSdm p n,
                      toSlot := slot, axis := s.f F.SDM_CH.axis p n, leIn := s.f F.SDM_CH.le_in p n }
  let s1 := s.updAcq p fun q => { q with out := q.out ++ [smp] }
  (s1.setSdmc p n { k with outs := min (k.outs + 1) 3, j := k.j + 1 }).putb F.SDM_STAT.unsettled (decide (k.outs + 2 < ord)) p n

/-- DECIMATOR_OUTPUT over the window's bits (R86 to R88): a synchronised channel's at the end of its next window, and to the input slot
the one whose window ends at the reference edge of a period + off. -/
def State.decimOut (s : State) (p n : Nat) (bits : List Bool) : State :=
  let k := s.sdmc p n
  if !s.bit F.SDM_CH.en p n then s
  else if s.bit F.SDM_CH.sync p n then
    if k.clk then
      let t := s.sdmWindow p n
      let off := s.f F.SDM_OFF.off p n * s.sdmClk p n
      s.atRaw t fun s =>
        s.sdmOut p n bits (if s.bit F.PWM_STATUS.clk_ok p then s.tagOf t else s.fieldNow p) (t == k.edge + off || t == k.edge0 + off)
    else s
  else s.sdmOut p n bits (s.fieldNow p) true

/-- The level of a fast path at the muzzle (R89, R201). -/
def State.fastLevel (s : State) (p n : Nat) (on : Bool) : State :=
  let was := s.nbit .MUZ_LIVE n p 1
  let s1 := s.putNbit .MUZ_LIVE n on p 1
  if on && !was then s1.srcPulse p (32 + n) (s1.fieldNow p) else s1

/-- FAST_PATH_OUTPUT (R89): a threshold itself does not count, nor does an unsettled output; f_cnt + 1 consecutive outputs
beyond trip, and the source stays asserted while outputs stay beyond (log 37). -/
def State.fastOut (s : State) (p n : Nat) (bits : List Bool) : State :=
  if !s.bit F.SDM_CH.en p n || !s.bit F.SDM_FLT.f_en p n then s
  else
    let k := s.sdmc p n
    let m := max 1 (s.f F.SDM_FLT.f_order p n)
    let r := s.f F.SDM_FLT.f_osr p n
    let v := sincOut m r bits * 32768
    let sc : Int := (r ^ m : Nat)
    let hi := (BitVec.ofNat 16 (s.f F.SDM_FTHR.f_hi p n)).toInt * sc
    let lo := (BitVec.ofNat 16 (s.f F.SDM_FTHR.f_lo p n)).toInt * sc
    let out := decide (m ≤ k.fast + 1) && decide (hi < v ∨ v < lo)
    let need := s.f F.SDM_FLT.f_cnt p n + 1
    let b := if out then min (k.beyond + 1) 9 else 0
    let s1 := s.setSdmc p n { k with fast := min (k.fast + 1) 3, beyond := b }
    let s2 := if b = need then (s1.setb F.SDM_STAT.f_trip p n).inc F.SDM_STAT.f_trip_cnt p n else s1
    s2.fastLevel p n (decide (need ≤ b))

/-- A channel is enabled: clock, decimator and fast path start unsettled (R87, R88); with sync = 1 the modulator clock starts
when the axis is armed. -/
def State.sdmOn (s : State) (p n : Nat) : State :=
  (s.setSdmc p n { clk := !s.bit F.SDM_CH.sync p n }).unsettle p n

/-- A channel is disabled. -/
def State.sdmOff (s : State) (p n : Nat) : State := (s.setSdmc p n {}).fastLevel p n false

/-- off of a synchronised channel beyond the period is clamped, with cfg_clamp (R88). -/
def State.sdmOffClamp (s : State) (p n : Nat) : State :=
  let (_, per) := s.srcTime p (s.sdmSrc p n)
  let q := per / s.sdmClk p n
  if 0 < q ∧ q ≤ s.f F.SDM_OFF.off p n then (s.put F.SDM_OFF.off (q - 1) p n).setb F.SDM_STAT.cfg_clamp p n else s

/-- At a boundary of its source a synchronised channel takes a new reference edge: its clock starts, or its decimator is aligned anew
(R87, R88). -/
def State.sdmStart (s : State) (p n : Nat) : State :=
  let e := sdmEdge s.clk.raw
  ((s.sdmOffClamp p n).setSdmc p n { s.sdmc p n with clk := true, wait := false, j := 0, ref := e, edge := e, edge0 := e }).unsettle p n

/-- A boundary of source `src` stands in this tick. -/
def State.srcHere (s : State) (p src : Nat) : Bool :=
  (s.srcTime p src).1 == s.clk.raw && (if src < 6 then s.bit F.PWM_SET_STAT.cnt_run p src else (s.pset p 6).on)

/-- The modulator clocks of an axis's synchronised channels start when it is armed: each at the first boundary of its source from here
on (R88). -/
def State.sdmArm (s : State) (p a : Nat) : State :=
  (List.range 8).foldl (fun s n =>
    if s.bit F.SDM_CH.en p n && s.bit F.SDM_CH.sync p n && s.f F.SDM_CH.axis p n == a then
      if s.srcHere p (s.sdmSrc p n) then s.sdmStart p n else s.setSdmc p n { s.sdmc p n with wait := true }
    else s) s

/-- At a boundary of source `src`: a channel that waits for it starts; one whose reference edge does not fall where a whole number
of output intervals places it is realigned (R88). -/
def State.sdmBoundary (s : State) (p src : Nat) : State :=
  (List.range 8).foldl (fun s n =>
    let k := s.sdmc p n
    if !s.bit F.SDM_CH.en p n || !s.bit F.SDM_CH.sync p n || s.sdmSrc p n != src then s
    else if k.wait then s.sdmStart p n
    else if k.clk then
      let e := sdmEdge s.clk.raw
      if (e - k.ref) % (s.f F.SDM_FLT.osr p n * s.sdmClk p n) = 0 then
        (s.sdmOffClamp p n).setSdmc p n { k with edge := e, edge0 := if k.edge = e then k.edge0 else k.edge }
      else (s.sdmStart p n).setb F.SDM_STAT.sync_err p n
    else s) s

/-- MODULATOR_STUCK: 64 equal data bits (R90). -/
def State.stuck (s : State) (p n : Nat) : State :=
  if !s.bit F.SDM_CH.en p n || s.bit F.SDM_STAT.stuck p n then s
  else
    let s1 := (s.setb F.SDM_STAT.stuck p n).setb F.SDM_STAT.stuck_seen p n
    s1.alarm [(s1.boundOwner p (s1.f F.SDM_CH.axis p n)).ten] 8 (16 * p + n) 1 0 0 s1.now

/-- STUCK_CLEAR: the first differing bit (R87, R90). -/
def State.unstick (s : State) (p n : Nat) : State :=
  if s.bit F.SDM_STAT.stuck p n then (s.clrb F.SDM_STAT.stuck p n).unsettle p n else s

/-! ### Boundaries and arming -/

/-- The period counts of entries and checks go on at a boundary of their source (R67, R195). -/
def State.acqCount (s : State) (p src : Nat) : State :=
  let up (m : SMap Nat) (k : Nat) : SMap Nat := m.set 0 k (SMap.get 0 m k + 1)
  let ents := (List.range 32).filter fun e => s.bit F.ADC_ENT_CTL.en p e && s.f F.ADC_ENT_CTL.src p e == src
  let chks := (List.range 16).filter fun n => s.bit F.CMP_CHK.en p n && s.f F.CMP_CHK.src p n == src
  let arms := ((List.range 6).map (7 * · + src)).filter fun k => SMap.get 0 (s.acq p).arm k != 0
  s.updAcq p fun q => { q with ent := ents.foldl up q.ent, chk := chks.foldl up q.chk, arm := arms.foldl up q.arm }

/-- At a boundary of a source the offsets of its entries and checks are checked against the period now in force (R68, R195), and
synchronised decimators against their reference edges (R88). -/
def State.acqCheck (s : State) (p src : Nat) : State :=
  let (_, per) := s.srcTime p src
  let bad := (List.range 32).any fun e => s.bit F.ADC_ENT_CTL.en p e && s.f F.ADC_ENT_CTL.src p e == src &&
    decide (per ≤ s.f F.ADC_ENT_HOLD.hold p e ∨ per < s.f F.ADC_ENT_DUE.due p e)
  let s1 := (s.setIf bad F.ADC_STATUS.cfg_clamp p).sdmBoundary p src
  (List.range 16).foldl (fun s n => if s.bit F.CMP_CHK.en p n && s.f F.CMP_CHK.src p n == src then s.chkClamp p n else s) s1

/-- The counts of a source's periods start again from period 0 (R183). -/
def State.countsRestart (s : State) (p src : Nat) : State :=
  let zero (v : Nat) (m : SMap Nat) (k : Nat) : SMap Nat := m.set 0 k v
  let ents := (List.range 32).filter fun e => s.f F.ADC_ENT_CTL.src p e == src
  let chks := (List.range 16).filter fun n => s.f F.CMP_CHK.src p n == src
  let arms := ((List.range 6).map (7 * · + src)).filter fun k => SMap.get 0 (s.acq p).arm k != 0
  s.updAcq p fun q => { q with ent := ents.foldl (zero 0) q.ent, chk := chks.foldl (zero 0) q.chk, arm := arms.foldl (zero 1) q.arm }

/-- An axis is armed: for each source the first boundary from here on is period 0, the one of this tick with it (R67), its inputs have
delivered nothing, auto-range starts anew (R74). -/
def State.acqArm (s : State) (p a : Nat) : State :=
  let s1 := s.updAcq p fun q => { q with arm := (List.range 7).foldl (fun m src => m.set 0 (7 * a + src) (1 + (s.srcHere p src).toNat)) q.arm }
  let s2 := (List.range 16).foldl (fun s n =>
    if s.ainAxis p n == a then
      let s1 := s.updAcq p fun q => { q with got := q.got.set false n false }
      if s1.bit F.ADC_IN.auto p n then s1.firstGain p n else s1
    else s) s1
  s2.sdmArm p a

/-! ### Register writes -/

/-- Clamp a number into a range, with whether it was outside. -/
def clampTo (lo hi n : Nat) : Nat × Bool := (max lo (min n hi), n < lo || hi < n)

/-- A write to an ADC register (R15, R63, R73, R74, R77, R81); an entry's periods count from its enable, or from a change of its source
while it is enabled (R67, log 126). -/
def State.hookAdc (s : State) (r : RegName) (p i : Nat) (v : Word) : State × Wr :=
  let plain : State × Wr := (s.wr r (r.row.write (s.rd r p i) v) p i, .ok)
  let axLock (n : Nat) : Bool := s.ainAxis p n < 6 && s.axLk p (s.ainAxis p n)
  match r with
  | .ADC_CTL =>
    if v.getLsbD 0 then
      let (s1, good) := s.selfcalStart p
      (s1, if good then .ok else .err)
    else (s, .ok)
  | .ADC_ROUTE =>
    if axLock i || axLock (i - i % 2) then (s, .viol 4)
    else
      let v1 := if i % 2 = 1 then v &&& 0xFFFFFFFE else v
      (s.wr r (r.row.write (s.rd r p i) v1) p i, .ok)
  | .ADC_ENT_CTL =>
    if axLock (s.f F.ADC_ENT_CTL.input p i) then (s, .viol 4)
    else if v.getLsbD 0 && (!s.bit F.ADC_ENT_CTL.en p i || F.ADC_ENT_CTL.src.get v != s.f F.ADC_ENT_CTL.src p i) then
      (plain.1.updAcq p fun q => { q with ent := q.ent.set 0 i 0 }, .ok)
    else plain
  | .ADC_ENT_HOLD => if axLock (s.f F.ADC_ENT_CTL.input p i) then (s, .viol 4) else plain
  | .ADC_ENT_DUE => if axLock (s.f F.ADC_ENT_CTL.input p i) then (s, .viol 4) else plain
  | .ADC_IN =>
    if s.calLocked p (s.ainAxis p i) && (v ^^^ s.rd .ADC_IN p i) &&& 0xF00 != 0 then (s, .viol 5)
    else
      let s1 := (s.keepWas r p i 0).wr r (r.row.write (s.rd r p i) v) p i
      (if v.getLsbD 0 && !s.bit F.ADC_IN.auto p i then s1.firstGain p i else s1, .ok)
  | .ADC_CAL_OFS => s.calWrite p false i 0 v
  | .ADC_CAL_GAIN => s.calWrite p false i 1 v
  | .ADC_CAL_LVL => s.calWrite p false i 2 v
  | .ADC_CAL_CFG => s.calWrite p false i 3 v
  | _ => plain

/-- A write to an SDM register (R15, R81, R84 to R90). -/
def State.hookSdm (s : State) (r : RegName) (p i : Nat) (v : Word) : State × Wr :=
  let a := s.f F.SDM_CH.axis p i
  let locked := a < 6 && s.axLk p a
  match r with
  | .SDM_CH =>
    if locked then (s, .viol 4)
    else
      let (d, c1) := clampTo 4 100 (F.SDM_CH.clk_div.get v)
      let (y, c2) := clampTo 0 (d - 1) (F.SDM_CH.cap_dly.get v)
      let was := s.bit F.SDM_CH.en p i
      let s1 := (((s.wr r (r.row.write 0 v) p i).put F.SDM_CH.clk_div d p i).put F.SDM_CH.cap_dly y p i).setIf (c1 || c2)
        F.SDM_STAT.cfg_clamp p i
      let on := v.getLsbD 0
      (if on && !was then s1.sdmOn p i else if !on && was then s1.sdmOff p i else s1, .ok)
  | .SDM_FLT =>
    if locked then (s, .viol 4)
    else
      let (n, c1) := clampTo 1 3 (F.SDM_FLT.order.get v)
      let (o, c2) := clampTo 16 256 (F.SDM_FLT.osr.get v)
      let (m, c3) := clampTo 1 3 (F.SDM_FLT.f_order.get v)
      let (q, c4) := clampTo 8 32 (F.SDM_FLT.f_osr.get v)
      let s1 := ((((s.wr r (r.row.write 0 v) p i).put F.SDM_FLT.order n p i).put F.SDM_FLT.osr o p i).put F.SDM_FLT.f_order m p i).put
        F.SDM_FLT.f_osr q p i
      (s1.setIf (c1 || c2 || c3 || c4) F.SDM_STAT.cfg_clamp p i, .ok)
  | .SDM_OFF => if locked then (s, .viol 4) else (s.wr r (r.row.write 0 v) p i, .ok)
  | .SDM_FTHR => if locked then (s, .viol 4) else (s.wr r (r.row.write 0 v) p i, .ok)
  | .SDM_CALSEL => if s.calLocked p a then (s, .viol 5) else ((s.keepWas r p i 0).wr r (r.row.write 0 v) p i, .ok)
  | .SDM_CAL_OFS => s.calWrite p true i 0 v
  | .SDM_CAL_GAIN => s.calWrite p true i 1 v
  | .SDM_CAL_LVL => s.calWrite p true i 2 v
  | .SDM_CAL_CFG => s.calWrite p true i 3 v
  | _ => (s.wr r (r.row.write (s.rd r p i) v) p i, .ok)

/-- A write to an RSV register (R15, R91 to R94). -/
def State.hookRsv (s : State) (r : RegName) (p i j : Nat) (v : Word) : State × Wr :=
  let a := s.f F.RSV_CTL.axis p i
  let locked := a < 6 && s.axLk p a
  match r with
  | .RSV_CTL =>
    if locked then (s, .viol 4)
    else
      let odd := (F.RSV_CTL.in_sin.get v) % 2 = 1 || (F.RSV_CTL.in_cos.get v) % 2 = 1
      let was := s.bit F.RSV_CTL.en p i
      let v1 := v &&& 0xFFFFFFDD
      let s1 := (s.wr r (r.row.write 0 v1) p i).setIf odd F.RSV_STAT.cfg_clamp p i
      if v.getLsbD 0 && !was then
        (((s1.setb F.RSV_STAT.run p i).setPair .RSV_START_LO .RSV_START_HI (s1.ticks 1).now p i).setRsvc p i
          { s1.rsvc p i with start := s1.clk.raw + 1, next := 0 }, .ok)
      else if !v.getLsbD 0 then (s1.clrb F.RSV_STAT.run p i, .ok)
      else (s1, .ok)
  | .RSV_EXC =>
    if locked then (s, .viol 4)
    else
      let (d, c) := clampTo 782 3906 (F.RSV_EXC.exc_div.get v)
      (((s.wr r (r.row.write 0 v) p i).put F.RSV_EXC.exc_div d p i).setIf c F.RSV_STAT.cfg_clamp p i, .ok)
  | .RSV_PH =>
    if locked then (s, .viol 4)
    else
      let (h, c) := clampTo 0 (64 * s.f F.RSV_EXC.exc_div p i - 1) (F.RSV_PH.ph.get v)
      ((s.put F.RSV_PH.ph h p i).setIf c F.RSV_STAT.cfg_clamp p i, .ok)
  | .RSV_AMP => ((s.keepWas r p i 0).wr r (r.row.write 0 v) p i, .ok)
  | _ => (s.wr r (r.row.write (s.rd r p i j) v) p i j, .ok)

end Sys2Proof.Machine
end

