-- ==== Sys2Proof/Machine/Position.lean ====
section
/-! DEFINITION. Position and speed feedback: edges, Hall and quadrature counting, index capture, speed, latches, pin
diagnostics, sensor supplies and encoder emulation (R95 to R124). -/

namespace Sys2Proof.Machine

/-- A position interface. -/
def State.pos (s : State) (p i : Nat) : Pos := s.poss.get {} (8 * p + i)

/-- Change a position interface. -/
def State.updPos (s : State) (p i : Nat) (f : Pos → Pos) : State := { s with poss := s.poss.set {} (8 * p + i) (f (s.pos p i)) }

/-- The owner of an interface: its axis's, otherwise the pack's. -/
def State.posOwner (s : State) (p i : Nat) : Owner := s.boundOwner p (s.f F.POS_CFG.axis p i)

/-- An alarm of an interface (kind 9): 1 invalid Hall state, 2 index slip, 3 pin diagnostic. -/
def State.posAlarm (s : State) (p i code : Nat) (t : Tag) : State :=
  s.alarm [(s.posOwner p i).ten] 9 (6 * p + i) code (s.rd .POS_STAT p i) (s.rd .POS_DSTAT p i) t

/-- The levels at the decoder: the pins, inverted with inv (R97). -/
def State.posLevels (s : State) (p i : Nat) : Nat :=
  (if s.bit F.POS_CFG.inv p i then ~~~(s.pos p i).pins else (s.pos p i).pins).toNat

/-- The speed edge history is cleared, and the speed reads zero while it holds fewer than two edges (R100, R103, R110, R113, R117). -/
def State.histClear (s : State) (p i : Nat) : State :=
  (s.wr .POS_SPD 0 p i).updPos p i fun k => { k with hist := [], pre := none, win := k.win.map fun e => (e.1, e.2.1, false) }

/-- Standstill begins; it ends at the second counted edge afterwards (R113). -/
def State.setStill (s : State) (p i : Nat) : State :=
  (s.setb F.POS_STAT.still p i).updPos p i fun k => { k with edges := 0, last := none }

/-- The sector of a Hall state; states 0 and 7, and map entries 6 and 7, are invalid (R98, R99). -/
def hallSector (map st : Nat) : Option Nat :=
  if st = 0 ∨ 7 ≤ st then none
  else
    let v := map / 8 ^ (st - 1) % 8
    if 6 ≤ v then none else some v

/-- The sector and sect_valid are taken from the present levels without comparison (R96, R97). -/
def State.sectorFromLevels (s : State) (p i : Nat) : State :=
  let st := s.posLevels p i
  let s1 := s.put F.POS_SECT.levels st p i
  if s.f F.POS_CFG.mode p i = 1 then
    match hallSector (s.f F.POS_HMAP.map p i) st with
    | some v => ((s1.put F.POS_SECT.sector v p i).setb F.POS_SECT.sect_valid p i).updPos p i fun k => { k with hallOk := true }
    | none => s1.clrb F.POS_SECT.sect_valid p i
  else s1

/-- One counted edge (R98, R102, R104, R113, R114): the counter and its wraps, the history, direction and standstill. The first
counted edge since the mode was set, which has no edge before it to differ from, sets no dir_chg (log 128). -/
def State.countEdge (s : State) (p i : Nat) (fwd : Bool) (t : Tag) : State :=
  let up := fwd != s.bit F.POS_CFG.dir_inv p i
  let c := s.rd .POS_CNT p i
  let c' := if up then c + 1 else c - 1
  let w := s.rd .POS_WRAP p i
  let s1 := s.wr .POS_CNT c' p i
  let s2 :=
    if up && c' == 0 then
      let s2 := s1.setb F.POS_STAT.wrap_up p i
      if w = 0x7FFFFFFF then s2.setb F.POS_STAT.wrap_sat p i else s2.wr .POS_WRAP (w + 1) p i
    else if !up && c == 0 then
      let s2 := s1.setb F.POS_STAT.wrap_dn p i
      if w = 0x80000001 then s2.setb F.POS_STAT.wrap_sat p i else s2.wr .POS_WRAP (w - 1) p i
    else s1
  let k := s.pos p i
  let chg := k.known && s.bit F.POS_STAT.dir p i != !up
  let s3 := (((s2.setIf chg F.POS_STAT.dir_chg p i).putb F.POS_STAT.dir (!up) p i).setPair .POS_ETAG_LO .POS_ETAG_HI t p i).updPos
    p i fun k => { k with hist := ((t, c') :: k.hist).take 64, win := (t, c', true) :: k.win, known := true,
                          fl := if chg then k.fl ||| 32 else k.fl, edges := min (k.edges + 1) 2, last := some t }
  if 2 ≤ (s3.pos p i).edges then s3.clrb F.POS_STAT.still p i else s3

/-! ### Speed and latch -/

/-- A rational number of counts per second. -/
abbrev Rat2 := Int × Nat

/-- Counts over a tag difference: 16·10^9 tag units are one second. The denominator is zero for edges of one tag. -/
def rate (c1 c0 : Word) (t1 t0 : Tag) : Rat2 := ((c1 - c0).toInt * 16000000000, (t1 - t0).toNat)

/-- The period speed (R110) over a history, newest first. -/
def periodSpeed (span : Nat) (h : List (Tag × Word)) : Rat2 :=
  let n := min span (h.length - 1)
  match h, h.getD n (0, 0) with
  | (t1, c1) :: _, (t0, c0) => if n = 0 then (0, 1) else rate c1 c0 t1 t0
  | [], _ => (0, 1)

/-- The reported speed at a latch (R110 to R112), exact: the blend of period and window speed, bounded by 1 / E, with the sign
of the last counted edge. With 64 edges or more in the window the history of 64 holds none before it. A zero denominator (two edges of one tag) is a speed that the spec does not state (log 38). -/
def latchSpeed (span lo hi : Nat) (h : List (Tag × Word)) (win : List (Tag × Word × Bool)) (pre : Option (Tag × Word))
    (l : Tag) (rev : Bool) : Rat2 :=
  if h.length < 2 then (0, 1)
  else
    let (sn, sd) := periodSpeed span h
    let alive := win.filter (·.2.2)
    let mt : Option Rat2 := match alive with
      | [] => none
      | (t1, c1, _) :: rest =>
        match if alive.length < 64 then pre else none with
        | some (t0, c0) => some (rate c1 c0 t1 t0)
        | none => match rest.getLast? with
          | some (t0, c0, _) => some (rate c1 c0 t1 t0)
          | none => none
    let c := win.length
    let v : Rat2 := match mt with
      | none => (sn, sd)
      | some (mn, md) =>
        let wn := min (c - lo) (hi - lo)
        let wd := hi - lo
        if wn = 0 then (sn, sd) else if wn = wd then (mn, md) else ((wd - wn : Nat) * sn * md + (wn : Nat) * mn * sd, wd * sd * md)
    let mag := v.1.natAbs
    let (bn, bd) := match h with
      | (t1, _) :: _ => if Tag.after l t1 then
          let e := (l - t1).toNat
          if v.2 = 0 || mag * e < 16000000000 * v.2 then (mag, v.2) else (16000000000, e)
        else (mag, v.2)
      | [] => (mag, v.2)
    (if rev then -(bn : Int) else bn, bd)

/-- The position fraction of R116 in [0, 1), rounded to nearest and never to 1.0 (log 38). -/
def State.posFraction (s : State) (p i : Nat) (cnt : Word) : Word :=
  let pitch := (s.rd .POS_PITCH p i).toNat
  let r := ((cnt.toNat : Int) - (s.rd .POS_REF p i).toNat) % (pitch : Int)
  let w := ratWord r pitch
  if w = 0x3F800000 then 0x3F7FFFFF else w

/-- The source of an interface's latch: its axis's phase set, or the base period (R115). -/
def State.latchSrc (s : State) (p i : Nat) : Nat :=
  let a := s.f F.POS_CFG.axis p i
  if a < 6 then (s.setOfAxis p a).getD 6 else 6

/-- What an interface gives at a latch instant `l`, of whose time every edge has been counted: counter, speed, flag byte and the edges
of the window, which ends here (R110 to R112, R115, R116). -/
def State.latchEval (s : State) (p i : Nat) (l : Tag) : State × (Word × Word × Nat × Nat) :=
  let k := s.pos p i
  let (n, d) := latchSpeed (s.f F.POS_SPDCFG.t_span p i) (s.f F.POS_SPDCFG.mt_lo p i) (s.f F.POS_SPDCFG.mt_hi p i) k.hist k.win k.pre
    l (s.bit F.POS_STAT.dir p i)
  let (s0, spd) := if d = 0 then s.fresh else (s, ratWord n d)
  let flags := k.fl + (if s.f F.POS_CFG.mode p i = 1 && !s.bit F.POS_SECT.sect_valid p i then 1 else 0) +
    (if s.bit F.POS_STAT.dir p i then 16 else 0) + (if s.bit F.POS_STAT.still p i then 64 else 0) +
    (if s.f F.POS_DSTAT.live p i != 0 then 128 else 0)
  let pre := match k.win.filter (·.2.2) with
    | (t, c, _) :: _ => some (t, c)
    | [] => k.pre
  (s0.updPos p i fun k => { k with win := [], pre := pre, fl := 0 }, s.rd .POS_CNT p i, spd, flags, k.win.length)

/-- Something of tag `t` comes: the latches whose instant is before it take what stands now (R115). -/
def State.posSnap (s : State) (p i : Nat) (t : Tag) : State :=
  let (s1, qs) := (s.pos p i).lq.foldl (fun (s, out) q =>
    if q.val.isNone && Tag.before q.tag t then
      let (s1, v) := s.latchEval p i q.tag
      (s1, out ++ [{ q with val := some v }])
    else (s, out ++ [q])) (s, ([] : List PLatch))
  s1.updPos p i fun k => { k with lq := qs }

/-- A boundary of source `src` sets the next latch instant of the interfaces that follow it, a lat of P or more clamped (R68, R115). -/
def State.latchQueue (s : State) (p src : Nat) : State :=
  let (bk, per) := s.srcTime p src
  (List.range 6).foldl (fun s i =>
    let mode := s.f F.POS_CFG.mode p i
    if mode = 0 ∨ 4 ≤ mode ∨ s.latchSrc p i ≠ src ∨ !s.bit F.PWM_STATUS.clk_ok p then s
    else
      let lat := s.f F.POS_LAT.lat p i
      let n := min lat (per - 1)
      (s.setIf (decide (per ≤ lat)) F.POS_STAT.cfg_clamp p i).updPos p i fun k =>
        { k with lq := k.lq ++ [{ raw := bk + n, tag := s.now + s.tickUnits n }] }) s

/-! ### Edges -/

/-- A leash event of the interface on its channel (R101). -/
def State.posEvent (s : State) (p i : Nat) (data : Byte) (t : Tag) : State :=
  if s.bit F.POS_CFG.lsh_en p i then
    s.produce (64 * p + s.f F.POS_CFG.lsh_ch p i) 1 i data t (s.posOwner p i) 49 (64 * p + s.f F.POS_CFG.lsh_ch p i)
  else s

/-- An accepted Hall state change (R98 to R101). -/
def State.hallEdge (s : State) (p i : Nat) (t : Tag) : State :=
  let st := s.posLevels p i
  let s1 := match hallSector (s.f F.POS_HMAP.map p i) st with
    | none =>
      let s1 := (s.setb F.POS_STAT.hall_inv p i).clrb F.POS_SECT.sect_valid p i
      s1.posAlarm p i 1 t
    | some v =>
      let old := s.f F.POS_SECT.sector p i
      let s1 := ((s.put F.POS_SECT.sector v p i).setb F.POS_SECT.sect_valid p i).updPos p i fun k => { k with hallOk := true }
      if !(s.pos p i).hallOk || v == old then s1
      else if v = (old + 1) % 6 then s1.countEdge p i true t
      else if v = (old + 5) % 6 then s1.countEdge p i false t
      else ((s1.setb F.POS_STAT.hall_skip p i).histClear p i).updPos p i fun k => { k with fl := k.fl ||| 2 }
  s1.posEvent p i (BitVec.ofNat 8 st) t

/-- The index error, in (−pitch/2, +pitch/2] (R107). -/
def indexErr (cap ref pitch : Nat) : Int :=
  let r := ((cap : Int) - ref) % (pitch : Int)
  if (pitch : Int) < 2 * r then r - pitch else r

/-- An accepted index (R106 to R109). The event's data byte holds a Hall state, which a quadrature index has not: its three
bits are free (log 38). -/
def State.indexEdge (s : State) (p i : Nat) (t : Tag) : State :=
  let c := s.rd .POS_CNT p i
  let s1 := ((s.wr .POS_ICAP c p i).setPair .POS_ITAG_LO .POS_ITAG_HI t p i).setb F.POS_STAT.idx_seen p i
  let learn := s.bit F.POS_IDX.learn p i && !s.bit F.POS_IDX.ref_valid p i
  let s2 := if learn then (s1.wr .POS_REF c p i).setb F.POS_IDX.ref_valid p i else s1
  let e := indexErr c.toNat (s2.rd .POS_REF p i).toNat (s2.rd .POS_PITCH p i).toNat
  let s3 := s2.wr .POS_IERR (BitVec.ofInt 32 e) p i
  let s4 :=
    if !learn && decide (s3.f F.POS_IDX.tol p i < e.natAbs) then
      let s4 := if s3.bit F.POS_STAT.idx_slip p i then s3
        else (s3.wr .POS_SCAP c p i).setPair .POS_STAG_LO .POS_STAG_HI t p i
      let s5 := ((s4.setb F.POS_STAT.idx_slip p i).inc F.POS_SCNT.slip_cnt p i).updPos p i fun k => { k with fl := k.fl ||| 4 }
      s5.posAlarm p i 2 t
    else s3
  let (s5, d) := s4.freshBelow 8
  s5.posEvent p i (BitVec.ofNat 8 d) t

/-- An accepted change of A and B in a quadrature mode, from the levels `old` (R102, R103). -/
def State.abEdge (s : State) (p i : Nat) (old : Nat) (t : Tag) : State :=
  let l := s.posLevels p i
  let a := l.testBit 0
  let b := l.testBit 1
  let ca := a != old.testBit 0
  let cb := b != old.testBit 1
  if ca && cb then ((s.setb F.POS_STAT.quad_err p i).histClear p i).updPos p i fun k => { k with fl := k.fl ||| 2 }
  else if ca then s.countEdge p i (a != b) t
  else if cb then s.countEdge p i (a == b) t
  else s

/-- An accepted change of Z at the A and B levels `ab` (R106). -/
def State.zEdge (s : State) (p i : Nat) (old ab : Nat) (t : Tag) : State :=
  let z := (s.posLevels p i).testBit 2
  if s.f F.POS_CFG.mode p i = 2 && z != old.testBit 2 && z != s.bit F.POS_IDX.z_edge p i &&
      (!s.bit F.POS_IDX.z_gate p i || (ab.testBit 0 && ab.testBit 1)) then s.indexEdge p i t
  else s

/-- The live bits that freeze a pin: open, bat or neg (R119). -/
def State.pinFrozen (s : State) (p i k : Nat) : Bool := (s.f F.POS_DSTAT.live p i / 16 ^ k) % 8 != 0

/-- diag follows the live bits. -/
def State.diagBit (s : State) (p i : Nat) : State := s.putb F.POS_STAT.diag (s.f F.POS_DSTAT.live p i != 0) p i

/-- The field pin of pin `k` of an interface (R95). -/
def fldPin (p i k : Nat) : Nat := 18 * p + 3 * i + k

/-- The logic level that a class gives a pin whose last accepted level is `acc` (R118). -/
def pinLevel (acc : Bool) : PinClass → Bool
  | .neg => false
  | .low => false
  | .open_ => acc
  | .high => true
  | .bat => true

/-- Condition `d` of a pin holds now: 0 open, 1 bat, 2 neg, 3 stuck (R119). -/
def State.condNow (s : State) (p i k d : Nat) : Bool :=
  let c := s.pinClass (fldPin p i k)
  if d = 0 then s.bit F.POS_DIAG.bias_en p i && c == .open_
  else if d = 1 then c == .bat
  else if d = 2 then c == .neg
  else s.bit F.POS_DIAG.st_en p i && decide (s.f F.POS_DIAG.st_n p i ≤ SMap.get 0 (s.pos p i).st k)

/-- A condition of R119 and the raw tick since when it stands so. -/
def State.cond (s : State) (p i k d : Nat) : Bool × Nat := SMap.get (false, 0) (s.pos p i).cond (4 * k + d)

/-- The conditions of R119 are taken again at raw tick `r`. -/
def State.posConds (s : State) (p i r : Nat) : State :=
  (List.range 12).foldl (fun s b =>
    let now := s.condNow p i (b / 4) (b % 4)
    if (s.cond p i (b / 4) (b % 4)).1 == now then s
    else s.updPos p i fun q => { q with cond := q.cond.set (false, 0) b (now, r) }) s

/-- A raw transition of pin `k` at raw tick `r` and tag `t`: its class, the level that it presents and the tag of the run that it
begins, the fine one unless the pin captured one in the 8 ticks before (R97, R118). -/
def State.posTake (s : State) (p i r : Nat) (t : Tag) (k : Nat) (c : PinClass) : State :=
  let q := s.pos p i
  let lv := pinLevel (q.pins.getLsbD k) c
  let s1 := ({ s with fld := s.fld.set .open_ (fldPin p i k) c } : State).posConds p i r
  if SMap.get false q.lvl k == lv then s1
  else
    let fine := decide (SMap.get 0 q.capAt k ≤ r)
    s1.updPos p i fun q => { q with
      lvl := q.lvl.set false k lv, runAt := q.runAt.set 0 k r, runTag := q.runTag.set 0 k (if fine then t else s.tagOf r)
      capAt := if fine then q.capAt.set 0 k (r + 8) else q.capAt }

/-- Pin `k` presents a level that is not yet accepted, and is not frozen (R97, R119). -/
def State.posPends (s : State) (p i k : Nat) : Bool :=
  SMap.get false (s.pos p i).lvl k != (s.pos p i).pins.getLsbD k && !s.pinFrozen p i k

/-- The raw tick at which pin `k` has held its level for flt ticks (R97). -/
def State.posRipe (s : State) (p i k : Nat) : Nat := SMap.get 0 (s.pos p i).runAt k + s.f F.POS_CFG.flt p i

/-- The next acceptance of an interface. -/
def State.posDue (s : State) (p i : Nat) : Option Nat :=
  (((List.range 3).filter (s.posPends p i)).map (s.posRipe p i)).min?

/-- The later of two tags. -/
def Tag.later (a b : Tag) : Tag := if Tag.before a b then b else a

/-- The levels `new` are accepted in this tick, each changed pin with the tag of its run (R97 to R106, R119). A Hall change of two pins
in one tick carries the later tag, and an illegal change of A and B (log 128). -/
def State.posApply (s : State) (p i new : Nat) : State :=
  let q := s.pos p i
  let old := s.posLevels p i
  let ch := (List.range 3).filter fun k => q.pins.getLsbD k != new.testBit k
  let tag (ks : List Nat) : Tag := match ks.map (SMap.get 0 q.runTag) with
    | [] => 0
    | t :: ts => ts.foldl Tag.later t
  let s1 := s.updPos p i fun q => { q with
    pins := BitVec.ofNat 3 new
    st := (List.range 3).foldl (fun m k => m.set 0 k (if ch.contains k then 0 else SMap.get 0 q.st k + ch.length)) q.st }
  let s2 := (ch.foldl (fun s k => s.put F.POS_DSTAT.live (s.f F.POS_DSTAT.live p i &&& (4095 - 2 ^ (4 * k + 3))) p i) s1).diagBit p i
  let s3 := (s2.put F.POS_SECT.levels (s2.posLevels p i) p i).posConds p i s.clk.raw
  let mode := s.f F.POS_CFG.mode p i
  if mode = 1 then (s3.posSnap p i (tag ch)).hallEdge p i (tag ch)
  else if mode = 2 ∨ mode = 3 then
    let ta := tag (ch.filter (· != 2))
    let tz := SMap.get 0 q.runTag 2
    let ab (s : State) : State := if ch.any (· != 2) then (s.posSnap p i ta).abEdge p i old ta else s
    let z (s : State) (l : Nat) : State := if ch.contains 2 then (s.posSnap p i tz).zEdge p i old l tz else s
    if ch.any (· != 2) && Tag.after ta tz then ab (z s3 old) else z (ab s3) (s3.posLevels p i)
  else s3

/-- Every level held for flt ticks by now is accepted. -/
def State.posAccept (s : State) (p i : Nat) : State :=
  let new := (List.range 3).foldl (fun m k =>
    if (s.pos p i).pins.getLsbD k != (s.posPends p i k && decide (s.posRipe p i k ≤ s.clk.raw)) then m + 2 ^ k else m) 0
  if new = (s.pos p i).pins.toNat then s else s.posApply p i new

/-- The acceptances up to raw tick `r`, of runs that began before tick `b` (three at most: no pin changes meanwhile). -/
def State.posUpTo (s : State) (p i r b : Nat) : State :=
  (List.range 3).foldl (fun s _ =>
    match s.posDue p i with
    | some q => if q ≤ r ∧ (List.range 3).any fun k => s.posPends p i k && s.posRipe p i k == q && SMap.get 0 (s.pos p i).runAt k < b
        then s.atRaw q fun s => s.posAccept p i else s
    | none => s) s

/-- POSITION_EDGE: the pins have taken these classes, oldest first; then the next level that they hold for flt ticks is accepted (R97,
R118). While the pack clock is absent no edge is seen (R117). -/
def State.posEdge (s : State) (p i : Nat) (tr : List (Tag × Fin 3 × PinClass)) : State :=
  let seen := s.bit F.PWM_STATUS.clk_ok p
  let s1 := tr.foldl (fun s e =>
    let r := s.rawOf e.1
    (if seen then s.posUpTo p i r r else s).posTake p i r e.1 e.2.1 e.2.2) s
  let s2 := s1.run (tr.foldl (fun m e => max m (s.rawOf e.1)) 0 - s1.clk.raw)
  if !seen then s2
  else
    let s3 := s2.posUpTo p i s2.clk.raw (s2.clk.raw + 1)
    match s3.posDue p i with
    | some q => if s2.clk.raw < q then s3.atRaw q fun s => s.posAccept p i else s3
    | none => s3

/-- STANDSTILL_TIMEOUT: the deadline has passed, and with it flt + 4 ticks in which an edge of before is still accepted, as R115 allows
them (R59, R113, log 128). -/
def State.standstill (s : State) (p i : Nat) : State :=
  match (s.pos p i).last with
  | none => s
  | some t =>
    let d := t + BitVec.ofNat 64 (s.f F.POS_SPDCFG.ss_to p i * 1600000)
    s.atRaw (s.rawOf d + s.f F.POS_CFG.flt p i + 4) fun s => ((s.posSnap p i d).histClear p i).setStill p i

/-- Counting resumes after the pack clock was absent: the filters start again, and no latch is left to take (R117). -/
def State.posResume (s : State) (p : Nat) : State :=
  (List.range 6).foldl (fun s i =>
    (((s.setb F.POS_STAT.cnt_gap p i).histClear p i).setStill p i).updPos p i fun k =>
      { k with fl := k.fl ||| 8, lq := [], runAt := (List.range 3).foldl (fun m j => m.set 0 j s.clk.raw) k.runAt,
               runTag := (List.range 3).foldl (fun m j => m.set 0 j s.now) k.runTag }) s

/-! ### Encoder emulation -/

/-- The emulator of a pack. -/
def State.emu (s : State) (p : Nat) : Emu := s.emus.get {} p

/-- Change the emulator. -/
def State.updEmu (s : State) (p : Nat) (f : Emu → Emu) : State := { s with emus := s.emus.set {} p (f (s.emu p)) }

/-- The states of a revolution of the emulator's output. -/
def State.emuStates (s : State) (p : Nat) : Nat := 4 * (s.f F.POS_EMU_CFG.lines_m1 p + 1)

/-- A fraction in [0, 1) as a 32-bit angle (R122). -/
def angle32 (w : Word) : Nat :=
  match fval w with
  | .fin false m e => if 0 ≤ e then 0 else (m * 2 ^ 32) / 2 ^ (-e).toNat
  | _ => 0

/-- EMULATOR_UPDATE: a source angle gives a signed number of steps the shorter way round, half a revolution forward; steps
not emitted are carried, at most 4,095 (R123, R124). They are spread evenly over the source's next period of `per` ticks, the first one
step interval from now (log 129). -/
def State.emuUpdate (s : State) (p : Nat) (angle per : Nat) : State :=
  let n := s.emuStates p
  let new : Nat := angle * n / 2 ^ 32
  let k := s.emu p
  let d := ((new : Int) - k.src) % (n : Int)
  let d := if (n : Int) < 2 * d then d - n else d
  let lost := decide (4095 < k.todo.natAbs)
  let left : Int := max (-4095) (min 4095 k.todo)
  let s1 := (s.setIf (k.todo != 0) F.POS_EMU_STAT.lag p).put F.POS_EMU_STAT.backlog left.natAbs p
  let s2 := if lost then (s1.setb F.POS_EMU_STAT.lost p).inc F.POS_EMU_STAT.lost_cnt p else s1
  let gap := max 100 (per / max 1 (left + d).natAbs)
  s2.updEmu p fun k => { k with src := new, todo := left + d, next := s.clk.raw + gap, gap := gap }

/-- One state step of the output (R122). -/
def State.emuStep (s : State) (p : Nat) : State :=
  let k := s.emu p
  let n := s.emuStates p
  let pos := s.f F.POS_EMU_POS.state p
  let new := if 0 < k.todo then (if n ≤ pos + 1 then 0 else pos + 1) else (if pos = 0 then n - 1 else pos - 1)
  let s1 := (s.put F.POS_EMU_POS.state new p).updEmu p fun k =>
    { k with todo := if 0 < k.todo then k.todo - 1 else k.todo + 1, next := max s.clk.raw k.next + k.gap }
  s1.put F.POS_EMU_STAT.backlog (s.f F.POS_EMU_STAT.backlog p - 1) p

/-- EMULATOR_EDGE: the next step at its instant, at least 100 ns after the one before (R123). -/
def State.emuEdge (s : State) (p : Nat) : State :=
  if (s.emu p).todo = 0 then s else s.atRaw (s.emu p).next fun s => s.emuStep p

/-- RESYNC: the output moves to the source position in one tick (R124). -/
def State.emuResync (s : State) (p : Nat) : State :=
  ((s.put F.POS_EMU_POS.state (s.emu p).src p).put F.POS_EMU_STAT.backlog 0 p).updEmu p fun k => { k with todo := 0 }

/-- What a latch took is delivered with its tag L_k, and the emulator takes its source from it (R115, R116, R122, R123). POS_SPD takes a
new value here and nowhere else, but reads zero from the tick in which the history is cleared (R105, R110, log 128). -/
def State.latchOut (s : State) (p i : Nat) (l : Tag) (v : Word × Word × Nat × Nat) : State :=
  let (cnt, spd, flags, edges) := v
  let s1 := (s.wr .POS_SPD (if (s.pos p i).hist.length < 2 then 0 else spd) p i).put F.POS_SECT.edges (min edges 255) p i
  let a := s1.f F.POS_CFG.axis p i
  let x := s1.f F.POS_CFG.le_in p i
  let fr := s1.posFraction p i cnt
  let rps := fword (divVal f32 .nearest (fval spd) (.fin false (s1.rd .POS_PITCH p i).toNat 0))
  let s2 := (s1.slotIn p a x fr flags l).slotIn p a (x + 1) rps flags l
  if s2.bit F.POS_EMU_CFG.src p && s2.f F.POS_EMU_CFG.src_idx p == i then
    s2.emuUpdate p (angle32 fr) (s2.srcTime p (s2.latchSrc p i)).2
  else s2

/-- POSITION_LATCH: flt + 4 ticks after L_k the interface gives counter, speed and flags as they stood after the edges tagged at or
before L_k (R115). -/
def State.posLatch (s : State) (p i : Nat) : State :=
  match (s.pos p i).lq with
  | [] => s
  | q :: _ => s.atRaw (q.raw + s.f F.POS_CFG.flt p i + 4) fun s =>
    let s1 := s.posSnap p i (q.tag + 1)
    match (s1.pos p i).lq with
    | { val := some v, .. } :: qs => (s1.updPos p i fun k => { k with lq := qs }).latchOut p i q.tag v
    | _ => s1

/-! ### Pin diagnostics and sensor supplies -/

/-- The tick at which a pin has been in its condition, or out of it, for the dwell (R119). -/
def State.dwellTick (s : State) (p i k d : Nat) : Nat := (s.cond p i k d).2 + 1000 * s.f F.POS_DIAG.dwell p i

/-- PIN_DIAGNOSTIC: condition `d` of pin `k`, 0 open, 1 bat, 2 neg, 3 stuck, has held for the dwell (R119). -/
def State.pinDiag (s : State) (p i k d : Nat) : State :=
  let b := 4 * k + d
  if !(s.cond p i k d).1 || (s.f F.POS_DSTAT.live p i).testBit b then s
  else s.atRaw (s.dwellTick p i k d) fun s =>
    let s0 := s.posSnap p i (s.fieldNow p)
    let s1 := (s0.putNbit .POS_DSTAT b true p i).putNbit .POS_DSTAT (12 + b) true p i
    (s1.diagBit p i).posAlarm p i 3 (s.fieldNow p)

/-- PIN_DIAGNOSTIC_CLEAR: open, bat or neg has been absent for one dwell, and the pin is no longer frozen; stuck clears at the pin's
next edge (R119). -/
def State.pinClear (s : State) (p i k d : Nat) : State :=
  if d = 3 || (s.cond p i k d).1 || !(s.f F.POS_DSTAT.live p i).testBit (4 * k + d) then s
  else s.atRaw (s.dwellTick p i k d) fun s =>
    let s1 := ((s.posSnap p i (s.fieldNow p)).putNbit .POS_DSTAT (12 + 4 * k + d) false p i).diagBit p i
    if s1.bit F.PWM_STATUS.clk_ok p then s1.posAccept p i else s1

/-- The sensor outputs have their supply: not in Den or Kennel, nor past the point of no return on the way there (R121, R444). -/
def State.sensPower (s : State) : Bool := !s.pwr.past && s.pwr.mode != 2 && s.pwr.mode != 3

/-- Since when a sensor output limits (1), or has been off by a short (2). -/
def State.sens (s : State) (n : Nat) : Nat × Nat := SMap.get (0, 0) s.pwr.sens n

/-- Set what a sensor output does. -/
def State.setSens (s : State) (n : Nat) (k : Nat × Nat) : State := { s with pwr := { s.pwr with sens := s.pwr.sens.set (0, 0) n k } }

/-- A sensor output turns off. -/
def State.sensOff (s : State) (n : Nat) : State := ((s.clrb F.PWR_SENS_STAT.on 0 n).clrb F.PWR_SENS_STAT.ilim 0 n).setSens n (0, 0)

/-- An enabled sensor supply turns on (R121). -/
def State.sensOn (s : State) (n : Nat) : State := if s.sensPower then (s.sensOff n).setb F.PWR_SENS_STAT.on 0 n else s

/-- An output that has limited its current for 1 ms turns off and sets short (R121). -/
def State.sensTrip (s : State) (n : Nat) : State :=
  ((((s.sensOff n).setb F.PWR_SENS_STAT.short 0 n).inc F.PWR_SENS_STAT.short_cnt 0 n)).setSens n (2, s.clk.raw)

/-- SENSOR_SUPPLY_SHORT: an output is loaded beyond 40 mA and begins to limit, and where it limits already turns off 1 ms after it began;
or its load has gone (R121). It shows on = 1 while it limits (log 130). -/
def State.sensShort (s : State) (n : Nat) (loaded : Bool) : State :=
  if !s.bit F.PWR_SENS_STAT.on 0 n then s
  else if !loaded then (s.clrb F.PWR_SENS_STAT.ilim 0 n).setSens n (0, 0)
  else if (s.sens n).1 = 1 then s.atRaw ((s.sens n).2 + 1000000) fun s => s.sensTrip n
  else (s.setb F.PWR_SENS_STAT.ilim 0 n).setSens n (1, s.clk.raw)

/-- SENSOR_SUPPLY_RETRY: 100 ms after a short an output with auto_retry turns on again (R121). -/
def State.sensRetry (s : State) (n : Nat) : State :=
  if s.bit F.PWR_SENS_CTL.en 0 n && s.bit F.PWR_SENS_CTL.auto_retry 0 n && (s.sens n).1 == 2 then
    s.atRaw ((s.sens n).2 + 100000000) fun s => s.sensOn n
  else s

/-- SENSOR_REVERSE_BLOCK (R121). -/
def State.sensExt (s : State) (n : Nat) : State := s.setb F.PWR_SENS_STAT.ext 0 n

/-- SENSOR_UNDERVOLTAGE: below 4.5 V while on (R121). -/
def State.sensUv (s : State) (n : Nat) : State := s.setIf (s.bit F.PWR_SENS_STAT.on 0 n) F.PWR_SENS_STAT.uv 0 n

/-- A write to PWR_SENS_CTL (R121). -/
def State.sensCtl (s : State) (n : Nat) (v : Word) : State :=
  let was := s.bit F.PWR_SENS_CTL.en 0 n
  let s1 := s.wr .PWR_SENS_CTL (RegName.PWR_SENS_CTL.row.write 0 v) 0 n
  if v.getLsbD 0 then (if was then s1 else s1.sensOn n)
  else s1.sensOff n

/-! ### Register writes -/

/-- MODE_CHANGE (R96). -/
def State.modeChange (s : State) (p i : Nat) : State :=
  let s1 := (((s.wr .POS_CNT 0 p i).wr .POS_WRAP 0 p i).wr .POS_SPD 0 p i).histClear p i
  let s2 := (((s1.setStill p i).clrb F.POS_SECT.sect_valid p i).put F.POS_SECT.sector 0 p i).updPos p i fun k =>
    { k with hallOk := false, known := false, win := [], lq := [] }
  s2.sectorFromLevels p i

/-- INV_CHANGE: only inv changes (R97). -/
def State.invChange (s : State) (p i : Nat) : State := ((s.posSnap p i s.now).histClear p i).sectorFromLevels p i

/-- A write to a POS register (R15, R96, R97, R107, R109 to R113, R116, R119, R124). A write of POS_CNT keeps the counter values that
the edge history holds, so that a speed may span the jump of the count (R105, log 128). -/
def State.hookPos (s : State) (r : RegName) (p i : Nat) (v : Word) : State × Wr :=
  let a := s.f F.POS_CFG.axis p i
  let locked := a < 6 && s.axLk p a
  let plain : State × Wr := (s.wr r (r.row.write (s.rd r p i) v) p i, .ok)
  let clamp (c : Bool) (s : State) : State × Wr := (s.setIf c F.POS_STAT.cfg_clamp p i, .ok)
  match r with
  | .POS_CFG =>
    let m := F.POS_CFG.mode.get v
    if locked then (s, .viol 4)
    else if 5 ≤ m || (m = 4 && (List.range 6).any fun k => k != i && s.f F.POS_CFG.mode p k == 4) then (s, .err)
    else
      let old := s.rd .POS_CFG p i
      let le := F.POS_CFG.le_in.get v
      let s1 := (s.wr r (r.row.write 0 v) p i).put F.POS_CFG.le_in (min le 14) p i
      let s2 := s1.setIf (le == 15) F.POS_STAT.cfg_clamp p i
      (if F.POS_CFG.mode.get old ≠ m then s2.modeChange p i
       else if F.POS_CFG.inv.get old ≠ F.POS_CFG.inv.get v then s2.invChange p i else s2, .ok)
  | .POS_HMAP => if locked then (s, .viol 4) else plain
  | .POS_PITCH => if v = 0 then clamp true (s.wr r 1 p i) else plain
  | .POS_REF => (plain.1.setb F.POS_IDX.ref_valid p i, .ok)
  | .POS_SPDCFG =>
    let t := F.POS_SPDCFG.t_span.get v
    let lo := F.POS_SPDCFG.mt_lo.get v
    let hi := F.POS_SPDCFG.mt_hi.get v
    let st := F.POS_SPDCFG.ss_to.get v
    let (lo', hi') := if hi ≤ lo then (min lo 254, min lo 254 + 1) else (lo, hi)
    let s1 := (((s.put F.POS_SPDCFG.t_span (max t 1) p i).put F.POS_SPDCFG.mt_lo lo' p i).put F.POS_SPDCFG.mt_hi hi' p i).put
      F.POS_SPDCFG.ss_to (max st 1) p i
    clamp (t == 0 || decide (hi ≤ lo) || st == 0) s1
  | .POS_DIAG =>
    let d := F.POS_DIAG.dwell.get v
    let n := F.POS_DIAG.st_n.get v
    let s1 := ((s.wr r (r.row.write 0 v) p i).put F.POS_DIAG.dwell (max d 1) p i).put F.POS_DIAG.st_n (max n 2) p i
    clamp (d == 0 || decide (n < 2)) (s1.posConds p i s.clk.raw)
  | .POS_CNT => ((s.posSnap p i s.now).wr r v p i, .ok)
  | .POS_EMU_CFG =>
    let x := s.f F.POS_EMU_CFG.src_idx p
    let ax := if s.bit F.POS_EMU_CFG.src p then s.f F.POS_CFG.axis p x else x
    if ax < 6 && s.axLk p ax then (s, .viol 4) else plain
  | .POS_EMU_CMD => (if v.getLsbD 0 then s.emuResync p else s, .ok)
  | _ => plain

end Sys2Proof.Machine
end

