-- ==== Sys2Proof/Machine/Engine.lean ====
section
/-! DEFINITION. The loop engine: axis commands and states, runs from ready to release, late results, ramps, following error,
coefficients and gaits (R125 to R153), and its part in a recovery (R380, R382, R388, R394). -/

namespace Sys2Proof.Machine

/-- The engine of a pack. -/
def State.eng (s : State) (p : Nat) : Eng := s.engs.get {} p

/-- Change the engine of a pack. -/
def State.updEng (s : State) (p : Nat) (f : Eng → Eng) : State := { s with engs := s.engs.set {} p (f (s.eng p)) }

/-- A run executes. -/
def State.busy (s : State) (p : Nat) : Bool := s.bit F.LE_STATUS.busy p

/-- The axis of the executing run. -/
def State.runAxis (s : State) (p : Nat) : Nat := s.f F.LE_STATUS.cur p

/-! ### Axis commands -/

/-- The axis fails the conditions of ARM: R133, its program's steps, the dead times of R168, a failed loop engine (R394). -/
def State.armBad (s : State) (p a : Nat) : Bool :=
  let base := s.f F.PWM_BASE.base p
  (match s.setOfAxis p a with
   | some x => (s.pset p x).ticks % base != 0 || (s.pset p x).off != 0 || s.tooTight p x
   | none => true) ||
  s.f F.LE_AX_STEPS.steps p a == 0 || s.pf F.PJNL_PSTAT.failed p != 0

/-- A command becomes pending; one already pending is replaced. Accepted in the last 32 ns it waits for the boundary after the next, but an
ARM in SHUTDOWN waits for the first boundary after the sequence (R142). -/
def State.pendCmd (s : State) (p a c : Nat) : State :=
  let s1 := s.setIf (s.f F.LE_AX_STAT.pend p a != 0) F.LE_AX_STAT.cmd_repl p a
  let late := match s.setOfAxis p a with
    | some x => s.afterCutoff p x && !(c == 1 && s.axSt p a == 6)
    | none => false
  (s1.put F.LE_AX_STAT.pend c p a).updAx p a fun k => { k with late := late }

/-- A refused command (R144); a refused ARM whose dead times leave no duty also sets cfg_err of the set (R168). -/
def State.cmdRej (s : State) (p a : Nat) (arm : Bool) : State :=
  let s1 := s.setb F.LE_AX_STAT.cmd_rej p a
  match s.setOfAxis p a with
  | some x => s1.setIf (arm && s.tooTight p x) F.PWM_SET_STAT.cfg_err p x
  | none => s1

/-- An ARM accepted while a sequence covers the legs holds their enables pending (R180). -/
def State.armLegs (s : State) (p a : Nat) : State :=
  match s.setOfAxis p a with
  | some x => (s.legsOf p x).foldl (fun s l => s.setIf (s.seqOf p x l) F.PWM_LEGSTAT.en_pend p l) s
  | none => s

/-- A write of `c` to LE_AX_CMD (R142, R144): 1 ARM, 2 OPEN, 3 CLOSE, 4 DISARM. False for an error response. -/
def State.axCmd (s : State) (p a c : Nat) : State × Bool :=
  let st := s.axSt p a
  if c = 0 then (s, true)
  else if c = 1 ∧ (st = 1 ∨ st = 6) then
    if s.armBad p a then (s.cmdRej p a true, false) else ((s.pendCmd p a 1).armLegs p a, true)
  else if c = 1 ∧ st = 5 then
    let tripped := match s.setOfAxis p a with
      | some x => s.bit F.MUZ_SET_STAT.tripped p x
      | none => false
    if s.armBad p a || tripped then (s.cmdRej p a (s.armBad p a), false)
    else (((s.axShutdown p a).pendCmd p a 1).armLegs p a, true)
  else if (c = 2 ∧ (st = 2 ∨ st = 4)) ∨ (c = 3 ∧ st = 3) ∨ (c = 4 ∧ (st = 2 ∨ st = 3 ∨ st = 4)) then (s.pendCmd p a c, true)
  else if c = 4 ∧ st = 5 then (s.axShutdown p a, true)
  else (s.cmdRej p a false, false)

/-- Entry to ARMED (R145): state memory, last good values and fresh bits cleared, the gait set to init, the legs enabled (R180,
R182), and the inputs' periods begin (R67). -/
def State.enterArmed (s : State) (p a : Nat) : State :=
  let s1 := (s.put F.LE_AX_STAT.pend 0 p a).put F.LE_AX_STAT.state 2 p a
  let s2 := (List.range 256).foldl (fun s w => s.wrLe .LE_STATE 0 p a w) s1
  let s3 := s2.updAx p a fun k => { k with
    slots := k.slots.map fun e => (e.1, { e.2 with fresh := false, good := none, goodFifo := [] })
    measured := [], fe := none, candRun := 0, nextGait := none, first := true, ran := false, done := false, ready := none }
  let s4 := (s3.put F.LE_GAIT_SEL.cur (s3.f F.LE_GAIT_CFG.init p a) p a).put F.LE_GAIT_SEL.cand (s3.f F.LE_GAIT_CFG.init p a) p a
  match s4.setOfAxis p a with
  | some x =>
    let s5 := (s4.updSet p x fun k => { k with dutyIn := false, released := [] }).acqArm p a
    ((s5.enableLegs p x).axRefresh p a).muzRunning p x
  | none => s4.acqArm p a

/-- A command takes effect at a boundary of the axis's set (R141 to R143, R145, R171). -/
def State.cmdEffect (s : State) (p a x : Nat) : State :=
  let c := s.f F.LE_AX_STAT.pend p a
  let st := s.axSt p a
  if c = 0 then s
  else if (s.ax p a).late then s.updAx p a fun k => { k with late := false }
  else if c = 1 then if st = 1 then s.enterArmed p a else s
  else
    let s1 := s.put F.LE_AX_STAT.pend 0 p a
    let enter (s : State) (t : Nat) : State :=
      (s.setAx p a t).updAx p a fun k => { k with first := true, fe := none }
    if c = 2 then if st = 2 ∨ st = 4 then enter s1 3 else s1
    else if c = 3 then if st = 3 then enter (s1.forceClear p x) 4 else s1
    else if st = 2 ∨ st = 3 ∨ st = 4 then s1.axShutdown p a else s1

/-! ### Gaits -/

/-- The highest gait of an axis. -/
def State.ngait (s : State) (p a : Nat) : Nat := s.f F.LE_GAIT_CFG.n_gait_m1 p a

/-- The gait becomes `g`; a change is counted. -/
def State.gaitTo (s : State) (p a g : Nat) : State :=
  if s.f F.LE_GAIT_SEL.cur p a = g then s else (s.put F.LE_GAIT_SEL.cur g p a).inc F.LE_GAIT_SEL.chg_cnt p a

/-- Gait changes at a boundary: one decided at a release (R152), and a forced gait accepted by the cutoff, in every state (R153) but
ARMED, in which the gait stays at init (R152, log 131). -/
def State.gaitBoundary (s : State) (p a : Nat) : State :=
  let k := s.ax p a
  let (en, g) := k.forceWas.getD (s.bit F.LE_GAIT_SEL.force_en p a, s.f F.LE_GAIT_SEL.force p a)
  let s1 := s.updAx p a fun k => { k with nextGait := none, forceWas := none }
  if s.axSt p a = 2 then s1
  else if en then (s1.gaitTo p a (min g (s.ngait p a))).updAx p a fun k => { k with candRun := 0 }
  else match k.nextGait with
    | some g => s1.gaitTo p a g
    | none => s1

/-- The gait candidate for `x` (R151), and whether none qualified. -/
def State.gaitCand (s : State) (p a : Nat) (x : Word) : Nat × Bool :=
  let g := s.f F.LE_GAIT_SEL.cur p a
  let h := absW (s.rd .LE_GAIT_HYS p a)
  let lo (g : Nat) := s.rd .LE_GAIT_LO p a g
  let hi (g : Nat) := s.rd .LE_GAIT_HI p a g
  if isNanW x then (g, true)
  else if leW (engSub (lo g) h) x && leW x (engAdd (hi g) h) then (g, false)
  else match (List.range (s.ngait p a + 1)).find? fun g => leW (lo g) x && ltW x (hi g) with
    | some c => (c, false)
    | none => (g, true)

/-- GAIT_EVALUATION at a released run (R151). -/
def State.gaitEval (s : State) (p a : Nat) : State :=
  if !s.bit F.LE_GAIT_CFG.en p a || s.bit F.LE_GAIT_SEL.force_en p a then s
  else
    let m := s.rd .LE_MOUT p a (s.f F.LE_GAIT_CFG.m p a)
    let x := if s.bit F.LE_GAIT_CFG.abs p a then absW m else m
    let g := s.f F.LE_GAIT_SEL.cur p a
    let was := s.f F.LE_GAIT_SEL.cand p a
    let (c, none_) := s.gaitCand p a x
    let n := if c = g then 0 else if c = was then (s.ax p a).candRun + 1 else 1
    let s1 := (s.setIf none_ F.LE_AX_STAT.gait_none p a).put F.LE_GAIT_SEL.cand c p a
    if c ≠ g ∧ s.f F.LE_GAIT_CFG.dwell p a + 1 ≤ n then s1.updAx p a fun k => { k with candRun := 0, nextGait := some c }
    else s1.updAx p a fun k => { k with candRun := n }

/-! ### Run start -/

/-- The FIFO of a resolver channel, newest first, as many entries as hold a pair. -/
def State.rsvFifo (s : State) (p r : Nat) : List RsvPair :=
  (List.range (s.rsvc p r).held).map fun k =>
    (s.rd .RSV_SMP p r k, s.rd .RSV_INFO p r k, s.pairAt .RSV_TAG_LO .RSV_TAG_HI p r k)

/-- The input policy for slot `i` at a run's start (R130, R131): what the run is presented, whether the slot is fault-counted,
and whether a substitution found no good value. -/
def State.policy (s : State) (p a i : Nat) : InSlot × Bool × Bool :=
  let x : InSlot := SMap.get {} (s.ax p a).slots i
  let r := s.slotRsv p a i
  let fifo := match r with
    | some r => s.rsvFifo p r
    | none => []
  let flags := match r with
    | some _ => match fifo with
      | (_, info, _) :: _ => F.RSV_INFO.flags.get info
      | [] => 0
    | none => x.flags
  let absent := (s.f F.LE_AX_IN.inmask p a).testBit i && r.isNone && !x.fresh
  let fc := (flags &&& s.f F.LE_INPOL.flt p a i) != 0 || (absent && s.bit F.LE_INPOL.absent_flt p a i)
  let sub := fc || (flags &&& s.f F.LE_INPOL.sub p a i) != 0 || absent
  let noGood := sub && (if r.isSome then x.goodFifo.isEmpty else x.good.isNone)
  ({ x with
      pv := if sub then x.good.getD 0 else x.v
      good := if sub then x.good else some x.v
      pw := flags + (if absent then 256 else 0) + (if sub then 512 else 0) + (if fc then 1024 else 0)
      ptag := x.tag
      fifo := if sub then x.goodFifo else fifo
      goodFifo := if sub then x.goodFifo else fifo }, fc, noGood)

/-- The ramp value of set-point `n` for the run that starts (R146), and whether a ramp started with nothing measured; a target or rate
written in this tick is not yet seen (R147). -/
def State.rampNext (s : State) (p a n : Nat) : Word × Bool :=
  let target := s.rdWas .LE_SP p a n
  let cfg := (s.rd .LE_RAMP_SRC p a).toNat / 16 ^ n
  let src := cfg % 8
  let seen := SMap.get false (s.ax p a).measured src
  let m := if seen then s.rd .LE_MOUT p a src else 0
  if !cfg.testBit 3 then (target, false)
  else if s.axSt p a != 4 then (m, false)
  else if (s.ax p a).first then (m, !seen)
  else
    let prev := s.rd .LE_RAMP_V p a n
    let delta := engMul (absW (s.rdWas .LE_RAMP p a n)) (ratWord (s.axTicks p a) 1000000000)
    let diff := engSub target prev
    if leW (absW diff) delta then (target, false)
    else (if ltW diff 0 then engSub prev delta else engAdd prev delta, false)

/-- active of set-point `n` is 1 while its ramp value differs from the target (R146). -/
def State.rampActive (s : State) (p a n : Nat) : State :=
  let r := s.rd .LE_RAMP_V p a n
  let target := s.rd .LE_SP p a n
  s.putNbit .LE_RAMP_SRC (16 + n) (!(leW r target && leW target r)) p a

/-- RAMP_UPDATE: the four ramps of a run (R146). -/
def State.rampUpdate (s : State) (p a : Nat) : State :=
  (List.range 4).foldl (fun s n =>
    let (r, noMeas) := s.rampNext p a n
    ((s.wr .LE_RAMP_V r p a n).rampActive p a n).setIf noMeas F.LE_AX_STAT.no_meas p a) s

/-- The engine's registers at a run's start: everything zero, limits −∞ and +∞, dispatch taken (R125, R127). -/
def Eng.start (entry : Nat) (first : Bool) : Eng := { pc := entry, steps := 8, first := first }

/-- The entry of an axis's program in its state. -/
def State.entryOf (s : State) (p a : Nat) : Nat :=
  if s.axSt p a = 4 then s.f F.LE_AX_PROG.closed_entry p a else s.f F.LE_AX_PROG.open_entry p a

/-- The run in progress stops: nothing of it is released (R127, R137). -/
def State.stopRun (s : State) (p : Nat) : State := s.dropRun p (s.runAxis p)

/-- RUN_STOP: the run meets a reserved op code or one of the other conditions of R127: prog_err, and the fault action. -/
def State.progErr (s : State) (p : Nat) : State :=
  if s.busy p then
    let a := s.runAxis p
    ((s.setb F.LE_AX_STAT.prog_err p a).stopRun p).axFault p a 4
  else s

/-- RUN_START: the free engine starts the ready run that became ready first, the lower axis between equals (R125, R130 to R132,
R135, R146); a run past its release limit is skipped (R138). -/
def State.runStart (s : State) (p : Nat) : State :=
  if s.busy p then s
  else
    let ready := (List.range 6).filterMap fun a => if s.axRuns p a && !s.pastLimit p a then (s.ax p a).ready.map fun t => (a, t) else none
    let best := ready.foldl (fun b e => match b with
      | none => some e
      | some (_, t) => if Tag.before e.2 t then some e else b) (none : Option (Nat × Tag))
    match best with
    | none => s
    | some (a, _) =>
      let pol := (List.range 16).map fun i => (i, s.policy p a i)
      let fc := pol.any fun e => e.2.2.1
      let noGood := pol.any fun e => e.2.2.2
      let slots := pol.foldl (fun m e => m.set {} e.1 e.2.1) (s.ax p a).slots
      let n := if fc then (s.ax p a).fltRuns + 1 else 0
      let s1 := s.rampUpdate p a
      let first := (s.ax p a).first
      let s2 := s1.updAx p a fun k => { k with slots := slots, ready := none, ran := true, first := false, fltRuns := min n 15 }
      let s3 := ((s2.setb F.LE_STATUS.busy p).put F.LE_STATUS.cur a p).updEng p fun _ => Eng.start (s.entryOf p a) first
      let s4 := s3.setIf noGood F.LE_AX_STAT.no_good p a
      let s5 := if s4.f F.LE_AX_STEPS.steps p a ≤ 8 then s4.progErr p else s4
      let lim := s5.f F.LE_AX_POL.flt_n p a
      if fc && decide ((s.ax p a).fltRuns < lim ∧ lim ≤ n) then (s5.setb F.LE_AX_STAT.in_flt p a).axFault p a 2 else s5

/-! ### Release -/

/-- A released duty of member index `j` reaches its shadow register (R128, R129, R157, R162). -/
def State.duty (s : State) (p a x j : Nat) (v : Word) : State :=
  match (s.legsOf p x)[j]? with
  | none => s
  | some l =>
    if s.f F.PWM_SET_CTL.mode p x = 2 then s.setb F.PWM_SET_STAT.dout_ign p x
    else if isNanW v then s.setb F.LE_AX_STAT.dnan p a
    else
      let (d, c) := clampDuty v
      ((s.setIf c F.LE_AX_STAT.dclamp p a).shadowWr p x .PWM_DUTY l d).updSet p x fun k => { k with released := l :: k.released }

/-- FOLLOWING_ERROR_CHECK of a released CLOSED run (R148). -/
def State.followErr (s : State) (p a : Nat) : State :=
  let sp := s.f F.LE_FE_CFG.sp p a
  if !s.bit F.LE_FE_CFG.fe_en p a || s.axSt p a != 4 then s
  else if s.bit F.LE_FE_CFG.fe_ramp p a && (s.f F.LE_RAMP_SRC.active p a).testBit sp then s.updAx p a fun k => { k with fe := none }
  else
    let e := engSub (s.rd .LE_RAMP_V p a sp) (s.rd .LE_MOUT p a (s.f F.LE_FE_CFG.mo p a))
    let s1 := s.wr .LE_FE_ERR e p a
    let excess := isNanW e || ltW (s.rd .LE_FE_LIM p a) (absW e)
    let bk := (s.ax p a).bk
    let time := s.f F.LE_FE_CFG.fe_time p a
    let trip (s : State) : State :=
      ((s.updAx p a fun k => { k with fe := none }).setb F.LE_AX_STAT.fe_trip p a).axFault p a 3
    match (s.ax p a).fe with
    | none =>
      if !excess then s1
      else if time = 0 then trip s1
      else s1.updAx p a fun k => { k with fe := some (bk + BitVec.ofNat 64 (time * 16000)) }
    | some d =>
      if Tag.after bk d then (if excess then trip s1 else s1)
      else if excess then s1 else s1.updAx p a fun k => { k with fe := none }

/-- Every staged store of the run is released in one step (R128, R129), then the gait evaluation (R151), the following-error check
(R148), and the end of a recovery (R388). -/
def State.releaseRun (s : State) (p a : Nat) : State :=
  let k := s.eng p
  let s0 := (s.clrb F.LE_STATUS.busy p).put F.LE_STATUS.cur 7 p
  let s1 := match s0.setOfAxis p a with
    | some x => k.duty.foldl (fun (s : State) (e : Nat × Option Word) => match e.2 with
      | some v => s.duty p a x e.1 v
      | none => s) s0
    | none => s0
  let s2 := k.mout.foldl (fun (s : State) (e : Nat × Option Word) => match e.2 with
    | some v => (s.wr .LE_MOUT v p a e.1).updAx p a fun q => { q with measured := q.measured.set false e.1 true }
    | none => s) s1
  let s3 := k.st.foldl (fun (s : State) (e : Nat × Option (List Word)) => match e.2 with
    | some vs => (List.range 4).foldl (fun s i => s.wrLe .LE_STATE (vs.getD i 0) p a (4 * e.1 + i)) s
    | none => s) s2
  let s4 := match k.eout with
    | some ang => if !s3.bit F.POS_EMU_CFG.src p && s3.f F.POS_EMU_CFG.src_idx p == a then s3.emuUpdate p ang (s3.axTicks p a) else s3
    | none => s3
  let s5 := k.evts.foldl (fun s ch => s.produce (64 * p + ch) 3 a 0 s.now (s.axOwner p a) 50 (64 * p + ch)) s4
  let s6 := ((s5.put F.LE_AX_STAT.late_run 0 p a).updAx p a fun q => { q with done := true }).coefApply p a
  let s7 := (s6.gaitEval p a).followErr p a
  if s7.recovering p then s7.endRecovery p else s7

/-! ### Late results and boundaries -/

/-- What the release limit does to the run of the present period (R137 to R140): an unreleased run is stopped, or skipped if it has not
started, and counts as late. -/
def State.releaseLimit (s : State) (p a : Nat) : State :=
  let k := s.ax p a
  if !s.axRuns p a || k.lim then s
  else
    let s0 := s.updAx p a fun k => { k with lim := true, ready := none, recov := false }
    if k.done then s0
    else
      let cause := if k.recov then 3 else if k.ran then 1 else 2
      let s1 := if s0.busy p && s0.runAxis p == a then s0.stopRun p else s0
      let s2 := ((s1.setb F.LE_AX_STAT.late p a).put F.LE_AX_STAT.late_cause cause p a).inc F.LE_AX_CNT.late_cnt p a
      let s3 := if cause = 3 then s2.inc F.LE_AX_CNT.replay_late p a else s2
      let s4 := (s3.inc F.LE_AX_STAT.late_run p a).setPair .LE_AX_LTAG_LO .LE_AX_LTAG_HI (k.bk + s3.tickUnits (s3.axTicks p a)) p a
      let n := s4.f F.LE_AX_POL.late_n p a
      if s.f F.LE_AX_STAT.late_run p a < n && n ≤ s4.f F.LE_AX_STAT.late_run p a && s4.bit F.LE_AX_POL.late_act p a then s4.axFault p a 1
      else s4

/-- RELEASE_LIMIT at its instant (R137). -/
def State.limitAt (s : State) (p a : Nat) : State :=
  if s.axRuns p a && !(s.ax p a).lim then s.atRaw (s.limTick p a) fun s => s.releaseLimit p a else s

/-- RUN_RELEASE: at or before the release limit the run's results are released; past it the run is late (R137). -/
def State.release (s : State) (p a : Nat) : State := if s.axRuns p a && s.pastLimit p a then s.releaseLimit p a else s.releaseRun p a

/-- The deadline at which the run of the present period is ready without its inputs, Bk + rdy, an rdy of P or more clamped (R134). -/
def State.readyAt (s : State) (p a : Nat) : State :=
  s.atRaw ((s.ax p a).bkRaw + min (s.f F.LE_AX_RDY.rdy p a) (s.axTicks p a - 1)) fun s => s.makeRunReady p a

/-- An rdy of P or more is clamped (R134). -/
def State.rdyClamp (s : State) (p a : Nat) : State :=
  s.setIf (decide (s.axTicks p a ≤ s.f F.LE_AX_RDY.rdy p a)) F.LE_AX_STAT.cfg_clamp p a

/-- A new period of an axis begins at a boundary of its set (R130, R141, R142, R152, R153): a fault's OPEN, the command, the gait, then
the freshness of the new period. -/
def State.axBoundary (s : State) (p a x : Nat) : State :=
  let s1 := if s.toOpen.get false (8 * p + a) then
      let s1 := { s with toOpen := s.toOpen.set false (8 * p + a) false }
      if s1.axSt p a = 4 then (s1.setAx p a 3).updAx p a fun k => { k with first := true, fe := none } else s1
    else s
  let s2 := (s1.cmdEffect p a x).gaitBoundary p a
  s2.updAx p a fun k => { k with
    bk := s2.now, bkRaw := s2.clk.raw, ready := none, ran := false, done := false, lim := false
    slots := k.slots.map fun e => (e.1, { e.2 with fresh := false }) }

/-! ### Recovery and checkpoints -/

/-- A mismatch of the loop-engine pair of pack `p` (R375, R381, R388, R391, R393, R394): a third within 1 s fails it and every
armed axis enters SAFE; else the run in progress restarts from its dispatch with its journaled inputs, and a run that waits for it is late by the recovery
(R140). -/
def State.mismatchEng (s : State) (p : Nat) (a b : Bool) : State :=
  let (s1, failed) := s.countMismatch p a b
  let ax := if s.busy p then s.runAxis p else 0
  if failed then
    let s2 := ((s1.putPf F.PJNL_PSTAT.failed 1 p).putPf F.PJNL_PSTAT.rec 0 p).alarm (s1.pairTens p) 3 p 3 0 (BitVec.ofNat 32 ax) s1.now
    let s3 := (List.range 6).foldl (fun s a => s.axSafe p a 8) s2
    (s3.clrb F.LE_STATUS.busy p).put F.LE_STATUS.cur 7 p
  else
    let s1 := (List.range 6).foldl (fun s a => if (s.ax p a).ready.isSome then s.updAx p a fun k => { k with recov := true } else s) s1
    let s2 := (s1.putPf F.PJNL_PSTAT.rec 1 p).updPair p fun k => { k with pos := ax }
    if !s.busy p then s2
    else if (s2.pair p).jbad then
      ((s2.updAx p ax fun k => { k with recov := true }).clrb F.LE_STATUS.busy p).put F.LE_STATUS.cur 7 p
    else
      let first := (s2.eng p).first
      let seen := (s2.eng p).read
      (s2.updAx p ax fun k => { k with recov := true }).updEng p fun _ =>
        { Eng.start (s2.entryOf p ax) first with read := seen }

/-- RECOVERY_DONE of a loop engine with no run to restart (R388). -/
def State.recoverEng (s : State) (p : Nat) : State := if s.recovering p && !s.busy p then s.endRecovery p else s

/-! ### Register writes -/

/-- The axis is CLOSED, so its loop-locked registers are refused (R149). -/
def State.loopLocked (s : State) (p a : Nat) : Bool := !s.img.ctlr && s.axSt p a == 4

/-- A write to a loop-engine register (R15, R134, R139, R142, R147 to R153). -/
def State.hookLe (s : State) (r : RegName) (p a j : Nat) (v : Word) : State × Wr :=
  let plain : State × Wr := (s.wr r (r.row.write (s.rd r p a j) v) p a j, .ok)
  let structural : State × Wr := if s.axLk p a then (s, .viol 4) else plain
  let locked : State × Wr := if s.loopLocked p a then (s, .viol 5) else plain
  let clamp (c : Bool) (s : State) : State × Wr := (s.setIf c F.LE_AX_STAT.cfg_clamp p a, .ok)
  match r with
  | .LE_AX_CMD =>
    let (s1, good) := s.axCmd p a (F.LE_AX_CMD.cmd.get v)
    (s1, if good then .ok else .err)
  | .LE_AX_PROG => structural
  | .LE_AX_STEPS => structural
  | .LE_AX_RDY => structural
  | .LE_AX_IN => structural
  | .LE_AX_POL =>
    if s.loopLocked p a then (s, .viol 5)
    else
      let n := F.LE_AX_POL.late_n.get v
      let m := F.LE_AX_POL.flt_n.get v
      let f := F.LE_AX_POL.fault_act.get v
      let s1 := (((s.wr r (r.row.write 0 v) p a).put F.LE_AX_POL.late_n (max n 1) p a).put F.LE_AX_POL.flt_n (max m 1) p a).put
        F.LE_AX_POL.fault_act (if f = 3 then 0 else f) p a
      clamp (n == 0 || m == 0 || f == 3) s1
  | .LE_FE_LIM => if s.loopLocked p a then (s, .viol 5) else (s.wr r (absW v) p a, .ok)
  | .LE_FE_CFG => locked
  | .LE_RAMP_SRC => locked
  | .LE_INPOL => locked
  | .LE_GAIT_HYS => locked
  | .LE_GAIT_LO => locked
  | .LE_GAIT_HI => locked
  | .LE_GAIT_CAL => locked
  | .LE_GAIT_CFG =>
    if s.loopLocked p a then (s, .viol 5)
    else
      let n := F.LE_GAIT_CFG.n_gait_m1.get v
      let i := F.LE_GAIT_CFG.init.get v
      clamp (decide (n < i)) ((s.wr r (r.row.write 0 v) p a).put F.LE_GAIT_CFG.init (min i n) p a)
  | .LE_GAIT_SEL =>
    let g := F.LE_GAIT_SEL.force.get v
    let n := s.ngait p a
    let late := match s.setOfAxis p a with
      | some x => s.afterCutoff p x
      | none => false
    let old := (s.bit F.LE_GAIT_SEL.force_en p a, s.f F.LE_GAIT_SEL.force p a)
    let s1 := if late && (s.ax p a).forceWas.isNone then s.updAx p a fun k => { k with forceWas := some old } else s
    clamp (decide (n < g)) ((s1.wr r (r.row.write (s.rd r p a) v) p a).put F.LE_GAIT_SEL.force (min g n) p a)
  | .LE_SP => if isNanW v then (s, .err) else (((s.keepWas r p a j).wr r v p a j).rampActive p a j, .ok)
  | .LE_RAMP => if isNanW v then (s, .err) else ((s.keepWas r p a j).wr r v p a j, .ok)
  | .LE_COEF =>
    if s.loopLocked p a then (s, .viol 5)
    else if s.busy p && s.runAxis p == a && j / 128 == s.f F.LE_GAIT_SEL.cur p a then
      (s.updAx p a fun k => { k with coef := k.coef ++ [(j, v)] }, .ok)
    else (s.wrLe r v p a j, .ok)
  | .LE_PROGMEM => if s.img.ctlr then (s.wrLe r v p a j, .ok) else (s, .err)
  | _ => plain

end Sys2Proof.Machine
end

