-- ==== Sys2Proof/Machine/Hooks.lean ====
section
/-! DEFINITION. What a register write does beyond storing its fields, in the blocks PWM, CMP, MUZ and THM (R15, R154 to R217,
R487), and the events that end dwells, dead times and blanking. -/

namespace Sys2Proof.Machine

/-! ### Owners of pack elements -/

/-- The owner of the PWM registers of a set: its axis's where it is bound, else the pack's. -/
def State.pwmSetOwner (s : State) (p x : Nat) : Owner :=
  match s.axisOfSet p x with
  | some a => s.owner (.axis p a)
  | none => s.owner (.pack p)

/-- The owner of a leg's PWM registers: that of its set's, or the pack's. -/
def State.legOwner (s : State) (p l : Nat) : Owner :=
  match s.setOfLeg p l with
  | some x => s.pwmSetOwner p x
  | none => s.owner (.pack p)

/-- The owner of a leg's muzzle register: that of its set, or the pack's. -/
def State.protOwner (s : State) (p l : Nat) : Owner :=
  match s.setOfLeg p l with
  | some x => s.setOwner p x
  | none => s.owner (.pack p)

/-- A request is admitted to an owned resource (R362). -/
def Req.admits (q : Req) (o : Owner) : Bool := q.mapped && q.ten == o.ten && (!o.sec || q.sec)

/-- The violation kind of a request that is not admitted: ownership, or security alone (R363, R364). -/
def Req.refKind (q : Req) (o : Owner) : Nat := if q.mapped && q.ten == o.ten then 3 else 2

/-! ### PWM -/

/-- Clamp a shadow write of PWM_SET_CAR to its ranges (R155). -/
def carWord (v : Word) : Word × Bool :=
  let (c, n, cl) := carClamp v
  (F.PWM_SET_CAR.ncar_m1.put (F.PWM_SET_CAR.car.put 0 c) (n - 1), cl)

/-- A write to PWM_SET_CTL (R155, R158, R487). -/
def State.setCtlWrite (s : State) (p x : Nat) (v : Word) : State × Wr :=
  let legs := F.PWM_SET_CTL.legs.get v
  let dup := (List.range 6).any fun y => y != x && (s.f F.PWM_SET_CTL.legs p y &&& legs) != 0
  if s.setLocked p x then (s, .viol 4)
  else if dup then (s.setb F.PWM_SET_STAT.cfg_err p x, .err)
  else
    let old := s.legsOf p x
    let s1 := (s.wr .PWM_SET_CTL (RegName.PWM_SET_CTL.row.write 0 v) p x).legsChanged p x
    (((old.foldl (fun s l => s.drive p l) s1).driveSet p x).pcmRefresh p, .ok)

/-- A 1 written to PWM_LEG_ON or PWM_LEG_OFF for each leg that the writer owns (R179, R180, R182). -/
def State.legBits (s : State) (q : Req) (p : Nat) (v : Word) (on : Bool) : State × Wr :=
  let ls := (List.range 18).filter fun l => v.getLsbD l
  let mine := ls.filter fun l => q.admits (s.legOwner p l)
  let s1 := mine.foldl (fun s l => if on then s.enableLeg p l else s.disableLeg p l) s
  (s1.pcmRefresh p,
    match ls.find? fun l => !q.admits (s.legOwner p l) with
    | some l => .viol (q.refKind (s.legOwner p l))
    | none => .ok)

/-- A write to a PWM register (R154 to R184). -/
def State.hookPwm (s : State) (q : Req) (r : RegName) (p i j : Nat) (v : Word) : State × Wr :=
  let plain : State × Wr := (s.wr r (r.row.write (s.rd r p i j) v) p i j, .ok)
  let running (f : Fld) : Bool := match s.setOfLeg p i with
    | some x => !s.img.ctlr && (s.setAxSt p x == some 3 || s.setAxSt p x == some 4) && f.r == r
    | none => false
  let shadow (w : Word) : State := match s.setOfLeg p i with
    | some x => s.shadowWr p x r i w
    | none => s.wr r w p i
  match r with
  | .PWM_BASE =>
    let b := F.PWM_BASE.base.get v
    let b' := max 5000 (min b 10000000)
    if s.baseLocked p then (s, .viol 4)
    else ((s.put F.PWM_BASE.base b' p).setIf (b' != b) F.PWM_STATUS.cfg_clamp p, .ok)
  | .PWM_LEG_ON => s.legBits q p v true
  | .PWM_LEG_OFF => s.legBits q p v false
  | .PWM_SET_CTL => s.setCtlWrite p i v
  | .PWM_SET_CAR =>
    let (w, cl) := carWord v
    let (c, n, _) := carClamp v
    let st := s.setAxSt p i
    if !s.img.ctlr && (st == some 2 || st == some 3 || st == some 4) && c * n % s.f F.PWM_BASE.base p != 0 then
      (s.setb F.PWM_SET_STAT.cfg_err p i, .err)
    else ((s.shadowWr p i r i w).setIf cl F.PWM_SET_STAT.cfg_clamp p i, .ok)
  | .PWM_SET_RUN =>
    let was := s.setRunning p i
    let (s1, good) := if v.getLsbD 0 then s.setEnable p i else s.setDisable p i
    (if good then s1.runChanged p i was else s1, if good then .ok else .err)
  | .PWM_SET_LOAD => (if v.getLsbD 0 then s.loadGo p i else s, .ok)
  | .PWM_SET_SDN =>
    let d := F.PWM_SET_SDN.dwell.get v
    if s.setLocked p i then (s, .viol 4)
    else ((s.put F.PWM_SET_SDN.dwell (max d 1) p i).setIf (d == 0) F.PWM_SET_STAT.cfg_clamp p i, .ok)
  | .PWM_MASK_CTL => if s.setLocked p i then (s, .viol 4) else plain
  | .PWM_MASK => if s.setLocked p i then (s, .viol 4) else plain
  | .PWM_MASK_PTR => (s.maskPtrWrite p i v, .ok)
  | .PWM_FORCE => if !s.img.ctlr && s.setAxSt p i == some 4 then (s, .viol 5) else (s.forceWrite p i v, .ok)
  | .PWM_LEGCTL =>
    let a := F.PWM_LEGCTL.dt_rise.get v
    let b := F.PWM_LEGCTL.dt_fall.get v
    if s.legLocked p i then (s, .viol 4)
    else (((((s.wr r (r.row.write 0 v) p i).put F.PWM_LEGCTL.dt_rise (max a 1) p i).put F.PWM_LEGCTL.dt_fall (max b 1) p i).setIf
      (a == 0 || b == 0) F.PWM_LEGSTAT.cfg_clamp p i).updLeg p i fun k => { k with cfgd := k.cfgd || s.img.ctlr }, .ok)
  | .PWM_LEGMIN => if s.legLocked p i then (s, .viol 4) else plain
  | .PWM_LEGPCM => if s.legLocked p i then (s, .viol 4) else (plain.1.pcmRefresh p, .ok)
  | .PWM_LEGPH => (shadow (r.row.write 0 v), .ok)
  | .PWM_DUTY =>
    if running F.PWM_DUTY.d then (s, .viol 5)
    else
      let (d, cl) := clampDuty v
      ((shadow d).setIf cl F.PWM_LEGSTAT.cfg_clamp p i, .ok)
  | .PWM_CMPR => if running F.PWM_CMPR.cmpr then (s, .viol 5) else (shadow (r.row.write 0 v), .ok)
  | .PWM_CMPF => if running F.PWM_CMPF.cmpf then (s, .viol 5) else (shadow (r.row.write 0 v), .ok)
  | _ => plain

/-- DEAD_TIME_EXPIRY: once the dead time has passed the waiting turn-on happens if its source still asks for it (R165). -/
def State.deadTimeEnd (s : State) (p l : Nat) : State :=
  match (s.pleg p l).pendOn with
  | some high => s.atRaw (s.deadDue p l high) fun s => s.drive p l
  | none => s

/-- BLANKING_END at the end of the timer: a comparator output that is already true ends the pulse (R177). -/
def State.blankEnd (s : State) (p l : Nat) : State :=
  if (s.pleg p l).blank then
    s.atRaw (s.pleg p l).blankTo fun s => (s.updLeg p l fun k => { k with blank := false }).pcmEnd p l
  else s

/-- A set sequence completes once its dwell has ended and no member is in a sequence of its own: the axis in SHUTDOWN becomes
CONFIGURED, with a pending ARM kept (R141, R181). -/
def State.seqComplete (s : State) (p x : Nat) : State :=
  if (s.pset p x).dwellDone && !(s.legsOf p x).any fun l => (s.pleg p l).seqOwn then
    let s1 := (s.clrb F.PWM_SET_STAT.seq p x).updSet p x fun k => { k with dwellDone := false }
    match s1.axisOfSet p x with
    | some a => if s1.axSt p a = 6 then s1.setAx p a 1 else s1.axRefresh p a
    | none => s1.driveSet p x
  else s

/-- The dwell of a set sequence ends: its legs go idle, but for those in a sequence of their own (R179, R181). -/
def State.setDwellEnd (s : State) (p x : Nat) : State :=
  if s.bit F.PWM_SET_STAT.seq p x && !(s.pset p x).dwellDone then s.atRaw (s.dwellDue p x (s.pset p x).seqAt) fun s =>
    let s1 := (s.legsOf p x).foldl (fun s l =>
      if (s.pleg p l).seqOwn then s else (s.clrb F.PWM_LEGSTAT.seq p l).drive p l) s
    (s1.updSet p x fun k => { k with dwellDone := true }).seqComplete p x
  else s

/-- The dwell of a leg's own sequence ends (R179, R181). -/
def State.legDwellEnd (s : State) (p l : Nat) : State :=
  if (s.pleg p l).seqOwn then
    let ended (s : State) : State := ((s.clrb F.PWM_LEGSTAT.seq p l).updLeg p l fun k => { k with seqOwn := false }).drive p l
    match s.setOfLeg p l with
    | some x => s.atRaw (s.dwellDue p x (s.pleg p l).seqAt) fun s => (ended s).seqComplete p x
    | none => ended s
  else s

/-! ### Comparators, muzzle, thermal limits -/

/-- A running set locks what protects it, but not to the configuration controller (R15, R217). -/
def State.runLocks (s : State) (p x : Nat) : Bool := !s.img.ctlr && s.setRunning p x

/-- A set in the route of source `x` is running. -/
def State.routeRuns (s : State) (p x : Nat) : Bool :=
  (List.range 6).any fun st => s.routed p x st && s.runLocks p st

/-- The comparator's structural registers are locked (R217). -/
def State.cmpLocked (s : State) (p n : Nat) : Bool := s.routeRuns p n || s.routeRuns p (16 + n)

/-- A filter's length and majority clamped to R188, with whether either was. -/
def fltClamp (m k : Nat) : Nat × Nat × Bool :=
  let m' := max m 1
  let k' := min (max k (m' / 2 + 1)) m'
  (m', k', m' != m || k' != k)

/-- A write to a comparator register (R185 to R198, R217); an accepted write of CMP_CHK begins its periods and its alternate ties anew
(R195, R196, log 126). -/
def State.hookCmp (s : State) (r : RegName) (p n : Nat) (v : Word) : State × Wr :=
  let plain : State × Wr := (s.wr r (r.row.write (s.rd r p n) v) p n, .ok)
  match r with
  | .CMP_CFG =>
    if s.cmpLocked p n then (s, .viol 4)
    else if F.CMP_CFG.mode.get v = 3 then (s, .err)
    else ((s.cmpCatch p n).wr r (if n % 2 = 1 then F.CMP_CFG.diff.put (r.row.write 0 v) 0 else r.row.write 0 v) p n, .ok)
  | .CMP_FLT =>
    let (m, k, cl) := fltClamp (F.CMP_FLT.m.get v) (F.CMP_FLT.k.get v)
    if s.cmpLocked p n then (s, .viol 4)
    else
      let same := m == s.f F.CMP_FLT.m p n && k == s.f F.CMP_FLT.k p n
      let s1 := ((s.put F.CMP_FLT.m m p n).put F.CMP_FLT.k k p n).setIf cl F.CMP_STAT.cfg_clamp p n
      let s2 := if same then s1 else s1.cmpRefill p n
      (if s2.bit F.CMP_CHK.en p n then s2.chkClamp p n else s2, .ok)
  | .CMP_THR => (s.thrWrite p n v, .ok)
  | .CMP_CHK =>
    if s.cmpLocked p n then (s, .viol 4)
    else
      let s1 := (s.wr r (r.row.write 0 v) p n).updAcq p fun q => { q with chk := q.chk.set 0 n 0 }
      let s2 := s1.updCmp p n fun k => { k with cntAt := 0, tieHigh := false }
      ((if v.getLsbD 0 then s2.chkClamp p n else s2).cmpEval p n s.now, .ok)
  | .CMP_CHKOFF =>
    if s.cmpLocked p n then (s, .viol 4) else (plain.1.chkClamp p n, .ok)
  | .CMP_STAT => (plain.1.cmpEval p n s.now, .ok)
  | .CMP_CTL =>
    if v.getLsbD 0 then
      let (s1, good) := s.readbackStart p
      (s1, if good then .ok else .err)
    else (s, .ok)
  | _ => plain

/-- SOFTWARE_TRIP: the bits of the sets that the writer owns (R209). -/
def State.swBits (s : State) (q : Req) (p : Nat) (v : Word) : State × Wr :=
  let xs := (List.range 6).filter fun x => v.getLsbD x
  let mine := xs.filter fun x => q.admits (s.setOwner p x)
  (mine.foldl (fun s x => s.swTrip p x) s,
    match xs.find? fun x => !q.admits (s.setOwner p x) with
    | some x => .viol (q.refKind (s.setOwner p x))
    | none => .ok)

/-- A write to a muzzle register (R199 to R210, R217). -/
def State.hookMuz (s : State) (q : Req) (r : RegName) (p i : Nat) (v : Word) : State × Wr :=
  let plain : State × Wr := (s.wr r (r.row.write (s.rd r p i) v) p i, .ok)
  match r with
  | .MUZ_CTL =>
    let n := F.MUZ_CTL.inc_win.get v
    ((s.put F.MUZ_CTL.inc_win (max n 1) p).setIf (n == 0) F.MUZ_INC.cfg_clamp p, .ok)
  | .MUZ_SWTRIP => s.swBits q p v
  | .MUZ_SRC =>
    let new := F.MUZ_SRC.sets.get v
    if s.routeRuns p i || (List.range 6).any fun st => new.testBit st && s.runLocks p st then (s, .viol 4)
    else if i < 40 then plain
    else (s.put F.MUZ_SRC.sets new p i, .ok)
  | .MUZ_PROT =>
    let (m, k, cl) := fltClamp (F.MUZ_PROT.m.get v) (F.MUZ_PROT.k.get v)
    let locked := match s.setOfLeg p i with
      | some x => s.runLocks p x
      | none => false
    if locked then (s, .viol 4)
    else
      let fresh := m != s.f F.MUZ_PROT.m p i || k != s.f F.MUZ_PROT.k p i
      let s1 := ((plain.1.put F.MUZ_PROT.m m p i).put F.MUZ_PROT.k k p i).setIf cl F.MUZ_INC.cfg_clamp p
      ((s1.protWritten p i false fresh).protWritten p i true fresh, .ok)
  | .MUZ_PAT =>
    let n := F.MUZ_PAT.pat.get v
    if s.runLocks p i then (s, .viol 4)
    else (((s.put F.MUZ_PAT.pat (if n = 3 then 0 else n) p i).setIf (n == 3) F.MUZ_SET_STAT.cfg_clamp p i).muzRefresh p i, .ok)
  | .MUZ_SET_STAT =>
    let s1 := s.wr r (r.row.write (s.rd r p i) (F.MUZ_SET_STAT.tripped.put v 0)) p i
    if v.getLsbD 0 then
      let (s2, good) := s1.tripClear p i
      (s2, if good then .ok else .err)
    else (s1, .ok)
  | _ => plain

/-- A write to a thermal register (R215). -/
def State.hookThm (s : State) (r : RegName) (i : Nat) (v : Word) : State × Wr :=
  match r with
  | .THM_THR => (s.thmThrWrite i v, .ok)
  | _ => (s.wr r (r.row.write (s.rd r 0 i) v) 0 i, .ok)

/-- INCIDENT_WINDOW_END: a trip at the end of the window still joins, so the incident closes after it (R210). -/
def State.incidentEnd (s : State) (p : Nat) : State :=
  if s.bit F.MUZ_INC.open_ p then
    s.atTag (s.incTag.get 0 p + BitVec.ofNat 64 (s.f F.MUZ_CTL.inc_win p * 160000) + 1) fun s => s.clrb F.MUZ_INC.open_ p
  else s

/-- MASK_EVENT_APPLY: the waiting event's delay has expired (R173). -/
def State.maskDue (s : State) (p x : Nat) : State :=
  match (s.pset p x).maskWait with
  | some (due, st) => if s.bit F.PWM_STATUS.clk_ok p then s.atRaw due fun s => s.maskApply p x st else s
  | none => s

end Sys2Proof.Machine
end

