-- ==== Sys2Proof/Machine/Memctl.lean ====
section
/-! DEFINITION. The MEM block's commands: initialisation, the scrubber, retirement of pages and the nonvolatile memory
controller (R311, R316, R320 to R326), the window registers (R332) and the start of a DMA channel (R333 to R335). -/

namespace Sys2Proof.Machine

/-! ### Initialisation -/

/-- The pages that MEM_INIT names, clamped to end at 0x11FF_FFFF (R311), and whether they were clamped. -/
def State.initPages (s : State) : List Nat × Bool :=
  let b := s.f F.MEM_INIT_BASE.base
  let n := s.f F.MEM_INIT_CNT.cnt
  let n' := min n (0x12000 - b)
  ((List.range n').map (b + ·), n' != n)

/-- Every cached copy of a page's lines is invalidated; dirty data is discarded (R311). -/
def State.dropPages (s : State) (ps : List Nat) : State :=
  { s with ram := { s.ram with
      l1 := s.ram.l1.filter fun e => !ps.contains (e.1 / 512)
      l2 := s.ram.l2.filter fun e => !ps.contains (e.1 / 64)
      cFlips := s.ram.cFlips.filter fun e => !ps.contains (e.1 / 576) } }

/-- The valid bits of a list of pages are cleared, and their words' errors with them. -/
def State.clearPages (s : State) (ps : List Nat) : State :=
  { s with ram := { s.ram with
      valid := s.ram.valid.filter fun e => !ps.contains (e.1 / 1024)
      flips := s.ram.flips.filter fun e => !ps.contains (e.1 / 1024) } }

/-- The start of MEM_INIT (R311): refused while busy, and where a page fails the writer's regions; retired pages are skipped. -/
def State.initStart (s : State) (q : Req) : State × Wr :=
  let (ps, cl) := s.initPages
  let bad := ps.find? fun g => !(isSram (g * 4096) && s.regionOk q .write (g * 4096) 4096)
  if s.bit F.MEM_INIT_STAT.busy then (s.setb F.MEM_INIT_STAT.refused, .err)
  else match bad with
    | some g => ((s.setb F.MEM_INIT_STAT.refused).refuse q .write (g * 4096) 4096, .err)
    | none =>
      let live := ps.filter fun g => !s.ram.closed.contains g
      let s1 := (s.dropPages live).clearPages live
      ((s1.setb F.MEM_INIT_STAT.busy).setIf cl F.MEM_INIT_STAT.cnt_clamp, .ok)

/-- INIT_DONE: the clearing has ended. -/
def State.initDone (s : State) : State := s.clrb F.MEM_INIT_STAT.busy

/-! ### Scrubber -/

/-- What the scrubber or the nonvolatile controller has read: an uncorrectable word enters T0's alarm queue (R315). -/
def State.scrubbed (a : Nat) : State × Bool → State
  | (s, true) => s
  | (s, false) => s.alarm [0] 6 63 (if isNv a then 5 else 2) (BitVec.ofNat 32 a) 0 s.now

/-- The scrubber reads one SRAM word or one nonvolatile line (R316); the last address of a pass completes it. -/
def State.scrubRead (s : State) (a : Nat) : State :=
  if isSram a then
    if s.f F.MEM_SCRUB_CTL.sram_ms = 0 then s
    else
      let s1 := if s.pageClosedAt a then s else State.scrubbed a (s.eccRead a 0 63)
      s1.setIf (a / 4 == 0x11FFFFFC / 4) F.MEM_SCRUB_STAT.sram_pass
  else if isNv a then
    if s.f F.MEM_SCRUB_CTL.nvm_s = 0 then s
    else
      let s1 := if s.blkRetired a then s else State.scrubbed a (s.nvRead a 0 63)
      s1.setIf (a / 64 == 0x3FFFFFF / 64) F.MEM_SCRUB_STAT.nvm_pass
  else s

/-! ### Page retirement -/

/-- A write to MEM_RETIRE_n (R320, R321). -/
def State.retireWrite (s : State) (n : Nat) (v : Word) : State × Wr :=
  let old := s.rd .MEM_RETIRE 0 n
  let v' := RegName.MEM_RETIRE.row.write 0 v
  let page := F.MEM_RETIRE.page.get v
  let refuse : State × Wr := (s.setb F.MEM_RETIRE_STAT.bad_page, .err)
  if old.getLsbD 0 then if v' = old then (s, .ok) else refuse
  else if v.getLsbD 0 then
    let dup := (List.range 64).any fun m => m != n && s.bit F.MEM_RETIRE.en 0 m && s.f F.MEM_RETIRE.page 0 m == page
    if page < 0x10000 ∨ 0x12000 ≤ page ∨ dup then refuse
    else
      let s1 := (List.range 64).foldl (fun s l => s.recall (page * 64 + l)) s
      let s2 := (s1.wr .MEM_RETIRE v' 0 n).put F.MEM_RETIRE_STAT.used (s.f F.MEM_RETIRE_STAT.used + 1)
      ({ (s2.setb F.MEM_RETIRE_STAT.busy) with ram := { s2.ram with closing := s2.ram.closing ++ [(n, page)] } }, .ok)
  else (s.wr .MEM_RETIRE v' 0 n, .ok)

/-- PAGE_CLOSED: the oldest closing page has closed (R320). -/
def State.pageClose (s : State) : State :=
  match s.ram.closing with
  | [] => s
  | (_, g) :: rest =>
    let s1 := { s with ram := { s.ram with closing := rest, closed := s.ram.closed ++ [g] } }
    s1.putb F.MEM_RETIRE_STAT.busy (!rest.isEmpty)

/-! ### Nonvolatile memory controller -/

/-- An address in the bank that did not boot (R322, R230). -/
def inOtherBank (a : Nat) : Bool := decide (0x2000000 ≤ a ∧ a < 0x4000000)

/-- The bytes of a bank's header that the device alone writes: seq and state (R229). -/
def hdrOwn (k : Nat) : Bool := decide (4 ≤ k % 0x2000000 ∧ k % 0x2000000 < 12)

/-- A PROGRAM of the line that holds a bank's header would change seq or state (R229). -/
def State.hdrWrite (s : State) (cmd d len : Nat) : Bool :=
  let src := s.f F.MEM_NV_SRC.src * 64
  cmd == 1 && len != 0 && s.nvKey d % 0x2000000 == 0 && (List.range 8).any fun i => s.byte (src + 4 + i) != s.byte (d + 4 + i)

/-- A write to MEM_NV_CMD (R322, R323, R326): refused while busy, toward the booted bank, and for a program or erase of a
retired block. A PROGRAM that would change seq or state of the bank's header gets an error response, and the rest of it is carried
out (R229, log 134). -/
def State.nvCommand (s : State) (cmd : Nat) : State × Wr :=
  let d := s.f F.MEM_NV_DST.dst * 64
  let len := s.f F.MEM_NV_LEN.len * 64
  let room := 0x4000 - d % 0x4000
  let refused := s.bit F.MEM_NV_STAT.busy || !inOtherBank d || (cmd != 3 && s.blkRetired d)
  if cmd = 0 then (s, .ok)
  else if refused then (s.setb F.MEM_NV_STAT.refused, .err)
  else
    let s1 := (s.setb F.MEM_NV_STAT.busy).put F.MEM_NV_STAT.lines 0
    let s2 := s1.setIf (cmd == 1 && decide (room < len)) F.MEM_NV_STAT.len_clamp
    ({ s2 with ram := { s2.ram with nvJob := cmd, nvArg := (s.f F.MEM_NV_SRC.src * 64, d, min len room) } }, if s.hdrWrite cmd d (min len room) then .err else .ok)

/-- Set the bytes of a nonvolatile line. -/
def State.setCells (s : State) (k : Nat) : List Byte → State
  | [] => s
  | b :: bs => State.setCells (s.setCell k b) (k + 1) bs

/-- Program the bytes of a nonvolatile line; seq and state of a bank's header stay (R229). -/
def State.progCells (s : State) (k : Nat) : List Byte → State
  | [] => s
  | b :: bs => State.progCells (if hdrOwn k then s else s.setCell k b) (k + 1) bs

/-- Program lines in ascending order; the command stops at a line that is not erased or a source that cannot be read. -/
def State.programLines (s : State) (src dst : Nat) : Nat → State
  | 0 => s
  | n + 1 =>
    let k := s.nvKey dst
    if s.ram.nvProg.get false (k / 64) then s.setb F.MEM_NV_STAT.not_erased
    else
      let (s1, good) := (List.range 16).foldl (fun (r : State × Bool) i =>
        if r.2 then r.1.eccRead (src + 4 * i) 6 63 else r) (s, isSram src)
      if !good then (if isSram src then State.scrubbed src (s1, false) else s1).setb F.MEM_NV_STAT.ue
      else
        let s2 := s1.progCells k (s1.bytes src 64)
        let s3 := { s2 with ram := { s2.ram with nvProg := s2.ram.nvProg.set false (k / 64) true,
                                                 nvFlips := s2.ram.nvFlips.set 0 (k / 64) 0 } }
        State.programLines (s3.put F.MEM_NV_STAT.lines (s3.f F.MEM_NV_STAT.lines + 1)) (src + 64) (dst + 64) n

/-- Erase the block that holds cell `k`; seq and state of a bank's header stay (R229). -/
def State.eraseBlock (s : State) (k : Nat) : State :=
  let b := nvBlk k
  { s with
    mem := s.mem.filter fun e => nvBlk e.1 != b || decide (0x4000000 ≤ e.1) || hdrOwn e.1
    ram := { s.ram with nvProg := s.ram.nvProg.filter fun e => e.1 / 256 != b
                        nvFlips := s.ram.nvFlips.filter fun e => e.1 / 256 != b } }

/-- A program or erase failed to verify: remapped to a spare block, or worn with no spare (R324, R325). True where the
command goes on. -/
def State.remap (s : State) (d bank : Nat) : State × Bool :=
  if s.f F.MEM_NV_SPARE.spare 0 bank = 0 then
    let s1 := (s.setb F.MEM_NV_STAT.no_spare).elogAdd d 9 6 63
    (s1.alarm [0] 6 63 9 (BitVec.ofNat 32 d) 0 s1.now, false)
  else ((s.put F.MEM_NV_SPARE.spare (s.f F.MEM_NV_SPARE.spare 0 bank - 1) 0 bank).elogAdd d 8 6 63, true)

/-- NV_COMMAND_DONE: the command in progress ends with its effect (R322 to R326). -/
def State.nvDone (s : State) (fails : Bool) : State :=
  if !s.bit F.MEM_NV_STAT.busy then s
  else
    let (src, d, len) := s.ram.nvArg
    let bank := 1 - s.boot
    let job := s.ram.nvJob
    let (s1, go) := if fails && job != 3 then s.remap d bank else (s, true)
    let s2 :=
      if !go then s1
      else if job = 1 then s1.programLines src d (len / 64)
      else if job = 2 then s1.eraseBlock (s.nvKey d)
      else if s.blkRetired d then s1
      else
        let s2 := { s1 with ram := { s1.ram with nvRetired := s1.ram.nvRetired.set false (nvBlk (s.nvKey d)) true } }
        s2.put F.MEM_NV_SPARE.retired (s2.f F.MEM_NV_SPARE.retired 0 bank + 1) 0 bank
    ({ s2 with ram := { s2.ram with nvJob := 0 } }.clrb F.MEM_NV_STAT.busy).setb F.MEM_NV_STAT.done

/-! ### Windows -/

/-- A write to a window's base (R332). -/
def State.winBase (s : State) (c w : Nat) (v : Word) : State × Wr :=
  if s.bit F.MEM_WIN_CTL.en 0 c w then (s.setb F.MEM_WIN_CTL.locked 0 c w, .err)
  else (s.wr .MEM_WIN_BASE (RegName.MEM_WIN_BASE.row.write 0 v) 0 c w, .ok)

/-- A write to a register of the MEM block (R311, R319 to R323, R332). -/
def State.hookMem (s : State) (q : Req) (r : RegName) (i j : Nat) (v : Word) : State × Wr :=
  let plain : State × Wr := (s.wr r (r.row.write (s.rd r 0 i j) v) 0 i j, .ok)
  match r with
  | .MEM_ELOG_POP => (if v.getLsbD 0 then s.popLog 8 else s, .ok)
  | .MEM_INIT_CMD => if v.getLsbD 0 then s.initStart q else (s, .ok)
  | .MEM_RETIRE => s.retireWrite i v
  | .MEM_NV_CMD => s.nvCommand (F.MEM_NV_CMD.cmd.get v)
  | .MEM_WIN_BASE => s.winBase i j v
  | _ => plain

/-! ### DMA -/

/-- The node number of this device; 0 until one is assigned (R330, R420). -/
def State.node (s : State) : Nat := s.f F.FAB_NODE.node

/-- A 52-bit address names this node (R330). -/
def State.localAddr (s : State) (a : Nat) : Bool := a / 2 ^ 44 == s.node

/-- The end of the range of the local map that holds an address (R297): a transfer is clamped to it (R334). -/
def spaceEnd (a : Nat) : Nat :=
  if a < 0x2000000 then 0x2000000
  else if a < 0x4000000 then 0x4000000
  else if isSram a then 0x12000000
  else if 0x20000000 ≤ a ∧ a < 0x22000000 then 0x22000000
  else if 0x30000000 ≤ a ∧ a < 0x32000000 then 0x32000000
  else if 0x40000000 ≤ a ∧ a < 0x44000000 then 0x44000000
  else if 0x50000000 ≤ a ∧ a < 0x57000000 then 0x57000000
  else if 0x80000000 ≤ a ∧ a < 0xC0000000 then 0xC0000000
  else 0x100000000

/-- The room between a 52-bit address and the end of its space. -/
def State.roomAt (s : State) (a : Nat) : Nat :=
  let o := a % 2 ^ 44
  if s.localAddr a then spaceEnd o - o else 0x100000000 - o

/-- A channel halts with a cause (R335). -/
def State.dmaHalt (s : State) (k cause : Nat) (t : Tag := s.now) : State :=
  let s1 := (((s.clrb F.DMA_STAT.busy 0 k).setb F.DMA_STAT.halted 0 k).put F.DMA_STAT.cause cause 0 k).setPair
    .DMA_TAG_LO .DMA_TAG_HI t 0 k
  s1.alarm [(s1.owner (.dma k)).ten] 12 k cause (BitVec.ofNat 32 (s1.f F.DMA_LEN.len 0 k * 4)) 0 t

/-- A channel's transfer or chain has completed: done, and its leash event (R337). -/
def State.dmaDone (s : State) (k : Nat) : State :=
  let s1 := ((s.clrb F.DMA_STAT.busy 0 k).setb F.DMA_STAT.done 0 k).setPair .DMA_TAG_LO .DMA_TAG_HI s.now 0 k
  if s1.bit F.DMA_CTL.done_en 0 k then
    s1.produce (256 + s1.f F.DMA_CTL.done_ch 0 k) 5 k 0 s1.now (s1.owner (.dma k)) 49 (256 + s1.f F.DMA_CTL.done_ch 0 k)
  else s1

/-- Load the registers' transfer into the engine, its length clamped to both spaces (R334). -/
def State.dmaLoad (s : State) (k : Nat) : State :=
  let src := (s.pairAt .DMA_SRC_LO .DMA_SRC_HI 0 k).toNat % 2 ^ 52
  let dst := (s.pairAt .DMA_DST_LO .DMA_DST_HI 0 k).toNat % 2 ^ 52
  let len := s.f F.DMA_LEN.len 0 k * 4
  let len' := min len (min (s.roomAt src) (s.roomAt dst))
  let s1 := (s.put F.DMA_LEN.len ((len' + 3) / 4) 0 k).setIf (len' != len) F.DMA_STAT.clamp 0 k
  { s1 with dma := s1.dma.set {} k { src := src, dst := dst, left := len' } }

/-- The 32-byte descriptor at DMA_NEXT is read with the channel's rights (R333, R334): SRC, DST, len, control and next in the
layout of the registers. The words, or the halt cause. -/
def State.dmaDesc (s : State) (k a : Nat) : State × Except Nat (List Word) :=
  (List.range 8).foldl (fun (r : State × Except Nat (List Word)) i =>
    match r.2 with
    | .error e => (r.1, .error e)
    | .ok ws =>
      match r.1.memRead (r.1.req (.dma (Fin.ofNat 32 k))) .read (a + 4 * i) 4 with
      | (s1, .ok w) => (s1, .ok (ws ++ [w]))
      | (s1, .ue) => (s1, .error 2)
      | (s1, _) => (s1, .error 1)) (s, .ok [])

/-- A channel whose length has reached 0 and that follows a chain. -/
def State.dmaChains (s : State) (k : Nat) : Bool := s.bit F.DMA_CTL.chain 0 k && s.f F.DMA_NEXT.next 0 k != 0

/-- A channel whose length is 0 completes, unless it follows a chain (R333, R334). -/
def State.dmaEnd (s : State) (k : Nat) : State :=
  if s.f F.DMA_LEN.len 0 k = 0 && !s.dmaChains k then s.dmaDone k else s

/-- A channel whose length is 0 loads the descriptor at DMA_NEXT and continues (R333, R334). -/
def State.dmaNext (s : State) (k : Nat) : State :=
  match s.dmaDesc k (s.f F.DMA_NEXT.next 0 k * 32) with
  | (s1, .error c) => s1.dmaHalt k c
  | (s1, .ok ws) =>
    let g (i : Nat) : Word := ws.getD i 0
    let big := decide (0xFFFFFC < (g 4).toNat)
    let s2 := (((s1.wr .DMA_SRC_LO (g 0) 0 k).put F.DMA_SRC_HI.src (g 1).toNat 0 k).wr .DMA_DST_LO (g 2) 0 k).put
      F.DMA_DST_HI.dst (g 3).toNat 0 k
    let s3 := ((s2.put F.DMA_LEN.len (if big then 0x3FFFFF else (g 4).toNat / 4) 0 k).setIf big F.DMA_STAT.clamp 0 k)
    let s4 := ((s3.wr .DMA_CTL (RegName.DMA_CTL.row.write 0 (g 5)) 0 k).wr .DMA_NEXT (RegName.DMA_NEXT.row.write 0 (g 6)) 0 k)
    (s4.dmaLoad k).dmaEnd k

/-- A channel starts (R333): refused, as false, while it runs or is halted. -/
def State.dmaStart (s : State) (k : Nat) : State × Bool :=
  if s.bit F.DMA_STAT.busy 0 k || s.bit F.DMA_STAT.halted 0 k then (s, false)
  else (((s.setb F.DMA_STAT.busy 0 k).dmaLoad k).dmaEnd k, true)

/-- A stop command ends the channel after the burst in progress (R335). -/
def State.dmaStop (s : State) (k : Nat) : State :=
  if s.bit F.DMA_STAT.busy 0 k then { s with dma := s.dma.upd {} k fun d => { d with stop := true } } else s

/-- A write to a DMA register (R333 to R335). -/
def State.hookDma (s : State) (r : RegName) (k : Nat) (v : Word) : State × Wr :=
  let plain : State × Wr := (s.wr r (r.row.write (s.rd r 0 k) v) 0 k, .ok)
  match r with
  | .DMA_CMD =>
    let (s1, good) := if v.getLsbD 0 then s.dmaStart k else (s, true)
    (if v.getLsbD 1 then s1.dmaStop k else s1, if good then .ok else .err)
  | .DMA_STAT => ((if v.getLsbD 2 then plain.1.put F.DMA_STAT.cause 0 0 k else plain.1), .ok)
  | _ => plain

end Sys2Proof.Machine
end

