-- ==== Sys2Proof/Machine/Leash.lean ====
section
/-! DEFINITION. Leash channels, flags, doorbells and mailboxes (R336 to R357), and the write effects of the core-private blocks
INT, MBX, CHK and SCHED. A leash ring is 0 to 3 for a pack's router and 4 for the system's; global channel 64·ring + c. -/

namespace Sys2Proof.Machine

/-! ### Channels -/

/-- Set or clear bit `c` of a flag or overrun register of a ring. -/
def State.putRing (s : State) (r : RegName) (g : Nat) (b : Bool) : State :=
  let (r', p, c) := lshReg g r
  s.putNbit r' (c % 32) b p (c / 32)

/-- Bit of a flag or overrun register of global channel `g`. -/
def State.ringBit (s : State) (r : RegName) (g : Nat) : Bool :=
  let (r', p, c) := lshReg g r
  s.nbit r' (c % 32) p (c / 32)

/-- An event merged at a busy consumer: LSH_OVR and the channel's overrun count (R342). -/
def State.overrun (s : State) (g : Nat) : State :=
  let (r, p, c) := lshReg g .PLSH_LAST
  (s.putRing .PLSH_OVR g true).inc { F.PLSH_LAST.ovr_cnt with r := r } p c

/-- The field link is trained and carrying transfers. -/
def State.fieldUp (s : State) : Bool := s.bit F.PWR_D2D_STATUS.fld_up

/-- The consumer of a channel cannot be reached (R344): it sits on the core die while the field link is lost or the device is in
Den, or its core pair is in reset. -/
def State.unreachable (s : State) (g : Nat) : Bool :=
  let ck := s.lf F.PLSH_CONS.ckind g
  (ck == 1 || ck == 3) &&
    (!s.fieldUp || s.pwr.past || (ck == 1 && (s.core (s.lf F.PLSH_CONS.core g)).held))

/-- The producer of a channel sits on the core die: software, an axis, a slot or a DMA channel (R27, R337). -/
def State.coreProducer (s : State) (g : Nat) : Bool :=
  let k := s.lf F.PLSH_PROD.pkind g
  k == 0 || k == 3 || k == 4 || k == 5

/-- A channel holds an event; one already held is replaced and counts as an overrun (R344). -/
def State.holdEv (s : State) (g : Nat) (e : LEv) : State :=
  let s1 := if (s.lsh.held.get [] g).isEmpty then s else s.overrun g
  ({ s1 with lsh := { s1.lsh with held := s1.lsh.held.set [] g [e] } }).putLf F.PLSH_ATTR.held 1 g

/-- The consumer of a delivered event acts, or merges it where it is busy (R337, R342). True where a power wake is asked for. -/
def State.consume (s : State) (g : Nat) (e : LEv) (wasFlag : Bool) : State × Bool :=
  let ck := s.lf F.PLSH_CONS.ckind g
  let idx := s.lf F.PLSH_CONS.idx g
  if ck = 0 then (if wasFlag then s.overrun g else s, false)
  else if ck = 1 then
    let c := s.lf F.PLSH_CONS.core g
    ((if s.pends c (idx % 512) then s.overrun g else s).pendSrc c (idx % 512), false)
  else if ck = 2 then
    if g < 256 && idx < 6 && s.f F.PWM_MASK_CTL.ch (g / 64) idx == g % 64 then
      let s1 := if (s.pset (g / 64) idx).maskWait.isSome then s.overrun g else s
      (s1.maskEventAt (g / 64) idx e.tag (if s.lf F.PLSH_PROD.pkind g = 1 then e.data.toNat % 8 else 0), false)
    else (s, false)
  else if ck = 3 then
    if 256 ≤ g && idx < 32 && s.f F.DMA_CTL.trig 0 idx == 1 && s.f F.DMA_CTL.lsh_ch 0 idx == g - 256 then
      let (s1, good) := s.dmaStart idx
      (if good then s1 else s1.overrun g, false)
    else (s, false)
  else (s, ck == 4)

/-- The SPI masters that take an event of pack channel `g` (R430, log 148). -/
def State.spiNote (s : State) (g : Nat) : State :=
  if g < 256 then
    (List.range 4).foldl (fun s m =>
      let p := g / 64
      if s.bit F.SPI_CTL.en p m && s.f F.SPI_CTL.trig p m == 2 && s.f F.SPI_TRG.ch p m == g % 64 then
        { s with net := { s.net with spiEv := s.net.spiEv.upd 0 (4 * p + m) (· + 1) } }
      else s) s
  else s

/-- The channel has just delivered an event of the tag of its next one: the router spaces the two one tick apart (R340). -/
def State.lshTwin (s : State) (g : Nat) : Bool :=
  match s.lsh.flight.get [] g with
  | e :: _ => s.lsh.last.get none g == some (s.clk.raw, e.tag)
  | [] => false

/-- The oldest event in flight on a channel is delivered or held (R339 to R345). True where it asks for a power wake. -/
def State.deliverEv1 (s : State) (g : Nat) : State × Bool :=
  match s.lsh.flight.get [] g with
  | [] => (s, false)
  | e :: rest =>
    if s.pwr.mode = 3 then (s, false)
    else
      let s1 := { s with lsh := { s.lsh with flight := s.lsh.flight.set [] g rest, last := s.lsh.last.set none g (some (s.clk.raw, e.tag)) } }
      if s1.lf F.PLSH_ATTR.en g = 0 then (s1, false)
      else if !s1.fieldUp && s1.coreProducer g then (s1.holdEv g e, false)
      else
        let was := s1.ringBit .PLSH_FLAG g
        let s2 := s1.putRing .PLSH_FLAG g true
        if s2.unreachable g then (s2.holdEv g e, false)
        else
          let (rt, p, c) := lshReg g .PLSH_TAG_LO
          let (rh, _, _) := lshReg g .PLSH_TAG_HI
          (((s2.putLf F.PLSH_LAST.data e.data.toNat g).setPair rt rh e.tag p c).spiNote g).consume g e was

/-- LEASH_EVENT_DELIVERY: the oldest event in flight on a channel, one tick after an event of the same tag (R340). -/
def State.deliverEv (s : State) (g : Nat) : State × Bool := (if s.lshTwin g then s.run 1 else s).deliverEv1 g

/-- Held events whose consumers can be reached again are on their way (R27, R344). -/
def State.releaseHeld (s : State) : State :=
  s.lsh.held.foldl (fun (s : State) (e : Nat × List LEv) =>
    let g := e.1
    if e.2.isEmpty || s.unreachable g || (!s.fieldUp && s.coreProducer g) then s
    else
      ({ s with lsh := { s.lsh with held := s.lsh.held.set [] g [], flight := s.lsh.flight.set [] g (e.2 ++ s.lsh.flight.get [] g) } }).putLf
        F.PLSH_ATTR.held 0 g) s

/-- The channels of a ring's register word `w` whose bits are 1 in a value. -/
def ringBits (ring w : Nat) (v : Word) : List Nat :=
  ((List.range 32).filter fun i => v.getLsbD i).map fun i => 64 * ring + 32 * w + i

/-- Flags or overruns set or cleared by bits of 1 for the writer's own channels (R341). -/
def State.ringWrite (s : State) (q : Req) (r : RegName) (ring w : Nat) (v : Word) (b : Bool) : State × Wr :=
  let gs := ringBits ring w v
  let s1 := (gs.filter fun g => q.admits (s.lshOwner g)).foldl (fun s g => s.putRing r g b) s
  (s1, match gs.find? fun g => !q.admits (s.lshOwner g) with
    | some g => .viol (q.refKind (s.lshOwner g))
    | none => .ok)

/-- The bits of a flag or overrun word that a reader may see (R341). -/
def State.ringRead (s : State) (q : Req) (r : RegName) (ring w : Nat) : Word :=
  BitVec.ofNat 32 ((List.range 32).foldl (fun n i =>
    let g := 64 * ring + 32 * w + i
    if q.admits (s.lshOwner g) && s.ringBit r g then n + 2 ^ i else n) 0)

/-- A write to LSH_RAISE (R338): refused, with its entry, where the channel is not software's, not the writer's, or secure. -/
def State.raiseWrite (s : State) (q : Req) (ring : Nat) (v : Word) : State × Wr :=
  let g := 64 * ring + F.PLSH_RAISE.ch.get v
  let o := s.lshOwner g
  if !q.admits o then (s.violation q 0 (q.refKind o) .event (some o) g (lshDomain g), .err)
  else if s.lf F.PLSH_PROD.pkind g ≠ 0 then (s.violation q 0 7 .event (some o) g (lshDomain g), .err)
  else (s.raiseEv g (BitVec.ofNat 8 (F.PLSH_RAISE.data.get v)) s.now q.rank, .ok)

/-- A write to the doorbell alias of a core (R346). -/
def State.aliasDoorbell (s : State) (q : Req) (c : Nat) (a : Nat) (v : Word) : State × Wr :=
  let src := F.LSH_DB.src.get v
  if src < 512 || !(s.rd .INT_DBT c).getLsbD q.ten then (s.violation q a 10 .event none, .err)
  else (s.pendSrc c src, .ok)

/-! ### Mailboxes -/

/-- The message in a receive channel and its words (R351, R352). -/
def State.mbxWords (s : State) (c ch : Nat) : List Word := (List.range 8).map fun w => s.rd .MBX_RX c ch w

/-- A send write of word `w` to receive channel `ch` of core `c` by a sender that the channel admits (R351 to R353, R357). -/
def State.mbxPut (s : State) (c ch w : Nat) (v : Word) : State × Wr :=
  if (s.core c).held then (s.setb F.MBX_TX_STAT.aborted 0 c ch, .err)
  else if s.nbit .MBX_RX_FULL ch c then
    ((s.setb F.MBX_TX_STAT.rej 0 c ch).putNbit .MBX_RX_STAT ch true c, .err)
  else if w ≠ 0 then (s.wr .MBX_RX v c ch w, .ok)
  else
    let n := v.toNat % 16
    let n' := if n = 0 then 1 else min n 8
    let s1 := s.wr .MBX_RX (BitVec.ofNat 32 (v.toNat / 16 * 16 + n')) c ch 0
    let s2 := if n' = n then s1 else s1.putNbit .MBX_RX_STAT (16 + ch) true c
    let s3 := { ((s2.putNbit .MBX_RX_FULL ch true c).setb F.MBX_TX_STAT.full 0 c ch) with
                mbxTag := s2.mbxTag.set 0 (16 * c + ch) s2.now }
    (s3.pendSrc c (s3.f F.MBX_RX_CFG.src c ch), .ok)

/-- A write to a send address (R351): refused with kind 9 from any master but the channel's sender. -/
def State.mbxSend (s : State) (q : Req) (c ch w : Nat) (v : Word) : State × Wr :=
  let good := s.bit F.MBX_RX_CFG.en c ch && s.f F.MBX_RX_CFG.sender c ch == q.mno && s.f F.MBX_RX_CFG.owner c ch == q.ten &&
    (!s.bit F.MBX_RX_CFG.sec c ch || q.sec)
  if !good then (s, .viol 9) else s.mbxPut c ch w v

/-- A read of word 0 of a receive channel: the snapshot is taken and full cleared (R354). -/
def State.mbxTake (s : State) (m : Master) (c ch : Nat) : State × Word :=
  let ws := s.mbxWords c ch
  let s1 := s.updLatch m fun l => { l with mbx := ws, mbxTag := s.mbxTag.get 0 (16 * c + ch) }
  ((s1.putNbit .MBX_RX_FULL ch false c).clrb F.MBX_TX_STAT.full 0 c ch, ws.getD 0 0)

/-! ### Register writes -/

/-- A write to a leash register or send address (R336 to R353). -/
def State.hookLsh (s : State) (q : Req) (r : RegName) (p i j : Nat) (v : Word) (a : Nat) : State × Wr :=
  let ring := match r.row.blk with
    | .plsh => p
    | _ => 4
  match r with
  | .PLSH_FLAG_SET | .SLSH_FLAG_SET => s.ringWrite q .PLSH_FLAG ring i v true
  | .PLSH_FLAG_CLR | .SLSH_FLAG_CLR => s.ringWrite q .PLSH_FLAG ring i v false
  | .PLSH_OVR | .SLSH_OVR => s.ringWrite q .PLSH_OVR ring i v false
  | .PLSH_RAISE | .SLSH_RAISE => s.raiseWrite q ring v
  | .PLSH_PROD | .SLSH_PROD | .PLSH_CONS | .SLSH_CONS | .PLSH_ATTR | .SLSH_ATTR =>
    if s.img.ctlr then (s.wr r (v &&& r.cfgBits) p i j, .ok) else (s, .err)
  | .LSH_DB => s.aliasDoorbell q i a v
  | .MBX_TX => s.mbxSend q i (j / 16) (j % 16) v
  | _ => (s.wr r (r.row.write (s.rd r p i j) v) p i j, .ok)

/-- The sources of word `i` whose bits are 1 in a value. -/
def srcBits (i : Nat) (v : Word) : List Nat := ((List.range 32).filter fun n => v.getLsbD n).map (32 * i + ·)

/-- A write to an interrupt controller register (R346 to R349). -/
def State.hookInt (s : State) (r : RegName) (c i : Nat) (v : Word) : State × Wr :=
  match r with
  | .INT_DOORBELL => (s.pendSrc c (F.INT_DOORBELL.src.get v), .ok)
  | .INT_PEND_SET => ((srcBits i v).foldl (fun s n => s.pendSrc c n) s, .ok)
  | .INT_PEND_CLR => (s.wr .INT_PEND (s.rd .INT_PEND c i &&& ~~~v) c i, .ok)
  | .INT_MASK_SET => (s.wr .INT_MASK (s.rd .INT_MASK c i ||| v) c i, .ok)
  | .INT_MASK_CLR => (s.wr .INT_MASK (s.rd .INT_MASK c i &&& ~~~v) c i, .ok)
  | .INT_DBT => if s.img.ctlr then (s.wr r v c, .ok) else (s, .ok)
  | _ => (s.wr r (r.row.write (s.rd r c i) v) c i, .ok)

/-- A write to a scheduler register (R286 to R292, R296). -/
def State.hookSched (s : State) (r : RegName) (c x : Nat) (v : Word) : State × Wr :=
  let plain : State × Wr := (s.wr r (r.row.write (s.rd r c x) v) c x, .ok)
  match r with
  | .SCHED_SAVE => if (s.liveCtxs c).any (· != 0) then (s, .ok) else plain
  | .SCHED_CMD =>
    let y := F.SCHED_CMD.ctx.get v
    let cmd := F.SCHED_CMD.cmd.get v
    if cmd = 1 then
      let (s1, good) := s.ctxStart c y
      (s1, if good then .ok else .err)
    else if cmd = 2 then
      let (s1, good) := s.ctxStop c y
      (s1, if good then .ok else .err)
    else if cmd = 3 then (s.ctxWake c y, .ok)
    else (s, .err)
  | .SCHED_CTX =>
    let old := s.rd .SCHED_CTX c x
    if s.ctxState c x = 0 then plain
    else
      let w := F.SCHED_CTX.fp.put (F.SCHED_CTX.user.put (r.row.write 0 v) (F.SCHED_CTX.user.get old)) (F.SCHED_CTX.fp.get old)
      ((s.wr r w c x).schedJobs c, if w = r.row.write 0 v then .ok else .err)
  | _ => plain

/-- A write to a checkpoint register (R382). -/
def State.hookChk (s : State) (r : RegName) (c : Nat) (v : Word) : State × Wr :=
  match r with
  | .CHK_CTL =>
    let n := F.CHK_CTL.interval.get v
    let n' := max 10 (min n 1000)
    ((s.put F.CHK_CTL.interval n' c).setIf (n' != n) F.CHK_STAT.cfg_clamp c, .ok)
  | _ => (s.wr r (r.row.write (s.rd r c) v) c, .ok)

end Sys2Proof.Machine
end

