-- ==== Sys2Proof/Machine/Link.lean ====
section
/-! DEFINITION. The link layer of the fabric lanes: acks, credits and replay (R404 to R412), losses (R413, R423), the states of
a link (R419 to R422), how an outstanding request ends (R416, R417), and the writes of the FAB block. -/

namespace Sys2Proof.Machine

/-- Change the network state. -/
def State.updNet (s : State) (f : NetSt → NetSt) : State := { s with net := f s.net }

/-- The state of a link changes: T0 is rung, and the change enters the system log as type 7 (R423). -/
def State.setLink (s : State) (ln st : Nat) : State :=
  ((s.put F.FAB_LSTAT.state st 0 ln).slogAdd 7 (BitVec.ofNat 32 (ln + 4 * st))).ringNotice 0

/-! ### How a request ends -/

/-- A send slot's outcome (R417): status 0 sent, 4 rejected, 5 aborted, 1 refused; lost otherwise. -/
def State.slotEnd (s : State) (m status : Nat) : State :=
  (s.clrb F.FAB_MTX_STAT.busy 0 m).setb
    (if status = 0 then F.FAB_MTX_STAT.sent else if status = 4 then F.FAB_MTX_STAT.rej
     else if status = 5 then F.FAB_MTX_STAT.aborted else if status = 1 then F.FAB_MTX_STAT.refused
     else F.FAB_MTX_STAT.lost) 0 m

/-- The load that waits on a transaction has its answer (R416). -/
def State.winEnd (s : State) (c txid code : Nat) (d : Word) : State :=
  s.updCore c fun k => match k.win with
    | some (t, none) => if t = txid then { k with win := some (t, some (code, d)) } else k
    | _ => k

/-- A request ends with a status other than 0, or a slot's message with any; `t` is the tag under which the end is reported: of a timeout
its deadline (R60, R416). -/
def State.reqEnd (s : State) (r : OutReq) (status : Nat) (t : Tag := s.now) : State :=
  match r.by_ with
  | .load c _ => s.winEnd c r.txid 1 0
  | .store c a => s.updCore c fun k => { k with errResp := k.errResp ++ [BitVec.ofNat 32 a] }
  | .dma k => ({ s with dma := s.dma.upd {} k fun d => { d with wait := 0, wlen := 0 } }).dmaHalt k 3 t
  | .slot m => s.slotEnd m status

/-- Every outstanding request on a lane ends with a status (R422, R423). -/
def State.endLane (s : State) (ln status : Nat) (t : Tag := s.now) : State :=
  (s.net.reqs.filter fun r => r.lane == ln).foldl (fun s r => s.reqEnd r status t)
    (s.updNet fun n => { n with reqs := n.reqs.filter fun r => r.lane != ln })

/-- What a link holds is released: sequence numbers, the retransmit buffer, frames that wait, the frame in reassembly, the
partner's reports (R411, R423). -/
def State.clearLane (s : State) (ln : Nat) : State :=
  s.updNet fun n => { n with
    seqTx := n.seqTx.set 0 ln 0, seqRx := n.seqRx.set 0 ln 0, buf := n.buf.set [] ln [], waits := n.waits.set [] ln [], naked := n.naked.set false ln false
    reps := n.reps.set 0 ln 0, told := n.told.set false ln false, idOk := n.idOk.set false ln false
    lvIn := n.lvIn.set false ln false, lvOut := n.lvOut.set false ln false, part := n.part.set [] ln []
    waitq := n.waitq.filter fun e => e.1 / 4 != ln, used := n.used.filter fun e => e.1 / 4 != ln
    owed := n.owed.filter fun e => e.1 / 4 != ln }

/-- A link goes to DOWN without a loss (R422). -/
def State.laneDown (s : State) (ln : Nat) : State := (s.clearLane ln).setLink ln 0

/-- A link is lost (R413, R423): outstanding requests end with status 6, and the third loss within 1 s fails it; `sur` unless the
loss is an identity error of IDENT (R419). -/
def State.loseLink (s : State) (ln : Nat) (sur : Bool) : State :=
  let ts := (s.now :: recentMm s.now (s.net.losses.get [] ln)).take 3
  let s1 := ((s.updNet fun n => { n with losses := n.losses.set [] ln ts }).inc F.FAB_LSTAT.loss 0 ln).setIf sur F.FAB_LSTAT.surprise 0 ln
  ((s1.endLane ln 6).clearLane ln).setLink ln (if 3 ≤ ts.length then 6 else 0)

/-- A link is lost in any state from `lo` to DRAIN. -/
def State.loseFrom (s : State) (lo ln : Nat) : State :=
  if lo ≤ s.lnSt ln ∧ s.lnSt ln ≤ 5 then s.loseLink ln true else s

/-! ### Acks, credits, replay -/

/-- A sequence number is acked: the frames it covers leave the retransmit buffer (R411). -/
def State.acked (s : State) (ln a : Nat) : State :=
  let buf := s.net.buf.get [] ln
  let rest := buf.filter fun e => seqAfter e.2.seq.toNat a
  if rest.length < buf.length then
    s.updNet fun n => { n with
      buf := n.buf.set [] ln rest, reps := n.reps.set 0 ln 0
      waits := n.waits.set [] ln ((n.waits.get [] ln).drop (buf.length - rest.length)) }
  else s

/-- Credits returned for the four virtual channels (R406, R412). -/
def State.credited (s : State) (ln : Nat) (w : Word) : State :=
  s.updNet fun n => { n with used := (List.range 4).foldl (fun (m : SMap Nat) vc =>
    m.set 0 (4 * ln + vc) (m.get 0 (4 * ln + vc) - w.toNat / 256 ^ vc % 256)) n.used }

/-- Every unacked frame is replayed (R411); the eighth replay without an ack advancing loses the link (R413). -/
def State.replayLane (s : State) (ln : Nat) : State :=
  if (s.net.buf.get [] ln).isEmpty then s
  else
    let s1 := (s.inc F.FAB_LCNT2.replays 0 ln).updNet fun n => { n with
      reps := n.reps.set 0 ln (n.reps.get 0 ln + 1), waits := n.waits.set [] ln ((n.waits.get [] ln).map fun _ => s.clk.raw) }
    if 8 ≤ s1.net.reps.get 0 ln then s1.loseFrom 1 ln else s1

/-- REPLAY_TIMEOUT once the oldest unacked frame has waited 2 µs (R411). -/
def State.replayDue (s : State) (ln : Nat) : State :=
  match s.net.waits.get [] ln with
  | [] => s
  | t :: _ => s.atRaw (t + 2000) fun s => s.replayLane ln

/-- LINK_FRAME_TIMEOUT, from IDENT on, once no valid frame has come for 2 µs (R413). -/
def State.silent (s : State) (ln : Nat) : State :=
  if 2 ≤ s.lnSt ln ∧ s.lnSt ln ≤ 5 then s.atRaw (s.net.heard.get 0 ln + 2000) fun s => s.loseFrom 2 ln else s

/-- A valid frame has arrived in this tick (R413). -/
def State.hear (s : State) (ln : Nat) : State := s.updNet fun n => { n with heard := n.heard.set 0 ln s.clk.raw }

/-- The frame types that a link carries in a state (the table of states before R419); NAK counts as an ack. -/
def carries (st ty : Nat) : Bool :=
  if st = 2 then ty == 9
  else if st = 3 then ty == 7 || ty == 9 || ty == 0
  else if st = 4 then true
  else if st = 5 then ty == 2 || ty == 4 || ty == 6 || ty == 10 || ty == 11 || ty == 0
  else false

/-- One NAK is sent for a frame that was discarded, until the expected frame arrives (R411). -/
def State.nakOnce (s : State) (ln : Nat) : State :=
  if s.net.naked.get false ln || !carries (s.lnSt ln) 11 then s
  else (s.updNet fun n => { n with naked := n.naked.set false ln true }).transmit ln 11 { emptyFrame with tag := s.now }

/-- The next sequence number expected on a lane. -/
def State.expects (s : State) (ln : Nat) : Nat := s.net.seqRx.get 0 ln % 4096

/-- A sequenced frame with the expected number is accepted; its buffer's credit is owed to the partner (R411, R412). -/
def State.acceptSeq (s : State) (ln ty : Nat) (f : Frame) : State :=
  let vc := 4 * ln + frameVc ty
  s.updNet fun n => { n with naked := n.naked.set false ln false, seqRx := n.seqRx.set 0 ln (n.seqRx.get 0 ln + 1)
                             owed := n.owed.set 0 vc (n.owed.get 0 vc + frameUnits f) }

/-- What the link layer does with an arriving frame; true where the frame's own meaning follows (R407, R408, R410 to R412). -/
def State.rxFrame (s : State) (ln ty : Nat) (f : Frame) : State × Bool :=
  let st := s.lnSt ln
  if st < 2 ∨ 5 < st then (s, false)
  else if 256 < f.plen.toNat then ((s.setb F.FAB_REQ_STAT.len_clamp).nakOnce ln, false)
  else if !f.intact then (s.nakOnce ln, false)
  else if !f.icvOk && decide (4 ≤ st) then ((s.inc F.FAB_LCNT2.icv_err 0 ln).nakOnce ln, false)
  else if !carries st ty && decide (st ≠ 5) then (s, false)
  else
    let s1 := (((if f.ackV then s.acked ln f.ack.toNat else s).hear ln).credited ln f.credit).drainLane ln
    if !sequenced ty then (s1, true)
    else if f.seq.toNat = s1.expects ln then (s1.acceptSeq ln ty f, carries st ty)
    else if seqAfter (s1.expects ln) f.seq.toNat then (s1, false)
    else (s1.nakOnce ln, false)

/-! ### States of a link -/

/-- A device that is LOCKED reports it to the partner of a link in TLOCK (R421). -/
def State.reportLock (s : State) (ln : Nat) : State :=
  if s.lnSt ln = 3 ∧ s.timeSt = 1 then s.send ln 9 { emptyFrame with dst := BitVec.ofNat 8 (s.f F.FAB_LSTAT.partner 0 ln), tag := s.now }
  else s

/-- A link in TLOCK enters UP once the device is LOCKED and the partner's report has arrived (R421). -/
def State.linkUp (s : State) (ln : Nat) : State :=
  if s.lnSt ln = 3 ∧ s.timeSt = 1 ∧ s.net.told.get false ln then s.setLink ln 4 else s

/-- The device has become LOCKED: every link in TLOCK reports it, and enters UP where the partner has (R421). -/
def State.lockedNow (s : State) : State := (List.range 4).foldl (fun s ln => (s.reportLock ln).linkUp ln) s

/-- A link in IDENT whose partner is authenticated goes on to TLOCK once the node number is known (R419 to R421). -/
def State.identDone (s : State) (ln : Nat) : State :=
  if s.lnSt ln = 2 ∧ s.net.idOk.get false ln ∧ s.bit F.FAB_NODE.valid then ((s.setLink ln 3).reportLock ln).linkUp ln else s

/-- The drain of a link goes on (R422): its LEAVE goes out once every request has its response and every frame is acked, and the
link goes to DOWN once the partner's LEAVE has come as well. -/
def State.drainGoes (s : State) (ln : Nat) : State :=
  if s.lnSt ln ≠ 5 then s
  else
    let idle := !(s.net.reqs.any fun r => r.lane == ln) && (s.net.buf.get [] ln).isEmpty &&
      (List.range 4).all fun vc => (s.net.waitq.get [] (4 * ln + vc)).isEmpty
    let s1 := if idle && !s.net.lvOut.get false ln then
        (s.updNet fun n => { n with lvOut := n.lvOut.set false ln true }).send ln 10 { emptyFrame with dst := BitVec.ofNat 8 (s.f F.FAB_LSTAT.partner 0 ln), tag := s.now }
      else s
    if s1.net.lvOut.get false ln && s1.net.lvIn.get false ln then s1.laneDown ln else s1

/-- A LEAVE command puts an UP link into DRAIN, for at most tmo µs (R422, log 137). -/
def State.leaveLink (s : State) (ln : Nat) : State :=
  if s.lnSt ln = 4 then
    ((s.setLink ln 5).updNet fun n => { n with drain := n.drain.set 0 ln (s.now + BitVec.ofNat 64 (16000 * s.f F.FAB_CTL.tmo)) }).drainGoes ln
  else s

/-- The partner's LEAVE: an UP link drains in its turn, and a draining one may go to DOWN (R422). -/
def State.leaveCame (s : State) (ln : Nat) : State :=
  let s1 := s.updNet fun n => { n with lvIn := n.lvIn.set false ln true }
  if s1.lnSt ln = 4 then s1.leaveLink ln else s1.drainGoes ln

/-- A drain that has not ended by its deadline is over: open requests end with status 7, under the deadline's tag (R60, R422). -/
def State.drainLate (s : State) (ln : Nat) : State :=
  ((s.endLane ln 7 (s.net.drain.get 0 ln)).setb F.FAB_LSTAT.drain_to 0 ln).laneDown ln

/-- DRAIN_TIMEOUT: the drain ends at its deadline (R422, log 137). -/
def State.drainOver (s : State) (ln : Nat) : State :=
  if s.lnSt ln = 5 then s.atTag (s.net.drain.get 0 ln) fun s => s.drainLate ln else s

/-- RESTART takes a failed link to DOWN (R413). -/
def State.restartLink (s : State) (ln : Nat) : State := if s.lnSt ln = 6 then s.setLink ln 0 else s

/-- SIGNAL_DETECT: an enabled lane in DOWN goes to TRAIN. -/
def State.signalSeen (s : State) (ln : Nat) : State :=
  if s.lnSt ln = 0 ∧ (s.f F.FAB_CTL.lane_en).testBit ln then s.setLink ln 1 else s

/-- TRAINING_DONE: polarity is known, and IDENT begins with this end's JOIN frame (R403, R419). -/
def State.trained (s : State) (ln : Nat) (polInv : Bool) : State :=
  if s.lnSt ln = 1 then
    (((s.putb F.FAB_LSTAT.pol_inv polInv 0 ln).setLink ln 2).hear ln).send ln 9 { emptyFrame with tag := s.now }
  else s

/-- UNCORRECTABLE_CODEWORD: counted; the frames it touches are discarded and replayed (R404, R411). -/
def State.badCodeword (s : State) (ln : Nat) : State := (s.inc F.FAB_LCNT.uncorr 0 ln).nakOnce ln

/-- What a JOIN frame carries takes effect (R419 to R421). -/
def State.joinCame (s : State) (ln : Nat) (i : JoinInfo) : State :=
  let st := s.lnSt ln
  if st = 2 ∧ !i.idOk then (s.setb F.FAB_LSTAT.id_err 0 ln).loseLink ln false
  else
    let s1 := if st = 2 then
        (s.put F.FAB_LSTAT.partner i.partner.toNat 0 ln).updNet fun n => { n with idOk := n.idOk.set false ln true }
      else s
    let s2 := match i.assign with
      | none => s1
      | some n =>
        if s1.bit F.FAB_NODE.valid then s1.setIf (n.toNat != s1.f F.FAB_NODE.node) F.FAB_LSTAT.id_err 0 ln
        else if ln = s1.f F.FAB_CTL.ts_lane then (s1.put F.FAB_NODE.node n.toNat).setb F.FAB_NODE.valid
        else s1
    let s3 := if i.locked then s2.updNet fun n => { n with told := n.told.set false ln true } else s2
    ((List.range 4).foldl (fun s l => s.identDone l) s3).linkUp ln

/-- A request ends with status 7; its frame, if it still waits, is not sent (R416). -/
def State.reqLate (s : State) (r : OutReq) : State :=
  let s1 := s.updNet fun n => { n with
    reqs := n.reqs.filter (· != r)
    waitq := n.waitq.set [] (4 * r.lane) ((n.waitq.get [] (4 * r.lane)).filter fun e => e.2.txid.toNat != r.txid) }
  ((s1.reqEnd r 7 r.due).drainLane r.lane).drainGoes r.lane

/-- REQUEST_TIMEOUT: declared once the deadline and the crossing bound have passed (R60, R416, log 118). -/
def State.reqTimeout (s : State) (ln txid : Nat) : State :=
  match s.net.reqs.find? fun r => r.lane == ln && r.txid == txid with
  | none => s
  | some r => s.atTag (r.due + s.tickUnits crossTicks + 1) fun s => s.reqLate r

/-! ### Register writes -/

/-- A write to a word of a send slot (R417): refused while busy; word 0 sends. -/
def State.mtxWrite (s : State) (q : Req) (m w : Nat) (v : Word) : State × Wr :=
  if s.bit F.FAB_MTX_STAT.busy 0 m || !s.bit F.FAB_MTX_CFG.en 0 m then (s, .err)
  else
    let s1 := s.wr .FAB_MTX v 0 m w
    if w ≠ 0 then (s1, .ok)
    else
      let node := s1.f F.FAB_MTX_CFG.node 0 m
      let pay := (List.range 8).flatMap fun i => toBytes 4 (s1.rd .FAB_MTX 0 m i).toNat
      match s1.laneTo node with
      | none => (s1.slotEnd m 6, .ok)
      | some ln =>
        let (s2, _) := s1.issue ln 5 { emptyFrame with
          dst := BitVec.ofNat 8 node, tenant := Fin.ofNat 8 q.ten, sec := q.sec, plen := 32
          addr := BitVec.ofNat 52 (s1.f F.FAB_MTX_CFG.core 0 m + 16 * s1.f F.FAB_MTX_CFG.ch 0 m), payload := pay } (.slot m)
        (s2.setb F.FAB_MTX_STAT.busy 0 m, .ok)

/-- A write to a FAB register (R413, R416, R417, R422). -/
def State.hookFab (s : State) (q : Req) (r : RegName) (i j : Nat) (v : Word) : State × Wr :=
  let plain : State × Wr := (s.wr r (r.row.write (s.rd r 0 i j) v) 0 i j, .ok)
  match r with
  | .FAB_CTL =>
    let t := F.FAB_CTL.tmo.get v
    ((plain.1.put F.FAB_CTL.tmo (max t 1)).setIf (t == 0) F.FAB_REQ_STAT.len_clamp, .ok)
  | .FAB_LCMD =>
    let c := F.FAB_LCMD.cmd.get v
    if c = 1 then (s.leaveLink i, .ok) else if c = 2 then (s.restartLink i, .ok) else (s, if c = 0 then .ok else .err)
  | .FAB_MTX => s.mtxWrite q i j v
  | _ => plain

end Sys2Proof.Machine
end

