-- ==== Sys2Proof/Machine/Net.lean ====
section
/-! DEFINITION. The Ethernet switch (R425, R426), the network rings of tenant ports and CAN controllers (R427 to R429), secure
association keys, and the gate-driver SPI masters (R430). A ring is numbered 0 to 63 for Ethernet (8·tenant + 0 to 3 transmit,
+ 4 to 7 receive) and 0 to 15 for CAN (2·controller transmit, + 1 receive) (log 45). -/

namespace Sys2Proof.Machine

/-! ### Rings -/

/-- The ETH register of a ring, or the CAN register of the same place. -/
def ringReg (can : Bool) (r : RegName) : RegName :=
  if can then
    match r with
    | .ETH_Q_BASE => .CAN_Q_BASE
    | .ETH_Q_CFG => .CAN_Q_CFG
    | .ETH_Q_HEAD => .CAN_Q_HEAD
    | .ETH_Q_TAIL => .CAN_Q_TAIL
    | .ETH_Q_STAT => .CAN_Q_STAT
    | r => r
  else r

/-- A ring's register field, named by the ETH block's. -/
def ringFld (can : Bool) (f : Fld) : Fld := { f with r := ringReg can f.r }

/-- A field of a ring. -/
def State.qf (s : State) (can : Bool) (f : Fld) (q : Nat) : Nat := s.f (ringFld can f) 0 q

/-- A ring that sends. -/
def ringSends (can : Bool) (q : Nat) : Bool := if can then q % 2 == 0 else q % 8 < 4

/-- The tag at which the device reaches the descriptor at a ring's head is noted (R428). -/
def State.reachHead (s : State) (can : Bool) (q : Nat) : State :=
  s.updNet fun n => { n with reach := n.reach.set 0 (64 * can.toNat + q) s.now }

/-- A write to a ring register (R427). -/
def State.hookRing (s : State) (can : Bool) (r : RegName) (q : Nat) (v : Word) : State × Wr :=
  let e := ringFld can F.ETH_Q_CFG.en
  let on := s.bit e 0 q
  match r with
  | .ETH_Q_BASE | .CAN_Q_BASE => (if on then s else s.wr r (r.row.write 0 v) 0 q, .ok)
  | .ETH_Q_CFG | .CAN_Q_CFG =>
    if on then (s.putb e (e.get v != 0) 0 q, .ok)
    else
      let n := F.ETH_Q_CFG.size.get v
      let l := F.ETH_Q_CFG.buf_len.get v
      let n' := max 4 (min n 1024)
      let l' := max 64 (min l 2048)
      let w := F.ETH_Q_CFG.buf_len.put (F.ETH_Q_CFG.size.put (r.row.write 0 v) n') l'
      (((s.wr r w 0 q).setIf (n' != n || l' != l) (ringFld can F.ETH_Q_STAT.clamp) 0 q).reachHead can q, .ok)
  | .ETH_Q_TAIL | .CAN_Q_TAIL =>
    let s1 := s.wr r (r.row.write 0 v) 0 q
    (if s.qf can F.ETH_Q_HEAD.head q = s.qf can F.ETH_Q_TAIL.tail q then s1.reachHead can q else s1, .ok)
  | _ => (s.wr r (r.row.write (s.rd r 0 q) v) 0 q, .ok)

/-- The address of the descriptor at a ring's head. -/
def State.descAt (s : State) (can : Bool) (q : Nat) : Nat :=
  s.qf can F.ETH_Q_BASE.base q * 16 + 16 * s.qf can F.ETH_Q_HEAD.head q

/-- A ring has a descriptor that the device owns: in use, not empty, in shared SRAM, `own` set (R427). -/
def State.ringReady (s : State) (can : Bool) (q : Nat) : Bool :=
  let a := s.descAt can q
  s.qf can F.ETH_Q_CFG.en q != 0 && s.qf can F.ETH_Q_HEAD.head q != s.qf can F.ETH_Q_TAIL.tail q &&
    decide (0x11800000 ≤ a ∧ a < 0x12000000) && (s.word (a + 4)).getLsbD 12

/-- The word under a partial store of the network is read: corrected, or uncorrectable and then left as it is; the source code of its
log entry is open (R313, R314, log 20). -/
def State.netEcc (s : State) (a : Nat) : State × Bool :=
  if !s.wvalid a || s.nflips a == 0 then (s, true)
  else
    let (s1, src) := s.freshBelow 16
    s1.eccRead a src 63

/-- The network stores to a word, or to a part of it: every cache gives its line up, and a whole word is a new codeword (R312, R314, R327). -/
def State.netWord (s : State) (a : Nat) (bs : List Byte) : State :=
  let s1 := s.recall (lineOf a)
  if bs.length = 4 then ((s1.cacheMend (if s1.ram.l2.get 0 (lineOf a) = 0 then none else some 8) a).setBytes a bs).setFlips a 0
  else match s1.netEcc a with
    | (s2, true) => s2.setBytes a bs
    | (s2, false) => s2

/-- The device stores bytes to shared SRAM; what lies outside it is not stored. -/
def State.netStore (s : State) (a : Nat) (bs : List Byte) : State :=
  if 0x11800000 ≤ a ∧ a + bs.length ≤ 0x12000000 then
    (piecesOf a bs.length).foldl (fun s e => s.netWord e.1 ((bs.drop (e.1 - a)).take e.2)) s
  else s

/-- A processed descriptor is written back and the head advances (R427). -/
def State.ringNext (s : State) (can : Bool) (q : Nat) (w1 : Nat) (tag : Option Tag) : State :=
  let a := s.descAt can q
  let s1 := s.netStore (a + 4) (toBytes 4 w1)
  let s2 := match tag with
    | some t => s1.netStore (a + 8) (toBytes 8 t.toNat)
    | none => s1
  let h := s.qf can F.ETH_Q_HEAD.head q + 1
  (s2.put (ringFld can F.ETH_Q_HEAD.head) (if s.qf can F.ETH_Q_CFG.size q ≤ h then 0 else h) 0 q).reachHead can q

/-- Word 1 of a descriptor after processing: own cleared, the length and the flags set. -/
def descWord (w1 len : Nat) (clamp late err : Bool) : Nat :=
  len + clamp.toNat * 2 ^ 13 + late.toNat * 2 ^ 14 + w1 / 2 ^ 15 % 16 * 2 ^ 15 + err.toNat * 2 ^ 19

/-- A frame arrives at a receive ring (R427, R428): stored, clamped to buf_len, or dropped and counted. -/
def State.ringPut (s : State) (can : Bool) (q : Nat) (bs : List Byte) (tag : Tag) (err : Bool) : State :=
  if s.ringReady can q then
    let a := s.descAt can q
    let cl := decide (s.qf can F.ETH_Q_CFG.buf_len q < bs.length)
    let kept := bs.take (s.qf can F.ETH_Q_CFG.buf_len q)
    let s1 := (s.netStore (s.word a).toNat kept).setIf cl (ringFld can F.ETH_Q_STAT.clamp) 0 q
    s1.ringNext can q (descWord (s.word (a + 4)).toNat kept.length cl false err) (some tag)
  else s.inc (ringFld can F.ETH_Q_STAT.drop_cnt) 0 q

/-- The receive ring of a tenant port: the first of its four in use, else the first. -/
def State.rxRing (s : State) (t : Nat) : Nat :=
  ((List.range 4).find? fun k => s.qf false F.ETH_Q_CFG.en (8 * t + 4 + k) != 0).getD 0 + (8 * t + 4)

/-! ### The switch -/

/-- A frame is dropped and counted (R425). -/
def State.dropFrame (s : State) : State := s.updNet fun n => { n with drops := n.drops + 1 }

/-- The segments of a frame of `len` bytes from segment `i` on: index, bytes, last (R426). -/
def segments (i : Nat) : Nat → List Byte → List (Nat × List Byte × Bool)
  | 0, _ => []
  | n + 1, bs => if bs.length ≤ 256 then [(i, bs, true)] else (i, bs.take 256, false) :: segments (i + 1) n (bs.drop 256)

/-- A frame leaves over a fabric lane in ETH segments, carried only in UP (R421, R426). -/
def State.ethOut (s : State) (ln : Nat) (bs : List Byte) (tag : Tag) : State :=
  if s.lnSt ln = 4 then
    (segments 0 8 bs).foldl (fun s e => s.send ln 8 { emptyFrame with
      dst := BitVec.ofNat 8 (s.f F.FAB_LSTAT.partner 0 ln), plen := BitVec.ofNat 9 e.2.1.length
      addr := BitVec.ofNat 52 (bs.length + e.1 * 2 ^ 12 + e.2.2.toNat * 2 ^ 15), payload := e.2.1, tag := tag }) s
  else s.dropFrame

/-- A frame leaves at a port: a fabric lane, an external or 10BASE-T1S port, a tenant's port (the switch's table of ports). -/
def State.portOut (s : State) (port : Nat) (bs : List Byte) (tag : Tag) : State :=
  if port < 4 then s.ethOut port bs tag
  else if port < 14 then
    s.updNet fun n => { n with outs := n.outs.set (0, []) port ((n.outs.get (0, []) port).1 + 1, bs) }
  else if s.tenEn (port - 14) then s.ringPut false (s.rxRing (port - 14)) bs tag false
  else s.dropFrame

/-- The forwarding of a frame from a port (R425): dropped and counted where its destination is unknown, it is above 2,048
bytes or its FCS is bad; a tenant port carries frames only while its tenant is enabled. -/
def State.switchIn (s : State) (port dst vid : Nat) (bs : List Byte) (fcsOk : Bool) (tag : Tag) : State :=
  if s.net.stopped || (decide (14 ≤ port) && !s.tenEn (port - 14)) then s
  else if !fcsOk || decide (2048 < bs.length) then s.dropFrame
  else
    match s.net.fwd.find? fun e => e.1 == dst && e.2.1 == vid with
    | none => s.dropFrame
    | some e => ((List.range 22).filter fun p => p != port && e.2.2.testBit p).foldl (fun s p => s.portOut p bs tag) s

/-- The destination address and the VID that a frame's bytes hold (IEEE 802.3, 802.1Q); VID 0 where it has no tag. -/
def frameKey (bs : List Byte) : Nat × Nat :=
  let b (i : Nat) : Nat := (bs.getD i 0).toNat
  ((bs.take 6).foldl (fun n x => n * 256 + x.toNat) 0, if b 12 = 0x81 ∧ b 13 = 0 then b 14 % 16 * 256 + b 15 else 0)

/-- An ETH segment is appended to the frame in reassembly; the last one completes it, and a frame whose length does not match is
dropped (R426). -/
def State.ethIn (s : State) (ln : Nat) (f : Frame) : State :=
  let w := f.addr.toNat
  let part := (if w / 2 ^ 12 % 8 = 0 then [] else s.net.part.get [] ln) ++ f.payload.take f.plen.toNat
  if w / 2 ^ 15 % 2 = 1 then
    let s1 := s.updNet fun n => { n with part := n.part.set [] ln [] }
    if part.length = w % 2 ^ 12 then
      let (dst, vid) := frameKey part
      s1.switchIn ln dst vid part true f.tag
    else s1.dropFrame
  else s.updNet fun n => { n with part := n.part.set [] ln part }

/-- A frame from a transmit ring leaves: an Ethernet port's into the switch, a CAN controller's on its bus. -/
def State.ringOut (s : State) (can : Bool) (q : Nat) (bs : List Byte) : State :=
  if can then
    s.updNet fun n => { n with outs := n.outs.set (0, []) (32 + q / 2) ((n.outs.get (0, []) (32 + q / 2)).1 + 1, bs) }
  else
    let (dst, vid) := frameKey bs
    s.switchIn (14 + q / 8) dst vid bs true s.now

/-- FRAME_LAUNCH of a ring (R427, R428): the frame at the head is sent, or dropped late with skip_late; a frame whose tag has not
come waits. -/
def State.launch (s : State) (can : Bool) (q : Nat) : State :=
  let tenant := if can then (s.owner (.netq true q)).ten else q / 8
  if s.net.stopped || !ringSends can q || (can && (16 ≤ q || s.net.busOff.get false (q / 2))) || !s.tenEn tenant || !s.ringReady can q then s
  else
    let a := s.descAt can q
    let w1 := (s.word (a + 4)).toNat
    let t := Tag.ofWords (s.word (a + 12)) (s.word (a + 8))
    let late := t != 0 && Tag.before t (s.net.reach.get 0 (64 * can.toNat + q))
    if t != 0 && Tag.before s.now t && !late then s
    else
      let top := min (s.qf can F.ETH_Q_CFG.buf_len q) 2048
      let len := min (w1 % 2 ^ 12) top
      let cl := len != w1 % 2 ^ 12
      let s1 := (s.setIf cl (ringFld can F.ETH_Q_STAT.clamp) 0 q).setIf late (ringFld can F.ETH_Q_STAT.late) 0 q
      let drop := late && w1.testBit 15
      let s2 := s1.ringNext can q (descWord w1 len cl late drop) none
      if drop then s2 else s2.ringOut can q (s.bytes (s.word a).toNat len)

/-- CAN_FRAME_RECEIVE (R427 to R429). -/
def State.canIn (s : State) (k : Nat) (f : NetFrame) : State :=
  if s.net.stopped || s.net.busOff.get false k then s else s.ringPut true (2 * k + 1) f.bytes f.tag (!f.fcsOk)

/-- A ring of a reset owner is flushed (R427). -/
def State.flushRing (s : State) (can : Bool) (q : Nat) : State :=
  (((s.putb (ringFld can F.ETH_Q_CFG.en) false 0 q).put (ringFld can F.ETH_Q_HEAD.head) 0 0 q).put (ringFld can F.ETH_Q_TAIL.tail) 0 0 q)

/-! ### SPI -/

/-- The key of SPI master `m` of pack `p` in the map of transfers. -/
def spiKey (p m : Nat) : Nat := 4 * p + m

/-- The ticks of an SPI transfer of `n` bits at `d` ticks a bit: one SCK period before the first of its 2n edges and one after the last
(R430). -/
def spiTicks (n d : Nat) : Nat := 2 * d + ((2 * n - 1) * d + 1) / 2

/-- An SPI transfer starts, or a trigger that arrives while one runs sets ovr (R430). -/
def State.spiStart (s : State) (p m : Nat) : State :=
  if !s.bit F.SPI_CTL.en p m || !s.fieldUp || s.pwr.mode == 2 then s
  else if s.bit F.SPI_STAT.busy p m then s.setb F.SPI_STAT.ovr p m
  else
    let ws := (List.range (s.f F.SPI_CTL.nw_m1 p m + 1)).map fun w => s.rd .SPI_TX p m w
    let d := s.f F.SPI_CTL.div p m
    let fin := s.clk.raw + spiTicks ((s.f F.SPI_CTL.nw_m1 p m + 1) * (s.f F.SPI_CTL.bits_m1 p m + 1)) d
    (s.setb F.SPI_STAT.busy p m).updNet fun n =>
      { n with spi := n.spi.set {} (spiKey p m) { tx := ws, tag := s.now + s.tickUnits d, fin := fin } }

/-- A trigger of an SPI master: at Bk + off of its set, an off of P or more clamped to P − 1, while the set's counter runs; or an event
that its leash channel has delivered (R68, R183, R430). -/
def State.spiTrig (s : State) (p m : Nat) : State :=
  let t := s.f F.SPI_CTL.trig p m
  let x := s.f F.SPI_CTL.set p m
  let k := s.pset p x
  if t = 2 then
    if s.net.spiEv.get 0 (spiKey p m) = 0 then s
    else (s.updNet fun n => { n with spiEv := n.spiEv.upd 0 (spiKey p m) (· - 1) }).spiStart p m
  else if t = 1 && s.bit F.PWM_SET_STAT.cnt_run p x && s.bit F.PWM_STATUS.clk_ok p && !k.restart then
    s.inRaw (k.bk + min (s.f F.SPI_TRG.off p m) (k.ticks - 1)) fun s => s.spiStart p m
  else s

/-- SPI_TRANSFER_END at its instant: the received words, right-aligned, and the tag of its first SCK edge (R430). -/
def State.spiEnd (s0 : State) (p m : Nat) (rx : List Word) : State := s0.atRaw (s0.net.spi.get {} (spiKey p m)).fin fun s =>
  let n := 2 ^ (s.f F.SPI_CTL.bits_m1 p m + 1)
  let s1 := rx.zipIdx.foldl (fun (s : State) (e : Word × Nat) => s.wr .SPI_RX (BitVec.ofNat 32 (e.1.toNat % n)) p m e.2) s
  let s2 := (s1.clrb F.SPI_STAT.busy p m).setb F.SPI_STAT.done p m
  (s2.inc F.SPI_STAT.xfer_cnt p m).setPair .SPI_TAG_LO .SPI_TAG_HI (s.net.spi.get {} (spiKey p m)).tag p m

/-- A field-link loss or entry into Den aborts every transfer (R430). -/
def State.spiAbort (s : State) : State :=
  (List.range 16).foldl (fun s k =>
    if s.bit F.SPI_STAT.busy (k / 4) (k % 4) then (s.clrb F.SPI_STAT.busy (k / 4) (k % 4)).setb F.SPI_STAT.abort (k / 4) (k % 4) else s) s

/-- A write to an SPI register (R430): CTL and TRG are structural while trig is 1 and the set runs. -/
def State.hookSpi (s : State) (r : RegName) (p m w : Nat) (v : Word) : State × Wr :=
  let locked := !s.img.ctlr && s.f F.SPI_CTL.trig p m == 1 && s.setRunning p (s.f F.SPI_CTL.set p m)
  match r with
  | .SPI_CTL =>
    if locked then (s, .viol 4)
    else
      let d := F.SPI_CTL.div.get v
      let b := F.SPI_CTL.bits_m1.get v
      let d' := max 50 (min d 1000)
      let b' := max 7 b
      let t3 := F.SPI_CTL.trig.get v == 3
      let s1 := ((s.wr r (r.row.write 0 v) p m).put F.SPI_CTL.div d' p m).put F.SPI_CTL.bits_m1 b' p m
      ((if t3 then s1.put F.SPI_CTL.trig 0 p m else s1).setIf (d' != d || b' != b || t3) F.SPI_STAT.cfg_clamp p m, .ok)
  | .SPI_TRG => if locked then (s, .viol 4) else (s.wr r (r.row.write 0 v) p m, .ok)
  | .SPI_CMD => (if v.getLsbD 0 then s.spiStart p m else s, .ok)
  | _ => (s.wr r (r.row.write (s.rd r p m w) v) p m w, .ok)

end Sys2Proof.Machine
end

