-- ==== Sys2Proof/Machine/RegWrite.lean ====
section
/-! DEFINITION. Where a register lies (R297, R298), and what an accepted write does, block by block, past every check of
ownership: the common end of firmware writes and of the configuration controller's. -/

namespace Sys2Proof.Machine

/-- A register in its place: its name, pack or core, first and second index. -/
structure RegAt where
  r : RegName
  p : Nat := 0
  i : Nat := 0
  j : Nat := 0
deriving DecidableEq, Repr

/-- The indices of the register of a row at an offset from its block's base. -/
def Row.ixAt (w : Row) (o : Nat) : Option (Nat × Nat) :=
  if o < w.off then none
  else
    let d := o - w.off
    let i := if w.sI = 0 then 0 else d / w.sI
    let e := if w.sI = 0 then d else d % w.sI
    let j := if w.sJ = 0 then 0 else e / w.sJ
    let z := if w.sJ = 0 then e else e % w.sJ
    if i < w.nI ∧ j < w.nJ ∧ z = 0 then some (i, j) else none

/-- The register at an offset from a block's base, in a pack, core or the system. -/
def Blk.at (b : Blk) (p o : Nat) : Option RegAt :=
  b.regs.findSome? fun r => (r.row.ixAt o).map fun ij => { r := r, p := p, i := ij.1, j := ij.2 }

/-- The block that holds an offset of the pack space or an address of the system space. -/
def blkOf (sp : Space) (o : Nat) : Option Blk :=
  allBlks.find? fun b => b.space = sp ∧ b.base ≤ o ∧ o < b.limit

/-- The block of a local register address with its pack; private blocks are the core's own (R297). -/
def blkAt (a : Nat) : Option (Blk × Nat) :=
  if 0x40000000 ≤ a ∧ a < 0x44000000 then (blkOf .pack (a % 0x1000000)).map fun b => (b, (a - 0x40000000) / 0x1000000)
  else if 0x50000000 ≤ a ∧ a < 0x57000000 then (blkOf .sys a).map fun b => (b, 0)
  else none

/-- A register of a core-private address. -/
def privAt (c a : Nat) : Option RegAt :=
  match blkOf .priv a with
  | some b => b.at c (a - b.base)
  | none => none

/-- The register at a local address outside the core-private range; none at a reserved address (R9). -/
def regAt (a : Nat) : Option RegAt :=
  match blkAt a with
  | some (b, p) => b.at p (if b.space = .pack then a % 0x1000000 - b.base else a - b.base)
  | none => none

/-- The local address of a register outside the core-private range, or of a core-private one. -/
def RegAt.addr (x : RegAt) : Nat :=
  let w := x.r.row
  (if w.blk.space = .pack then 0x40000000 + x.p * 0x1000000 else 0) + w.blk.base + w.off + w.sI * x.i + w.sJ * x.j

/-! ### Blocks without a family of their own -/

/-- A write to a TIME register (R52 to R56, R486). -/
def State.hookTime (s : State) (r : RegName) (n : Nat) (v : Word) : State × Wr :=
  let plain : State × Wr := (s.wr r (r.row.write (s.rd r 0 n) v) 0 n, .ok)
  match r with
  | .TIME_CTL =>
    let l := F.TIME_CTL.loss_n.get v
    ((plain.1.put F.TIME_CTL.loss_n (max l 1)).setIf (l == 0) F.TIME_STATUS.cfg_clamp, .ok)
  | .TIME_ACT_CTL =>
    let (s1, good) := s.slotCtl n v
    (s1, if good then .ok else .err)
  | .TIME_ACT_TGT_LO | .TIME_ACT_TGT_HI | .TIME_ACT_ADDR | .TIME_ACT_DATA =>
    let (s1, locked) := s.slotLocked n
    if locked then (s1, .err) else plain
  | _ => plain

/-- A write to a PWR register that no power or reset command takes (R121, R435, R449). -/
def State.hookPwr (s : State) (r : RegName) (n : Nat) (v : Word) : State × Wr :=
  let plain : State × Wr := (s.wr r (r.row.write (s.rd r 0 n) v) 0 n, .ok)
  match r with
  | .PWR_SENS_CTL => (s.sensCtl n v, .ok)
  | .PWR_PACE_SEL => (s.put F.PWR_PACE_SEL.isl (min (F.PWR_PACE_SEL.isl.get v) 100), .ok)
  | .PWR_WHISTLE =>
    let d := F.PWR_WHISTLE.det.get v
    let f := F.PWR_WHISTLE.flt.get v
    let s1 := (plain.1.put F.PWR_WHISTLE.det (if 5 ≤ d then 0 else d) 0 n).put F.PWR_WHISTLE.flt (max f 1) 0 n
    (s1.setIf (decide (5 ≤ d) || f == 0) F.PWR_WHISTLE.cfg_clamp 0 n, .ok)
  | _ => plain

/-- Registers that only the configuration controller writes and that refuse firmware with an error response (R228). -/
def ctlrTable (r : RegName) : Bool :=
  r == .MEM_RGN_BASE || r == .MEM_RGN_LIMIT || r == .MEM_RGN_ATTR || r == .TEN_CFG || r == .TEN_NOTE || r == .TEN_AQ

/-- Further registers that the configuration controller writes and that ignore firmware (R350, R351, R415, R417, R418). -/
def ctlrOwn (r : RegName) : Bool :=
  r == .MBX_RX_CFG || r == .FAB_INMAP || r == .FAB_MRX || r == .FAB_MTX_CFG

/-- An accepted write of `v` to a register by a request at address `a`. -/
def State.devWrite (s : State) (q : Req) (x : RegAt) (v : Word) (a : Nat) : State × Wr :=
  let r := x.r
  if ctlrTable r then if s.img.ctlr then (s.wr r (v &&& r.cfgBits) x.p x.i x.j, .ok) else (s, .err)
  else if ctlrOwn r && s.img.ctlr then (s.wr r (v &&& r.cfgBits) x.p x.i x.j, .ok)
  else
    match r.row.blk with
    | .pwm => s.hookPwm q r x.p x.i x.j v
    | .adc => s.hookAdc r x.p x.i v
    | .sdm => s.hookSdm r x.p x.i v
    | .cmp => s.hookCmp r x.p x.i v
    | .pos => s.hookPos r x.p x.i v
    | .rsv => s.hookRsv r x.p x.i x.j v
    | .le => s.hookLe r x.p x.i x.j v
    | .muz => s.hookMuz q r x.p x.i v
    | .plsh | .slsh => s.hookLsh q r x.p x.i x.j v a
    | .spi => s.hookSpi r x.p x.i x.j v
    | .time => s.hookTime r x.i v
    | .mem => s.hookMem q r x.i x.j v
    | .dma => s.hookDma r x.i v
    | .fab => s.hookFab q r x.i x.j v
    | .eth => s.hookRing false r x.i v
    | .can => s.hookRing true r x.i v
    | .pwr => s.hookPwr r x.i v
    | .thm => s.hookThm r x.i v
    | .int => s.hookInt r x.p x.i v
    | .sched => s.hookSched r x.p x.i v
    | .chk => s.hookChk r x.p v
    | .img | .ten | .pjnl | .sjnl | .trc | .mbx => (s.wr r (r.row.write (s.rd r x.p x.i x.j) v) x.p x.i x.j, .ok)

end Sys2Proof.Machine
end

