-- ==== Sys2Proof/Machine/ImageFmt.lean ====
section
/-! DEFINITION. The format of a Galjan image: header, records, CRC-32C, path words and authentication (R218 to R223). An image is
read through a function from byte offsets, so that the nonvolatile banks and a swap image in memory are read alike. -/

namespace Sys2Proof.Machine

/-- The bytes of an image by offset. -/
abbrev ImgSrc := Nat → Byte

/-- The number that `n` bytes at an offset spell, least significant first (R218). -/
def ImgSrc.num (f : ImgSrc) (o n : Nat) : Nat := ofBytes ((List.range n).map fun i => f (o + i))

/-- The bytes from an offset. -/
def ImgSrc.part (f : ImgSrc) (o n : Nat) : List Byte := (List.range n).map fun i => f (o + i)

/-- One bit of the CRC-32C register (R220): reflected polynomial 0x1EDC6F41. -/
def crcBit (c : Word) : Word := if c.getLsbD 0 then (c >>> 1) ^^^ 0x82F63B78 else c >>> 1

/-- One byte of the CRC-32C. -/
def crcByte (c : Word) (b : Byte) : Word :=
  crcBit (crcBit (crcBit (crcBit (crcBit (crcBit (crcBit (crcBit (c ^^^ b.setWidth 32))))))))

/-- The CRC-32C of a byte string (R220). -/
def crc32c (bs : List Byte) : Word := bs.foldl crcByte 0xFFFFFFFF ^^^ 0xFFFFFFFF

/-- A decoded path word (R221). -/
structure Path where
  level : Nat
  pack : Nat
  idx : Nat
  leg : Nat
deriving DecidableEq, Repr

/-- Decode a path word; none is invalid (R221). -/
def pathOf (w : Nat) : Option Path :=
  let p : Path := { level := w / 2 ^ 29 % 8, pack := w / 2 ^ 26 % 8, idx := w / 2 ^ 23 % 8, leg := w / 2 ^ 18 % 32 }
  let noPack := p.pack == 0
  let noIdx := p.idx == 0
  let noLeg := p.leg == 0
  let good :=
    if p.level = 0 then noPack && noIdx && noLeg
    else if p.level = 1 then noIdx && noLeg
    else if p.level = 2 ∨ p.level = 3 then decide (p.idx < 6) && noLeg
    else if p.level = 4 then noIdx && decide (p.leg < 18)
    else if p.level = 5 then decide (p.idx < 6 ∧ p.leg < 18)
    else false
  if w % 2 ^ 18 = 0 ∧ p.pack < 4 ∧ good then some p else none

/-- A record of an image: its index in the table, header fields, the offset of its payload and the payload's length as
clamped (R219), and whether its CRC matches. -/
structure ImgRec where
  ix : Nat
  type : Nat
  flags : Nat
  path : Nat
  pay : Nat
  plen : Nat
  good : Bool
deriving DecidableEq, Repr

/-- The length of the signature. -/
def sigLen : Nat := 3309

/-- The header of an image that may take `room` bytes. -/
def ImgSrc.hdr (f : ImgSrc) (room : Nat) : ImgHdr :=
  let len0 := f.num 0x10 4
  let len := min len0 room
  let off := f.num 0x14 4
  let cnt0 := f.num 0x18 4
  let sig := len - sigLen
  let cnt := min cnt0 ((sig - off) / 16)
  let svn := f.num 0x0C 4
  { svn := min svn 63, recOff := off, recCnt := cnt, scope := f.num 0x1C 4, slot := f.num 0x28 4, sig := sig
    lenClamp := len != len0 || cnt != cnt0, svnClamp := decide (63 < svn)
    id := (List.range 4).map fun i => BitVec.ofNat 32 (f.num (0x30 + 4 * i) 4) }

/-- Why an image is rejected (IMG_ERR.code), with the index of the failing record. -/
abbrev ImgErr := Nat × Nat

/-- Authentication of an image of a kind against the fused security version (R223): none where it is accepted, else the code:
1 FORMAT, 2 TARGET, 3 KEY, 4 SIG, 5 SVN. An image of which some byte cannot be read has no valid signature (`whole` is false, log
135). -/
def ImgSrc.auth (f : ImgSrc) (h : ImgHdr) (kind fuse : Nat) (whole : Bool) : Option Nat :=
  let key := f.part 0x40 1952
  if f.num 0 4 ≠ 0x4E4A4C47 ∨ f.num 4 2 ≠ 2 ∨ f.num 6 2 ≠ kind ∨ h.recOff % 4 ≠ 0 ∨ h.recOff < 0x7E0 then some 1
  else if f.num 8 4 ≠ 0x152000B0 then some 2
  else if 4 ≤ h.slot || Config.revoked h.slot || Config.sha384 key != Config.fuseDigest h.slot then some 3
  else if !whole || !Config.mldsa65 key (f.part 0 h.sig) (f.part h.sig sigLen) then some 4
  else if h.svn < fuse then some 5
  else none

/-- The record at an offset, and whether its payload is cut: to the record area, or to whole pairs in a REGS record (R219, R220,
R222). -/
def ImgSrc.recAt (f : ImgSrc) (h : ImgHdr) (ix o : Nat) : ImgRec × Bool :=
  let p0 := f.num (o + 8) 4
  let p := min p0 (h.sig - (o + 16))
  ({ ix := ix, type := f.num o 2, flags := f.num (o + 2) 2, path := f.num (o + 4) 4, pay := o + 16, plen := p
     good := decide ((crc32c (f.part o 12 ++ f.part (o + 16) p)).toNat = f.num (o + 12) 4) }, p != p0 || (f.num o 2 == 0x10 && p % 8 != 0))

/-- A record of which some word cannot be read does not match its CRC (R225, log 135). -/
def ImgRec.readable (ok : Nat → Bool) (r : ImgRec) : ImgRec :=
  { r with good := r.good && (List.range ((16 + r.plen + 3) / 4)).all fun k => ok (r.pay - 16 + 4 * k) }

/-- The records of an image in table order, up to END (R222), and whether a payload length was clamped. -/
def ImgSrc.recs (f : ImgSrc) (h : ImgHdr) : Nat → Nat → Nat → List ImgRec × Bool
  | 0, _, _ => ([], false)
  | n + 1, ix, o =>
    let (r, c) := f.recAt h ix o
    if r.type = 0xFF then ([r], c)
    else
      let (rs, cs) := ImgSrc.recs f h n (ix + 1) (r.pay + (r.plen + 3) / 4 * 4)
      (r :: rs, c || cs)

/-- Word `i` of a record's payload; zero beyond its end. -/
def ImgSrc.pw (f : ImgSrc) (r : ImgRec) (i : Nat) : Word :=
  if 4 * i + 4 ≤ r.plen then BitVec.ofNat 32 (f.num (r.pay + 4 * i) 4) else 0

/-- The path level that a record type asks for (R222); none is an unknown type. -/
def pathFits (type level : Nat) : Option Bool :=
  if type = 1 ∨ type = 3 ∨ type = 4 ∨ type = 0x30 ∨ type = 0xFF then some (level == 0)
  else if type = 2 then some true
  else if type = 0x10 then some (decide (level ≤ 1))
  else if type = 0x20 then some (level == 2)
  else if type = 0x21 ∨ type = 0x23 ∨ type = 0x24 then some (level == 3)
  else if type = 0x22 then some (level == 1)
  else none

/-- A full-form leg path names a set that contains the leg in this image (R4, R221). -/
def ImgSrc.legIn (f : ImgSrc) (rs : List ImgRec) (p : Path) : Bool :=
  let sets := rs.filter fun r => r.type == 0x20 && pathOf r.path == some { level := 2, pack := p.pack, idx := p.idx, leg := 0 }
  match sets.getLast? with
  | some r => (F.PWM_SET_CTL.legs.get (f.pw r 0)).testBit p.leg
  | none => false

/-- The checks of a record at the second read (R221, R222, R225): its path, or the code 6 CRC, 7 PATH, 8 TYPE. -/
def ImgSrc.check (f : ImgSrc) (rs : List ImgRec) (r : ImgRec) : Except Nat Path :=
  if !r.good then .error 6
  else match pathOf r.path with
    | none => .error 7
    | some p =>
      match pathFits r.type p.level with
      | none => .error 8
      | some false => .error 7
      | some true => if p.level = 5 && !f.legIn rs p then .error 7 else .ok p

/-- Every record with its path, or the failing record's code and index. -/
def ImgSrc.checkAll (f : ImgSrc) (all : List ImgRec) : List ImgRec → Except ImgErr (List (ImgRec × Path))
  | [] => .ok []
  | r :: rs =>
    match f.check all r with
    | .error c => .error (c, r.ix)
    | .ok p =>
      match ImgSrc.checkAll f all rs with
      | .error e => .error e
      | .ok xs => .ok ((r, p) :: xs)

end Sys2Proof.Machine
end

