-- ==== Sys2Proof/Machine/Image.lean ====
section
/-! DEFINITION. What the records of a Galjan image do (R222, R226 to R232), and the load of a bank at boot. The payload layouts
that the spec leaves to the Galjan tool are log 47. -/

namespace Sys2Proof.Machine

/-- The request under which the configuration controller writes; it carries no tenant and is not checked (R361). -/
def ctlrReq : Req := { m := .slot 0, mno := 63, ten := 0, sec := true }

/-! ### One register -/

/-- A calibration word: the controller writes it without staging (R81, R222). -/
def calReg (r : RegName) : Bool :=
  r == .ADC_CAL_OFS || r == .ADC_CAL_GAIN || r == .ADC_CAL_LVL || r == .ADC_CAL_CFG ||
  r == .SDM_CAL_OFS || r == .SDM_CAL_GAIN || r == .SDM_CAL_LVL || r == .SDM_CAL_CFG

/-- A leash configuration register (R337, R341). -/
def lshCfg (r : RegName) : Bool :=
  r == .PLSH_PROD || r == .PLSH_CONS || r == .PLSH_ATTR || r == .SLSH_PROD || r == .SLSH_CONS || r == .SLSH_ATTR

/-- A register that a REGS record may set (R222): one with a field that firmware writes and keeps, or that only the
controller writes. -/
def imgReg (r : RegName) : Bool :=
  r.row.rw != 0 || r == .MBX_RX_CFG || lshCfg r

/-- The axis and the input slot that a register's word binds, where it binds one (R14). -/
def bindOf (r : RegName) (v : Word) : Option (Nat × Nat) :=
  let mk (a i : Nat) : Option (Nat × Nat) := if a < 6 then some (a, i) else none
  match r with
  | .ADC_ROUTE => mk (F.ADC_ROUTE.axis.get v) (F.ADC_ROUTE.le_in.get v)
  | .SDM_CH => mk (F.SDM_CH.axis.get v) (F.SDM_CH.le_in.get v)
  | .POS_CFG => mk (F.POS_CFG.axis.get v) (F.POS_CFG.le_in.get v)
  | .RSV_CTL => mk (F.RSV_CTL.axis.get v) (F.RSV_CTL.le_in.get v)
  | _ => none

/-- The last good value of a slot is cleared (R241). -/
def State.dropGood (s : State) (p : Nat) : Option (Nat × Nat) → State
  | none => s
  | some (a, i) => s.updAx p a fun k =>
    { k with slots := k.slots.upd {} i fun x => { x with good := none, goodFifo := [] } }

/-- The excitation of a resolver restarts at phase 0 (R241). -/
def State.rsvRestart (s : State) (p i : Nat) : State :=
  (s.setRsvc p i { start := s.clk.raw }).setPair .RSV_START_LO .RSV_START_HI s.now p i

/-- The active carrier of a set changes at a swap: its legs' active values follow it, clamped as a transfer clamps them (R161, R162,
R163, R241). -/
def State.recar (s : State) (p x : Nat) : State :=
  let c16 := 16 * (s.pset p x).car
  let mode := s.f F.PWM_SET_CTL.mode p x
  (s.legsOf p x).foldl (fun s l =>
    let k := s.pleg p l
    let top := if mode = 3 then c16 - 16 * (s.f F.PWM_LEGCTL.dt_fall p l + s.f F.PWM_LEGMIN.min_pulse p l) else c16
    let clamped := decide (c16 - 1 < k.ph) || (mode == 2 && decide (c16 < k.tR)) || (decide (2 ≤ mode) && decide (top < k.tF))
    (s.setIf clamped F.PWM_LEGSTAT.cfg_clamp p l).updLeg p l fun k =>
      { k with tW := dutyW k.tD (s.pset p x).car, tR := min k.tR c16, tF := if 2 ≤ mode then min k.tF top else k.tF,
               ph := min k.ph (c16 - 1) }) s

/-- A phase offset that a swap makes active is clamped to the carrier of the leg's set (R163, R241). -/
def State.phaseNow (s : State) (p l : Nat) : State :=
  let h := F.PWM_LEGPH.ph.get (s.rd .PWM_LEGPH p l)
  match s.setOfLeg p l with
  | some x =>
    let top := 16 * (s.pset p x).car - 1
    (s.setIf (decide (top < h)) F.PWM_LEGSTAT.cfg_clamp p l).updLeg p l fun k => { k with ph := min h top }
  | none => s.updLeg p l fun k => { k with ph := h }

/-- A sigma-delta filter restarts at a swap's boundary (R87, R88, R241): a synchronised channel whose clock runs takes a new
reference edge there. -/
def State.sdmRestart (s : State) (p n : Nat) : State :=
  let ran := (s.sdmc p n).clk
  let s1 := s.sdmOn p n
  if s.bit F.SDM_CH.sync p n && ran then s1.sdmStart p n else s1

/-- What the configuration controller's write of a register changes beside the write itself, given the register's old word:
R241 by element. -/
def State.ctlrAfter (s : State) (old : Word) (x : RegAt) : State :=
  let p := x.p
  let i := x.i
  let v := s.rd x.r p i x.j
  if v = old then s
  else match x.r with
  | .PWM_SET_CAR =>
    let (c, n, _) := carClamp v
    let s1 := s.updSet p i fun k => { k with car := c, ncar := n }
    if c = (s.pset p i).car then s1 else s1.recar p i
  | .PWM_LEGPH => s.phaseNow p i
  | .PWM_MASK_CTL =>
    let n := F.PWM_MASK_CTL.n_ent_m1.get v
    if n < s.f F.PWM_MASK_PTR.ptr p i then
      ((s.put F.PWM_MASK_PTR.ptr n p i).setb F.PWM_SET_STAT.cfg_clamp p i).driveSet p i
    else s.driveSet p i
  | .PWM_MASK => s.driveSet p i
  | .ADC_IN => if v.getLsbD 0 then s.firstGain p i else s
  | .ADC_ROUTE => (s.dropGood p (bindOf .ADC_ROUTE old)).dropGood p (bindOf .ADC_ROUTE v)
  | .SDM_CH =>
    let s1 := if F.SDM_CH.axis.get old = F.SDM_CH.axis.get v ∧ F.SDM_CH.le_in.get old = F.SDM_CH.le_in.get v then s
      else (s.dropGood p (bindOf .SDM_CH old)).dropGood p (bindOf .SDM_CH v)
    let same := F.SDM_CH.clk_div.get old = F.SDM_CH.clk_div.get v ∧ F.SDM_CH.cap_dly.get old = F.SDM_CH.cap_dly.get v ∧
      F.SDM_CH.edge.get old = F.SDM_CH.edge.get v
    if old.getLsbD 0 && v.getLsbD 0 && !decide same then s1.sdmRestart p i else s1
  | .SDM_FLT | .SDM_FTHR => if s.bit F.SDM_CH.en p i then s.sdmRestart p i else s
  | .POS_CFG =>
    let s1 := if F.POS_CFG.axis.get old = F.POS_CFG.axis.get v ∧ F.POS_CFG.le_in.get old = F.POS_CFG.le_in.get v then s
      else ((s.dropGood p (bindOf .POS_CFG old)).dropGood p ((bindOf .POS_CFG old).map fun e => (e.1, e.2 + 1))).dropGood p
        (bindOf .POS_CFG v) |>.dropGood p ((bindOf .POS_CFG v).map fun e => (e.1, e.2 + 1))
    if F.POS_CFG.dir_inv.get old = F.POS_CFG.dir_inv.get v then s1 else s1.histClear p i
  | .POS_HMAP => s.histClear p i
  | .RSV_CTL => (s.dropGood p (bindOf .RSV_CTL old)).dropGood p (bindOf .RSV_CTL v)
  | .RSV_EXC => if s.bit F.RSV_STAT.run p i then s.rsvRestart p i else s
  | .CMP_CFG => s.cmpEval p i s.now
  | .MUZ_SRC => (List.range 6).foldl (fun s st => if s.setRunning p st then s.muzRunning p st else s) s
  | _ => s

/-- A value that leaves its register as it stands leaves the element as it stands (R241); the write of PWM_LEGCTL itself is marked
(R172). -/
def State.unchanged (s : State) (x : RegAt) (v : Word) : Bool :=
  x.r != .PWM_LEGCTL && v == s.rd x.r x.p x.i x.j

/-- The configuration controller writes `v` to a register. No lock applies (R15). The owner bits of a leash channel belong to
OWN records alone (R234). False where such a write is refused for its own sake (R222). -/
def State.ctlrWrite (s : State) (x : RegAt) (v0 : Word) : State × Bool :=
  let old := s.rd x.r x.p x.i x.j
  let v := if x.r == .PLSH_ATTR || x.r == .SLSH_ATTR then (old &&& 0x1E) ||| (v0 &&& 1) else v0
  let (s1, w) :=
    if s.unchanged x v then (s, Wr.ok)
    else if calReg x.r then (s.wr x.r (x.r.row.write old (if x.r == .ADC_CAL_LVL || x.r == .SDM_CAL_LVL then absW v else v)) x.p x.i, Wr.ok)
    else ({ s with img := { s.img with ctlr := true } } : State).devWrite ctlrReq x v x.addr
  let s2 := { s1 with img := { s1.img with ctlr := s.img.ctlr } }
  match w with
  | .ok => (s2.ctlrAfter old x, true)
  | _ => (s, false)

/-! ### Pack records -/

/-- The register pairs of a REGS payload, from pair `k` on, relative to a base, within a space of `lim` bytes (R222). -/
def ImgSrc.regOps (f : ImgSrc) (r : ImgRec) (base lim : Nat) : Nat → Nat → Option (List SwapOp)
  | 0, _ => some []
  | n + 1, k =>
    let o := (f.pw r (2 * k)).toNat
    match if o < lim then regAt (base + o) else none with
    | none => none
    | some x =>
      if imgReg x.r then (ImgSrc.regOps f r base lim n (k + 1)).map (SwapOp.reg x.r x.p x.i x.j (f.pw r (2 * k + 1)) :: ·) else none

/-- The words of a payload from word `i` on. -/
def ImgSrc.words (f : ImgSrc) (r : ImgRec) (i n : Nat) : List Word := (List.range n).map fun k => f.pw r (i + k)

/-- What a record with a pack, set or axis path sets (R222); none where it sets something it may not (TYPE). -/
def ImgSrc.ops (f : ImgSrc) (r : ImgRec) (w : Path) : Option (List SwapOp) :=
  let p := w.pack
  let a := w.idx
  if r.type = 0x10 then
    if w.level = 1 then f.regOps r (0x40000000 + p * 0x1000000) 0x1000000 (r.plen / 8) 0
    else f.regOps r 0x50000000 0x7000000 (r.plen / 8) 0
  else if r.type = 0x20 then some [.reg .PWM_SET_CTL p a 0 (f.pw r 0)]
  else if r.type = 0x21 then
    let x := (f.pw r 0).toNat
    some [.bind p a (if x < 6 then some x else none) (r.flags % 2 == 1), .reg .LE_AX_PROG p a 0 (f.pw r 1),
          .reg .LE_AX_STEPS p a 0 (f.pw r 2), .reg .LE_AX_RDY p a 0 (f.pw r 3), .reg .LE_AX_IN p a 0 (f.pw r 4)]
  else if r.type = 0x22 then
    let first := (f.pw r 0).toNat
    let n := min (r.plen / 4 - 1) (4096 - first)
    some ((List.range n).map fun k => .reg .LE_PROGMEM p (first + k) 0 (f.pw r (1 + k)))
  else if r.type = 0x23 then
    let g := (f.pw r 0).toNat
    if 8 ≤ g then none
    else some ((List.range (min 128 (r.plen / 4 - 1))).map fun k => .reg .LE_COEF p a (128 * g + k) (f.pw r (1 + k)))
  else if r.type = 0x24 then
    let n := min 8 ((r.plen / 4 - 2) / 3)
    some ([.reg .LE_GAIT_CFG p a 0 (f.pw r 0), .reg .LE_GAIT_HYS p a 0 (f.pw r 1)] ++
      ((List.range n).flatMap fun g =>
        [.reg .LE_GAIT_LO p a g (f.pw r (2 + 3 * g)), .reg .LE_GAIT_HI p a g (f.pw r (3 + 3 * g)),
         .reg .LE_GAIT_CAL p a g (f.pw r (4 + 3 * g))]) ++ [.gait p a (r.flags % 2 == 1)])
  else some []

/-- Apply one value (R226, R240). Coefficients and program words go straight to their memories. False where it is refused for
its own sake, or binds a set that another axis holds (R5). -/
def State.applyOp (s : State) : SwapOp → State × Bool
  | .reg .LE_COEF p a w v => (s.wrLe .LE_COEF v p a w, true)
  | .reg .LE_PROGMEM p k _ v => (s.wrLe .LE_PROGMEM v p k 0, true)
  | .reg r p i j v => s.ctlrWrite { r := r, p := p, i := i, j := j } v
  | .bind p a x clr =>
    let taken := match x with
      | some x => (List.range 6).any fun b => b != a && s.setOfAxis p b == some x
      | none => false
    if taken then (s, false)
    else
      let s1 := { s with axSet := s.axSet.set none (8 * p + a) x }
      let s2 := match x with
        | some _ => if s1.axSt p a = 0 then s1.put F.LE_AX_STAT.state 1 p a else s1
        | none => if s1.axSt p a = 1 then s1.put F.LE_AX_STAT.state 0 p a else s1
      let s3 := if clr then
          ((List.range 256).foldl (fun s w => if s.rd .LE_STATE p a w = 0 then s else s.wrLe .LE_STATE 0 p a w) s2).updAx p a fun k =>
            { k with first := true }
        else s2
      (s3.axRefresh p a, true)
  | .gait _ _ _ => (s, true)

/-- Apply values in order; none where one is refused. -/
def State.applyOps (s : State) : List SwapOp → Option State
  | [] => some s
  | o :: os => match s.applyOp o with
    | (s1, true) => State.applyOps s1 os
    | (_, false) => none

/-- Apply values in order, leaving out any that is refused. -/
def State.applyAll (s : State) (os : List SwapOp) : State := os.foldl (fun s o => (s.applyOp o).1) s

/-! ### Device records -/

/-- A TENANT entry (R358): its four words. -/
abbrev TenEntry := Word × Word × Word × Word

/-- The entries of a TENANT record. -/
def ImgSrc.tenEntries (f : ImgSrc) (r : ImgRec) : List TenEntry :=
  (List.range (min 8 (r.plen / 16))).map fun k => (f.pw r (4 * k), f.pw r (4 * k + 1), f.pw r (4 * k + 2), f.pw r (4 * k + 3))

/-- The tenant number of an entry, whether it is enabled, and its alarm queue. -/
def TenEntry.num (e : TenEntry) : Nat := F.TEN_CFG.num.get e.1
def TenEntry.en (e : TenEntry) : Bool := e.1.getLsbD 3
def TenEntry.aq (e : TenEntry) : Nat := (F.TEN_AQ.aq_base.get e.2.2.2) * 2048

/-- The checks of R358 and R359 on the entries of an image. -/
def tenGood (es : List TenEntry) : Bool :=
  es.any (fun e => e.num == 0) &&
  es.all (fun e =>
    (e.num != 0 || (e.en && e.1.getLsbD 4)) && F.TEN_CFG.axes_act.get e.1 != 3 &&
    (!e.en || (decide (0x11800000 ≤ e.aq ∧ e.aq + 2048 ≤ 0x12000000)))) &&
  decide ((es.map TenEntry.num).Nodup) && decide (((es.filter TenEntry.en).map TenEntry.aq).Nodup)

/-- Write the registers of a TENANT entry. -/
def State.tenSet (s : State) (e : TenEntry) : State :=
  ((s.wr .TEN_CFG (e.1 &&& 0xFF) 0 e.num).wr .TEN_NOTE (e.2.2.1 &&& 0x3FFF) 0 e.num).wr .TEN_AQ (e.2.2.2 &&& 0xFFFFF800) 0 e.num

/-- Assign the resources that an OWN record lists; a mailbox channel's word is followed by its configuration (R351, log 47). -/
def State.ownList (s : State) (o : Owner) : List Word → State
  | [] => s
  | w :: ws =>
    let n := w.toNat
    let kind := n / 2 ^ 28
    let set (r : Res) : State := { s with own := s.own.set {} r.key o }
    if kind = 1 then State.ownList (set (.dma (n % 32))) o ws
    else if kind = 2 then State.ownList (set (.slot (n % 64))) o ws
    else if kind = 3 then State.ownList (set (.window (n / 64 % 16) (n % 64))) o ws
    else if kind = 7 then State.ownList (set (.sens (n % 8))) o ws
    else if kind = 5 then State.ownList ((s.putLf F.PLSH_ATTR.owner o.ten (n % 512)).putLf F.PLSH_ATTR.sec o.sec.toNat (n % 512)) o ws
    else match kind, ws with
      | 6, v :: rest =>
        let c := n / 16 % 16
        let ch := n % 16
        State.ownList (((s.wr .MBX_RX_CFG (v &&& 0x1FFFF) c ch).put F.MBX_RX_CFG.owner o.ten c ch).putb F.MBX_RX_CFG.sec o.sec c ch) o rest
      | _, rest => State.ownList s o rest

/-- Apply an OWN record (R222, R360); false where it names a tenant that the image leaves disabled (R359). -/
def State.ownRec (s : State) (f : ImgSrc) (r : ImgRec) (w : Path) : State × Bool :=
  let o : Owner := { ten := (f.pw r 0).toNat % 8, sec := (f.pw r 0).getLsbD 3 }
  let set (x : Res) : State := { s with own := s.own.set {} x.key o }
  let s1 := if w.level = 1 then set (.pack w.pack) else if w.level = 2 then set (.set w.pack w.idx)
    else if w.level = 3 then set (.axis w.pack w.idx) else s
  (s1.ownList o (f.words r 1 (r.plen / 4 - 1)), s.tenEn o.ten)

/-- Apply the 16-byte entries of a REGION record (R303); false where one names a master or an entry that does not exist. -/
def State.regionRec (s : State) (f : ImgSrc) (r : ImgRec) : State × Bool :=
  (List.range (r.plen / 16)).foldl (fun (acc : State × Bool) k =>
    let w := (f.pw r (4 * k)).toNat
    let m := w % 64
    let e := w / 256 % 16
    let good := decide (m < 45) && (decide (e < 4) || !(decide (12 ≤ m) && decide (m < 44)))
    if good then
      (((acc.1.wr .MEM_RGN_BASE (f.pw r (4 * k + 1) &&& 0xFFFFF000) 0 m e).wr .MEM_RGN_LIMIT (f.pw r (4 * k + 2) &&& 0xFFFFF000) 0 m e).wr
        .MEM_RGN_ATTR (f.pw r (4 * k + 3) &&& 0x1FF) 0 m e, acc.2)
    else (acc.1, false)) (s, true)

/-- Apply the entries of a CORE record: pairing, tenant, doorbell tenants, VBASE, checkpoint interval and save area (R222, R350,
R373, log 47); false where one names a disabled tenant (R359). -/
def State.coreRec (s : State) (f : ImgSrc) (r : ImgRec) : State × Bool :=
  (List.range (r.plen / 16)).foldl (fun (acc : State × Bool) k =>
    let w := f.pw r (4 * k)
    let c := w.toNat % 16
    let t := w.toNat / 16 % 8
    if 12 ≤ c then (acc.1, false)
    else
      let s1 := acc.1.wr .INT_DBT (w >>> 16 &&& 0xFF) c
      let s2 := s1.updCore c fun q => { q with vbase := f.pw r (4 * k + 1) &&& 0xFFFFFE00 }
      let s3 := (s2.ctlrWrite { r := .CHK_CTL, p := c } (f.pw r (4 * k + 2))).1
      let s4 := s3.wr .SCHED_SAVE (f.pw r (4 * k + 3) &&& 0xFFFFFE00) c
      let s5 := if c < 8 then
          let s5 := if w.getLsbD 7 then { s4 with own := s4.own.set {} (Res.host c).key { ten := t, sec := true } } else s4
          (s5.putPf F.PJNL_PSTAT.paired (w.getLsbD 8).toNat (8 + c)).putb F.CHK_STAT.paired (w.getLsbD 8) c
        else s4
      (s5, acc.2 && (!w.getLsbD 7 || s.tenEn t))) (s, true)

/-- Apply a LINK record: address and value pairs in the FAB, ETH and CAN blocks, the root key digest, the owners of the CAN
rings and the forwarding table (R415, R417 to R419, R425, R427, log 47). -/
def State.linkRec (s : State) (f : ImgSrc) (r : ImgRec) : State × Bool :=
  let n := (f.pw r 0).toNat
  let pairs := (List.range (min n ((r.plen / 4 - 1) / 2))).map fun k => ((f.pw r (1 + 2 * k)).toNat, f.pw r (2 + 2 * k))
  let (s1, good) := pairs.foldl (fun (acc : State × Bool) e =>
    match if 0x51000000 ≤ e.1 ∧ e.1 < 0x54000000 then regAt e.1 else none with
    | none => (acc.1, false)
    | some x =>
      let bad := x.r == .FAB_INMAP && !s.tenEn (F.FAB_INMAP.lten.get e.2) && F.FAB_INMAP.en.get e.2 == 1
      if bad || !(imgReg x.r || ctlrOwn x.r) then (acc.1, false)
      else
        let (s2, g) := acc.1.ctlrWrite x e.2
        (s2, acc.2 && g)) (s, true)
  let o := 1 + 2 * n
  let s2 := { s1 with net := { s1.net with rootKey := f.words r o 12 } }
  let s3 := (List.range 16).foldl (fun s q =>
    let v := (f.pw r (o + 12 + q / 8)).toNat / 16 ^ (q % 8) % 16
    { s with own := s.own.set {} (Res.netq true q).key { ten := v % 8, sec := decide (8 ≤ v) } }) s2
  let m := min 1024 ((r.plen / 4 - (o + 14)) / 3)
  let fwd := (List.range m).map fun k =>
    let lo := (f.pw r (o + 14 + 3 * k)).toNat
    let hi := (f.pw r (o + 15 + 3 * k)).toNat
    (lo + hi % 2 ^ 16 * 2 ^ 32, hi / 2 ^ 16 % 4096, (f.pw r (o + 16 + 3 * k)).toNat)
  ({ s3 with net := { s3.net with fwd := fwd } }, good)

/-! ### Loading at boot -/

/-- Apply one record of a full image; false: rejected with code TYPE. -/
def State.applyRec (s : State) (f : ImgSrc) (r : ImgRec) (w : Path) : State × Bool :=
  if r.type = 1 then ((f.tenEntries r).foldl State.tenSet s, true)
  else if r.type = 2 then s.ownRec f r w
  else if r.type = 3 then s.regionRec f r
  else if r.type = 4 then s.coreRec f r
  else if r.type = 0x30 then s.linkRec f r
  else match f.ops r w with
    | none => (s, false)
    | some os => match s.applyOps os with
      | some s1 => (if r.type = 0x21 ∧ s1.axSt w.pack w.idx = 0 then s1.put F.LE_AX_STAT.state 1 w.pack w.idx else s1, true)
      | none => (s, false)

/-- The pass that takes a record (R226), with the pack as a second key in pass 3. -/
def passOf (r : ImgRec) (w : Path) : Nat :=
  if r.type = 1 ∨ r.type = 2 ∨ r.type = 3 ∨ r.type = 4 then 10
  else if r.type = 0x22 ∨ r.type = 0x23 ∨ r.type = 0x24 then 20
  else if r.type = 0x20 ∨ r.type = 0x21 ∨ (r.type = 0x10 ∧ w.level = 1) then 30 + w.pack
  else if r.type = 0x10 then 40
  else if r.type = 0x30 then 41
  else 50

/-- Apply records in order; a failing one is named by its index. -/
def State.applyRecs (s : State) (f : ImgSrc) : List (ImgRec × Path) → Except ImgErr State
  | [] => .ok s
  | (r, w) :: rest => match s.applyRec f r w with
    | (s1, true) => State.applyRecs s1 f rest
    | (_, false) => .error (8, r.ix)

/-- The records of an image in the order of the four passes (R226). -/
def passOrder (rs : List (ImgRec × Path)) : List (ImgRec × Path) :=
  [10, 20, 30, 31, 32, 33, 40, 41].flatMap fun k => rs.filter fun e => passOf e.1 e.2 == k

/-- Load a full image that passed authentication: checks, then the four passes (R225, R226, R359). The tenants that the image enables
stand before its OWN, CORE and LINK records are judged, wherever the TENANT records stand in the table. -/
def State.loadImage (s : State) (f : ImgSrc) (rs : List ImgRec) : Except ImgErr State :=
  match f.checkAll rs rs with
  | .error e => .error e
  | .ok xs =>
    let tens := xs.filter fun e => e.1.type == 1
    if !tenGood (tens.flatMap fun e => f.tenEntries e.1) then .error (8, ((tens.getLast?).map fun e => e.1.ix).getD 0)
    else ((tens.flatMap fun e => f.tenEntries e.1).foldl State.tenSet s).applyRecs f (passOrder xs)

/-- Record a failure in IMG_ERR (R223 to R227). -/
def State.imgErr (s : State) (code rec_ : Nat) (swap : Bool) : State :=
  ((s.put F.IMG_ERR.code code).putb F.IMG_ERR.swap swap).put F.IMG_ERR.rec (min rec_ 0xFFFF)

/-- The first cell of a bank: 0 A, 1 B. -/
def bankBase (b : Nat) : Nat := b * 0x2000000

/-- The byte at an offset of a bank, as stored. -/
def State.bankByte (s : State) (b : Nat) : ImgSrc := fun o => SMap.get (memDefault (bankBase b + o)) s.mem (bankBase b + o)

/-- A nonvolatile line can be read (R28, R312, R326). -/
def State.lineOk (s : State) (k : Nat) : Bool :=
  s.memUp && decide (s.ram.nvFlips.get 0 (k / 64) < 3) && !s.ram.nvRetired.get false (nvBlk k)

/-- A word of an image in memory can be read by the configuration controller (log 135). -/
def State.imgWordOk (s : State) (a : Nat) : Bool :=
  if isSram a then (!s.wvalid a || decide (s.nflips a < 2)) && !s.pageClosedAt a else isNv a && s.lineOk (s.nvKey a)

/-- Every word of `n` bytes from a word address can be read. -/
def allOk (ok : Nat → Bool) (n : Nat) : Bool := (List.range ((n + 3) / 4)).all fun i => ok (4 * i)

/-- A bank's header: valid magic, sequence number, state and tries left, and the image's place with its length clamped, and whether
it was (R229). -/
structure BankHdr where
  good : Bool
  seq : Nat
  state : Nat
  tries : Nat
  off : Nat
  len : Nat
  cut : Bool
deriving DecidableEq, Repr

/-- Read a bank's header. -/
def State.bankHdr (s : State) (b : Nat) : BankHdr :=
  let f := s.bankByte b
  let w := f.num 8 4
  let off := f.num 0x0C 4
  let len := f.num 0x10 4
  { good := f.num 0 4 == 0x4B4E4247 && s.lineOk (bankBase b), seq := f.num 4 4, state := w % 4, tries := w / 4 % 4, off := off
    len := min len (0x2000000 - off), cut := decide (0x2000000 - off < len) }

/-- The device writes a word of a bank's header. -/
def State.bankWord (s : State) (b o v : Nat) : State :=
  (toBytes 4 v).zipIdx.foldl (fun s e => s.setCell (bankBase b + o + e.2) e.1) s

/-- Set the state and the tries left of a bank, in its header and in IMG_BANK. -/
def State.bankState (s : State) (b st tries : Nat) : State :=
  let s1 := s.bankWord b 8 (st + 4 * tries)
  if b = 0 then (s1.put F.IMG_BANK.state_a st).put F.IMG_BANK.tries_a tries
  else (s1.put F.IMG_BANK.state_b st).put F.IMG_BANK.tries_b tries

/-- Set a bank's sequence number, in its header and in its register. -/
def State.bankSeq (s : State) (b v : Nat) : State :=
  (s.bankWord b 4 v).wr .IMG_BANK_SEQ (BitVec.ofNat 32 v) 0 b

/-- The registers that show the bank headers are loaded (IMG registers). -/
def State.bankShow (s : State) : State :=
  [0, 1].foldl (fun s b =>
    let h := s.bankHdr b
    let s1 := s.wr .IMG_BANK_SEQ (BitVec.ofNat 32 h.seq) 0 b
    if b = 0 then (s1.put F.IMG_BANK.state_a h.state).put F.IMG_BANK.tries_a h.tries
    else (s1.put F.IMG_BANK.state_b h.state).put F.IMG_BANK.tries_b h.tries) s

/-- The candidates of a boot in the order in which they are tried (R231). -/
def State.candidates (s : State) : List Nat :=
  let ok (b : Nat) : Bool := let h := s.bankHdr b; h.good && (h.state == 2 || (h.state == 1 && decide (0 < h.tries)))
  let bs := [0, 1].filter ok
  if bs.length = 2 ∧ (s.bankHdr 0).seq < (s.bankHdr 1).seq then [1, 0] else bs

/-- Try one bank: the state with its image loaded, or the failure (R223, R225 to R227). Both reads of the image come in this one
step. -/
def State.tryBank (s : State) (b : Nat) : State × Option State :=
  let h := s.bankHdr b
  let f : ImgSrc := fun o => s.bankByte b (h.off + o)
  let hd := f.hdr h.len
  let s1 := if h.state = 1 then s.bankState b 1 (h.tries - 1) else s
  let (rs, cut) := f.recs hd hd.recCnt 0 hd.recOff
  let whole := allOk (fun o => s.lineOk (bankBase b + h.off + o)) (hd.sig + sigLen)
  let s2 := (s1.setIf (h.cut || hd.lenClamp || cut) F.IMG_STATUS.len_clamp).setIf hd.svnClamp F.IMG_STATUS.svn_clamp
  match f.auth hd 0 s.img.svn whole with
  | some c => ((s2.imgErr c 0 false).bankState b 3 (s2.bankHdr b).tries, none)
  | none => match s2.loadImage f rs with
    | .error (c, i) => ((s2.imgErr c i false).bankState b 3 (s2.bankHdr b).tries, none)
    | .ok s3 =>
      let s4 := (List.range 4).foldl (fun s i => s.wr .IMG_ID (hd.id.getD i 0) 0 i) s3
      (s2, some (((s4.put F.IMG_SVN.img hd.svn).put F.IMG_BANK.boot b).put F.IMG_STATUS.bank b))

/-- Steps 9 to 11 of the start-up order: the candidates in turn (R226, R227, R231). The truth value says that one loaded. -/
def State.bootFrom (s : State) (first : Bool) : List Nat → State × Bool
  | [] => (s.put F.IMG_STATUS.phase 4, false)
  | b :: bs => match s.tryBank b with
    | (_, some s1) => ((s1.putb F.IMG_STATUS.fallback (!first)).put F.IMG_STATUS.phase 3, true)
    | (s1, none) => State.bootFrom s1 false bs

/-- Load an image at boot. -/
def State.boot_ (s : State) : State × Bool :=
  let s1 := (s.bankShow).put F.IMG_SVN.fuse s.img.svn
  s1.bootFrom true s1.candidates

/-- PACK reset, step 4: every record of the booted image whose path lies in the pack is applied again (R462). -/
def State.packRecords (s : State) (p : Nat) : State :=
  let b := s.boot
  let h := s.bankHdr b
  let f : ImgSrc := fun o => s.bankByte b (h.off + o)
  let hd := f.hdr h.len
  let (rs, _) := f.recs hd hd.recCnt 0 hd.recOff
  let mine := rs.filterMap fun r => match pathOf r.path with
    | some w => if w.pack = p ∧ w.level ≠ 0 then some (r, w) else none
    | none => none
  (passOrder mine).foldl (fun s e => (s.applyRec f e.1 e.2).1) s

end Sys2Proof.Machine
end

