-- ==== Sys2Proof/Machine/Swap.lean ====
section
/-! DEFINITION. The online swap (R233 to R246) and the bank commands (R232). -/

namespace Sys2Proof.Machine

/-! ### Scope and limits -/

/-- The axes that the element of a register belongs to, in one state of the structure (R233): those its binding names. -/
def State.regAxes (s : State) (x : RegAt) : List Nat :=
  let p := x.p
  let i := x.i
  let ofSet (st : Nat) : List Nat := (s.axisOfSet p st).toList
  let ofLeg (l : Nat) : List Nat := match s.setOfLeg p l with
    | some st => ofSet st
    | none => []
  let ofAin (n : Nat) : List Nat := if s.ainAxis p n < 6 then [s.ainAxis p n] else []
  let ofSrc (n : Nat) : List Nat := ((List.range 6).filter fun st => s.routed p n st).flatMap ofSet
  let one (a : Nat) : List Nat := if a < 6 then [a] else []
  match x.r.row.blk with
  | .le => if x.r.row.nI = 6 then [i] else []
  | .pwm =>
    if x.r.row.nI = 6 then ofSet i else if x.r.row.nI = 18 then ofLeg i else []
  | .adc =>
    if x.r == .ADC_ROUTE || x.r == .ADC_IN then ofAin i
    else if x.r == .ADC_ENT_CTL || x.r == .ADC_ENT_HOLD || x.r == .ADC_ENT_DUE then ofAin (s.f F.ADC_ENT_CTL.input p i)
    else if calReg x.r then ofAin (i / 4) else []
  | .sdm => if calReg x.r then one (s.f F.SDM_CH.axis p (i / 4)) else one (s.f F.SDM_CH.axis p i)
  | .cmp => if x.r.row.nI = 16 then ofAin i else []
  | .pos => if x.r.row.nI = 6 then one (s.f F.POS_CFG.axis p i) else []
  | .rsv => one (s.f F.RSV_CTL.axis p i)
  | .muz =>
    if x.r == .MUZ_SRC then ofSrc i else if x.r == .MUZ_PAT then ofSet i else if x.r == .MUZ_PROT then ofLeg i else []
  | _ => []

/-- A source's sets that no axis holds: a route to one puts the source outside an axis's scope (R233). -/
def State.srcLoose (s : State) (x : RegAt) : Bool :=
  x.r == .MUZ_SRC && (List.range 6).any fun st => s.routed x.p x.i st && (s.axisOfSet x.p st).isNone

/-- An element is in the scope of an axis: bound to it before or after the swap, and to no other axis (R233). -/
def inAxis (old new : State) (p a : Nat) (x : RegAt) : Bool :=
  let as_ := old.regAxes x ++ new.regAxes x
  x.p == p && as_.contains a && as_.all (· == a) && !old.srcLoose x && !new.srcLoose x

/-- A record of a swap lies in the scope (R233, R234): no device record, and no element outside. -/
def inScope (old new : State) (sc : Nat × Option Nat) (r : ImgRec) (w : Path) (os : List SwapOp) : Bool :=
  if r.type = 1 ∨ r.type = 2 ∨ r.type = 3 ∨ r.type = 4 ∨ r.type = 0x30 then false
  else if r.type = 0xFF then true
  else if w.pack ≠ sc.1 ∨ (r.type = 0x10 ∧ w.level ≠ 1) then false
  else match sc.2 with
    | none => true
    | some a =>
      if r.type = 0x21 ∨ r.type = 0x23 ∨ r.type = 0x24 then w.idx == a
      else if r.type = 0x22 then true
      else os.all fun o => match o with
        | .reg r p i j _ => inAxis old new sc.1 a { r := r, p := p, i := i, j := j }
        | _ => true

/-- The axes in a scope. -/
def scopeAxes (sc : Nat × Option Nat) : List Nat := match sc.2 with
  | some a => [a]
  | none => List.range 6

/-- The structural limits of R234 and of an unbinding BIND, accepted only from CONFIGURED (R240), against the state that the swap
meets. -/
def State.structOk (s new : State) (sc : Nat × Option Nat) (os : List SwapOp) : Bool :=
  let p := sc.1
  let unbinds := os.any fun o => match o with
    | .bind q a none _ => s.axSt q a != 1
    | _ => false
  !unbinds &&
  (match sc.2 with
   | some a =>
     let st := s.axSt p a
     if 2 ≤ st ∧ st ≤ 5 then
       s.setOfAxis p a == new.setOfAxis p a && s.f F.PWM_BASE.base p == new.f F.PWM_BASE.base p &&
         (match s.setOfAxis p a with
          | some x => s.f F.PWM_SET_CTL.legs p x == new.f F.PWM_SET_CTL.legs p x
          | none => true)
     else true
   | none => (List.range 6).all (fun a => decide (s.axSt p a ≤ 1)) && (List.range 6).all fun x => !s.setRunning p x)

/-- An axis with a phase set in the schedule check: its period, where its boundaries stand within the period counted from a base
boundary, its ready deadline and its steps. -/
structure SchedAx where
  per : Nat
  ph : Nat
  rdy : Nat
  steps : Nat

/-- Where a set's boundaries stand within a period of `per` ticks counted from a base boundary: as its counter runs now; at the base
boundary where no counter runs, or the swap changes the set's period or the base period (log 58). -/
def State.setPhase (s new : State) (p x per : Nat) : Nat :=
  let k := s.pset p x
  if s.bit F.PWM_SET_STAT.cnt_run p x && !k.restart && k.ticks == per && s.f F.PWM_BASE.base p == new.f F.PWM_BASE.base p then
    (((k.bk : Int) - (s.pset p 6).bk) % per).toNat
  else 0

/-- The axes of a pack with a phase set, as a swap from `s` leaves them in `new`. -/
def State.schedSet (s new : State) (p : Nat) : List SchedAx :=
  (List.range 6).filterMap fun a => match new.setOfAxis p a with
    | some x =>
      let (c, n, _) := carClamp (new.rd .PWM_SET_CAR p x)
      some { per := c * n, ph := s.setPhase new p x (c * n), rdy := min (new.f F.LE_AX_RDY.rdy p a) (c * n - 1)
             steps := new.f F.LE_AX_STEPS.steps p a }
    | none => none

/-- R136 in one base window `w`: the runs whose ready deadline Bk + rdy lies in it. Times are in picoseconds. -/
def windowOk (base : Nat) (axes : List SchedAx) (w : Nat) : Bool :=
  let runs := axes.filterMap fun e =>
    let t := (e.ph + e.rdy) % e.per
    if w % (e.per / base) = t / base then some (t % base, e.steps) else none
  runs.all fun k =>
    decide (1000 * k.1 + 824 * ((runs.filter fun j => decide (k.1 ≤ j.1)).map (·.2)).sum + 400000 ≤ 1000 * base)

/-- The pack's schedule under R133 and R136: each period a whole multiple of the base period, boundaries on base boundaries, and every
base window of the hyperperiod. -/
def State.schedOk (s new : State) (p : Nat) : Bool :=
  let base := new.f F.PWM_BASE.base p
  let axes := s.schedSet new p
  axes.all (fun e => decide (base ≠ 0) && e.per % base == 0 && e.per != 0 && e.ph % base == 0) &&
    (List.range (axes.foldl (fun l e => Nat.lcm l (e.per / base)) 1)).all (windowOk base axes)

/-- The operations of one program: from its entry to its first end (R127). -/
def State.progRange (s : State) (p e : Nat) : Nat × Nat :=
  let n := ((List.range (4096 - e)).find? fun k => (s.rd .LE_PROGMEM p (e + k)).toNat / 2 ^ 26 == 1).getD (4095 - e)
  (e, e + n)

/-- The program ranges in force of an axis (R236). -/
def State.axRanges (s : State) (p a : Nat) : List (Nat × Nat) :=
  if s.axSt p a = 0 then []
  else [s.progRange p (s.f F.LE_AX_PROG.open_entry p a), s.progRange p (s.f F.LE_AX_PROG.closed_entry p a)]

/-- No PROG record of an axis swap touches a range in force (R236). -/
def State.progFree (s : State) (sc : Nat × Option Nat) (os : List SwapOp) : Bool :=
  match sc.2 with
  | none => true
  | some _ =>
    let rs := (List.range 6).flatMap fun a => s.axRanges sc.1 a
    os.all fun o => match o with
      | .reg .LE_PROGMEM _ k _ _ => rs.all fun r => decide (k < r.1 ∨ r.2 < k)
      | _ => true

/-! ### Staging -/

/-- IMG_SWAP_STAT.state. -/
def State.swapSt (s : State) : Nat := s.f F.IMG_SWAP_STAT.state

/-- Enter a swap state. -/
def State.swapTo (s : State) (n : Nat) : State := s.put F.IMG_SWAP_STAT.state n

/-- Change what the configuration controller holds. -/
def State.updImg (s : State) (f : ImgSt → ImgSt) : State := { s with img := f s.img }

/-- A stage or a commit failed (R236, R242). -/
def State.swapFail (s : State) (code rec_ : Nat) : State :=
  ((((s.imgErr code rec_ true).setb F.IMG_SWAP_STAT.failed).swapTo 0)).updImg fun k => { k with staged := [], prog := [] }

/-- The bytes of a swap image at an address of memory: SRAM, or the nonvolatile map of this boot (R297). -/
def State.swapSrc (s : State) (a : Nat) : ImgSrc := fun o => if isSram (a + o) || isNv (a + o) then s.byte (a + o) else 0

/-- The room that holds a swap image: up to the end of its memory (R219). -/
def swapRoom (a : Nat) : Nat :=
  if isSram a then 0x12000000 - a else if isNv a then 0x2000000 - a % 0x2000000 else 0

/-- STAGE (R225, R235, R236, R245): refused while another swap is staging, staged or armed. The first read, which authenticates the
image, is taken here and the second at STAGING_DONE (log 61). -/
def State.swapStage (s : State) : State × Wr :=
  if s.swapSt = 1 ∨ s.swapSt = 2 ∨ s.swapSt = 3 then (s.imgErr 14 0 true, .err)
  else
    let a := s.f F.IMG_SWAP_SRC.addr * 4
    let f := s.swapSrc a
    let hd := f.hdr (swapRoom a)
    let bad := (f.auth hd 1 s.img.svn (allOk (fun o => s.imgWordOk (a + o)) (hd.sig + sigLen))).getD 0
    let s1 := (s.setIf hd.lenClamp F.IMG_STATUS.len_clamp).setIf hd.svnClamp F.IMG_STATUS.svn_clamp
    (((s1.swapTo 1).clrb F.IMG_SWAP_STAT.undo).updImg fun k =>
      { k with undo := [], staged := [], prog := [], src := a, hdr := hd, verdict := bad }, .ok)

/-- The old value of what an operation sets. -/
def State.undoOp (s : State) : SwapOp → SwapOp
  | .reg r p i j _ =>
    let w := s.rd r p i j
    .reg r p i j (if lshCfg r || r == .LE_PROGMEM then w else w &&& r.row.rw)
  | .bind p a _ _ => .bind p a (s.setOfAxis p a) false
  | .gait p a _ => .gait p a false

/-- Values by record, and all of them in order. -/
def ImgSrc.swapOps (f : ImgSrc) : List (ImgRec × Path) → Except ImgErr (List (ImgRec × Path × List SwapOp))
  | [] => .ok []
  | (r, w) :: rest =>
    match f.ops r w with
    | none => .error (8, r.ix)
    | some os => match ImgSrc.swapOps f rest with
      | .error e => .error e
      | .ok xs => .ok ((r, w, os) :: xs)

/-- A program operation. -/
def SwapOp.isProg : SwapOp → Bool
  | .reg .LE_PROGMEM _ _ _ _ => true
  | _ => false

/-- A coefficient. -/
def SwapOp.isCoef : SwapOp → Bool
  | .reg .LE_COEF _ _ _ _ => true
  | _ => false

/-- Apply the values of records in order; a value refused for its own sake rejects its record (R222). -/
def State.applyStage (s : State) : List (ImgRec × Path × List SwapOp) → Except ImgErr State
  | [] => .ok s
  | (r, _, os) :: rest => match s.applyOps os with
    | some s1 => State.applyStage s1 rest
    | none => .error (if r.type = 0x21 then 10 else 8, r.ix)

/-- The words of the pack's swap bank (R237): the staged gaits of the scoped axis and a copy of its others, whether or not the image
holds a COEF record; in a pack swap, of each axis with one (log 133). -/
def coefOps (new : State) (sc : Nat × Option Nat) (os : List SwapOp) : List SwapOp :=
  ((scopeAxes sc).filter fun a => sc.2.isSome || os.any fun o => match o with
    | .reg .LE_COEF q b _ _ => q == sc.1 && b == a
    | _ => false).flatMap fun a => (List.range 1024).map fun w => .reg .LE_COEF sc.1 a w (new.rd .LE_COEF sc.1 a w)

/-- STAGING_DONE: the checks in order, then every value staged; program words enter program memory (R236, R237). -/
def State.stagingDone (s : State) : State :=
  if s.swapSt ≠ 1 then s
  else
    let f := s.swapSrc s.img.src
    let hd := s.img.hdr
    let (rs0, cut) := f.recs hd hd.recCnt 0 hd.recOff
    let rs := rs0.map fun r => r.readable fun o => s.imgWordOk (s.img.src + o)
    let s1 := s.setIf cut F.IMG_STATUS.len_clamp
    if s.img.verdict ≠ 0 then s.swapFail s.img.verdict 0
    else
      match pathOf hd.scope with
      | none => s1.swapFail 7 0
      | some w =>
        let s2 := s1.wr .IMG_SWAP_SCOPE (BitVec.ofNat 32 hd.scope)
        if w.level ≠ 1 ∧ w.level ≠ 3 then s2.swapFail 9 0
        else
          let sc : Nat × Option Nat := (w.pack, if w.level = 3 then some w.idx else none)
          match f.checkAll rs rs with
          | .error (c, i) => s2.swapFail c i
          | .ok xs =>
            match xs.find? fun e => e.1.type ∈ [1, 2, 3, 4, 0x30] || (e.1.type == 0x10 && e.2.level == 0) with
            | some e => s2.swapFail 9 e.1.ix
            | none =>
              match f.swapOps xs with
              | .error (c, i) => s2.swapFail c i
              | .ok ys =>
                match s2.applyStage ys with
                | .error (c, i) => s2.swapFail c i
                | .ok new =>
                  let all := ys.flatMap fun e => e.2.2
                  match ys.find? fun e => !inScope s2 new sc e.1 e.2.1 e.2.2 with
                  | some e => s2.swapFail 9 e.1.ix
                  | none =>
                    if !s2.structOk new sc all then s2.swapFail 10 0
                    else if !s2.schedOk new sc.1 then s2.swapFail 11 0
                    else if !s2.progFree sc all then s2.swapFail 12 0
                    else
                      let prog := all.filter SwapOp.isProg
                      let rest := all.filter fun o => !o.isProg && !o.isCoef
                      let s3 := (s2.swapTo 2).updImg fun k => { k with
                        staged := rest ++ coefOps new sc all, scope := sc, prog := (prog.map s2.undoOp).reverse }
                      s3.applyAll prog

/-! ### Commit -/

/-- Discard a swap; the program words it displaced return (R246, log 48). -/
def State.swapDrop (s : State) : State :=
  ((s.applyAll s.img.prog).swapTo 0).updImg fun k => { k with staged := [], prog := [], abortLate := false }

/-- The staged values are armed, late where the target tag has passed, or dropped with skip_late (R239). -/
def State.swapArm (s : State) : State :=
  let late := s.bit F.IMG_SWAP_CTL.at_en && Tag.before (s.pairAt .IMG_SWAP_AT_LO .IMG_SWAP_AT_HI) s.now
  let s1 := s.setIf late F.IMG_SWAP_STAT.late
  if late && s.bit F.IMG_SWAP_CTL.skip_late then (s1.setb F.IMG_SWAP_STAT.dropped).swapDrop
  else (s1.swapTo 3).updImg fun k => { k with goAt := s.clk.raw, abortLate := false }

/-- GO (R238, R239): accepted only in state staged. -/
def State.swapGo (s : State) : State × Wr := if s.swapSt ≠ 2 then (s, .err) else (s.swapArm, .ok)

/-- The next commit boundary of an armed swap lies less than 32 ns ahead (R246). -/
def State.commitSoon (s : State) : Bool :=
  let p := s.img.scope.1
  let x := match s.img.scope.2 with
    | some a => s.setOfAxis p a
    | none => none
  match x with
  | some x => s.afterCutoff p x
  | none => decide ((s.pset p 6).bk + s.f F.PWM_BASE.base p < s.clk.raw + 32)

/-- ABORT (R246): after the cutoff of the boundary at which an armed swap commits it does not stop that commit. -/
def State.swapAbort (s : State) : State × Wr :=
  if s.swapSt = 0 ∨ s.swapSt = 4 then (s, .err)
  else if s.swapSt = 3 ∧ s.commitSoon then (s.updImg fun k => { k with abortLate := true }, .ok)
  else (s.swapDrop, .ok)

/-- REVERT (R239, R245): the undo set is armed as a swap; it stays held where the arming is dropped. -/
def State.swapRevert (s : State) : State × Wr :=
  if !s.bit F.IMG_SWAP_STAT.undo || s.swapSt == 1 || s.swapSt == 2 || s.swapSt == 3 then (s, .err)
  else ((s.updImg fun k => { k with staged := k.undo, prog := [], scope := k.undoScope }).swapArm, .ok)

/-- A staged value, as the write masks and clamps it, changes a comparator or a route whose source is live at the boundary (R242). -/
def State.liveHit (s : State) (o : SwapOp) : Bool :=
  match o with
  | .reg r p n _ _ =>
    let live :=
      if r == .CMP_CFG || r == .CMP_FLT then s.srcLive p n || s.srcLive p (16 + n)
      else r == .MUZ_SRC && s.srcLive p n
    live && (s.applyOp o).1.rd r p n != s.rd r p n
  | _ => false

/-- What the commit does to an axis in scope beside its registers (R240, R241): the following-error timer, the gait, the forced
gait, clamped as a write of it (R153). -/
def State.commitAxis (s : State) (p : Nat) (os : List SwapOp) (a : Nat) : State :=
  let init := os.any fun o => match o with
    | .gait q b i => q == p && b == a && i
    | _ => false
  let n := s.ngait p a
  let s1 := s.updAx p a fun k => { k with fe := none }
  let s2 := if init || decide (n < s1.f F.LE_GAIT_SEL.cur p a) then
      (s1.gaitTo p a (s1.f F.LE_GAIT_CFG.init p a)).updAx p a fun k => { k with candRun := 0, nextGait := none }
    else s1
  (s2.put F.LE_GAIT_SEL.force (min (s2.f F.LE_GAIT_SEL.force p a) n) p a).setIf (decide (n < s2.f F.LE_GAIT_SEL.force p a))
    F.LE_AX_STAT.cfg_clamp p a

/-- The check windows of the comparators in a scope count their source's periods from the commit (R195, R241). -/
def State.commitChecks (old s : State) (sc : Nat × Option Nat) : State :=
  let p := sc.1
  (List.range 16).foldl (fun s n =>
    let mine := match sc.2 with
      | none => true
      | some a => inAxis old s p a { r := .CMP_CFG, p := p, i := n }
    if mine then s.updAcq p fun q => { q with chk := q.chk.set 0 n (s.srcHere p (s.f F.CMP_CHK.src p n)).toNat } else s) s

/-- The path word of the swap's scope. -/
def State.scopeWord (s : State) : Word := s.rd .IMG_SWAP_SCOPE

/-- The commit in the tick of an eligible boundary (R238 to R246): all of it, or with code LIVE nothing. -/
def State.swapCommit (s : State) : State :=
  let os := s.img.staged
  let sc := s.img.scope
  if os.any s.liveHit then (s.applyAll s.img.prog).swapFail 13 0
  else if !s.structOk (s.applyAll os) sc os then (s.applyAll s.img.prog).swapFail 10 0
  else
    let undo := (os.map s.undoOp).reverse
    let old := s.img.prog
    let s1 := s.applyAll os
    let s2 := (scopeAxes sc).foldl (fun s a => s.commitAxis sc.1 os a) (State.commitChecks s s1 sc)
    let s3 := (((s2.swapTo 4).setb F.IMG_SWAP_STAT.undo).setPair .IMG_SWAP_TAG_LO .IMG_SWAP_TAG_HI s.now).updImg fun k =>
      { k with staged := [], prog := [], undo := undo ++ old, undoScope := sc, abortLate := false }
    s3.slogAdd 2 s3.scopeWord

/-- A boundary at which an armed swap of this scope may commit (R238): a period boundary of the axis's set, or a base boundary
for a pack or an axis without one. -/
def State.swapBoundary (s : State) (p : Nat) (x : Option Nat) : State :=
  let sc := s.img.scope
  let mine := match sc.2, x with
    | none, none => true
    | none, some _ => false
    | some a, none => (s.setOfAxis p a).isNone
    | some a, some x => s.setOfAxis p a == some x
  if s.swapSt ≠ 3 ∨ sc.1 ≠ p ∨ !mine then s
  else
    let shut := match sc.2 with
      | some a => s.axSt p a == 6
      | none => false
    let inTime := decide (s.img.goAt + 32 ≤ s.clk.raw) &&
      (!s.bit F.IMG_SWAP_CTL.at_en || !Tag.after (s.pairAt .IMG_SWAP_AT_LO .IMG_SWAP_AT_HI) s.now)
    if !inTime then (if s.img.abortLate then s.swapDrop else s)
    else if shut then (if s.img.abortLate then s.swapDrop else s.setb F.IMG_SWAP_STAT.deferred)
    else s.swapCommit

/-- A write to IMG_SWAP_CMD (IMG registers). -/
def State.swapCmd (s : State) (c : Nat) : State × Wr :=
  if c = 0 then (s, .ok)
  else if c = 1 then s.swapStage
  else if c = 2 then s.swapGo
  else if c = 3 then s.swapAbort
  else if c = 4 then s.swapRevert
  else (s, .err)

/-! ### Bank commands -/

/-- A bank command is accepted (R232): its condition holds. -/
def State.bankOk (s : State) (c : Nat) : Bool :=
  let b := s.boot
  if c = 1 then (s.bankHdr (1 - b)).good
  else if c = 2 then (s.bankHdr b).state == 1
  else if c = 3 then true
  else if c = 4 then (s.bankHdr b).state == 2
  else false

/-- A write to IMG_BANK_CMD (R232). A command accepted while another is in progress follows it (log 132). -/
def State.bankCmd (s : State) (c : Nat) : State × Wr :=
  if c = 0 then (s, .ok)
  else if s.bankOk c then ((s.setb F.IMG_BANK.busy).updImg fun k => { k with bankJobs := k.bankJobs ++ [c] }, .ok)
  else (s.setb F.IMG_BANK.cmd_rej, .err)

/-- BANK_COMMAND_DONE: the effect of the oldest command in progress (R232), and its record, whose detail the spec leaves open
(R399). -/
def State.bankDone (s : State) : State :=
  match s.img.bankJobs with
  | [] => s
  | c :: rest =>
    let b := s.boot
    let o := 1 - b
    let s0 := (s.putb F.IMG_BANK.busy (!rest.isEmpty)).updImg fun k => { k with bankJobs := rest }
    let s1 :=
      if c = 1 then (s0.bankState o 1 3).bankSeq o (((s.bankHdr b).seq + 1) % 2 ^ 32)
      else if c = 2 then s0.bankState b 2 (s.bankHdr b).tries
      else if c = 3 then s0.bankState o 3 (s.bankHdr o).tries
      else
        let v := max s.img.svn (s.f F.IMG_SVN.img)
        (s0.put F.IMG_SVN.fuse v).updImg fun k => { k with svn := v }
    let (s2, w) := s1.fresh
    s2.slogAdd 5 w

end Sys2Proof.Machine
end

