-- ==== Sys2Proof/Machine/Power.lean ====
section
/-! DEFINITION. The links between the dies (R26 to R28), supplies and pace (R431 to R440), the power states (R441 to R452) and
the whistle pins (R449). -/

namespace Sys2Proof.Machine

/-- Change what power and start-up hold. -/
def State.updPwr (s : State) (f : PwrSt → PwrSt) : State := { s with pwr := f s.pwr }

/-- An alarm for T0 that waits for the next release of tenants (R432, R439). -/
def State.alarmLater (s : State) (kind idx code : Nat) (d6 d7 : Word) (t : Tag) : State :=
  let w0 : Word := BitVec.ofNat 32 (kind % 16 + (idx % 1024) * 16 + (code % 256) * 2 ^ 16)
  s.updPwr fun k => { k with alarms := k.alarms ++ [(0, { a := w0, c := d6, d := d7, first := t, last := t })] }

/-! ### Links between the dies -/

/-- The status fields of a die link: up, failed, losses. -/
def linkUpF (l : DieLink) : Fld := match l with
  | .field => F.PWR_D2D_STATUS.fld_up
  | .memory => F.PWR_D2D_STATUS.mem_up
def linkFailF (l : DieLink) : Fld := match l with
  | .field => F.PWR_D2D_STATUS.fld_fail
  | .memory => F.PWR_D2D_STATUS.mem_fail
def linkLossF (l : DieLink) : Fld := match l with
  | .field => F.PWR_D2D_STATUS.fld_loss
  | .memory => F.PWR_D2D_STATUS.mem_loss

/-- The number of a die link in its alarms. -/
def dieIx : DieLink → Nat
  | .field => 0
  | .memory => 1

/-- The sets of a pack that run. -/
def State.runSets (s : State) (p : Nat) : List Nat := (List.range 6).filter (s.setRunning p)

/-- The muzzle of a pack drives every running set to its effective safe pattern, and the shutdown sequences start (R27, R460,
R462). An unbound set loses its enable. -/
def State.safeSets (s : State) (p : Nat) : State :=
  (s.runSets p).foldl (fun s x => (s.startSeq p x).clrb F.PWM_SET_RUN.en p x) s

/-- The forwarded clock of every pack is absent: the generators stop, every set counter restarts when it returns, and the
field die keeps the last tag it received (R20, R43, R183). -/
def State.clockLost (s : State) : State :=
  (List.range 4).foldl (fun s p =>
    (List.range 6).foldl (fun s x => s.updSet p x fun k => { k with restart := s.bit F.PWM_SET_STAT.cnt_run p x })
      (((s.clrb F.PWM_STATUS.clk_ok p).setb F.PWM_STATUS.clk_lost p).updClk fun k =>
        if s.bit F.PWM_STATUS.clk_ok p then { k with lost := k.lost.set (0, 0) p (s.now, s.clk.raw) } else k)) s

/-- The forwarded clock returns: counting resumes untrusted (R20, R117). -/
def State.clockBack (s : State) : State :=
  (List.range 4).foldl (fun s p => (s.setb F.PWM_STATUS.clk_ok p).posResume p) s

/-- What the loss of the field link does (R27, R183, R206): source 78 toward every running set, their sequences, SAFE for every
armed axis, and the abort of SPI transfers (R430). -/
def State.fieldLost (s : State) : State :=
  let s1 := (List.range 4).foldl (fun s p =>
    let s1 := s.putNbit .MUZ_SEEN 14 true p 2
    let s2 := s1.safeSets p
    (List.range 6).foldl (fun s a => s.axSafe p a 7) s2) s
  s1.clockLost.spiAbort

/-- The tenants that own an axis in ARMED, OPEN or CLOSED. -/
def State.armedTens (s : State) : List Nat :=
  (List.range 24).filterMap fun k =>
    let st := s.axSt (k / 6) (k % 6)
    if st = 2 ∨ st = 3 ∨ st = 4 then some (s.axOwner (k / 6) (k % 6)).ten else none

/-- A die link is lost: counted, failed at the third loss within 1 s, its alarm raised (R26 to R28). -/
def State.dieLost (s : State) (l : DieLink) : State :=
  if !s.bit (linkUpF l) then s
  else
    let ts := match l with
      | .field => 0 :: s.armedTens
      | .memory => [0]
    let old := s.pwr.d2d.get [] (dieIx l)
    let tags := (s.now :: recentMm s.now old).take 3
    let failed := decide (3 ≤ tags.length)
    let s1 := ((s.clrb (linkUpF l)).inc (linkLossF l)).updPwr fun k => { k with d2d := k.d2d.set [] (dieIx l) tags, retry := k.retry.set 0 (dieIx l) 0 }
    let s2 := if failed then s1.setb (linkFailF l) else s1
    let s3 := match l with
      | .field => s2.fieldLost
      | .memory => s2
    let s4 := s3.alarm ts 7 (dieIx l) 1 (s3.rd .PWR_D2D_STATUS) 0 s3.now
    if failed then s4.alarm ts 7 (dieIx l) 2 (s4.rd .PWR_D2D_STATUS) 0 s4.now else s4

/-- D2D_TRANSFER_RETRY: a CRC error is counted, once for each retry (log 119), and a count that reaches its largest value sets
crc_sat (R28, R51); a transfer retried four times loses the link (R26). Whether this retry is of the transfer that was retried
last is open (log 50). -/
def State.dieRetry (s : State) (l : DieLink) : State :=
  if !s.bit (linkUpF l) then s
  else
    let sat := decide (0xFFFE ≤ s.f F.PWR_D2D_STATUS.crc_err)
    let (s1, same) := ((s.inc F.PWR_D2D_STATUS.crc_err).setIf sat F.PWR_D2D_STATUS.crc_sat).freshBit
    let n := if same then s.pwr.retry.get 0 (dieIx l) + 1 else 1
    let s2 := s1.updPwr fun k => { k with retry := k.retry.set 0 (dieIx l) n }
    if 4 ≤ n then s2.dieLost l else s2

/-- The end of the 50 µs within which a lost link must retrain (R26). -/
def State.retrainDue (s : State) (l : DieLink) : Tag := (s.pwr.d2d.get [] (dieIx l)).headD s.now + 800000

/-- D2D_RETRAIN_DONE within 50 µs of the loss: the link carries transfers again; held leash events go out (R20, R26, R27, R117,
R344). -/
def State.dieRetrained (s : State) (l : DieLink) : State :=
  if s.bit (linkUpF l) || s.bit (linkFailF l) || s.pwr.mode != 1 || s.pwr.past || Tag.before (s.retrainDue l) s.now then s
  else
    let s1 := s.setb (linkUpF l)
    match l with
    | .field => s1.clockBack.releaseHeld
    | .memory => s1

/-- D2D_RETRAIN_TIMEOUT: 50 µs after its loss the link has failed (R26). -/
def State.dieFailed (s : State) (l : DieLink) : State :=
  if s.bit (linkUpF l) || s.bit (linkFailF l) || s.pwr.mode != 1 || s.pwr.past then s
  else s.atTag (s.retrainDue l) fun s =>
    let s1 := s.setb (linkFailF l)
    s1.alarm [0] 7 (dieIx l) 2 (s1.rd .PWR_D2D_STATUS) 0 s1.now

/-! ### Pace -/

/-- The core whose twins an island is, if it is one (R18). -/
def islandCore (i : Nat) : Option Nat :=
  if i < 48 then (if i % 12 = 2 ∨ i % 12 = 3 then some (8 + i / 12) else none)
  else if i < 56 then some (i - 48)
  else if i < 64 then some (i - 56)
  else none

/-- An island in Rest, or the unpowered island of the trailing twin of a host core that runs alone (R29, R435). -/
def State.resting (s : State) (i : Nat) : Bool := (decide (56 ≤ i ∧ i < 64) && !s.paired (i - 48)) || match islandCore i with
  | some c => (s.f F.PWR_STAT.rest).testBit c
  | none => false

/-- PWR_STAT.gov follows the islands that are powered and not in Rest (R435). -/
def State.showGov (s : State) : State :=
  s.putb F.PWR_STAT.gov ((List.range 101).all fun i => s.resting i || !s.nbit .PWR_PACE_STAT (i % 32) 0 (i / 32)) 

/-- A regulator output: between 550 mV and 900 mV in steps of 5 mV; which one is open (R434, log 20). -/
def State.freshReg (s : State) : State × Nat :=
  let (s1, v) := s.freshBelow 71
  (s1, 550 + 5 * v)

/-- PACE_WINDOW: a stride monitor measures a step of `ps` (R434, R435, R438). -/
def State.paceWindow (s : State) (i ps : Nat) : State :=
  if s.pwr.mode != 1 || s.resting i then s
  else
    let out := s.nbit .PWR_PACE_STAT (i % 32) 0 (i / 32)
    let s0 := s.updPwr fun k => { k with step := k.step.set 0 i (ps % 4096) }
    if out then
      let n := if 776 ≤ ps ∧ ps ≤ 824 then s.pwr.good.get 0 i + 1 else 0
      if n < 8 then s0.updPwr fun k => { k with good := k.good.set 0 i n }
      else
        let s1 := (s0.updPwr fun k => { k with good := k.good.set 0 i 0 }).putNbit .PWR_PACE_STAT (i % 32) false 0 (i / 32)
        s1.showGov
    else
      let n := if 824 < ps then s.pwr.slow.get 0 i + 1 else 0
      if n < 2 then s0.updPwr fun k => { k with slow := k.slow.set 0 i n }
      else
        let s1 := (s0.updPwr fun k => { k with slow := k.slow.set 0 i 0 }).putNbit .PWR_PACE_STAT (i % 32) true 0 (i / 32)
        let s2 := ((s1.putNbit .PWR_PACE_SEEN (i % 32) true 0 (i / 32)).inc F.PWR_PACE_CNT.loss).showGov
        let (s3, mv) := s2.freshReg
        s3.alarm [0] 14 i 1 (BitVec.ofNat 32 ps) (BitVec.ofNat 32 mv) s3.now

/-! ### Rest -/

/-- An unmasked fast source is pending (R442). -/
def State.fastPending (s : State) (c : Nat) : Bool :=
  (List.range 32).any fun n => (s.rd .INT_FAST c).getLsbD n && (s.rd .INT_PEND c).getLsbD n && !(s.rd .INT_MASK c).getLsbD n

/-- REST_ENTRY (R442, R450). -/
def State.restIn (s : State) (c : Nat) : State :=
  let busy := !(s.ctxsIn c 1).isEmpty || !(s.ctxsIn c 2).isEmpty || s.fastPending c || (s.core c).job.isSome || !(s.core c).queue.isEmpty
  if (s.core c).held || busy || (s.f F.PWR_STAT.rest).testBit c || s.pwr.mode != 1 || s.pwr.past then s
  else ((s.put F.PWR_STAT.rest (s.f F.PWR_STAT.rest ||| 2 ^ c)).showGov).trace 3

/-- REST_EXIT: a context is READY or an unmasked fast source is pending; the core takes a checkpoint before its first instruction
(R442, R450). -/
def State.restOut (s : State) (c : Nat) : State :=
  if (s.f F.PWR_STAT.rest).testBit c && (!(s.ctxsIn c 1).isEmpty || s.fastPending c) then
    let s1 := (s.put F.PWR_STAT.rest (s.f F.PWR_STAT.rest - 2 ^ c)).showGov
    let s2 := if s1.paired (corePair c) && !s1.recovering (corePair c) then s1.takeCkpt c false else s1
    s2.trace 3
  else s

/-! ### Entry into Den and Kennel -/

/-- A power-state record of the system log (R451) with a tag, and a trace record of class 0. -/
def State.pwrRecord (s : State) (src dst : Nat) (aborted : Bool) (cause lost : Word) (t : Tag) : State :=
  let w0 := 4 + src * 2 ^ 8 + dst * 2 ^ 11 + aborted.toNat * 2 ^ 14
  (s.stageRec 9 { a := BitVec.ofNat 32 w0, b := cause, c := lost, first := t, last := 0, key := 64 * slogDomain 4 0 }).trace 0 t

/-- A DEN or KENNEL command can be accepted (R443). -/
def State.denOk (s : State) : Bool :=
  (List.range 4).all (fun p =>
    (List.range 6).all fun a => !(s.axSt p a == 2 || s.axSt p a == 3 || s.axSt p a == 4 || s.axSt p a == 6) && !s.setRunning p a) &&
  (s.swapSt == 0 || s.swapSt == 4) && !s.bit F.MEM_NV_STAT.busy && s.f F.TEN_RST_STAT.busy == 0 && !s.bit F.PWR_STAT.busy &&
  s.pwr.mode == 1

/-- What an accepted entry does one tick after the command (R443): slots disarmed (R58), sensor supplies off, DMA channels stopped after
their bursts, Ethernet and CAN stopped, LEAVE on every UP link (R422). -/
def State.entryStarts (s : State) : State :=
  let s1 := (List.range 8).foldl (fun s n => (s.clrb F.PWR_SENS_CTL.en 0 n).sensOff n) s.slotsOff
  let s2 := ((List.range 32).foldl (fun s k => s.dmaStop k) s1).updNet fun n => { n with stopped := true }
  (List.range 4).foldl (fun s ln => s.leaveLink ln) s2

/-- A write to PWR_CMD: 1 DEN, 2 KENNEL (R443, R447, R451); the clock runs on to the next tick, in which the entry starts (log 1). -/
def State.pwrCmd (s : State) (c : Nat) : State × Wr :=
  if c = 0 then (s, .ok)
  else if c = 3 || !s.denOk then (s.setb F.PWR_STAT.refused, .err)
  else
    let t := c + 1
    let s1 := (((s.setb F.PWR_STAT.busy).clrb F.PWR_AO_CAUSE.den_to).updPwr fun k =>
      { k with target := some t, past := false, wake := false }).pwrRecord 0 t false 0 0 s.now
    ((s1.run 1).entryStarts, .ok)

/-- The marker that the always-on domain keeps of a loss of trace (R452). -/
def State.traceLost (s : State) : State :=
  if s.pwr.marker.isSome then s
  else
    ({ s with log := { s.log with trace := [], trcPort := [] } } : State).updPwr fun k =>
      { k with marker := some (s.f F.TRC_STAT.fill, s.now) }

/-- POINT_OF_NO_RETURN (R20, R43, R44, R443, R452): every core stops, the timebase stops, the clock of the packs is absent, a sensor
supply that firmware turned on meanwhile is off (R121), SPI transfers are aborted (R430), and what trace is not retained is lost. It
comes at the end of the drain: links that still drain do so until their deadline (R422). -/
def State.pointOfNoReturn (s0 : State) : State :=
  match s0.pwr.target with
  | none => s0
  | some t =>
    if s0.pwr.past then s0
    else
      let s := (List.range 4).foldl (fun s ln => s.drainOver ln) s0
      let s1 := (List.range 12).foldl (fun s c => s.updCore c fun k => { k with held := true }) s
      let s2 := if t = 2 && s.bit F.PWR_DEN_CTL.trc_ret then s1 else s1.traceLost
      let s2 := (List.range 8).foldl (fun s n => s.sensOff n) s2
      let s3 := ((s2.clockLost.spiAbort.clrb F.PWR_D2D_STATUS.fld_up).clrb F.PWR_D2D_STATUS.mem_up).updPwr fun k => { k with past := true }
      s3.aoHold

/-- The field-die part of the entry into Kennel (R345, R447). -/
def State.kennelPart (s : State) : State :=
  let s1 := s.traceLost
  let s2 := (List.range 320).foldl (fun s g =>
    if s.ringBit .PLSH_FLAG g || s.ringBit .PLSH_OVR g || s.lf F.PLSH_ATTR.held g != 0 then
      ((s.putRing .PLSH_FLAG g false).putRing .PLSH_OVR g false).putLf F.PLSH_ATTR.held 0 g
    else s) s1
  ((({ s2 with lsh := {} } : State).supply false false).supply true false).updPwr fun k => { k with fldOk := false, coreOk := false }

/-- A whistle pin whose configured level is present (R449): detection 3 high, 4 low. -/
def State.levelWake (s : State) (n : Nat) : Bool :=
  let d := s.f F.PWR_WHISTLE.det 0 n
  s.bit F.PWR_WHISTLE.en 0 n && ((d == 3 && s.bit F.PWR_WHISTLE.live 0 n) || (d == 4 && !s.bit F.PWR_WHISTLE.live 0 n))

/-- LOW_POWER_ENTRY_COMPLETE (R443, R446 to R448): the device is in Den or Kennel, and the wake timer starts; a held wake starts the
exit at once. -/
def State.lowPowerIn (s : State) : State :=
  match s.pwr.target with
  | none => s
  | some t =>
    if !s.pwr.past then s
    else
      let ret := s.bit F.PWR_DEN_CTL.trc_ret
      let s1 := (s.clrb F.PWR_STAT.busy).updPwr fun k => { k with mode := t, target := none, entryCyc := s.clk.aoCycles }
      let s2 := if t = 3 then s1.kennelPart else (s1.supply true ret).updPwr fun k => { k with coreOk := k.coreOk && ret }
      let pins := (List.range 8).filter fun n =>
        s2.levelWake n && s2.bit (if t = 3 then F.PWR_WHISTLE.wake_ken else F.PWR_WHISTLE.wake_den) 0 n
      let s3 := pins.foldl (fun s n => s.wakePast n) s2
      if s3.pwr.wake then (if t = 2 then (s3.supply false true).supply true true else s3.supply false true) else s3

/-! ### Wakes -/

/-- A wake (R446, R448): before the point of no return it aborts the entry, later it is held or starts the exit; in Run it is
nothing. `ken`: it also leaves Kennel. -/
def State.wake (s : State) (bit : Nat) (ken : Bool) : State :=
  let st := if s.pwr.target.isSome then s.pwr.target.getD 1 else s.pwr.mode
  if st < 2 || (st == 3 && !ken) then s
  else if s.pwr.past then s.wakePast bit
  else
    let w := s.rd .PWR_AO_CAUSE &&& 0xFFFFE000
    let s1 := ((s.wr .PWR_AO_CAUSE w).putNbit .PWR_AO_CAUSE bit true).setPair .PWR_AO_TAG_LO .PWR_AO_TAG_HI s.now
    let s2 := ((s1.setb F.PWR_STAT.aborted).clrb F.PWR_STAT.busy).updPwr fun k => { k with target := none }
    (s2.updNet fun n => { n with stopped := false }).pwrRecord st 0 true (s2.rd .PWR_AO_CAUSE) 0 s2.now

/-- WAKE_TIMER: PWR_AO_WAKE cycles after the entry completed (R446). -/
def State.wakeTimer (s : State) : State :=
  if s.rd .PWR_AO_WAKE = 0 || s.pwr.mode < 2 then s
  else s.atRaw (s.aoRaw (s.pwr.entryCyc + (s.rd .PWR_AO_WAKE).toNat)) fun s => s.wake 8 true

/-- DEN_TIMEOUT: den_to seconds in Den without a wake (R447). -/
def State.denTimeout (s : State) : State :=
  if s.pwr.mode == 2 && !s.pwr.wake && s.f F.PWR_DEN_CTL.den_to != 0 then
    s.atRaw (s.aoRaw (s.pwr.entryCyc + 32768 * s.f F.PWR_DEN_CTL.den_to)) fun s =>
      (s.kennelPart.setb F.PWR_AO_CAUSE.den_to).updPwr fun k => { k with mode := 3 }
  else s

/-- The always-on sample that first sees a level that a pin takes at raw tick `r`: the cycle, counted from the last copy (R449). -/
def State.aoFirst (s : State) (r : Nat) : Int := -(-(64 * ((r : Int) - s.clk.aoAt)) / 1953125)

/-- The ticks from the last copy to a cycle, before or after it. -/
def aoOff (k : Int) : Int := -(-(1953125 * k) / 64)

/-- A pin's filtered level changes: the level, the event of the kind that det selects on every system channel that the pin produces,
and the wake (R446, R449). -/
def State.whistled (s : State) (n : Nat) (level : Bool) (tag : Tag) : State :=
  let d := s.f F.PWR_WHISTLE.det 0 n
  let hit := (level && (d == 0 || d == 2 || d == 3)) || (!level && (d == 1 || d == 2 || d == 4))
  let s1 := s.putb F.PWR_WHISTLE.live level 0 n
  if !hit || s.bit F.PWR_WHISTLE.live 0 n == level then s1
  else
    let s2 := s1.setb F.PWR_WHISTLE.seen 0 n
    let s3 := if s.pwr.mode = 3 || s.pwr.mode = 0 then s2
      else (List.range 320).foldl (fun s g =>
        if s.lf F.PLSH_PROD.pkind g = 7 ∧ s.lf F.PLSH_PROD.pidx g = n then s.raiseEv g 0 tag else s) s2
    let st := if s.pwr.target.isSome then s.pwr.target.getD 1 else s.pwr.mode
    if s3.bit (if st = 3 then F.PWR_WHISTLE.wake_ken else F.PWR_WHISTLE.wake_den) 0 n then s3.wake n true else s3

/-- WHISTLE_EDGE: a pin takes a level at tag `t` and holds it for flt samples, at the last of which it is accepted; with tag `t` in Run
and Rest, in Den and Kennel with that of its first sample (R449, log 138). -/
def State.whistle (s : State) (n : Nat) (level : Bool) (t : Tag) : State :=
  if !s.bit F.PWR_WHISTLE.en 0 n then s
  else
    let k := s.aoFirst (s.rawOf t)
    s.atRaw ((s.clk.aoAt : Int) + aoOff (k + s.f F.PWR_WHISTLE.flt 0 n - 1)).toNat fun s1 =>
      s1.whistled n level (if s1.pwr.past then s.clk.aoTag + BitVec.ofInt 64 (16 * aoOff k) else t)

/-- LEASH_EVENT_DELIVERY with the wake that a channel of ckind 4 asks for (R345, R446). -/
def State.leashDeliver (s : State) (g : Nat) : State :=
  let (s1, w) := s.deliverEv g
  if w then s1.wake 9 false else s1

/-! ### Supplies -/

/-- SUPPLY_OK: a group has come up (R431, R453): after the field group the core group is asked for. -/
def State.supplyUp (s : State) (core : Bool) : State :=
  if core then
    if s.pwr.coreEn && !s.pwr.coreOk then s.updPwr fun k => { k with coreOk := true, tries := k.tries.set 0 1 0 } else s
  else if s.pwr.fldEn && !s.pwr.fldOk then
    (s.supply true true).updPwr fun k => { k with fldOk := true, tries := k.tries.set 0 0 0 }
  else s

/-- SUPPLY_OK_TIMEOUT, 10 ms after the enable: the enable goes low; after the third try the device stays in the state it was leaving
(R432). -/
def State.supplyDown (s : State) (core : Bool) : State :=
  let g := core.toNat
  let waits := if core then s.pwr.coreEn && !s.pwr.coreOk else s.pwr.fldEn && !s.pwr.fldOk
  if !waits then s
  else s.atRaw (s.pwr.enAt.get 0 g + 10000000) fun s =>
    let n := s.pwr.tries.get 0 g + 1
    let s1 := (s.supply core false).updPwr fun k => { k with tries := k.tries.set 0 g (if 3 ≤ n then 0 else n) }
    if n < 3 then s1
    else
      let s2 := if s1.pwr.mode = 3 then (s1.supply false false).updPwr fun k => { k with fldOk := false } else s1
      ((s2.setb F.PWR_AO_CAUSE.sup_fault).updPwr fun k => { k with wake := false }).alarmLater 14 0 2 0 0 s2.now

/-- SUPPLY_RETRY, 100 ms after the enable went low: it is raised again (R432). -/
def State.supplyAgain (s : State) (core : Bool) : State :=
  if s.pwr.tries.get 0 core.toNat = 0 ∨ (if core then s.pwr.coreEn else s.pwr.fldEn) then s else s.atRaw (s.pwr.enAt.get 0 core.toNat + 100000000) fun s => s.supply core true

end Sys2Proof.Machine
end

