-- ==== Sys2Proof/Machine/Reset.lean ====
section
/-! DEFINITION. Start-up (R453 to R458), the reset ladder (R459 to R464), the recovery image (R465) and tenant resets (R369 to R371). -/

namespace Sys2Proof.Machine

/-! ### What a reset keeps -/

/-- The nonvolatile cells of memory. -/
def State.nvCells (s : State) : List Host.Cell := s.mem.filter fun e => decide (e.1 < 0x4000000)

/-- The memory state of the memory die, with every SRAM valid bit cleared (R311, R464). -/
def State.nvRam (s : State) : RamSt :=
  { nvFlips := s.ram.nvFlips, nvProg := s.ram.nvProg, nvRetired := s.ram.nvRetired }

/-- Copy a register with all its indices from another state. -/
def State.copyReg (s from_ : State) (r : RegName) : State :=
  (List.range r.row.nI).foldl (fun s i => s.wr r (from_.rd r 0 i) 0 i) s

/-- A comparator's filter through a reset: the raw output stays, nothing has been sampled. -/
def Flt.kept (f : Flt) (q : Nat) : Flt := { raw := f.raw, tag := f.tag, at_ := q }

/-- The comparators through a reset: the raw outputs of the field die's detectors go on (log 122). -/
def keptCmps (m : SMap Cmp) (q : Nat) : SMap Cmp := m.filterMap fun e =>
  let c : Cmp := { u := e.2.u.kept q, l := e.2.l.kept q }
  if c = {} then none else some (e.1, c)

/-- After a reset the pins of a pack's position interfaces present the levels of their classes to filters that start anew (R97, R118,
log 122). -/
def State.pinsAgain (s : State) (p : Nat) : State :=
  (List.range 6).foldl (fun s i => (List.range 3).foldl (fun s k =>
    s.updPos p i fun q => { q with
      lvl := q.lvl.set false k (pinLevel false (s.pinClass (fldPin p i k)))
      runAt := q.runAt.set 0 k s.clk.raw, runTag := q.runTag.set 0 k s.now }) s) s

/-- The blocks whose registers Den keeps: comparators, position counters, muzzle, leash routers, thermal flags (R444). -/
def denBlk (b : Blk) : Bool := b == .cmp || b == .pos || b == .muz || b == .plsh || b == .slsh || b == .thm

/-- What a reset leaves of a pair: its mismatches still count (R392). -/
def keptPair (e : Nat × Pair) : Option (Nat × Pair) := if e.2.mm = [] then none else some (e.1, { mm := e.2.mm })

/-- The state of a device reset (R464), before the start-up order runs; `den`: the field die's state is kept (R444, R446). -/
def State.cold (s : State) (den : Bool) : State :=
  let keep := if den then s.regs.filter fun e => allBlks.any fun b => denBlk b && e.1 % 32 == b.ctorIdx else []
  let s1 : State :=
    { pending := s.pending, free := s.free, resp := s.resp, clk := { s.clk with slotRefs := [], due := [], fired := [], lost := [] }
      mem := s.nvCells, ram := s.nvRam, regs := keep, img := { svn := s.img.svn }
      log := { trace := s.log.trace }
      lsh := if den then s.lsh else {}
      cmps := if den then s.cmps else keptCmps s.cmps s.clk.raw
      prots := if den then s.prots else []
      fld := s.fld
      therm := if den then s.therm else []
      poss := if den then s.poss else []
      pairs := s.pairs.filterMap keptPair
      incTag := if den then s.incTag else []
      psets := if den then s.psets.filterMap (fun e => if e.2.pat = 0 then none else some (e.1, { pat := e.2.pat })) else []
      pwr := { fldEn := true, coreEn := true, fldOk := s.pwr.fldOk, coreOk := s.pwr.coreOk, alarms := s.pwr.alarms, marker := s.pwr.marker
               enAt := s.pwr.enAt } }
  let s2 := [RegName.PWR_AO_CAUSE, .PWR_AO_WAKE, .PWR_AO_TAG_LO, .PWR_AO_TAG_HI, .PWR_WHISTLE, .PWR_RST_STAT, .MEM_NV_SPARE].foldl
    (fun t r => t.copyReg s r) s1
  let s3 := (s2.put F.PWR_RST_STAT.pack_busy 0).put F.PWR_RST_STAT.pack_done 0
  if den then
    (List.range 12).foldl (fun s c => (List.range 16).foldl (fun s ch => s.wr .MBX_TX_STAT 0 0 c ch) s) s3
  else s3

/-- A power-on reset (R440, R453): everything but the nonvolatile memory, the fuses and the levels outside. -/
def State.powerOn (s : State) : State :=
  let s1 : State := { pending := s.pending, free := s.free, resp := s.resp, mem := s.nvCells, ram := s.nvRam, img := { svn := s.img.svn },
                       fld := s.fld, cmps := keptCmps s.cmps 0 }
  s1.copyReg s .MEM_NV_SPARE

/-- A device reset is taken (R459, R460, R439): the core die is held, the muzzles drive the safe patterns and the sequences
run; start-up waits for their end. -/
def State.deviceReset (s : State) (cause : Nat) : State :=
  let s1 := (List.range 12).foldl (fun s c => s.updCore c fun k => { k with held := true }) s
  let s2 := (List.range 4).foldl (fun s p => s.safeSets p) s1
  let s3 := if s.clk.stopped then s2 else s2.clockLost.aoHold
  let s4 := s3.wr .PWR_AO_CAUSE (s3.rd .PWR_AO_CAUSE &&& 0xFFFFE000)
  let s5 := ((s4.clrb F.PWR_D2D_STATUS.fld_up).clrb F.PWR_D2D_STATUS.mem_up).updPwr fun k =>
    { k with mode := 0, target := none, past := false, wake := false }
  let s6 := ((((s5.supply false true).supply true s5.pwr.fldOk).put F.PWR_RST_STAT.cause cause).put F.PWR_RST_STAT.stage 0).clrb F.PWR_RST_STAT.halt
  if cause = 1 ∨ cause = 2 then s6.inc F.PWR_RST_STAT.dev_cnt else s6

/-- CORE_BROWN_OUT (R439): as a device reset, with core_bo and an alarm that waits for the release of tenants. -/
def State.brownOut (s : State) : State :=
  if !s.pwr.coreOk || s.pwr.past || 2 ≤ s.pwr.mode then s
  else
    let s1 := ((s.deviceReset 3).supply true true).updPwr fun k => { k with coreOk := false }
    (s1.setb F.PWR_AO_CAUSE.core_bo).alarmLater 14 0 3 0 0 s.now

/-- FIELD_SUPPLY_LOSS outside Kennel is a power-on reset (R440). -/
def State.fieldSupplyLoss (s : State) : State := if s.pwr.mode = 3 then s else s.powerOn

/-! ### The start-up order -/

/-- Start-up halts at a step (R457). -/
def State.halt (s : State) (step : Nat) : State := (s.put F.PWR_RST_STAT.stage step).setb F.PWR_RST_STAT.halt

/-- A failing page of the memory self-test is retired in the next free slot (R457); false where none is free. The source code of
its log entry is open (log 20). -/
def State.retireBad (s : State) (page : Nat) : State × Bool :=
  if page < 0x10000 ∨ 0x12000 ≤ page ∨ s.ram.closed.contains page then (s, true)
  else match (List.range 64).find? fun n => !s.bit F.MEM_RETIRE.en 0 n with
    | none => (s, false)
    | some n =>
      let (s1, src) := s.freshBelow 16
      let s2 := (s1.setb F.MEM_RETIRE.en 0 n).put F.MEM_RETIRE.page page 0 n
      let s3 := s2.put F.MEM_RETIRE_STAT.used (s2.f F.MEM_RETIRE_STAT.used + 1)
      (({ s3 with ram := { s3.ram with closed := s3.ram.closed ++ [page] } } : State).elogAdd (page * 4096) 2 src 63 true, true)

/-- Step 5: every failing page (R457). -/
def State.retireAll (s : State) : List Nat → State × Bool
  | [] => (s, true)
  | g :: gs => match s.retireBad g with
    | (s1, true) => State.retireAll s1 gs
    | (s1, false) => (s1, false)

/-- Step 6: the difference injection of a pair (R376, R377). -/
def State.inject (s : State) (n : Nat) (fails : Bool) : State :=
  let s1 := if n < 8 then s.putPf F.PJNL_PSTAT.paired 1 n else s
  let s2 := if 4 ≤ n ∧ n < 8 then s1.setb F.CHK_STAT.paired (n + 4) else s1
  if fails then (s2.putPf F.PJNL_PSTAT.inj_fail 1 n).alarmLater 3 n 4 0 0 s2.now else s2

/-- A pair that failed its injection test is failed (R395); an unpaired host core runs on (R377). -/
def State.injFailed (s : State) (n : Nat) : State :=
  if s.pf F.PJNL_PSTAT.inj_fail n != 0 && s.paired n then s.putPf F.PJNL_PSTAT.failed 1 n else s

/-- Steps 7 and 8 for a pack (R77, R193, R457): the readback of its DACs, whose alarms wait (R194), and the calibration of its SARs. -/
def State.packTests (s : State) (e : StartEnv) (p : Nat) : State :=
  let s1 := ((List.range 16).foldl (fun s n => (s.dacRead p n (e.dac.getD (16 * p + n) (0, 0))).cmpEval p n s.now) s).rdbkResult p
  let sar := e.sarFails.any fun k => k.val == p
  (s1.putb F.ADC_STATUS.cal_ok (!sar) p).putb F.ADC_STATUS.cal_fail sar p

/-- The alarms of DACs that failed in step 7 (R194). -/
def State.dacAlarms (s : State) (p : Nat) : State := (List.range 16).foldl (fun s n => s.dacAlarm p n) s

/-- An alarm that was held or waited enters its queue with its own tags (R432, R439, R445). -/
def State.enterHeld (s : State) (h : HeldAlarm) : State :=
  let (t, r) := h
  let w := r.a.toNat
  let old := (s.aq t).find? fun e => e.a == r.a
  let s1 := s.alarmTo t (w % 16) (w / 16 % 1024) (w / 2 ^ 16 % 256) r.c r.d r.last
  let es := s1.aq t
  match es.findIdx? fun e => e.a == r.a with
  | some i => s1.setAq t (updFirst (fun e => e.a == r.a) (fun e => match old with
      | some o => { e with count := o.count + r.count }
      | none => { e with count := r.count, first := r.first }) es) [i]
  | none => s1

/-- Step 11: the core pairs start, and what waited for the release of tenants is recorded (R377, R432, R439, R445, R451, R452). -/
def State.releaseTenants (s : State) (src : Nat) : State :=
  let s1 := (List.range 16).foldl (fun s n => s.injFailed n) s
  let s2 := (List.range 12).foldl (fun s c => s.resetCore c 0) s1
  let s3 := (s2.put F.PWR_RST_STAT.stage 11).updPwr fun k => { k with mode := 1, alarms := [], marker := none }
  let lost := (s.pwr.marker.map (·.1)).getD 0
  let s4 := match s.pwr.marker with
    | some (n, t) => { s3 with log := { s3.log with trcGap := s3.log.trcGap.set none 0 (some { gap := true, n := n, first := t, last := t }) } }
    | none => s3
  let s5 := if 2 ≤ src then
      s4.pwrRecord src 0 false (s4.rd .PWR_AO_CAUSE) (BitVec.ofNat 32 lost) (s4.pairAt .PWR_AO_TAG_LO .PWR_AO_TAG_HI)
    else s4
  let s6 := s.pwr.alarms.foldl State.enterHeld s5
  (List.range 4).foldl (fun s p => s.dacAlarms p) s6

/-- The pack timebases are released: the base counters start, and nothing of a pack has been sampled (R19, R154, R187). -/
def State.packsRelease (s : State) (den : Bool) : State :=
  (List.range 4).foldl (fun s p =>
    let s1 := s.updSet p 6 fun k => { k with rel := s.clk.raw }
    if den then s1 else s1.pinsAgain p) s

/-- Steps 1 to 11 (R456, R457), from the state of a device reset, a power-on reset, Den or Kennel. The step at which the links
between the dies are first trained is not stated: both are up from the head of the order (log 120). -/
def State.startSteps (s : State) (e : StartEnv) : State :=
  let src := s.pwr.mode
  let s1 := (((s.cold (src == 2)).aoRelease.packsRelease (src == 2)).setb F.PWR_D2D_STATUS.fld_up).setb F.PWR_D2D_STATUS.mem_up
  let s2 := if src = 2 then (s1.put F.PWR_RST_STAT.cause 4).clockBack else if src = 3 then s1.put F.PWR_RST_STAT.cause 5 else s1
  if 3 < e.paceFails then s2.halt 3
  else if !e.fusesOk then s2.showGov.halt 4
  else
    let s3 := (s2.showGov.wr .MEM_REPAIR (e.cols.setWidth 32)).put F.IMG_SVN.fuse s2.img.svn
    match s3.retireAll (e.badPages.map fun g => g.toNat) with
    | (s4, false) => s4.halt 5
    | (s4, true) =>
      let s5 := (List.range 16).foldl (fun s n => s.inject n (e.injFails.any fun k => k.val == n)) s4
      let s6 := (List.range 4).foldl (fun s p => s.packTests e p) s5
      match s6.boot_ with
      | (s7, false) => (s7.put F.PWR_RST_STAT.stage 9).updPwr fun k => { k with mode := 1 }
      | (s7, true) => s7.releaseTenants src

/-- RESET_RELEASE: both supplies are in regulation and RESET_N is high (R453, R456, R460): the start-up order runs, once every
shutdown sequence has ended; an exit from Den or Kennel waits for its wake (R446). -/
def State.resetRelease (s : State) (e : StartEnv) : State :=
  let seq := (List.range 4).any fun p =>
    ((List.range 6).any fun x => s.bit F.PWM_SET_STAT.seq p x) || (List.range 18).any fun l => (s.pleg p l).seqOwn
  if s.pwr.fldOk && s.pwr.coreOk && !s.bit F.PWR_RST_STAT.halt && !seq &&
      (s.pwr.mode == 0 || (decide (2 ≤ s.pwr.mode) && s.pwr.wake)) then s.startSteps e
  else s

/-! ### Pack reset -/

/-- A core pair restarts and is no longer in Rest. -/
def State.restart (s : State) (c reason : Nat) : State :=
  let s1 := s.resetCore c reason
  (s1.putNbit .PWR_STAT (16 + c) false).showGov

/-- PACK (R462, step 1): the sets' sequences start and every armed axis enters SHUTDOWN; a swap of the pack is discarded. A
pack already in reset absorbs it, and so does a running reset of its owner (R461). -/
def State.packReset (s : State) (p : Nat) : State :=
  if (s.f F.PWR_RST_STAT.pack_busy).testBit p || (s.f F.TEN_RST_STAT.busy).testBit (s.owner (.pack p)).ten then s
  else
    let s1 := if s.img.scope.1 = p ∧ (s.swapSt = 2 ∨ s.swapSt = 3) then s.swapAbort.1 else s
    let s2 := if s1.img.undoScope.1 = p && s1.bit F.IMG_SWAP_STAT.undo then
        (s1.clrb F.IMG_SWAP_STAT.undo).updImg fun k => { k with undo := [] }
      else s1
    let s3 := (List.range 6).foldl (fun s a =>
      let st := s.axSt p a
      if st = 2 ∨ st = 3 ∨ st = 4 then s.axShutdown p a else s) s2
    let s4 := s3.safeSets p
    s4.put F.PWR_RST_STAT.pack_busy (s4.f F.PWR_RST_STAT.pack_busy ||| 2 ^ p)

/-- What a write or an event has left to the next tick belongs to pack `p`. -/
def Soon.inPack (p : Nat) : Soon → Bool
  | .force q .. | .ptr q .. | .thr q .. | .leg q .. | .set q .. => q == p

/-- Every pack block returns to its reset value; the owners of its leash channels stay (R464). The pack timebase is not released
again, so the base counter goes on (R154, log 139); so do the levels outside, and a thermal trip (R202, R214). -/
def State.packClear (s : State) (p : Nat) : State :=
  let own := (List.range 64).map fun c => s.rd .PLSH_ATTR p c &&& 0x1E
  let inPack (n k : Nat) : Bool := k / n == p
  let s1 := [Blk.pwm, .adc, .sdm, .cmp, .pos, .rsv, .le, .muz, .plsh, .pjnl, .spi].foldl (fun s b => s.resetBlk b p) s
  let s2 := (List.range 64).foldl (fun s c => s.wr .PLSH_ATTR (own.getD c 2) p c) s1
  let s3 : State := { s2 with
    psets := s2.psets.filter fun e => !inPack 8 e.1 || e.1 % 8 == 6
    plegs := s2.plegs.filter fun e => !inPack 32 e.1
    axSet := s2.axSet.filter fun e => !inPack 8 e.1
    cmps := s2.cmps.filterMap fun e => if inPack 16 e.1 then (keptCmps [e] s.clk.raw).head? else some e
    prots := s2.prots.filter fun e => (e.1 - 72) / 36 != p
    soon := s2.soon.filter fun e => !e.inPack p
    incTag := s2.incTag.filter fun e => e.1 != p
    toOpen := s2.toOpen.filter fun e => !inPack 8 e.1
    acqs := s2.acqs.filter fun e => e.1 != p
    axs := s2.axs.filter fun e => !inPack 8 e.1
    engs := s2.engs.filter fun e => e.1 != p
    poss := s2.poss.filter fun e => !inPack 8 e.1
    emus := s2.emus.filter fun e => e.1 != p
    lsh := { flight := s2.lsh.flight.filter fun e => !inPack 64 e.1, held := s2.lsh.held.filter fun e => !inPack 64 e.1
             last := s2.lsh.last.filter fun e => !inPack 64 e.1 }
    net := { s2.net with spi := s2.net.spi.filter fun e => !inPack 4 e.1, spiEv := s2.net.spiEv.filter fun e => !inPack 4 e.1 }
    pairs := s2.pairs.filterMap fun e => if e.1 = p ∨ e.1 = p + 4 then keptPair e else some e }
  let s4 := if s.bit F.PWR_D2D_STATUS.fld_up then s3 else (s3.clrb F.PWM_STATUS.clk_ok p).setb F.PWM_STATUS.clk_lost p
  ((s4.pinsAgain p).clearPages ((List.range 512).map fun k => 0x11000 + 512 * p + k)).srcEval p 76 (s.thmTag 0)

/-- PACK_RESET_DONE (R462, steps 2 to 4): once the sequences have completed. -/
def State.packResetDone (s : State) (p : Nat) (e : StartEnv) : State :=
  let seq := ((List.range 6).any fun x => s.bit F.PWM_SET_STAT.seq p x) || (List.range 18).any fun l => (s.pleg p l).seqOwn
  if !(s.f F.PWR_RST_STAT.pack_busy).testBit p || seq then s
  else
    let s1 := s.packClear p
    let s2 := [p, p + 4].foldl (fun s n => (s.inject n (e.injFails.any fun k => k.val == n)).injFailed n) s1
    let s3 := s2.packTests e p
    let s4 := (s3.packRecords p).restart (8 + p) 4
    let s5 := s4.pwr.alarms.foldl State.enterHeld (s4.updPwr fun k => { k with alarms := [] })
    let s6 := s5.dacAlarms p
    ((s6.put F.PWR_RST_STAT.pack_busy (s6.f F.PWR_RST_STAT.pack_busy - 2 ^ p)).put F.PWR_RST_STAT.pack_done
      (s6.f F.PWR_RST_STAT.pack_done ||| 2 ^ p)).releaseHeld

/-- A write to PWR_RST_CMD: with go, 1 DEVICE, 2 PACK, 3 refused (R459, R462). -/
def State.rstCmd (s : State) (v : Word) : State × Wr :=
  let k := F.PWR_RST_CMD.kind.get v
  if !v.getLsbD 8 ∨ k = 0 then (s, .ok)
  else if k = 1 then (s.deviceReset 2, .ok)
  else if k = 2 then (s.packReset (F.PWR_RST_CMD.pack.get v), .ok)
  else (s, .err)

/-! ### Tenant reset -/

/-- The action on an axis at a reset of its owner (R370): SAFE, SHUTDOWN or run on. -/
def State.tenAxis (s : State) (act p a : Nat) : State :=
  let st := s.axSt p a
  if st = 2 ∨ st = 3 ∨ st = 4 then
    if act = 0 then ((s.dropRun p a).put F.LE_AX_STAT.state 5 p a).axRefresh p a
    else if act = 1 then s.axShutdown p a
    else s
  else s

/-- The cores of a tenant (R361). -/
def State.tenCores (s : State) (t : Nat) : List Nat := (List.range 12).filter fun c => s.coreTen c == t

/-- The steps of a tenant reset in the tick of its acceptance (R370, R371, R464). A slot whose target has come stays armed: it fires
in that tick (R56). A reset of a pack of the tenant is abandoned (R461). -/
def State.tenReset (s : State) (t : Nat) : State :=
  let act := s.f F.TEN_CFG.axes_act 0 t
  let s0 := (List.range 4).foldl (fun s p => if (s.owner (.pack p)).ten = t then s.putNbit .PWR_RST_STAT (4 + p) false else s) s
  let s1 := (List.range 24).foldl (fun s k =>
    if (s.axOwner (k / 6) (k % 6)).ten = t then s.tenAxis act (k / 6) (k % 6) else s) s0
  let s2 := (List.range 32).foldl (fun s k => if (s.owner (.dma k)).ten = t then s.dmaStop k else s) s1
  let s3 := (List.range 64).foldl (fun s n => if (s.owner (.slot n)).ten = t && s.slotArmed n && !s.slotReached n then s.slotDrop n else s) s2
  let s4 := (List.range 768).foldl (fun s k =>
    if (s.owner (.window (k / 64) (k % 64))).ten = t then s.clrb F.MEM_WIN_CTL.en 0 (k / 64) (k % 64) else s) s3
  let s5 := (s4.tenCores t).foldl (fun s c => (s.restart c 1).updCore c fun k => { k with held := true }) s4
  let s6 := (List.range 64).foldl (fun s q => if q / 8 = t then s.flushRing false q else s) s5
  let s7 := (List.range 16).foldl (fun s q => if (s.owner (.netq true q)).ten = t then s.flushRing true q else s) s6
  let s8 := (List.range 16).foldl (fun s m =>
    if s.f F.FAB_MTX_CFG.owner 0 m = t then (List.range 8).foldl (fun s w => s.wr .FAB_MTX 0 0 m w) (s.wr .FAB_MTX_STAT 0 0 m) else s) s7
  let s9 := s8.put F.TEN_RST_STAT.busy (s8.f F.TEN_RST_STAT.busy ||| 2 ^ t)
  let (s10, d) := (s9.alarm [0, t] 13 t 1 0 0 s9.now).fresh
  s10.slogAdd 6 d

/-- A write to TEN_RST (R369): a refused one is a violation of kind 6. -/
def State.tenRst (s : State) (q : Req) (v : Word) : State × Wr :=
  let t := F.TEN_RST.ten.get v
  let may := t != 0 && s.tenEn t && (q.ten == 0 || (q.ten == t && s.bit F.TEN_CFG.self_rst 0 t))
  if !v.getLsbD 8 then (s, .ok)
  else if !may then (s, .viol 6)
  else if (s.f F.TEN_RST_STAT.busy).testBit t then (s, .ok)
  else (s.tenReset t, .ok)

/-- TENANT_RESET_DONE: the core pairs are released and busy clears (R344, R370). -/
def State.tenResetDone (s : State) (t : Nat) : State :=
  if !(s.f F.TEN_RST_STAT.busy).testBit t then s
  else
    let s1 := (s.tenCores t).foldl (fun s c =>
      s.updCore c fun k => { k with held := s.pf F.PJNL_PSTAT.failed (corePair c) != 0 }) s
    ((s1.put F.TEN_RST_STAT.busy (s1.f F.TEN_RST_STAT.busy - 2 ^ t)).put F.TEN_RST_STAT.done
      (s1.f F.TEN_RST_STAT.done ||| 2 ^ t)).releaseHeld

/-! ### The recovery image -/

/-- Program bytes into a bank, its lines marked programmed. -/
def State.bankBytes (s : State) (k : Nat) (bs : List Byte) : State :=
  let s1 := s.setCells k bs
  { s1 with ram := { s1.ram with nvProg := (List.range ((bs.length + 63) / 64 + 1)).foldl (fun m i => m.set false (k / 64 + i) true) s1.ram.nvProg } }

/-- RECOVERY_IMAGE (R465): in phase 4 the image at `a` in shared SRAM is authenticated, programmed into bank A behind its header
(log 47) and tried by a device reset. -/
def State.recoveryImage (s : State) (a len : Nat) : State :=
  if s.f F.IMG_STATUS.phase ≠ 4 then s
  else
    let f : ImgSrc := fun o => if 0x11800000 ≤ a + o ∧ a + o < 0x12000000 then s.byte (a + o) else 0
    let hd := f.hdr (min len (0x2000000 - 64))
    match f.auth hd 0 s.img.svn true with
    | some c => s.imgErr c 0 false
    | none =>
      let n := hd.sig + sigLen
      let seq := (max (s.bankHdr 0).seq (s.bankHdr 1).seq + 1) % 2 ^ 32
      let s1 := s.bankBytes 0 (toBytes 4 0x4B4E4247 ++ toBytes 4 seq ++ toBytes 4 (1 + 4 * 3) ++ toBytes 4 64 ++ toBytes 4 n ++
        List.replicate 44 0 ++ f.part 0 n)
      s1.deviceReset 2

end Sys2Proof.Machine
end

