-- ==== Sys2Proof/Machine/Bus.lean ====
section
/-! DEFINITION. The local map as a master reaches it (R297): the checks of ownership at each register (R30, R362 to R364, R372),
what register reads return (R8, R46, R83, R105, R319, R354), the latched writes of R47, and the fabric windows (R330 to
R332). -/

namespace Sys2Proof.Machine

/-! ### Register pairs -/

/-- The _HI register of a _LO register (R46). -/
def RegName.hi : RegName → Option RegName
  | .PWM_BASE_TAG_LO => some .PWM_BASE_TAG_HI
  | .PWM_SET_TAG_LO => some .PWM_SET_TAG_HI
  | .ADC_RES_TAG_LO => some .ADC_RES_TAG_HI
  | .SDM_RES_TAG_LO => some .SDM_RES_TAG_HI
  | .CMP_EVTAG_LO => some .CMP_EVTAG_HI
  | .POS_ETAG_LO => some .POS_ETAG_HI
  | .POS_ITAG_LO => some .POS_ITAG_HI
  | .POS_STAG_LO => some .POS_STAG_HI
  | .RSV_START_LO => some .RSV_START_HI
  | .RSV_TAG_LO => some .RSV_TAG_HI
  | .LE_AX_LTAG_LO => some .LE_AX_LTAG_HI
  | .MUZ_SET_TAG_LO => some .MUZ_SET_TAG_HI
  | .PLSH_TAG_LO => some .PLSH_TAG_HI
  | .PJNL_PMTAG_LO => some .PJNL_PMTAG_HI
  | .PJNL_PCTAG_LO => some .PJNL_PCTAG_HI
  | .SPI_TAG_LO => some .SPI_TAG_HI
  | .IMG_SWAP_AT_LO => some .IMG_SWAP_AT_HI
  | .IMG_SWAP_TAG_LO => some .IMG_SWAP_TAG_HI
  | .TIME_NOW_LO => some .TIME_NOW_HI
  | .TIME_STEP_LO => some .TIME_STEP_HI
  | .TIME_STEP_AT_LO => some .TIME_STEP_AT_HI
  | .TIME_ACT_TGT_LO => some .TIME_ACT_TGT_HI
  | .TIME_ACT_FIRE_LO => some .TIME_ACT_FIRE_HI
  | .TEN_MY_LF_LO => some .TEN_MY_LF_HI
  | .TEN_MY_LL_LO => some .TEN_MY_LL_HI
  | .TEN_VLOG_LF_LO => some .TEN_VLOG_LF_HI
  | .TEN_VLOG_LL_LO => some .TEN_VLOG_LL_HI
  | .SJNL_PMTAG_LO => some .SJNL_PMTAG_HI
  | .SJNL_PCTAG_LO => some .SJNL_PCTAG_HI
  | .JNL_SLOG_LF_LO => some .JNL_SLOG_LF_HI
  | .JNL_SLOG_LL_LO => some .JNL_SLOG_LL_HI
  | .SLSH_TAG_LO => some .SLSH_TAG_HI
  | .MEM_ELOG_LF_LO => some .MEM_ELOG_LF_HI
  | .MEM_ELOG_LL_LO => some .MEM_ELOG_LL_HI
  | .DMA_SRC_LO => some .DMA_SRC_HI
  | .DMA_DST_LO => some .DMA_DST_HI
  | .DMA_TAG_LO => some .DMA_TAG_HI
  | .PWR_AO_TAG_LO => some .PWR_AO_TAG_HI
  | .MBX_RX_SNAP_TAG_LO => some .MBX_RX_SNAP_TAG_HI
  | _ => none

/-- The _LO registers (R46). -/
def loRegs : List RegName :=
  [.PWM_BASE_TAG_LO, .PWM_SET_TAG_LO, .ADC_RES_TAG_LO, .SDM_RES_TAG_LO, .CMP_EVTAG_LO, .POS_ETAG_LO, .POS_ITAG_LO,
   .POS_STAG_LO, .RSV_START_LO, .RSV_TAG_LO, .LE_AX_LTAG_LO, .MUZ_SET_TAG_LO, .PLSH_TAG_LO,
   .PJNL_PMTAG_LO, .PJNL_PCTAG_LO, .SPI_TAG_LO, .IMG_SWAP_AT_LO, .IMG_SWAP_TAG_LO, .TIME_NOW_LO, .TIME_STEP_LO,
   .TIME_STEP_AT_LO, .TIME_ACT_TGT_LO, .TIME_ACT_FIRE_LO, .TEN_MY_LF_LO, .TEN_MY_LL_LO, .TEN_VLOG_LF_LO,
   .TEN_VLOG_LL_LO, .SJNL_PMTAG_LO, .SJNL_PCTAG_LO, .JNL_SLOG_LF_LO, .JNL_SLOG_LL_LO, .SLSH_TAG_LO, .MEM_ELOG_LF_LO,
   .MEM_ELOG_LL_LO, .DMA_SRC_LO, .DMA_DST_LO, .DMA_TAG_LO, .PWR_AO_TAG_LO, .MBX_RX_SNAP_TAG_LO]

/-- The _LO register of a _HI register. -/
def RegName.lo (r : RegName) : Option RegName := loRegs.find? fun l => l.hi == some r

/-- A _HI register that firmware writes (R47). -/
def RegName.hiWritable (r : RegName) : Bool :=
  r == .TIME_ACT_TGT_HI || r == .DMA_SRC_HI || r == .DMA_DST_HI || r == .IMG_SWAP_AT_HI

/-! ### Who may reach a register -/

/-- What a check makes of a request at a register: whether a read sees it (else zero, R363), what a write meets, the owner that
a refusal names, and whether the register is assigned as a memory region, so that every refused access is one of R302. -/
structure Guard where
  rd : Bool
  wr : Wr
  own : Option Owner := none
  region : Bool := false
deriving DecidableEq, Repr

/-- A register that belongs to an owner (R362 to R364). -/
def Guard.owned (q : Req) (o : Owner) : Guard :=
  { rd := q.admits o, wr := if q.admits o then .ok else .viol (q.refKind o), own := some o }

/-- A request of T0. -/
def Req.isT0 (q : Req) : Bool := q.mapped && q.ten == 0

/-- A register reserved to T0 (R372), which all tenants read when `all` holds. -/
def Guard.t0 (q : Req) (all : Bool) : Guard :=
  { rd := all || q.isT0, wr := if q.isT0 then .ok else .viol 6, own := some { ten := 0, sec := false } }

/-- A register whose own rules decide. -/
def Guard.any : Guard := { rd := true, wr := .ok }

/-- A register of one tenant that T0 may reach as well. -/
def Guard.ten (q : Req) (t : Nat) : Guard :=
  let good := q.mapped && (q.ten == t || q.ten == 0)
  { rd := good, wr := if good then .ok else .viol 2, own := some { ten := t, sec := false } }

/-- A register assigned as a memory region (the action slots, R53). -/
def Guard.slot (q : Req) (o : Owner) : Guard :=
  { rd := q.admits o, wr := if q.admits o then .ok else .viol 1, own := some o, region := true }

/-- The registers of a pack's blocks: PWM registers, ADC registers, SDM and the further chapters' rules of ownership. -/
def State.packGuard (s : State) (q : Req) (x : RegAt) : Guard :=
  let p := x.p
  let i := x.i
  let n := x.r.row.nI
  let own (o : Owner) : Guard := .owned q o
  let pack : Guard := own (s.owner (.pack p))
  match x.r.row.blk with
  | .pwm =>
    if x.r == .PWM_LEG_ON || x.r == .PWM_LEG_OFF then .any
    else if n = 6 then own (s.pwmSetOwner p i)
    else if n = 18 then own (s.legOwner p i)
    else pack
  | .adc =>
    if n = 16 then own (s.ainOwner p i)
    else if n = 32 then own (s.ainOwner p (s.f F.ADC_ENT_CTL.input p i))
    else if n = 64 then own (s.ainOwner p (i / 4))
    else pack
  | .sdm => own (s.boundOwner p (s.f F.SDM_CH.axis p (if n = 32 then i / 4 else i)))
  | .cmp => if n = 16 then own (s.ainOwner p i) else pack
  | .pos => if n = 6 then own (s.posOwner p i) else pack
  | .rsv => own (s.boundOwner p (s.f F.RSV_CTL.axis p i))
  | .le => if n = 6 then own (s.axOwner p i) else pack
  | .muz =>
    if x.r == .MUZ_SWTRIP then .any
    else if n = 6 then own (s.setOwner p i)
    else if n = 18 then own (s.protOwner p i)
    else pack
  | _ => pack

/-- The registers of a leash ring: the flag words carry bits for several owners (R341), the rest belongs to the channel's owner. -/
def State.ringGuard (s : State) (q : Req) (x : RegAt) : Guard :=
  let ring := match x.r.row.blk with
    | .plsh => x.p
    | _ => 4
  if x.r.row.nI = 64 then .owned q (s.lshOwner (64 * ring + x.i)) else .any

/-- The tenant that reads a send channel's status: its sender's (R353). -/
def State.senderGuard (s : State) (q : Req) (c ch : Nat) : Guard :=
  .owned q { ten := s.f F.MBX_RX_CFG.owner c ch, sec := s.bit F.MBX_RX_CFG.sec c ch }

/-- The registers of the system blocks, by the rules of their chapters (R298, R372). -/
def State.sysGuard (s : State) (q : Req) (x : RegAt) : Guard :=
  let i := x.i
  let t0 : Guard := .t0 q false
  let t0w : Guard := .t0 q true
  match x.r.row.blk with
  | .img => if x.r == .IMG_ID || x.r == .IMG_SVN then t0w else t0
  | .time => if x.r.row.nI = 64 then .slot q (s.owner (.slot i)) else t0w
  | .ten =>
    if x.r == .TEN_CFG || x.r == .TEN_NOTE || x.r == .TEN_AQ then .ten q i
    else if x.r.row.nI = 8 && x.r != .TEN_MY_E then t0
    else .any
  | .sjnl => if x.r == .JNL_AQ_STAT || x.r == .JNL_AQ_POP then .ten q i else t0
  | .mem =>
    if x.r == .MEM_WIN_BASE || x.r == .MEM_WIN_CTL then
      let g := Guard.owned q (s.owner (.window i x.j))
      { g with wr := if g.wr == .viol 2 then .viol 11 else g.wr }
    else if x.r == .MEM_INIT_BASE || x.r == .MEM_INIT_CNT || x.r == .MEM_INIT_CMD || x.r == .MEM_INIT_STAT then { t0 with wr := .ok }
    else t0
  | .dma => .owned q (s.owner (.dma i))
  | .fab =>
    if x.r == .FAB_NODE then t0w
    else if x.r.row.nI = 16 then .owned q { ten := s.f F.FAB_MTX_CFG.owner 0 i, sec := s.bit F.FAB_MTX_CFG.sec 0 i }
    else t0
  | .eth => .owned q { ten := i / 8, sec := false }
  | .can => .owned q (s.owner (.netq true i))
  | .pwr =>
    if x.r == .PWR_STAT || x.r == .PWR_PACE_STAT then t0w
    else if x.r == .PWR_SENS_CTL || x.r == .PWR_SENS_STAT then .owned q (s.owner (.sens i))
    else t0
  | .thm => t0w
  | .slsh =>
    if x.r == .MBX_TX_STAT then s.senderGuard q i x.j
    else if x.r == .LSH_DB || x.r == .MBX_TX then .any
    else s.ringGuard q x
  | _ => t0

/-- The check point's view of a request at a register. -/
def State.guard (s : State) (q : Req) (x : RegAt) : Guard :=
  match x.r.row.blk with
  | .plsh => s.ringGuard q x
  | .int | .mbx | .chk | .sched => .any
  | b => if b.space = .pack then s.packGuard q x else s.sysGuard q x

/-- The owner that the entry of a write with bits for several owners names: that of the first bit which is not the writer's
(R182, R209, R341). -/
def State.bitOwner (s : State) (q : Req) (x : RegAt) (v : Word) : Option Owner :=
  let pick (os : List Owner) : Option Owner := os.find? fun o => !q.admits o
  let legs := ((List.range 18).filter fun l => v.getLsbD l).map (s.legOwner x.p)
  match x.r with
  | .PWM_LEG_ON | .PWM_LEG_OFF => pick legs
  | .MUZ_SWTRIP => pick (((List.range 6).filter fun st => v.getLsbD st).map (s.setOwner x.p))
  | .PLSH_FLAG_SET | .PLSH_FLAG_CLR | .PLSH_OVR => pick ((ringBits x.p x.i v).map s.lshOwner)
  | .SLSH_FLAG_SET | .SLSH_FLAG_CLR | .SLSH_OVR => pick ((ringBits 4 x.i v).map s.lshOwner)
  | .MBX_TX => some { ten := s.f F.MBX_RX_CFG.owner x.i (x.j / 16), sec := s.bit F.MBX_RX_CFG.sec x.i (x.j / 16) }
  | _ => none

/-! ### Register reads -/

/-- The words of a register at present, with its rc fields cleared by the read (R8). -/
def State.plainRead (s : State) (x : RegAt) : State × Word :=
  let w := s.rd x.r x.p x.i x.j
  (s.wr x.r (x.r.row.afterRead w) x.p x.i x.j, w)

/-- A read of the first word of a log's oldest entry takes the snapshot; the other words return it (R319, R367, R399). -/
def State.logRead (s : State) (m : Master) (lg i : Nat) : State × Word :=
  let s1 := if i = 0 then
      let ws := s.logWords lg
      s.updLatch m fun l => if lg < 8 then { l with vlog := ws } else if lg = 8 then { l with elog := ws } else { l with slog := ws }
    else s
  let l := s1.latch m
  (s1, (if lg < 8 then l.vlog else if lg = 8 then l.elog else l.slog).getD i 0)

/-- A result word of the acquisition: the snapshot of the rest of its group is taken with it (R83). -/
def State.resRead (s : State) (m : Master) (x : RegAt) (v lo hi : RegName) : State × Word :=
  let (s1, w) := s.plainRead x
  (s1.updLatch m fun l => { l with res := [s.rd v x.p x.i x.j, s.rd lo x.p x.i x.j, s.rd hi x.p x.i x.j] }, w)

/-- The word that a _LO register and its _HI register show to a reader; snapshots take the place of the registers (R46, R83,
R105, R354). -/
def State.tagWords (s : State) (m : Master) (x : RegAt) (hi : RegName) : Word × Word :=
  let l := s.latch m
  match x.r with
  | .TIME_NOW_LO => (s.now.lo, s.now.hi)
  | .ADC_RES_TAG_LO => if s.negSide x.p x.i then (0, 0) else (l.res.getD 1 0, l.res.getD 2 0)
  | .SDM_RES_TAG_LO | .RSV_TAG_LO => (l.res.getD 1 0, l.res.getD 2 0)
  | .POS_ETAG_LO => let e := l.pos.get [] (8 * x.p + x.i); (e.getD 3 0, e.getD 4 0)
  | .MBX_RX_SNAP_TAG_LO => (l.mbxTag.lo, l.mbxTag.hi)
  | _ => (s.rd x.r x.p x.i x.j, s.rd hi x.p x.i x.j)

/-- The register of the requester's own violation log behind a TEN_MY register. -/
def myLog (r : RegName) : RegName :=
  match r with
  | .TEN_MY_STAT => .TEN_VLOG_STAT
  | .TEN_MY_POP => .TEN_VLOG_POP
  | .TEN_MY_LF_LO => .TEN_VLOG_LF_LO
  | .TEN_MY_LF_HI => .TEN_VLOG_LF_HI
  | .TEN_MY_LL_LO => .TEN_VLOG_LL_LO
  | .TEN_MY_LL_HI => .TEN_VLOG_LL_HI
  | .TEN_MY_E => .TEN_VLOG_E
  | r => r

/-- The view at TEN + 0x100 decodes by the requester's tenant (TEN registers). -/
def RegAt.mine (x : RegAt) (t : Nat) : RegAt :=
  if myLog x.r = x.r then x
  else if x.r = .TEN_MY_E then { x with r := .TEN_VLOG_E, i := t, j := x.i }
  else { x with r := myLog x.r, i := t }

/-- A fixed source's leg and switch (R201). -/
def srcWord (n : Nat) (w : Word) : Word :=
  if n < 40 ∨ 76 ≤ n then w else F.MUZ_SRC.sw.put (F.MUZ_SRC.leg.put w ((n - 40) / 2)) (1 + n % 2)

/-- The status word of a pair with the mismatches tagged within the last 1 s (R393). -/
def State.recentNow (s : State) (n : Nat) (w : Word) : Word :=
  F.PJNL_PSTAT.recent.put w (recentMm s.now (s.pair n).mm).length

/-- What a read that its check admits returns, and what it changes. -/
def State.regRead (s : State) (q : Req) (x0 : RegAt) : State × Word :=
  let m := q.m
  let x := x0.mine q.ten
  let p := x.p
  let i := x.i
  match x.r.hi with
  | some h =>
    let (lo, hi) := s.tagWords m x h
    (s.updLatch m fun l => { l with hi := hi }, lo)
  | none =>
    if x.r.lo.isSome then (s, (s.latch m).hi)
    else match x.r with
    | .ADC_RES => if s.negSide p i then (s, 0) else s.resRead m x .ADC_RES_V .ADC_RES_TAG_LO .ADC_RES_TAG_HI
    | .SDM_RES => s.resRead m x .SDM_RES_V .SDM_RES_TAG_LO .SDM_RES_TAG_HI
    | .RSV_SMP => s.resRead m x .RSV_INFO .RSV_TAG_LO .RSV_TAG_HI
    | .ADC_RES_V => (s, if s.negSide p i then 0 else (s.latch m).res.getD 0 0)
    | .SDM_RES_V | .RSV_INFO => (s, (s.latch m).res.getD 0 0)
    | .POS_CNT =>
      let snap := [s.rd .POS_WRAP p i, s.rd .POS_SPD p i, s.rd .POS_SECT p i, s.rd .POS_ETAG_LO p i, s.rd .POS_ETAG_HI p i]
      (s.updLatch m fun l => { l with pos := l.pos.set [] (8 * p + i) snap }, s.rd .POS_CNT p i)
    | .POS_WRAP => (s, ((s.latch m).pos.get [] (8 * p + i)).getD 0 0)
    | .POS_SPD => (s, ((s.latch m).pos.get [] (8 * p + i)).getD 1 0)
    | .POS_SECT => (s, ((s.latch m).pos.get [] (8 * p + i)).getD 2 0)
    | .PWM_LEG_ON | .PWM_LEG_OFF =>
      (s, BitVec.ofNat 32 ((List.range 18).foldl (fun n l =>
        if q.admits (s.legOwner p l) && s.bit F.PWM_LEGSTAT.en p l then n + 2 ^ l else n) 0))
    | .PWM_SET_RUN => (s, if s.bit F.PWM_SET_RUN.en_pend p i then F.PWM_SET_RUN.en.put (s.rd .PWM_SET_RUN p i) 0 else s.rd .PWM_SET_RUN p i)
    | .MUZ_SRC => (s, srcWord i (s.rd .MUZ_SRC p i))
    | .PLSH_FLAG | .PLSH_FLAG_SET | .PLSH_FLAG_CLR => (s, s.ringRead q .PLSH_FLAG p i)
    | .SLSH_FLAG | .SLSH_FLAG_SET | .SLSH_FLAG_CLR => (s, s.ringRead q .PLSH_FLAG 4 i)
    | .PLSH_OVR => (s, s.ringRead q .PLSH_OVR p i)
    | .SLSH_OVR => (s, s.ringRead q .PLSH_OVR 4 i)
    | .INT_PEND_SET | .INT_PEND_CLR => (s, s.rd .INT_PEND p i)
    | .INT_MASK_SET | .INT_MASK_CLR => (s, s.rd .INT_MASK p i)
    | .INT_STAT =>
      let any := (List.range 32).any fun k => s.rd .INT_PEND p k &&& ~~~(s.rd .INT_MASK p k) != 0
      (s, F.INT_STAT.pend_any.put (s.rd .INT_STAT p) any.toNat)
    | .MBX_RX => if x.j = 0 then s.mbxTake m p i else (s, (s.latch m).mbx.getD x.j 0)
    | .MEM_ELOG_E => s.logRead m 8 i
    | .JNL_SLOG_E => s.logRead m 9 i
    | .TEN_VLOG_E => s.logRead m i x.j
    | .PJNL_PSTAT => let (s1, w) := s.plainRead x; (s1, s.recentNow (p + 4 * i) w)
    | .SJNL_PSTAT => let (s1, w) := s.plainRead x; (s1, s.recentNow (8 + i) w)
    | .TEN_SELF => (s, BitVec.ofNat 32 (q.ten % 8 + 8 * q.sec.toNat))
    | .TEN_RST_STAT =>
      let w := s.rd .TEN_RST_STAT
      (s, if q.isT0 then w else w &&& (0xFF ||| BitVec.ofNat 32 (2 ^ (8 + q.ten % 8))))
    | .PWR_PACE_MEAS =>
      let (s1, mv) := s.freshReg
      (s1, BitVec.ofNat 32 (s.pwr.step.get 0 (s.f F.PWR_PACE_SEL.isl) % 4096 + mv * 65536))
    | .FAB_MTX => (s, 0)
    | _ => s.plainRead x

/-! ### Register writes -/

/-- A write of the high word goes to the writer's latch, where the register may be written now (R47, R56). -/
def State.hiWrite (s : State) (q : Req) (x : RegAt) (v : Word) : State × Wr :=
  let (s1, locked) := if x.r = .TIME_ACT_TGT_HI then s.slotLocked x.i else (s, false)
  if locked then (s1, .err) else (s1.updLatch q.m fun l => { l with wr := some v }, .ok)

/-- A write of the low word commits the latched high word with it (R47). -/
def State.loWrite (s : State) (q : Req) (x : RegAt) (h : RegName) (v : Word) (a : Nat) : State × Wr :=
  match s.devWrite q x v a, (s.latch q.m).wr with
  | (s1, .ok), some w => ((s1.wr h (h.row.write 0 w) x.p x.i x.j).updLatch q.m fun l => { l with wr := none }, .ok)
  | r, _ => r

/-- A write that its check admits. -/
def State.regWrite (s : State) (q : Req) (x0 : RegAt) (v : Word) (a : Nat) : State × Wr :=
  let x := x0.mine q.ten
  let pop (b : Bool) (s1 : State) : State × Wr := (if b then s1 else s, .ok)
  if x.r.hiWritable then s.hiWrite q x v
  else match x.r with
  | .TIME_ACT_TGT_LO => s.loWrite q x .TIME_ACT_TGT_HI v a
  | .DMA_SRC_LO => s.loWrite q x .DMA_SRC_HI v a
  | .DMA_DST_LO => s.loWrite q x .DMA_DST_HI v a
  | .IMG_SWAP_AT_LO => s.loWrite q x .IMG_SWAP_AT_HI v a
  | .IMG_SWAP_CMD => s.swapCmd (F.IMG_SWAP_CMD.cmd.get v)
  | .IMG_BANK_CMD => s.bankCmd (F.IMG_BANK_CMD.cmd.get v)
  | .PWR_CMD => s.pwrCmd (F.PWR_CMD.cmd.get v)
  | .PWR_RST_CMD => s.rstCmd v
  | .TEN_RST => s.tenRst q v
  | .TEN_RST_STAT =>
    let mask : Word := if q.isT0 then 0xFFFFFFFF else BitVec.ofNat 32 (2 ^ (8 + q.ten % 8))
    (s.wr .TEN_RST_STAT (x.r.row.write (s.rd .TEN_RST_STAT) (v &&& mask)), .ok)
  | .TEN_VLOG_POP => pop (v.getLsbD 0) (s.popLog x.i)
  | .JNL_SLOG_POP => pop (v.getLsbD 0) (s.popLog 9)
  | .JNL_AQ_POP => pop (v.getLsbD 0) (s.popAq x.i)
  | _ => s.devWrite q x v a

/-! ### Register accesses at an address -/

/-- The word at a sub-word access's place: the lanes beside it are zero (log 7). -/
def laneWord (a : Nat) (v : Word) : Word := v <<< (8 * (a % 4))

/-- A request reaches a core-private register: machine mode of its own core (R297, R350). -/
def Req.private_ (q : Req) (a : Nat) : Option Nat :=
  match q.m with
  | .core c => if 0xE0000000 ≤ a ∧ a < 0xE0040000 ∧ !q.user ∧ q.mno = c.val then some c.val else none
  | _ => none

/-- An address of the register spaces that a block holds (R297, R298). -/
def regSpace (a : Nat) : Bool := (blkAt a).isSome

/-- The SEC block (R298). -/
def isSec (a : Nat) : Bool := decide (0x55000000 ≤ a ∧ a < 0x56000000)

/-- A read of a register found at an address; a reserved address reads zero (R9). -/
def State.regReadAt (s : State) (q : Req) (x : Option RegAt) (a n : Nat) : State × Rsp :=
  match x with
  | none => (s, .ok 0)
  | some x =>
    let g := s.guard q x
    if g.rd then
      let (s1, w) := s.regRead q x
      (s1, .ok (BitVec.ofNat 32 ((w >>> (8 * (a % 4))).toNat % 2 ^ (8 * n))))
    else if g.region then (s.violation q a 1 .read g.own, .refused)
    else (s, .ok 0)

/-- A write to a register found at an address (R8, R9, R15, R363). -/
def State.regWriteAt (s : State) (q : Req) (x : Option RegAt) (a : Nat) (v : Word) : State × Rsp :=
  match x with
  | none => (s, .ok 0)
  | some x =>
    let g := s.guard q x
    match g.wr with
    | .ok =>
      match s.regWrite q x (laneWord a v) a with
      | (s1, .ok) => (s1, .ok 0)
      | (s1, .err) => (s1, .refused)
      | (s1, .viol k) =>
        let own := match s.bitOwner q x (laneWord a v) with
          | some o => some o
          | none => match g.own with
            | some o => some o
            | none => some { ten := 0, sec := false }
        (s1.violation q a k .write own 0 (if x.r = .MBX_TX then coreDomain x.i else checkDomain a), .refused)
    | .err => (s, .refused)
    | .viol k => (s.violation q a k .write g.own, .refused)

/-- A read of `n` bytes of the local map but for the fabric windows (R297, R302). -/
def State.localRead (s : State) (q : Req) (a n : Nat) : State × Rsp :=
  if isMem a then s.memRead q .read a n
  else if isSec a then
    if q.isT0 then
      let (s1, v) := s.fresh
      (s1, .ok v)
    else (s, .ok 0)
  else if regSpace a then s.regReadAt q (regAt (a - a % 4)) a n
  else match q.private_ a with
  | some c => s.regReadAt q (privAt c (a - a % 4)) a n
  | none => (s.refuse q .read a n, .refused)

/-- A write of the `n` low bytes of `v` in the local map but for the fabric windows (R297, R302). -/
def State.localWrite (s : State) (q : Req) (a n : Nat) (v : Word) : State × Rsp :=
  if isMem a then s.memWrite q a n v
  else if isSec a then
    if q.isT0 then (s, .refused) else (s.violation q a 6 .write (some { ten := 0, sec := false }), .refused)
  else if regSpace a then s.regWriteAt q (regAt (a - a % 4)) a (BitVec.ofNat 32 (v.toNat % 2 ^ (8 * n)))
  else match q.private_ a with
  | some c => s.regWriteAt q (privAt c (a - a % 4)) a (BitVec.ofNat 32 (v.toNat % 2 ^ (8 * n)))
  | none => (s.refuse q .write a n, .refused)

/-! ### Fabric windows -/

/-- An address of a fabric window (R297). -/
def isWin (a : Nat) : Bool := decide (0x80000000 ≤ a ∧ a < 0xC0000000)

/-- The window of an address. -/
def winOf (a : Nat) : Nat := (a - 0x80000000) / 0x1000000

/-- The 52-bit fabric address of a core's access (R331). -/
def State.winAddr (s : State) (c a : Nat) : Nat := s.f F.MEM_WIN_BASE.base 0 c (winOf a) * 2 ^ 24 + a % 0x1000000

/-- What a window makes of an access: refused under R331, with kind 1, or by the link layer, with kind 11 (R30); the owner check
follows the window's registers. The truth value: admitted. -/
def State.winCheck (s : State) (q : Req) (c a n : Nat) (acc : AccKind) : State × Bool :=
  let w := winOf a
  let right := s.bit F.MEM_WIN_CTL.en 0 c w && (match acc with
    | .write => s.bit F.MEM_WIN_CTL.wr 0 c w
    | _ => s.bit F.MEM_WIN_CTL.r 0 c w)
  let f := s.winAddr c a
  let o := s.owner (.window c w)
  if !right || !(s.localAddr f || (s.laneTo (f / 2 ^ 44)).isSome) then (s.refuse q acc a n, false)
  else if !q.admits o then (s.violation q a 11 acc (some o), false)
  else (s, true)

/-- The request frame of a fabric access (R406, R414). -/
def reqFrame (q : Req) (f len : Nat) (pay : List Byte) : Frame :=
  { emptyFrame with dst := BitVec.ofNat 8 (f / 2 ^ 44), tenant := Fin.ofNat 8 q.ten, sec := q.sec, plen := BitVec.ofNat 9 pay.length
                    len := BitVec.ofNat 9 len, addr := BitVec.ofNat 52 f, payload := pay }

/-- A core's load through a window: it stands until its response (R331, R416); an address of this node is local (R330). -/
def State.winRead (s : State) (q : Req) (c a n : Nat) : State × Rsp :=
  match (s.core c).win with
  | some (t, none) => (s, .wait t)
  | some (_, some (code, d)) => (s.updCore c fun k => { k with win := none }, if code = 0 then .ok d else .refused)
  | none =>
    match s.winCheck q c a n .read with
    | (s1, false) => (s1, .refused)
    | (s1, true) =>
      let f := s1.winAddr c a
      if s1.localAddr f then
        let o := f % 2 ^ 44
        if 2 ^ 32 ≤ o ∨ isWin o then (s1.refuse q .read a n, .refused) else s1.localRead q o n
      else match s1.laneTo (f / 2 ^ 44) with
      | none => (s1.refuse q .read a n, .refused)
      | some ln =>
        let (s2, t) := s1.issue ln 1 (reqFrame q f n []) (.load c n)
        (s2.updCore c fun k => { k with win := some (t, none) }, .wait t)

/-- A core's store through a window leaves as a WR; its refusal comes back as a store error (R281, R416). -/
def State.winWrite (s : State) (q : Req) (c a n : Nat) (v : Word) : State × Rsp :=
  match s.winCheck q c a n .write with
  | (s1, false) => (s1, .refused)
  | (s1, true) =>
    let f := s1.winAddr c a
    if s1.localAddr f then
      let o := f % 2 ^ 44
      if 2 ^ 32 ≤ o ∨ isWin o then (s1.refuse q .write a n, .refused) else s1.localWrite q o n v
    else match s1.laneTo (f / 2 ^ 44) with
    | none => (s1.refuse q .write a n, .refused)
    | some ln =>
      let (s2, t) := s1.issue ln 3 (reqFrame q f 0 (toBytes n v.toNat)) (.store c a)
      (s2, .wait t)

/-- A read of `n` bytes within one word by any master (R297). -/
def State.busRead (s : State) (q : Req) (a n : Nat) : State × Rsp :=
  match q.m, isWin a with
  | .core c, true => s.winRead q c a n
  | _, _ => s.localRead q a n

/-- A write of the `n` low bytes of `v` within one word by any master (R297). -/
def State.busWrite (s : State) (q : Req) (a n : Nat) (v : Word) : State × Rsp :=
  match q.m, isWin a with
  | .core c, true => s.winWrite q c a n v
  | _, _ => s.localWrite q a n v

/-- An access of a core to the debug block, whose effect the spec does not give (R297, R401, log 16). -/
def debugAccess (m : Master) (a : Nat) : Bool :=
  match m with
  | .core _ => decide (0xF0000000 ≤ a ∧ a < 0xF1000000)
  | _ => false

end Sys2Proof.Machine
end

