-- ==== Sys2Proof/Machine/Boundary.lean ====
section
/-! DEFINITION. Boundaries: the period boundary of a phase set and the base boundary of a pack, with everything that takes
effect there in the order of R240 (R67, R68, R115, R130, R142, R154, R155, R159, R180, R183, R195, R238 to R244). -/

namespace Sys2Proof.Machine

/-- An SPI trigger offset beyond the period of its set is clamped (R68, R430). -/
def State.spiOffClamp (s : State) (p x : Nat) : State :=
  (List.range 4).foldl (fun s m =>
    s.setIf (s.bit F.SPI_CTL.en p m && s.f F.SPI_CTL.trig p m == 1 && s.f F.SPI_CTL.set p m == x &&
      decide ((s.pset p x).ticks ≤ s.f F.SPI_TRG.off p m)) F.SPI_STAT.cfg_clamp p m) s

/-- The offsets that follow source `src` are checked against the period now in force, and its latches are due (R68, R88, R115, R195,
R430). -/
def State.offsets (s : State) (p src : Nat) : State := ((s.acqCheck p src).spiOffClamp p src).latchQueue p src

/-- What happens at a boundary of set `x`, in order: the release limit of its axis, which has passed (R137), the transfer of
shadow values (R159; not at a restart after a clock loss, R183), the counts of R67, the axis's command and gait (R142, R152),
the swap (R240), the offsets against the period then in force, and pending enables (R180). -/
def State.atBoundary (s : State) (p x : Nat) (xfer : Bool) : State :=
  let was := s.setRunning p x
  let s1 := match s.axisOfSet p x with
    | some a => s.releaseLimit p a
    | none => s
  let s2 := if xfer then s1.transfer p x else s1.noTransfer p x
  let base := s2.pset p 6
  let s3 := (s2.setPair .PWM_SET_TAG_LO .PWM_SET_TAG_HI s2.now p x).updSet p x fun k =>
    { k with bk := s2.clk.raw, period := k.period + 1, off := (s2.clk.raw - base.bk) % base.ticks }
  let s4 := s3.acqCount p x
  let s5 := match s4.axisOfSet p x with
    | some a => s4.axBoundary p a x
    | none => s4
  let s6 := s5.swapBoundary p (some x)
  let s7 := match s6.axisOfSet p x with
    | some a => s6.rdyClamp p a
    | none => s6
  let s8 := ((s7.offsets p x).newCarriers p x).pendingEnables p x
  (s8.driveSet p x).runChanged p x was

/-- PERIOD_BOUNDARY: one period after the last, while the set's counter runs and the pack clock is present (R155, R159, R183). -/
def State.periodBoundary (s : State) (p x : Nat) : State :=
  if s.bit F.PWM_SET_STAT.cnt_run p x && s.bit F.PWM_STATUS.clk_ok p && !(s.pset p x).restart then
    s.atRaw ((s.pset p x).bk + (s.pset p x).ticks) fun s => s.atBoundary p x true
  else s

/-- A set's counter starts at this base boundary, or restarts after the clock was absent (R155, R183); at the others what was written to a
set without a counter after the cutoff counts as written before the next. -/
def State.counterAt (s : State) (p x : Nat) : State :=
  let fresh := !s.bit F.PWM_SET_STAT.cnt_run p x
  if s.f F.PWM_SET_CTL.legs p x != 0 && s.bit F.PWM_STATUS.clk_ok p && (fresh || (s.pset p x).restart) then
    ((s.startCounter p x).countsRestart p x).atBoundary p x fresh
  else if fresh then s.noTransfer p x
  else s

/-- The base period in force is the one that PWM_BASE holds (R154). -/
def State.baseLoad (s : State) (p : Nat) : State := s.updSet p 6 fun k => { k with car := s.f F.PWM_BASE.base p, ncar := 1 }

/-- What happens at a base boundary: the new base period, the counters that start, swaps of the pack and of axes without a set, the
offsets that follow the base, and the loop engine's checkpoint after the commit; one of the loop core falls due (R154, R155, R238, R244,
R382). -/
def State.atBase (s : State) (p : Nat) : State :=
  let s1 := ((s.setPair .PWM_BASE_TAG_LO .PWM_BASE_TAG_HI s.now p).updSet p 6 fun k =>
    { k with bk := s.clk.raw, on := true, period := k.period + 1 }).baseLoad p
  let s2 := (List.range 6).foldl (fun s x => s.counterAt p x) (s1.acqCount p 6)
  ((((s2.swapBoundary p none).baseLoad p).offsets p 6).engCkpt p).updPair (p + 4) fun k => { k with due := true }

/-- BASE_BOUNDARY: one base period after the last, or at the release of the timebase (R154). The base counter runs while the core die
does, without the forwarded clock too (R183). -/
def State.baseBoundary (s : State) (p : Nat) : State :=
  if s.pwr.mode ≠ 1 || s.pwr.past then s else s.atRaw (s.baseDue p) fun s => s.atBase p

/-- PERIOD_BOUNDARY. -/
def execPeriodBoundary (p : PackIx) (x : SetIx) (s : State) : Out := ok (s.periodBoundary p x)

/-- BASE_BOUNDARY. -/
def execBaseBoundary (p : PackIx) (s : State) : Out := ok (s.baseBoundary p)

end Sys2Proof.Machine
end

