-- ==== Sys2Proof/WellFormed.lean ====
section
/-! DEFINITION. Which commands are well formed: the lists that a command carries are of the length that the spec fixes. Index
ranges are in the types of Syntax.lean. -/

namespace Sys2Proof

/-- A frame's payload has the length that its header states, where plen is in its space (R406, R407). -/
def Frame.wf (f : Frame) : Bool := f.plen.toNat == f.payload.length || decide (256 < f.plen.toNat)

/-- An AES-256 key is eight words (R426). -/
def keyWf (key : List Word) : Bool := key.length == 8

/-- A readback reports two codes for each of 16 comparators (R193). -/
def codesWf (codes : List (BitVec 16 × BitVec 16)) : Bool := codes.length == 16

/-- The tests of start-up report two codes for each of 64 comparators (R193, R457). -/
def StartEnv.wf (e : StartEnv) : Bool := e.dac.length == 64

/-- An SPI transfer has 1 to 16 words (R430). -/
def rxWf (rx : List Word) : Bool := decide (0 < rx.length ∧ rx.length ≤ 16)

/-- A decimator output ends a run of at least one modulator bit (R86). -/
def bitsWf (bits : List Bool) : Bool := !bits.isEmpty

/-- A pack has 64 ADC calibration sets and 32 SDM calibration sets (R81). -/
def calWf (sdm : Bool) (k : Fin 64) : Bool := !sdm || decide (k.val < 32)

/-- There are 64 Ethernet and 16 CAN descriptor rings (R427, R429). -/
def ringWf (can : Bool) (q : Fin 64) : Bool := !can || decide (q.val < 16)

/-- A command is well formed. -/
def Instr.wellFormed : Instr → Bool
  | .rdFrame _ f | .rdrFrame _ f | .wrFrame _ f | .wraFrame _ f | .mbxFrame _ f | .mbxaFrame _ f | .ethFrame _ f
  | .joinFrame _ f _ | .leaveFrame _ f | .nakFrame _ f | .idleFrame _ f => f.wf
  | .keyInstall _ _ key => keyWf key
  | .calSetCommit _ _ sdm k _ => calWf sdm k
  | .tailAdvance _ can q _ => ringWf can q
  | .frameLaunch can q => ringWf can q
  | .readbackDone _ codes => codesWf codes
  | .resetRelease e => e.wf
  | .packResetDone _ e => e.wf
  | .spiTransferEnd _ _ rx => rxWf rx
  | .decimatorOutput _ _ bits => bitsWf bits
  | .fastPathOutput _ _ bits => bitsWf bits
  | _ => true

end Sys2Proof
end

