-- ==== Sys2Proof/Machine/Fabric.lean ====
section
/-! DEFINITION. What arrives over the fabric (R407 to R418, R422, R425, R426), the bursts of the DMA channels (R333 to R335, R416),
and the firing of the action slots (R52 to R57). -/

namespace Sys2Proof.Machine

/-- A command whose operand list is not of its length is no command (WellFormed.lean). -/
def checked (b : Bool) (o : Out) : Out := if b then o else .fault .illFormed

/-! ### Ranges of bytes -/

/-- The first piece of a range that no region admits, page by page (R301). -/
def State.rangeBad (s : State) (q : Req) (acc : AccKind) (a n : Nat) : Option (Nat × Nat) :=
  (piecesOf a n).find? fun e => isMem e.1 && !s.regionOk q acc (unalias e.1) e.2

/-- Read a range of bytes of the local map: the bytes, or 1 refused, 2 uncorrectable (R409). -/
def State.readRange (s : State) (q : Req) (a n : Nat) : State × Except Nat (List Byte) :=
  match s.rangeBad q .read a n with
  | some e => (s.refuse q .read e.1 e.2, .error 1)
  | none =>
    (piecesOf a n).foldl (fun (r : State × Except Nat (List Byte)) e =>
      match r.2 with
      | .error c => (r.1, .error c)
      | .ok bs =>
        match r.1.localRead q e.1 e.2 with
        | (s1, .ok d) => (s1, .ok (bs ++ toBytes e.2 d.toNat))
        | (s1, .ue) => (s1, .error 2)
        | (s1, _) => (s1, .error 1)) (s, .ok [])

/-- Write bytes to a range of the local map: 0 done, 1 refused, 2 uncorrectable. -/
def State.writeRange (s : State) (q : Req) (a : Nat) (bs : List Byte) : State × Nat :=
  match s.rangeBad q .write a bs.length with
  | some e => (s.refuse q .write e.1 e.2, 1)
  | none =>
    (piecesOf a bs.length).foldl (fun (r : State × Nat) e =>
      if r.2 ≠ 0 then r
      else
        match r.1.localWrite q e.1 e.2 (BitVec.ofNat 32 (ofBytes ((bs.drop (e.1 - a)).take e.2))) with
        | (s1, .ok _) => (s1, 0)
        | (s1, .ue) => (s1, 2)
        | (s1, _) => (s1, 1)) (s, 0)

/-! ### DMA -/

/-- A burst of `n` bytes has been written (R333 to R335): the length left, the next addresses, a waiting stop, the end. -/
def State.dmaStep (s : State) (k n : Nat) : State :=
  let d := s.dma.get {} k
  let left := d.left - n
  let s1 : State := { s with dma := s.dma.set {} k { d with src := d.src + n, dst := d.dst + n, left := left, wait := 0, wlen := 0, stop := false } }
  let s2 := s1.put F.DMA_LEN.len ((left + 3) / 4) 0 k
  if d.stop then s2.clrb F.DMA_STAT.busy 0 k else s2.dmaEnd k

/-- The bytes of a burst are written, at once or as one WR (R333, R416). -/
def State.dmaPut (s : State) (k : Nat) (bs : List Byte) : State :=
  let d := s.dma.get {} k
  let q := s.req (.dma (Fin.ofNat 32 k))
  if s.localAddr d.dst then
    let o := d.dst % 2 ^ 44
    if 2 ^ 32 ≤ o then (s.refuse q .write o bs.length).dmaHalt k 1
    else match s.writeRange q o bs with
    | (s1, 0) => s1.dmaStep k bs.length
    | (s1, c) => s1.dmaHalt k c
  else match s.laneTo (d.dst / 2 ^ 44) with
  | none => s.dmaHalt k 3
  | some ln =>
    let (s1, _) := s.issue ln 3 (reqFrame q d.dst 0 bs) (.dma k)
    { s1 with dma := s1.dma.set {} k { d with wait := 2, wlen := bs.length } }

/-- The bytes of the next burst: at most 64, and within 256 bytes of a remote address (R333, R414). -/
def State.burstLen (s : State) (k : Nat) : Nat :=
  let d := s.dma.get {} k
  let room (a : Nat) : Nat := if s.localAddr a then 64 else 256 - a % 256
  min (min 64 d.left) (min (room d.src) (room d.dst))

/-- DMA_BURST: a running channel with nothing outstanding moves one burst, or loads its next descriptor (R333 to R335). -/
def State.dmaBurst (s : State) (k : Nat) : State :=
  let d := s.dma.get {} k
  let q := s.req (.dma (Fin.ofNat 32 k))
  let n := s.burstLen k
  if !s.bit F.DMA_STAT.busy 0 k || d.wait != 0 then s
  else if d.left = 0 then
    if d.stop then ({ s with dma := s.dma.set {} k { d with stop := false } } : State).clrb F.DMA_STAT.busy 0 k
    else if s.dmaChains k then s.dmaNext k else s.dmaDone k
  else if s.localAddr d.src then
    let o := d.src % 2 ^ 44
    if 2 ^ 32 ≤ o then (s.refuse q .read o n).dmaHalt k 1
    else match s.readRange q o n with
    | (s1, .ok bs) => s1.dmaPut k bs
    | (s1, .error c) => s1.dmaHalt k c
  else match s.laneTo (d.src / 2 ^ 44) with
  | none => s.dmaHalt k 3
  | some ln =>
    let (s1, _) := s.issue ln 1 (reqFrame q d.src n []) (.dma k)
    { s1 with dma := s1.dma.set {} k { d with wait := 1, wlen := n } }

/-- DMA_START by a slot: performed only if the slot's tenant owns the channel (R53). True where it was performed. -/
def State.slotDma (s : State) (n k : Nat) : State × Bool :=
  let q := s.req (.slot (Fin.ofNat 64 n))
  let o := s.owner (.dma k)
  if 32 ≤ k then (s.violation q k 8 .event none n, false)
  else if !q.admits o then (s.violation q k 8 .event (some o) n, false)
  else s.dmaStart k

/-! ### Slots -/

/-- The action of a slot (R53); true where it was performed. -/
def State.slotAct (s : State) (n : Nat) : State × Bool :=
  let q := s.req (.slot (Fin.ofNat 64 n))
  let a := (s.rd .TIME_ACT_ADDR 0 n).toNat
  let kind := s.f F.TIME_ACT_CTL.kind 0 n
  if kind = 0 then
    if 319 < a then (s.violation q a 8 .event none n (lshDomain 319), false)
    else if s.lf F.PLSH_PROD.pkind a = 4 ∧ s.lf F.PLSH_PROD.pidx a = n then (s.raiseEv a 0 s.now, true)
    else (s.violation q a 8 .event (some (s.lshOwner a)) n (lshDomain a), false)
  else if kind = 1 then
    match s.busWrite q (a - a % 4) 4 (s.rd .TIME_ACT_DATA 0 n) with
    | (s1, .ok _) => (s1, true)
    | (s1, _) => (s1, false)
  else s.slotDma n a

/-- An armed slot whose target has come, or a late one, fires with the present tag (R52 to R56); not while the timebase is
stopped (R58). -/
def State.slotGo (s : State) (n : Nat) : State :=
  if s.clk.stopped || !((s.slotArmed n && s.slotReached n) || s.clk.due.contains n) then s
  else
    let s1 := ((s.clrb F.TIME_ACT_CTL.arm 0 n).setb F.TIME_ACT_STAT.fired 0 n).setPair .TIME_ACT_FIRE_LO .TIME_ACT_FIRE_HI s.now 0 n
    let s2 := s1.updClk fun k => { k with due := k.due.filter (· != n), fired := k.fired.set 0 n (k.raw + 1) }
    let (s3, good) := s2.slotAct n
    if good then s3 else s3.updClk fun k => { k with slotRefs := k.slotRefs ++ [n] }

/-- SLOT_FIRE: a late slot fires now, an armed one in the first tick at or after its target (R52, R54). -/
def State.slotFire (s : State) (n : Nat) : State :=
  if s.slotArmed n && !s.clk.due.contains n then s.atTag (s.slotTgt n) fun s => s.slotGo n else s.slotGo n

/-- SLOT_REFUSAL: the refusal of a fired slot's action returns to the TIME block (R53). -/
def State.slotRefusal (s : State) (n : Nat) : State :=
  if s.clk.slotRefs.contains n then
    (s.setb F.TIME_ACT_STAT.refused 0 n).updClk fun k => { k with slotRefs := dropFirst (· == n) k.slotRefs }
  else s

/-! ### Inbound requests -/

/-- A response to a request frame (R406, R409). -/
def State.respond (s : State) (ln ty : Nat) (f : Frame) (status : Nat) (pay : List Byte) : State :=
  s.send ln ty { emptyFrame with dst := f.src, tenant := f.tenant, sec := f.sec, plen := BitVec.ofNat 9 pay.length, txid := f.txid
                                 status := BitVec.ofNat 4 status, addr := f.addr, payload := pay, tag := s.now }

/-- The master of an inbound frame (R361, R415). -/
def frameMaster (f : Frame) : Master := .fabric f.src f.tenant f.sec

/-- A request covers 1 to 256 bytes of this node within a 256-byte boundary, at offsets 0x1000_0000 to 0x31FF_FFFF (R330, R414). -/
def State.inRange (s : State) (f : Frame) (n : Nat) : Bool :=
  let a := f.addr.toNat
  let o := a % 2 ^ 44
  s.localAddr a && decide (1 ≤ n ∧ n ≤ 256 ∧ o % 256 + n ≤ 256 ∧ 0x10000000 ≤ o ∧ o + n ≤ 0x32000000)

/-- An inbound request that no entry of FAB_INMAP maps (R415). -/
def State.unmapped (s : State) (q : Req) (f : Frame) (acc : AccKind) : State := s.violation { q with ten := 0 } f.addr.toNat 11 acc none 0 (island 88)

/-- RD (R414, R415): answered with RDR. -/
def State.rdIn (s0 : State) (ln : Nat) (f : Frame) : State :=
  let (s, go) := s0.rxFrame ln 1 f
  let q := s.req (frameMaster f)
  let n := f.len.toNat
  if !go then s
  else if !s.inRange f n then s.respond ln 2 f 3 []
  else if !q.mapped then (s.unmapped q f .read).respond ln 2 f 1 []
  else match s.readRange q (f.addr.toNat % 2 ^ 44) n with
  | (s1, .ok bs) => s1.respond ln 2 f 0 bs
  | (s1, .error c) => s1.respond ln 2 f c []

/-- WR (R414, R415): answered with WRA. -/
def State.wrIn (s0 : State) (ln : Nat) (f : Frame) : State :=
  let (s, go) := s0.rxFrame ln 3 f
  let q := s.req (frameMaster f)
  if !go then s
  else if !s.inRange f f.plen.toNat then s.respond ln 4 f 3 []
  else if !q.mapped then (s.unmapped q f .write).respond ln 4 f 1 []
  else
    let (s1, c) := s.writeRange q (f.addr.toNat % 2 ^ 44) (f.payload.take f.plen.toNat)
    s1.respond ln 4 f c []

/-- The words of a mailbox frame's payload. -/
def frameWord (f : Frame) (i : Nat) : Word := BitVec.ofNat 32 (ofBytes ((f.payload.drop (4 * i)).take 4))

/-- MBX (R415, R418): answered with MBXA: 0 accepted, 1 not bound to this sender, 4 full, 5 in reset. -/
def State.mbxIn (s0 : State) (ln : Nat) (f : Frame) : State :=
  let (s, go) := s0.rxFrame ln 5 f
  let q := s.req (frameMaster f)
  let c := f.addr.toNat % 16
  let ch := f.addr.toNat / 16 % 16
  let bound := (List.range 32).any fun e =>
    s.bit F.FAB_MRX.en 0 e && s.f F.FAB_MRX.core 0 e == c && s.f F.FAB_MRX.ch 0 e == ch && s.f F.FAB_MRX.node 0 e == f.src.toNat &&
      s.f F.FAB_MRX.ten 0 e == f.tenant.val
  let cfg := decide (c < 12) && s.bit F.MBX_RX_CFG.en c ch && s.f F.MBX_RX_CFG.sender c ch == 44
  if !go then s
  else if !q.mapped then (s.unmapped q f .write).respond ln 6 f 1 []
  else if !cfg || !bound then s.respond ln 6 f 1 []
  else
    let o : Owner := { ten := s.f F.MBX_RX_CFG.owner c ch, sec := s.bit F.MBX_RX_CFG.sec c ch }
    if !q.admits o then (s.violation q f.addr.toNat 9 .write (some o) 0 (coreDomain c)).respond ln 6 f 1 []
    else if (s.core c).held then (s.mbxPut c ch 0 0).1.respond ln 6 f 5 []
    else if s.nbit .MBX_RX_FULL ch c then (s.mbxPut c ch 0 0).1.respond ln 6 f 4 []
    else
      let s1 := (List.range 7).foldl (fun s i => (s.mbxPut c ch (i + 1) (frameWord f (i + 1))).1) s
      (s1.mbxPut c ch 0 (frameWord f 0)).1.respond ln 6 f 0 []

/-! ### Responses -/

/-- The outstanding request that a response on a lane answers in time (R416). -/
def State.reqOf (s : State) (ln : Nat) (f : Frame) (good : OutReq → Bool) : Option OutReq :=
  s.net.reqs.find? fun r => r.lane == ln && r.txid == f.txid.toNat && good r && !Tag.after s.now r.due

/-- A response that answers nothing, or comes late, is discarded and counted (R416). -/
def State.lateRsp (s : State) : State := s.inc F.FAB_REQ_STAT.late_rsp

/-- A request leaves the list of outstanding ones; what waited for its place goes out, and a drain goes on. -/
def State.reqGone (s : State) (ln : Nat) (r : OutReq) (f : State → State) : State :=
  ((f (s.updNet fun n => { n with reqs := n.reqs.filter (· != r) })).drainLane ln).drainGoes ln

/-- RDR: the data of a load or of a DMA read (R416). -/
def State.rdrIn (s0 : State) (ln : Nat) (f : Frame) : State :=
  let (s, go) := s0.rxFrame ln 2 f
  let isRead (r : OutReq) : Bool := match r.by_ with
    | .load _ _ => true
    | .dma k => (s.dma.get {} k).wait == 1
    | _ => false
  if !go then s
  else match s.reqOf ln f isRead with
  | none => s.lateRsp
  | some r =>
    s.reqGone ln r fun s =>
      if f.status.toNat ≠ 0 then s.reqEnd r f.status.toNat
      else match r.by_ with
      | .load c n => s.winEnd c r.txid 0 (BitVec.ofNat 32 (ofBytes (f.payload.take n)))
      | .dma k =>
        let d := s.dma.get {} k
        ({ s with dma := s.dma.set {} k { d with wait := 0, wlen := 0 } } : State).dmaPut k (f.payload.take d.wlen)
      | _ => s

/-- WRA: a store or a DMA write has been performed (R416). -/
def State.wraIn (s0 : State) (ln : Nat) (f : Frame) : State :=
  let (s, go) := s0.rxFrame ln 4 f
  let isWrite (r : OutReq) : Bool := match r.by_ with
    | .store _ _ => true
    | .dma k => (s.dma.get {} k).wait == 2
    | _ => false
  if !go then s
  else match s.reqOf ln f isWrite with
  | none => s.lateRsp
  | some r =>
    s.reqGone ln r fun s =>
      if f.status.toNat ≠ 0 then s.reqEnd r f.status.toNat
      else match r.by_ with
      | .dma k => s.dmaStep k (s.dma.get {} k).wlen
      | _ => s

/-- A send slot bound to the receive channel that an MBXA names. -/
def State.slotFor (s : State) (f : Frame) (m : Nat) : Bool :=
  s.bit F.FAB_MTX_CFG.en 0 m && s.f F.FAB_MTX_CFG.node 0 m == f.src.toNat && s.f F.FAB_MTX_CFG.core 0 m == f.addr.toNat % 16 &&
    s.f F.FAB_MTX_CFG.ch 0 m == f.addr.toNat / 16 % 16

/-- MBXA: a slot's outcome, or an unsolicited abort notice (R417, R418). -/
def State.mbxaIn (s0 : State) (ln : Nat) (f : Frame) : State :=
  let (s, go) := s0.rxFrame ln 6 f
  let isSlot (r : OutReq) : Bool := match r.by_ with
    | .slot m => s.slotFor f m
    | _ => false
  if !go then s
  else match s.reqOf ln f isSlot with
  | some r => s.reqGone ln r fun s => s.reqEnd r f.status.toNat
  | none =>
    let ms := (List.range 16).filter (s.slotFor f)
    if f.status.toNat = 5 && !ms.isEmpty then ms.foldl (fun s m => s.setb F.FAB_MTX_STAT.aborted 0 m) s else s.lateRsp

/-! ### The other frames -/

/-- TSYNC: the frame is taken as the next of its link, and the message follows on the links that carry it (R412, R421). -/
def State.tsyncIn (s : State) (ln : Nat) (domain : Byte) (gm : Tag) : State :=
  if s.lnSt ln = 3 ∨ s.lnSt ln = 4 then
    let was := s.timeSt
    let s1 := ((s.acceptSeq ln 7 emptyFrame).hear ln).tsyncMsg ln domain gm
    if was ≠ 1 ∧ s1.timeSt = 1 then s1.lockedNow else s1
  else s

/-- ETH (R426). -/
def State.ethFrameIn (s : State) (ln : Nat) (f : Frame) : State :=
  match s.rxFrame ln 8 f with
  | (s1, true) => s1.ethIn ln f
  | (s1, false) => s1

/-- JOIN (R419 to R421). -/
def State.joinIn (s : State) (ln : Nat) (f : Frame) (i : JoinInfo) : State :=
  match s.rxFrame ln 9 f with
  | (s1, true) => s1.joinCame ln i
  | (s1, false) => s1

/-- LEAVE (R422). -/
def State.leaveIn (s : State) (ln : Nat) (f : Frame) : State :=
  match s.rxFrame ln 10 f with
  | (s1, true) => s1.leaveCame ln
  | (s1, false) => s1

/-- NAK: every unacked frame is replayed (R411). -/
def State.nakIn (s : State) (ln : Nat) (f : Frame) : State :=
  match s.rxFrame ln 11 f with
  | (s1, true) => (s1.replayLane ln).drainGoes ln
  | (s1, false) => s1

/-- IDLE carries acks and credits (R408). -/
def State.idleIn (s : State) (ln : Nat) (f : Frame) : State := (s.rxFrame ln 0 f).1.drainGoes ln

end Sys2Proof.Machine
end

