-- ==== Sys2Proof/Machine/CmdReg.lean ====
section
/-! DEFINITION. The commands that are an access of a master to one register: each is a read or a write on the bus at that register's
address, with the checks of R30, R362 to R364 and R372, and with what the block that holds the register makes of it. -/

namespace Sys2Proof.Machine

/-- The outcome of an access: accepted with data, or an error response (R30). A load through a window waits for its response. -/
def rspOut : State × Rsp → Out
  | (s, .ok d) => ok s d
  | (s, .refused) => errResp s
  | (s, .ue) => errResp s
  | (s, .wait _) => ok s

/-- A word write by a master at an address; the access of a core to the debug block is refused by name (log 16), and a fabric request
that matches no entry of FAB_INMAP has no local tenant: it is refused and entered in T0's log (R415). -/
def State.cmdWrite (s : State) (m : Master) (a : Nat) (v : Word) : Out :=
  if debugAccess m a then .refused .debugBlock
  else if !(s.req m).mapped then errResp (s.violation (s.req m) a 11 .write none)
  else rspOut (s.busWrite (s.req m) (a - a % 4) 4 v)

/-- A word read by a master at an address. -/
def State.cmdRead (s : State) (m : Master) (a : Nat) : Out :=
  if debugAccess m a then .refused .debugBlock
  else if !(s.req m).mapped then errResp (s.violation (s.req m) a 11 .read none)
  else rspOut (s.busRead (s.req m) (a - a % 4) 4)

/-- A write by a master to a register. -/
def State.putAt (s : State) (m : Master) (r : RegName) (v : Word) (p : Nat := 0) (i : Nat := 0) (j : Nat := 0) : Out :=
  s.cmdWrite m (RegAt.addr { r := r, p := p, i := i, j := j }) v

/-- A read by a master of a register. -/
def State.getAt (s : State) (m : Master) (r : RegName) (p : Nat := 0) (i : Nat := 0) (j : Nat := 0) : Out :=
  s.cmdRead m (RegAt.addr { r := r, p := p, i := i, j := j })

/-! ### Any register -/

/-- REGISTER_WRITE (R8, R9, R15, R30). -/
def execRegisterWrite (m : Master) (a v : Word) (s : State) : Out := s.cmdWrite m a.toNat v

/-- READ_LATCH_LO (R46). -/
def execReadLatchLo (m : Master) (a : Word) (s : State) : Out := s.cmdRead m a.toNat

/-- WRITE_LATCH_HI (R47). -/
def execWriteLatchHi (m : Master) (a v : Word) (s : State) : Out := s.cmdWrite m a.toNat v

/-- LO_WRITE_COMMIT (R47). -/
def execLoWriteCommit (m : Master) (a v : Word) (s : State) : Out := s.cmdWrite m a.toNat v

/-- RESULT_SNAPSHOT_READ (R83). -/
def execResultSnapshotRead (m : Master) (a : Word) (s : State) : Out := s.cmdRead m a.toNat

/-- RC_FIELD_READ (R8, R10, R11). -/
def execRcFieldRead (m : Master) (a : Word) (s : State) : Out := s.cmdRead m a.toNat

/-- UNCACHED_ACCESS (R30, R297, R304, R305, R327): a word read or write by a master that does not cache. -/
def execUncachedAccess (m : Master) (write : Bool) (a v : Word) (s : State) : Out :=
  if write then s.cmdWrite m a.toNat v else s.cmdRead m a.toNat

/-! ### Action slots -/

/-- The word of TIME_ACT_CTL. -/
def slotWord (arm skipLate : Bool) (kind : Fin 4) : Word := BitVec.ofNat 32 (arm.toNat + 2 * skipLate.toNat + 4 * kind.val)

/-- SLOT_ARM (R54, R55). -/
def execSlotArm (m : Master) (n : SlotIx) (skipLate : Bool) (kind : Fin 4) (s : State) : Out :=
  s.putAt m .TIME_ACT_CTL (slotWord true skipLate kind) 0 n

/-- SLOT_DISARM (R56). -/
def execSlotDisarm (m : Master) (n : SlotIx) (skipLate : Bool) (kind : Fin 4) (s : State) : Out :=
  s.putAt m .TIME_ACT_CTL (slotWord false skipLate kind) 0 n

/-! ### Acquisition and position -/

/-- SELFCAL (R77). -/
def execSelfcal (m : Master) (p : PackIx) (s : State) : Out := s.putAt m .ADC_CTL 1 p

/-- CAL_SET_COMMIT (R81); an SDM calibration set number is below 32. -/
def execCalSetCommit (m : Master) (p : PackIx) (sdm : Bool) (k : Fin 64) (cfg : Word) (s : State) : Out :=
  checked (calWf sdm k) (s.putAt m (if sdm then .SDM_CAL_CFG else .ADC_CAL_CFG) cfg p k)

/-- SDM_ENABLE (R87, R88). -/
def execSdmEnable (m : Master) (p : PackIx) (n : Fin 8) (v : Word) (s : State) : Out := s.putAt m .SDM_CH v p n

/-- RESOLVER_ENABLE (R91). -/
def execResolverEnable (m : Master) (p : PackIx) (r : Fin 2) (v : Word) (s : State) : Out := s.putAt m .RSV_CTL v p r

/-- MODE_CHANGE (R96). -/
def execModeChange (m : Master) (p : PackIx) (i : Fin 6) (v : Word) (s : State) : Out := s.putAt m .POS_CFG v p i

/-- INV_CHANGE (R97). -/
def execInvChange (m : Master) (p : PackIx) (i : Fin 6) (v : Word) (s : State) : Out := s.putAt m .POS_CFG v p i

/-- POS_SNAPSHOT_READ (R105). -/
def execPosSnapshotRead (m : Master) (p : PackIx) (i : Fin 6) (s : State) : Out := s.getAt m .POS_CNT p i

/-- SENSOR_SUPPLY_ENABLE (R121). -/
def execSensorSupplyEnable (m : Master) (n : Fin 8) (autoRetry : Bool) (s : State) : Out :=
  s.putAt m .PWR_SENS_CTL (BitVec.ofNat 32 (1 + 2 * autoRetry.toNat)) 0 n

/-- RESYNC (R124). -/
def execResync (m : Master) (p : PackIx) (s : State) : Out := s.putAt m .POS_EMU_CMD 1 p

/-! ### Axes -/

/-- ARM (R142 to R145). -/
def execArm (m : Master) (p : PackIx) (a : AxisIx) (s : State) : Out := s.putAt m .LE_AX_CMD 1 p a

/-- OPEN (R142). -/
def execAxisOpen (m : Master) (p : PackIx) (a : AxisIx) (s : State) : Out := s.putAt m .LE_AX_CMD 2 p a

/-- CLOSE (R142). -/
def execAxisClose (m : Master) (p : PackIx) (a : AxisIx) (s : State) : Out := s.putAt m .LE_AX_CMD 3 p a

/-- DISARM (R142, R143). -/
def execDisarm (m : Master) (p : PackIx) (a : AxisIx) (s : State) : Out := s.putAt m .LE_AX_CMD 4 p a

/-- GAIT_FORCE (R153). -/
def execGaitForce (m : Master) (p : PackIx) (a : AxisIx) (en : Bool) (g : Fin 8) (s : State) : Out :=
  s.putAt m .LE_GAIT_SEL (BitVec.ofNat 32 (64 * en.toNat + 128 * g.val)) p a

/-- COEFFICIENT_WRITE (R149, R150). -/
def execCoefficientWrite (m : Master) (p : PackIx) (a : AxisIx) (g : Fin 8) (w : Fin 128) (v : Word) (s : State) : Out :=
  s.putAt m .LE_COEF v p a (128 * g + w)

/-! ### Pulse-width modulation -/

/-- LOAD_GO (R159). -/
def execLoadGo (m : Master) (p : PackIx) (x : SetIx) (s : State) : Out := s.putAt m .PWM_SET_LOAD 1 p x

/-- SET_ENABLE (R168, R180). -/
def execSetEnable (m : Master) (p : PackIx) (x : SetIx) (s : State) : Out := s.putAt m .PWM_SET_RUN 1 p x

/-- SET_DISABLE (R179, R180). -/
def execSetDisable (m : Master) (p : PackIx) (x : SetIx) (s : State) : Out := s.putAt m .PWM_SET_RUN 0 p x

/-- LEG_ON (R180, R182). -/
def execLegOn (m : Master) (p : PackIx) (mask : BitVec 18) (s : State) : Out := s.putAt m .PWM_LEG_ON (mask.setWidth 32) p

/-- LEG_OFF (R179, R180, R182). -/
def execLegOff (m : Master) (p : PackIx) (mask : BitVec 18) (s : State) : Out := s.putAt m .PWM_LEG_OFF (mask.setWidth 32) p

/-- FORCE_WRITE (R171). -/
def execForceWrite (m : Master) (p : PackIx) (x : SetIx) (code : BitVec 12) (s : State) : Out :=
  s.putAt m .PWM_FORCE (code.setWidth 32) p x

/-- MASK_PTR_WRITE (R174). -/
def execMaskPtrWrite (m : Master) (p : PackIx) (x : SetIx) (v : Word) (s : State) : Out := s.putAt m .PWM_MASK_PTR v p x

/-! ### Comparators and muzzle -/

/-- THRESHOLD_WRITE (R192). -/
def execThresholdWrite (m : Master) (p : PackIx) (n : Fin 16) (v : Word) (s : State) : Out := s.putAt m .CMP_THR v p n

/-- READBACK (R193). -/
def execReadback (m : Master) (p : PackIx) (s : State) : Out := s.putAt m .CMP_CTL 1 p

/-- SOFTWARE_TRIP (R209). -/
def execSoftwareTrip (m : Master) (p : PackIx) (mask : BitVec 6) (s : State) : Out := s.putAt m .MUZ_SWTRIP (mask.setWidth 32) p

/-- TRIP_CLEAR (R208). -/
def execTripClear (m : Master) (p : PackIx) (x : SetIx) (s : State) : Out := s.putAt m .MUZ_SET_STAT 1 p x

/-! ### Banks and swaps -/

/-- SET_TRIAL (R232). -/
def execSetTrial (m : Master) (s : State) : Out := s.putAt m .IMG_BANK_CMD 1

/-- CONFIRM (R232). -/
def execConfirm (m : Master) (s : State) : Out := s.putAt m .IMG_BANK_CMD 2

/-- MARK_BAD (R232). -/
def execMarkBad (m : Master) (s : State) : Out := s.putAt m .IMG_BANK_CMD 3

/-- RAISE_SVN (R232). -/
def execRaiseSvn (m : Master) (s : State) : Out := s.putAt m .IMG_BANK_CMD 4

/-- STAGE (R236). -/
def execStage (m : Master) (s : State) : Out := s.putAt m .IMG_SWAP_CMD 1

/-- GO (R238, R239). -/
def execSwapGo (m : Master) (s : State) : Out := s.putAt m .IMG_SWAP_CMD 2

/-- ABORT (R246). -/
def execSwapAbort (m : Master) (s : State) : Out := s.putAt m .IMG_SWAP_CMD 3

/-- REVERT (R245). -/
def execRevert (m : Master) (s : State) : Out := s.putAt m .IMG_SWAP_CMD 4

/-! ### Memory control and DMA -/

/-- INIT_START (R311). -/
def execInitStart (m : Master) (s : State) : Out := s.putAt m .MEM_INIT_CMD 1

/-- ELOG_POP (R319). -/
def execElogPop (m : Master) (s : State) : Out := s.putAt m .MEM_ELOG_POP 1

/-- ELOG_SNAPSHOT_READ (R319). -/
def execElogSnapshotRead (m : Master) (s : State) : Out := s.getAt m .MEM_ELOG_E

/-- PAGE_RETIRE (R320). -/
def execPageRetire (m : Master) (n : Fin 64) (page : BitVec 20) (s : State) : Out :=
  s.putAt m .MEM_RETIRE (BitVec.ofNat 32 (1 + 4096 * page.toNat)) 0 n

/-- PROGRAM (R322, R323). -/
def execProgram (m : Master) (s : State) : Out := s.putAt m .MEM_NV_CMD 1

/-- ERASE (R322, R323). -/
def execErase (m : Master) (s : State) : Out := s.putAt m .MEM_NV_CMD 2

/-- RETIRE_BLOCK (R326). -/
def execRetireBlock (m : Master) (s : State) : Out := s.putAt m .MEM_NV_CMD 3

/-- DMA_STOP (R335). -/
def execDmaStop (m : Master) (k : DmaIx) (s : State) : Out := s.putAt m .DMA_CMD 2 0 k

/-- HALTED_CLEAR (R335). -/
def execHaltedClear (m : Master) (k : DmaIx) (s : State) : Out := s.putAt m .DMA_STAT 4 0 k

/-! ### Leash channels, interrupts, mailboxes -/

/-- The register of a leash ring: a pack's, or the system router's for ring 4, with its pack. -/
def ringAt (ring : Fin 5) (r : RegName) : RegName :=
  if ring.val < 4 then r
  else match r with
  | .PLSH_RAISE => .SLSH_RAISE
  | .PLSH_FLAG_SET => .SLSH_FLAG_SET
  | .PLSH_FLAG_CLR => .SLSH_FLAG_CLR
  | r => r

/-- RAISE (R338). -/
def execRaise (m : Master) (ring : Fin 5) (ch : Fin 64) (data : Byte) (s : State) : Out :=
  s.putAt m (ringAt ring .PLSH_RAISE) (BitVec.ofNat 32 (ch.val + 256 * data.toNat)) (ring % 4)

/-- FLAG_SET (R341). -/
def execFlagSet (m : Master) (ring : Fin 5) (w : Fin 2) (mask : Word) (s : State) : Out :=
  s.putAt m (ringAt ring .PLSH_FLAG_SET) mask (ring % 4) w

/-- FLAG_CLEAR (R341). -/
def execFlagClear (m : Master) (ring : Fin 5) (w : Fin 2) (mask : Word) (s : State) : Out :=
  s.putAt m (ringAt ring .PLSH_FLAG_CLR) mask (ring % 4) w

/-- DOORBELL (R346): the core writes its own register. -/
def execDoorbell (c : CoreIx) (v : Word) (s : State) : Out := s.putAt (.core c) .INT_DOORBELL v c

/-- DOORBELL_ALIAS (R346). -/
def execDoorbellAlias (m : Master) (c : CoreIx) (v : Word) (s : State) : Out := s.putAt m .LSH_DB v 0 c

/-- PEND_SET (R346). -/
def execPendSet (c : CoreIx) (i : Fin 32) (mask : Word) (s : State) : Out := s.putAt (.core c) .INT_PEND_SET mask c i

/-- PEND_CLEAR (R346). -/
def execPendClear (c : CoreIx) (i : Fin 32) (mask : Word) (s : State) : Out := s.putAt (.core c) .INT_PEND_CLR mask c i

/-- MASK_SET (R349). -/
def execMaskSet (c : CoreIx) (i : Fin 32) (mask : Word) (s : State) : Out := s.putAt (.core c) .INT_MASK_SET mask c i

/-- MASK_CLEAR (R349). -/
def execMaskClear (c : CoreIx) (i : Fin 32) (mask : Word) (s : State) : Out := s.putAt (.core c) .INT_MASK_CLR mask c i

/-- MAILBOX_SEND: the write of word 0 of a channel of core `c` (R351 to R353). -/
def execMailboxSend (m : Master) (c : CoreIx) (ch : Fin 16) (v : Word) (s : State) : Out := s.putAt m .MBX_TX v 0 c (16 * ch)

/-- MAILBOX_RECEIVE: the read of word 0 by the receiving core (R354). -/
def execMailboxReceive (c : CoreIx) (ch : Fin 16) (s : State) : Out := s.getAt (.core c) .MBX_RX c ch 0

/-! ### Tenants and logs -/

/-- TENANT_RESET (R368 to R370). -/
def execTenantReset (m : Master) (t : TenIx) (s : State) : Out := s.putAt m .TEN_RST (BitVec.ofNat 32 (t.val + 256))

/-- VLOG_POP of a tenant's log, or of the requester's own view (R367). -/
def execVlogPop (m : Master) (view : Option TenIx) (s : State) : Out :=
  match view with
  | some t => s.putAt m .TEN_VLOG_POP 1 0 t
  | none => s.putAt m .TEN_MY_POP 1

/-- VLOG_SNAPSHOT_READ (R365, R367). -/
def execVlogSnapshotRead (m : Master) (view : Option TenIx) (s : State) : Out :=
  match view with
  | some t => s.getAt m .TEN_VLOG_E 0 t 0
  | none => s.getAt m .TEN_MY_E 0 0

/-- ALARM_POP (R396). -/
def execAlarmPop (m : Master) (t : TenIx) (s : State) : Out := s.putAt m .JNL_AQ_POP 1 0 t

/-- SLOG_POP (R399). -/
def execSlogPop (m : Master) (s : State) : Out := s.putAt m .JNL_SLOG_POP 1

/-- SLOG_SNAPSHOT_READ (R399). -/
def execSlogSnapshotRead (m : Master) (s : State) : Out := s.getAt m .JNL_SLOG_E

/-! ### Fabric, network, gate drivers -/

/-- LEAVE (R422). -/
def execLeave (m : Master) (ln : FabIx) (s : State) : Out := s.putAt m .FAB_LCMD 1 0 ln

/-- RESTART (R413). -/
def execRestart (m : Master) (ln : FabIx) (s : State) : Out := s.putAt m .FAB_LCMD 2 0 ln

/-- FABRIC_MAILBOX_SEND (R417). -/
def execFabricMailboxSend (m : Master) (sl : Fin 16) (v : Word) (s : State) : Out := s.putAt m .FAB_MTX v 0 sl 0

/-- TAIL_ADVANCE (R427); CAN has 16 rings. -/
def execTailAdvance (m : Master) (can : Bool) (q : Fin 64) (v : Word) (s : State) : Out :=
  checked (ringWf can q) (s.putAt m (if can then .CAN_Q_TAIL else .ETH_Q_TAIL) v 0 q)

/-- SPI_GO (R430). -/
def execSpiGo (m : Master) (p : PackIx) (k : Fin 4) (s : State) : Out := s.putAt m .SPI_CMD 1 p k

/-! ### Power and reset -/

/-- DEN (R443). -/
def execDen (m : Master) (s : State) : Out := s.putAt m .PWR_CMD 1

/-- KENNEL (R447). -/
def execKennel (m : Master) (s : State) : Out := s.putAt m .PWR_CMD 2

/-- DEVICE (R459, R460). -/
def execDevice (m : Master) (s : State) : Out := s.putAt m .PWR_RST_CMD 0x101

/-- PACK (R461, R462). -/
def execPack (m : Master) (p : PackIx) (s : State) : Out := s.putAt m .PWR_RST_CMD (BitVec.ofNat 32 (0x102 + 16 * p.val))

end Sys2Proof.Machine
end

