-- ==== Sys2Proof/Machine/Exec.lean ====
section
/-! DEFINITION. How a core executes one instruction: fetch conditions and the order of synchronous conditions (R279),
taking an exception and returning from it (R278, R261 to R263, R282 to R284), the load delay (R253, R254), hardware
loops (R257 to R259), the commit queue (R378, R379), and the journal's part in a recovery (R385, R387). -/

namespace Sys2Proof.Machine

/-! ### Bank registers -/

/-- General register `n` of a bank; g0 reads zero (R247). -/
def Bank.reg (k : Bank) (n : Nat) : Word := if n = 0 then 0 else k.g.get 0 n

/-- Write general register `n`; a write to g0 is discarded (R247). -/
def Bank.setReg (k : Bank) (n : Nat) (v : Word) : Bank := if n = 0 then k else { k with g := k.g.set 0 n v }

/-- STATUS bits (R260): gm, um, lp, fa, pgm, pum, plp, dfh. -/
def Bank.st (k : Bank) (i : Nat) : Bool := k.status.getLsbD i

/-- Set one STATUS bit. -/
def Bank.setSt (k : Bank) (i : Nat) (b : Bool) : Bank := { k with status := Fld.put ⟨.PWM_BASE, i, 1⟩ k.status b.toNat }

/-- The context or fast bank (32) that a bank of core `c` serves: the resident context of the bank. -/
def State.bankCtx (s : State) (c b : Nat) : Nat :=
  if b = 8 then 32
  else ((List.range 32).find? fun x => s.bit F.SCHED_CTX_STAT.resident c x && s.f F.SCHED_CTX_STAT.bank c x == b).getD 0

/-- Whether bank `b` owns the floating-point registers (R293). -/
def State.ownsFp (s : State) (c b : Nat) : Bool :=
  s.bit F.SCHED_FP.valid c && s.f F.SCHED_FP.owner c == s.bankCtx c b

/-- Write STATUS by an mts or a restore: um and dfh stay (R261, R267), reserved bits stay zero, and fa can become 1 only in
the bank whose context owns the registers (R293). -/
def Bank.writeStatus (k : Bank) (owns : Bool) (v : Word) : Bank :=
  { k with status := (v &&& (if owns then 0x7D else 0x75)) ||| (k.status &&& 0x82) }

/-- Write register number `n` of the numbering of `Bank` in bank `b` of core `c`; what a load or a restore delivers. -/
def State.deliverReg (s : State) (c b : Nat) (n : Nat) (v : Word) : State :=
  let k := s.bank c b
  if n < 32 then s.setBank c b (k.setReg n v)
  else if n < 64 then s.updCore c fun q => { q with f := q.f.set 0 (n - 32) v }
  else if n = 64 then s.setBank c b (k.writeStatus (s.ownsFp c b) v)
  else if n = 65 then s.setBank c b { k with epc := v &&& 0xFFFFFFFC }
  else if n = 66 then s.setBank c b { k with ecause := v &&& 0xFF }
  else if n = 67 then s.setBank c b { k with eval := v }
  else s.setBank c b { k with lp := k.lp.set 0 (n - 68) (if (n - 68) % 3 = 2 then v else v &&& 0xFFFFFFFC) }

/-- Deliver a list of waiting load values. -/
def State.deliver (s : State) (c b : Nat) : List (Nat × Word) → State
  | [] => s
  | (n, v) :: xs => State.deliver (s.deliverReg c b n v) c b xs

/-- Deliver the loads of bank `b` whose next instruction has executed. -/
def State.deliverDue (s : State) (c b : Nat) : State :=
  let xs := (s.bank c b).ldDue
  (s.setBank c b { s.bank c b with ldDue := [] }).deliver c b xs

/-- Deliver every waiting load of bank `b` (R254). -/
def State.deliverAll (s : State) (c b : Nat) : State :=
  let s1 := s.deliverDue c b
  let xs := (s1.bank c b).ldNew
  (s1.setBank c b { s1.bank c b with ldNew := [] }).deliver c b xs

/-! ### Hardware loops -/

/-- Examine loop `n` at a completed instruction `e`: the new loop registers and where to continue, if the loop branches
(R257). -/
def Bank.loopAt (k : Bank) (e : Word) (n : Nat) : Bank × Option Word :=
  let cnt := k.lp.get 0 (3 * n + 2)
  if k.st 2 && cnt != 0 && k.lp.get 0 (3 * n + 1) == e then
    if cnt = 1 then ({ k with lp := k.lp.set 0 (3 * n + 2) 0 }, none)
    else ({ k with lp := k.lp.set 0 (3 * n + 2) (cnt - 1) }, some (k.lp.get 0 (3 * n)))
  else (k, none)

/-- The loops at the instruction at `e` that completed without a transfer, loops 0, 1 and 2 examined in that order: the new loop
registers, and the start of the loop that branches, if one does (R257). -/
def Bank.wrapAt (k : Bank) (e : Word) : Bank × Option Word :=
  match k.loopAt e 0 with
  | (k0, some t) => (k0, some t)
  | (k0, none) =>
    match k0.loopAt e 1 with
    | (k1, some t) => (k1, some t)
    | (k1, none) => k1.loopAt e 2

/-- The successor of the instruction at `e` that completed without a transfer (R257). -/
def Bank.successor (k : Bank) (e : Word) : Bank × Word := ((k.wrapAt e).1, (k.wrapAt e).2.getD (e + 4))

/-- The bank after an instruction at `e` that transfers control nowhere: its pc is the successor, loops included (R257). -/
def Bank.stepped (k : Bank) (e : Word) : Bank := { (k.successor e).1 with pc := (k.successor e).2 }

/-! ### Exceptions -/

/-- STATUS at exception entry: gm, um and lp are copied to pgm, pum and plp; then gm = 1, um = 0, lp = 0 (R261). -/
def entryStatus (w : Word) : Word :=
  (w &&& 0x88) ||| 0x01 ||| ((w &&& 0x07) <<< 4)

/-- STATUS after eret: gm = pgm, um = pum, lp = plp, and dfh cleared (R263, R283). -/
def returnStatus (w : Word) : Word := (w &&& 0x78) ||| ((w >>> 4) &&& 0x07)

/-- Enter vector `v` in bank `b` of core `c`: EPC, ECAUSE and EVAL are written, STATUS changes by R261, and execution
continues at VBASE + 16·v (R278); an instruction that waited is abandoned (R276). -/
def State.enter (s : State) (c b v : Nat) (epc ecause eval : Word) : State :=
  let k := s.bank c b
  (s.setBank c b { k with epc := epc &&& 0xFFFFFFFC, ecause := ecause, eval := eval, status := entryStatus k.status,
                          pc := (s.core c).vbase + BitVec.ofNat 32 (16 * v) }).updCore c fun q => { q with shield := false, waiting := none, vecReload := none }

/-- Take a synchronous exception in the bank of the instruction that raised it (R278), with the double fault (R282) and
the third fault (R284). -/
def State.syncExc (s0 : State) (c v : Nat) (eval : Word) (fpsv : Bool := false) : State :=
  let b := s0.runBank c
  let s := s0.deliverAll c b
  let k := s.bank c b
  let cause : Word := BitVec.ofNat 32 (v + fpsv.toNat * 128)
  if k.st 7 then
    let s1 := s.alarm [s.coreTen c] 11 c 1 k.pc eval s.now
    s1.resetCore c 3
  else if k.st 0 then
    let s1 := (((s.wr .SCHED_DF_EPC k.epc c).wr .SCHED_DF_CAUSE k.ecause c).wr .SCHED_DF_VAL k.eval c).wr .SCHED_DF_STATUS k.status c
    let s2 := s1.enter c b 1 k.pc (cause ||| 0x20) eval
    s2.setBank c b ((s2.bank c b).setSt 7 true)
  else s.enter c b v k.pc cause eval

/-! ### Journal and commit queue -/

/-- The pair's private bank: its pack SRAM for a loop core, host bank c for host core c, by its own address or an alias of it (R308,
R385). -/
def privateBank (c a0 : Nat) : Bool :=
  let a := unalias a0
  if c < 8 then decide (0x10000000 + c * 0x200000 ≤ a ∧ a < 0x10000000 + (c + 1) * 0x200000)
  else decide (0x11000000 + (c - 8) * 0x200000 ≤ a ∧ a < 0x11000000 + (c - 7) * 0x200000)

/-- A load target inside the pair's private bank or the booted bank, which is not journaled (R385). -/
def notJournaled (c a : Nat) : Bool := decide (a < 0x2000000) || privateBank c a

/-- The oldest journal record that a recovery has still to take. -/
def State.replayHead (s : State) (c : Nat) : Option JRec := (s.pair (corePair c)).replay.head?

/-- Take the oldest replay record. -/
def State.replayPop (s : State) (c : Nat) : State := s.updPair (corePair c) fun k => { k with replay := k.replay.tail }

/-- A recovery of the core's pair still takes its inputs from the journal (R387). -/
def State.replaying (s : State) (c : Nat) : Bool :=
  s.recovering (corePair c) && !(s.pair (corePair c)).replay.isEmpty

/-- A byte of memory as a waiting store will leave it: a store through an alias sets or clears bits (R308). -/
def CStore.onByte (e : CStore) (a : Nat) (b : Byte) : Byte :=
  let u := unalias e.addr
  if u ≤ a ∧ a < u + e.size then BitVec.ofNat 8 (aliasVal e.addr b.toNat ((toBytes e.size e.val.toNat).getD (a - u) 0).toNat) else b

/-- The bytes of a read at `a` that stores waiting in the queue replace, oldest first (R255, R379); `a` is no alias. -/
def overlay (a n : Nat) : List CStore → List Byte → List Byte
  | [], bs => bs
  | e :: es, bs => overlay a n es ((List.range n).map fun i => e.onByte (a + i) (bs.getD i 0))

/-- The address of word 0 of a receive channel (MBX registers). -/
def mbxWord0 (a : Nat) : Bool := decide (0xE0010000 ≤ a ∧ a < 0xE0010400) && a % 0x40 == 0

/-- A load by a core: waiting stores are forwarded (R255), and a load from outside the pair's own memory is journaled or,
in a recovery, answered from the journal without reaching its target (R385, R387). -/
def State.coreLoad (s : State) (c a n : Nat) : State × Rsp :=
  let q := s.req (coreM c)
  match if s.replaying c && !notJournaled c a then s.replayHead c else none with
  | some r =>
    if r.ty = 1 then (s.replayPop c, .ok r.x)
    else if r.ty = 2 then ((s.replayPop c).updLatch (coreM c) fun l => { l with mbx := r.ws, mbxTag := r.tag }, .ok (r.ws.getD 0 0))
    else (s, .ok 0)
  | none =>
    match s.busRead q a n with
    | (s1, .ok d) =>
      let w : Word := BitVec.ofNat 32 (ofBytes (overlay (unalias a) n (s1.core c).queue (toBytes n d.toNat)))
      let s2 := if notJournaled c a then s1
        else if mbxWord0 a then
          s1.jnl (corePair c) { ty := 2, pos := s1.jpos c, a := BitVec.ofNat 32 a, tag := (s1.latch (coreM c)).mbxTag,
                                ws := (s1.latch (coreM c)).mbx }
        else s1.jnl (corePair c) { ty := 1, pos := s1.jpos c, a := BitVec.ofNat 32 a, x := w, tag := s1.now, mask := 2 ^ n - 1 }
      (s2, .ok w)
    | r => r

/-- The journal partition of the pair is full, so an instruction that needs a record stalls (R386). -/
def State.jnlFull (s : State) (c : Nat) : Bool :=
  s.paired (corePair c) && decide (jnlSize (corePair c) ≤ jnlFill (s.pair (corePair c)).jnl)

/-- An instruction that needs a journal record stalls on the full partition (R386). -/
def State.jnlStall (s : State) (c : Nat) : State := s.putPf F.PJNL_PSTAT.jstall 1 (corePair c)

/-- Perform a store that has left the core: the UNDO or OUT record of a pair, the access, and the error response that
comes back when the target refuses it (R281, R385). -/
def State.performStore (s : State) (c : Nat) (e : CStore) : State :=
  let q := { s.req (coreM c) with user := e.user, ctx := e.ctx }
  let q := { q with sec := s.secOk q.ten && !e.user }
  let r : JRec := if privateBank c e.addr then
      let w := unalias e.addr - unalias e.addr % 4
      { ty := 6, pos := s.jpos c, a := BitVec.ofNat 32 w, x := s.word w, tag := s.now }
    else { ty := 7, pos := s.jpos c, a := BitVec.ofNat 32 e.addr, x := e.val, tag := s.now, mask := 2 ^ e.size - 1 }
  let s1 := s.jnl (corePair c) r
  match s1.busWrite q e.addr e.size e.val with
  | (s2, .ok _) => s2
  | (s2, .wait _) => s2
  | (s2, _) => s2.updCore c fun k => { k with errResp := k.errResp ++ [BitVec.ofNat 32 e.addr] }

/-- A store by a core: a pair's store enters the commit queue, an unpaired host core's leaves at once (R378, R379). In a
recovery an outward store is compared with the next OUT record (R387). None: the queue is full and the store waits. -/
def State.coreStore (s : State) (c a n : Nat) (v : Word) : Option State :=
  let k := s.cur c
  let e : CStore := { addr := a, size := n, val := v, user := k.st 1, ctx := s.f F.SCHED_STAT.cur c }
  if s.paired (corePair c) then
    match if s.replaying c && !privateBank c a then s.replayHead c else none with
    | some r =>
      if r.ty = 7 ∧ r.a = BitVec.ofNat 32 a ∧ r.x = v ∧ r.mask = 2 ^ n - 1 then some (s.replayPop c)
      else some (s.mismatchCore (corePair c) true true)
    | none =>
      if 16 ≤ (s.core c).queue.length then none
      else some (s.updCore c fun q => { q with queue := q.queue ++ [e] })
  else some (s.performStore c e)

/-! ### Code that a core holds -/

/-- The lines of the vector table (R273). -/
def State.vectorLine (s : State) (c line : Nat) : Bool :=
  let b := lineOf (s.core c).vbase.toNat
  decide (b ≤ line ∧ line < b + 8)

/-- The words of a line that the core holds for fetching, by its number (R269, R274). -/
def Core.codeLine (k : Core) (line : Nat) : Option (List Word) :=
  (k.lines.lookup line).or (k.pre.bind fun e => if e.1 = line then some e.2 else none)

/-- A core takes a line to execute from: a loop core into its line buffer, a host core as the newest of 512 lines of its instruction
cache (R269, log 143). -/
def State.useLine (s : State) (c line : Nat) (ws : List Word) : State :=
  s.updCore c fun k => { k with lines := ((line, ws) :: k.lines.filter fun e => e.1 != line).take (if c < 8 then 512 else 1)
                                pre := k.pre.filter fun e => e.1 != line, codeBad := k.codeBad.filter (· != line) }

/-- A line read for execution has arrived: it is taken, and a loop core's branch-target entries that wait for it hold it (R269). -/
def State.fillLine (s : State) (c line : Nat) (ws : List Word) : State :=
  (s.useLine c line ws).updCore c fun k =>
    let fill (e : Nat × Nat × List Word) := if 8 ≤ c ∧ e.2.2 = [] ∧ lineOf e.2.1 = line then (e.1, e.2.1, ws) else e
    { k with btb := k.btb.map fill }

/-- A prefetched line has arrived: in a loop core's prefetch buffer or in a host core's cache (R269, R271). -/
def State.prefetched (s : State) (c line : Nat) (ws : List Word) : State :=
  if c < 8 then s.useLine c line ws else s.updCore c fun k => { k with pre := some (line, ws), codeBad := k.codeBad.filter (· != line) }

/-- The entries of a branch-target buffer after a taken transfer from `e` to `t`: the entry for it moves to the front, or a new one
replaces the entry least recently hit or allocated of 64 (R270). -/
def Core.btbAt (k : Core) (e t : Nat) (ws : List Word) : List (Nat × Nat × List Word) :=
  match k.btb.find? fun x => x.1 == e && x.2.1 == t with
  | some x => x :: k.btb.erase x
  | none => ((e, t, ws) :: k.btb).take 64

/-- A taken transfer or a wrap from `e` to `t` hits or allocates a branch-target entry (R270). In a loop core a hit brings the target
line, and a new entry takes the line from the core's buffers, or waits for it (R269). -/
def State.btbHit (s : State) (c : Nat) (e t : Word) : State :=
  let k := s.core c
  let line := lineOf t.toNat
  let ws := if c < 8 then [] else (k.codeLine line).getD []
  let s1 := s.updCore c fun k => { k with btb := k.btbAt e.toNat t.toNat ws }
  match k.btb.find? fun x => x.1 == e.toNat && x.2.1 == t.toNat with
  | some x => if c < 8 || x.2.2.isEmpty then s1 else s1.useLine c line x.2.2
  | none => s1

/-- The branch-target buffer where the instruction at `e` is followed by a wrap of one of the bank's loops (R257, R270). -/
def State.wrapped (s : State) (c : Nat) (k : Bank) (e : Word) : State :=
  match (k.wrapAt e).2 with
  | some t => s.btbHit c e t
  | none => s

/-- Execution is in a line: on entering it the core requests the next one, unless it holds it (R271). -/
def State.inLine (s : State) (c line : Nat) : State :=
  let k := s.core c
  if k.lineIn = some line then s
  else s.updCore c fun k => { k with lineIn := some line
                                     want := if s.vectorLine c (line + 1) || (k.codeLine (line + 1)).isSome then none else some (line + 1) }

/-- The word of a line's address. -/
def lineWord (ws : List Word) (a : Nat) : Word := ws.getD (a % 64 / 4) 0

/-- A fetch of a word from a copy that the core holds: the region still decides (R301). -/
def State.fetchHeld (s : State) (c a : Nat) (ws : List Word) : State × Rsp :=
  if s.regionOk (s.req (coreM c)) .fetch a 4 then (s.inLine c (lineOf a), .ok (lineWord ws a))
  else (s.refuse (s.req (coreM c)) .fetch a 4, .refused)

/-- A held copy of a line whose parity fails is discarded, and counts as corrected; a line of the vector buffer is loaded again (R313). -/
def State.codeParity (s : State) (c line : Nat) : State :=
  if !(s.core c).codeBad.contains line then s
  else
    let s1 := (s.elogAdd (line * 64) 6 (elogSource c) c).updCore c fun k =>
      { k with codeBad := k.codeBad.filter (· != line), lines := k.lines.filter fun e => e.1 != line,
               pre := k.pre.filter fun e => e.1 != line, vecs := k.vecs.filter fun e => e.1 != line }
    if !s1.vectorLine c line then s1
    else match s1.lineRead (s1.saveReq c) (line * 64) with
      | (s2, _, some ws) => s2.updCore c fun k => { k with vecs := (line, ws) :: k.vecs }
      | (s2, _, none) => s2

/-- The instruction fetch at the running bank's pc: the word, from the vector buffer, from a line that the core holds, or from memory with
its line; refused (vector 5); or uncorrectable or in a bad vector line (vector 6) (R269, R273, R279, R301, R313, R315). -/
def State.fetch (s0 : State) (c : Nat) : State × Rsp :=
  let a := (s0.cur c).pc.toNat
  let line := lineOf a
  let s := s0.codeParity c line
  if s.vectorLine c line then
    match (s.core c).vecs.lookup line with
    | some ws => s.fetchHeld c a ws
    | none => (s, .ue)
  else
    match (s.core c).codeLine line with
    | some ws => (s.useLine c line ws).fetchHeld c a ws
    | none =>
      if isMem a then
        match s.lineRead (s.req (coreM c)) a with
        | (s1, .ok d, some ws) => ((s1.fillLine c line ws).inLine c line, .ok d)
        | (s1, .ok d, none) => (s1.inLine c line, .ok d)
        | (s1, r, _) => (s1.updCore c fun k => { k with btb := k.btb.filter fun e => !(e.2.2.isEmpty && lineOf e.2.1 == line) }, r)
      else (s.refuse (s.req (coreM c)) .fetch a 4, .refused)

/-! ### Save areas -/

/-- The whole of a save area of `n` bytes lies in SRAM that the core's region admits, and no page of it is closed (R291, R301, R320); where
not, the access is refused and logged as a refused access is. -/
def State.areaOpen (s : State) (q : Req) (acc : AccKind) (a n : Nat) : State × Bool :=
  if !(s.regionOk q acc a n && isSram a) then (s.refuse q acc a n, false)
  else if s.pageClosedAt a then (s.elogAdd a 10 (elogSource q.mno) q.mno (retired := true), false)
  else (s, true)

/-- Words stored by the save port: those of a pair's private bank are undone by a recovery (R378, R385). -/
def State.saveWords (s : State) (c a : Nat) : List Word → State
  | [] => s
  | v :: vs =>
    let s1 := if privateBank c a then
        s.jnl (corePair c) { ty := 6, pos := s.jpos c, a := BitVec.ofNat 32 a, x := s.word a, tag := s.now }
      else s
    State.saveWords (s1.setWord a v) c (a + 4) vs

/-- Words of an area read without an uncorrectable error, with the corrections made on the way (R312, R313); otherwise the alarm of R315. -/
def State.areaRead (s : State) (q : Req) (a n : Nat) : State × Bool :=
  let (s1, good) := (List.range n).foldl (fun (x : State × Bool) i =>
    let (s', g) := x.1.eccRead (a + 4 * i) (elogSource q.mno) q.mno
    (s', x.2 && g)) (s, true)
  (if good then s1 else s1.ueAlarm q 2 a, good)

/-- The floating-point area of a context, or of the fast bank (32) (R296). -/
def State.fpArea (s : State) (c own : Nat) : Nat :=
  s.f F.SCHED_SAVE.base c * 512 + (if own = 32 then 0x4000 else 0x200 * own) + 0x100

/-- The lazy floating-point swap's save of an owner's registers to its area (R294, R296). -/
def State.fpSave (s : State) (q : Req) (c own : Nat) : State × Bool :=
  let a := s.fpArea c own
  let ws : List Word := 1 :: ((List.range 32).map fun i => (s.core c).f.get 0 i) ++ [(s.core c).fcsr] ++ List.replicate 30 0
  match s.areaOpen q .write a 256 with
  | (s1, true) => (s1.saveWords c a ws, true)
  | (s1, false) => (s1, false)

/-- The swap's restore of a context's registers from its area, or zeros where it holds none (R294, R296): the header is read first, the
other words only of a saved area. -/
def State.fpLoad (s : State) (q : Req) (c new : Nat) : State × Bool :=
  let a := s.fpArea c new
  match s.areaOpen q .read a 256 with
  | (s1, false) => (s1, false)
  | (s1, true) =>
    match s1.areaRead q a 1 with
    | (s2, false) => (s2, false)
    | (s2, true) =>
      if !(s2.word a).getLsbD 0 then (s2.updCore c fun k => { k with f := [], fcsr := 0 }, true)
      else
        match s2.areaRead q (a + 4) 33 with
        | (s3, false) => (s3, false)
        | (s3, true) =>
          (s3.updCore c fun k => { k with
            f := (List.range 32).foldl (fun m i => m.set 0 i (s3.word (a + 4 + 4 * i))) k.f
            fcsr := s3.word (a + 132) &&& 0x7F }, true)

/-- The lazy floating-point swap of R294 and R295: the owner's registers are saved and the running bank's context takes
the registers; false where a save or restore fails. -/
def State.fpSwap (s : State) (c : Nat) : State × Bool :=
  let b := s.runBank c
  let me := s.bankCtx c b
  let q := { s.req (coreM c) with user := false }
  let setFa (s : State) : State := s.setBank c b ((s.bank c b).setSt 3 true)
  if s.ownsFp c b then (setFa s, true)
  else
    let own := s.f F.SCHED_FP.owner c
    let (s1, g1) := if s.bit F.SCHED_FP.valid c then s.fpSave q c own else (s, true)
    if !g1 then (s1, false)
    else
      let (s2, g2) := s1.fpLoad q c me
      if !g2 then (s2, false)
      else
        let s3 := (List.range 9).foldl (fun s d => if s.bankCtx c d = own ∧ d ≠ b then s.setBank c d ((s.bank c d).setSt 3 false) else s) s2
        (setFa ((s3.put F.SCHED_FP.owner me c).setb F.SCHED_FP.valid c), true)

/-! ### One instruction -/

/-- What an instruction's own part answers: done, with its bank, a transfer target if it transfers control, and the
registers it loads, and whether it shields the next boundary (R263); a synchronous exception; or a wait: the instruction stands at its pc,
and, where it has started, with whether an event may abandon it (R276); an access to the debug block (log 16). -/
inductive Ires where
  | done (s : State) (k : Bank) (jump : Option Word := none) (ld : List (Nat × Word) := []) (hold : Bool := false)
  | exc (s : State) (v : Nat) (eval : Word) (fpsv : Bool := false)
  | stall (s : State) (started : Option Bool)
  | debug

/-- A core executes nothing while its pair is held in reset, while it is in Rest, and while its context waits
(R288, R394, R441). -/
def State.coreRuns (s : State) (c : Nat) : Bool :=
  !(s.core c).held && !(s.rd .PWR_STAT).getLsbD (16 + c) &&
  (s.bit F.SCHED_STAT.fast c || s.ctxState c (s.f F.SCHED_STAT.cur c) == 2)

/-- The instruction with word `w` may execute next: none other has started and waits (R269). -/
def State.mayStart (s : State) (c : Nat) (w : Word) : Bool :=
  match (s.core c).waiting with
  | some (v, _) => v == w
  | none => true

/-- The journal's PEND records up to the present position make their sources pending again in a recovery (R387). -/
def State.replayPend (s : State) (c : Nat) : State :=
  match s.replayHead c with
  | some r => if s.recovering (corePair c) && r.ty == 3 && decide (r.pos ≤ s.jpos c)
      then (s.replayPop c).putPend c r.a.toNat true else s
  | none => s

/-- Count a completed instruction and end the shield of the boundary before it; a load makes a new one (R254). -/
def State.completed (s : State) (c : Nat) (shield : Bool) : State :=
  (s.inc F.CHK_POS.pos c).updCore c fun q => { q with shield := shield, waiting := none }

/-- The end of an instruction that is done, in the state `s` after its own part: the bank continues at the target, or at the successor with
the loops examined (R257); its loads follow those of its predecessor by one instruction (R253). -/
def State.finish (s : State) (c b : Nat) (k : Bank) (jump : Option Word) (a : Word) (old ld : List (Nat × Word)) (hold : Bool) : State :=
  let s1 := match jump with
    | some _ => s
    | none => s.wrapped c k a
  let k1 := match jump with
    | some t => { k with pc := t }
    | none => k.stepped a
  (s1.setBank c b { k1 with ldNew := ld, ldDue := old }).completed c (hold || !ld.isEmpty)

/-- A core executes one instruction whose word is `w`: the fetch, and where the word at the pc is another the instruction does not occur
(logs 5, 9); then reserved encoding, privilege, floating point, and the instruction's own part (R279). Registers it loads reach the bank
after the next instruction (R253). -/
def State.instr (s0 : State) (c : Nat) (w : Word) (illegal priv fp : Bool) (body : State → Bank → Ires) : Out :=
  if !s0.coreRuns c || !s0.mayStart c w then ok s0
  else
    let b := s0.runBank c
    let s1 := (s0.replayPend c).deliverDue c b
    let old := (s1.bank c b).ldNew
    match s1.fetch c with
    | (s2, .refused) => ok (s2.syncExc c 5 (s2.cur c).pc)
    | (s2, .ue) => ok (s2.syncExc c 6 (s2.cur c).pc)
    | (_, .wait _) => ok s0
    | (s2, .ok d) =>
      if d ≠ w then ok s0
      else if illegal then ok (s2.syncExc c 2 w)
      else if priv && (s2.bank c b).st 1 then ok (s2.syncExc c 3 w)
      else
        let sw := if fp && !(s2.bank c b).st 3 then
            if b = 8 || s2.bit F.SCHED_CTX.fp c (s2.bankCtx c b) then s2.fpSwap c else (s2, false)
          else (s2, true)
        let tried := b == 8 || s2.bit F.SCHED_CTX.fp c (s2.bankCtx c b)
        if !sw.2 then ok (sw.1.syncExc c 9 w tried)
        else
          match body sw.1 (sw.1.bank c b) with
          | .stall s3 started => ok (s3.updCore c fun q => { q with waiting := started.map fun ab => (w, ab) })
          | .debug => .refused .debugBlock
          | .exc s3 v ev fpsv => ok (s3.syncExc c v ev fpsv)
          | .done s3 k jump ld hold => ok (s3.finish c b k jump (s0.cur c).pc old ld hold)

end Sys2Proof.Machine
end

