-- ==== Sys2Proof/Machine/Operands.lean ====
section
/-! DEFINITION. The operand forms of a core's instructions (R248, R249): the words of the five formats, effective addresses and
the extension of loaded data. -/

namespace Sys2Proof.Machine

/-! ### Instruction words (R249) -/

/-- An R-format word. -/
def encR (op rd ra rb sh fn : Nat) : Word := BitVec.ofNat 32 (op * 2 ^ 26 + rd * 2 ^ 21 + ra * 2 ^ 16 + rb * 2 ^ 11 + sh * 2 ^ 6 + fn)

/-- An I-format word. -/
def encI (op rd ra : Nat) (imm : BitVec 16) : Word := BitVec.ofNat 32 (op * 2 ^ 26 + rd * 2 ^ 21 + ra * 2 ^ 16 + imm.toNat)

/-- An L-format word. -/
def encL (op n rc : Nat) (off : BitVec 16) : Word := BitVec.ofNat 32 (op * 2 ^ 26 + n * 2 ^ 24 + rc * 2 ^ 16 + off.toNat)

/-- An LI-format word. -/
def encLI (op n : Nat) (cnt : BitVec 10) (off : BitVec 14) : Word := BitVec.ofNat 32 (op * 2 ^ 26 + n * 2 ^ 24 + cnt.toNat * 2 ^ 14 + off.toNat)

/-- An S-format word. -/
def encS (code fn : Nat) : Word := BitVec.ofNat 32 (0x17 * 2 ^ 26 + code * 2 ^ 6 + fn)

/-! ### Addresses and data -/

/-- The effective address ra + imm (s). -/
def Bank.ea (k : Bank) (ra : RegIx) (imm : BitVec 16) : Word := k.reg ra + imm.signExtend 32

/-- The low `n` bytes of a word, sign- or zero-extended. -/
def extend (n : Nat) (sx : Bool) (d : Word) : Word :=
  if n = 1 then (if sx then (d.setWidth 8).signExtend 32 else (d.setWidth 8).setWidth 32)
  else if n = 2 then (if sx then (d.setWidth 16).signExtend 32 else (d.setWidth 16).setWidth 32)
  else d

end Sys2Proof.Machine
end

