-- ==== Sys2Proof/Machine/LoadStore.lean ====
section
/-! DEFINITION. Loads and stores of a core (R253 to R255, R278) and the delivery of load data. -/

namespace Sys2Proof.Machine

/-- A load of `n` bytes to register number `dst` (32 to 63 for f registers), extended from `n` bytes with sign or zeros: alignment, then refused or
uncorrectable, with the destination unchanged (R254, R279); the debug block is refused by name (log 16); a load through a fabric window waits until its response, which no event cuts short (R276, R416). -/
def State.load (s : State) (c : CoreIx) (w : Word) (fp : Bool) (dst : Nat) (ra : RegIx) (imm : BitVec 16) (n : Nat)
    (sx : Bool) : Out :=
  s.instr c w false false fp fun s k =>
    let a := k.ea ra imm
    if a.toNat % n ≠ 0 then .exc s 4 a
    else if debugAccess (.core c) a.toNat then .debug
    else if s.jnlFull c && !notJournaled c a.toNat then .stall (s.jnlStall c) none
    else
      match s.coreLoad c a.toNat n with
      | (s1, .ok d) => .done s1 k none [(dst, extend n sx d)]
      | (s1, .wait _) => .stall s1 (some false)
      | (s1, .refused) => .exc s1 7 a
      | (s1, .ue) => .exc s1 8 a

/-- ldw: the word at ra + imm. -/
def execLdw (c : CoreIx) (rd ra : RegIx) (imm : BitVec 16) (s : State) : Out :=
  s.load c (encI 0x08 rd ra imm) false rd ra imm 4 false

/-- ldh: a halfword, sign-extended. -/
def execLdh (c : CoreIx) (rd ra : RegIx) (imm : BitVec 16) (s : State) : Out :=
  s.load c (encI 0x09 rd ra imm) false rd ra imm 2 true

/-- ldhu: a halfword, zero-extended. -/
def execLdhu (c : CoreIx) (rd ra : RegIx) (imm : BitVec 16) (s : State) : Out :=
  s.load c (encI 0x0A rd ra imm) false rd ra imm 2 false

/-- ldb: a byte, sign-extended. -/
def execLdb (c : CoreIx) (rd ra : RegIx) (imm : BitVec 16) (s : State) : Out :=
  s.load c (encI 0x0B rd ra imm) false rd ra imm 1 true

/-- ldbu: a byte, zero-extended. -/
def execLdbu (c : CoreIx) (rd ra : RegIx) (imm : BitVec 16) (s : State) : Out :=
  s.load c (encI 0x0C rd ra imm) false rd ra imm 1 false

/-- flw: a word into fd. -/
def execFlw (c : CoreIx) (fd ra : RegIx) (imm : BitVec 16) (s : State) : Out :=
  s.load c (encI 0x1C fd ra imm) true (32 + fd) ra imm 4 false

/-- LOAD_DATA_RETURN: the loads whose next instruction has executed are written to their registers (R253). -/
def execLoadDataReturn (c : CoreIx) (s : State) : Out := ok (s.deliverDue c (s.runBank c))

/-- A store of the `n` low bytes of a value (R250, R276, R378): alignment, then the commit queue; it waits while the queue
or the journal is full. -/
def State.store (s : State) (c : CoreIx) (w : Word) (fp : Bool) (ra : RegIx) (imm : BitVec 16) (n : Nat)
    (v : State → Bank → Word) : Out :=
  s.instr c w false false fp fun s k =>
    let a := k.ea ra imm
    if a.toNat % n ≠ 0 then .exc s 4 a
    else if debugAccess (.core c) a.toNat then .debug
    else if s.jnlFull c then .stall (s.jnlStall c) none
    else
      match s.coreStore c a.toNat n (BitVec.ofNat 32 ((v s k).toNat % 2 ^ (8 * n))) with
      | some s1 => .done s1 k
      | none => .stall s (some true)

/-- stw: the word of register rd. -/
def execStw (c : CoreIx) (rd ra : RegIx) (imm : BitVec 16) (s : State) : Out :=
  s.store c (encI 0x0D rd ra imm) false ra imm 4 fun _ k => k.reg rd

/-- sth: the low half of register rd. -/
def execSth (c : CoreIx) (rd ra : RegIx) (imm : BitVec 16) (s : State) : Out :=
  s.store c (encI 0x0E rd ra imm) false ra imm 2 fun _ k => k.reg rd

/-- stb: the low byte of register rd. -/
def execStb (c : CoreIx) (rd ra : RegIx) (imm : BitVec 16) (s : State) : Out :=
  s.store c (encI 0x0F rd ra imm) false ra imm 1 fun _ k => k.reg rd

/-- fsw: the word of fd. -/
def execFsw (c : CoreIx) (fd ra : RegIx) (imm : BitVec 16) (s : State) : Out :=
  s.store c (encI 0x1D fd ra imm) true ra imm 4 fun s _ => (s.core c).f.get 0 fd

/-- STORE_CONFIRM: the oldest confirmed store leaves the commit queue and is performed (R378). -/
def execStoreConfirm (c : CoreIx) (s : State) : Out :=
  match (s.core c).queue with
  | [] => ok s
  | e :: es => ok ((s.updCore c fun q => { q with queue := es }).performStore c e)

end Sys2Proof.Machine
end

