-- ==== Sys2Proof/Machine/CmdCore.lean ====
section
/-! DEFINITION. The commands of cores, memory, DMA, leash channels, tenants, littermates and the record port that are neither an
instruction nor a register access. -/

namespace Sys2Proof.Machine

/-! ### Littermates -/

/-- Every store in a core's commit queue is confirmed and performed, oldest first; a queue holds 16 (R378, log 17). -/
def State.drainQueue (s : State) (c : Nat) : Nat → State
  | 0 => s
  | n + 1 =>
    match (s.core c).queue with
    | [] => s
    | e :: es => State.drainQueue ((s.updCore c fun q => { q with queue := es }).performStore c e) c n

/-- A forced checkpoint is due: 75 % of the journal's records, or 2^27 instructions (R383). -/
def State.forcedDue (s : State) (c : Nat) : Bool :=
  let n := corePair c
  decide (3 * jnlSize n ≤ 4 * s.pf F.PJNL_PFILL.fill n ∨ 2 ^ 27 ≤ s.jpos c)

/-- A checkpoint of a core pair that is due, deferred during a recovery (R384). -/
def State.ckptNow (s : State) (c : Nat) (forced : Bool) : State :=
  let n := corePair c
  if s.recovering n then (s.putPf F.PJNL_PSTAT.late_ckpt 1 n).updPair n fun k => { k with deferred := true }
  else (s.drainQueue c 16).takeCkpt c forced

/-- A checkpoint of a core pair at an instruction boundary, with none that waits in progress: a forced one where R383 asks for it, a loop
core's after a base boundary, a host core's interval µs after its last (R382, log 146). -/
def State.checkpoint (s : State) (c : Nat) (forced : Bool) : State :=
  let n := corePair c
  if !s.paired n || (s.core c).held || s.pf F.PJNL_PSTAT.failed n != 0 || (s.core c).waiting.isSome || (s.core c).win.isSome then s
  else if forced then (if s.forcedDue c then s.ckptNow c true else s)
  else if c < 8 then s.atTag ((s.pair n).ckAt + BitVec.ofNat 64 (16000 * s.f F.CHK_CTL.interval c)) fun s => s.ckptNow c false
  else if (s.pair n).due then s.ckptNow c false
  else s

/-- CHECKPOINT (R382 to R384). -/
def execCheckpoint (c : CoreIx) (forced : Bool) (s : State) : Out := ok (s.checkpoint c forced)

/-- MISMATCH: a comparator of a pair that runs as one reports (R373 to R375, R381, R387 to R394). -/
def execMismatch (n : Fin 16) (cmpA cmpB : Bool) (s : State) : Out :=
  let live := s.paired n && s.pf F.PJNL_PSTAT.failed n == 0 && (cmpA || cmpB)
  ok (s.when_ live fun s =>
    if n.val < 4 then s.mismatchEng n cmpA cmpB
    else if (s.core (pairCore n)).held then s else s.mismatchCore n cmpA cmpB)

/-- A core pair whose re-execution has passed the last record is live again, and takes a deferred checkpoint (R384, R387). -/
def State.recoverCore (s : State) (n : Nat) : State :=
  if s.recovering n && (s.pair n).replay.isEmpty then
    let s1 := s.endRecovery n
    if (s1.pair n).deferred then s1.ckptNow (pairCore n) false else s1
  else s

/-- RECOVERY_DONE (R387, R388). -/
def execRecoveryDone (n : Fin 16) (s : State) : Out := ok (if n.val < 4 then s.recoverEng n else s.recoverCore n)

/-- REST_ENTRY (R442). -/
def execRestEntry (c : CoreIx) (s : State) : Out := ok (s.restIn c)

/-- REST_EXIT (R442). -/
def execRestExit (c : CoreIx) (s : State) : Out := ok (s.restOut c)

/-! ### Coherence -/

/-- READ_MISS: host core `c` misses on the line of an address (R299, R327). -/
def execReadMiss (c : Fin 8) (line : Word) (s : State) : Out :=
  ok (s.when_ (cached line.toNat) fun s => s.readMissAt c (lineOf line.toNat))

/-- OWNERSHIP_REQUEST of host core `c`, and of a rival in the same instant: a third cache's writeback comes first, then the
arbiter grants one request before the other (R327, R328, log 25). -/
def execOwnershipRequest (c : Fin 8) (rival : Option (Fin 8)) (line : Word) (s : State) : Out :=
  let ln := lineOf line.toNat
  ok (s.when_ (cached line.toNat) fun s =>
    match rival with
    | none => s.ownLine c ln
    | some d =>
      let s1 : State := { s with free := s.free + 1 }
      if Config.arbiter s.free then (s1.ownLine c ln).ownLine d ln else (s1.ownLine d ln).ownLine c ln)

/-- EVICTION of a line from host core `c`'s cache (R327). -/
def execEviction (c : Fin 8) (line : Word) (s : State) : Out := ok (s.evictLine c (lineOf line.toNat))

/-! ### Memory control -/

/-- INIT_DONE (R311). -/
def execInitDone (s : State) : Out := ok s.initDone

/-- SCRUB_READ of the word or line at an address (R316, R317). -/
def execScrubRead (a : Word) (s : State) : Out := ok (s.scrubRead a.toNat)

/-- PAGE_CLOSED (R320). -/
def execPageClosed (s : State) : Out := ok s.pageClose

/-- NV_COMMAND_DONE (R322 to R326). -/
def execNvCommandDone (verifyFails : Bool) (s : State) : Out := ok (s.nvDone verifyFails)

/-! ### DMA, slots, leash channels -/

/-- DMA_START by a register command, a leash event, or a scheduled action (R53, R333). -/
def execDmaStart (k : DmaIx) (cause : DmaCause) (s : State) : Out :=
  match cause with
  | .command m => s.putAt m .DMA_CMD 1 0 k
  | .leash => ok (s.when_ (s.f F.DMA_CTL.trig 0 k == 1) fun s => (s.dmaStart k).1)
  | .slot n => ok (s.slotDma n k).1

/-- DMA_BURST (R333 to R335). -/
def execDmaBurst (k : DmaIx) (s : State) : Out := ok (s.dmaBurst k)

/-- SLOT_FIRE (R52 to R58). -/
def execSlotFire (n : SlotIx) (s : State) : Out := ok (s.slotFire n)

/-- SLOT_REFUSAL (R53). -/
def execSlotRefusal (n : SlotIx) (s : State) : Out := ok (s.slotRefusal n)

/-- LEASH_EVENT_DELIVERY (R339 to R345). -/
def execLeashEventDelivery (g : Fin 320) (s : State) : Out := ok (s.leashDeliver g)

/-! ### Tenants and the record port -/

/-- TENANT_RESET_DONE (R370). -/
def execTenantResetDone (t : TenIx) (s : State) : Out := ok (s.tenResetDone t)

/-- The eight words of an alarm entry (R396). -/
def alarmWords (e : LogRec) : List Word := [e.a, e.count, e.first.lo, e.first.hi, e.last.lo, e.last.hi, e.c, e.d]

/-- The record port copies an alarm entry to its place in the tenant's ring, by uncached writes (R327, R396). -/
def State.alarmCopy (s : State) (t ring : Nat) : State :=
  let i := (ring + 64 - s.f F.JNL_AQ_STAT.head 0 t) % 64
  match (s.aq t)[i]? with
  | none => s
  | some e =>
    let a := s.f F.TEN_AQ.aq_base 0 t * 2048 + 32 * ring
    if isSram a then ((s.recall (lineOf a)).setWords a (alarmWords e)) else s

/-- RECORD_PORT_WRITE: alarms, then journal records, then log entries, then trace (R400). -/
def State.portWrite (s : State) : State :=
  match s.log.aqPort, s.log.jnlPort, s.log.staged with
  | (t, r) :: es, _, _ => ({ s with log := { s.log with aqPort := es } } : State).alarmCopy t r
  | [], _ :: js, _ => { s with log := { s.log with jnlPort := js } }
  | [], [], (lg, r) :: ls => ({ s with log := { s.log with staged := ls } } : State).enterLog lg r
  | [], [], [] => s.tracePut

/-- RECORD_PORT_WRITE (R400). -/
def execRecordPortWrite (s : State) : Out := ok s.portWrite

/-! ### Images -/

/-- STAGING_DONE (R236). -/
def execStagingDone (s : State) : Out := ok s.stagingDone

/-- BANK_COMMAND_DONE (R232). -/
def execBankCommandDone (s : State) : Out := ok s.bankDone

/-- RECOVERY_IMAGE (R465). -/
def execRecoveryImage (a len : Word) (s : State) : Out := ok (s.recoveryImage a.toNat len.toNat)

end Sys2Proof.Machine
end

