-- ==== Sys2Proof/Machine/CmdField.lean ====
section
/-! DEFINITION. The commands of the field die that are no register access: acquisition, position feedback, the generator and its
sequences, comparators, muzzle and thermal limits. An event whose condition does not hold does not occur (log 5). What the pack
timebase clocks stands still while its clock is absent (R20, R117, R183). -/

namespace Sys2Proof.Machine

/-- An event in the pack timebase domain of the field die: nothing while the forwarded clock is absent (R20). The SARs, decimators and
fast paths have clocks of their own (C05 to C12). -/
def State.clocked (s : State) (p : Nat) (f : State → State) : State := s.when_ (s.bit F.PWM_STATUS.clk_ok p) f

/-- The acquisition's own clocks run: not in Den or Kennel (R443, R444). -/
def State.acqClocked (s : State) (f : State → State) : State := s.when_ (!s.pwr.past && s.pwr.mode != 2 && s.pwr.mode != 3) f

/-- The generator of a leg that belongs to a set whose counter runs (R155, R183). -/
def State.generates (s : State) (p l : Nat) (f : Nat → State → State) : State :=
  match s.setOfLeg p l with
  | some x => (s.when_ (s.bit F.PWM_SET_STAT.cnt_run p x && !(s.pset p x).restart && s.bit F.PWM_STATUS.clk_ok p)) (f x)
  | none => s

/-! ### Acquisition -/

/-- SAMPLE_HOLD (R64, R67, R70). -/
def execSampleHold (p : PackIx) (e : Fin 32) (s : State) : Out := ok (s.clocked p fun s => s.sampleHold p e)

/-- CONVERSION_END (R66, R74, R75). -/
def execConversionEnd (p : PackIx) (sar : Fin 4) (code : BitVec 16) (s : State) : Out := ok (s.acqClocked fun s => s.convEnd p sar code)

/-- RECONVERSION_END (R76). -/
def execReconversionEnd (p : PackIx) (sar : Fin 4) (code : BitVec 16) (s : State) : Out :=
  ok (s.acqClocked fun s => s.reconEnd p sar code)

/-- SAMPLE_ROUTER_DELIVERY (R82). -/
def execSampleRouterDelivery (p : PackIx) (s : State) : Out := ok (s.routerDeliver p)

/-- SELFCAL_DONE (R77). -/
def execSelfcalDone (p : PackIx) (good : Bool) (s : State) : Out := ok (s.selfcalEnd p good)

/-- The last bits of a window of the length that a sinc filter of order `k` and ratio `n` takes. -/
def lastBits (k n : Nat) (bits : List Bool) : List Bool := bits.drop (bits.length - sincLen k n)

/-- DECIMATOR_OUTPUT (R86 to R88): `bits` ends with the window of the filter. -/
def execDecimatorOutput (p : PackIx) (n : Fin 8) (bits : List Bool) (s : State) : Out :=
  let k := s.sdmN p n
  let osr := s.f F.SDM_FLT.osr p n
  checked (bitsWf bits && (!s.bit F.SDM_CH.en p n || decide (sincLen k osr ≤ bits.length)))
    (ok (s.acqClocked fun s => s.decimOut p n (lastBits k osr bits)))

/-- FAST_PATH_OUTPUT (R89): `bits` ends with the window of the filter. -/
def execFastPathOutput (p : PackIx) (n : Fin 8) (bits : List Bool) (s : State) : Out :=
  let k := max 1 (s.f F.SDM_FLT.f_order p n)
  let osr := s.f F.SDM_FLT.f_osr p n
  checked (bitsWf bits && (!(s.bit F.SDM_CH.en p n && s.bit F.SDM_FLT.f_en p n) || decide (sincLen k osr ≤ bits.length)))
    (ok (s.acqClocked fun s => s.fastOut p n (lastBits k osr bits)))

/-- MODULATOR_STUCK (R90). -/
def execModulatorStuck (p : PackIx) (n : Fin 8) (s : State) : Out := ok (s.acqClocked fun s => s.stuck p n)

/-- STUCK_CLEAR (R90). -/
def execStuckClear (p : PackIx) (n : Fin 8) (s : State) : Out := ok (s.acqClocked fun s => s.unstick p n)

/-- RESOLVER_HOLD of a pair of polarity `pol` (R92). -/
def execResolverHold (p : PackIx) (r : Fin 2) (pol : Bool) (s : State) : Out := ok (s.clocked p fun s => s.rsvHold p r pol)

/-! ### Position feedback -/

/-- The field die is powered: its pins are classified, its comparators and protection inputs sampled, outside Kennel (R444, R447). -/
def State.fieldOn (s : State) (f : State → State) : State := s.when_ (s.pwr.mode != 3) f

/-- POSITION_EDGE: a transition of a pin's class and those that follow it (R97 to R104, R118). -/
def execPositionEdge (p : PackIx) (i : Fin 6) (e : Tag × Fin 3 × PinClass) (more : List (Tag × Fin 3 × PinClass)) (s : State) : Out :=
  ok (s.fieldOn fun s => s.posEdge p i (e :: more))

/-- STANDSTILL_TIMEOUT (R113). -/
def execStandstillTimeout (p : PackIx) (i : Fin 6) (s : State) : Out := ok (s.clocked p fun s => s.standstill p i)

/-- POSITION_LATCH (R111, R115, R116). -/
def execPositionLatch (p : PackIx) (i : Fin 6) (s : State) : Out := ok (s.clocked p fun s => s.posLatch p i)

/-- The number of a pin diagnostic in POS_DSTAT. -/
def diagIx : PinDiag → Nat
  | .open_ => 0
  | .bat => 1
  | .neg => 2
  | .stuck => 3

/-- PIN_DIAGNOSTIC (R119). -/
def execPinDiagnostic (p : PackIx) (i : Fin 6) (k : Fin 3) (d : PinDiag) (s : State) : Out :=
  ok (s.fieldOn fun s => s.pinDiag p i k (diagIx d))

/-- PIN_DIAGNOSTIC_CLEAR (R119). -/
def execPinDiagnosticClear (p : PackIx) (i : Fin 6) (k : Fin 3) (d : PinDiag) (s : State) : Out :=
  ok (s.fieldOn fun s => s.pinClear p i k (diagIx d))

/-- SENSOR_SUPPLY_SHORT of an output, whose load is beyond the limit or has gone (R121). -/
def execSensorSupplyShort (e : Fin 8 × Bool) (s : State) : Out := ok (s.sensShort e.1 e.2)

/-- SENSOR_SUPPLY_RETRY (R121). -/
def execSensorSupplyRetry (n : Fin 8) (s : State) : Out := ok (s.sensRetry n)

/-- SENSOR_REVERSE_BLOCK (R121). -/
def execSensorReverseBlock (n : Fin 8) (s : State) : Out := ok (s.sensExt n)

/-- SENSOR_UNDERVOLTAGE (R121). -/
def execSensorUndervoltage (n : Fin 8) (s : State) : Out := ok (s.sensUv n)

/-- EMULATOR_EDGE (R123). -/
def execEmulatorEdge (p : PackIx) (s : State) : Out := ok (s.clocked p fun s => s.emuEdge p)

/-! ### Pulse-width modulation -/

/-- CARRIER_START (R155, R163, R166, R176). -/
def execCarrierStart (p : PackIx) (l : LegIx) (s : State) : Out := ok (s.generates p l fun x s => s.carrierAt p x l)

/-- PWM_EDGE (R161, R164, R167, R177). -/
def execPwmEdge (p : PackIx) (l : LegIx) (high : Bool) (s : State) : Out := ok (s.generates p l fun x s => s.pwmEdge p x l high)

/-- DEAD_TIME_EXPIRY (R165); the guard runs on through the loss of the clock (R183). -/
def execDeadTimeExpiry (p : PackIx) (l : LegIx) (s : State) : Out := ok (s.deadTimeEnd p l)

/-- BLANKING_END (R177): the timer runs wherever a turn-on started it, on the standby oscillator too. -/
def execBlankingEnd (p : PackIx) (l : LegIx) (s : State) : Out := ok (s.when_ (s.pleg p l).blank fun s => s.blankEnd p l)

/-- PEAK_THRESHOLD_STEP (R176), while a pulse of peak current mode runs. -/
def execPeakThresholdStep (p : PackIx) (l : LegIx) (s : State) : Out :=
  ok (s.generates p l fun x s => s.when_ (s.f F.PWM_SET_CTL.mode p x == 3 && (s.pleg p l).edges) fun s => s.pcmStep p l)

/-- SEQUENCE_DWELL_END of a set or of a leg (R179, R181); the dwell timers run on through the loss of the clock (R183). -/
def execSequenceDwellEnd (p : PackIx) (who : SeqRef) (s : State) : Out :=
  match who with
  | .set x => ok (s.setDwellEnd p x)
  | .leg l => ok (s.legDwellEnd p l)

/-- MASK_EVENT (R173, R174). -/
def execMaskEvent (p : PackIx) (x : SetIx) (t : Tag) (state : BitVec 3) (s : State) : Out := ok (s.maskEventAt p x t state.toNat)

/-- MASK_EVENT_APPLY (R173). -/
def execMaskEventApply (p : PackIx) (x : SetIx) (s : State) : Out := ok (s.clocked p fun s => s.maskDue p x)

/-! ### Comparators, muzzle, thermal limits -/

/-- COMPARATOR_LEVEL_CHANGE: a transition of a raw output and those that follow it (R187 to R190, R202). -/
def execComparatorLevelChange (p : PackIx) (n : Fin 16) (isU : Bool) (e : Tag × Bool) (more : List (Tag × Bool)) (s : State) : Out :=
  ok (s.fieldOn fun s => s.cmpFeed p n isU (e :: more))

/-- READBACK_DONE (R193, R194). -/
def execReadbackDone (p : PackIx) (codes : List (BitVec 16 × BitVec 16)) (s : State) : Out :=
  checked (codesWf codes) (ok (s.readbackEnd p codes))

/-- CHECK_WINDOW_OPEN (R195, R198). -/
def execCheckWindowOpen (p : PackIx) (n : Fin 16) (s : State) : Out := ok (s.chkOpen p n)

/-- CHECK_WINDOW_END with filtered levels `u` and `l` (R196, R197). -/
def execCheckWindowEnd (p : PackIx) (n : Fin 16) (u l : Bool) (s : State) : Out := ok (s.chkEnd p n u l)

/-- CHECK_RESTORE_END (R195). -/
def execCheckRestoreEnd (p : PackIx) (n : Fin 16) (s : State) : Out := ok (s.chkRestore p n)

/-- PROTECTION_INPUT_CHANGE: a transition of a pin's class and those that follow it (R118, R200). -/
def execProtectionInputChange (p : PackIx) (l : LegIx) (low : Bool) (e : Tag × PinClass) (more : List (Tag × PinClass)) (s : State) : Out :=
  ok (s.fieldOn fun s => s.protFeed p l low (e :: more))

/-- INCIDENT_WINDOW_END (R210). -/
def execIncidentWindowEnd (p : PackIx) (s : State) : Out := ok (s.incidentEnd p)

/-- A thermal sensor runs: those of the core die not in Den, and none in Kennel (R212). -/
def State.thmRuns (s : State) (i : Nat) : Bool := s.pwr.mode != 3 && (decide (8 ≤ i) || s.pwr.mode != 2)

/-- THERMAL_SAMPLE (R212 to R214). -/
def execThermalSample (i : Fin 12) (temp : BitVec 12) (s : State) : Out := ok (s.when_ (s.thmRuns i) fun s => s.thmSample i temp)

/-- THERMAL_SENSOR_TIMEOUT (R216). -/
def execThermalSensorTimeout (i : Fin 12) (s : State) : Out := ok (s.when_ (s.thmRuns i) fun s => s.thmTimeout i)

end Sys2Proof.Machine
end

