-- ==== Sys2Proof/Machine/CmdNet.lean ====
section
/-! DEFINITION. The commands of the die-to-die links, of time, of the fabric and the network, and of power and reset that are no
register access. -/

namespace Sys2Proof.Machine

/-! ### Die-to-die links -/

/-- FIELD_LINK_LOSS (R26, R27). -/
def execFieldLinkLoss (s : State) : Out := ok (s.dieLost .field)

/-- MEMORY_LINK_LOSS (R26, R28). -/
def execMemoryLinkLoss (s : State) : Out := ok (s.dieLost .memory)

/-- D2D_TRANSFER_RETRY (R26). -/
def execD2dTransferRetry (l : DieLink) (s : State) : Out := ok (s.dieRetry l)

/-- D2D_IDLE_TIMEOUT: nothing valid for 500 ns (R26). -/
def execD2dIdleTimeout (l : DieLink) (s : State) : Out := ok (s.dieLost l)

/-- D2D_RETRAIN_DONE (R26). -/
def execD2dRetrainDone (l : DieLink) (s : State) : Out := ok (s.dieRetrained l)

/-- D2D_RETRAIN_TIMEOUT (R26). -/
def execD2dRetrainTimeout (l : DieLink) (s : State) : Out := ok (s.dieFailed l)

/-! ### Time -/

/-- TSYNC (R38, R39, R421, R486). -/
def execTsync (ln : FabIx) (domain : Byte) (gm : Tag) (s : State) : Out := ok ((s.tsyncIn ln domain gm).drainGoes ln)

/-- SYNC_LOSS_TIMEOUT (R38, R486). -/
def execSyncLossTimeout (s : State) : Out := ok s.syncLoss

/-- AO_SHADOW_COPY (R44). -/
def execAoShadowCopy (s : State) : Out := ok s.aoCopy

/-! ### Fabric frames -/

/-- RD (R414, R415). -/
def execRdFrame (ln : FabIx) (f : Frame) (s : State) : Out := checked f.wf (ok ((s.rdIn ln f).drainGoes ln))

/-- RDR (R416). -/
def execRdrFrame (ln : FabIx) (f : Frame) (s : State) : Out := checked f.wf (ok ((s.rdrIn ln f).drainGoes ln))

/-- WR (R414, R415). -/
def execWrFrame (ln : FabIx) (f : Frame) (s : State) : Out := checked f.wf (ok ((s.wrIn ln f).drainGoes ln))

/-- WRA (R416). -/
def execWraFrame (ln : FabIx) (f : Frame) (s : State) : Out := checked f.wf (ok ((s.wraIn ln f).drainGoes ln))

/-- MBX (R418). -/
def execMbxFrame (ln : FabIx) (f : Frame) (s : State) : Out := checked f.wf (ok ((s.mbxIn ln f).drainGoes ln))

/-- MBXA (R417, R418). -/
def execMbxaFrame (ln : FabIx) (f : Frame) (s : State) : Out := checked f.wf (ok ((s.mbxaIn ln f).drainGoes ln))

/-- ETH (R425, R426). -/
def execEthFrame (ln : FabIx) (f : Frame) (s : State) : Out := checked f.wf (ok ((s.ethFrameIn ln f).drainGoes ln))

/-- JOIN (R419 to R421). -/
def execJoinFrame (ln : FabIx) (f : Frame) (i : JoinInfo) (s : State) : Out := checked f.wf (ok ((s.joinIn ln f i).drainGoes ln))

/-- LEAVE (R422). -/
def execLeaveFrame (ln : FabIx) (f : Frame) (s : State) : Out := checked f.wf (ok ((s.leaveIn ln f).drainGoes ln))

/-- NAK (R411). -/
def execNakFrame (ln : FabIx) (f : Frame) (s : State) : Out := checked f.wf (ok (s.nakIn ln f))

/-- IDLE (R408). -/
def execIdleFrame (ln : FabIx) (f : Frame) (s : State) : Out := checked f.wf (ok (s.idleIn ln f))

/-! ### Fabric links -/

/-- REPLAY_TIMEOUT: the oldest unacked frame has waited 2 µs (R411). -/
def execReplayTimeout (ln : FabIx) (s : State) : Out :=
  ok ((s.replayDue ln).drainGoes ln)

/-- SIGNAL_DETECT (R413). -/
def execSignalDetect (ln : FabIx) (s : State) : Out := ok (s.signalSeen ln)

/-- TRAINING_DONE (R403, R413). -/
def execTrainingDone (ln : FabIx) (polInv : Bool) (s : State) : Out := ok (s.trained ln polInv)

/-- LINK_SIGNAL_LOSS, from TRAIN on (R413). -/
def execLinkSignalLoss (ln : FabIx) (s : State) : Out := ok (s.loseFrom 1 ln)

/-- LINK_FRAME_TIMEOUT, from IDENT on (R413). -/
def execLinkFrameTimeout (ln : FabIx) (s : State) : Out := ok (s.silent ln)

/-- REQUEST_TIMEOUT (R416). -/
def execRequestTimeout (ln : FabIx) (txid : BitVec 12) (s : State) : Out := ok (s.reqTimeout ln txid.toNat)

/-- DRAIN_TIMEOUT (R422). -/
def execDrainTimeout (ln : FabIx) (s : State) : Out := ok (s.drainOver ln)

/-- UNCORRECTABLE_CODEWORD (R404, R411). -/
def execUncorrectableCodeword (ln : FabIx) (s : State) : Out := ok (s.badCodeword ln)

/-! ### Ethernet, CAN, gate drivers -/

/-- ETHERNET_FRAME_RECEIVE at a switch port (R425). -/
def execEthernetFrameReceive (port : Fin 22) (f : NetFrame) (s : State) : Out :=
  ok (s.switchIn port f.dst f.vid.toNat f.bytes f.fcsOk f.tag)

/-- FRAME_LAUNCH (R427, R428). -/
def execFrameLaunch (can : Bool) (q : Fin 64) (s : State) : Out := checked (ringWf can q) (ok (s.launch can q))

/-- CAN_FRAME_RECEIVE (R427 to R429). -/
def execCanFrameReceive (k : Fin 8) (f : NetFrame) (s : State) : Out := ok (s.canIn k f)

/-- CAN_BUS_OFF_RECOVERY (R429). -/
def execCanBusOffRecovery (k : Fin 8) (s : State) : Out := ok (s.updNet fun n => { n with busOff := n.busOff.set false k false })

/-- KEY_INSTALL: only T0's request reaches the key registers (R298, R426, log 53). -/
def execKeyInstall (m : Master) (sa : Nat) (key : List Word) (s : State) : Out :=
  checked (keyWf key)
    (if (s.req m).isT0 then ok (s.updNet fun n => { n with keys := n.keys.set [] sa key })
     else errResp (s.violation (s.req m) 0x52000000 6 .write (some { ten := 0, sec := false })))

/-- SPI_TRIGGER: Bk + off of a set whose counter runs, or an event of the master's leash channel (R430). -/
def execSpiTrigger (p : PackIx) (k : Fin 4) (s : State) : Out :=
  ok (s.spiTrig p k)

/-- SPI_TRANSFER_END of a transfer in progress (R430). -/
def execSpiTransferEnd (p : PackIx) (k : Fin 4) (rx : List Word) (s : State) : Out :=
  checked (rxWf rx) (ok (s.when_ (s.bit F.SPI_STAT.busy p k) fun s => s.spiEnd p k (rx.take (s.f F.SPI_CTL.nw_m1 p k + 1))))

/-! ### Power -/

/-- POINT_OF_NO_RETURN (R443). -/
def execPointOfNoReturn (s : State) : Out := ok s.pointOfNoReturn

/-- LOW_POWER_ENTRY_COMPLETE (R443, R446 to R448). -/
def execLowPowerEntryComplete (s : State) : Out := ok s.lowPowerIn

/-- DEN_TIMEOUT (R447). -/
def execDenTimeout (s : State) : Out := ok s.denTimeout

/-- WHISTLE_EDGE (R446, R449). -/
def execWhistleEdge (n : Fin 8) (level : Bool) (t : Tag) (s : State) : Out := ok (s.whistle n level t)

/-- WAKE_TIMER (R446). -/
def execWakeTimer (s : State) : Out := ok s.wakeTimer

/-- SUPPLY_OK (R431). -/
def execSupplyOk (core : Bool) (s : State) : Out := ok (s.supplyUp core)

/-- SUPPLY_OK_TIMEOUT (R432). -/
def execSupplyOkTimeout (core : Bool) (s : State) : Out := ok (s.supplyDown core)

/-- SUPPLY_RETRY (R432). -/
def execSupplyRetry (core : Bool) (s : State) : Out := ok (s.supplyAgain core)

/-- CORE_BROWN_OUT (R439). -/
def execCoreBrownOut (s : State) : Out := ok s.brownOut

/-- FIELD_SUPPLY_LOSS (R440). -/
def execFieldSupplyLoss (s : State) : Out := ok s.fieldSupplyLoss

/-- PACE_WINDOW (R433 to R436). -/
def execPaceWindow (i : Fin 101) (ps : Nat) (s : State) : Out := ok (s.paceWindow i ps)

/-! ### Start-up and reset -/

/-- POWER_ON_RESET (R453). -/
def execPowerOnReset (s : State) : Out := ok s.powerOn

/-- RESET_N (R459). -/
def execResetN (s : State) : Out := ok (s.deviceReset 1)

/-- RESET_RELEASE: the start-up order (R453 to R458). -/
def execResetRelease (e : StartEnv) (s : State) : Out := ok (s.resetRelease e)

/-- PACK_RESET_DONE (R462). -/
def execPackResetDone (p : PackIx) (e : StartEnv) (s : State) : Out := ok (s.packResetDone p e)

end Sys2Proof.Machine
end

