-- ==== Sys2Proof/Machine/Sched.lean ====
section
/-! DEFINITION. The hardware scheduler (R285 to R292): contexts, banks, spill and restore, switches, and asynchronous
exception entry (R278, R280, R281, R348). -/

namespace Sys2Proof.Machine

/-- The words of a lower save area (R296). -/
def lowerWords (link hdr : Word) (k : Bank) (resume rdl wrl wrp : Word) : List Word :=
  [link, hdr] ++ ((List.range 15).map fun i => k.reg (i + 1)) ++ [k.epc, k.status, k.ecause, k.eval, resume, rdl, wrl, wrp] ++
    List.replicate 7 0

/-- The words of an upper save area (R296). -/
def upperWords (link hdr : Word) (k : Bank) : List Word :=
  [link, hdr] ++ ((List.range 16).map fun i => k.reg (i + 16)) ++ ((List.range 9).map fun i => k.lp.get 0 i) ++ List.replicate 5 0

/-- A context becomes FAULTED, and the running bank takes a context fault: 32 more for a restore (R278, R291). -/
def State.ctxFaulted (s : State) (c x : Nat) (restore : Bool) : State :=
  ((s.put F.SCHED_CTX_STAT.state 4 c x).updCore c fun k =>
    { k with ctxFault := some (BitVec.ofNat 32 (x + 32 * restore.toNat)) }).schedJobs c

/-- SPILL_COMPLETE: the spilled context's bank is in its save areas and the bank is free; a refused area faults the context
and leaves the bank resident (R290, R291). A context that runs meanwhile, or holds no bank, is not spilled. -/
def execSpillComplete (c : CoreIx) (s0 : State) : Out :=
  match (s0.core c).job with
  | some (true, x) =>
    let b := s0.f F.SCHED_CTX_STAT.bank c x
    let s1 := s0.updCore c fun k => { k with job := none }
    if s0.ctxState c x = 2 || !s0.bit F.SCHED_CTX_STAT.resident c x then ok (s1.schedJobs c)
    else
      let s := s1.deliverAll c b
      let a := s.saveBlock c x
      match s.areaOpen (s.saveReq c) .write a 256 with
      | (s2, true) =>
        let k := s2.bank c b
        let l := s2.rdr.get {} (16 * c + b)
        let s3 := s2.saveWords c a (lowerWords 0 (saveHeader x false true false) k k.pc l.hi (l.wr.getD 0) (if l.wr.isSome then 1 else 0))
        let s4 := s3.saveWords c (a + 0x80) (upperWords 0 (saveHeader x true true false) k)
        ok (((((s4.clrb F.SCHED_CTX_STAT.resident c x).put F.SCHED_CTX_STAT.bank 0 c x).inc F.SCHED_CNT.spill_cnt c)).schedJobs c)
      | (s2, false) => ok (s2.ctxFaulted c x false)
  | _ => ok s0

/-- A bank cleared for a context's first run (R286). -/
def State.firstRun (s : State) (c b x : Nat) : State :=
  let um := s.f F.SCHED_CTX.user c x
  let k : Bank := { status := BitVec.ofNat 32 (4 + 2 * um), pc := BitVec.ofNat 32 (s.f F.SCHED_CTX_ENTRY.entry c x * 4) }
  ({ s.setBank c b (k.setReg 1 (s.rd .SCHED_CTX_ARG c x)) with rdr := s.rdr.set {} (16 * c + b) {} }).updCore c fun q =>
    { q with fresh := q.fresh.set false x false }

/-- The bank that a spilled context's save areas hold (R296); the bits that read as zero stay zero (R248, R260), and fa is cleared
(R266). -/
def State.restoredBank (s : State) (a : Nat) : Bank :=
  let w (i : Nat) : Word := s.word (a + 4 * i)
  let u (i : Nat) : Word := s.word (a + 0x80 + 4 * i)
  { g := ((List.range 15).foldl (fun m i => m.set 0 (i + 1) (w (2 + i))) ((List.range 16).foldl (fun m i => m.set 0 (i + 16) (u (2 + i))) []))
    lp := (List.range 9).foldl (fun m i => m.set 0 i (if i % 3 = 2 then u (18 + i) else u (18 + i) &&& 0xFFFFFFFC)) []
    epc := w 17 &&& 0xFFFFFFFC, status := w 18 &&& 0xF7, ecause := w 19 &&& 0xFF, eval := w 20, pc := w 21 &&& 0xFFFFFFFC }

/-- RESTORE_COMPLETE: a selected context holds a free bank: cleared for its first run, or read from its save areas; a
failed read faults the context (R286, R290, R291). -/
def execRestoreComplete (c : CoreIx) (s0 : State) : Out :=
  match (s0.core c).job, (s0.freeBanks c).head? with
  | some (false, x), some b =>
    let s := s0.updCore c fun k => { k with job := none }
    let hold (s : State) : State := (s.put F.SCHED_CTX_STAT.bank b c x).setb F.SCHED_CTX_STAT.resident c x
    if (s.core c).fresh.get false x then ok ((hold (s.firstRun c b x)).schedJobs c)
    else
      let a := s.saveBlock c x
      let q := s.saveReq c
      match s.areaOpen q .read a 256 with
      | (s1, false) => ok (s1.ctxFaulted c x true)
      | (s1, true) =>
        match s1.areaRead q a 64 with
        | (s2, false) => ok (s2.ctxFaulted c x true)
        | (s2, true) =>
          let l : Latch := { hi := s2.word (a + 88), wr := if (s2.word (a + 96)).getLsbD 0 then some (s2.word (a + 92)) else none }
          ok ((hold { s2.setBank c b (s2.restoredBank a) with rdr := s2.rdr.set {} (16 * c + b) l }).schedJobs c)
  | _, _ => ok s0

/-! ### Events between instructions -/

/-- No context runs, and the fast bank does not. -/
def State.idle (s : State) (c : Nat) : Bool :=
  !s.bit F.SCHED_STAT.fast c && s.ctxState c (s.f F.SCHED_STAT.cur c) != 2

/-- The loads whose next instruction has executed are in their registers, as the core stands between two instructions (R253); a core
without a context in its bank has none. -/
def State.settled (s : State) (c : Nat) : State :=
  if s.bit F.SCHED_STAT.fast c || s.ctxState c (s.f F.SCHED_STAT.cur c) != 0 then s.deliverDue c (s.runBank c) else s

/-- An instruction boundary at which an event may be taken, or a wait that an event may abandon (R254, R263, R276). -/
def State.boundary (s : State) (c : Nat) : Bool :=
  let k := s.core c
  s.idle c || k.waiting.any Prod.snd || (!k.shield && k.win.isNone && k.waiting.isNone && (s.cur c).ldNew.isEmpty)

/-- The core is neither held nor in Rest. -/
def State.awake (s : State) (c : Nat) : Bool := !(s.core c).held && !(s.rd .PWR_STAT).getLsbD (16 + c)

/-- A core pair may take an asynchronous event: awake, at a boundary, and, where a bank runs, gm = 0 and dfh = 0 (R254, R263, R278,
R283, log 140). -/
def State.asyncOpen (s : State) (c : Nat) : Bool :=
  s.awake c && s.boundary c && (s.idle c || (!(s.cur c).st 0 && !(s.cur c).st 7))

/-- The lowest-numbered source that is pending and unmasked, among the fast ones or the others (R348). -/
def State.offer (s : State) (c : Nat) (fast : Bool) : Option Nat :=
  (List.range 1024).find? fun n =>
    (if n < 32 then (s.rd .INT_FAST c).getLsbD n == fast else !fast) &&
    s.pends c n && !s.nbit .INT_MASK (n % 32) c (n / 32)

/-- The next asynchronous event in the order of R280: its vector and EVAL. With no bank running only a fast interrupt has a bank to be
taken in (R278, log 140). -/
def State.asyncEvent (s : State) (c : Nat) : Option (Nat × Word) :=
  match s.offer c true with
  | some n => some (16, BitVec.ofNat 32 n)
  | none =>
    if s.idle c then none
    else
      match (s.core c).storeErr with
      | some a => some (17, a)
      | none =>
        match (s.core c).ctxFault with
        | some w => some (18, w)
        | none => (s.offer c false).map fun n => (19, BitVec.ofNat 32 n)

/-- The context that a switch would run: the selected one (R287), in a recovery the one that the journal names (R387). -/
def State.nextCtx (s : State) (c : Nat) : Option Nat :=
  if s.replaying c then
    match s.replayHead c with
    | some r => if r.ty = 5 ∧ r.pos ≤ s.jpos c then some (r.a.toNat / 256 % 32) else none
    | none => none
  else s.selected c

/-- A switch to context `x` may happen now: the core is awake and at a boundary; `x` is resident and is not being spilled, and is not the
running context; the running bank, if one runs, has gm = 0 and dfh = 0 and is not the fast bank; and no asynchronous event comes first
(R254, R276, R280, R283, R287). -/
def State.switchOpen (s : State) (c x : Nat) : Bool :=
  s.asyncOpen c && !s.bit F.SCHED_STAT.fast c && s.bit F.SCHED_CTX_STAT.resident c x && s.ctxState c x == 1 &&
  (s.core c).job != some (true, x) && (s.replaying c || (s.asyncEvent c).isNone)

/-- Context `x` takes the core: the running one, if one runs, is READY again; an instruction that waited is abandoned (R276, R287). A
context that yielded and is READY again before another ran goes on in its bank, which is no switch of the bank (log 140). -/
def State.switchTo (s : State) (c x : Nat) : State :=
  let old := s.f F.SCHED_STAT.cur c
  let s0 := if s.replaying c then s.replayPop c else
    s.jnl (corePair c) { ty := 5, pos := s.jpos c, a := BitVec.ofNat 32 (old + 256 * x), tag := s.now }
  let s1 := if s.ctxState c old = 2 then s0.put F.SCHED_CTX_STAT.state 1 c old else s0
  let s2 := (s1.put F.SCHED_CTX_STAT.state 2 c x).put F.SCHED_STAT.cur x c
  let s3 := if x = old then s2 else s2.inc F.SCHED_CNT.sw_cnt c
  (s3.updCore c fun k => { k with runSeq := k.runSeq + 1, lastRun := k.lastRun.set 0 old (k.runSeq + 1), waiting := none, vecReload := none,
                                  shield := false }).schedJobs c

/-- CONTEXT_SWITCH: a READY context with a bank that outranks the running one, or any selected one where no context runs, takes the core
(R287); in a recovery the journal names it (R387). -/
def execContextSwitch (c : CoreIx) (s0 : State) : Out :=
  let s := s0.settled c
  match s.nextCtx c with
  | none => ok s0
  | some x => if s.switchOpen c x then ok (s.switchTo c x) else ok s0

/-- Take an asynchronous event: the fast interrupt in the fast bank, the others in the running bank, EPC the next
instruction not yet executed; the source's pending bit is cleared in the step of entry (R278, R348). -/
def State.takeAsync (s0 : State) (c v : Nat) (eval : Word) : State :=
  let b0 := s0.runBank c
  let s := if s0.idle c && s0.ctxState c (s0.f F.SCHED_STAT.cur c) == 0 then s0 else s0.deliverAll c b0
  let epc := (s.bank c b0).pc
  let s1 := if v = 16 ∨ v = 19 then
      ((s.putPend c eval.toNat false).put F.INT_STAT.last eval.toNat c).inc F.INT_CNT.taken c
    else if v = 17 then s.updCore c fun k => { k with storeErr := none, storeLost := false }
    else s.updCore c fun k => { k with ctxFault := none }
  let cause : Word := BitVec.ofNat 32 (v + (v == 17 && (s.core c).storeLost).toNat * 64)
  if v = 16 then (s1.setb F.SCHED_STAT.fast c).enter c 8 v epc cause eval
  else s1.enter c b0 v epc cause eval

/-- ASYNC_EXCEPTION_ENTRY: the first pending asynchronous event is taken at the instruction boundary (R280); in a recovery
the journal supplies it at its position (R387). -/
def execAsyncExceptionEntry (c : CoreIx) (s0 : State) : Out :=
  let s := s0.settled c
  if s.replaying c then
    match s.replayHead c with
    | some r => if r.ty = 4 ∧ r.pos ≤ s.jpos c then ok ((s.replayPop c).takeAsync c (r.a.toNat % 32) r.x) else ok s0
    | none => ok s0
  else if !s.asyncOpen c then ok s0
  else
    match s.asyncEvent c with
    | none => ok s0
    | some (v, ev) =>
      let s1 := s.jnl (corePair c) { ty := 4, pos := s.jpos c, a := BitVec.ofNat 32 v, x := ev, tag := s.now }
      ok (s1.takeAsync c v ev)

/-- START of a FREE context (R286, R292). -/
def execStart (c : CoreIx) (x : CtxIx) (s : State) : Out :=
  let (s1, good) := s.ctxStart c x
  if good then ok s1 else errResp s1

/-- STOP of a context other than the running one (R292). -/
def execStop (c : CoreIx) (x : CtxIx) (s : State) : Out :=
  let (s1, good) := s.ctxStop c x
  if good then ok s1 else errResp s1

/-- WAKE of a context (R289). -/
def execWake (c : CoreIx) (x : CtxIx) (s : State) : Out := ok (s.ctxWake c x)

/-- STORE_ERROR_RESPONSE: an error response reaches the core; it is pending, or lost among one that is (R281). -/
def execStoreErrorResponse (c : CoreIx) (s : State) : Out :=
  match (s.core c).errResp with
  | [] => ok s
  | a :: es =>
    ok (s.updCore c fun k => match k.storeErr with
      | none => { k with errResp := es, storeErr := some a }
      | some _ => { k with errResp := es, storeLost := true })

/-- LINE_READ_DONE: the next line, which the core has requested, or the line that the pc is in arrives and is held, every word of it good
(R271, R274, R315). A prefetch that the core's region refuses brings nothing (log 141). -/
def execLineReadDone (c : CoreIx) (line : Word) (s : State) : Out :=
  let ln := lineOf line.toNat
  let q := s.req (coreM c)
  let wanted := (s.core c).want == some ln
  let s1 := if wanted then s.updCore c fun k => { k with want := none } else s
  if !(wanted || lineOf (s.cur c).pc.toNat == ln) || !(s.coreRuns c) || s.vectorLine c ln || ((s.core c).codeLine ln).isSome then ok s
  else if !(isMem (ln * 64) && s.regionOk q .fetch (unalias (ln * 64)) 4) then ok s1
  else
    match s1.lineRead q (ln * 64) with
    | (s2, .ok _, some ws) => ok (if wanted then s2.prefetched c ln ws else s2.fillLine c ln ws)
    | (s2, _, _) => ok (if wanted then s2 else s)

end Sys2Proof.Machine
end

