-- ==== Sys2Proof/Machine/Control.lean ====
section
/-! DEFINITION. Control transfer, hardware loops, special registers and system instructions (R256 to R263, R268, R274). -/

namespace Sys2Proof.Machine

/-- Complete with a transfer of control, which hits or allocates a branch-target entry (R270). -/
def takenTo (s : State) (c : Nat) (k : Bank) (a t : Word) : Ires := .done (s.btbHit c a t) k (some t)

/-- A branch: to A + 4·off when taken. -/
def State.branch (s : State) (c : CoreIx) (op : Nat) (ra rb : RegIx) (off : BitVec 16) (t : Word → Word → Bool) : Out :=
  s.instr c (encI op ra rb off) false false false fun s k =>
    if t (k.reg ra) (k.reg rb) then takenTo s c k k.pc (k.pc + (off.signExtend 32 <<< 2)) else .done s k

/-- beq: branch if equal. -/
def execBeq (c : CoreIx) (ra rb : RegIx) (off : BitVec 16) (s : State) : Out := s.branch c 0x10 ra rb off fun a b => a == b

/-- bne: branch if not equal. -/
def execBne (c : CoreIx) (ra rb : RegIx) (off : BitVec 16) (s : State) : Out := s.branch c 0x11 ra rb off fun a b => a != b

/-- j: jump to A + 4·off. -/
def execJ (c : CoreIx) (off : BitVec 26) (s : State) : Out :=
  s.instr c (BitVec.ofNat 32 (0x12 * 2 ^ 26 + off.toNat)) false false false fun s k =>
    takenTo s c k k.pc (k.pc + (off.signExtend 32 <<< 2))

/-- jal: g31 = A + 4, then jump. -/
def execJal (c : CoreIx) (off : BitVec 26) (s : State) : Out :=
  s.instr c (BitVec.ofNat 32 (0x13 * 2 ^ 26 + off.toNat)) false false false fun s k =>
    takenTo s c (k.setReg 31 (k.pc + 4)) k.pc (k.pc + (off.signExtend 32 <<< 2))

/-- jalr: the target (ra + imm) with bits [1:0] cleared is read before rd = A + 4 is written. -/
def execJalr (c : CoreIx) (rd ra : RegIx) (imm : BitVec 16) (s : State) : Out :=
  s.instr c (encI 0x14 rd ra imm) false false false fun s k =>
    takenTo s c (k.setReg rd (k.pc + 4)) k.pc ((k.reg ra + imm.signExtend 32) &&& 0xFFFFFFFC)

/-- Set up loop `n` with a count at the instruction at A: a count of 0 transfers control past the body (R256), any other completes without a
transfer (R257). Its wrap takes a branch-target entry (R270). -/
def setLoop (s : State) (c : Nat) (k : Bank) (n : Nat) (count off : Word) : Ires :=
  let e := k.pc + (off <<< 2)
  let k1 := { k with lp := ((k.lp.set 0 (3 * n) (k.pc + 4)).set 0 (3 * n + 1) e).set 0 (3 * n + 2) count }
  .done (s.btbHit c e (k.pc + 4)) k1 (if count = 0 then some (e + 4) else none)

/-- loop: loop n with the count of register rc; an off of 0 is reserved (R256). -/
def execLoop (c : CoreIx) (n : Fin 3) (rc : RegIx) (off : BitVec 16) (s : State) : Out :=
  s.instr c (encL 0x15 n rc off) (off == 0) false false fun s k => setLoop s c k n (k.reg rc) (off.signExtend 32)

/-- loopi: loop n with an immediate count (R256). -/
def execLoopi (c : CoreIx) (n : Fin 3) (cnt : BitVec 10) (off : BitVec 14) (s : State) : Out :=
  s.instr c (encLI 0x16 n cnt off) (off == 0) false false fun s k => setLoop s c k n (cnt.setWidth 32) (off.signExtend 32)

/-- A special register that user mode may not name (R260). -/
def sprMachine (n : Nat) : Bool := decide (n ≤ 4)

/-- CID: core number, loop core, running as a littermate pair (R260). -/
def State.cid (s : State) (c : Nat) : Word :=
  BitVec.ofNat 32 ((if c < 8 then c else c - 8 + 8) + (s.bit F.CHK_STAT.paired c).toNat * 16)

/-- The value of a special register (R260). -/
def State.spr (s : State) (c : Nat) (k : Bank) (n : Nat) : Word :=
  if n = 0 then k.status else if n = 1 then k.epc else if n = 2 then k.ecause else if n = 3 then k.eval
  else if n = 4 then (s.core c).vbase else if n = 5 then (s.core c).fcsr else if n = 6 then s.cid c else k.lp.get 0 (n - 8)

/-- mfs: rd = special register (R260). -/
def execMfs (c : CoreIx) (rd : RegIx) (spr : BitVec 16) (s : State) : Out :=
  let n := spr.toNat
  s.instr c (encI 0x18 rd 0 spr) (!sprListed n) (sprMachine n) (n == 5) fun s k => .done s (k.setReg rd (s.spr c k n))

/-- mts: special register = ra; read-only registers and fields are left (R260, R261, R8). -/
def execMts (c : CoreIx) (ra : RegIx) (spr : BitVec 16) (s : State) : Out :=
  let n := spr.toNat
  s.instr c (encI 0x19 0 ra spr) (!sprListed n) (sprMachine n) (n == 5) fun s k =>
    let v := k.reg ra
    if n = 0 then .done s (k.writeStatus (s.ownsFp c (s.runBank c)) v)
    else if n = 1 then .done s { k with epc := v &&& 0xFFFFFFFC }
    else if n = 3 then .done s { k with eval := v }
    else if n = 5 then .done (s.updCore c fun q => { q with fcsr := v &&& 0x7F }) k
    else if 8 ≤ n then .done s { k with lp := k.lp.set 0 (n - 8) (if (n - 8) % 3 = 2 then v else v &&& 0xFFFFFFFC) }
    else .done s k

/-- Where a return to the instruction at EPC, or to its successor with the loops examined, leaves a bank (R259, R263). -/
def Bank.returnTo (k : Bank) (epc : Word) (next : Bool) : Bank := if next then k.stepped epc else { k with pc := epc }

/-- Return to the instruction at EPC or to its successor: STATUS is restored in the same step, and no asynchronous event is
taken before the first instruction there (R263). In the fast bank the interrupted bank runs again (R285), but for the
double-fault handler's return, which resumes the handler of the first fault (R283); where no context was running when the fast interrupt
came, none runs after it (log 140). -/
def State.eretTo (s : State) (c : CoreIx) (fn : Nat) (next : Bool) : Out :=
  s.instr c (encS 0 fn) false true false fun s k =>
    let k1 := { k with status := returnStatus k.status }
    if s.bit F.SCHED_STAT.fast c && !k.st 7 then
      let s1 := s.clrb F.SCHED_STAT.fast c
      if s1.idle c then .done s1 k1 (some k.pc) [] true
      else
        let b := s1.runBank c
        let kb := s1.bank c b
        .done ((if next then s1.wrapped c kb k.epc else s1).setBank c b (kb.returnTo k.epc next)) k1 (some k.pc) [] true
    else
      let k2 := k1.returnTo k.epc next
      .done (if next then s.wrapped c k1 k.epc else s) k2 (some k2.pc) [] true

/-- eret: return to EPC. -/
def execEret (c : CoreIx) (s : State) : Out := s.eretTo c 0 false

/-- erets: return to the successor of the instruction at EPC (R259). -/
def execErets (c : CoreIx) (s : State) : Out := s.eretTo c 1 true

/-- trap: software trap with the 20-bit code in EVAL. -/
def execTrap (c : CoreIx) (code : BitVec 20) (s : State) : Out :=
  s.instr c (encS code.toNat 2) false false false fun s _ => .exc s 10 (code.setWidth 32)

/-- Every copy of a line outside the vector buffer, every branch-target entry into it and a request for it are discarded (R274). -/
def Core.dropLine (k : Core) (line : Nat) : Core :=
  { k with lines := k.lines.filter fun e => e.1 != line, pre := k.pre.filter fun e => e.1 != line,
           btb := k.btb.filter fun e => lineOf e.2.1 != line, want := k.want.filter (· != line), codeBad := k.codeBad.filter (· != line) }

/-- flush: every held copy of the line and every branch-target entry into it is discarded; a vector line is reloaded, and
the instruction completes with its reload, until when the old copy serves (R274) and an event may abandon it (R276). -/
def execFlush (c : CoreIx) (ra : RegIx) (s : State) : Out :=
  s.instr c (encR 0x17 0 ra 0 0 3) false false false fun s k =>
    let line := lineOf (k.reg ra).toNat
    let s1 := s.updCore c fun q => q.dropLine line
    if s1.vectorLine c line then .stall (s1.updCore c fun q => { q with vecReload := some line }) (some true)
    else .done s1 k

/-- VECTOR_LINE_RELOAD_DONE: the spare line replaces the old copy, bad where its read failed, and the flush completes
(R273, R274). -/
def execVectorLineReloadDone (c : CoreIx) (s : State) : Out :=
  match (s.core c).vecReload with
  | none => ok s
  | some line =>
    let (s1, _, new) := s.lineRead (s.saveReq c) (line * 64)
    let s2 := s1.updCore c fun q =>
      { q with vecReload := none, vecs := (new.map fun ws => (line, ws)).toList ++ q.vecs.filter fun e => e.1 != line }
    let b := s2.runBank c
    let k := s2.bank c b
    ok (s2.finish c b { k with ldNew := [] } none k.pc (k.ldDue ++ k.ldNew) [] false)

/-- fence: completes when every earlier store has left the commit queue and been acknowledged; until then it waits. -/
def execFence (c : CoreIx) (s : State) : Out :=
  s.instr c (encS 0 4) false false false fun s k =>
    let out := s.net.reqs.any fun r => match r.by_ with
      | .store d _ => d == c.val
      | _ => false
    if (s.core c).queue.isEmpty && (s.core c).errResp.isEmpty && !out then .done s k else .stall s (some true)

/-- yield: the bank goes back to the scheduler (R288); a nop in the fast bank and while dfh = 1. -/
def execYield (c : CoreIx) (s : State) : Out :=
  s.instr c (encS 0 5) false false false fun s k =>
    if s.bit F.SCHED_STAT.fast c || k.st 7 then .done s k
    else
      let x := s.f F.SCHED_STAT.cur c
      let src := s.f F.SCHED_CTX.wake_src c x
      let stay (s : State) : State :=
        (s.updCore c fun q => { q with readyTag := q.readyTag.set 0 x s.now }).schedJobs c
      if !s.bit F.SCHED_CTX.wake_en c x then .done (stay s) k
      else if s.pends c src then .done (stay (s.putPend c src false)) k
      else .done ((s.put F.SCHED_CTX_STAT.state 3 c x).schedJobs c) k

/-- A reserved encoding raises the illegal-instruction exception, with the word in EVAL (R268); a word that encodes an instruction raises
none. -/
def execReservedEncoding (c : CoreIx) (w : Word) (s : State) : Out :=
  if reservedWord w then s.instr c w true false false fun s k => .done s k else ok s

end Sys2Proof.Machine
end

