-- ==== Sys2Proof/Machine/Integer.lean ====
section
/-! DEFINITION. The integer instructions (R250 to R252): one meaning per instruction over the shared forms `alu` and
`aluImm`. -/

namespace Sys2Proof.Machine

/-- An R-format integer instruction: rd = f ra rb. -/
def State.alu (s : State) (c : CoreIx) (fn : Nat) (rd ra rb : RegIx) (f : Word → Word → Word) : Out :=
  s.instr c (encR 0 rd ra rb 0 fn) false false false fun s k => .done s (k.setReg rd (f (k.reg ra) (k.reg rb)))

/-- A shift by a constant: rd = f ra sh. -/
def State.aluSh (s : State) (c : CoreIx) (fn : Nat) (rd ra : RegIx) (sh : BitVec 5) (f : Word → Nat → Word) : Out :=
  s.instr c (encR 0 rd ra 0 sh.toNat fn) false false false fun s k => .done s (k.setReg rd (f (k.reg ra) sh.toNat))

/-- An I-format integer instruction: rd = f ra imm, the immediate extended as the table marks it (R249). -/
def State.aluImm (s : State) (c : CoreIx) (op : Nat) (rd ra : RegIx) (imm : BitVec 16) (f : Word → Word) : Out :=
  s.instr c (encI op rd ra imm) false false false fun s k => .done s (k.setReg rd (f (k.reg ra)))

/-- 1 or 0 (R251). -/
def oneIf (b : Bool) : Word := if b then 1 else 0

/-- Quotient rounded toward zero, signed, with the corners of R252. -/
def divS (a b : Word) : Word :=
  if b = 0 then 0xFFFFFFFF else if a = 0x80000000 ∧ b = 0xFFFFFFFF then 0x80000000 else a.sdiv b

/-- Remainder with the sign of the dividend, with the corners of R252. -/
def remS (a b : Word) : Word :=
  if b = 0 then a else if a = 0x80000000 ∧ b = 0xFFFFFFFF then 0 else a.srem b

/-- Unsigned quotient, with the corner of R252. -/
def divU (a b : Word) : Word := if b = 0 then 0xFFFFFFFF else a / b

/-- Unsigned remainder, with the corner of R252. -/
def remU (a b : Word) : Word := if b = 0 then a else a % b

/-- High word of the signed product. -/
def mulHS (a b : Word) : Word := ((a.signExtend 64 * b.signExtend 64) >>> 32).setWidth 32

/-- High word of the unsigned product. -/
def mulHU (a b : Word) : Word := ((a.setWidth 64 * b.setWidth 64) >>> 32).setWidth 32

/-- add: rd = ra + rb, modulo 2^32. -/
def execAdd (c : CoreIx) (rd ra rb : RegIx) (s : State) : Out := s.alu c 0x00 rd ra rb fun a b => a + b

/-- sub: rd = ra - rb. -/
def execSub (c : CoreIx) (rd ra rb : RegIx) (s : State) : Out := s.alu c 0x01 rd ra rb fun a b => a - b

/-- and: bitwise and. -/
def execAnd (c : CoreIx) (rd ra rb : RegIx) (s : State) : Out := s.alu c 0x02 rd ra rb fun a b => a &&& b

/-- or: bitwise or. -/
def execOr (c : CoreIx) (rd ra rb : RegIx) (s : State) : Out := s.alu c 0x03 rd ra rb fun a b => a ||| b

/-- xor: bitwise exclusive or. -/
def execXor (c : CoreIx) (rd ra rb : RegIx) (s : State) : Out := s.alu c 0x04 rd ra rb fun a b => a ^^^ b

/-- nor: bitwise nor. -/
def execNor (c : CoreIx) (rd ra rb : RegIx) (s : State) : Out := s.alu c 0x05 rd ra rb fun a b => ~~~(a ||| b)

/-- sll: shift left by rb[4:0]. -/
def execSll (c : CoreIx) (rd ra rb : RegIx) (s : State) : Out := s.alu c 0x06 rd ra rb fun a b => a <<< (b.toNat % 32)

/-- srl: logical shift right by rb[4:0]. -/
def execSrl (c : CoreIx) (rd ra rb : RegIx) (s : State) : Out := s.alu c 0x07 rd ra rb fun a b => a >>> (b.toNat % 32)

/-- sra: arithmetic shift right by rb[4:0]. -/
def execSra (c : CoreIx) (rd ra rb : RegIx) (s : State) : Out := s.alu c 0x08 rd ra rb fun a b => a.sshiftRight (b.toNat % 32)

/-- slli: shift left by sh. -/
def execSlli (c : CoreIx) (rd ra : RegIx) (sh : BitVec 5) (s : State) : Out := s.aluSh c 0x09 rd ra sh fun a n => a <<< n

/-- srli: logical shift right by sh. -/
def execSrli (c : CoreIx) (rd ra : RegIx) (sh : BitVec 5) (s : State) : Out := s.aluSh c 0x0A rd ra sh fun a n => a >>> n

/-- srai: arithmetic shift right by sh. -/
def execSrai (c : CoreIx) (rd ra : RegIx) (sh : BitVec 5) (s : State) : Out := s.aluSh c 0x0B rd ra sh fun a n => a.sshiftRight n

/-- slt: signed less. -/
def execSlt (c : CoreIx) (rd ra rb : RegIx) (s : State) : Out := s.alu c 0x0C rd ra rb fun a b => oneIf (a.slt b)

/-- sltu: unsigned less. -/
def execSltu (c : CoreIx) (rd ra rb : RegIx) (s : State) : Out := s.alu c 0x0D rd ra rb fun a b => oneIf (a.ult b)

/-- seq: equal. -/
def execSeq (c : CoreIx) (rd ra rb : RegIx) (s : State) : Out := s.alu c 0x0E rd ra rb fun a b => oneIf (a == b)

/-- sne: not equal. -/
def execSne (c : CoreIx) (rd ra rb : RegIx) (s : State) : Out := s.alu c 0x0F rd ra rb fun a b => oneIf (a != b)

/-- min: signed minimum. -/
def execMin (c : CoreIx) (rd ra rb : RegIx) (s : State) : Out := s.alu c 0x10 rd ra rb fun a b => if b.slt a then b else a

/-- max: signed maximum. -/
def execMax (c : CoreIx) (rd ra rb : RegIx) (s : State) : Out := s.alu c 0x11 rd ra rb fun a b => if a.slt b then b else a

/-- minu: unsigned minimum. -/
def execMinu (c : CoreIx) (rd ra rb : RegIx) (s : State) : Out := s.alu c 0x12 rd ra rb fun a b => if b.ult a then b else a

/-- maxu: unsigned maximum. -/
def execMaxu (c : CoreIx) (rd ra rb : RegIx) (s : State) : Out := s.alu c 0x13 rd ra rb fun a b => if a.ult b then b else a

/-- mul: low 32 bits of the product. -/
def execMul (c : CoreIx) (rd ra rb : RegIx) (s : State) : Out := s.alu c 0x18 rd ra rb fun a b => a * b

/-- mulh: high 32 bits of the signed product. -/
def execMulh (c : CoreIx) (rd ra rb : RegIx) (s : State) : Out := s.alu c 0x19 rd ra rb fun a b => mulHS a b

/-- mulhu: high 32 bits of the unsigned product. -/
def execMulhu (c : CoreIx) (rd ra rb : RegIx) (s : State) : Out := s.alu c 0x1A rd ra rb fun a b => mulHU a b

/-- div: signed quotient (R252). -/
def execDiv (c : CoreIx) (rd ra rb : RegIx) (s : State) : Out := s.alu c 0x1C rd ra rb fun a b => divS a b

/-- divu: unsigned quotient (R252). -/
def execDivu (c : CoreIx) (rd ra rb : RegIx) (s : State) : Out := s.alu c 0x1D rd ra rb fun a b => divU a b

/-- rem: signed remainder (R252). -/
def execRem (c : CoreIx) (rd ra rb : RegIx) (s : State) : Out := s.alu c 0x1E rd ra rb fun a b => remS a b

/-- remu: unsigned remainder (R252). -/
def execRemu (c : CoreIx) (rd ra rb : RegIx) (s : State) : Out := s.alu c 0x1F rd ra rb fun a b => remU a b

/-- addi: rd = ra + imm (s). -/
def execAddi (c : CoreIx) (rd ra : RegIx) (imm : BitVec 16) (s : State) : Out :=
  s.aluImm c 0x01 rd ra imm fun a => a + imm.signExtend 32

/-- andi: and with imm (u). -/
def execAndi (c : CoreIx) (rd ra : RegIx) (imm : BitVec 16) (s : State) : Out :=
  s.aluImm c 0x02 rd ra imm fun a => a &&& imm.setWidth 32

/-- ori: or with imm (u). -/
def execOri (c : CoreIx) (rd ra : RegIx) (imm : BitVec 16) (s : State) : Out :=
  s.aluImm c 0x03 rd ra imm fun a => a ||| imm.setWidth 32

/-- xori: exclusive or with imm (u). -/
def execXori (c : CoreIx) (rd ra : RegIx) (imm : BitVec 16) (s : State) : Out :=
  s.aluImm c 0x04 rd ra imm fun a => a ^^^ imm.setWidth 32

/-- slti: signed less than imm (s). -/
def execSlti (c : CoreIx) (rd ra : RegIx) (imm : BitVec 16) (s : State) : Out :=
  s.aluImm c 0x05 rd ra imm fun a => oneIf (a.slt (imm.signExtend 32))

/-- sltiu: unsigned less than imm (s). -/
def execSltiu (c : CoreIx) (rd ra : RegIx) (imm : BitVec 16) (s : State) : Out :=
  s.aluImm c 0x06 rd ra imm fun a => oneIf (a.ult (imm.signExtend 32))

/-- lui: rd = imm << 16. -/
def execLui (c : CoreIx) (rd : RegIx) (imm : BitVec 16) (s : State) : Out :=
  s.aluImm c 0x07 rd 0 imm fun _ => imm.setWidth 32 <<< 16

end Sys2Proof.Machine
end

