-- ==== Sys2Proof/Machine/Float.lean ====
section
/-! DEFINITION. The floating-point instructions (R264 to R266) and the context save and restore (R267, R296). -/

namespace Sys2Proof.Machine

/-- Floating-point register `n` of core `c`. -/
def State.fr (s : State) (c n : Nat) : Word := (s.core c).f.get 0 n

/-- Write a floating-point register and set the sticky flags of a result (R264). -/
def State.setFr (s : State) (c n : Nat) (v : Word) (fl : Flags) : State :=
  s.updCore c fun q => { q with f := q.f.set 0 n v, fcsr := q.fcsr ||| (fl.setWidth 32 <<< 2) }

/-- Set the sticky flags. -/
def State.addFlags (s : State) (c : Nat) (fl : Flags) : State :=
  s.updCore c fun q => { q with fcsr := q.fcsr ||| (fl.setWidth 32 <<< 2) }

/-- The rounding mode of FCSR.rm. -/
def State.rm (s : State) (c : Nat) : Rm := rmOf (s.core c).fcsr.toNat

/-- An even-odd pair as one binary64 code, the low word in the even register (R264). -/
def State.fd64 (s : State) (c n : Nat) : Nat := (s.fr c (n + 1)).toNat * 2 ^ 32 + (s.fr c n).toNat

/-- Write an even-odd pair. -/
def State.setFd64 (s : State) (c n v : Nat) (fl : Flags) : State :=
  (s.setFr c n (BitVec.ofNat 32 v) fl).setFr c (n + 1) (BitVec.ofNat 32 (v / 2 ^ 32)) 0

/-- A binary32 instruction: fd = f fa fb. -/
def State.fop (s : State) (c : CoreIx) (fn : Nat) (fd fa fb : RegIx) (f : Rm → Nat → Nat → Nat × Flags) : Out :=
  s.instr c (encR 0x1E fd fa fb 0 fn) false false true fun s k =>
    let (r, fl) := f (s.rm c) (s.fr c fa).toNat (s.fr c fb).toNat
    .done (s.setFr c fd (BitVec.ofNat 32 r) fl) k

/-- A comparison: rd = 1 or 0, with the flags of R265. -/
def State.fcmp (s : State) (c : CoreIx) (fn : Nat) (rd fa fb : RegIx) (f : FVal → FVal → Bool × Flags) : Out :=
  s.instr c (encR 0x1E rd fa fb 0 fn) false false true fun s k =>
    let (r, fl) := f (unpack f32 (s.fr c fa).toNat) (unpack f32 (s.fr c fb).toNat)
    .done (s.addFlags c fl) (k.setReg rd (oneIf r))

/-- The nv flag for a signalling NaN among the operands, or for any NaN (R265). -/
def nvFlag (anyNan : Bool) (x y : FVal) : Flags :=
  if x == .nan true || y == .nan true || (anyNan && (x.isNan || y.isNan)) then fNv else 0

/-- A binary64 instruction on even-odd pairs; an odd register number is a reserved encoding (R264, R268). -/
def State.fop64 (s : State) (c : CoreIx) (fn : Nat) (fd fa fb : RegIx) (f : Rm → Nat → Nat → Nat × Flags) : Out :=
  s.instr c (encR 0x1E fd fa fb 0 fn) (fd.val % 2 == 1 || fa.val % 2 == 1 || fb.val % 2 == 1) false true fun s k =>
    let (r, fl) := f (s.rm c) (s.fd64 c fa) (s.fd64 c fb)
    .done (s.setFd64 c fd r fl) k

/-- fadd: sum. -/
def execFadd (c : CoreIx) (fd fa fb : RegIx) (s : State) : Out := s.fop c 0x00 fd fa fb fun rm a b => op2 f32 (addVal f32 rm) a b

/-- fsub: difference. -/
def execFsub (c : CoreIx) (fd fa fb : RegIx) (s : State) : Out := s.fop c 0x01 fd fa fb fun rm a b => op2 f32 (fun x y => addVal f32 rm x y.neg) a b

/-- fmul: product. -/
def execFmul (c : CoreIx) (fd fa fb : RegIx) (s : State) : Out := s.fop c 0x02 fd fa fb fun rm a b => op2 f32 (mulVal f32 rm) a b

/-- fdiv: quotient. -/
def execFdiv (c : CoreIx) (fd fa fb : RegIx) (s : State) : Out := s.fop c 0x03 fd fa fb fun rm a b => op2 f32 (divVal f32 rm) a b

/-- fmin: minimum (R265). -/
def execFmin (c : CoreIx) (fd fa fb : RegIx) (s : State) : Out := s.fop c 0x06 fd fa fb fun _ a b => minmax f32 false a b

/-- fmax: maximum (R265). -/
def execFmax (c : CoreIx) (fd fa fb : RegIx) (s : State) : Out := s.fop c 0x07 fd fa fb fun _ a b => minmax f32 true a b

/-- fsqrt: square root. -/
def execFsqrt (c : CoreIx) (fd fa : RegIx) (s : State) : Out :=
  s.fop c 0x04 fd fa 0 fun rm a _ => sqrtVal f32 rm (unpack f32 a)

/-- fmadd: fd = fa × fb + fd, with one rounding. -/
def execFmadd (c : CoreIx) (fd fa fb : RegIx) (s : State) : Out :=
  s.instr c (encR 0x1E fd fa fb 0 0x05) false false true fun s k =>
    let v (n : RegIx) : FVal := unpack f32 (s.fr c n).toNat
    let (r, fl) := fmaVal f32 (s.rm c) (v fa) (v fb) (v fd)
    .done (s.setFr c fd (BitVec.ofNat 32 r) fl) k

/-- fabs: clear the sign bit; no flags. -/
def execFabs (c : CoreIx) (fd fa : RegIx) (s : State) : Out := s.fop c 0x08 fd fa 0 fun _ a _ => (a % 2 ^ 31, 0)

/-- fneg: flip the sign bit; no flags. -/
def execFneg (c : CoreIx) (fd fa : RegIx) (s : State) : Out := s.fop c 0x09 fd fa 0 fun _ a _ => (a ^^^ 2 ^ 31, 0)

/-- fmov: keep the bits; no flags. -/
def execFmov (c : CoreIx) (fd fa : RegIx) (s : State) : Out := s.fop c 0x0A fd fa 0 fun _ a _ => (a, 0)

/-- feq: 1 if equal, 0 if unordered; nv for a signalling NaN. -/
def execFeq (c : CoreIx) (rd fa fb : RegIx) (s : State) : Out :=
  s.fcmp c 0x10 rd fa fb fun x y => (!x.isNan && !y.isNan && eqVal x y, nvFlag false x y)

/-- flt: 1 if less, 0 if unordered; nv for any NaN. -/
def execFlt (c : CoreIx) (rd fa fb : RegIx) (s : State) : Out :=
  s.fcmp c 0x11 rd fa fb fun x y => (!x.isNan && !y.isNan && ltVal x y, nvFlag true x y)

/-- fle: 1 if less or equal, 0 if unordered; nv for any NaN. -/
def execFle (c : CoreIx) (rd fa fb : RegIx) (s : State) : Out :=
  s.fcmp c 0x12 rd fa fb fun x y => (!x.isNan && !y.isNan && (ltVal x y || eqVal x y), nvFlag true x y)

/-- fun: 1 if an operand is a NaN; nv for a signalling NaN. -/
def execFun (c : CoreIx) (rd fa fb : RegIx) (s : State) : Out :=
  s.fcmp c 0x13 rd fa fb fun x y => (x.isNan || y.isNan, nvFlag false x y)

/-- fcvt.w.s: to a signed integer, rounded by FCSR.rm (R265). -/
def execFcvtWS (c : CoreIx) (rd fa : RegIx) (s : State) : Out :=
  s.instr c (encR 0x1E rd fa 0 0 0x18) false false true fun s k =>
    let (r, fl) := toInt32 (s.rm c) (unpack f32 (s.fr c fa).toNat)
    .done (s.addFlags c fl) (k.setReg rd r)

/-- fcvt.s.w: from a signed integer. -/
def execFcvtSW (c : CoreIx) (fd ra : RegIx) (s : State) : Out :=
  s.instr c (encR 0x1E fd ra 0 0 0x19) false false true fun s k =>
    let (r, fl) := ofInt f32 (s.rm c) (k.reg ra).toInt
    .done (s.setFr c fd (BitVec.ofNat 32 r) fl) k

/-- fmv.x.s: rd = the bits of fa. -/
def execFmvXS (c : CoreIx) (rd fa : RegIx) (s : State) : Out :=
  s.instr c (encR 0x1E rd fa 0 0 0x1A) false false true fun s k => .done s (k.setReg rd (s.fr c fa))

/-- fmv.s.x: fd = the bits of ra. -/
def execFmvSX (c : CoreIx) (fd ra : RegIx) (s : State) : Out :=
  s.instr c (encR 0x1E fd ra 0 0 0x1B) false false true fun s k => .done (s.setFr c fd (k.reg ra) 0) k

/-- fadd.d: binary64 sum. -/
def execFaddD (c : CoreIx) (fd fa fb : RegIx) (s : State) : Out :=
  s.fop64 c 0x20 fd fa fb fun rm a b => op2 f64 (addVal f64 rm) a b

/-- fsub.d: binary64 difference. -/
def execFsubD (c : CoreIx) (fd fa fb : RegIx) (s : State) : Out :=
  s.fop64 c 0x21 fd fa fb fun rm a b => op2 f64 (fun x y => addVal f64 rm x y.neg) a b

/-- fmul.d: binary64 product. -/
def execFmulD (c : CoreIx) (fd fa fb : RegIx) (s : State) : Out :=
  s.fop64 c 0x22 fd fa fb fun rm a b => op2 f64 (mulVal f64 rm) a b

/-- fcvt.d.s: binary32 to binary64. -/
def execFcvtDS (c : CoreIx) (fd fa : RegIx) (s : State) : Out :=
  s.instr c (encR 0x1E fd fa 0 0 0x28) (fd.val % 2 == 1) false true fun s k =>
    let (r, fl) := convert f32 f64 (s.rm c) (s.fr c fa).toNat
    .done (s.setFd64 c fd r fl) k

/-- fcvt.s.d: binary64 to binary32, rounded by FCSR.rm. -/
def execFcvtSD (c : CoreIx) (fd fa : RegIx) (s : State) : Out :=
  s.instr c (encR 0x1E fd fa 0 0 0x29) (fa.val % 2 == 1) false true fun s k =>
    let (r, fl) := convert f64 f32 (s.rm c) (s.fd64 c fa)
    .done (s.setFr c fd (BitVec.ofNat 32 r) fl) k

/-! ### Context save -/

/-- Store words now, after the stores that wait in the queue; in a recovery an outward store is the next OUT record. -/
def State.storeWords (s : State) (c a : Nat) : List Word → State
  | [] => s
  | v :: vs =>
    let e : CStore := { addr := a, val := v, user := (s.cur c).st 1, ctx := s.f F.SCHED_STAT.cur c }
    let s1 := if s.replaying c && !privateBank c a then s.replayPop c else s.performStore c e
    State.storeWords s1 c (a + 4) vs

/-- The stores waiting in the commit queue are performed. -/
def State.drain (s : State) (c : Nat) : State :=
  (s.core c).queue.foldl (fun s e => s.performStore c e) (s.updCore c fun q => { q with queue := [] })

/-- The whole 128-byte area of a context save or restore is memory that its region admits, of its own address or through an alias, and
no page or block of it is closed, retired or busy; a store's area is SRAM. Where not, the access is refused and logged as a refused access
is, a store to nonvolatile memory without an entry (R230, R267, R301, R307, R320, R326, log 136). -/
def State.ctxArea (s : State) (q : Req) (acc : AccKind) (a0 : Nat) : State × Bool :=
  let a := unalias a0
  if !(isMem a0 && s.regionOk q acc a 128) then (s.refuse q acc a0 128, false)
  else if acc = .write ∧ isNv a then (s, false)
  else if s.pageClosedAt a || s.blkRetired a then (s.elogAdd a 10 (elogSource q.mno) q.mno (retired := true), false)
  else if s.nvBusyAt a then (s.refuse q acc a0 128, false)
  else (s, true)

/-- ctxs: save half a bank into the area at ra: alignment to 128, the rights of the whole area, then the words (R267). -/
def State.ctxs (s : State) (c : CoreIx) (fn : Nat) (ra rb : RegIx) (upper : Bool) : Out :=
  s.instr c (encR 0x1A 0 ra rb 0 fn) false (!upper) false fun s k =>
    let a := (k.reg ra).toNat
    if a % 128 ≠ 0 then .exc s 4 (k.reg ra)
    else if s.jnlFull c then .stall (s.jnlStall c) none
    else match s.ctxArea (s.req (coreM c)) .write a with
    | (s1, false) => .exc s1 17 (k.reg ra)
    | (s1, true) =>
      let h := saveHeader (s1.f F.SCHED_STAT.cur c) upper false (s1.bit F.SCHED_STAT.fast c)
      let ws := if upper then upperWords (k.reg rb) h k else lowerWords (k.reg rb) h k 0 0 0 0
      .done ((s1.drain c).storeWords c a ws) k

/-- ctxs.lo: the lower half; machine mode. -/
def execCtxsLo (c : CoreIx) (ra rb : RegIx) (s : State) : Out := s.ctxs c 0x00 ra rb false

/-- ctxs.hi: the upper half. -/
def execCtxsHi (c : CoreIx) (ra rb : RegIx) (s : State) : Out := s.ctxs c 0x01 ra rb true

/-- Load `n` words from an address up, stopping at the first that fails. -/
def State.loadWords (s : State) (c a : Nat) : Nat → List Word → State × Rsp × List Word
  | 0, ws => (s, .ok 0, ws)
  | n + 1, ws =>
    match s.coreLoad c a 4 with
    | (s1, .ok d) => State.loadWords s1 c (a + 4) n (ws ++ [d])
    | (s1, r) => (s1, r, ws)

/-- ctxr: restore half a bank from the area at ra and the link word to rd, under the load delay (R267): 21 words of the lower half, 27 of the
upper. The registers are numbered as loads deliver them. -/
def State.ctxr (s : State) (c : CoreIx) (fn : Nat) (rd ra : RegIx) (upper : Bool) : Out :=
  s.instr c (encR 0x1A rd ra 0 0 fn) false true false fun s k =>
    let a := (k.reg ra).toNat
    if a % 128 ≠ 0 then .exc s 4 (k.reg ra)
    else if s.jnlFull c && !notJournaled c a then .stall (s.jnlStall c) none
    else match s.ctxArea (s.req (coreM c)) .read a with
    | (s1, false) => .exc s1 7 (k.reg ra)
    | (s1, true) =>
      match s1.loadWords c a (if upper then 27 else 21) [] with
      | (s2, .ok _, ws) =>
        let w (i : Nat) : Word := ws.getD i 0
        let ld : List (Nat × Word) :=
          if upper then ((List.range 16).map fun i => (16 + i, w (2 + i))) ++ ((List.range 9).map fun i => (68 + i, w (18 + i)))
          else ((List.range 15).map fun i => (1 + i, w (2 + i))) ++ [(65, w 17), (64, w 18), (66, w 19), (67, w 20)]
        .done s2 k none (ld ++ [(rd.val, w 0)])
      | (s2, .ue, _) => .exc s2 8 (k.reg ra)
      | (s2, _, _) => .exc s2 7 (k.reg ra)

/-- ctxr.lo: the lower half; machine mode. -/
def execCtxrLo (c : CoreIx) (rd ra : RegIx) (s : State) : Out := s.ctxr c 0x02 rd ra false

/-- ctxr.hi: the upper half; machine mode. -/
def execCtxrHi (c : CoreIx) (rd ra : RegIx) (s : State) : Out := s.ctxr c 0x03 rd ra true

end Sys2Proof.Machine
end

