-- ==== Sys2Proof/Machine/LoopOps.lean ====
section
/-! DEFINITION. The operations of the loop engine, one meaning each (R125 to R131, R150). An operation acts on the run in
progress of its pack; without one it does not occur (log 5). -/

namespace Sys2Proof.Machine

/-! ### Sequencing -/

/-- The next operation's position: on, or back to the start of a repetition's body with passes left (R127). -/
def Eng.advance (k : Eng) : Eng :=
  match k.rep with
  | some (st, len, left) =>
    if k.pc + 1 = st + len then
      if 1 < left then { k with pc := st, rep := some (st, len, left - 1) } else { k with pc := k.pc + 1, rep := none }
    else { k with pc := k.pc + 1 }
  | none => { k with pc := k.pc + 1 }

/-- The axis of the run in progress. -/
def State.ea (s : State) (p : Nat) : Nat := s.runAxis p

/-- The loop engine reads words of its arrays: a single flipped bit is corrected, rewritten and logged, two are uncorrectable (R312, R313,
R315, R318); the truth value says whether all words are good. -/
def State.leRead (s : State) (p : Nat) (ks : List (RegName × Nat × Nat)) : State × Bool :=
  ks.foldl (fun x k =>
    let (s, good) := x
    let n := s.ram.leFlips.get 0 (leKey p k.1 k.2.1 k.2.2)
    let a := 0x40300000 + 0x1000000 * p + leOff k.1 k.2.1 k.2.2
    if n = 0 then (s, good)
    else if n = 1 then
      (({ s with ram := { s.ram with leFlips := s.ram.leFlips.set 0 (leKey p k.1 k.2.1 k.2.2) 0 } } : State).elogAdd a 1 3 50, good)
    else ((s.elogAdd a 2 3 50).alarm [0, (s.axOwner p (s.ea p)).ten] 6 50 2 (BitVec.ofNat 32 a) 0 s.now, false)) (s, true)

/-- An uncorrectable read of an array takes the run's axis to SAFE, with coef_ecc and cause 5 (R141, R315). -/
def State.leBad (s : State) (p : Nat) : State := (s.setb F.LE_AX_STAT.coef_ecc p (s.ea p)).axSafe p (s.ea p) 5

/-- The run in progress executes from array words: `f`, or the reaction to an uncorrectable one. -/
def State.leUse (s : State) (p : Nat) (ks : List (RegName × Nat × Nat)) (f : State → State) : State :=
  let (s1, good) := s.leRead p ks
  if good then f s1 else s1.leBad p

/-- The operation that the run in progress executes next: that of the word of program memory at its position; none for a reserved op
code, and past index 4,095 (R127). -/
def State.leNext (s : State) (p : PackIx) : Option Instr :=
  if (s.eng p).pc < 4096 then decodeLe p (s.rd .LE_PROGMEM p (s.eng p).pc 0) else none

/-- The next operation is fetched from program memory, while a run is in progress: `f`, where it is the one given; where it is another, the
one given does not occur (log 5). -/
def State.leFetch (s : State) (p : PackIx) (i : Option Instr) (f : State → State) : State :=
  if s.busy p && (s.leNext p == i || !(s.leRead p [(.LE_PROGMEM, (s.eng p).pc, 0)]).2) then s.leUse p [(.LE_PROGMEM, (s.eng p).pc, 0)] f
  else s

/-- One operation of `n` steps (R127): its effect on the engine; then the run is stopped with prog_err if it has reached its
declared steps without end, or would execute past index 4,095. -/
def State.leOp (s : State) (p : PackIx) (i : Instr) (n : Nat) (f : State → State) : State :=
  s.leFetch p (some i) fun s =>
    let s1 := f s
    if !s1.busy p then s1
    else
      let s2 := s1.updEng p fun k => { k.advance with steps := k.steps + n }
      if s2.f F.LE_AX_STEPS.steps p (s2.ea p) ≤ (s2.eng p).steps || 4095 < (s2.eng p).pc then s2.progErr p else s2

/-! ### Vector registers -/

/-- A lane of a vector register. -/
def Eng.lane (k : Eng) (r i : Nat) : Word := k.v.get 0 (4 * r + i)

/-- The four lanes of a vector register. -/
def Eng.vec (k : Eng) (r : Nat) : List Word := (List.range 4).map (k.lane r)

/-- Set a lane. -/
def Eng.setLane (k : Eng) (r i : Nat) (w : Word) : Eng := { k with v := k.v.set 0 (4 * r + i) w }

/-- Set the lanes of a vector register. -/
def Eng.setVec (k : Eng) (r : Nat) (g : Nat → Word) : Eng := (List.range 4).foldl (fun k i => k.setLane r i (g i)) k

/-- An operation that sets register `d` lane by lane from the engine. -/
def State.vop (s : State) (p : PackIx) (i : Instr) (n d : Nat) (g : Eng → Nat → Word) : State :=
  s.leOp p i n fun s => s.updEng p fun k => k.setVec d (g k)

/-- A lane operation of two registers. -/
def State.vop2 (s : State) (p : PackIx) (op : Instr) (n d a b : Nat) (g : Word → Word → Word) : State :=
  s.vop p op n d fun k i => g (k.lane a i) (k.lane b i)

/-! ### Accumulators -/

/-- Lower and upper limit of an accumulator lane. -/
def Eng.limits (k : Eng) (acc i : Nat) : Word × Word := (k.lo.get 0xFF800000 (4 * acc + i), k.hi.get 0x7F800000 (4 * acc + i))

/-- Clamp a value to a lane's limits; a NaN passes (R126). -/
def clampAcc (lo hi v : Word) : Word := if isNanW v then v else engMin (engMax v lo) hi

/-- Add to an accumulator lane by lane and clamp it. -/
def Eng.accum (k : Eng) (acc : Nat) (g : Word → Nat → Word) : Eng :=
  (List.range 4).foldl (fun k i =>
    let (lo, hi) := k.limits acc i
    { k with acc := k.acc.set 0 (4 * acc + i) (clampAcc lo hi (g (k.acc.get 0 (4 * acc + i)) i)) }) k

/-! ### CORDIC -/

/-- 2^62, the scale of the reference below. -/
def fx : Nat := 2 ^ 62

/-- floor(π/2 · 2^62). -/
def halfPi : Nat := 7244019458077122842

/-- Sine and cosine of `r/2^62` quarter turns, scaled by 2^62, from their series (log 40). -/
def quarter (r : Nat) : Int × Int :=
  let t : Int := (r * halfPi / fx : Nat)
  let t2 := t * t / fx
  let go := (List.range 13).foldl (fun (acc : Int × Int × Int) k =>
    let (c, sn, term) := acc
    let n : Int := k
    let sterm := term * t / fx / (2 * n + 1)
    (c + term, sn + sterm, -(term * t2 / fx / ((2 * n + 1) * (2 * n + 2))))) (0, 0, (fx : Int))
  (go.2.1, go.1)

/-- Cosine and sine of `f/2^64` turns, scaled by 2^62. -/
def cosSin (f : Nat) : Int × Int :=
  let q := f / 2 ^ 62 % 4
  let (sn, c) := quarter (f % 2 ^ 62)
  if q = 0 then (c, sn) else if q = 1 then (-sn, c) else if q = 2 then (-c, -sn) else (sn, -c)

/-- A scaled reference as a word. -/
def fxWord (v : Int) : Word := ftz (fword (pack f32 .nearest (decide (v < 0)) v.natAbs (-62)))

/-- A CORDIC result: any value within the stated 2^-20 of the exact one, so a free word is taken where it lies within the
bound of the reference, and the rounded reference where it does not (R126, log 40). -/
def nearOr (w : Word) (ref : Int) : Word :=
  match fval (ftz w) with
  | .fin sg m e =>
    let v : Int := if 0 ≤ e + 62 then scaled sg m (e + 62) 0 else (if sg then -1 else 1) * ((m / 2 ^ (-(e + 62)).toNat : Nat) : Int)
    if (v - ref).natAbs + 1024 ≤ 2 ^ 42 then ftz w else fxWord ref
  | _ => fxWord ref

/-- The fraction of a turn of a word, scaled by 2^64. -/
def turn64 (w : Word) : Option Nat := (floorOf w).map fun (_, m, e) => m * 2 ^ 64 / 2 ^ (-e).toNat

/-- The NaN of R126. -/
def qnan : Word := 0x7FC00000

/-- The first-quadrant angle of (x, y), both at least 0 and not both 0, in units of 2^-40 quarter turns, by bisection. -/
def quadAngle (x y : Nat) : Nat → Nat → Nat
  | 0, r => r
  | k + 1, r =>
    let t := r + 2 ^ k
    let (sn, c) := quarter (t * 2 ^ 22)
    quadAngle x y k (if sn * x ≤ c * y then t else r)

/-- The angle of (x, y) in turns, scaled by 2^62. -/
def angleRef (x y : Int) : Int :=
  let q := (quadAngle x.natAbs y.natAbs 40 0 : Int) * 2 ^ 20
  let a := if 0 ≤ x then q else 2 ^ 61 - q
  if y < 0 then 2 ^ 62 - a else a

/-- The magnitude of (x, y): a free word within 2^-20 relative of the exact root, or the rounded root (R126, log 40). -/
def magWord (w : Word) (x y : Int) (k : Int) : Word :=
  let n := (x * x + y * y).toNat * 2 ^ 60
  let r := isqrt n
  let ref := ftz (fword (pack f32 .nearest false r (k - 30)))
  match fval (ftz w) with
  | .fin false m e =>
    let kk := min e (k - 30)
    let a := (scaled false m e kk).natAbs
    let b := (scaled false r (k - 30) kk).natAbs
    if (if a ≤ b then b - a else a - b) * 2 ^ 20 + b / 2 ^ 28 ≤ b then ftz w else ref
  | _ => ref

/-! ### Operations -/

/-- nop (R127). -/
def execLeNop (p : PackIx) (s : State) : Out := ok (s.leOp p (.leNop p) 1 id)

/-- end: the run ends, and all its staged stores are released (R127, R128). Inside a repetition it stops the run. -/
def execLeEnd (p : PackIx) (s : State) : Out :=
  ok (s.leFetch p (some (.leEnd p)) fun s => if (s.eng p).rep.isSome then s.progErr p else s.release p (s.ea p))

/-- rep: the next c + 1 operations run n + 1 times; a rep inside a body stops the run (R127). -/
def execRep (p : PackIx) (c : Fin 16) (n : Fin 64) (s : State) : Out :=
  ok (if s.busy p && (s.eng p).rep.isSome then s.leFetch p (some (.rep p c n)) fun s => s.progErr p
    else s.leOp p (.rep p c n) 1 fun s => s.updEng p fun k => { k with rep := some (k.pc + 1, c + 1, n + 1) })

/-- vadd (R126). -/
def execVadd (p : PackIx) (d a b : VReg) (s : State) : Out := ok (s.vop2 p (.vadd p d a b) 2 d a b engAdd)

/-- vsub (R126). -/
def execVsub (p : PackIx) (d a b : VReg) (s : State) : Out := ok (s.vop2 p (.vsub p d a b) 2 d a b engSub)

/-- vmul (R126). -/
def execVmul (p : PackIx) (d a b : VReg) (s : State) : Out := ok (s.vop2 p (.vmul p d a b) 2 d a b engMul)

/-- vfma: one rounding (R126). -/
def execVfma (p : PackIx) (d a b c : VReg) (s : State) : Out :=
  ok (s.vop p (.vfma p d a b c) 3 d fun k i => engFma (k.lane a i) (k.lane b i) (k.lane c i))

/-- vdot: the exact sum of the exact products, rounded once (R126). -/
def execVdot (p : PackIx) (d a b : VReg) (s : State) : Out :=
  ok (s.vop p (.vdot p d a b) 4 d fun k i => if i = 0 then engDot ((List.range 4).map fun j => (k.lane a j, k.lane b j)) else 0)

/-- vmin: minimumNumber (R126). -/
def execVmin (p : PackIx) (d a b : VReg) (s : State) : Out := ok (s.vop2 p (.vmin p d a b) 2 d a b engMin)

/-- vmax: maximumNumber (R126). -/
def execVmax (p : PackIx) (d a b : VReg) (s : State) : Out := ok (s.vop2 p (.vmax p d a b) 2 d a b engMax)

/-- vclamp: min(max(a, b), c); a NaN lane of a gives b (R127). -/
def execVclamp (p : PackIx) (d a b c : VReg) (s : State) : Out :=
  ok (s.vop p (.vclamp p d a b c) 2 d fun k i =>
    if isNanW (k.lane a i) then ftz (k.lane b i) else engMin (engMax (k.lane a i) (k.lane b i)) (k.lane c i))

/-- vcmpgt (R127). -/
def execVcmpgt (p : PackIx) (d a b : VReg) (s : State) : Out := ok (s.vop2 p (.vcmpgt p d a b) 1 d a b engGt)

/-- vcmpge (R127). -/
def execVcmpge (p : PackIx) (d a b : VReg) (s : State) : Out := ok (s.vop2 p (.vcmpge p d a b) 1 d a b engGe)

/-- vsel: a where c is not 0.0, else b (R127). -/
def execVsel (p : PackIx) (d a b c : VReg) (s : State) : Out :=
  ok (s.vop p (.vsel p d a b c) 1 d fun k i => if ftz (k.lane c i) &&& 0x7FFFFFFF = 0 then k.lane b i else k.lane a i)

/-- vswz (R127). -/
def execVswz (p : PackIx) (d a : VReg) (sel : BitVec 8) (s : State) : Out :=
  ok (s.vop p (.vswz p d a sel) 1 d fun k i => k.lane a (sel.toNat / 4 ^ i % 4))

/-- vabs (R126, R127). -/
def execVabs (p : PackIx) (d a : VReg) (s : State) : Out := ok (s.vop p (.vabs p d a) 1 d fun k i => ftz (k.lane a i) &&& 0x7FFFFFFF)

/-- vneg (R126, R127). -/
def execVneg (p : PackIx) (d a : VReg) (s : State) : Out := ok (s.vop p (.vneg p d a) 1 d fun k i => ftz (k.lane a i) ^^^ 0x80000000)

/-- vli: a lane set to a signed integer (R127). -/
def execVli (p : PackIx) (d : VReg) (k : VLane) (imm : BitVec 8) (s : State) : Out :=
  ok (s.leOp p (.vli p d k imm) 1 fun s => s.updEng p fun q => q.setLane d k (intWord imm.toInt))

/-- vrcp: 1 / a (R126). -/
def execVrcp (p : PackIx) (d a : VReg) (s : State) : Out := ok (s.vop p (.vrcp p d a) 6 d fun k i => engDiv 0x3F800000 (k.lane a i))

/-- 1 / √a, rounded once (R126). -/
def engRsqrt (w : Word) : Word :=
  match fval (ftz w) with
  | .nan _ => qnan
  | .inf sg => if sg then qnan else 0
  | .fin sg m e =>
    if m = 0 then (if sg then 0xFF800000 else 0x7F800000)
    else if sg then qnan
    else
      let n := if e % 2 = 0 then m else 2 * m
      let e' := if e % 2 = 0 then e else e - 1
      let r := isqrt (2 ^ 160 / n)
      ftz (fword (pack f32 .nearest false (2 * r + (if r * r * n = 2 ^ 160 then 0 else 1)) (-81 - e' / 2)))

/-- vrsqrt (R126). -/
def execVrsqrt (p : PackIx) (d a : VReg) (s : State) : Out := ok (s.vop p (.vrsqrt p d a) 6 d fun k i => engRsqrt (k.lane a i))

/-- vsqrt (R126). -/
def execVsqrt (p : PackIx) (d a : VReg) (s : State) : Out := ok (s.vop p (.vsqrt p d a) 8 d fun k i => engSqrt (k.lane a i))

/-- vdiv (R126). -/
def execVdiv (p : PackIx) (d a b : VReg) (s : State) : Out := ok (s.vop2 p (.vdiv p d a b) 10 d a b engDiv)

/-- csc: cosine and sine of a.x turns (R126, log 40). -/
def execCsc (p : PackIx) (d a : VReg) (s : State) : Out :=
  ok (s.leOp p (.csc p d a) 8 fun s =>
    let x := (s.eng p).lane a 0
    let (s1, w1) := s.fresh
    let (s2, w2) := s1.fresh
    match turn64 x with
    | none => s2.updEng p fun k => k.setVec d fun i => if i < 2 then qnan else 0
    | some f =>
      let (c, sn) := cosSin f
      s2.updEng p fun k => k.setVec d fun i => if i = 0 then nearOr w1 c else if i = 1 then nearOr w2 sn else 0)

/-- (x, y) rotated by `b` turns with a sine and a cosine within 2^-20 of the exact ones, each product sum rounded once (R126, log 40); an
angle that is no number gives NaN. -/
def rotated (x y b wc ws : Word) : Word × Word :=
  match turn64 b with
  | none => (qnan, qnan)
  | some f =>
    let (c, sn) := cosSin f
    let c := nearOr wc c
    let sn := nearOr ws sn
    (engDot [(x, c), (y ^^^ 0x80000000, sn)], engDot [(x, sn), (y, c)])

/-- crot: two rotations (R126, log 40). -/
def execCrot (p : PackIx) (d a b : VReg) (s : State) : Out :=
  ok (s.leOp p (.crot p d a b) 8 fun s =>
    let k := s.eng p
    let (s1, w0) := s.fresh
    let (s2, w1) := s1.fresh
    let (s3, w2) := s2.fresh
    let (s4, w3) := s3.fresh
    let u := rotated (k.lane a 0) (k.lane a 1) (k.lane b 0) w0 w1
    let v := rotated (k.lane a 2) (k.lane a 3) (k.lane b 1) w2 w3
    s4.updEng p fun k => k.setVec d fun i => if i = 0 then u.1 else if i = 1 then u.2 else if i = 2 then v.1 else v.2)

/-- cvec: magnitude and angle of (a.x, a.y); (0, 0) gives 0, 0; the angle of an infinite vector is free in [0, 1) (R126, R127, log
40). -/
def execCvec (p : PackIx) (d a : VReg) (s : State) : Out :=
  ok (s.leOp p (.cvec p d a) 9 fun s =>
    let x := (s.eng p).lane a 0
    let y := (s.eng p).lane a 1
    let (s1, w1) := s.fresh
    let (s2, w2) := s1.fresh
    let set (m g : Word) : State := s2.updEng p fun k => k.setVec d fun i => if i = 0 then m else if i = 1 then g else 0
    match fval (ftz x), fval (ftz y) with
    | .fin sx mx ex, .fin sy my ey =>
      if mx = 0 ∧ my = 0 then set 0 0
      else
        let k := min ex ey
        let u := scaled sx mx ex k
        let v := scaled sy my ey k
        let g := nearOr w2 (angleRef u v)
        set (magWord w1 u v k) (if ltW g 0 || leW 0x3F800000 g then fxWord (min (angleRef u v) (2 ^ 62 - 2 ^ 38)) else g)
    | vx, vy => if vx.isNan || vy.isNan then set qnan qnan else set 0x7F800000 (ratWord (w2.toNat % 2 ^ 24 : Nat) (2 ^ 24)))

/-- A lane brought into [−0.5, 0.5) by whole turns; exact (R127). -/
def wrapWord (w : Word) : Word :=
  match fval (ftz w) with
  | .fin sg m e =>
    if 0 ≤ e then if sg && m == 0 then 0x80000000 else 0
    else
      let den : Int := 2 ^ (-e).toNat
      let v : Int := if sg then -(m : Int) else m
      let n := (2 * v + den) / (2 * den)
      if n = 0 then ftz w else
        let r := v - n * den
        ftz (fword (pack f32 .nearest (decide (r < 0)) r.natAbs e))
  | _ => qnan

/-- cwrap (R127). -/
def execCwrap (p : PackIx) (d a : VReg) (s : State) : Out := ok (s.vop p (.cwrap p d a) 1 d fun k i => wrapWord (k.lane a i))

/-- aclr (R127). -/
def execAclr (p : PackIx) (acc : Fin 4) (s : State) : Out :=
  ok (s.leOp p (.aclr p acc) 1 fun s => s.updEng p fun k => (List.range 4).foldl (fun k i =>
    { k with acc := k.acc.set 0 (4 * acc + i) 0, lo := k.lo.set 0xFF800000 (4 * acc + i) 0xFF800000,
             hi := k.hi.set 0x7F800000 (4 * acc + i) 0x7F800000 }) k)

/-- alim: limits; where lower > upper, both are upper (R127). -/
def execAlim (p : PackIx) (a b : VReg) (acc : Fin 4) (s : State) : Out :=
  ok (s.leOp p (.alim p a b acc) 1 fun s => s.updEng p fun k => (List.range 4).foldl (fun k i =>
    let u := k.lane b i
    let l := if ltW u (k.lane a i) then u else k.lane a i
    { k with lo := k.lo.set 0xFF800000 (4 * acc + i) l, hi := k.hi.set 0x7F800000 (4 * acc + i) u }) k)

/-- amac: one rounding, then clamped (R127). -/
def execAmac (p : PackIx) (a b : VReg) (acc : Fin 4) (s : State) : Out :=
  ok (s.leOp p (.amac p a b acc) 3 fun s => s.updEng p fun k => k.accum acc fun v i => engFma (k.lane a i) (k.lane b i) v)

/-- aadd: added, then clamped (R127). -/
def execAadd (p : PackIx) (a : VReg) (acc : Fin 4) (s : State) : Out :=
  ok (s.leOp p (.aadd p a acc) 2 fun s => s.updEng p fun k => k.accum acc fun v i => engAdd v (k.lane a i))

/-- aget (R127). -/
def execAget (p : PackIx) (d : VReg) (acc : Fin 4) (s : State) : Out :=
  ok (s.vop p (.aget p d acc) 1 d fun k i => k.acc.get 0 (4 * acc + i))

/-! ### Inputs -/

/-- An input the run reads is journaled once in the run (R385). -/
def State.runRec (s : State) (p n : Nat) (x y : Word) (t : Tag) : State :=
  if (s.eng p).read.contains n then s
  else (s.jnl p { ty := 8, pos := s.ea p, a := BitVec.ofNat 32 n, x := x, y := y, tag := t }).updEng p fun k =>
    { k with read := n :: k.read }

/-- What the run is presented in slot `i` (R130, R131). -/
def State.slotNow (s : State) (p i : Nat) : InSlot := if 16 ≤ i then {} else SMap.get {} (s.ax p (s.ea p)).slots i

/-- Journal slot `i` as an input of the run. -/
def State.readSlot (s : State) (p i : Nat) : State :=
  if 16 ≤ i then s
  else
    let x := s.slotNow p i
    s.runRec p i x.pv (BitVec.ofNat 32 x.pw) x.ptag

/-- A tag less the tag of Bk in ns (ltg, lrs). -/
def State.sinceBk (s : State) (p : Nat) (t : Tag) : Word := ratWord (t - (s.ax p (s.ea p)).bk).toInt 16

/-- lin (R130, R131). -/
def execLin (p : PackIx) (d : VReg) (k : VLane) (sl : Fin 16) (s : State) : Out :=
  ok (s.leOp p (.lin p d k sl) 2 fun s => (s.readSlot p sl).updEng p fun q => q.setLane d k (s.slotNow p sl).pv)

/-- lin4: slots beyond 15 give 0.0 (R130, R131). -/
def execLin4 (p : PackIx) (d : VReg) (sl : Fin 16) (s : State) : Out :=
  ok (s.leOp p (.lin4 p d sl) 3 fun s => ((List.range 4).foldl (fun s i => s.readSlot p (sl + i)) s).updEng p fun q =>
    q.setVec d fun i => (s.slotNow p (sl + i)).pv)

/-- lflg: the flag word as its integer value (R126, R131). -/
def execLflg (p : PackIx) (d : VReg) (k : VLane) (sl : Fin 16) (s : State) : Out :=
  ok (s.leOp p (.lflg p d k sl) 1 fun s => (s.readSlot p sl).updEng p fun q => q.setLane d k (intWord (s.slotNow p sl).pw))

/-- ltg: the slot's tag less the tag of Bk, in ns (R127). -/
def execLtg (p : PackIx) (d : VReg) (k : VLane) (sl : Fin 16) (s : State) : Out :=
  ok (s.leOp p (.ltg p d k sl) 2 fun s => (s.readSlot p sl).updEng p fun q => q.setLane d k (s.sinceBk p (s.slotNow p sl).ptag))

/-- lrs: a resolver pair; an entry that holds none reads 0.0 (R127, R130). -/
def execLrs (p : PackIx) (d : VReg) (sl : Fin 16) (e : Fin 4) (s : State) : Out :=
  ok (s.leOp p (.lrs p d sl e) 3 fun s =>
    match (s.slotNow p sl).fifo[e.val]? with
    | none => s.updEng p fun q => q.setVec d fun _ => 0
    | some (smp, info, t) =>
      let code (f : Fld) : Word := ratWord (BitVec.ofNat 16 (f.get smp)).toInt 32768
      (s.runRec p (16 + 4 * sl + e) smp info t).updEng p fun q => q.setVec d fun i =>
        if i = 0 then code F.RSV_SMP.sin else if i = 1 then code F.RSV_SMP.cos
        else if i = 2 then (if info.getLsbD 0 then 0xBF800000 else 0x3F800000) else s.sinceBk p t)

/-- lsp: a ramp value (R146). -/
def execLsp (p : PackIx) (d : VReg) (k : VLane) (n : Fin 4) (s : State) : Out :=
  ok (s.leOp p (.lsp p d k n) 2 fun s => (s.runRec p (80 + n) (s.rd .LE_RAMP_V p (s.ea p) n) 0 s.now).updEng p fun q =>
    q.setLane d k (s.rd .LE_RAMP_V p (s.ea p) n))

/-- lk: four coefficient words of the current gait; words beyond 127 give 0.0 (R150). -/
def execLk (p : PackIx) (d : VReg) (w : Fin 128) (s : State) : Out :=
  ok (s.leOp p (.lk p d w) 2 fun s =>
    let a := s.ea p
    let base := 128 * s.f F.LE_GAIT_SEL.cur p a + w
    let ws := (List.range 4).filter fun i => w.val + i < 128
    s.leUse p (ws.map fun i => (.LE_COEF, a, base + i)) fun s => s.updEng p fun q => q.setVec d fun i =>
      if w.val + i < 128 then s.rd .LE_COEF p a (base + i) else 0)

/-- lst: a state vector, as the run's own stores have left it (R128). -/
def execLst (p : PackIx) (d : VReg) (w : Fin 64) (s : State) : Out :=
  ok (s.leOp p (.lst p d w) 2 fun s =>
    let a := s.ea p
    match SMap.get none (s.eng p).st w with
    | some vs => s.updEng p fun q => q.setVec d fun i => vs.getD i 0
    | none => s.leUse p ((List.range 4).map fun i => (.LE_STATE, a, 4 * w + i)) fun s => s.updEng p fun q =>
      q.setVec d fun i => s.rd .LE_STATE p a (4 * w + i))

/-- sst: a staged store of a state vector (R128). -/
def execSst (p : PackIx) (a : VReg) (w : Fin 64) (s : State) : Out :=
  ok (s.leOp p (.sst p a w) 2 fun s => s.updEng p fun q => { q with st := q.st.set none w (some (q.vec a)) })

/-- lmode: state, first run, period in ns, gait (R145). -/
def execLmode (p : PackIx) (d : VReg) (s : State) : Out :=
  ok (s.leOp p (.lmode p d) 1 fun s =>
    let a := s.ea p
    s.updEng p fun q => q.setVec d fun i =>
      if i = 0 then (if s.axSt p a = 4 then 0x3F800000 else 0)
      else if i = 1 then (if q.first then 0x3F800000 else 0)
      else if i = 2 then intWord (s.axTicks p a) else intWord (s.f F.LE_GAIT_SEL.cur p a))

/-! ### Staged outputs -/

/-- dout: staged duties of the member indices whose mask bit is 1 (R128, R129). -/
def execDout (p : PackIx) (a : VReg) (base : Fin 8) (mask : BitVec 4) (s : State) : Out :=
  ok (s.leOp p (.dout p a base mask) 2 fun s => s.updEng p fun q => (List.range 4).foldl (fun k i =>
    if mask.getLsbD i then { k with duty := k.duty.set none (base + i) (some (k.lane a i)) } else k) q)

/-- mout: a staged measurement output (R128). -/
def execMout (p : PackIx) (a : VReg) (mo : Fin 8) (k : VLane) (s : State) : Out :=
  ok (s.leOp p (.mout p a mo k) 2 fun s => s.updEng p fun q => { q with mout := q.mout.set none mo (some (q.lane a k)) })

/-- eout: the staged emulator angle, a.x brought into [0, 1) turns; for an infinity or a NaN the spec states none, and it is
free (R122, R128, log 40). -/
def execEout (p : PackIx) (a : VReg) (s : State) : Out :=
  ok (s.leOp p (.eout p a) 2 fun s =>
    let (s1, w) := s.fresh
    match floorOf ((s.eng p).lane a 0) with
    | some (_, m, e) => s1.updEng p fun q => { q with eout := some (m * 2 ^ 32 / 2 ^ (-e).toNat) }
    | none => s1.updEng p fun q => { q with eout := some w.toNat })

/-- evt: a staged event (R128, R129). -/
def execEvt (p : PackIx) (ch : Fin 64) (s : State) : Out :=
  ok (s.leOp p (.evt p ch) 2 fun s => s.updEng p fun q => { q with evts := q.evts ++ [ch.val] })

/-- RUN_STOP (R127): the run meets a reserved op code, or stands past the last index; the other cases stop it within the operation that
brings them. -/
def execRunStop (p : PackIx) (s : State) : Out := ok (s.leFetch p none fun s => s.progErr p)

/-- RUN_READY_DEADLINE (R134). -/
def execRunReadyDeadline (p : PackIx) (a : AxisIx) (s : State) : Out := ok (s.readyAt p a)

/-- RUN_START (R135). -/
def execRunStart (p : PackIx) (s : State) : Out := ok (s.runStart p)

/-- RELEASE_LIMIT (R137). -/
def execReleaseLimit (p : PackIx) (a : AxisIx) (s : State) : Out := ok (s.limitAt p a)

end Sys2Proof.Machine
end

