-- ==== Sys2Proof/Machine/Dispatch.lean ====
section
/-! DEFINITION. The dispatch of commands to their meanings, one arm per constructor of Instr. -/

namespace Sys2Proof.Machine

/-- The effect of a command on everything but the queue. -/
def exec (i : Instr) (s : State) : Host.Outcome State Fault Refusal :=
  match i with
  | .registerWrite m a v => Sys2Proof.Machine.execRegisterWrite m a v s
  | .readLatchLo m a => Sys2Proof.Machine.execReadLatchLo m a s
  | .writeLatchHi m a v => Sys2Proof.Machine.execWriteLatchHi m a v s
  | .loWriteCommit m a v => Sys2Proof.Machine.execLoWriteCommit m a v s
  | .periodBoundary p x => Sys2Proof.Machine.execPeriodBoundary p x s
  | .baseBoundary p => Sys2Proof.Machine.execBaseBoundary p s
  | .fieldLinkLoss => Sys2Proof.Machine.execFieldLinkLoss s
  | .memoryLinkLoss => Sys2Proof.Machine.execMemoryLinkLoss s
  | .d2dTransferRetry l => Sys2Proof.Machine.execD2dTransferRetry l s
  | .d2dIdleTimeout l => Sys2Proof.Machine.execD2dIdleTimeout l s
  | .d2dRetrainDone l => Sys2Proof.Machine.execD2dRetrainDone l s
  | .d2dRetrainTimeout l => Sys2Proof.Machine.execD2dRetrainTimeout l s
  | .tsync ln domain gm => Sys2Proof.Machine.execTsync ln domain gm s
  | .syncLossTimeout => Sys2Proof.Machine.execSyncLossTimeout s
  | .aoShadowCopy => Sys2Proof.Machine.execAoShadowCopy s
  | .slotArm m n skipLate kind => Sys2Proof.Machine.execSlotArm m n skipLate kind s
  | .slotDisarm m n skipLate kind => Sys2Proof.Machine.execSlotDisarm m n skipLate kind s
  | .slotFire n => Sys2Proof.Machine.execSlotFire n s
  | .slotRefusal n => Sys2Proof.Machine.execSlotRefusal n s
  | .sampleHold p e => Sys2Proof.Machine.execSampleHold p e s
  | .conversionEnd p sar code => Sys2Proof.Machine.execConversionEnd p sar code s
  | .reconversionEnd p sar code => Sys2Proof.Machine.execReconversionEnd p sar code s
  | .sampleRouterDelivery p => Sys2Proof.Machine.execSampleRouterDelivery p s
  | .selfcal m p => Sys2Proof.Machine.execSelfcal m p s
  | .selfcalDone p ok => Sys2Proof.Machine.execSelfcalDone p ok s
  | .calSetCommit m p sdm k cfg => Sys2Proof.Machine.execCalSetCommit m p sdm k cfg s
  | .resultSnapshotRead m a => Sys2Proof.Machine.execResultSnapshotRead m a s
  | .sdmEnable m p n v => Sys2Proof.Machine.execSdmEnable m p n v s
  | .decimatorOutput p n bits => Sys2Proof.Machine.execDecimatorOutput p n bits s
  | .fastPathOutput p n bits => Sys2Proof.Machine.execFastPathOutput p n bits s
  | .modulatorStuck p n => Sys2Proof.Machine.execModulatorStuck p n s
  | .stuckClear p n => Sys2Proof.Machine.execStuckClear p n s
  | .resolverEnable m p r v => Sys2Proof.Machine.execResolverEnable m p r v s
  | .resolverHold p r pol => Sys2Proof.Machine.execResolverHold p r pol s
  | .modeChange m p ix v => Sys2Proof.Machine.execModeChange m p ix v s
  | .invChange m p ix v => Sys2Proof.Machine.execInvChange m p ix v s
  | .positionEdge p ix e more => Sys2Proof.Machine.execPositionEdge p ix e more s
  | .standstillTimeout p ix => Sys2Proof.Machine.execStandstillTimeout p ix s
  | .positionLatch p ix => Sys2Proof.Machine.execPositionLatch p ix s
  | .posSnapshotRead m p ix => Sys2Proof.Machine.execPosSnapshotRead m p ix s
  | .pinDiagnostic p ix k d => Sys2Proof.Machine.execPinDiagnostic p ix k d s
  | .pinDiagnosticClear p ix k d => Sys2Proof.Machine.execPinDiagnosticClear p ix k d s
  | .sensorSupplyEnable m n autoRetry => Sys2Proof.Machine.execSensorSupplyEnable m n autoRetry s
  | .sensorSupplyShort e => Sys2Proof.Machine.execSensorSupplyShort e s
  | .sensorSupplyRetry n => Sys2Proof.Machine.execSensorSupplyRetry n s
  | .sensorReverseBlock n => Sys2Proof.Machine.execSensorReverseBlock n s
  | .sensorUndervoltage n => Sys2Proof.Machine.execSensorUndervoltage n s
  | .emulatorEdge p => Sys2Proof.Machine.execEmulatorEdge p s
  | .resync m p => Sys2Proof.Machine.execResync m p s
  | .runReadyDeadline p a => Sys2Proof.Machine.execRunReadyDeadline p a s
  | .runStart p => Sys2Proof.Machine.execRunStart p s
  | .leNop p => Sys2Proof.Machine.execLeNop p s
  | .leEnd p => Sys2Proof.Machine.execLeEnd p s
  | .rep p c n => Sys2Proof.Machine.execRep p c n s
  | .vadd p d a b => Sys2Proof.Machine.execVadd p d a b s
  | .vsub p d a b => Sys2Proof.Machine.execVsub p d a b s
  | .vmul p d a b => Sys2Proof.Machine.execVmul p d a b s
  | .vfma p d a b c => Sys2Proof.Machine.execVfma p d a b c s
  | .vdot p d a b => Sys2Proof.Machine.execVdot p d a b s
  | .vmin p d a b => Sys2Proof.Machine.execVmin p d a b s
  | .vmax p d a b => Sys2Proof.Machine.execVmax p d a b s
  | .vclamp p d a b c => Sys2Proof.Machine.execVclamp p d a b c s
  | .vcmpgt p d a b => Sys2Proof.Machine.execVcmpgt p d a b s
  | .vcmpge p d a b => Sys2Proof.Machine.execVcmpge p d a b s
  | .vsel p d a b c => Sys2Proof.Machine.execVsel p d a b c s
  | .vswz p d a sel => Sys2Proof.Machine.execVswz p d a sel s
  | .vabs p d a => Sys2Proof.Machine.execVabs p d a s
  | .vneg p d a => Sys2Proof.Machine.execVneg p d a s
  | .vli p d k imm => Sys2Proof.Machine.execVli p d k imm s
  | .vrcp p d a => Sys2Proof.Machine.execVrcp p d a s
  | .vrsqrt p d a => Sys2Proof.Machine.execVrsqrt p d a s
  | .vsqrt p d a => Sys2Proof.Machine.execVsqrt p d a s
  | .vdiv p d a b => Sys2Proof.Machine.execVdiv p d a b s
  | .csc p d a => Sys2Proof.Machine.execCsc p d a s
  | .crot p d a b => Sys2Proof.Machine.execCrot p d a b s
  | .cvec p d a => Sys2Proof.Machine.execCvec p d a s
  | .cwrap p d a => Sys2Proof.Machine.execCwrap p d a s
  | .aclr p acc => Sys2Proof.Machine.execAclr p acc s
  | .alim p a b acc => Sys2Proof.Machine.execAlim p a b acc s
  | .amac p a b acc => Sys2Proof.Machine.execAmac p a b acc s
  | .aadd p a acc => Sys2Proof.Machine.execAadd p a acc s
  | .aget p d acc => Sys2Proof.Machine.execAget p d acc s
  | .lin p d k sl => Sys2Proof.Machine.execLin p d k sl s
  | .lin4 p d sl => Sys2Proof.Machine.execLin4 p d sl s
  | .lflg p d k sl => Sys2Proof.Machine.execLflg p d k sl s
  | .ltg p d k sl => Sys2Proof.Machine.execLtg p d k sl s
  | .lrs p d sl e => Sys2Proof.Machine.execLrs p d sl e s
  | .lsp p d k n => Sys2Proof.Machine.execLsp p d k n s
  | .lk p d w => Sys2Proof.Machine.execLk p d w s
  | .lst p d w => Sys2Proof.Machine.execLst p d w s
  | .sst p a w => Sys2Proof.Machine.execSst p a w s
  | .lmode p d => Sys2Proof.Machine.execLmode p d s
  | .dout p a base mask => Sys2Proof.Machine.execDout p a base mask s
  | .mout p a mo k => Sys2Proof.Machine.execMout p a mo k s
  | .eout p a => Sys2Proof.Machine.execEout p a s
  | .evt p ch => Sys2Proof.Machine.execEvt p ch s
  | .runStop p => Sys2Proof.Machine.execRunStop p s
  | .releaseLimit p a => Sys2Proof.Machine.execReleaseLimit p a s
  | .arm m p a => Sys2Proof.Machine.execArm m p a s
  | .axisOpen m p a => Sys2Proof.Machine.execAxisOpen m p a s
  | .axisClose m p a => Sys2Proof.Machine.execAxisClose m p a s
  | .disarm m p a => Sys2Proof.Machine.execDisarm m p a s
  | .gaitForce m p a en g => Sys2Proof.Machine.execGaitForce m p a en g s
  | .coefficientWrite m p a g w v => Sys2Proof.Machine.execCoefficientWrite m p a g w v s
  | .carrierStart p l => Sys2Proof.Machine.execCarrierStart p l s
  | .pwmEdge p l high => Sys2Proof.Machine.execPwmEdge p l high s
  | .deadTimeExpiry p l => Sys2Proof.Machine.execDeadTimeExpiry p l s
  | .blankingEnd p l => Sys2Proof.Machine.execBlankingEnd p l s
  | .peakThresholdStep p l => Sys2Proof.Machine.execPeakThresholdStep p l s
  | .loadGo m p x => Sys2Proof.Machine.execLoadGo m p x s
  | .setEnable m p x => Sys2Proof.Machine.execSetEnable m p x s
  | .setDisable m p x => Sys2Proof.Machine.execSetDisable m p x s
  | .legOn m p mask => Sys2Proof.Machine.execLegOn m p mask s
  | .legOff m p mask => Sys2Proof.Machine.execLegOff m p mask s
  | .sequenceDwellEnd p who => Sys2Proof.Machine.execSequenceDwellEnd p who s
  | .forceWrite m p x code => Sys2Proof.Machine.execForceWrite m p x code s
  | .maskEvent p x t state => Sys2Proof.Machine.execMaskEvent p x t state s
  | .maskEventApply p x => Sys2Proof.Machine.execMaskEventApply p x s
  | .maskPtrWrite m p x v => Sys2Proof.Machine.execMaskPtrWrite m p x v s
  | .comparatorLevelChange p n isU e more => Sys2Proof.Machine.execComparatorLevelChange p n isU e more s
  | .thresholdWrite m p n v => Sys2Proof.Machine.execThresholdWrite m p n v s
  | .readback m p => Sys2Proof.Machine.execReadback m p s
  | .readbackDone p codes => Sys2Proof.Machine.execReadbackDone p codes s
  | .checkWindowOpen p n => Sys2Proof.Machine.execCheckWindowOpen p n s
  | .checkWindowEnd p n u l => Sys2Proof.Machine.execCheckWindowEnd p n u l s
  | .checkRestoreEnd p n => Sys2Proof.Machine.execCheckRestoreEnd p n s
  | .protectionInputChange p l low e more => Sys2Proof.Machine.execProtectionInputChange p l low e more s
  | .incidentWindowEnd p => Sys2Proof.Machine.execIncidentWindowEnd p s
  | .softwareTrip m p mask => Sys2Proof.Machine.execSoftwareTrip m p mask s
  | .tripClear m p x => Sys2Proof.Machine.execTripClear m p x s
  | .thermalSample ix temp => Sys2Proof.Machine.execThermalSample ix temp s
  | .thermalSensorTimeout ix => Sys2Proof.Machine.execThermalSensorTimeout ix s
  | .setTrial m => Sys2Proof.Machine.execSetTrial m s
  | .confirm m => Sys2Proof.Machine.execConfirm m s
  | .markBad m => Sys2Proof.Machine.execMarkBad m s
  | .raiseSvn m => Sys2Proof.Machine.execRaiseSvn m s
  | .stage m => Sys2Proof.Machine.execStage m s
  | .stagingDone => Sys2Proof.Machine.execStagingDone s
  | .swapGo m => Sys2Proof.Machine.execSwapGo m s
  | .swapAbort m => Sys2Proof.Machine.execSwapAbort m s
  | .revert m => Sys2Proof.Machine.execRevert m s
  | .recoveryImage a len => Sys2Proof.Machine.execRecoveryImage a len s
  | .add c rd ra rb => Sys2Proof.Machine.execAdd c rd ra rb s
  | .sub c rd ra rb => Sys2Proof.Machine.execSub c rd ra rb s
  | .and_ c rd ra rb => Sys2Proof.Machine.execAnd c rd ra rb s
  | .or_ c rd ra rb => Sys2Proof.Machine.execOr c rd ra rb s
  | .xor_ c rd ra rb => Sys2Proof.Machine.execXor c rd ra rb s
  | .nor c rd ra rb => Sys2Proof.Machine.execNor c rd ra rb s
  | .sll c rd ra rb => Sys2Proof.Machine.execSll c rd ra rb s
  | .srl c rd ra rb => Sys2Proof.Machine.execSrl c rd ra rb s
  | .sra c rd ra rb => Sys2Proof.Machine.execSra c rd ra rb s
  | .slli c rd ra sh => Sys2Proof.Machine.execSlli c rd ra sh s
  | .srli c rd ra sh => Sys2Proof.Machine.execSrli c rd ra sh s
  | .srai c rd ra sh => Sys2Proof.Machine.execSrai c rd ra sh s
  | .slt c rd ra rb => Sys2Proof.Machine.execSlt c rd ra rb s
  | .sltu c rd ra rb => Sys2Proof.Machine.execSltu c rd ra rb s
  | .seq c rd ra rb => Sys2Proof.Machine.execSeq c rd ra rb s
  | .sne c rd ra rb => Sys2Proof.Machine.execSne c rd ra rb s
  | .min_ c rd ra rb => Sys2Proof.Machine.execMin c rd ra rb s
  | .max_ c rd ra rb => Sys2Proof.Machine.execMax c rd ra rb s
  | .minu c rd ra rb => Sys2Proof.Machine.execMinu c rd ra rb s
  | .maxu c rd ra rb => Sys2Proof.Machine.execMaxu c rd ra rb s
  | .mul c rd ra rb => Sys2Proof.Machine.execMul c rd ra rb s
  | .mulh c rd ra rb => Sys2Proof.Machine.execMulh c rd ra rb s
  | .mulhu c rd ra rb => Sys2Proof.Machine.execMulhu c rd ra rb s
  | .div c rd ra rb => Sys2Proof.Machine.execDiv c rd ra rb s
  | .divu c rd ra rb => Sys2Proof.Machine.execDivu c rd ra rb s
  | .rem c rd ra rb => Sys2Proof.Machine.execRem c rd ra rb s
  | .remu c rd ra rb => Sys2Proof.Machine.execRemu c rd ra rb s
  | .addi c rd ra imm => Sys2Proof.Machine.execAddi c rd ra imm s
  | .andi c rd ra imm => Sys2Proof.Machine.execAndi c rd ra imm s
  | .ori c rd ra imm => Sys2Proof.Machine.execOri c rd ra imm s
  | .xori c rd ra imm => Sys2Proof.Machine.execXori c rd ra imm s
  | .slti c rd ra imm => Sys2Proof.Machine.execSlti c rd ra imm s
  | .sltiu c rd ra imm => Sys2Proof.Machine.execSltiu c rd ra imm s
  | .lui c rd imm => Sys2Proof.Machine.execLui c rd imm s
  | .ldw c rd ra imm => Sys2Proof.Machine.execLdw c rd ra imm s
  | .ldh c rd ra imm => Sys2Proof.Machine.execLdh c rd ra imm s
  | .ldhu c rd ra imm => Sys2Proof.Machine.execLdhu c rd ra imm s
  | .ldb c rd ra imm => Sys2Proof.Machine.execLdb c rd ra imm s
  | .ldbu c rd ra imm => Sys2Proof.Machine.execLdbu c rd ra imm s
  | .loadDataReturn c => Sys2Proof.Machine.execLoadDataReturn c s
  | .stw c rd ra imm => Sys2Proof.Machine.execStw c rd ra imm s
  | .sth c rd ra imm => Sys2Proof.Machine.execSth c rd ra imm s
  | .stb c rd ra imm => Sys2Proof.Machine.execStb c rd ra imm s
  | .flw c fd ra imm => Sys2Proof.Machine.execFlw c fd ra imm s
  | .fsw c fd ra imm => Sys2Proof.Machine.execFsw c fd ra imm s
  | .beq c ra rb off => Sys2Proof.Machine.execBeq c ra rb off s
  | .bne c ra rb off => Sys2Proof.Machine.execBne c ra rb off s
  | .j c off => Sys2Proof.Machine.execJ c off s
  | .jal c off => Sys2Proof.Machine.execJal c off s
  | .jalr c rd ra imm => Sys2Proof.Machine.execJalr c rd ra imm s
  | .loop c n rc off => Sys2Proof.Machine.execLoop c n rc off s
  | .loopi c n cnt off => Sys2Proof.Machine.execLoopi c n cnt off s
  | .mfs c rd spr => Sys2Proof.Machine.execMfs c rd spr s
  | .mts c ra spr => Sys2Proof.Machine.execMts c ra spr s
  | .eret c => Sys2Proof.Machine.execEret c s
  | .erets c => Sys2Proof.Machine.execErets c s
  | .trap c code => Sys2Proof.Machine.execTrap c code s
  | .flush c ra => Sys2Proof.Machine.execFlush c ra s
  | .vectorLineReloadDone c => Sys2Proof.Machine.execVectorLineReloadDone c s
  | .fence c => Sys2Proof.Machine.execFence c s
  | .yield_ c => Sys2Proof.Machine.execYield c s
  | .fadd c fd fa fb => Sys2Proof.Machine.execFadd c fd fa fb s
  | .fsub c fd fa fb => Sys2Proof.Machine.execFsub c fd fa fb s
  | .fmul c fd fa fb => Sys2Proof.Machine.execFmul c fd fa fb s
  | .fdiv c fd fa fb => Sys2Proof.Machine.execFdiv c fd fa fb s
  | .fsqrt c fd fa => Sys2Proof.Machine.execFsqrt c fd fa s
  | .fmadd c fd fa fb => Sys2Proof.Machine.execFmadd c fd fa fb s
  | .fmin c fd fa fb => Sys2Proof.Machine.execFmin c fd fa fb s
  | .fmax c fd fa fb => Sys2Proof.Machine.execFmax c fd fa fb s
  | .fabs c fd fa => Sys2Proof.Machine.execFabs c fd fa s
  | .fneg c fd fa => Sys2Proof.Machine.execFneg c fd fa s
  | .fmov c fd fa => Sys2Proof.Machine.execFmov c fd fa s
  | .feq c rd fa fb => Sys2Proof.Machine.execFeq c rd fa fb s
  | .flt c rd fa fb => Sys2Proof.Machine.execFlt c rd fa fb s
  | .fle c rd fa fb => Sys2Proof.Machine.execFle c rd fa fb s
  | .fun_ c rd fa fb => Sys2Proof.Machine.execFun c rd fa fb s
  | .fcvtWS c rd fa => Sys2Proof.Machine.execFcvtWS c rd fa s
  | .fcvtSW c fd ra => Sys2Proof.Machine.execFcvtSW c fd ra s
  | .fmvXS c rd fa => Sys2Proof.Machine.execFmvXS c rd fa s
  | .fmvSX c fd ra => Sys2Proof.Machine.execFmvSX c fd ra s
  | .faddD c fd fa fb => Sys2Proof.Machine.execFaddD c fd fa fb s
  | .fsubD c fd fa fb => Sys2Proof.Machine.execFsubD c fd fa fb s
  | .fmulD c fd fa fb => Sys2Proof.Machine.execFmulD c fd fa fb s
  | .fcvtDS c fd fa => Sys2Proof.Machine.execFcvtDS c fd fa s
  | .fcvtSD c fd fa => Sys2Proof.Machine.execFcvtSD c fd fa s
  | .ctxsLo c ra rb => Sys2Proof.Machine.execCtxsLo c ra rb s
  | .ctxsHi c ra rb => Sys2Proof.Machine.execCtxsHi c ra rb s
  | .ctxrLo c rd ra => Sys2Proof.Machine.execCtxrLo c rd ra s
  | .ctxrHi c rd ra => Sys2Proof.Machine.execCtxrHi c rd ra s
  | .reservedEncoding c w => Sys2Proof.Machine.execReservedEncoding c w s
  | .asyncExceptionEntry c => Sys2Proof.Machine.execAsyncExceptionEntry c s
  | .storeErrorResponse c => Sys2Proof.Machine.execStoreErrorResponse c s
  | .lineReadDone c line => Sys2Proof.Machine.execLineReadDone c line s
  | .start c x => Sys2Proof.Machine.execStart c x s
  | .stop c x => Sys2Proof.Machine.execStop c x s
  | .wake c x => Sys2Proof.Machine.execWake c x s
  | .contextSwitch c => Sys2Proof.Machine.execContextSwitch c s
  | .spillComplete c => Sys2Proof.Machine.execSpillComplete c s
  | .restoreComplete c => Sys2Proof.Machine.execRestoreComplete c s
  | .checkpoint c forced => Sys2Proof.Machine.execCheckpoint c forced s
  | .restEntry c => Sys2Proof.Machine.execRestEntry c s
  | .restExit c => Sys2Proof.Machine.execRestExit c s
  | .storeConfirm c => Sys2Proof.Machine.execStoreConfirm c s
  | .readMiss c line => Sys2Proof.Machine.execReadMiss c line s
  | .ownershipRequest c rival line => Sys2Proof.Machine.execOwnershipRequest c rival line s
  | .eviction c line => Sys2Proof.Machine.execEviction c line s
  | .uncachedAccess m write a v => Sys2Proof.Machine.execUncachedAccess m write a v s
  | .initStart m => Sys2Proof.Machine.execInitStart m s
  | .initDone => Sys2Proof.Machine.execInitDone s
  | .scrubRead a => Sys2Proof.Machine.execScrubRead a s
  | .elogPop m => Sys2Proof.Machine.execElogPop m s
  | .elogSnapshotRead m => Sys2Proof.Machine.execElogSnapshotRead m s
  | .pageRetire m n page => Sys2Proof.Machine.execPageRetire m n page s
  | .pageClosed => Sys2Proof.Machine.execPageClosed s
  | .program m => Sys2Proof.Machine.execProgram m s
  | .erase m => Sys2Proof.Machine.execErase m s
  | .retireBlock m => Sys2Proof.Machine.execRetireBlock m s
  | .nvCommandDone verifyFails => Sys2Proof.Machine.execNvCommandDone verifyFails s
  | .dmaStart k cause => Sys2Proof.Machine.execDmaStart k cause s
  | .dmaStop m k => Sys2Proof.Machine.execDmaStop m k s
  | .dmaBurst k => Sys2Proof.Machine.execDmaBurst k s
  | .haltedClear m k => Sys2Proof.Machine.execHaltedClear m k s
  | .raise m ring ch data => Sys2Proof.Machine.execRaise m ring ch data s
  | .leashEventDelivery g => Sys2Proof.Machine.execLeashEventDelivery g s
  | .flagSet m ring w mask => Sys2Proof.Machine.execFlagSet m ring w mask s
  | .flagClear m ring w mask => Sys2Proof.Machine.execFlagClear m ring w mask s
  | .doorbell c v => Sys2Proof.Machine.execDoorbell c v s
  | .doorbellAlias m c v => Sys2Proof.Machine.execDoorbellAlias m c v s
  | .pendSet c ix mask => Sys2Proof.Machine.execPendSet c ix mask s
  | .pendClear c ix mask => Sys2Proof.Machine.execPendClear c ix mask s
  | .maskSet c ix mask => Sys2Proof.Machine.execMaskSet c ix mask s
  | .maskClear c ix mask => Sys2Proof.Machine.execMaskClear c ix mask s
  | .mailboxSend m c ch v => Sys2Proof.Machine.execMailboxSend m c ch v s
  | .mailboxReceive c ch => Sys2Proof.Machine.execMailboxReceive c ch s
  | .tenantReset m t => Sys2Proof.Machine.execTenantReset m t s
  | .tenantResetDone t => Sys2Proof.Machine.execTenantResetDone t s
  | .vlogPop m view => Sys2Proof.Machine.execVlogPop m view s
  | .vlogSnapshotRead m view => Sys2Proof.Machine.execVlogSnapshotRead m view s
  | .mismatch n cmpA cmpB => Sys2Proof.Machine.execMismatch n cmpA cmpB s
  | .recoveryDone n => Sys2Proof.Machine.execRecoveryDone n s
  | .alarmPop m t => Sys2Proof.Machine.execAlarmPop m t s
  | .slogPop m => Sys2Proof.Machine.execSlogPop m s
  | .slogSnapshotRead m => Sys2Proof.Machine.execSlogSnapshotRead m s
  | .recordPortWrite => Sys2Proof.Machine.execRecordPortWrite s
  | .rdFrame ln f => Sys2Proof.Machine.execRdFrame ln f s
  | .rdrFrame ln f => Sys2Proof.Machine.execRdrFrame ln f s
  | .wrFrame ln f => Sys2Proof.Machine.execWrFrame ln f s
  | .wraFrame ln f => Sys2Proof.Machine.execWraFrame ln f s
  | .mbxFrame ln f => Sys2Proof.Machine.execMbxFrame ln f s
  | .mbxaFrame ln f => Sys2Proof.Machine.execMbxaFrame ln f s
  | .ethFrame ln f => Sys2Proof.Machine.execEthFrame ln f s
  | .joinFrame ln f ix => Sys2Proof.Machine.execJoinFrame ln f ix s
  | .leaveFrame ln f => Sys2Proof.Machine.execLeaveFrame ln f s
  | .nakFrame ln f => Sys2Proof.Machine.execNakFrame ln f s
  | .idleFrame ln f => Sys2Proof.Machine.execIdleFrame ln f s
  | .replayTimeout ln => Sys2Proof.Machine.execReplayTimeout ln s
  | .signalDetect ln => Sys2Proof.Machine.execSignalDetect ln s
  | .trainingDone ln polInv => Sys2Proof.Machine.execTrainingDone ln polInv s
  | .linkSignalLoss ln => Sys2Proof.Machine.execLinkSignalLoss ln s
  | .linkFrameTimeout ln => Sys2Proof.Machine.execLinkFrameTimeout ln s
  | .requestTimeout ln txid => Sys2Proof.Machine.execRequestTimeout ln txid s
  | .leave m ln => Sys2Proof.Machine.execLeave m ln s
  | .drainTimeout ln => Sys2Proof.Machine.execDrainTimeout ln s
  | .restart m ln => Sys2Proof.Machine.execRestart m ln s
  | .fabricMailboxSend m sl v => Sys2Proof.Machine.execFabricMailboxSend m sl v s
  | .ethernetFrameReceive port f => Sys2Proof.Machine.execEthernetFrameReceive port f s
  | .tailAdvance m can q v => Sys2Proof.Machine.execTailAdvance m can q v s
  | .frameLaunch can q => Sys2Proof.Machine.execFrameLaunch can q s
  | .canFrameReceive k f => Sys2Proof.Machine.execCanFrameReceive k f s
  | .keyInstall m sa key => Sys2Proof.Machine.execKeyInstall m sa key s
  | .spiGo m p k => Sys2Proof.Machine.execSpiGo m p k s
  | .spiTrigger p k => Sys2Proof.Machine.execSpiTrigger p k s
  | .spiTransferEnd p k rx => Sys2Proof.Machine.execSpiTransferEnd p k rx s
  | .den m => Sys2Proof.Machine.execDen m s
  | .kennel m => Sys2Proof.Machine.execKennel m s
  | .pointOfNoReturn => Sys2Proof.Machine.execPointOfNoReturn s
  | .denTimeout => Sys2Proof.Machine.execDenTimeout s
  | .whistleEdge n level t => Sys2Proof.Machine.execWhistleEdge n level t s
  | .wakeTimer => Sys2Proof.Machine.execWakeTimer s
  | .supplyOk core => Sys2Proof.Machine.execSupplyOk core s
  | .supplyOkTimeout core => Sys2Proof.Machine.execSupplyOkTimeout core s
  | .coreBrownOut => Sys2Proof.Machine.execCoreBrownOut s
  | .fieldSupplyLoss => Sys2Proof.Machine.execFieldSupplyLoss s
  | .paceWindow ix ps => Sys2Proof.Machine.execPaceWindow ix ps s
  | .powerOnReset => Sys2Proof.Machine.execPowerOnReset s
  | .resetN => Sys2Proof.Machine.execResetN s
  | .device m => Sys2Proof.Machine.execDevice m s
  | .pack m p => Sys2Proof.Machine.execPack m p s
  | .packResetDone p e => Sys2Proof.Machine.execPackResetDone p e s
  | .rcFieldRead m a => Sys2Proof.Machine.execRcFieldRead m a s
  | .bankCommandDone => Sys2Proof.Machine.execBankCommandDone s
  | .uncorrectableCodeword ln => Sys2Proof.Machine.execUncorrectableCodeword ln s
  | .canBusOffRecovery k => Sys2Proof.Machine.execCanBusOffRecovery k s
  | .supplyRetry core => Sys2Proof.Machine.execSupplyRetry core s
  | .lowPowerEntryComplete => Sys2Proof.Machine.execLowPowerEntryComplete s
  | .resetRelease e => Sys2Proof.Machine.execResetRelease e s

end Sys2Proof.Machine
end

