-- ==== Sys2Proof/Safety.lean ====
section
/-! DEFINITION. What counts as a safe step, the invariant of the block's data, and the terms in which statements about a core's
instructions are made: when an instruction reaches its own part, and what one that completes leaves. -/

namespace Sys2Proof.Machine

/-- An outcome in which the block goes on. -/
def Running : Host.Outcome State Fault Refusal → Prop
  | .next _ => True
  | _ => False

/-- The memory cells of a state are in canonical form: rising addresses, and no cell at what an unlisted address reads as. -/
def State.memWf (s : State) : Bool := SMap.wf memDefault s.mem

/-- The invariant of the block's data: the memory is in canonical form, and a swap holds nothing but program words for return (R237). -/
def State.inv (s : State) : Bool := s.memWf && s.img.prog.all SwapOp.isProg

/-! ### How a command ends -/

/-- A command is accepted: it answers a next state without an error response, in which `P` holds. -/
def Accepts (o : Out) (P : State → Prop) : Prop := ∃ t, o = .next t ∧ t.resp.err = false ∧ P t

/-- A command is turned away: an error response, and nothing else of the state changes. -/
def TurnedAway (o : Out) (s : State) : Prop := o = .next { s with resp := { err := true, data := 0 } }

/-- An event whose condition does not hold does not occur: the state goes on as it was (log 5). -/
def NoEvent (o : Out) (s : State) : Prop := o = .next { s with resp := { err := false, data := 0 } }

/-- Every register but those named holds its word, wherever it lies. -/
def KeepsRegs (s t : State) (rs : List RegName) : Prop := ∀ r p i j, r ∉ rs → t.rd r p i j = s.rd r p i j

/-- The registers that staging a record for a log can change: the loss registers, when a staged record is dropped (R319, R400). -/
def lossRegs : List RegName :=
  [.TEN_VLOG_STAT, .TEN_VLOG_LF_LO, .TEN_VLOG_LF_HI, .TEN_VLOG_LL_LO, .TEN_VLOG_LL_HI, .MEM_ELOG_STAT, .MEM_ELOG_LF_LO, .MEM_ELOG_LF_HI,
   .MEM_ELOG_LL_LO, .MEM_ELOG_LL_HI, .JNL_SLOG_STAT, .JNL_SLOG_LF_LO, .JNL_SLOG_LF_HI, .JNL_SLOG_LL_LO, .JNL_SLOG_LL_HI]

/-- The registers that the pending of an interrupt source can change: the pending bits and counts, a woken context and the
scheduler's status, a journal's fill. -/
def pendRegs : List RegName := [.INT_PEND, .INT_STAT, .INT_CNT, .SCHED_CTX_STAT, .SCHED_STAT, .PJNL_PFILL, .SJNL_PFILL]

/-- The registers that an alarm can change: the queues' status, its notice, and the wake that it is in Den (R397, R445, R446). -/
def alarmRegs : List RegName := pendRegs ++ [.JNL_AQ_STAT, .PWR_AO_CAUSE, .PWR_AO_TAG_LO, .PWR_AO_TAG_HI]

/-- A context of a core waits on a source (R288, R289). -/
def State.waitsOn (s : State) (c n x : Nat) : Prop :=
  x < 32 ∧ s.ctxState c x = 3 ∧ s.bit F.SCHED_CTX.wake_en c x = true ∧ s.f F.SCHED_CTX.wake_src c x = n

/-- Source `n` of core `c` has been made pending between two states (R288, R289, R346, R347): already pending, the event merges and is
counted; otherwise the pending bit is set, or a context that waits on it takes it and becomes READY with the present tag. -/
def Pended (s t : State) (c n : Nat) : Prop :=
  (s.pends c n = true → t.pends c n = true ∧ t.bit F.INT_STAT.ovr c = true ∧
    t.f F.INT_CNT.dup c = min (s.f F.INT_CNT.dup c + 1) 0xFFFF ∧ ∀ x, t.ctxState c x = s.ctxState c x) ∧
  (s.pends c n = false → (∀ x, ¬ s.waitsOn c n x) → t.pends c n = true ∧ ∀ x, t.ctxState c x = s.ctxState c x) ∧
  (s.pends c n = false → (∃ x, s.waitsOn c n x) → t.pends c n = false ∧
    ∃ x, s.waitsOn c n x ∧ t.ctxState c x = 1 ∧ (t.core c).readyTag.get 0 x = s.now)

/-! ### A leg's outputs -/

/-- The high or the low output of a leg is on at the pin. -/
def State.out (s : State) (p l : Nat) (high : Bool) : Bool := s.bit (if high then F.PWM_LEGSTAT.out_h else F.PWM_LEGSTAT.out_l) p l

/-- The selector asks for the high or the low output of a leg (R169). -/
def State.asks (s : State) (p l : Nat) (high : Bool) : Bool := if high then (s.legWant p l).1 else (s.legWant p l).2

/-- Between two states the outputs of a leg have followed the selector through the dead-time guard (R165): what the selector does not
ask for is off at once; what it asks for stays on; an output turns on only with the other off for the dead time of its side. -/
def Guarded (s t : State) (p l : Nat) : Prop :=
  ∀ high : Bool,
    (t.asks p l high = false → t.out p l high = false) ∧
    (s.out p l high = true → t.asks p l high = true → t.out p l high = true) ∧
    (s.out p l high = false → t.out p l high = true → t.out p l (!high) = false ∧
      (if high then (t.pleg p l).offL + t.f F.PWM_LEGCTL.dt_rise p l else (t.pleg p l).offH + t.f F.PWM_LEGCTL.dt_fall p l) ≤ s.clk.raw) ∧
    (s.out p l high = true → t.out p l high = false → (if high then (t.pleg p l).offH else (t.pleg p l).offL) = s.clk.raw)

/-- No leg has both its outputs on (R165). -/
def State.legsApart (s : State) : Prop := ∀ p l, ¬ (s.out p l true = true ∧ s.out p l false = true)

/-! ### A trip -/

/-- The registers that a source's assertion can change: those of the muzzle, of the sets, axes and runs that it stops, of a recovery that
ends with its run, and of the alarms (R141, R202, R207, R210, R388). -/
def tripRegs : List RegName :=
  [.MUZ_LIVE, .MUZ_SEEN, .MUZ_SET_STAT, .MUZ_SET_TAG_LO, .MUZ_SET_TAG_HI, .MUZ_SET_INC, .MUZ_INC, .PWM_LEGSTAT, .PWM_SET_STAT, .PWM_SET_RUN,
   .PWM_SET_CNT, .CMP_STAT,
   .LE_AX_STAT, .LE_STATUS, .LE_COEF, .PJNL_PSTAT, .PJNL_PREC, .PJNL_PCTAG_LO, .PJNL_PCTAG_HI] ++ alarmRegs ++ lossRegs

/-- Source `x` of a pack has asserted between two states: it is seen, and every running set in its route is tripped; one that was not
tripped latches the tag, opens or joins an incident, and its axis enters SAFE or, unbound, its shutdown sequence runs (R202, R207, R210). -/
def Tripped (s t : State) (p x : Nat) (g : Tag) : Prop :=
  t.nbit .MUZ_SEEN (x % 32) p (x / 32) = true ∧
  ∀ st : SetIx, s.routed p x st = true → s.setRunning p st = true → t.bit F.MUZ_SET_STAT.tripped p st = true ∧
    (s.bit F.MUZ_SET_STAT.tripped p st = false → (Tag.after g s.now = false → t.pairAt .MUZ_SET_TAG_LO .MUZ_SET_TAG_HI p st = g) ∧ t.bit F.MUZ_INC.open_ p = true ∧
      (match s.axisOfSet p st with
       | some a => s.axSt p a = 2 ∨ s.axSt p a = 3 ∨ s.axSt p a = 4 → t.axSt p a = 5
       | none => t.bit F.PWM_SET_RUN.en p st = false ∧ t.bit F.PWM_SET_STAT.seq p st = true))

/-! ### An operation of the loop engine -/

/-- The operations whose steps and position still lie in the run after `n` more steps (R127). -/
def State.opFits (s : State) (p n : Nat) (k : Eng) : Prop :=
  k.steps + n < s.f F.LE_AX_STEPS.steps p (s.runAxis p) ∧ k.advance.pc ≤ 4095

/-- The run in progress of pack `p` is stopped with prog_err: the engine is free and nothing of the run is released (R127, R128). -/
def RunStopped (o : Out) (s : State) (p : Nat) : Prop :=
  Accepts o fun t => t.busy p = false ∧ t.f F.LE_STATUS.cur p = 7 ∧ t.bit F.LE_AX_STAT.prog_err p (s.runAxis p) = true ∧ t.mem = s.mem ∧
    ∀ r ∈ ([.PWM_DUTY, .LE_MOUT, .LE_STATE] : List RegName), ∀ q i j, t.rd r q i j = s.rd r q i j

/-- The run in progress of pack `p` executes operation `i` next: the word of program memory at its position encodes it and is not damaged
(R127, R312). -/
def State.runsNext (s : State) (p : PackIx) (i : Option Instr) : Prop :=
  s.busy p = true ∧ s.leNext p = i ∧ s.ram.leFlips.get 0 (leKey p .LE_PROGMEM (s.eng p).pc 0) = 0

/-- An operation `i` of `n` steps on the run in progress of pack `p`, after which the engine's registers are those of `k`, its position
moved on; `js` the journal records that it makes where the pair runs as a pair. Without a run, and where the run's next operation is
another, it does not occur; at its limits the run is stopped. -/
def EngOp (i : Instr) (s : State) (p : PackIx) (n : Nat) (k : Eng) (js : List JRec := []) : Prop :=
  let o := exec i s
  (s.busy p = false → NoEvent o s) ∧
  (s.leNext p ≠ some i → s.ram.leFlips.get 0 (leKey p .LE_PROGMEM (s.eng p).pc 0) = 0 → NoEvent o s) ∧
  (s.runsNext p (some i) → s.opFits p n k → Accepts o fun t =>
    t.eng p = { k.advance with steps := k.steps + n } ∧ (∀ q, q ≠ p → t.eng q = s.eng q) ∧
    (s.paired p = true → (t.pair p).jnl = (s.pair p).jnl ++ js) ∧ (s.paired p = false ∨ js = [] → t.pairs = s.pairs ∧ t.regs = s.regs) ∧
    KeepsRegs s t [.PJNL_PFILL] ∧ t = { s with engs := t.engs, pairs := t.pairs, regs := t.regs, resp := t.resp }) ∧
  (s.runsNext p (some i) → ¬ s.opFits p n k → RunStopped o s p)

/-! ### A fabric lane -/

/-- The newest frame of a type that a lane has sent, or holds behind its virtual channel, has the property `P`. -/
def State.lastSent (s : State) (ln ty : Nat) (P : Frame → Prop) : Prop :=
  (∃ g, (s.net.buf.get [] ln).getLast? = some (ty, g) ∧ P g) ∨ ∃ g, (s.net.waitq.get [] (4 * ln + frameVc ty)).getLast? = some (ty, g) ∧ P g

/-- A frame of type `ty` arrives well on a lane that carries it: intact, and with the next sequence number where it has one (R404, R407,
R410, R411). -/
def State.arrives (s : State) (ln ty : Nat) (f : Frame) : Prop :=
  f.wf = true ∧ (2 ≤ s.lnSt ln ∧ s.lnSt ln ≤ 4) ∧ carries (s.lnSt ln) ty = true ∧ f.plen.toNat ≤ 256 ∧ f.intact = true ∧ f.icvOk = true ∧
    (sequenced ty = true → f.seq.toNat = s.expects ln)

/-- No frame waits behind a virtual channel of a lane. -/
def State.noneWaits (s : State) (ln : Nat) : Prop := ∀ vc, vc < 4 → s.net.waitq.get [] (4 * ln + vc) = []

/-- The registers that a change of a link's state can change (R399, R423). -/
def linkRegs : List RegName := .FAB_LSTAT :: (pendRegs ++ lossRegs)

/-! ### A core's instruction -/

/-- The state in which the next instruction of core `c` begins its own part: pending bits of a recovery placed, the loads before
its predecessor delivered, and the instruction fetched. -/
def State.begun (s : State) (c : Nat) : State := (((s.replayPend c).deliverDue c (s.runBank c)).fetch c).1

/-- The running bank in which the next instruction of core `c` begins its own part. -/
def State.front (s : State) (c : Nat) : Bank := (s.begun c).bank c (s.runBank c)

/-- Core `c` executes the instruction with word `w` next: it runs, no other instruction has started and waits, and the fetch at its pc gives
`w` (R269, R279). -/
def CoreReady (s : State) (c : Nat) (w : Word) : Prop :=
  s.coreRuns c = true ∧ s.mayStart c w = true ∧ (((s.replayPend c).deliverDue c (s.runBank c)).fetch c).2 = .ok w

/-- The floating-point registers as the next floating-point instruction of core `c` finds them: present (fa = 1), or brought by the
lazy swap, which a context must be allowed (R293 to R295); false where the instruction takes vector 9 instead. -/
def State.fpBegun (s : State) (c : Nat) : State × Bool :=
  let f := s.begun c
  let b := s.runBank c
  if (f.bank c b).st 3 then (f, true)
  else if b = 8 || f.bit F.SCHED_CTX.fp c (f.bankCtx c b) then f.fpSwap c else (f, false)

/-- What a completed instruction leaves: `f` is the state after its own part, `k` the running bank with the instruction's results and
its successor address, `ld` the registers that it loads, `old` those of its predecessor, which reach the bank after it (R253). Every
other bank, register and field of the state is that of `f`; CHK_POS counts the instruction. -/
structure Retired (f t : State) (c b : Nat) (k : Bank) (old ld : List (Nat × Word)) (hold : Bool) : Prop where
  bank : t.bank c b = { k with ldNew := ld, ldDue := old }
  banks : ∀ c' b', b' < 9 → ¬ (c' = c ∧ b' = b) → t.bank c' b' = f.bank c' b'
  core : t.core c = { f.core c with shield := hold || !ld.isEmpty, waiting := none }
  cores : ∀ c', c' ≠ c → t.core c' = f.core c'
  pos : t.f F.CHK_POS.pos c = min (f.f F.CHK_POS.pos c + 1) (2 ^ 28 - 1)
  regs : ∀ r p i j, ¬ (r = .CHK_POS ∧ p = c ∧ i = 0 ∧ j = 0) → t.rd r p i j = f.rd r p i j
  rest : t = { f with banks := t.banks, cores := t.cores, regs := t.regs, resp := { err := false, data := 0 } }

/-- What an instruction at `a` that transfers control nowhere leaves: the bank stands at the successor, loops included, and a loop's wrap
has hit or allocated its branch-target entry (R257, R270). -/
def Stepped (f t : State) (c b : Nat) (k : Bank) (a : Word) (old ld : List (Nat × Word)) (hold : Bool) : Prop :=
  Retired (f.wrapped c k a) t c b (k.stepped a) old ld hold

end Sys2Proof.Machine
end

