-- ==== Sys2Proof/Certificates/Slice0/Obligations.lean ====
section
/-! DEFINITION. The statements for the provers: what the block's commands do, family by family, and the invariants of its steps. -/

open Sys2Proof Sys2Proof.Machine

/-! ### The queue and the clock -/

/-- A step executes the command at the front of the queue on the state with the queue's rest. On an empty queue a step is a tick (the model's choice, log 1): with no rate correction and no fraction carried, the tag gains 16 units of
62.5 ps (R31); a stopped one shows the tag of its always-on cycle. -/
def Obligations.StepRunsFrontCommand : Prop :=
  (∀ (c : Instr) (rest : List Instr) (s : State), step { s with pending := c :: rest } = exec c { s with pending := rest }) ∧
  (∀ s : State, s.pending = [] → s.soon = [] →
    (s.clk.stopped = true →
      let n := max s.clk.aoCycles (64 * (s.clk.raw + 1 - s.clk.aoAt) / 1953125)
      step s = .next { s with clk := { s.clk with raw := s.clk.raw + 1, aoCycles := n,
                                                  tag := s.clk.aoTag + BitVec.ofNat 64 (16 * ((1953125 * n + 63) / 64)) } }) ∧
    (s.clk.stopped = false → s.rd .TIME_RATE = 0 → s.clk.frac = 0 →
      step s = .next { s with clk := { s.clk with raw := s.clk.raw + 1, tag := s.clk.tag + 16, frac := 0 } }))
/-! ### Integer instructions -/

/-- The R-format integer instructions: each result spelled from the table of the instruction set, with the whole frame (`Retired`). The shifts by a constant, the I-format instructions and lui, with the whole frame. -/
def Obligations.IntegerInstructionsComplete : Prop :=
  (∀ x ∈ ([(0x00, .add, fun a b => a + b), (0x01, .sub, fun a b => a - b), (0x02, .and_, fun a b => a &&& b), (0x03, .or_, fun a b => a ||| b),
      (0x04, .xor_, fun a b => a ^^^ b), (0x05, .nor, fun a b => ~~~(a ||| b)),
      (0x06, .sll, fun a b => a <<< (b.toNat % 32)), (0x07, .srl, fun a b => a >>> (b.toNat % 32)),
      (0x08, .sra, fun a b => BitVec.ofInt 32 (a.toInt / 2 ^ (b.toNat % 32))),
      (0x0C, .slt, fun a b => if a.toInt < b.toInt then 1 else 0), (0x0D, .sltu, fun a b => if a.toNat < b.toNat then 1 else 0),
      (0x0E, .seq, fun a b => if a = b then 1 else 0), (0x0F, .sne, fun a b => if a = b then 0 else 1),
      (0x10, .min_, fun a b => if b.toInt < a.toInt then b else a), (0x11, .max_, fun a b => if a.toInt < b.toInt then b else a),
      (0x12, .minu, fun a b => if b.toNat < a.toNat then b else a), (0x13, .maxu, fun a b => if a.toNat < b.toNat then b else a),
      (0x18, .mul, fun a b => a * b), (0x19, .mulh, fun a b => BitVec.ofInt 32 (a.toInt * b.toInt / 2 ^ 32)),
      (0x1A, .mulhu, fun a b => BitVec.ofNat 32 (a.toNat * b.toNat / 2 ^ 32)),
      (0x1C, .div, fun a b => if b = 0 then 0xFFFFFFFF else BitVec.ofInt 32 (a.toInt.tdiv b.toInt)),
      (0x1D, .divu, fun a b => if b = 0 then 0xFFFFFFFF else BitVec.ofNat 32 (a.toNat / b.toNat)),
      (0x1E, .rem, fun a b => if b = 0 then a else BitVec.ofInt 32 (a.toInt.tmod b.toInt)),
      (0x1F, .remu, fun a b => if b = 0 then a else BitVec.ofNat 32 (a.toNat % b.toNat))] :
      List (Nat × (CoreIx → RegIx → RegIx → RegIx → Instr) × (Word → Word → Word))),
    ∀ (c : CoreIx) (rd ra rb : RegIx) (s : State), CoreReady s c (encR 0 rd ra rb 0 x.1) →
      ∃ t, exec (x.2.1 c rd ra rb) s = .next t ∧
        Stepped (s.begun c) t c (s.runBank c)
          ((s.front c).setReg rd (x.2.2 ((s.front c).reg ra) ((s.front c).reg rb))) (s.cur c).pc (s.cur c).ldNew [] false) ∧
  ((∀ x ∈ ([(0x09, .slli, fun a n => a <<< n), (0x0A, .srli, fun a n => a >>> n), (0x0B, .srai, fun a n => BitVec.ofInt 32 (a.toInt / 2 ^ n))] :
      List (Nat × (CoreIx → RegIx → RegIx → BitVec 5 → Instr) × (Word → Nat → Word))),
    ∀ (c : CoreIx) (rd ra : RegIx) (sh : BitVec 5) (s : State), CoreReady s c (encR 0 rd ra 0 sh.toNat x.1) →
      ∃ t, exec (x.2.1 c rd ra sh) s = .next t ∧
        Stepped (s.begun c) t c (s.runBank c)
          ((s.front c).setReg rd (x.2.2 ((s.front c).reg ra) sh.toNat)) (s.cur c).pc (s.cur c).ldNew [] false) ∧
  (∀ x ∈ ([(0x01, .addi, fun a i => a + i.signExtend 32), (0x02, .andi, fun a i => a &&& i.setWidth 32), (0x03, .ori, fun a i => a ||| i.setWidth 32),
      (0x04, .xori, fun a i => a ^^^ i.setWidth 32), (0x05, .slti, fun a i => if a.toInt < i.toInt then 1 else 0),
      (0x06, .sltiu, fun a i => if a.toNat < (i.signExtend 32).toNat then 1 else 0)] :
      List (Nat × (CoreIx → RegIx → RegIx → BitVec 16 → Instr) × (Word → BitVec 16 → Word))),
    ∀ (c : CoreIx) (rd ra : RegIx) (imm : BitVec 16) (s : State), CoreReady s c (encI x.1 rd ra imm) →
      ∃ t, exec (x.2.1 c rd ra imm) s = .next t ∧
        Stepped (s.begun c) t c (s.runBank c)
          ((s.front c).setReg rd (x.2.2 ((s.front c).reg ra) imm)) (s.cur c).pc (s.cur c).ldNew [] false) ∧
  (∀ (c : CoreIx) (rd : RegIx) (imm : BitVec 16) (s : State), CoreReady s c (encI 0x07 rd 0 imm) →
      ∃ t, exec (.lui c rd imm) s = .next t ∧
        Stepped (s.begun c) t c (s.runBank c)
          ((s.front c).setReg rd (BitVec.ofNat 32 (imm.toNat * 65536))) (s.cur c).pc (s.cur c).ldNew [] false))
/-! ### Loads and stores -/

/-- Loads complete: `d` is what the access at ra + imm answers; the destination (32 + fd for flw) is loaded after the next instruction. The delivery of due loads: by LOAD_DATA_RETURN, and at the start of the second instruction after the load. -/
def Obligations.LoadsCompleteAndReachTheirRegister : Prop :=
  ((∀ x ∈ ([(0x08, .ldw, 4, fun d => d), (0x09, .ldh, 2, fun d => (d.setWidth 16).signExtend 32),
      (0x0A, .ldhu, 2, fun d => (d.setWidth 16).setWidth 32), (0x0B, .ldb, 1, fun d => (d.setWidth 8).signExtend 32),
      (0x0C, .ldbu, 1, fun d => (d.setWidth 8).setWidth 32)] :
      List (Nat × (CoreIx → RegIx → RegIx → BitVec 16 → Instr) × Nat × (Word → Word))),
    ∀ (c : CoreIx) (rd ra : RegIx) (imm : BitVec 16) (s s1 : State) (d : Word), CoreReady s c (encI x.1 rd ra imm) →
      let a := ((s.front c).reg ra + imm.signExtend 32).toNat
      debugAccess (.core c) a = false → a % x.2.2.1 = 0 → ((s.begun c).jnlFull c && !notJournaled c a) = false →
      (s.begun c).coreLoad c a x.2.2.1 = (s1, .ok d) →
      ∃ t, exec (x.2.1 c rd ra imm) s = .next t ∧
        Stepped s1 t c (s.runBank c) (s.front c) (s.cur c).pc (s.cur c).ldNew [(rd.val, x.2.2.2 d)] false) ∧
  (∀ (c : CoreIx) (fd ra : RegIx) (imm : BitVec 16) (s s1 g : State) (d : Word), CoreReady s c (encI 0x1C fd ra imm) → s.fpBegun c = (g, true) →
      let k := g.bank c (s.runBank c)
      let a := (k.reg ra + imm.signExtend 32).toNat
      debugAccess (.core c) a = false → a % 4 = 0 → (g.jnlFull c && !notJournaled c a) = false → g.coreLoad c a 4 = (s1, .ok d) →
      ∃ t, exec (.flw c fd ra imm) s = .next t ∧
        Stepped s1 t c (s.runBank c) k (s.cur c).pc (s.cur c).ldNew [(32 + fd.val, d)] false)) ∧
  (∀ (c : CoreIx) (s : State),
    let due := (s.cur c).ldDue
    let after (r : Nat) : Word := if r = 0 then 0 else ((due.reverse.find? fun e => e.1 == r).map Prod.snd).getD ((s.cur c).reg r)
    (∃ t, exec (.loadDataReturn c) s = .next t ∧ (∀ r : RegIx, (t.bank c (s.runBank c)).reg r = after r) ∧
      (t.bank c (s.runBank c)).ldDue = [] ∧ (t.bank c (s.runBank c)).ldNew = (s.cur c).ldNew ∧
      (t.bank c (s.runBank c)).pc = (s.cur c).pc ∧ t.regs = s.regs ∧ t.mem = s.mem) ∧
    (∀ w, CoreReady s c w → ∀ r : RegIx, (s.front c).reg r = after r))
/-- Store forwarding from the commit queue, byte by byte. -/
def Obligations.LoadReturnsWaitingStore : Prop :=
  ∀ (s s1 : State) (c : CoreIx) (a n : Nat) (d : Word), 0 < n → n ≤ 4 → (s.replaying c && !notJournaled c a) = false →
    s.busRead (s.req (coreM c)) a n = (s1, .ok d) →
    ∃ w, (s.coreLoad c a n).2 = .ok w ∧ w.toNat < 2 ^ (8 * n) ∧
      (∀ i, i < n → w.toNat / 256 ^ i % 256 =
        (s1.core c).queue.foldl (fun b e =>
          let x := unalias a + i - unalias e.addr
          let v := e.val.toNat / 256 ^ x % 256
          if unalias e.addr ≤ unalias a + i ∧ x < e.size then
            if 0x20000000 ≤ e.addr ∧ e.addr < 0x22000000 then b ||| v
            else if 0x30000000 ≤ e.addr ∧ e.addr < 0x32000000 then b &&& (255 - v)
            else v
          else b) (d.toNat / 256 ^ i % 256)) ∧
      (∀ es e, (s1.core c).queue = es ++ [e] → e.addr = a → e.size = n → unalias a = a → w.toNat = e.val.toNat % 2 ^ (8 * n))

/-- Stores complete. STORE_CONFIRM performs the oldest store; the frame of memory is stated through the read of one byte. The bit aliases of SRAM. -/
def Obligations.StoresCompleteAndWriteTheirBytes : Prop :=
  ((∀ x ∈ ([(0x0D, .stw, 4), (0x0E, .sth, 2), (0x0F, .stb, 1)] : List (Nat × (CoreIx → RegIx → RegIx → BitVec 16 → Instr) × Nat)),
    ∀ (c : CoreIx) (rd ra : RegIx) (imm : BitVec 16) (s : State), CoreReady s c (encI x.1 rd ra imm) →
      let f := s.begun c
      let a := ((s.front c).reg ra + imm.signExtend 32).toNat
      let e : CStore := { addr := a, size := x.2.2, val := BitVec.ofNat 32 (((s.front c).reg rd).toNat % 2 ^ (8 * x.2.2)),
                          user := (f.cur c).st 1, ctx := f.f F.SCHED_STAT.cur c }
      debugAccess (.core c) a = false → a % x.2.2 = 0 → f.jnlFull c = false → f.replaying c = false →
      (f.paired (corePair c) = true → (f.core c).queue.length < 16 →
        ∃ t, exec (x.2.1 c rd ra imm) s = .next t ∧
          Stepped (f.updCore c fun q => { q with queue := q.queue ++ [e] }) t c (s.runBank c)
            (s.front c) (s.cur c).pc (s.cur c).ldNew [] false) ∧
      (f.paired (corePair c) = false →
        ∃ t, exec (x.2.1 c rd ra imm) s = .next t ∧
          Stepped (f.performStore c e) t c (s.runBank c) (s.front c) (s.cur c).pc (s.cur c).ldNew [] false)) ∧
  (∀ (c : CoreIx) (fd ra : RegIx) (imm : BitVec 16) (s g : State), CoreReady s c (encI 0x1D fd ra imm) → s.fpBegun c = (g, true) →
      let k := g.bank c (s.runBank c)
      let a := (k.reg ra + imm.signExtend 32).toNat
      let e : CStore := { addr := a, size := 4, val := (g.core c).f.get 0 fd, user := (g.cur c).st 1, ctx := g.f F.SCHED_STAT.cur c }
      debugAccess (.core c) a = false → a % 4 = 0 → g.jnlFull c = false → g.replaying c = false →
      (g.paired (corePair c) = true → (g.core c).queue.length < 16 →
        ∃ t, exec (.fsw c fd ra imm) s = .next t ∧
          Stepped (g.updCore c fun q => { q with queue := q.queue ++ [e] }) t c (s.runBank c)
            k (s.cur c).pc (s.cur c).ldNew [] false) ∧
      (g.paired (corePair c) = false →
        ∃ t, exec (.fsw c fd ra imm) s = .next t ∧
          Stepped (g.performStore c e) t c (s.runBank c) k (s.cur c).pc (s.cur c).ldNew [] false))) ∧
  (∀ (c : CoreIx) (s : State) (e : CStore) (es : List CStore),
    (s.core c).queue = e :: es → isSram e.addr = true → 0 < e.size → e.addr % 4 + e.size ≤ 4 →
    s.regionOk { s.req (coreM c) with user := e.user, ctx := e.ctx, sec := s.secOk (s.req (coreM c)).ten && !e.user } .write e.addr e.size = true →
    s.pageClosedAt e.addr = false → (e.size = 4 ∨ s.nflips e.addr ≤ 1) →
    (∀ w, w < 9 → (s.cFlip (lineOf e.addr) w).2 ≤ 1) →
    ∃ t, exec (.storeConfirm c) s = .next t ∧ (t.core c).queue = es ∧ (t.core c).errResp = (s.core c).errResp ∧
      ∀ x, t.byte x = if e.addr ≤ x ∧ x < e.addr + e.size then BitVec.ofNat 8 (e.val.toNat / 256 ^ (x - e.addr)) else s.byte x) ∧
  (∀ (s : State) (q : Req) (o : Nat) (v : Word), o < 0x2000000 → o % 4 = 0 → s.pageClosedAt (0x10000000 + o) = false →
    s.nflips (0x10000000 + o) ≤ 1 → (∀ w, w < 9 → (s.cFlip (lineOf (0x10000000 + o)) w).2 ≤ 1) →
    (s.regionOk q .write (0x10000000 + o) 4 = true →
      (s.memWrite q (0x20000000 + o) 4 v).2 = .ok 0 ∧
      (s.memWrite q (0x20000000 + o) 4 v).1.word (0x10000000 + o) = s.word (0x10000000 + o) ||| v ∧
      (s.memWrite q (0x30000000 + o) 4 v).2 = .ok 0 ∧
      (s.memWrite q (0x30000000 + o) 4 v).1.word (0x10000000 + o) = s.word (0x10000000 + o) &&& ~~~v) ∧
    (s.regionOk q .read (0x10000000 + o) 4 = true →
      (s.memRead q .read (0x20000000 + o) 4).2 = .ok (s.word (0x10000000 + o)) ∧
      (s.memRead q .read (0x30000000 + o) 4).2 = .ok (s.word (0x10000000 + o))))
/-! ### Control transfer, loops, special registers, exceptions -/

/-- Control transfers; A is the pc of the running bank. loop and loopi. Hardware loops, examined in order (R257). -/
def Obligations.ControlTransfersAndLoopsComplete : Prop :=
  (∀ (c : CoreIx) (s : State),
    let k := s.front c
    let taken (w a : Word) (k' : Bank) (i : Instr) : Prop := CoreReady s c w → ∃ t, exec i s = .next t ∧
      Retired ((s.begun c).btbHit c k.pc a) t c (s.runBank c) { k' with pc := a } (s.cur c).ldNew [] false
    let stay (w : Word) (i : Instr) : Prop := CoreReady s c w → ∃ t, exec i s = .next t ∧
      Stepped (s.begun c) t c (s.runBank c) k (s.cur c).pc (s.cur c).ldNew [] false
    (∀ (ra rb : RegIx) (off : BitVec 16),
      (k.reg ra = k.reg rb → taken (encI 0x10 ra rb off) (k.pc + (off.signExtend 32 <<< 2)) k (.beq c ra rb off) ∧
        stay (encI 0x11 ra rb off) (.bne c ra rb off)) ∧
      (k.reg ra ≠ k.reg rb → taken (encI 0x11 ra rb off) (k.pc + (off.signExtend 32 <<< 2)) k (.bne c ra rb off) ∧
        stay (encI 0x10 ra rb off) (.beq c ra rb off))) ∧
    (∀ off : BitVec 26, taken (BitVec.ofNat 32 (0x12 * 2 ^ 26 + off.toNat)) (k.pc + (off.signExtend 32 <<< 2)) k (.j c off) ∧
      taken (BitVec.ofNat 32 (0x13 * 2 ^ 26 + off.toNat)) (k.pc + (off.signExtend 32 <<< 2)) (k.setReg 31 (k.pc + 4)) (.jal c off)) ∧
    (∀ (rd ra : RegIx) (imm : BitVec 16),
      taken (encI 0x14 rd ra imm) ((k.reg ra + imm.signExtend 32) &&& ~~~3) (k.setReg rd (k.pc + 4)) (.jalr c rd ra imm))) ∧
  (∀ (c : CoreIx) (n : Fin 3) (s : State),
    let k := s.front c
    let sets (w off count : Word) (i : Instr) : Prop := CoreReady s c w →
      let e := k.pc + (off <<< 2)
      let g := (s.begun c).btbHit c e (k.pc + 4)
      ∃ (t : State) (k' : Bank), exec i s = .next t ∧
        (count = 0 → Retired g t c (s.runBank c) { k' with pc := e + 4 } (s.cur c).ldNew [] false) ∧
        (count ≠ 0 → Stepped g t c (s.runBank c) k' (s.cur c).pc (s.cur c).ldNew [] false) ∧
        k' = { k with lp := k'.lp } ∧
        ∀ m : Nat, k'.lp.get 0 m = if m = 3 * n then k.pc + 4 else if m = 3 * n + 1 then e
          else if m = 3 * n + 2 then count else k.lp.get 0 m
    (∀ (rc : RegIx) (off : BitVec 16), off ≠ 0 → sets (encL 0x15 n rc off) (off.signExtend 32) (k.reg rc) (.loop c n rc off)) ∧
    (∀ (cnt : BitVec 10) (off : BitVec 14), off ≠ 0 →
      sets (encLI 0x16 n cnt off) (off.signExtend 32) (cnt.setWidth 32) (.loopi c n cnt off))) ∧
  (∀ (k : Bank) (e : Word),
    let cnt (n : Nat) := k.lp.get 0 (3 * n + 2)
    let hit (n : Nat) : Bool := k.st 2 && cnt n != 0 && k.lp.get 0 (3 * n + 1) == e
    let branch := [0, 1, 2].find? fun n => hit n && cnt n != 1
    (k.successor e).2 = (match branch with
      | some n => k.lp.get 0 (3 * n)
      | none => e + 4) ∧
    (∀ n, n < 3 → (k.successor e).1.lp.get 0 (3 * n + 2) =
      if hit n && decide (n ≤ branch.getD 2) then cnt n - 1 else cnt n) ∧
    (∀ m, m % 3 ≠ 2 → (k.successor e).1.lp.get 0 m = k.lp.get 0 m) ∧
    (k.successor e).1 = { k with lp := (k.successor e).1.lp })
/-- mfs and mts over the numbering of R260; `g` is the state with the floating-point registers present for FCSR. The return from an exception. -/
def Obligations.SpecialRegistersAndReturnsComplete : Prop :=
  (∀ (c : CoreIx) (r : RegIx) (spr : BitVec 16) (s g : State),
    let n := spr.toNat
    (n ≤ 6 ∨ 8 ≤ n ∧ n ≤ 16) → (n ≤ 4 → (s.front c).st 1 = false) →
    (if n = 5 then s.fpBegun c = (g, true) else g = s.begun c) →
    let b := s.runBank c
    let k := g.bank c b
    let v := k.reg r
    (CoreReady s c (encI 0x18 r 0 spr) → ∃ t w, exec (.mfs c r spr) s = .next t ∧
      Stepped g t c b (k.setReg r w) (s.cur c).pc (s.cur c).ldNew [] false ∧
      (n = 0 → w = k.status) ∧ (n = 1 → w = k.epc) ∧ (n = 2 → w = k.ecause) ∧ (n = 3 → w = k.eval) ∧
      (n = 4 → w = (g.core c).vbase) ∧ (n = 5 → w = (g.core c).fcsr) ∧
      (n = 6 → w = BitVec.ofNat 32 (c.val + 16 * (g.bit F.CHK_STAT.paired c).toNat)) ∧ (8 ≤ n → w = k.lp.get 0 (n - 8))) ∧
    (CoreReady s c (encI 0x19 0 r spr) → ∃ (t : State) (k' : Bank) (q : Core), exec (.mts c r spr) s = .next t ∧
      Stepped (g.setCore c q) t c b k' (s.cur c).pc (s.cur c).ldNew [] false ∧
      q = { g.core c with fcsr := if n = 5 then v &&& 0x7F else (g.core c).fcsr } ∧
      k' = { k with status := k'.status, epc := if n = 1 then v &&& 0xFFFFFFFC else k.epc, eval := if n = 3 then v else k.eval,
                    lp := k'.lp } ∧
      (n ≠ 0 → k'.status = k.status) ∧
      (n = 0 → ∀ i, i < 32 → k'.status.getLsbD i = (
        if i = 1 ∨ i = 7 then k.status.getLsbD i
        else if i = 3 then v.getLsbD 3 && g.ownsFp c (g.runBank c)
        else decide (i < 7) && v.getLsbD i)) ∧
      (∀ m : Nat, k'.lp.get 0 m = if 8 ≤ n ∧ m = n - 8 then (if m % 3 = 2 then v else v &&& 0xFFFFFFFC) else k.lp.get 0 m))) ∧
  (∀ (c : CoreIx) (s : State), (s.front c).st 1 = false →
    let b := s.runBank c
    let f := s.begun c
    let k := s.front c
    let fast := f.bit F.SCHED_STAT.fast c && !k.st 7
    let g := f.clrb F.SCHED_STAT.fast c
    let b0 := g.runBank c
    let kb := g.bank c b0
    ∃ r : Word, (∀ i, i < 32 → r.getLsbD i = (if i < 3 then k.status.getLsbD (i + 4) else decide (i < 7) && k.status.getLsbD i)) ∧
    let k' : Bank := { k with status := r }
    (CoreReady s c (encS 0 0) → ∃ t, exec (.eret c) s = .next t ∧
      (fast = false → Retired f t c b { k' with pc := k.epc } (s.cur c).ldNew [] true) ∧
      (fast = true → g.idle c = true → Retired g t c b k' (s.cur c).ldNew [] true) ∧
      (fast = true → g.idle c = false → Retired (g.setBank c b0 { kb with pc := k.epc }) t c b k' (s.cur c).ldNew [] true)) ∧
    (CoreReady s c (encS 0 1) → ∃ t, exec (.erets c) s = .next t ∧
      (fast = false → Stepped f t c b k' k.epc (s.cur c).ldNew [] true) ∧
      (fast = true → g.idle c = true → Retired g t c b k' (s.cur c).ldNew [] true) ∧
      (fast = true → g.idle c = false →
        Retired ((g.wrapped c kb k.epc).setBank c b0 (kb.stepped k.epc)) t c b k' (s.cur c).ldNew [] true)))
/-- The entry of a synchronous exception, single and double; `b` is the running bank. The order of synchronous conditions, shown on the instructions that can meet several. -/
def Obligations.ExceptionsAreTakenAsTheyArise : Prop :=
  (∀ (c : CoreIx) (s : State),
    let f := s.begun c
    let b := f.runBank c
    let k := (f.deliverAll c b).bank c b
    let entered (t : State) (v : Nat) (cause eval : Word) (dfh : Bool) : Prop :=
      let k' := t.bank c b
      k'.epc = k.pc &&& 0xFFFFFFFC ∧ k'.ecause = cause ∧ k'.eval = eval ∧
      k'.pc = (f.core c).vbase + BitVec.ofNat 32 (16 * v) ∧
      (∀ i, i < 8 → k'.status.getLsbD i = (if i = 0 then true else if i < 3 then false else if i = 3 then k.st 3
        else if i = 7 then dfh || k.st 7 else k.st (i - 4))) ∧
      (∀ r : RegIx, k'.reg r = k.reg r) ∧ t.mem = f.mem ∧ t.ram = f.ram ∧
      (∀ c' b', b' < 9 → ¬ (c' = c.val ∧ b' = b) → t.bank c' b' = f.bank c' b')
    let takes (w : Word) (i : Instr) (v : Nat) (eval : Word) : Prop := CoreReady s c w →
      (k.st 0 = false → k.st 7 = false →
        ∃ t, exec i s = .next t ∧ entered t v (BitVec.ofNat 32 v) eval false ∧ t.regs = f.regs) ∧
      (k.st 0 = true → k.st 7 = false →
        ∃ t, exec i s = .next t ∧ entered t 1 (BitVec.ofNat 32 (v + 32)) eval true ∧
          t.rd .SCHED_DF_EPC c = k.epc ∧ t.rd .SCHED_DF_CAUSE c = k.ecause ∧ t.rd .SCHED_DF_VAL c = k.eval ∧
          t.rd .SCHED_DF_STATUS c = k.status)
    (∀ code : BitVec 20, takes (encS code.toNat 2) (.trap c code) 10 (code.setWidth 32)) ∧
    (∀ w : Word, reservedWord w = true → takes w (.reservedEncoding c w) 2 w)) ∧
  (∀ (c : CoreIx) (s : State),
    let f := s.begun c
    let rsp := (((s.replayPend c).deliverDue c (s.runBank c)).fetch c).2
    let raises (i : Instr) (g : State) (v : Nat) (eval : Word) : Prop :=
      exec i s = .next { g.syncExc c v eval with resp := { err := false, data := 0 } }
    let takes (w : Word) (i : Instr) (v : Nat) (eval : Word) : Prop := CoreReady s c w → raises i f v eval
    let um := (f.bank c (s.runBank c)).st 1
    (s.coreRuns c = true → (s.core c).waiting = none →
      (∀ v, (rsp = .refused ∧ v = 5) ∨ (rsp = .ue ∧ v = 6) →
        (∀ w, reservedWord w = true → raises (.reservedEncoding c w) f v (f.cur c).pc) ∧ raises (.eret c) f v (f.cur c).pc ∧
        (∀ code, raises (.trap c code) f v (f.cur c).pc) ∧ (∀ rd ra rb : RegIx, raises (.add c rd ra rb) f v (f.cur c).pc)) ∧
      (∀ d, rsp = .ok d →
        (∀ w, d ≠ w → NoEvent (exec (.reservedEncoding c w) s) s) ∧ (d ≠ encS 0 0 → NoEvent (exec (.eret c) s) s) ∧
        (∀ code, d ≠ encS code.toNat 2 → NoEvent (exec (.trap c code) s) s) ∧
        (∀ rd ra rb : RegIx, d ≠ encR 0 rd ra rb 0 0 → NoEvent (exec (.add c rd ra rb) s) s))) ∧
    (∀ w, (reservedWord w = true → takes w (.reservedEncoding c w) 2 w) ∧
      (reservedWord w = false → NoEvent (exec (.reservedEncoding c w) s) s)) ∧
    (∀ (n : Fin 3) (rc : RegIx), takes (encL 0x15 n rc 0) (.loop c n rc 0) 2 (encL 0x15 n rc 0)) ∧
    (∀ (n : Fin 3) (cnt : BitVec 10), takes (encLI 0x16 n cnt 0) (.loopi c n cnt 0) 2 (encLI 0x16 n cnt 0)) ∧
    (∀ (rd : RegIx) (spr : BitVec 16), ¬ (spr.toNat ≤ 6 ∨ 8 ≤ spr.toNat ∧ spr.toNat ≤ 16) →
      takes (encI 0x18 rd 0 spr) (.mfs c rd spr) 2 (encI 0x18 rd 0 spr) ∧
      takes (encI 0x19 0 rd spr) (.mts c rd spr) 2 (encI 0x19 0 rd spr)) ∧
    (um = true → takes (encS 0 0) (.eret c) 3 (encS 0 0) ∧ takes (encS 0 1) (.erets c) 3 (encS 0 1) ∧
      (∀ (rd : RegIx) (spr : BitVec 16), spr.toNat ≤ 4 →
        takes (encI 0x18 rd 0 spr) (.mfs c rd spr) 3 (encI 0x18 rd 0 spr) ∧
        takes (encI 0x19 0 rd spr) (.mts c rd spr) 3 (encI 0x19 0 rd spr)) ∧
      (∀ ra rb : RegIx, takes (encR 0x1A 0 ra rb 0 0) (.ctxsLo c ra rb) 3 (encR 0x1A 0 ra rb 0 0)) ∧
      (∀ rd ra : RegIx, takes (encR 0x1A rd ra 0 0 2) (.ctxrLo c rd ra) 3 (encR 0x1A rd ra 0 0 2) ∧
        takes (encR 0x1A rd ra 0 0 3) (.ctxrHi c rd ra) 3 (encR 0x1A rd ra 0 0 3))) ∧
    (∀ g, s.fpBegun c = (g, false) →
      let tried := (s.runBank c == 8 || f.bit F.SCHED_CTX.fp c (f.bankCtx c (s.runBank c)))
      let unavailable (i : Instr) (w : Word) : Prop := CoreReady s c w →
        exec i s = .next { g.syncExc c 9 w tried with resp := { err := false, data := 0 } }
      (∀ fd fa fb : RegIx, unavailable (.fadd c fd fa fb) (encR 0x1E fd fa fb 0 0)) ∧
      (∀ (fd ra : RegIx) (imm : BitVec 16), unavailable (.flw c fd ra imm) (encI 0x1C fd ra imm))) ∧
    (∀ (rd ra : RegIx) (imm : BitVec 16),
      let a := (s.front c).reg ra + imm.signExtend 32
      (a.toNat % 4 ≠ 0 → takes (encI 0x08 rd ra imm) (.ldw c rd ra imm) 4 a ∧ takes (encI 0x0D rd ra imm) (.stw c rd ra imm) 4 a) ∧
      (a.toNat % 2 ≠ 0 → takes (encI 0x09 rd ra imm) (.ldh c rd ra imm) 4 a ∧
        takes (encI 0x0A rd ra imm) (.ldhu c rd ra imm) 4 a ∧ takes (encI 0x0E rd ra imm) (.sth c rd ra imm) 4 a)))
/-- flush, its reload, fence and yield. -/
def Obligations.FlushFenceYieldComplete : Prop :=
  (∀ (c : CoreIx) (s : State),
    let f := s.begun c
    let k := s.front c
    let completes (g : State) (w : Word) (i : Instr) : Prop := CoreReady s c w → ∃ t, exec i s = .next t ∧
      Stepped g t c (s.runBank c) k (s.cur c).pc (s.cur c).ldNew [] false
    (∀ ra : RegIx,
      let w := encR 0x17 0 ra 0 0 3
      let line := (k.reg ra).toNat / 64
      let g := f.updCore c fun q =>
        { q with lines := q.lines.filter fun e => e.1 != line, pre := q.pre.filter fun e => e.1 != line,
                 btb := q.btb.filter fun e => e.2.1 / 64 != line, want := q.want.filter (· != line),
                 codeBad := q.codeBad.filter (· != line) }
      (f.vectorLine c line = false → completes g w (.flush c ra)) ∧
      (f.vectorLine c line = true → CoreReady s c w → exec (.flush c ra) s =
        .next { (g.updCore c fun q => { q with vecReload := some line, waiting := some (w, true) }) with resp := { err := false, data := 0 } })) ∧
    ((f.core c).queue = [] → (f.core c).errResp = [] →
      (∀ r ∈ f.net.reqs, ∀ a, r.by_ ≠ .store c a) → completes f (encS 0 4) (.fence c)) ∧
    ((f.bit F.SCHED_STAT.fast c || k.st 7) = true → completes f (encS 0 5) (.yield_ c)) ∧
    ((f.bit F.SCHED_STAT.fast c || k.st 7) = false →
      let x := f.f F.SCHED_STAT.cur c
      let yields (g : State) : Prop := completes g (encS 0 5) (.yield_ c)
      (f.bit F.SCHED_CTX.wake_en c x = false →
        yields ((f.updCore c fun q => { q with readyTag := q.readyTag.set 0 x f.now }).schedJobs c)) ∧
      (f.bit F.SCHED_CTX.wake_en c x = true → f.pends c (f.f F.SCHED_CTX.wake_src c x) = false →
        yields ((f.put F.SCHED_CTX_STAT.state 3 c x).schedJobs c)) ∧
      (f.bit F.SCHED_CTX.wake_en c x = true → f.pends c (f.f F.SCHED_CTX.wake_src c x) = true →
        yields (((f.putPend c (f.f F.SCHED_CTX.wake_src c x) false).updCore c fun q =>
          { q with readyTag := q.readyTag.set 0 x f.now }).schedJobs c)))) ∧
  (∀ (c : CoreIx) (s : State) (line : Nat), (s.core c).vecReload = some line →
    let r := s.lineRead (s.saveReq c) (line * 64)
    let g := r.1.updCore c fun q =>
      { q with vecReload := none, vecs := (r.2.2.map fun ws => (line, ws)).toList ++ q.vecs.filter fun e => e.1 != line }
    let k := g.bank c (g.runBank c)
    ∃ t, exec (.vectorLineReloadDone c) s = .next t ∧
      Stepped g t c (g.runBank c) k k.pc (k.ldDue ++ k.ldNew) [] false)

/-! ### Floating point and context save -/

/-- Binary32 arithmetic. Comparisons, conversions and moves. Binary64 arithmetic and the conversions between the formats. -/
def Obligations.FloatInstructionsComplete : Prop :=
  (∀ (c : CoreIx) (s g : State), s.fpBegun c = (g, true) →
    let b := s.runBank c
    let v (n : RegIx) : FVal := unpack f32 (g.fr c n).toNat
    let rm := rmOf (g.core c).fcsr.toNat
    let done (i : Instr) (fn : Nat) (fd fa fb : RegIx) (r : Word) (fl : Flags) : Prop := CoreReady s c (encR 0x1E fd fa fb 0 fn) →
      ∃ t, exec i s = .next t ∧
        Stepped (g.updCore c fun q => { q with f := q.f.set 0 fd r, fcsr := q.fcsr ||| (fl.setWidth 32 <<< 2) }) t c b
          (g.bank c b) (s.cur c).pc (s.cur c).ldNew [] false
    ∀ fd fa fb : RegIx,
      let gives (i : Instr) (fn : Nat) (x : Nat × Flags) : Prop := done i fn fd fa fb (BitVec.ofNat 32 x.1) x.2
      gives (.fadd c fd fa fb) 0x00 (addVal f32 rm (v fa) (v fb)) ∧ gives (.fsub c fd fa fb) 0x01 (addVal f32 rm (v fa) (v fb).neg) ∧
      gives (.fmul c fd fa fb) 0x02 (mulVal f32 rm (v fa) (v fb)) ∧ gives (.fdiv c fd fa fb) 0x03 (divVal f32 rm (v fa) (v fb)) ∧
      done (.fsqrt c fd fa) 0x04 fd fa 0 (BitVec.ofNat 32 (sqrtVal f32 rm (v fa)).1) (sqrtVal f32 rm (v fa)).2 ∧
      gives (.fmadd c fd fa fb) 0x05 (fmaVal f32 rm (v fa) (v fb) (v fd)) ∧
      gives (.fmin c fd fa fb) 0x06 (minmax f32 false (g.fr c fa).toNat (g.fr c fb).toNat) ∧
      gives (.fmax c fd fa fb) 0x07 (minmax f32 true (g.fr c fa).toNat (g.fr c fb).toNat) ∧
      done (.fabs c fd fa) 0x08 fd fa 0 (g.fr c fa &&& 0x7FFFFFFF) 0 ∧ done (.fneg c fd fa) 0x09 fd fa 0 (g.fr c fa ^^^ 0x80000000) 0 ∧
      done (.fmov c fd fa) 0x0A fd fa 0 (g.fr c fa) 0) ∧
  (∀ (c : CoreIx) (s g : State), s.fpBegun c = (g, true) →
    let b := s.runBank c
    let k := g.bank c b
    let rm := rmOf (g.core c).fcsr.toNat
    let flags (h : State) (fl : Flags) : State := h.updCore c fun q => { q with fcsr := q.fcsr ||| (fl.setWidth 32 <<< 2) }
    let completes (i : Instr) (w : Word) (h : State) (k' : Bank) : Prop := CoreReady s c w →
      ∃ t, exec i s = .next t ∧ Stepped h t c b k' (s.cur c).pc (s.cur c).ldNew [] false
    ∀ rd fa fb : RegIx,
      let x := unpack f32 (g.fr c fa).toNat
      let y := unpack f32 (g.fr c fb).toNat
      let nan := x.isNan || y.isNan
      let nv (any : Bool) : Flags := if x = .nan true ∨ y = .nan true ∨ any = true ∧ nan = true then 16 else 0
      let one (p : Bool) : Word := if p then 1 else 0
      let toG (i : Instr) (fn : Nat) (rb : RegIx) (r : Word) (fl : Flags) : Prop :=
        completes i (encR 0x1E rd fa rb 0 fn) (flags g fl) (k.setReg rd r)
      let toF (i : Instr) (fn : Nat) (r : Word) (fl : Flags) : Prop :=
        completes i (encR 0x1E rd fa 0 0 fn) (flags (g.updCore c fun q => { q with f := q.f.set 0 rd r }) fl) k
      toG (.feq c rd fa fb) 0x10 fb (one (!nan && eqVal x y)) (nv false) ∧ toG (.flt c rd fa fb) 0x11 fb (one (!nan && ltVal x y)) (nv true) ∧
      toG (.fle c rd fa fb) 0x12 fb (one (!nan && (ltVal x y || eqVal x y))) (nv true) ∧ toG (.fun_ c rd fa fb) 0x13 fb (one nan) (nv false) ∧
      toG (.fcvtWS c rd fa) 0x18 0 (toInt32 rm x).1 (toInt32 rm x).2 ∧
      toF (.fcvtSW c rd fa) 0x19 (BitVec.ofNat 32 (ofInt f32 rm (k.reg fa).toInt).1) (ofInt f32 rm (k.reg fa).toInt).2 ∧
      completes (.fmvXS c rd fa) (encR 0x1E rd fa 0 0 0x1A) g (k.setReg rd (g.fr c fa)) ∧
      toF (.fmvSX c rd fa) 0x1B (k.reg fa) 0) ∧
  ((∀ (c : CoreIx) (s g : State), s.fpBegun c = (g, true) →
    let b := s.runBank c
    let rm := rmOf (g.core c).fcsr.toNat
    let d (n : RegIx) : Nat := (g.fr c (n + 1 : Nat)).toNat * 2 ^ 32 + (g.fr c n).toNat
    let completes (i : Instr) (w : Word) (fl : Flags) (f : SMap Word → SMap Word) : Prop := CoreReady s c w → ∃ t, exec i s = .next t ∧
      Stepped (g.updCore c fun q => { q with f := f q.f, fcsr := q.fcsr ||| (fl.setWidth 32 <<< 2) }) t c b
        (g.bank c b) (s.cur c).pc (s.cur c).ldNew [] false
    ∀ fd fa fb : RegIx,
      let pair (i : Instr) (fn : Nat) (rb : RegIx) (x : Nat × Flags) : Prop := completes i (encR 0x1E fd fa rb 0 fn) x.2 fun m =>
        (m.set 0 fd (BitVec.ofNat 32 x.1)).set 0 (fd + 1 : Nat) (BitVec.ofNat 32 (x.1 / 2 ^ 32))
      (fd.val % 2 = 0 → fa.val % 2 = 0 → fb.val % 2 = 0 →
        pair (.faddD c fd fa fb) 0x20 fb (addVal f64 rm (unpack f64 (d fa)) (unpack f64 (d fb))) ∧
        pair (.fsubD c fd fa fb) 0x21 fb (addVal f64 rm (unpack f64 (d fa)) (unpack f64 (d fb)).neg) ∧
        pair (.fmulD c fd fa fb) 0x22 fb (mulVal f64 rm (unpack f64 (d fa)) (unpack f64 (d fb)))) ∧
      (fd.val % 2 = 0 → pair (.fcvtDS c fd fa) 0x28 0 (convert f32 f64 rm (g.fr c fa).toNat)) ∧
      (fa.val % 2 = 0 → completes (.fcvtSD c fd fa) (encR 0x1E fd fa 0 0 0x29) (convert f64 f32 rm (d fa)).2 fun m =>
        m.set 0 fd (BitVec.ofNat 32 (convert f64 f32 rm (d fa)).1))) ∧
  (∀ (c : CoreIx) (s : State) (fd fa fb : RegIx),
    let illegal (i : Instr) (w : Word) : Prop := CoreReady s c w →
      exec i s = .next { (s.begun c).syncExc c 2 w with resp := { err := false, data := 0 } }
    (fd.val % 2 = 1 ∨ fa.val % 2 = 1 ∨ fb.val % 2 = 1 →
      illegal (.faddD c fd fa fb) (encR 0x1E fd fa fb 0 0x20) ∧ illegal (.fsubD c fd fa fb) (encR 0x1E fd fa fb 0 0x21) ∧
      illegal (.fmulD c fd fa fb) (encR 0x1E fd fa fb 0 0x22)) ∧
    (fd.val % 2 = 1 → illegal (.fcvtDS c fd fa) (encR 0x1E fd fa 0 0 0x28)) ∧
    (fa.val % 2 = 1 → illegal (.fcvtSD c fd fa) (encR 0x1E fd fa 0 0 0x29))))
/-- Context save and restore by instruction. The scheduler's spill and restore jobs. -/
def Obligations.ContextsAreSavedRestoredAndSpilled : Prop :=
  (∀ (c : CoreIx) (s : State) (ra r2 : RegIx),
    let f := s.begun c
    let b := s.runBank c
    let k := s.front c
    let a := (k.reg ra).toNat
    let q := f.req (coreM c)
    let full := f.jnlFull c
    let um := k.st 1
    let hdr (upper : Bool) : Word :=
      BitVec.ofNat 32 (f.f F.SCHED_STAT.cur c + upper.toNat * 32 + (f.bit F.SCHED_STAT.fast c).toNat * 128)
    let exc (i : Instr) (w : Word) (g : State) (v : Nat) : Prop := CoreReady s c w →
      exec i s = .next { g.syncExc c v (k.reg ra) with resp := { err := false, data := 0 } }
    let completes (i : Instr) (w : Word) (g : State) (ld : List (Nat × Word)) : Prop := CoreReady s c w →
      ∃ t, exec i s = .next t ∧ Stepped g t c b k (s.cur c).pc (s.cur c).ldNew ld false
    let loS := encR 0x1A 0 ra r2 0 0
    let hiS := encR 0x1A 0 ra r2 0 1
    let loR := encR 0x1A r2 ra 0 0 2
    let hiR := encR 0x1A r2 ra 0 0 3
    (a % 128 ≠ 0 →
      (um = false → exc (.ctxsLo c ra r2) loS f 4 ∧ exc (.ctxrLo c r2 ra) loR f 4 ∧ exc (.ctxrHi c r2 ra) hiR f 4) ∧
      exc (.ctxsHi c ra r2) hiS f 4) ∧
    (a % 128 = 0 → full = false →
      (∀ g, f.ctxArea q .write a = (g, true) →
        (um = false → completes (.ctxsLo c ra r2) loS ((g.drain c).storeWords c a ([k.reg r2, hdr false] ++
          ((List.range 15).map fun i => k.reg (i + 1)) ++ [k.epc, k.status, k.ecause, k.eval] ++ List.replicate 11 0)) []) ∧
        completes (.ctxsHi c ra r2) hiS ((g.drain c).storeWords c a ([k.reg r2, hdr true] ++
          ((List.range 16).map fun i => k.reg (i + 16)) ++ ((List.range 9).map fun i => k.lp.get 0 i) ++ List.replicate 5 0)) []) ∧
      (∀ g, f.ctxArea q .write a = (g, false) →
        (um = false → exc (.ctxsLo c ra r2) loS g 17) ∧ exc (.ctxsHi c ra r2) hiS g 17)) ∧
    (a % 128 = 0 → um = false → (full && !notJournaled c a) = false →
      (∀ g, f.ctxArea q .read a = (g, false) → exc (.ctxrLo c r2 ra) loR g 7 ∧ exc (.ctxrHi c r2 ra) hiR g 7) ∧
      (∀ g, f.ctxArea q .read a = (g, true) →
        (∀ (h : State) (d : Word) (ws : List Word), g.loadWords c a 21 [] = (h, .ok d, ws) →
          completes (.ctxrLo c r2 ra) loR h (((List.range 15).map fun i => (i + 1, ws.getD (2 + i) 0)) ++
            [(65, ws.getD 17 0), (64, ws.getD 18 0), (66, ws.getD 19 0), (67, ws.getD 20 0), (r2.val, ws.getD 0 0)])) ∧
        (∀ (h : State) (d : Word) (ws : List Word), g.loadWords c a 27 [] = (h, .ok d, ws) →
          completes (.ctxrHi c r2 ra) hiR h (((List.range 16).map fun i => (i + 16, ws.getD (2 + i) 0)) ++
            ((List.range 9).map fun i => (68 + i, ws.getD (18 + i) 0)) ++ [(r2.val, ws.getD 0 0)])))) ∧
    (∀ acc, (f.regionOk q acc (unalias a) 128 && isMem a) = false → f.ctxArea q acc a = (f.refuse q acc a 128, false)) ∧
    (∀ acc, (acc = .write → isNv (unalias a) = false) → (f.regionOk q acc (unalias a) 128 && isMem a) = true →
      f.pageClosedAt (unalias a) = false → f.blkRetired (unalias a) = false → f.nvBusyAt (unalias a) = false →
      f.ctxArea q acc a = (f, true))) ∧
  (∀ (c : CoreIx) (s : State) (x : CtxIx),
    let a := s.f F.SCHED_SAVE.base c * 512 + 0x200 * x
    let opens (acc : AccKind) : Bool := s.regionOk (s.saveReq c) acc a 256 && isSram a && !s.pageClosedAt a
    let b0 := s.f F.SCHED_CTX_STAT.bank c x
    ((∀ y, (s.core c).job ≠ some (true, y)) → NoEvent (exec (.spillComplete c) s) s) ∧
    ((∀ y, (s.core c).job ≠ some (false, y)) → NoEvent (exec (.restoreComplete c) s) s) ∧
    ((s.core c).job = some (true, x.val) →
      (s.ctxState c x = 2 ∨ s.bit F.SCHED_CTX_STAT.resident c x = false →
        ∃ t, exec (.spillComplete c) s = .next t ∧ t.mem = s.mem ∧ t.banks = s.banks ∧
          ∀ y : Nat, t.rd .SCHED_CTX_STAT c y = s.rd .SCHED_CTX_STAT c y) ∧
      (s.ctxState c x ≠ 2 → s.bit F.SCHED_CTX_STAT.resident c x = true → (s.bank c b0).ldDue = [] → (s.bank c b0).ldNew = [] →
        (opens .write = true → ∃ t, exec (.spillComplete c) s = .next t ∧ t.bit F.SCHED_CTX_STAT.resident c x = false ∧
          t.word (a + 4) = BitVec.ofNat 32 (x + 64) ∧ ∀ i, 0 < i → i < 16 → t.word (a + 4 + 4 * i) = (s.bank c b0).reg i) ∧
        (opens .write = false → ∃ t, exec (.spillComplete c) s = .next t ∧ t.ctxState c x = 4 ∧
          t.bit F.SCHED_CTX_STAT.resident c x = true ∧ (t.core c).ctxFault = some (BitVec.ofNat 32 x) ∧ t.mem = s.mem))) ∧
    (∀ b, (s.core c).job = some (false, x.val) → (s.freeBanks c).head? = some b →
      let holds (t : State) : Prop := t.bit F.SCHED_CTX_STAT.resident c x = true ∧ t.f F.SCHED_CTX_STAT.bank c x = b
      ((s.core c).fresh.get false x = true →
        ∃ t, exec (.restoreComplete c) s = .next t ∧ holds t ∧
          t.bank c b = { g := SMap.set 0 [] 1 (s.rd .SCHED_CTX_ARG c x), pc := BitVec.ofNat 32 (s.f F.SCHED_CTX_ENTRY.entry c x * 4),
                         status := BitVec.ofNat 32 (4 + 2 * s.f F.SCHED_CTX.user c x) }) ∧
      ((s.core c).fresh.get false x = false →
        (opens .read = false → ∃ t, exec (.restoreComplete c) s = .next t ∧ t.ctxState c x = 4 ∧ t.mem = s.mem ∧
          (t.core c).ctxFault = some (BitVec.ofNat 32 (32 + x))) ∧
        (opens .read = true →
          (∀ i, i < 64 → s.nflips (a + 4 * i) = 0) → (∀ i, i < 64 → s.ram.valid.get 0 ((a + 4 * i) / 4) = 7) →
          ∃ t, exec (.restoreComplete c) s = .next t ∧ holds t ∧ t.mem = s.mem ∧ (t.bank c b).pc = s.word (a + 84) &&& 0xFFFFFFFC ∧
            (∀ i, 0 < i → i < 16 → (t.bank c b).reg i = s.word (a + 4 + 4 * i)) ∧
            (∀ i, i < 16 → (t.bank c b).reg (16 + i) = s.word (a + 136 + 4 * i)) ∧ (t.bank c b).st 3 = false))))
/-! ### Scheduler, asynchronous events, fetched lines -/

/-- The scheduler's commands. The switch to a resident bank. -/
def Obligations.ContextsStartStopAndSwitch : Prop :=
  (∀ (c : CoreIx) (x : CtxIx) (s : State),
    (s.ctxState c x = 0 → ∃ t, exec (.start c x) s = .next t ∧ t.resp.err = false ∧ t.ctxState c x = 1 ∧
      (t.core c).fresh.get false x = true ∧ (t.core c).readyTag.get 0 x = s.now) ∧
    (s.ctxState c x ≠ 0 → exec (.start c x) s = .next { s with resp := { err := true, data := 0 } }) ∧
    (s.ctxState c x ≠ 2 → ∃ t, exec (.stop c x) s = .next t ∧ t.resp.err = false ∧ t.ctxState c x = 0 ∧
      t.bit F.SCHED_CTX_STAT.resident c x = false ∧ (t.bit F.SCHED_FP.valid c = true → t.f F.SCHED_FP.owner c ≠ x) ∧
      (∀ y : Nat, y ≠ x → t.rd .SCHED_CTX_STAT c y = s.rd .SCHED_CTX_STAT c y) ∧ t.mem = s.mem ∧ t.banks = s.banks) ∧
    (s.ctxState c x = 2 → exec (.stop c x) s = .next { s with resp := { err := true, data := 0 } }) ∧
    (s.ctxState c x = 3 → ∃ t, exec (.wake c x) s = .next t ∧ t.ctxState c x = 1 ∧ (t.core c).readyTag.get 0 x = s.now ∧
      (∀ y : Nat, y ≠ x → t.rd .SCHED_CTX_STAT c y = s.rd .SCHED_CTX_STAT c y) ∧ t.mem = s.mem ∧ t.banks = s.banks) ∧
    (s.ctxState c x ≠ 3 → exec (.wake c x) s = .next { s with resp := { err := false, data := 0 } })) ∧
  (∀ (c : CoreIx) (s : State), s.replaying c = false →
    let g := s.settled c
    let old := s.f F.SCHED_STAT.cur c
    (s.selected c = none → NoEvent (exec (.contextSwitch c) s) s) ∧
    ∀ x : Nat, s.selected c = some x →
      (s.ctxState c x = 2 → NoEvent (exec (.contextSwitch c) s) s) ∧
      (s.ctxState c x = 1 → s.bit F.SCHED_STAT.fast c = false → s.bit F.SCHED_CTX_STAT.resident c x = true → s.awake c = true →
        (s.core c).job ≠ some (true, x) → g.asyncEvent c = none →
        (s.ctxState c old ≠ 2 ∨ ((s.core c).shield = false ∧ (s.core c).win = none ∧ (s.core c).waiting = none ∧ (s.cur c).ldNew = [] ∧
          (g.cur c).st 0 = false ∧ (g.cur c).st 7 = false)) →
        ∃ t, exec (.contextSwitch c) s = .next t ∧ t.ctxState c x = 2 ∧ t.f F.SCHED_STAT.cur c = x ∧
          t.runBank c = s.f F.SCHED_CTX_STAT.bank c x ∧
          (x ≠ old → t.ctxState c old = if s.ctxState c old = 2 then 1 else s.ctxState c old) ∧
          t.f F.SCHED_CNT.sw_cnt c = (if x = old then s.f F.SCHED_CNT.sw_cnt c else min (s.f F.SCHED_CNT.sw_cnt c + 1) 0xFFFF) ∧
          t.banks = g.banks ∧ t.mem = s.mem))
/-- Asynchronous exception entry; `g` is the core as it stands between two instructions, its due loads delivered. STORE_ERROR_RESPONSE and LINE_READ_DONE. -/
def Obligations.AsynchronousEntriesAndStoreErrorsComplete : Prop :=
  (∀ (c : CoreIx) (s : State), s.replaying c = false →
    let g := s.settled c
    let b := g.runBank c
    let same : Prop := NoEvent (exec (.asyncExceptionEntry c) s) s
    (g.asyncOpen c = false → same) ∧
    (g.asyncOpen c = true →
      let taken (b' v : Nat) (cause eval : Word) (t : State) : Prop :=
        exec (.asyncExceptionEntry c) s = .next t ∧ (t.bank c b').epc = (g.cur c).pc &&& 0xFFFFFFFC ∧
        (t.bank c b').ecause = cause ∧ (t.bank c b').eval = eval ∧
        (t.bank c b').pc = (s.core c).vbase + BitVec.ofNat 32 (16 * v) ∧
        (t.bank c b').st 0 = true ∧ (t.bank c b').st 1 = false ∧ (t.bank c b').st 2 = false ∧ t.mem = s.mem ∧
        (t.core c).waiting = none
      (∀ n, s.offer c true = some n → ∃ t, taken 8 16 16 (BitVec.ofNat 32 n) t ∧ t.runBank c = 8 ∧ t.pends c n = false) ∧
      (s.offer c true = none → g.idle c = true → same) ∧
      (s.offer c true = none → g.idle c = false →
        (∀ a, (s.core c).storeErr = some a → ∃ t, taken b 17 (BitVec.ofNat 32 (17 + (s.core c).storeLost.toNat * 64)) a t ∧
          (t.core c).storeErr = none ∧ (t.core c).storeLost = false) ∧
        ((s.core c).storeErr = none →
          (∀ w, (s.core c).ctxFault = some w → ∃ t, taken b 18 18 w t ∧ (t.core c).ctxFault = none) ∧
          ((s.core c).ctxFault = none →
            (∀ n, s.offer c false = some n → ∃ t, taken b 19 19 (BitVec.ofNat 32 n) t ∧ t.pends c n = false) ∧
            (s.offer c false = none → same)))))) ∧
  (∀ (c : CoreIx) (s : State),
    (∀ a es, (s.core c).errResp = a :: es →
      ((s.core c).storeErr = none → ∃ t, exec (.storeErrorResponse c) s = .next t ∧ t.mem = s.mem ∧ t.banks = s.banks ∧
        t.core c = { s.core c with errResp := es, storeErr := some a }) ∧
      (∀ e, (s.core c).storeErr = some e → ∃ t, exec (.storeErrorResponse c) s = .next t ∧ t.mem = s.mem ∧ t.banks = s.banks ∧
        t.core c = { s.core c with errResp := es, storeLost := true })) ∧
    (∀ line : Word,
      let ln := line.toNat / 64
      let q := s.req (coreM c)
      let wanted := (s.core c).want == some ln
      let sought := (wanted || (s.cur c).pc.toNat / 64 == ln) && s.coreRuns c && !s.vectorLine c ln && ((s.core c).codeLine ln).isNone
      let u := if wanted then s.updCore c fun k => { k with want := none } else s
      (sought = false → NoEvent (exec (.lineReadDone c line) s) s) ∧
      (sought = true → (isMem (ln * 64) && s.regionOk q .fetch (unalias (ln * 64)) 4) = true → ∀ (s1 : State) (d : Word) (ws : List Word),
        u.lineRead q (ln * 64) = (s1, .ok d, some ws) →
        ∃ t, exec (.lineReadDone c line) s = .next t ∧ t.mem = s1.mem ∧ t.banks = s1.banks ∧ (t.core c).codeLine ln = some ws ∧
          (wanted = true → (t.core c).want = none)) ∧
      (sought = true → (isMem (ln * 64) && s.regionOk q .fetch (unalias (ln * 64)) 4) = true → ∀ (s1 : State) (r : Rsp),
        u.lineRead q (ln * 64) = (s1, r, none) →
        exec (.lineReadDone c line) s = .next { (if wanted then s1 else s) with resp := { err := false, data := 0 } })))
/-! ### Littermates, Rest and the record port -/

/-- CHECKPOINT. Rest and the record port. -/
def Obligations.CheckpointsRestAndRecordPort : Prop :=
  (∀ (c : CoreIx) (forced : Bool) (s : State),
    let n := corePair c
    let live := s.paired n && !(s.core c).held && s.pf F.PJNL_PSTAT.failed n == 0 && (s.core c).waiting.isNone && (s.core c).win.isNone
    let due := (s.pair n).ckAt + BitVec.ofNat 64 (16000 * s.f F.CHK_CTL.interval c)
    let v := if !forced && decide (c.val < 8) then s.run (s.ticksTo due) else s
    let ready := if forced then s.forcedDue c else if c.val < 8 then !Tag.after due v.now else (s.pair n).due
    ((live && ready) = false → NoEvent (exec (.checkpoint c forced) s) s) ∧
    ((live && ready) = true → v.recovering n = true → ∃ t, exec (.checkpoint c forced) s = .next t ∧
      t.pf F.PJNL_PSTAT.late_ckpt n = 1 ∧ (t.pair n).deferred = true ∧ t.mem = s.mem ∧ t.banks = s.banks) ∧
    ((live && ready) = true → v.recovering n = false →
      let u := v.drainQueue c 16
      u.paired n = true → ∃ t, exec (.checkpoint c forced) s = .next t ∧
        (∀ b, b < 9 → (t.pair n).ck.banks.get {} b = u.bank c b) ∧ (t.pair n).ck.core = u.core c ∧
        (t.pair n).jnl = [{ ty := 9, tag := u.now }] ∧ (t.pair n).due = false ∧ (t.pair n).ckAt = u.now ∧ t.jpos c = 0 ∧
        t.rd .CHK_POS c = 0 ∧ t.mem = u.mem ∧ t.banks = u.banks)) ∧
  ((∀ (c : CoreIx) (s : State), (s.f F.PWR_STAT.rest).testBit c = false → (s.core c).held = false → s.ctxsIn c 1 = [] → s.ctxsIn c 2 = [] →
    s.fastPending c = false → (s.core c).job = none → (s.core c).queue = [] → s.pwr.mode = 1 → s.pwr.past = false →
    ∃ t, exec (.restEntry c) s = .next t ∧ (t.f F.PWR_STAT.rest).testBit c = true ∧
      (∀ d : CoreIx, d ≠ c → (t.f F.PWR_STAT.rest).testBit d = (s.f F.PWR_STAT.rest).testBit d) ∧ t.mem = s.mem ∧ t.banks = s.banks) ∧
  (∀ (c : CoreIx) (s : State), (s.ctxsIn c 2 ≠ [] ∨ s.ctxsIn c 1 ≠ [] ∨ (s.core c).held = true) →
    exec (.restEntry c) s = .next { s with resp := { err := false, data := 0 } }) ∧
  (∀ (c : CoreIx) (s : State), (s.f F.PWR_STAT.rest).testBit c = true → (s.ctxsIn c 1 ≠ [] ∨ s.fastPending c = true) →
    ∃ t, exec (.restExit c) s = .next t ∧ (t.f F.PWR_STAT.rest).testBit c = false ∧
      (∀ d : CoreIx, d ≠ c → (t.f F.PWR_STAT.rest).testBit d = (s.f F.PWR_STAT.rest).testBit d) ∧ t.mem = s.mem ∧ t.banks = s.banks) ∧
  (∀ s : State,
    (∀ t r es, s.log.aqPort = (t, r) :: es → (∀ l w, (s.cFlip l w).2 = 0) → ∃ u, exec .recordPortWrite s = .next u ∧ u.log = { s.log with aqPort := es } ∧
      u.regs = s.regs) ∧
    (∀ j js, s.log.aqPort = [] → s.log.jnlPort = j :: js →
      exec .recordPortWrite s = .next { s with log := { s.log with jnlPort := js }, resp := { err := false, data := 0 } }) ∧
    (∀ lg r ls, s.log.aqPort = [] → s.log.jnlPort = [] → s.log.staged = (lg, r) :: ls → lg < 10 →
      ∃ u, exec .recordPortWrite s = .next u ∧ u.log.staged = ls ∧
        ((s.logOf lg).length < logSize lg → (s.logOf lg).any (sameEntry lg · r) = false →
          ∃ xs ys, s.logOf lg = xs ++ ys ∧ u.logOf lg = xs ++ r :: ys ∧ (∀ x ∈ xs, ¬ (x.first = r.first ∧ r.key < x.key)) ∧
            (∀ y, ys.head? = some y → y.first = r.first ∧ r.key < y.key)) ∧ u.mem = s.mem) ∧
    (∀ r rs, s.log.aqPort = [] → s.log.jnlPort = [] → s.log.staged = [] → s.log.trcPort = r :: rs →
      let full := decide (32768 ≤ s.log.trace.length)
      let stops := full && !s.bit F.TRC_CTL.wrap
      (stops = false → ∃ u, exec .recordPortWrite s = .next u ∧ u.log.trcPort = rs ∧
        u.log.trace = (if full then s.log.trace.tail else s.log.trace) ++ [r] ∧ u.mem = s.mem) ∧
      (stops = true → r.gap = true → NoEvent (exec .recordPortWrite s) s) ∧
      (stops = true → r.gap = false → ∃ u, exec .recordPortWrite s = .next u ∧ u.log.trcPort = rs ∧ u.log.trace = s.log.trace ∧
        (u.log.trcGap.get none r.cls).isSome = true ∧ u.mem = s.mem))))
/-- MISMATCH of a core pair. MISMATCH of an engine pair and RECOVERY_DONE. -/
def Obligations.MismatchesRecover : Prop :=
  (∀ (c : CoreIx) (a b : Bool) (n : Fin 16) (s : State), n.val = corePair c →
    let live := s.paired n && s.pf F.PJNL_PSTAT.failed n == 0 && (a || b) && !(s.core c).held
    let recent := (recentMm s.now (s.pair n).mm).length
    (live = false → exec (.mismatch n a b) s = .next { s with resp := { err := false, data := 0 } }) ∧
    (live = true → recent < 2 → (s.pair n).jbad = false →
      ∃ t, exec (.mismatch n a b) s = .next t ∧ (t.core c).queue = [] ∧ t.recovering n = true ∧ t.rd .CHK_POS c = 0 ∧
        (∀ i, i < 9 → t.bank c i = (s.pair n).ck.banks.get {} i) ∧
        t.mem = ((((s.pair n).jnl.filter (·.ty == 6)).reverse).foldl (fun u r => u.setWord r.a.toNat r.x) s).mem ∧
        (t.pair n).replay = ((s.pair n).jnl.filter (·.ty != 6)).filter fun r => r.ty != 6 && r.ty != 9) ∧
    (live = true → recent < 2 → (s.pair n).jbad = true →
      ∃ t, exec (.mismatch n a b) s = .next t ∧ t.pf F.PJNL_PSTAT.restart n = 1 ∧ (t.core c).queue = [] ∧ (t.pair n).jnl = [] ∧
        (t.bank c 0).pc = (s.core c).vbase ∧ (t.bank c 0).eval = 2) ∧
    (live = true → 2 ≤ recent →
      ∃ t, exec (.mismatch n a b) s = .next t ∧ (t.core c).held = true ∧ (t.core c).queue = [] ∧ t.pf F.PJNL_PSTAT.failed n = 1)) ∧
  ((∀ (n : Fin 16) (a b : Bool) (s : State), n.val < 4 →
    (s.paired n && s.pf F.PJNL_PSTAT.failed n == 0 && (a || b)) = true →
    let recent := (recentMm s.now (s.pair n).mm).length
    (recent < 2 → ∃ t, exec (.mismatch n a b) s = .next t ∧ t.recovering n = true ∧ t.mem = s.mem ∧
      (∀ i, i < 6 → (s.ax n i).ready.isSome = true → (t.ax n i).recov = true) ∧
      (s.busy n = false → t.engs = s.engs) ∧
      (s.busy n = true → (t.ax n (s.runAxis n)).recov = true) ∧
      (s.busy n = true → (s.pair n).jbad = true → t.busy n = false ∧ t.f F.LE_STATUS.cur n = 7) ∧
      (s.busy n = true → (s.pair n).jbad = false → t.busy n = true ∧
        t.eng n = { Eng.start (s.entryOf n (s.runAxis n)) (s.eng n).first with read := (s.eng n).read })) ∧
    (2 ≤ recent → ∃ t, exec (.mismatch n a b) s = .next t ∧ t.busy n = false ∧ t.f F.LE_STATUS.cur n = 7)) ∧
  (∀ (n : Fin 16) (s : State),
    let spent := if n.val < 4 then !s.busy n else (s.pair n).replay.isEmpty
    ((s.recovering n && spent) = false → exec (.recoveryDone n) s = .next { s with resp := { err := false, data := 0 } }) ∧
    ((s.recovering n && spent) = true → (s.pair n).deferred = false →
      ∃ t, exec (.recoveryDone n) s = .next t ∧ t.recovering n = false ∧ t.banks = s.banks ∧ t.mem = s.mem)))
/-! ### Memory control, coherence, DMA -/

/-- MEM_INIT and its end. The scrubber's read of one word. PAGE_RETIRE and PAGE_CLOSED. -/
def Obligations.PagesAreClearedScrubbedAndRetired : Prop :=
  ((∀ (m : Master) (s : State), (s.req m).mapped = true →
    (s.bit F.MEM_INIT_STAT.busy = false →
      (∀ g ∈ s.initPages.1, isSram (g * 4096) = true ∧ s.regionOk (s.req m) .write (g * 4096) 4096 = true) →
      ∃ t, exec (.initStart m) s = .next t ∧ t.resp.err = false ∧ t.bit F.MEM_INIT_STAT.busy = true ∧
        (s.initPages.2 = true → t.bit F.MEM_INIT_STAT.cnt_clamp = true) ∧
        ∀ a, t.byte a = if isSram a ∧ a / 4096 ∈ s.initPages.1 ∧ s.pageClosedAt a = false then 0 else s.byte a) ∧
    (s.bit F.MEM_INIT_STAT.busy = true →
      exec (.initStart m) s = .next { (s.setb F.MEM_INIT_STAT.refused) with resp := { err := true, data := 0 } })) ∧
  (∀ s : State, ∃ t, exec .initDone s = .next t ∧ t.bit F.MEM_INIT_STAT.busy = false ∧ t.mem = s.mem ∧ t.ram = s.ram)) ∧
  (∀ (a : Word) (s : State),
    (isSram a.toNat = true → s.f F.MEM_SCRUB_CTL.sram_ms ≠ 0 → s.pageClosedAt a.toNat = false → s.ram.valid.get 0 (a.toNat / 4) = 7 →
      ∃ t, exec (.scrubRead a) s = .next t ∧ t.mem = s.mem ∧
        t.nflips a.toNat = (if s.nflips a.toNat = 1 then 0 else s.nflips a.toNat) ∧
        (s.nflips a.toNat = 0 → t.log = s.log) ∧
        (s.nflips a.toNat ≠ 0 → (s.log.staged.filter fun e => e.1 == 8).length < 8 → t.log.staged.length = s.log.staged.length + 1) ∧
        (a.toNat / 4 = 0x11FFFFFC / 4 → t.bit F.MEM_SCRUB_STAT.sram_pass = true)) ∧
    ((isSram a.toNat = true ∧ s.f F.MEM_SCRUB_CTL.sram_ms = 0 ∨ isNv a.toNat = true ∧ s.f F.MEM_SCRUB_CTL.nvm_s = 0) →
      exec (.scrubRead a) s = .next { s with resp := { err := false, data := 0 } })) ∧
  ((∀ (m : Master) (n : Fin 64) (page : BitVec 20) (s : State), (s.req m).isT0 = true → (s.rd .MEM_RETIRE 0 n).getLsbD 0 = false →
    let dup := ∃ k : Fin 64, k ≠ n ∧ s.bit F.MEM_RETIRE.en 0 k = true ∧ s.f F.MEM_RETIRE.page 0 k = page.toNat
    (0x10000 ≤ page.toNat → page.toNat < 0x12000 → ¬ dup →
      ∃ t, exec (.pageRetire m n page) s = .next t ∧ t.resp.err = false ∧ t.bit F.MEM_RETIRE.en 0 n = true ∧
        t.f F.MEM_RETIRE.page 0 n = page.toNat ∧ t.bit F.MEM_RETIRE_STAT.busy = true ∧
        t.f F.MEM_RETIRE_STAT.used = (s.f F.MEM_RETIRE_STAT.used + 1) % 128 ∧
        t.ram.closing = s.ram.closing ++ [(n.val, page.toNat)] ∧ t.ram.closed = s.ram.closed ∧ t.mem = s.mem) ∧
    ((page.toNat < 0x10000 ∨ 0x12000 ≤ page.toNat ∨ dup) →
      exec (.pageRetire m n page) s = .next { (s.setb F.MEM_RETIRE_STAT.bad_page) with resp := { err := true, data := 0 } })) ∧
  (∀ (s : State) (n g : Nat) (rest : List (Nat × Nat)), s.ram.closing = (n, g) :: rest →
    ∃ t, exec .pageClosed s = .next t ∧ t.ram.closing = rest ∧ g ∈ t.ram.closed ∧ (∀ h ∈ s.ram.closed, h ∈ t.ram.closed) ∧
      t.bit F.MEM_RETIRE_STAT.busy = !rest.isEmpty ∧ t.mem = s.mem))
/-- The commands of the nonvolatile controller and their completion. -/
def Obligations.NonvolatileCommandsComplete : Prop :=
  (∀ (m : Master) (s : State), (s.req m).isT0 = true →
    let d := s.f F.MEM_NV_DST.dst * 64
    let len := min (s.f F.MEM_NV_LEN.len * 64) (0x4000 - d % 0x4000)
    let begins (i : Instr) (job : Nat) : Prop := ∃ t, exec i s = .next t ∧
      t.resp.err = (job == 1 && len != 0 && s.nvKey d % 0x2000000 == 0 &&
        (List.range 8).any fun k => s.byte (s.f F.MEM_NV_SRC.src * 64 + 4 + k) != s.byte (d + 4 + k)) ∧
      t.bit F.MEM_NV_STAT.busy = true ∧ t.f F.MEM_NV_STAT.lines = 0 ∧
      t.ram = { s.ram with nvJob := job, nvArg := (s.f F.MEM_NV_SRC.src * 64, d, len) } ∧ t.mem = s.mem
    let refused (i : Instr) : Prop := exec i s = .next { (s.setb F.MEM_NV_STAT.refused) with resp := { err := true, data := 0 } }
    (s.bit F.MEM_NV_STAT.busy = false → 0x2000000 ≤ d → d < 0x4000000 →
      (s.blkRetired d = false → begins (.program m) 1 ∧ begins (.erase m) 2) ∧ begins (.retireBlock m) 3 ∧
      (s.blkRetired d = true → refused (.program m) ∧ refused (.erase m))) ∧
    ((s.bit F.MEM_NV_STAT.busy = true ∨ d < 0x2000000 ∨ 0x4000000 ≤ d) →
      refused (.program m) ∧ refused (.erase m) ∧ refused (.retireBlock m))) ∧
  (∀ s : State, s.bit F.MEM_NV_STAT.busy = true →
    let (src, d, len) := s.ram.nvArg
    let own (x : Nat) : Bool := decide (4 ≤ s.nvKey x % 0x2000000 ∧ s.nvKey x % 0x2000000 < 12)
    let ends (fails : Bool) (post : State → Prop) : Prop := ∃ t, exec (.nvCommandDone fails) s = .next t ∧
      t.bit F.MEM_NV_STAT.busy = false ∧ t.bit F.MEM_NV_STAT.done = true ∧ post t
    (s.ram.nvJob = 2 → ends false fun t =>
      ∀ x, t.byte x = if x < 0x4000000 ∧ s.nvKey x / 0x4000 = s.nvKey d / 0x4000 ∧ own x = false then 0xFF else s.byte x) ∧
    (s.ram.nvJob = 3 → isNv d = true → ends false fun t => t.blkRetired d = true ∧ ∀ x, t.byte x = s.byte x) ∧
    (s.ram.nvJob = 1 → len = 64 → isNv d = true → d % 64 = 0 → src % 64 = 0 → s.ram.nvProg.get false (s.nvKey d / 64) = false →
      (isSram src = true ∧ ∀ i, i < 16 → s.ram.valid.get 0 (src / 4 + i) = 7 ∧ s.nflips (src + 4 * i) = 0) → ends false fun t =>
        ∀ x, t.byte x = if d ≤ x ∧ x < d + 64 ∧ own x = false then s.byte (src + (x - d)) else s.byte x))

/-- The directory's commands. -/
def Obligations.CoherenceCommandsKeepOneOwner : Prop :=
  ∀ (c : Fin 8) (a : Word) (s : State), cached a.toNat = true →
    let ln := a.toNat / 64
    (s.l1 ln c = .i → ∃ t, exec (.readMiss c a) s = .next t ∧ t.mem = s.mem ∧
      t.l1 ln c = (if ∃ d : Fin 8, d ≠ c ∧ s.l1 ln d ≠ .i then .s else .e) ∧
      (∀ d : Fin 8, d ≠ c → t.l1 ln d = if s.l1 ln d = .i then .i else .s)) ∧
    (s.l1 ln c ≠ .i → exec (.readMiss c a) s = .next { s with resp := { err := false, data := 0 } }) ∧
    (∃ t, exec (.ownershipRequest c none a) s = .next t ∧ t.mem = s.mem ∧ t.l1 ln c = .m ∧ (∀ d : Fin 8, d ≠ c → t.l1 ln d = .i)) ∧
    (∀ r : Fin 8, r ≠ c → ∃ t, exec (.ownershipRequest c (some r) a) s = .next t ∧ t.mem = s.mem ∧
      ∃ w : Fin 8, (w = c ∨ w = r) ∧ t.l1 ln w = .m ∧ (∀ d : Fin 8, d ≠ w → t.l1 ln d = .i)) ∧
    (∃ t, exec (.eviction c a) s = .next t ∧ t.mem = s.mem ∧ t.l1 ln c = .i ∧ (∀ d : Fin 8, d ≠ c → t.l1 ln d = s.l1 ln d) ∧
      (s.l1 ln c = .m → t.ram.l2.get 0 ln = 2))

/-! ### Logs, alarm queues, DMA -/

/-- Every log's pop and snapshot, and the alarm queue's pop. -/
def Obligations.LogsAreReadAndPoppedOldestFirst : Prop :=
  let popped (i : Instr) (s : State) (lg : Nat) (stat : RegName) (cnt : State → Nat) (w : Nat) : Prop :=
    Accepts (exec i s) fun t => t.logOf lg = (s.logOf lg).tail ∧ (∀ k, k < 10 → k ≠ lg → t.logOf k = s.logOf k) ∧
      cnt t = (s.logOf lg).tail.length % 2 ^ w ∧ KeepsRegs s t [stat] ∧ t = { s with regs := t.regs, log := t.log, resp := t.resp }
  let snapped (i : Instr) (m : Master) (s : State) (lg : Nat) (held : Latch → List Word) : Prop :=
    Accepts (exec i s) fun t => t.resp.data = ((s.logOf lg).head?.map LogRec.a).getD 0 ∧ held (t.latch m) = s.logWords lg ∧
      t = { s with rdr := t.rdr, resp := t.resp }
  ∀ (m : Master) (s : State),
    ((s.req m).isT0 = true →
      popped (.elogPop m) s 8 .MEM_ELOG_STAT (·.f F.MEM_ELOG_STAT.count) 7 ∧
      popped (.slogPop m) s 9 .JNL_SLOG_STAT (·.f F.JNL_SLOG_STAT.count) 8 ∧
      snapped (.elogSnapshotRead m) m s 8 Latch.elog ∧ snapped (.slogSnapshotRead m) m s 9 Latch.slog ∧
      ∀ t : TenIx, popped (.vlogPop m (some t)) s t .TEN_VLOG_STAT (·.f F.TEN_VLOG_STAT.count 0 t) 6 ∧
        snapped (.vlogSnapshotRead m (some t)) m s t Latch.vlog) ∧
    ((s.req m).mapped = true → (s.req m).ten < 8 →
      popped (.vlogPop m none) s (s.req m).ten .TEN_VLOG_STAT (·.f F.TEN_VLOG_STAT.count 0 (s.req m).ten) 6 ∧
      snapped (.vlogSnapshotRead m none) m s (s.req m).ten Latch.vlog) ∧
    (∀ t : TenIx, (s.req m).mapped = true → ((s.req m).ten = t ∨ (s.req m).ten = 0) →
      (s.aq t = [] → exec (.alarmPop m t) s = .next { s with resp := { err := false, data := 0 } }) ∧
      (∀ e es, s.aq t = e :: es → Accepts (exec (.alarmPop m t) s) fun u => u.aq t = es ∧ (∀ k : TenIx, k ≠ t → u.aq k = s.aq k) ∧
        u.f F.JNL_AQ_STAT.head 0 t = (s.f F.JNL_AQ_STAT.head 0 t + 1) % 64 ∧ u.f F.JNL_AQ_STAT.count 0 t = es.length % 128 ∧
        u.bit F.JNL_AQ_STAT.ovf 0 t = es.any LogRec.isOvf ∧ KeepsRegs s u [.JNL_AQ_STAT] ∧
        u = { s with regs := u.regs, log := u.log, resp := u.resp }))

/-- Start, stop and halt of a DMA channel. One burst of a DMA channel. -/
def Obligations.DmaChannelsCarryOutTheirTransfers : Prop :=
  (∀ (k : DmaIx) (s : State),
    let src := (s.pairAt .DMA_SRC_LO .DMA_SRC_HI 0 k).toNat % 2 ^ 52
    let dst := (s.pairAt .DMA_DST_LO .DMA_DST_HI 0 k).toNat % 2 ^ 52
    let len := s.f F.DMA_LEN.len 0 k * 4
    let cut := min len (min (s.roomAt src) (s.roomAt dst))
    let idle : Prop := s.bit F.DMA_STAT.busy 0 k = false ∧ s.bit F.DMA_STAT.halted 0 k = false
    let starts (i : Instr) : Prop := Accepts (exec i s) fun t =>
      t.dma.get {} k = { src := src, dst := dst, left := cut } ∧ t.f F.DMA_LEN.len 0 k = (cut + 3) / 4 % 2 ^ 22 ∧
      t.bit F.DMA_STAT.clamp 0 k = (s.bit F.DMA_STAT.clamp 0 k || cut != len) ∧
      (cut ≠ 0 → t.bit F.DMA_STAT.busy 0 k = true ∧ t.bit F.DMA_STAT.done 0 k = s.bit F.DMA_STAT.done 0 k) ∧
      (cut = 0 → s.bit F.DMA_CTL.chain 0 k = false → t.bit F.DMA_STAT.busy 0 k = false ∧ t.bit F.DMA_STAT.done 0 k = true) ∧
      KeepsRegs s t ([.DMA_STAT, .DMA_LEN, .DMA_TAG_LO, .DMA_TAG_HI] ++ lossRegs) ∧
      t = { s with regs := t.regs, dma := t.dma, lsh := t.lsh, log := t.log, resp := t.resp }
    (∀ m : Master, (s.req m).admits (s.owner (.dma k)) = true →
      (idle → starts (.dmaStart k (.command m))) ∧ (¬ idle → TurnedAway (exec (.dmaStart k (.command m)) s) s) ∧
      (s.bit F.DMA_STAT.busy 0 k = true → Accepts (exec (.dmaStop m k) s) fun t =>
        t = { s with dma := s.dma.set {} k { s.dma.get {} k with stop := true }, resp := t.resp }) ∧
      (s.bit F.DMA_STAT.busy 0 k = false → NoEvent (exec (.dmaStop m k) s) s) ∧
      Accepts (exec (.haltedClear m k) s) fun t => t.bit F.DMA_STAT.halted 0 k = false ∧ t.f F.DMA_STAT.cause 0 k = 0 ∧
        t.bit F.DMA_STAT.busy 0 k = s.bit F.DMA_STAT.busy 0 k ∧ t.bit F.DMA_STAT.done 0 k = s.bit F.DMA_STAT.done 0 k ∧
        t.bit F.DMA_STAT.clamp 0 k = s.bit F.DMA_STAT.clamp 0 k ∧ KeepsRegs s t [.DMA_STAT] ∧ t = { s with regs := t.regs, resp := t.resp }) ∧
    (s.f F.DMA_CTL.trig 0 k = 1 →
      (idle → starts (.dmaStart k .leash)) ∧ (¬ idle → NoEvent (exec (.dmaStart k .leash) s) s)) ∧
    (s.f F.DMA_CTL.trig 0 k ≠ 1 → NoEvent (exec (.dmaStart k .leash) s) s) ∧
    (∀ n : SlotIx, (s.req (.slot n)).admits (s.owner (.dma k)) = true →
      (idle → starts (.dmaStart k (.slot n))) ∧ (¬ idle → NoEvent (exec (.dmaStart k (.slot n)) s) s))) ∧
  (∀ (k : DmaIx) (s : State),
    let d := s.dma.get {} k
    let q := s.req (.dma k)
    let n := min 64 d.left
    let src := d.src % 2 ^ 44
    let dst := d.dst % 2 ^ 44
    ((s.bit F.DMA_STAT.busy 0 k = false ∨ d.wait ≠ 0) → NoEvent (exec (.dmaBurst k) s) s) ∧
    (s.bit F.DMA_STAT.busy 0 k = true → d.wait = 0 → d.left ≠ 0 →
      (s.localAddr d.src = true → s.localAddr d.dst = true → d.left % 4 = 0 → src % 4 = 0 → dst % 4 = 0 →
        0x10000000 ≤ src → src + n ≤ 0x12000000 → 0x10000000 ≤ dst → dst + n ≤ 0x12000000 →
        (∀ i, i < n → i % 4 = 0 → s.regionOk q .read (src + i) 4 = true ∧ s.regionOk q .write (dst + i) 4 = true ∧
          s.pageClosedAt (src + i) = false ∧ s.pageClosedAt (dst + i) = false ∧ s.nflips (src + i) = 0 ∧
          (∀ w, w < 9 → (s.cFlip (lineOf (src + i)) w).2 = 0 ∧ (s.cFlip (lineOf (dst + i)) w).2 = 0) ∧
          (s.ram.valid.get 0 ((src + i) / 4) = 0 ∨ s.ram.valid.get 0 ((src + i) / 4) = 7)) →
        Accepts (exec (.dmaBurst k) s) fun t =>
          (∀ a, t.byte a = if dst ≤ a ∧ a < dst + n then s.byte (src + (a - dst)) else s.byte a) ∧
          t.dma.get {} k = { d with src := d.src + n, dst := d.dst + n, left := d.left - n, wait := 0, wlen := 0, stop := false } ∧
          t.f F.DMA_LEN.len 0 k = (d.left - n + 3) / 4 % 2 ^ 22 ∧
          (d.left ≤ 64 → d.stop = false → s.bit F.DMA_CTL.chain 0 k = false →
            t.bit F.DMA_STAT.busy 0 k = false ∧ t.bit F.DMA_STAT.done 0 k = true) ∧
          (d.stop = true → t.bit F.DMA_STAT.busy 0 k = false) ∧
          (64 < d.left → d.left / 4 < 2 ^ 22 → d.stop = false → t.bit F.DMA_STAT.busy 0 k = true)) ∧
      (s.localAddr d.src = true → src % 4 = 0 → 4 ≤ s.burstLen k → isMem src = true → s.regionOk q .read (unalias src) 4 = false →
        Accepts (exec (.dmaBurst k) s) fun t => t.bit F.DMA_STAT.busy 0 k = false ∧ t.bit F.DMA_STAT.halted 0 k = true ∧
          t.f F.DMA_STAT.cause 0 k = 1 ∧ t.mem = s.mem ∧ t.dma = s.dma) ∧
      (s.localAddr d.src = false → s.laneTo (d.src / 2 ^ 44) = none →
        Accepts (exec (.dmaBurst k) s) fun t => t.bit F.DMA_STAT.busy 0 k = false ∧ t.bit F.DMA_STAT.halted 0 k = true ∧
          t.f F.DMA_STAT.cause 0 k = 3 ∧ t.mem = s.mem ∧ t.dma = s.dma) ∧
      (∀ ln, s.localAddr d.src = false → s.laneTo (d.src / 2 ^ 44) = some ln →
        Accepts (exec (.dmaBurst k) s) fun t => t.dma.get {} k = { d with wait := 1, wlen := s.burstLen k } ∧ t.mem = s.mem)))
/-! ### Leash channels, interrupts, mailboxes, tenants -/

/-- Software's side of the leash channels. LEASH_EVENT_DELIVERY; `u` is the state a tick later where the channel has just delivered an event of the same tag. -/
def Obligations.LeashEventsAreRaisedAndDelivered : Prop :=
  (∀ (m : Master) (ring : Fin 5) (s : State), (s.req m).mapped = true →
    (∀ (ch : Fin 64) (data : Byte),
      let g := 64 * ring.val + ch.val
      let good := (s.req m).admits (s.lshOwner g) && s.lf F.PLSH_PROD.pkind g == 0
      let first (x : LEv) : Prop := Tag.before s.now x.tag = true ∨ (s.now = x.tag ∧ (s.req m).rank < x.rank)
      (good = true → s.lf F.PLSH_ATTR.en g ≠ 0 → Accepts (exec (.raise m ring ch data) s) fun t =>
        (∃ (xs ys : List LEv), s.lsh.flight.get [] g = xs ++ ys ∧ t.lsh.flight.get [] g = xs ++ ⟨data, s.now, (s.req m).rank⟩ :: ys ∧
          (∀ x ∈ xs, ¬ first x) ∧ (∀ y, ys.head? = some y → first y)) ∧ (∀ k, k ≠ g → t.lsh.flight.get [] k = s.lsh.flight.get [] k) ∧
        t.lsh.held = s.lsh.held ∧ t = { s with lsh := t.lsh, resp := t.resp }) ∧
      (good = true → s.lf F.PLSH_ATTR.en g = 0 → NoEvent (exec (.raise m ring ch data) s) s) ∧
      (good = false → ∃ t, exec (.raise m ring ch data) s = .next t ∧ t.resp.err = true ∧ KeepsRegs s t lossRegs ∧
        t = { s with regs := t.regs, log := t.log, resp := t.resp })) ∧
    (∀ (w : Fin 2) (mask : Word),
      let ch (i : Nat) := 64 * ring.val + 32 * w.val + i
      let own (i : Nat) := (s.req m).admits (s.lshOwner (ch i))
      let acts (i : Instr) (b : Bool) : Prop := ∃ t, exec i s = .next t ∧
        (t.resp.err = true ↔ ∃ i, i < 32 ∧ mask.getLsbD i = true ∧ own i = false) ∧
        (∀ i, i < 32 → t.ringBit .PLSH_FLAG (ch i) = if mask.getLsbD i && own i then b else s.ringBit .PLSH_FLAG (ch i)) ∧
        (∀ g, g < 320 → g / 32 ≠ 2 * ring.val + w.val → t.ringBit .PLSH_FLAG g = s.ringBit .PLSH_FLAG g) ∧
        KeepsRegs s t (.PLSH_FLAG :: .SLSH_FLAG :: lossRegs) ∧ t = { s with regs := t.regs, log := t.log, resp := t.resp }
      acts (.flagSet m ring w mask) true ∧ acts (.flagClear m ring w mask) false)) ∧
  (∀ (g : Fin 320) (s : State),
    let o := exec (.leashEventDelivery g) s
    let twin := match s.lsh.flight.get [] g with
      | e :: _ => s.lsh.last.get none g == some (s.clk.raw, e.tag)
      | [] => false
    let u := if twin then s.run 1 else s
    (u.lsh.flight.get [] g = [] ∨ u.pwr.mode = 3 → NoEvent o u) ∧
    (∀ e rest, u.lsh.flight.get [] g = e :: rest → u.pwr.mode ≠ 3 →
      let gone : LshSt := { u.lsh with flight := u.lsh.flight.set [] g rest, last := u.lsh.last.set none g (some (u.clk.raw, e.tag)) }
      (u.lf F.PLSH_ATTR.en g = 0 → Accepts o fun t => t = { u with lsh := gone, resp := t.resp }) ∧
      (u.lf F.PLSH_ATTR.en g ≠ 0 → (u.fieldUp = true ∨ u.coreProducer g = false) →
        (u.unreachable g = true → u.lsh.held.get [] g = [] → Accepts o fun t =>
          t.ringBit .PLSH_FLAG g = true ∧ t.lsh.held.get [] g = [e] ∧ t.lf F.PLSH_ATTR.held g = 1 ∧ t.lsh.flight.get [] g = rest ∧
          t.mem = u.mem ∧ t.banks = u.banks) ∧
        (u.unreachable g = false → u.lf F.PLSH_CONS.ckind g ≤ 1 → Accepts o fun t =>
          t.ringBit .PLSH_FLAG g = true ∧ t.lf F.PLSH_LAST.data g = e.data.toNat ∧ t.lsh = gone ∧
          (g.val < 256 → t.pairAt .PLSH_TAG_LO .PLSH_TAG_HI (g / 64) (g % 64) = e.tag) ∧
          (256 ≤ g.val → t.pairAt .SLSH_TAG_LO .SLSH_TAG_HI 0 (g - 256) = e.tag) ∧
          (u.lf F.PLSH_CONS.ckind g = 0 → u.ringBit .PLSH_FLAG g = true → t.ringBit .PLSH_OVR g = true) ∧
          (u.lf F.PLSH_CONS.ckind g = 1 → Pended u t (u.lf F.PLSH_CONS.core g) (u.lf F.PLSH_CONS.idx g % 512)) ∧
          t.mem = u.mem ∧ t.banks = u.banks))))
/-- The interrupt controller's commands. Mailbox send and receive. -/
def Obligations.InterruptsAndMailboxesComplete : Prop :=
  (∀ (c : CoreIx) (s : State),
    let user := (s.cur c).status.getLsbD 1
    let kept (i : Instr) : Prop := ∃ t, exec i s = .next t ∧ t.resp.err = true ∧ KeepsRegs s t lossRegs ∧
      t = { s with regs := t.regs, log := t.log, resp := t.resp }
    let wrote (i : Instr) (r : RegName) (k : Nat) (v : Word) : Prop := Accepts (exec i s) fun t => t.rd r c k = v ∧
      (∀ j : Nat, j ≠ k → t.rd r c j = s.rd r c j) ∧ (∀ d : Nat, d ≠ c → ∀ j, t.rd r d j = s.rd r d j) ∧ KeepsRegs s t [r] ∧
      t = { s with regs := t.regs, resp := t.resp }
    (user = false →
      (∀ v : Word, Accepts (exec (.doorbell c v) s) fun t => Pended s t c (v.toNat % 1024) ∧ KeepsRegs s t pendRegs ∧
        t.mem = s.mem ∧ t.banks = s.banks) ∧
      (∀ (k : Fin 32) (mask : Word),
        (s.ctxsIn c 3 = [] → Accepts (exec (.pendSet c k mask) s) fun t =>
          (∀ i, i < 32 → t.pends c (32 * k + i) = (s.pends c (32 * k + i) || mask.getLsbD i)) ∧
          (∀ n, n / 32 ≠ k → t.pends c n = s.pends c n) ∧ KeepsRegs s t pendRegs ∧ t.mem = s.mem ∧ t.banks = s.banks) ∧
        wrote (.pendClear c k mask) .INT_PEND k (s.rd .INT_PEND c k &&& ~~~mask) ∧
        wrote (.maskSet c k mask) .INT_MASK k (s.rd .INT_MASK c k ||| mask) ∧
        wrote (.maskClear c k mask) .INT_MASK k (s.rd .INT_MASK c k &&& ~~~mask))) ∧
    (user = true → ∀ (v : Word) (k : Fin 32), kept (.doorbell c v) ∧ kept (.pendSet c k v) ∧ kept (.pendClear c k v) ∧
      kept (.maskSet c k v) ∧ kept (.maskClear c k v)) ∧
    (∀ (m : Master) (v : Word), (s.req m).mapped = true →
      (512 ≤ v.toNat % 1024 → (s.rd .INT_DBT c).getLsbD (s.req m).ten = true →
        Accepts (exec (.doorbellAlias m c v) s) fun t => Pended s t c (v.toNat % 1024) ∧ KeepsRegs s t pendRegs ∧
          t.mem = s.mem ∧ t.banks = s.banks) ∧
      ((v.toNat % 1024 < 512 ∨ (s.rd .INT_DBT c).getLsbD (s.req m).ten = false) → kept (.doorbellAlias m c v)))) ∧
  (∀ (c : CoreIx) (ch : Fin 16) (s : State),
    (∀ (m : Master) (v : Word), (s.req m).mapped = true →
      let q := s.req m
      let good := s.bit F.MBX_RX_CFG.en c ch && s.f F.MBX_RX_CFG.sender c ch == q.mno && s.f F.MBX_RX_CFG.owner c ch == q.ten &&
        (!s.bit F.MBX_RX_CFG.sec c ch || q.sec)
      let turned (i : Instr) (rs : List RegName) (P : State → Prop) : Prop := ∃ t, exec i s = .next t ∧ t.resp.err = true ∧ P t ∧
        (∀ w, t.rd .MBX_RX c ch w = s.rd .MBX_RX c ch w) ∧ t.rd .MBX_RX_FULL c = s.rd .MBX_RX_FULL c ∧ KeepsRegs s t rs ∧
        t = { s with regs := t.regs, log := t.log, resp := t.resp }
      (good = true → (s.core c).held = false → s.nbit .MBX_RX_FULL ch c = false →
        Accepts (exec (.mailboxSend m c ch v) s) fun t =>
          t.rd .MBX_RX c ch = BitVec.ofNat 32 (v.toNat / 16 * 16 + (if v.toNat % 16 = 0 then 1 else min (v.toNat % 16) 8)) ∧
          (∀ w, w ≠ 0 → t.rd .MBX_RX c ch w = s.rd .MBX_RX c ch w) ∧ t.nbit .MBX_RX_FULL ch c = true ∧
          (∀ k : Fin 16, k ≠ ch → t.nbit .MBX_RX_FULL k c = s.nbit .MBX_RX_FULL k c) ∧ t.bit F.MBX_TX_STAT.full 0 c ch = true ∧
          t.mbxTag.get 0 (16 * c + ch) = s.now ∧ Pended s t c (s.f F.MBX_RX_CFG.src c ch) ∧
          KeepsRegs s t ([.MBX_RX, .MBX_RX_STAT, .MBX_RX_FULL, .MBX_TX_STAT] ++ pendRegs) ∧ t.mem = s.mem ∧ t.banks = s.banks) ∧
      (good = true → (s.core c).held = true → turned (.mailboxSend m c ch v) [.MBX_TX_STAT] fun t =>
        t.bit F.MBX_TX_STAT.aborted 0 c ch = true) ∧
      (good = true → (s.core c).held = false → s.nbit .MBX_RX_FULL ch c = true →
        turned (.mailboxSend m c ch v) [.MBX_TX_STAT, .MBX_RX_STAT] fun t =>
          t.bit F.MBX_TX_STAT.rej 0 c ch = true ∧ t.nbit .MBX_RX_STAT ch c = true) ∧
      (good = false → turned (.mailboxSend m c ch v) lossRegs fun _ => True)) ∧
    ((s.cur c).status.getLsbD 1 = false → Accepts (exec (.mailboxReceive c ch) s) fun t =>
      t.resp.data = s.rd .MBX_RX c ch ∧ (t.latch (.core c)).mbx = (List.range 8).map (fun w => s.rd .MBX_RX c ch w) ∧
      (t.latch (.core c)).mbxTag = s.mbxTag.get 0 (16 * c + ch) ∧ t.nbit .MBX_RX_FULL ch c = false ∧
      (∀ k : Fin 16, k ≠ ch → t.nbit .MBX_RX_FULL k c = s.nbit .MBX_RX_FULL k c) ∧ t.bit F.MBX_TX_STAT.full 0 c ch = false ∧
      KeepsRegs s t [.MBX_RX_FULL, .MBX_TX_STAT] ∧ t = { s with regs := t.regs, rdr := t.rdr, resp := t.resp }))
/-- TENANT_RESET and TENANT_RESET_DONE. -/
def Obligations.TenantResetStopsTheTenant : Prop :=
  ∀ (k : TenIx) (s : State),
    (∀ m : Master, (s.req m).mapped = true →
      let may := k.val != 0 && s.tenEn k && ((s.req m).ten == 0 || ((s.req m).ten == k.val && s.bit F.TEN_CFG.self_rst 0 k))
      (may = true → (s.f F.TEN_RST_STAT.busy).testBit k = false → Accepts (exec (.tenantReset m k) s) fun t =>
        (t.f F.TEN_RST_STAT.busy).testBit k = true ∧ (∀ c : CoreIx, s.coreTen c = k → (t.core c).held = true) ∧
        (∀ n : SlotIx, (s.owner (.slot n)).ten = k → t.bit F.TIME_ACT_CTL.arm 0 n = (s.bit F.TIME_ACT_CTL.arm 0 n && s.slotReached n)) ∧
        (∀ (c : CoreIx) (w : Fin 64), (s.owner (.window c w)).ten = k → t.bit F.MEM_WIN_CTL.en 0 c w = false) ∧ t.mem = s.mem) ∧
      (may = true → (s.f F.TEN_RST_STAT.busy).testBit k = true → NoEvent (exec (.tenantReset m k) s) s) ∧
      (may = false → ∃ t, exec (.tenantReset m k) s = .next t ∧ t.resp.err = true ∧ KeepsRegs s t lossRegs ∧
        t = { s with regs := t.regs, log := t.log, resp := t.resp })) ∧
    ((s.f F.TEN_RST_STAT.busy).testBit k = false → NoEvent (exec (.tenantResetDone k) s) s) ∧
    ((s.f F.TEN_RST_STAT.busy).testBit k = true → Accepts (exec (.tenantResetDone k) s) fun t =>
      (t.f F.TEN_RST_STAT.busy).testBit k = false ∧ (t.f F.TEN_RST_STAT.done).testBit k = true ∧
      (∀ c : CoreIx, s.coreTen c = k → (t.core c).held = (s.pf F.PJNL_PSTAT.failed (corePair c) != 0)) ∧ t.mem = s.mem)

/-! ### Register accesses -/

/-- Plain registers: R8's access codes, R9's reserved addresses, and the checks of R363 and R372. Unmapped requesters. -/
def Obligations.RegisterWritesFollowAccessCodes : Prop :=
  (∀ (m : Master) (a v : Word) (s : State), (s.req m).mapped = true →
    let b := a.toNat - a.toNat % 4
    let q := s.req m
    let sysPlain : List RegName := [.TRC_CTL, .TRC_STAT, .TRC_CNT, .IMG_STATUS, .IMG_SWAP_SRC, .IMG_SWAP_CTL, .IMG_SWAP_STAT, .IMG_BANK, .SJNL_PSTAT,
      .SJNL_PFILL, .JNL_SLOG_STAT]
    let dmaPlain : List RegName := [.DMA_CTL, .DMA_LEN, .DMA_NEXT]
    let counts : List RegName := [.MEM_ELOG_STAT, .JNL_SLOG_STAT, .TRC_CNT, .SJNL_PFILL, .SJNL_PREC]
    (∀ x : RegAt, regAt b = some x →
      let may := if x.r ∈ sysPlain then q.isT0 else q.admits (s.owner (.dma x.i))
      let old := s.rd x.r x.p x.i x.j
      let wt := x.r.row
      (x.r ∈ sysPlain ∨ x.r ∈ dmaPlain →
        (may = true → Accepts (exec (.registerWrite m a v) s) fun t =>
          t.rd x.r x.p x.i x.j = ((old &&& ~~~wt.rw) ||| (v &&& wt.rw)) &&& ~~~(v &&& wt.w1c) ∧
          (∀ p i j, ¬ (p = x.p ∧ i = x.i ∧ j = x.j) → t.rd x.r p i j = s.rd x.r p i j) ∧ KeepsRegs s t [x.r] ∧
          t = { s with regs := t.regs, resp := t.resp }) ∧
        (may = false → ∃ t, exec (.registerWrite m a v) s = .next t ∧ t.resp.err = true ∧ KeepsRegs s t lossRegs ∧
          t = { s with regs := t.regs, log := t.log, resp := t.resp })) ∧
      (x.r ∈ counts →
        (q.isT0 = true → Accepts (exec (.rcFieldRead m a) s) fun t => t.resp.data = old ∧ t.rd x.r x.p x.i x.j = old &&& ~~~wt.rc ∧
          (∀ p i j, ¬ (p = x.p ∧ i = x.i ∧ j = x.j) → t.rd x.r p i j = s.rd x.r p i j) ∧ KeepsRegs s t [x.r] ∧
          t = { s with regs := t.regs, resp := t.resp }) ∧
        (q.isT0 = false → NoEvent (exec (.rcFieldRead m a) s) s))) ∧
    (regSpace b = true → isSec b = false → regAt b = none →
      NoEvent (exec (.registerWrite m a v) s) s ∧ NoEvent (exec (.rcFieldRead m a) s) s)) ∧
  (∀ (m : Master) (a v : Word) (s : State), (s.req m).mapped = false →
    ∀ i ∈ ([.registerWrite m a v, .readLatchLo m a, .writeLatchHi m a v, .loWriteCommit m a v, .resultSnapshotRead m a, .rcFieldRead m a,
      .uncachedAccess m true a v, .uncachedAccess m false a v] : List Instr),
      ∃ t, exec i s = .next t ∧ t.resp.err = true ∧ KeepsRegs s t lossRegs ∧ t = { s with regs := t.regs, log := t.log, resp := t.resp })
/-- Read and write latches. Result groups, and uncached accesses. -/
def Obligations.RegisterPairsAndResultsAreRead : Prop :=
  (∀ (m : Master) (a v : Word) (s : State), (s.req m).mapped = true →
    let b := a.toNat - a.toNat % 4
    let q := s.req m
    ∀ x : RegAt, regAt b = some x →
      (x.r = .TIME_NOW_LO → Accepts (exec (.readLatchLo m a) s) fun t => t.resp.data = s.now.lo ∧
        t.latch m = { s.latch m with hi := s.now.hi } ∧ t = { s with rdr := t.rdr, resp := t.resp }) ∧
      (∀ e ∈ ([(.IMG_SWAP_AT_LO, .IMG_SWAP_AT_HI), (.IMG_SWAP_TAG_LO, .IMG_SWAP_TAG_HI), (.JNL_SLOG_LF_LO, .JNL_SLOG_LF_HI),
          (.MEM_ELOG_LL_LO, .MEM_ELOG_LL_HI), (.DMA_SRC_LO, .DMA_SRC_HI), (.DMA_DST_LO, .DMA_DST_HI), (.DMA_TAG_LO, .DMA_TAG_HI)] :
          List (RegName × RegName)),
        (if e.1.row.blk = .dma then q.admits (s.owner (.dma x.i)) else q.isT0) = true →
        (x.r = e.1 → Accepts (exec (.readLatchLo m a) s) fun t => t.resp.data = s.rd e.1 0 x.i ∧
          t.latch m = { s.latch m with hi := s.rd e.2 0 x.i } ∧ t = { s with rdr := t.rdr, resp := t.resp }) ∧
        (x.r = e.2 → Accepts (exec (.readLatchLo m a) s) fun t => t.resp.data = (s.latch m).hi ∧ t = { s with resp := t.resp })) ∧
      (∀ e ∈ ([(.IMG_SWAP_AT_LO, .IMG_SWAP_AT_HI), (.DMA_SRC_LO, .DMA_SRC_HI), (.DMA_DST_LO, .DMA_DST_HI)] : List (RegName × RegName)),
        (if e.1.row.blk = .dma then q.admits (s.owner (.dma x.i)) else q.isT0) = true →
        (x.r = e.2 → Accepts (exec (.writeLatchHi m a v) s) fun t => t.latch m = { s.latch m with wr := some v } ∧
          t = { s with rdr := t.rdr, resp := t.resp }) ∧
        (x.r = e.1 → Accepts (exec (.loWriteCommit m a v) s) fun t => t.rd e.1 0 x.i = v ∧
          t.rd e.2 0 x.i = (match (s.latch m).wr with
            | some w => w &&& e.2.row.rw
            | none => s.rd e.2 0 x.i) ∧
          t.latch m = { s.latch m with wr := none } ∧ KeepsRegs s t [e.1, e.2] ∧ t = { s with regs := t.regs, rdr := t.rdr, resp := t.resp }))) ∧
  (∀ (m : Master) (a v : Word) (s : State), (s.req m).mapped = true →
    let b := a.toNat - a.toNat % 4
    let q := s.req m
    (∀ x : RegAt, regAt b = some x → (s.guard q x).rd = true →
      let takes (g : List RegName) : Prop := Accepts (exec (.resultSnapshotRead m a) s) fun t => t.resp.data = s.rd x.r x.p x.i x.j ∧
        (t.latch m).res = g.map (fun r => s.rd r x.p x.i x.j) ∧ t.rd x.r x.p x.i x.j = s.rd x.r x.p x.i x.j &&& ~~~x.r.row.rc ∧
        KeepsRegs s t [x.r] ∧ t = { s with regs := t.regs, rdr := t.rdr, resp := t.resp }
      (x.r = .ADC_RES → s.negSide x.p x.i = false → takes [.ADC_RES_V, .ADC_RES_TAG_LO, .ADC_RES_TAG_HI]) ∧
      (x.r = .ADC_RES → s.negSide x.p x.i = true → NoEvent (exec (.resultSnapshotRead m a) s) s) ∧
      (x.r = .SDM_RES → takes [.SDM_RES_V, .SDM_RES_TAG_LO, .SDM_RES_TAG_HI]) ∧
      (x.r = .RSV_SMP → takes [.RSV_INFO, .RSV_TAG_LO, .RSV_TAG_HI])) ∧
    (∀ w : Bool, exec (.uncachedAccess m w a v) s = if w then exec (.registerWrite m a v) s else exec (.rcFieldRead m a) s) ∧
    (8 ≤ q.mno → isSram b = true → s.pageClosedAt b = false → (∀ w, (s.cFlip (b / 64) w).2 = 0) →
      (s.regionOk q .write b 4 = true → Accepts (exec (.uncachedAccess m true a v) s) fun t => t.word b = v ∧
        (∀ c, ¬ (b ≤ c ∧ c < b + 4) → t.byte c = s.byte c) ∧ (cached b = true → ∀ c : Fin 8, t.l1 (b / 64) c = .i) ∧
        t = { s with mem := t.mem, ram := t.ram, resp := t.resp }) ∧
      (s.regionOk q .read b 4 = true → s.nflips b = 0 → (s.ram.valid.get 0 (b / 4) = 0 ∨ s.ram.valid.get 0 (b / 4) = 7) →
        Accepts (exec (.uncachedAccess m false a v) s) fun t => t.resp.data = s.word b ∧ t = { s with ram := t.ram, resp := t.resp } ∧
          t.ram.valid = s.ram.valid ∧ t.ram.flips = s.ram.flips) ∧
      (s.regionOk q .write b 4 = false → ∃ t, exec (.uncachedAccess m true a v) s = .next t ∧ t.resp.err = true ∧ t.mem = s.mem ∧
        t.ram = s.ram ∧ KeepsRegs s t lossRegs)))
/-! ### Boundaries, the timebase, action slots, die links -/

/-- PERIOD_BOUNDARY and BASE_BOUNDARY; `u` is the state when the boundary's tick has come. -/
def Obligations.BoundariesTakeEffect : Prop :=
  (∀ (p : PackIx) (x : SetIx) (s : State),
    let runs := s.bit F.PWM_SET_STAT.cnt_run p x && s.bit F.PWM_STATUS.clk_ok p && !(s.pset p x).restart
    let u := s.run ((s.pset p x).bk + (s.pset p x).car * (s.pset p x).ncar - s.clk.raw)
    (runs = false → NoEvent (exec (.periodBoundary p x) s) s) ∧
    (runs = true → Accepts (exec (.periodBoundary p x) s) fun t => t.pairAt .PWM_SET_TAG_LO .PWM_SET_TAG_HI p x = u.now ∧
      (t.pset p x).bk = u.clk.raw ∧ (t.pset p x).period = (u.pset p x).period + 1 ∧ t.mem = s.mem ∧ t.clk.tag = u.clk.tag ∧
      (u.axisOfSet p x = none → u.bit F.PWM_SET_CTL.ldsync p x = false → u.swapSt ≠ 3 → ∀ l : LegIx, u.member p x l = true →
        (t.pleg p l).tD = u.atCutoff p x .PWM_DUTY l))) ∧
  (∀ (p : PackIx) (s : State),
    let u := s.run (s.baseDue p - s.clk.raw)
    (s.pwr.mode ≠ 1 ∨ s.pwr.past = true → NoEvent (exec (.baseBoundary p) s) s) ∧
    (s.pwr.mode = 1 → s.pwr.past = false → Accepts (exec (.baseBoundary p) s) fun t =>
      t.pairAt .PWM_BASE_TAG_LO .PWM_BASE_TAG_HI p = u.now ∧ (t.pset p 6).bk = u.clk.raw ∧
      (t.pset p 6).period = (u.pset p 6).period + 1 ∧ (t.pset p 6).car = t.f F.PWM_BASE.base p ∧ (t.pset p 6).ncar = 1 ∧ t.mem = s.mem ∧
      (t.pair (p + 4)).due = true ∧
      (u.swapSt ≠ 3 → ∀ x : SetIx, u.f F.PWM_SET_CTL.legs p x ≠ 0 → u.bit F.PWM_STATUS.clk_ok p = true →
        u.bit F.PWM_SET_STAT.cnt_run p x = false →
        t.bit F.PWM_SET_STAT.cnt_run p x = true ∧ t.pairAt .PWM_SET_TAG_LO .PWM_SET_TAG_HI p x = u.now)))

/-- TSYNC, SYNC_LOSS_TIMEOUT and AO_SHADOW_COPY. -/
def Obligations.TimebaseFollowsTheGrandmaster : Prop :=
  (∀ (ln : FabIx) (domain : Byte) (gm : Tag) (s : State),
    let up := s.lnSt ln == 3 || s.lnSt ln == 4
    let follow := s.bit F.TIME_CTL.sync_en && s.f F.TIME_CTL.domain == domain.toNat && s.f F.FAB_CTL.ts_lane == ln.val && !s.clk.stopped
    let within := (s.now - gm).toInt.natAbs ≤ 80
    (up = false → s.lnSt ln ≠ 5 → NoEvent (exec (.tsync ln domain gm) s) s) ∧
    (up = true → follow = false → Accepts (exec (.tsync ln domain gm) s) fun t => t = { s with net := t.net, resp := t.resp }) ∧
    (up = true → follow = true →
      (s.timeSt = 0 → Accepts (exec (.tsync ln domain gm) s) fun t => t.clk.tag = gm ∧ t.clk.raw = s.clk.raw ∧ t.clk.lastMsg = gm ∧
        t.timeSt = 3 ∧ t.bit F.TIME_STATUS.stepped = true ∧ t.pairAt .TIME_STEP_LO .TIME_STEP_HI = gm - s.now ∧
        t.pairAt .TIME_STEP_AT_LO .TIME_STEP_AT_HI = gm ∧ t.mem = s.mem ∧
        (∀ n : SlotIx, s.slotArmed n = true → Tag.before (s.slotTgt n) gm = true →
          t.bit F.TIME_ACT_STAT.late 0 n = true ∧ t.slotArmed n = !s.bit F.TIME_ACT_CTL.skip_late 0 n ∧
          (s.bit F.TIME_ACT_CTL.skip_late 0 n = true → t.bit F.TIME_ACT_STAT.dropped 0 n = true))) ∧
      (s.timeSt ≠ 0 → Accepts (exec (.tsync ln domain gm) s) fun t => t.clk.tag = s.clk.tag ∧ t.clk.raw = s.clk.raw ∧ t.clk.lastMsg = s.now ∧
        -200000 ≤ (t.rd .TIME_RATE).toInt ∧ (t.rd .TIME_RATE).toInt ≤ 200000 ∧ t.mem = s.mem ∧
        (s.timeSt = 2 → t.timeSt = 3) ∧
        (s.timeSt = 3 → (¬ within → t.timeSt = 3 ∧ t.clk.good = 0) ∧ (within → s.clk.good = 7 → t.timeSt = 1) ∧
          (within → s.clk.good ≠ 7 → t.timeSt = 3 ∧ t.clk.good = s.clk.good + 1)) ∧
        (s.timeSt = 1 → (within → t.timeSt = 1 ∧ t.clk.bad = 0) ∧ (¬ within → s.clk.bad ≠ 1 → t.timeSt = 1 ∧ t.clk.bad = 1) ∧
          (¬ within → s.clk.bad = 1 → t.timeSt = 3 ∧ t.bit F.TIME_STATUS.lock_lost = true))))) ∧
  (∀ s : State,
    let lossAt := s.clk.lastMsg + BitVec.ofNat 64 (s.f F.TIME_CTL.loss_n * 16000000)
    let due := lossAt + s.tickUnits crossTicks + 1
    let u := s.run (s.ticksTo due)
    (s.timeSt = 0 ∨ s.timeSt = 2 ∨ Tag.after due u.now = true → NoEvent (exec .syncLossTimeout s) s) ∧
    (s.timeSt = 1 ∨ s.timeSt = 3 → Tag.after due u.now = false → Accepts (exec .syncLossTimeout s) fun t => t.timeSt = 2 ∧ t.clk.tag = u.clk.tag ∧
      (s.timeSt = 1 → t.bit F.TIME_STATUS.lock_lost = true ∧
        t.f F.TIME_STATUS.lost_cnt = min (s.f F.TIME_STATUS.lost_cnt + 1) 0xFFFF ∧
        (u.pwr.past = false → u.tenEn 0 = true → u.aq 0 = [] → (t.aq 0).map LogRec.first = [lossAt])) ∧ t.mem = s.mem) ∧
    (s.clk.stopped = false → Accepts (exec .aoShadowCopy s) fun t => t.clk.aoTag = s.now ∧ t.clk.aoState = s.timeSt ∧
      t.clk.aoRate = s.rd .TIME_RATE ∧ t.clk.aoStepped = s.bit F.TIME_STATUS.stepped ∧ t.clk.aoCycles = 0 ∧ t.clk.aoAt = s.clk.raw ∧
      t.clk.tag = s.clk.tag ∧ t = { s with clk := t.clk, resp := t.resp }) ∧
    (let n := s.clk.aoCycles + 1
     let start := (1953125 * n + 63) / 64
     s.clk.stopped = true → s.soon = [] → s.clk.raw < s.clk.aoAt + start → Accepts (exec .aoShadowCopy s) fun t =>
      t.clk.aoCycles = n ∧ t.clk.aoTag = s.clk.aoTag ∧ t.clk.raw = s.clk.aoAt + start ∧
      t.clk.tag = s.clk.aoTag + BitVec.ofNat 64 (16 * start) ∧ t = { s with clk := t.clk, resp := t.resp }))

/-- SLOT_ARM, SLOT_DISARM, SLOT_FIRE and SLOT_REFUSAL. -/
def Obligations.SlotsArmAndFire : Prop :=
  ∀ (n : SlotIx) (s : State),
    let kind := s.f F.TIME_ACT_CTL.kind 0 n
    let slotRegs : List RegName := [.TIME_ACT_CTL, .TIME_ACT_STAT, .TIME_ACT_FIRE_LO, .TIME_ACT_FIRE_HI]
    let plain (t : State) : Prop := KeepsRegs s t slotRegs ∧ t = { s with regs := t.regs, clk := t.clk, resp := t.resp } ∧ t.clk.tag = s.clk.tag
    (∀ (m : Master) (sk : Bool) (k : Fin 4), (s.req m).admits (s.owner (.slot n)) = true →
      (s.slotArmed n = false → s.slotJust n = false → k ≠ 3 → Tag.before (s.slotTgt n) s.now = false → Accepts (exec (.slotArm m n sk k) s) fun t =>
        t.slotArmed n = true ∧ t.bit F.TIME_ACT_CTL.skip_late 0 n = sk ∧ t.f F.TIME_ACT_CTL.kind 0 n = k ∧ plain t) ∧
      (s.slotArmed n = false → s.slotJust n = false → k ≠ 3 → Tag.before (s.slotTgt n) s.now = true → Accepts (exec (.slotArm m n sk k) s) fun t =>
        t.bit F.TIME_ACT_STAT.late 0 n = true ∧ t.slotArmed n = (!sk) ∧ (sk = false → n.val ∈ t.clk.due) ∧
        (sk = true → t.bit F.TIME_ACT_STAT.dropped 0 n = true ∧ t.pairAt .TIME_ACT_FIRE_LO .TIME_ACT_FIRE_HI 0 n = s.now) ∧ plain t) ∧
      (s.slotArmed n = false → s.slotJust n = false → k = 3 → TurnedAway (exec (.slotArm m n sk k) s) s) ∧
      (s.slotArmed n = true → kind = k → Accepts (exec (.slotArm m n sk k) s) fun t =>
        t.slotArmed n = true ∧ t.bit F.TIME_ACT_CTL.skip_late 0 n = sk ∧ t.f F.TIME_ACT_CTL.kind 0 n = k ∧ plain t) ∧
      (s.slotArmed n = true → kind ≠ k → ∃ t, exec (.slotArm m n sk k) s = .next t ∧ t.resp.err = true ∧
        t.rd .TIME_ACT_CTL 0 n = s.rd .TIME_ACT_CTL 0 n ∧ plain t) ∧
      (s.slotArmed n = true → kind = k → s.slotReached n = false → Accepts (exec (.slotDisarm m n sk k) s) fun t =>
        t.slotArmed n = false ∧ plain t) ∧
      (s.slotArmed n = true → kind = k → s.slotReached n = true → Accepts (exec (.slotDisarm m n sk k) s) fun t =>
        t.slotArmed n = true ∧ t.bit F.TIME_ACT_STAT.race 0 n = true ∧ n.val ∈ t.clk.due ∧ plain t) ∧
      (s.slotArmed n = false → s.slotJust n = false → Accepts (exec (.slotDisarm m n sk k) s) fun t => t.slotArmed n = false ∧
        t.f F.TIME_ACT_CTL.kind 0 n = k ∧ plain t) ∧
      (s.slotArmed n = false → s.slotJust n = true → ∀ i ∈ [Instr.slotArm m n sk k, Instr.slotDisarm m n sk k],
        ∃ t, exec i s = .next t ∧ t.resp.err = decide (kind ≠ k) ∧ t.slotArmed n = false ∧ t.bit F.TIME_ACT_STAT.race 0 n = true ∧
          t.f F.TIME_ACT_CTL.kind 0 n = kind ∧ plain t)) ∧
    (let waits := s.slotArmed n && !s.clk.due.contains n.val
     let u := if waits then s.run (s.ticksTo (s.slotTgt n)) else s
     let fires := !u.clk.stopped && ((u.slotArmed n && u.slotReached n) || u.clk.due.contains n.val)
     let kind := u.f F.TIME_ACT_CTL.kind 0 n
     let a := (u.rd .TIME_ACT_ADDR 0 n).toNat
     let q := u.req (.slot n)
     let done (P : State → Prop) : Prop := Accepts (exec (.slotFire n) s) fun t =>
       t.slotArmed n = false ∧ t.bit F.TIME_ACT_STAT.fired 0 n = true ∧ t.pairAt .TIME_ACT_FIRE_LO .TIME_ACT_FIRE_HI 0 n = u.now ∧
         n.val ∉ t.clk.due ∧ t.clk.tag = u.clk.tag ∧ t.slotJust n = true ∧ P t
     let refused (t : State) : Prop := t.clk.slotRefs = u.clk.slotRefs ++ [n.val]
     (fires = false → NoEvent (exec (.slotFire n) s) (if waits && Tag.after (s.slotTgt n) u.now then s else u)) ∧
     (fires = true → kind = 0 → a < 320 → u.lf F.PLSH_PROD.pkind a = 4 → u.lf F.PLSH_PROD.pidx a = n → u.lf F.PLSH_ATTR.en a ≠ 0 →
       done fun t => (∃ (xs ys : List LEv), u.lsh.flight.get [] a = xs ++ ys ∧ t.lsh.flight.get [] a = xs ++ ⟨0, u.now, 0⟩ :: ys ∧
         (∀ x ∈ xs, ¬ (Tag.before u.now x.tag = true ∨ (u.now = x.tag ∧ 0 < x.rank))) ∧
         (∀ y, ys.head? = some y → Tag.before u.now y.tag = true ∨ (u.now = y.tag ∧ 0 < y.rank))) ∧
         t.clk.slotRefs = u.clk.slotRefs ∧ t.mem = s.mem) ∧
     (fires = true → kind = 0 → 320 ≤ a ∨ u.lf F.PLSH_PROD.pkind a ≠ 4 ∨ u.lf F.PLSH_PROD.pidx a ≠ n →
       done fun t => t.lsh = u.lsh ∧ refused t ∧ t.mem = s.mem) ∧
     (fires = true → kind = 1 → isSram (a - a % 4) = true → u.regionOk q .write (a - a % 4) 4 = true → u.pageClosedAt (a - a % 4) = false →
       done fun t => t.word (a - a % 4) = u.rd .TIME_ACT_DATA 0 n ∧ (∀ c, c / 4 ≠ a / 4 → t.byte c = u.byte c) ∧
         t.clk.slotRefs = u.clk.slotRefs) ∧
     (∀ k : DmaIx, fires = true → kind = 2 → a = k → q.admits (u.owner (.dma k)) = true →
       u.bit F.DMA_STAT.busy 0 k = false → u.bit F.DMA_STAT.halted 0 k = false → u.f F.DMA_LEN.len 0 k ≠ 0 →
       0 < u.roomAt ((u.pairAt .DMA_SRC_LO .DMA_SRC_HI 0 k).toNat % 2 ^ 52) → 0 < u.roomAt ((u.pairAt .DMA_DST_LO .DMA_DST_HI 0 k).toNat % 2 ^ 52) →
       done fun t => t.bit F.DMA_STAT.busy 0 k = true ∧ t.clk.slotRefs = u.clk.slotRefs) ∧
     (∀ k : DmaIx, fires = true → kind = 2 → a = k → q.admits (u.owner (.dma k)) = false →
       done fun t => t.dma = u.dma ∧ refused t) ∧
     (n.val ∈ s.clk.slotRefs → Accepts (exec (.slotRefusal n) s) fun t => t.bit F.TIME_ACT_STAT.refused 0 n = true ∧
       t.clk.slotRefs = dropFirst (· == n.val) s.clk.slotRefs ∧ KeepsRegs s t [.TIME_ACT_STAT] ∧
       t = { s with regs := t.regs, clk := t.clk, resp := t.resp }) ∧
     (n.val ∉ s.clk.slotRefs → NoEvent (exec (.slotRefusal n) s) s))

/-- The links between the dies. -/
def Obligations.DieLinksComplete : Prop :=
  ∀ s : State,
    let fieldLost (t : State) : Prop := t.bit F.PWR_D2D_STATUS.fld_up = false ∧
      t.f F.PWR_D2D_STATUS.fld_loss = min (s.f F.PWR_D2D_STATUS.fld_loss + 1) 15 ∧
      (t.bit F.PWR_D2D_STATUS.fld_fail = (s.bit F.PWR_D2D_STATUS.fld_fail || decide (2 ≤ (recentMm s.now (s.pwr.d2d.get [] 0)).length))) ∧
      (∀ p : PackIx, t.bit F.PWM_STATUS.clk_ok p = false ∧ t.bit F.PWM_STATUS.clk_lost p = true) ∧
      (∀ (p : PackIx) (a : AxisIx), s.axSt p a = 2 ∨ s.axSt p a = 3 ∨ s.axSt p a = 4 → t.axSt p a = 5) ∧ t.mem = s.mem
    let memLost (t : State) : Prop := t.bit F.PWR_D2D_STATUS.mem_up = false ∧
      t.f F.PWR_D2D_STATUS.mem_loss = min (s.f F.PWR_D2D_STATUS.mem_loss + 1) 15 ∧
      (t.bit F.PWR_D2D_STATUS.mem_fail = (s.bit F.PWR_D2D_STATUS.mem_fail || decide (2 ≤ (recentMm s.now (s.pwr.d2d.get [] 1)).length))) ∧
      KeepsRegs s t (.PWR_D2D_STATUS :: alarmRegs) ∧ t.mem = s.mem ∧ t.banks = s.banks
    let away (l : DieLink) := s.bit (linkUpF l) || s.bit (linkFailF l) || s.pwr.mode != 1 || s.pwr.past
    let end_ (l : DieLink) := (s.pwr.d2d.get [] (dieIx l)).headD s.now + 800000
    (s.bit F.PWR_D2D_STATUS.fld_up = true →
      Accepts (exec .fieldLinkLoss s) fieldLost ∧ Accepts (exec (.d2dIdleTimeout .field) s) fieldLost) ∧
    (s.bit F.PWR_D2D_STATUS.mem_up = true →
      Accepts (exec .memoryLinkLoss s) memLost ∧ Accepts (exec (.d2dIdleTimeout .memory) s) memLost) ∧
    (s.bit F.PWR_D2D_STATUS.fld_up = false → NoEvent (exec .fieldLinkLoss s) s) ∧
    (s.bit F.PWR_D2D_STATUS.mem_up = false → NoEvent (exec .memoryLinkLoss s) s) ∧
    (∀ l : DieLink,
      (s.bit (linkUpF l) = false → NoEvent (exec (.d2dIdleTimeout l) s) s ∧ NoEvent (exec (.d2dTransferRetry l) s) s) ∧
      (s.bit (linkUpF l) = true → Accepts (exec (.d2dTransferRetry l) s) fun t =>
        t.f F.PWR_D2D_STATUS.crc_err = min (s.f F.PWR_D2D_STATUS.crc_err + 1) 0xFFFF ∧
        (0xFFFE ≤ s.f F.PWR_D2D_STATUS.crc_err → t.bit F.PWR_D2D_STATUS.crc_sat = true) ∧
        (s.pwr.retry.get 0 (dieIx l) < 3 → t.bit (linkUpF l) = true ∧ KeepsRegs s t [.PWR_D2D_STATUS]) ∧ t.mem = s.mem) ∧
      (away l = true → NoEvent (exec (.d2dRetrainDone l) s) s ∧ NoEvent (exec (.d2dRetrainTimeout l) s) s) ∧
      (away l = false →
        (Tag.before (end_ l) s.now = true → NoEvent (exec (.d2dRetrainDone l) s) s) ∧
        (Tag.before (end_ l) s.now = false → Accepts (exec (.d2dRetrainDone l) s) fun t => t.bit (linkUpF l) = true ∧ t.mem = s.mem ∧
          (l = .field → ∀ p : PackIx, t.bit F.PWM_STATUS.clk_ok p = true) ∧ (l = .memory → KeepsRegs s t [.PWR_D2D_STATUS])) ∧
        (let u := s.run (s.ticksTo (end_ l))
         (Tag.after (end_ l) u.now = true → NoEvent (exec (.d2dRetrainTimeout l) s) s) ∧
         (Tag.after (end_ l) u.now = false → Accepts (exec (.d2dRetrainTimeout l) s) fun t =>
          t.bit (linkUpF l) = false ∧ t.bit (linkFailF l) = true ∧ KeepsRegs u t (.PWR_D2D_STATUS :: alarmRegs) ∧ t.mem = s.mem))))

/-! ### Acquisition -/

/-- From hold to result register; `u` is the state at the event's instant. -/
def Obligations.SamplesAreHeldConvertedAndDelivered : Prop :=
  ∀ (p : PackIx) (s : State),
    (∀ e : Fin 32,
      (s.bit F.PWM_STATUS.clk_ok p = false ∨ s.holdDue p e = none → NoEvent (exec (.sampleHold p e) s) s) ∧
      ∀ due, s.bit F.PWM_STATUS.clk_ok p = true → s.holdDue p e = some due →
        (due < s.clk.raw → NoEvent (exec (.sampleHold p e) s) s) ∧
        (s.clk.raw ≤ due →
          let u := s.run (due - s.clk.raw)
          let n := u.f F.ADC_ENT_CTL.input p e
          let h := u.f F.ADC_ENT_CTL.sh p e
          let k := u.sh p h
          let marked (t : State) : Prop := SMap.get 0 (t.acq p).entHeld e = (u.srcTime p (u.f F.ADC_ENT_CTL.src p e)).1 + 1 ∧
            t = { u with regs := t.regs, acqs := t.acqs, resp := t.resp }
          let taken (t : State) : Prop := (t.sh p h).smp.n = n ∧ (t.sh p h).smp.tag = u.now ∧ (t.sh p h).smp.gain = u.holdGain p n ∧
            (t.sh p h).smp.cal = u.calAdc p n ∧ (t.sh p h).rsv = none ∧ (t.sh p h).ent = e
          let missed (t : State) (x : Nat) : Prop := t.nbit .ADC_EVT_1 x p = true ∧
            t.f F.ADC_CNT.miss_cnt p = min (u.f F.ADC_CNT.miss_cnt p + 1) (2 ^ F.ADC_CNT.miss_cnt.w - 1)
          let beats := k.st ≠ 0 ∧ k.rsv.isNone ∧ k.heldAt = u.clk.raw ∧ e < k.ent
          (u.shRsv p h = false → u.shBusy p h = false → Accepts (exec (.sampleHold p e) s) fun t => taken t ∧ marked t ∧
            ((u.sh p (2 * (h / 2))).st = 0 → (u.sh p (2 * (h / 2) + 1)).st = 0 → (t.sh p h).st = 2) ∧ KeepsRegs u t [.ADC_STATUS]) ∧
          (u.shRsv p h = true ∨ (u.shBusy p h = true ∧ ¬ beats) → Accepts (exec (.sampleHold p e) s) fun t => missed t e ∧ marked t ∧
            t.sh p h = k ∧ KeepsRegs u t [.ADC_EVT_1, .ADC_CNT]) ∧
          (u.shRsv p h = false → beats → k.ent < 32 → Accepts (exec (.sampleHold p e) s) fun t => taken t ∧ marked t ∧ missed t k.ent ∧
            KeepsRegs u t [.ADC_STATUS, .ADC_EVT_1, .ADC_CNT]))) ∧
    (∀ (k : Fin 4) (c : BitVec 16),
      let live := !s.pwr.past && s.pwr.mode != 2 && s.pwr.mode != 3
      (live = false ∨ s.sarAt p k 2 = none → NoEvent (exec (.conversionEnd p k c) s) s) ∧
      (live = false ∨ s.sarAt p k 3 = none → NoEvent (exec (.reconversionEnd p k c) s) s) ∧
      (∀ h, live = true → s.sarAt p k 2 = some h →
        let u := s.run ((s.sh p h).at_ + 167 - s.clk.raw)
        let m := (u.sh p h).smp
        let sent (t : State) (fl : Nat) : Prop := (t.acq p).out = (u.acq p).out ++ [{ m with raw := codeVal m.diff c, code := c.toNat, flags := fl }] ∧
          (t.sh p h).st = 0 ∧ (t.sh p h).freeAt = u.clk.raw + 60 ∧ t = { u with regs := t.regs, acqs := t.acqs, resp := t.resp }
        (u.sh p h).rsv = none →
        (endOfScale m.diff c = false → Accepts (exec (.conversionEnd p k c) s) fun t => sent t 0 ∧ KeepsRegs u t [.ADC_STATUS]) ∧
        (endOfScale m.diff c = true → u.reconOk p h = false → Accepts (exec (.conversionEnd p k c) s) fun t => sent t 3 ∧
          (m.n < 16 → t.nbit .ADC_EVT_0 m.n p = true) ∧
          t.f F.ADC_CNT.ovr_cnt p = min (u.f F.ADC_CNT.ovr_cnt p + 1) (2 ^ F.ADC_CNT.ovr_cnt.w - 1)) ∧
        (endOfScale m.diff c = true → u.reconOk p h = true → Accepts (exec (.conversionEnd p k c) s) fun t => (t.sh p h).st = 3 ∧
          (t.sh p h).at_ = u.clk.raw ∧ (t.sh p h).smp.gain = m.gain - 1 ∧ (t.acq p).out = (u.acq p).out ∧
          (m.n < 16 → t.nbit .ADC_EVT_0 m.n p = true))) ∧
      (∀ h, live = true → s.sarAt p k 3 = some h →
        let u := s.run ((s.sh p h).at_ + 175 - s.clk.raw)
        let m := (u.sh p h).smp
        Accepts (exec (.reconversionEnd p k c) s) fun t =>
          (t.acq p).out = (u.acq p).out ++ [{ m with raw := codeVal m.diff c, code := c.toNat, flags := if endOfScale m.diff c then 7 else 5 }] ∧
          (t.sh p h).st = 0 ∧ KeepsRegs u t [.ADC_STATUS] ∧ t = { u with regs := t.regs, acqs := t.acqs, resp := t.resp })) ∧
    ((s.acq p).out = [] → NoEvent (exec (.sampleRouterDelivery p) s) s) ∧
    (∀ m rest, (s.acq p).out = m :: rest → m.kind = 0 → m.n < 16 → m.flags < 8 → Accepts (exec (.sampleRouterDelivery p) s) fun t =>
      let val := if m.cal.on then m.calibrate.1 else m.vraw
      let fl := m.flags + (if m.due < s.clk.raw then 16 else 0) + (if m.calibrate.2 then 32 else 0)
      (t.acq p).out = rest ∧ t.f F.ADC_RES.code p m.n = m.code % 65536 ∧ t.f F.ADC_RES.range p m.n = m.gain % 4 ∧
      t.bit F.ADC_RES.new p m.n = true ∧ t.pairAt .ADC_RES_TAG_LO .ADC_RES_TAG_HI p m.n = m.tag ∧
      t.f F.ADC_RES.flags p m.n = fl ∧ t.rd .ADC_RES_V p m.n = val ∧
      (m.axis < 6 → m.leIn < 16 → let x : InSlot := SMap.get {} (t.ax p m.axis).slots m.leIn
        x.v = val ∧ x.flags = fl ∧ x.tag = m.tag) ∧
      KeepsRegs s t [.ADC_RES, .ADC_RES_V, .ADC_RES_TAG_LO, .ADC_RES_TAG_HI, .ADC_EVT_0, .ADC_EVT_2] ∧
      t = { s with regs := t.regs, acqs := t.acqs, axs := t.axs, resp := t.resp }) ∧
    (∀ m rest, (s.acq p).out = m :: rest → m.kind = 1 → m.n < 8 → Accepts (exec (.sampleRouterDelivery p) s) fun t =>
      (t.acq p).out = rest ∧ t.rd .SDM_RES p m.n = BitVec.ofInt 32 m.raw ∧ t.pairAt .SDM_RES_TAG_LO .SDM_RES_TAG_HI p m.n = m.tag ∧
      t.rd .SDM_RES_V p m.n = (if m.cal.on then m.calibrate.1 else m.vraw) ∧
      KeepsRegs s t [.SDM_RES, .SDM_RES_V, .SDM_RES_TAG_LO, .SDM_RES_TAG_HI, .SDM_STAT]) ∧
    (∀ m rest, (s.acq p).out = m :: rest → m.kind = 2 → Accepts (exec (.sampleRouterDelivery p) s) fun t =>
      (t.acq p).out = rest ∧ t.regs = s.regs) ∧
    (∀ m : Master, (s.req m).admits (s.owner (.pack p)) = true →
      let no := (List.range 6).any (fun a => s.axSt p a == 2 || s.axSt p a == 3 || s.axSt p a == 4) || s.bit F.ADC_STATUS.cal_busy p ||
        s.bit F.CMP_GSTAT.rdbk_busy p
      (no = false → Accepts (exec (.selfcal m p) s) fun t => t.bit F.ADC_STATUS.cal_busy p = true ∧ KeepsRegs s t [.ADC_STATUS] ∧
        t = { s with regs := t.regs, resp := t.resp }) ∧
      (no = true → ∃ t, exec (.selfcal m p) s = .next t ∧ t.resp.err = true ∧ t.bit F.ADC_STATUS.refused p = true ∧
        t.bit F.ADC_STATUS.cal_busy p = s.bit F.ADC_STATUS.cal_busy p ∧ KeepsRegs s t [.ADC_STATUS])) ∧
    (∀ good : Bool, (s.bit F.ADC_STATUS.cal_busy p = false → NoEvent (exec (.selfcalDone p good) s) s) ∧
      (s.bit F.ADC_STATUS.cal_busy p = true → Accepts (exec (.selfcalDone p good) s) fun t => t.bit F.ADC_STATUS.cal_busy p = false ∧
        t.bit F.ADC_STATUS.cal_ok p = good ∧ t.bit F.ADC_STATUS.cal_fail p = (!good) ∧ KeepsRegs s t [.ADC_STATUS]))

/-- Sigma-delta channels and calibration sets. Resolver channels; `u` is the state at the event's instant. -/
def Obligations.SigmaDeltaAndResolverChannelsComplete : Prop :=
  ((∀ (m : Master) (p : PackIx) (n : Fin 8) (v : Word) (s : State),
    let a := s.f F.SDM_CH.axis p n
    (s.req m).admits (s.boundOwner p a) = true → (a < 6 && s.axLk p a) = false →
    Accepts (exec (.sdmEnable m p n v) s) fun t => t.bit F.SDM_CH.en p n = v.getLsbD 0 ∧
      t.f F.SDM_CH.clk_div p n = max 4 (min (F.SDM_CH.clk_div.get v) 100) ∧
      (v.getLsbD 0 = true → s.bit F.SDM_CH.en p n = false →
        t.sdmc p n = { outs := 0, clk := !v.getLsbD 19 } ∧ t.bit F.SDM_STAT.unsettled p n = decide (1 < s.sdmN p n)) ∧
      (v.getLsbD 0 = false → s.bit F.SDM_CH.en p n = true → t.sdmc p n = {} ∧ t.nbit .MUZ_LIVE n p 1 = false) ∧
      (v.getLsbD 0 = s.bit F.SDM_CH.en p n → t.acqs = s.acqs) ∧ KeepsRegs s t [.SDM_CH, .SDM_STAT, .MUZ_LIVE]) ∧
  (∀ (p : PackIx) (n : Fin 8) (s : State),
    let live := !s.pwr.past && s.pwr.mode != 2 && s.pwr.mode != 3
    let ord := max 1 (s.f F.SDM_FLT.order p n)
    let osr := s.f F.SDM_FLT.osr p n
    let runs := live && s.bit F.SDM_CH.en p n && (!s.bit F.SDM_CH.sync p n || (s.sdmc p n).clk)
    let u := if s.bit F.SDM_CH.sync p n then s.run (s.sdmWindow p n - s.clk.raw) else s
    (∀ bits : List Bool, bits ≠ [] → (s.bit F.SDM_CH.en p n = true → ord * (osr - 1) + 1 ≤ bits.length) →
      (runs = false → NoEvent (exec (.decimatorOutput p n bits) s) s) ∧
      (runs = true → u.f F.SDM_FLT.order p n = s.f F.SDM_FLT.order p n → u.f F.SDM_FLT.osr p n = osr →
        Accepts (exec (.decimatorOutput p n bits) s) fun t => ∃ m : Samp, (t.acq p).out = (u.acq p).out ++ [m] ∧ m.kind = 1 ∧ m.n = n ∧
        m.tag = (if s.bit F.SDM_CH.sync p n && u.bit F.PWM_STATUS.clk_ok p then u.tagOf (s.sdmWindow p n) else u.fieldNow p) ∧ m.den = osr ^ ord ∧
        (ord = 1 → 0 < osr → m.raw = 2 * ((bits.drop (bits.length - osr)).count true : Int) - osr) ∧
        (t.sdmc p n).outs = min ((u.sdmc p n).outs + 1) 3 ∧ (t.sdmc p n).j = (u.sdmc p n).j + 1 ∧
        t.bit F.SDM_STAT.unsettled p n = decide ((u.sdmc p n).outs + 2 < ord) ∧ KeepsRegs u t [.SDM_STAT] ∧
        t = { u with regs := t.regs, acqs := t.acqs, resp := t.resp })) ∧
    (∀ bits : List Bool, (bits = [] ∨ (s.bit F.SDM_CH.en p n = true ∧ bits.length < ord * (osr - 1) + 1)) →
      exec (.decimatorOutput p n bits) s = .fault .illFormed) ∧
    (∀ bits : List Bool,
      let fo := max 1 (s.f F.SDM_FLT.f_order p n)
      let fr := s.f F.SDM_FLT.f_osr p n
      let fruns := s.bit F.SDM_CH.en p n && s.bit F.SDM_FLT.f_en p n
      let ones := ((bits.drop (bits.length - fr)).count true : Int)
      let hi := (BitVec.ofNat 16 (s.f F.SDM_FTHR.f_hi p n)).toInt
      let lo := (BitVec.ofNat 16 (s.f F.SDM_FTHR.f_lo p n)).toInt
      bits ≠ [] → (fruns = true → fo * (fr - 1) + 1 ≤ bits.length) →
      (fruns = false ∨ live = false → NoEvent (exec (.fastPathOutput p n bits) s) s) ∧
      (fruns = true → live = true → fo = 1 → 0 < fr →
        let beyond : Prop := hi * fr < (2 * ones - fr) * 32768 ∨ (2 * ones - fr) * 32768 < lo * fr
        (¬ beyond → Accepts (exec (.fastPathOutput p n bits) s) fun t => (t.sdmc p n).beyond = 0 ∧ t.nbit .MUZ_LIVE n p 1 = false ∧
          KeepsRegs s t [.MUZ_LIVE] ∧ t.mem = s.mem) ∧
        (beyond → Accepts (exec (.fastPathOutput p n bits) s) fun t =>
          (t.sdmc p n).beyond = min ((s.sdmc p n).beyond + 1) 9 ∧
          ((s.sdmc p n).beyond = s.f F.SDM_FLT.f_cnt p n → t.bit F.SDM_STAT.f_trip p n = true ∧ t.nbit .MUZ_LIVE n p 1 = true) ∧
          t.mem = s.mem))) ∧
    (live = true → s.bit F.SDM_CH.en p n = true → s.bit F.SDM_STAT.stuck p n = false →
      Accepts (exec (.modulatorStuck p n) s) fun t => t.bit F.SDM_STAT.stuck p n = true ∧ t.bit F.SDM_STAT.stuck_seen p n = true ∧
        KeepsRegs s t (.SDM_STAT :: alarmRegs) ∧ t.mem = s.mem ∧ t.acqs = s.acqs) ∧
    ((live = false ∨ s.bit F.SDM_CH.en p n = false ∨ s.bit F.SDM_STAT.stuck p n = true) →
      NoEvent (exec (.modulatorStuck p n) s) s) ∧
    (live = true → s.bit F.SDM_STAT.stuck p n = true → Accepts (exec (.stuckClear p n) s) fun t =>
      t.bit F.SDM_STAT.stuck p n = false ∧ (t.sdmc p n).outs = 0 ∧ t.bit F.SDM_STAT.unsettled p n = decide (1 < ord) ∧
      KeepsRegs s t [.SDM_STAT] ∧ t = { s with regs := t.regs, acqs := t.acqs, resp := t.resp }) ∧
    ((live = false ∨ s.bit F.SDM_STAT.stuck p n = false) → NoEvent (exec (.stuckClear p n) s) s)) ∧
  (∀ (m : Master) (p : PackIx) (k : Fin 64) (cfg : Word) (s : State),
    let commits (sdm : Bool) (o g l c : RegName) (t : State) : Prop :=
      let w (i : Nat) : Option Word := SMap.get none (s.acq p).staged ((2 * k + sdm.toNat) * 4 + i)
      t.rd o p k = (w 0).getD (s.rd o p k) ∧ t.rd g p k = (w 1).getD (s.rd g p k) ∧ t.rd l p k = (w 2).getD (s.rd l p k) ∧
      t.rd c p k = cfg &&& 7 ∧ (∀ i : Nat, i ≠ k → t.rd o p i = s.rd o p i ∧ t.rd g p i = s.rd g p i ∧ t.rd l p i = s.rd l p i ∧ t.rd c p i = s.rd c p i) ∧
      KeepsRegs s t [o, g, l, c] ∧ t = { s with regs := t.regs, acqs := t.acqs, was := t.was, resp := t.resp }
    ((s.req m).admits (s.ainOwner p (k / 4)) = true →
      (s.calLocked p (s.ainAxis p (k / 4)) = false →
        Accepts (exec (.calSetCommit m p false k cfg) s) (commits false .ADC_CAL_OFS .ADC_CAL_GAIN .ADC_CAL_LVL .ADC_CAL_CFG)) ∧
      (s.calLocked p (s.ainAxis p (k / 4)) = true → ∃ t, exec (.calSetCommit m p false k cfg) s = .next t ∧ t.resp.err = true ∧
        KeepsRegs s t lossRegs ∧ t.acqs = s.acqs)) ∧
    (k.val < 32 → (s.req m).admits (s.boundOwner p (s.f F.SDM_CH.axis p (k / 4))) = true →
      s.calLocked p (s.f F.SDM_CH.axis p (k / 4)) = false →
      Accepts (exec (.calSetCommit m p true k cfg) s) (commits true .SDM_CAL_OFS .SDM_CAL_GAIN .SDM_CAL_LVL .SDM_CAL_CFG)) ∧
    (32 ≤ k.val → exec (.calSetCommit m p true k cfg) s = .fault .illFormed))) ∧
  (∀ (p : PackIx) (r : Fin 2) (s : State),
    (∀ (m : Master) (v : Word), (s.req m).admits (s.boundOwner p (s.f F.RSV_CTL.axis p r)) = true →
      let locked := decide (s.f F.RSV_CTL.axis p r < 6) && s.axLk p (s.f F.RSV_CTL.axis p r)
      (locked = false → Accepts (exec (.resolverEnable m p r v) s) fun t => t.rd .RSV_CTL p r = v &&& 0xFFFFDD ∧
        (v.getLsbD 0 = false → t.bit F.RSV_STAT.run p r = false) ∧
        (v.getLsbD 0 = true → s.bit F.RSV_CTL.en p r = false → t.bit F.RSV_STAT.run p r = true ∧
          t.pairAt .RSV_START_LO .RSV_START_HI p r = (s.ticks 1).now ∧ (t.rsvc p r).start = s.clk.raw + 1) ∧
        (v.getLsbD 1 = true ∨ v.getLsbD 5 = true → t.bit F.RSV_STAT.cfg_clamp p r = true) ∧
        KeepsRegs s t [.RSV_CTL, .RSV_STAT, .RSV_START_LO, .RSV_START_HI] ∧ t = { s with regs := t.regs, acqs := t.acqs, resp := t.resp }) ∧
      (locked = true → ∃ t, exec (.resolverEnable m p r v) s = .next t ∧ t.resp.err = true ∧ KeepsRegs s t lossRegs)) ∧
    (∀ pol : Bool,
      let x := s.rsvDue p r (max (s.rsvc p r).next (max (s.rsvc p r).start s.clk.raw))
      let on := s.bit F.PWM_STATUS.clk_ok p && s.bit F.RSV_STAT.run p r && x.2 == pol
      let u := s.run (x.1 - s.clk.raw)
      let a := u.f F.RSV_CTL.sh_sin p r
      let b := u.f F.RSV_CTL.sh_cos p r
      (on = false → NoEvent (exec (.resolverHold p r pol) s) s) ∧
      (on = true → u.shBusy p a = false → u.shBusy p b = false → a ≠ b → Accepts (exec (.resolverHold p r pol) s) fun t =>
        (t.sh p a).rsv = some (r.val, true) ∧ (t.sh p b).rsv = some (r.val, false) ∧ (t.sh p a).smp.tag = u.now ∧ (t.sh p b).smp.tag = u.now ∧
        (t.sh p a).st ≠ 0 ∧ (t.sh p b).st ≠ 0 ∧ (t.rsvc p r).tag = u.now ∧ (t.rsvc p r).pol = pol ∧ (t.rsvc p r).next = u.clk.raw + 1 ∧
        (t.rsvc p r).lo = u.fWas F.RSV_AMP.lo p r ∧ (t.rsvc p r).hi = u.fWas F.RSV_AMP.hi p r ∧
        KeepsRegs u t [.ADC_STATUS] ∧ t = { u with regs := t.regs, acqs := t.acqs, resp := t.resp }) ∧
      (on = true → u.shBusy p a = true ∨ u.shBusy p b = true ∨ a = b → Accepts (exec (.resolverHold p r pol) s) fun t =>
        t.bit F.RSV_STAT.miss p r = true ∧ (t.rsvc p r).next = u.clk.raw + 1 ∧ KeepsRegs u t [.RSV_STAT] ∧
        t = { u with regs := t.regs, acqs := t.acqs, resp := t.resp })) ∧
    (∀ n : Nat, 0 < s.f F.RSV_EXC.exc_div p r → 64 * s.f F.RSV_EXC.exc_div p r = n → (s.rsvc p r).start ≤ s.clk.raw →
      let x := s.rsvDue p r s.clk.raw
      s.clk.raw ≤ x.1 ∧ x.1 < s.clk.raw + n ∧
        (x.1 - (s.rsvc p r).start) % n = ((if x.2 then 3 else 1) * (n / 4) + s.f F.RSV_PH.ph p r) % n) ∧
    (∀ (k : Fin 4) (h : Nat) (c x : BitVec 16), s.pwr.past = false → s.pwr.mode ≠ 2 → s.pwr.mode ≠ 3 → s.sarAt p k 2 = some h →
      let u := s.run ((s.sh p h).at_ + 167 - s.clk.raw)
      (u.sh p h).rsv = some (r.val, false) → (u.rsvc p r).sin = some x →
      Accepts (exec (.conversionEnd p k c) s) fun t => t.rd .RSV_SMP p r 0 = (c.setWidth 32 <<< 16 ||| x.setWidth 32) ∧
        t.pairAt .RSV_TAG_LO .RSV_TAG_HI p r 0 = (u.rsvc p r).tag ∧ t.f F.RSV_INFO.seq p r 0 = (u.rsvc p r).seq % 256 ∧
        (∀ i, i < 3 → t.rd .RSV_SMP p r (i + 1) = u.rd .RSV_SMP p r i ∧ t.rd .RSV_TAG_LO p r (i + 1) = u.rd .RSV_TAG_LO p r i ∧
          t.rd .RSV_TAG_HI p r (i + 1) = u.rd .RSV_TAG_HI p r i) ∧
        (t.sh p h).st = 0 ∧ (t.rsvc p r).seq = ((u.rsvc p r).seq + 1) % 256 ∧ t.mem = s.mem))
/-! ### Position feedback -/

/-- POSITION_EDGE. The fine capture of a pin takes the edge's tag where it is free; else the run's tick gives it. -/
def Obligations.PositionEdgesCount : Prop :=
  ∀ (p : PackIx) (i : Fin 6) (t : Tag) (s : State),
    let was := (s.pos p i).pins
    let cnt := s.rd .POS_CNT p i
    let r := s.rawOf t
    let held (e : Tag × Fin 3 × PinClass) (more : List (Tag × Fin 3 × PinClass)) : Prop := Accepts (exec (.positionEdge p i e more) s) fun u =>
      (u.pos p i).pins = was ∧ u.rd .POS_CNT p i = cnt ∧ u.rd .POS_WRAP p i = s.rd .POS_WRAP p i ∧ u.mem = s.mem
    (s.pwr.mode = 3 → ∀ e more, NoEvent (exec (.positionEdge p i e more) s) s) ∧
    (s.pwr.mode ≠ 3 → s.bit F.PWM_STATUS.clk_ok p = false → ∀ e more, held e more) ∧
    (s.pwr.mode ≠ 3 → s.bit F.PWM_STATUS.clk_ok p = true → (∀ k : Fin 3, SMap.get false (s.pos p i).lvl k = was.getLsbD k ∧ s.pinFrozen p i k = false) →
      s.clk.raw ≤ r →
      (∀ (t1 : Tag) (k : Fin 3), r ≤ s.rawOf t1 → s.rawOf t1 < r + s.f F.POS_CFG.flt p i →
        held (t, k, if was.getLsbD k then .low else .high) [(t1, k, if was.getLsbD k then .high else .low)]) ∧
      ∀ cl : Fin 3 → PinClass,
        let lv : BitVec 3 := BitVec.ofFnLE fun k => pinLevel (was.getLsbD k) (cl k)
        let more : List (Tag × Fin 3 × PinClass) := [(t, 1, cl 1), (t, 2, cl 2)]
        let o := exec (.positionEdge p i (t, 0, cl 0) more) s
        let inv (b : BitVec 3) : BitVec 3 := if s.bit F.POS_CFG.inv p i then ~~~b else b
        let old := inv was
        let new := inv lv
        let mode := s.f F.POS_CFG.mode p i
        let tagged (g : Tag) : Prop := ∃ k : Fin 3, was.getLsbD k ≠ lv.getLsbD k ∧
          g = if SMap.get 0 (s.pos p i).capAt k ≤ r then t else s.tagOf r
        let step (up : Bool) (u : State) : Prop := u.rd .POS_CNT p i = (if up then cnt + 1 else cnt - 1) ∧
          u.bit F.POS_STAT.dir p i = (!up) ∧ tagged (u.pairAt .POS_ETAG_LO .POS_ETAG_HI p i) ∧
          (∀ j : Nat, j ≠ i → u.rd .POS_CNT p j = s.rd .POS_CNT p j) ∧ u.mem = s.mem
        let kept (u : State) : Prop := u.rd .POS_CNT p i = cnt ∧ u.mem = s.mem
        let ok (P : State → Prop) : Prop := Accepts o fun u => (u.pos p i).pins = lv ∧ P u
        (was = lv → held (t, 0, cl 0) more) ∧
        (mode = 2 ∨ mode = 3 → old.getLsbD 2 = new.getLsbD 2 →
          (old.getLsbD 0 ≠ new.getLsbD 0 → old.getLsbD 1 = new.getLsbD 1 →
            ok (step ((new.getLsbD 0 != new.getLsbD 1) != s.bit F.POS_CFG.dir_inv p i))) ∧
          (old.getLsbD 0 = new.getLsbD 0 → old.getLsbD 1 ≠ new.getLsbD 1 →
            ok (step ((new.getLsbD 0 == new.getLsbD 1) != s.bit F.POS_CFG.dir_inv p i))) ∧
          (old.getLsbD 0 ≠ new.getLsbD 0 → old.getLsbD 1 ≠ new.getLsbD 1 →
            ok fun u => u.bit F.POS_STAT.quad_err p i = true ∧ (u.pos p i).hist = [] ∧ kept u)) ∧
        (mode = 2 → old.getLsbD 0 = new.getLsbD 0 → old.getLsbD 1 = new.getLsbD 1 → old.getLsbD 2 ≠ new.getLsbD 2 →
          new.getLsbD 2 ≠ s.bit F.POS_IDX.z_edge p i → s.bit F.POS_IDX.z_gate p i = false → ok fun u =>
            u.rd .POS_ICAP p i = cnt ∧ tagged (u.pairAt .POS_ITAG_LO .POS_ITAG_HI p i) ∧ u.bit F.POS_STAT.idx_seen p i = true ∧ kept u) ∧
        (mode = 1 → old ≠ new →
          (∀ v, hallSector (s.f F.POS_HMAP.map p i) new.toNat = some v → (s.pos p i).hallOk = true →
            let sec := s.f F.POS_SECT.sector p i
            let at_ (u : State) : Prop := u.f F.POS_SECT.sector p i = v ∧ u.bit F.POS_SECT.sect_valid p i = true
            (sec < 6 → v = (sec + 1) % 6 → ok fun u => at_ u ∧ step (!s.bit F.POS_CFG.dir_inv p i) u) ∧
            (sec < 6 → v = (sec + 5) % 6 → ok fun u => at_ u ∧ step (s.bit F.POS_CFG.dir_inv p i) u) ∧
            (sec < 6 → v ≠ sec → v ≠ (sec + 1) % 6 → v ≠ (sec + 5) % 6 → ok fun u =>
              at_ u ∧ u.bit F.POS_STAT.hall_skip p i = true ∧ (u.pos p i).hist = [] ∧ kept u)) ∧
          (hallSector (s.f F.POS_HMAP.map p i) new.toNat = none → ok fun u =>
            u.bit F.POS_STAT.hall_inv p i = true ∧ u.bit F.POS_SECT.sect_valid p i = false ∧ kept u)))

/-- Position feedback but its edges; `u` is the state at an event's instant. -/
def Obligations.PositionCommandsComplete : Prop :=
  (∀ (p : PackIx) (i : Fin 6) (s : State),
    let mode := s.f F.POS_CFG.mode p i
    let a := s.f F.POS_CFG.axis p i
    let flt := s.f F.POS_CFG.flt p i
    let clk := s.bit F.PWM_STATUS.clk_ok p
    (∀ m : Master, (s.req m).admits (s.posOwner p i) = true →
      (∀ v : Word, (a < 6 && s.axLk p a) = false →
        let m' := F.POS_CFG.mode.get v
        (m' < 4 → m' ≠ mode → Accepts (exec (.modeChange m p i v) s) fun t => t.f F.POS_CFG.mode p i = m' ∧ t.rd .POS_CNT p i = 0 ∧
          t.rd .POS_WRAP p i = 0 ∧ t.rd .POS_SPD p i = 0 ∧ t.bit F.POS_STAT.still p i = true ∧ (t.pos p i).hist = [] ∧
          KeepsRegs s t [.POS_CFG, .POS_CNT, .POS_WRAP, .POS_SPD, .POS_STAT, .POS_SECT] ∧
          t = { s with regs := t.regs, poss := t.poss, resp := t.resp }) ∧
        (m' < 4 → m' = mode → v.getLsbD 30 ≠ s.bit F.POS_CFG.inv p i → Accepts (exec (.invChange m p i v) s) fun t =>
          t.bit F.POS_CFG.inv p i = v.getLsbD 30 ∧ t.rd .POS_CNT p i = s.rd .POS_CNT p i ∧ (t.pos p i).hist = [] ∧ t.rd .POS_SPD p i = 0 ∧
          KeepsRegs s t [.POS_CFG, .POS_SPD, .POS_STAT, .POS_SECT] ∧ t = { s with regs := t.regs, poss := t.poss, free := t.free, resp := t.resp }) ∧
        (5 ≤ m' → TurnedAway (exec (.modeChange m p i v) s) s)) ∧
      Accepts (exec (.posSnapshotRead m p i) s) fun t => t.resp.data = s.rd .POS_CNT p i ∧
        (t.latch m).pos.get [] (8 * p + i) = [s.rd .POS_WRAP p i, s.rd .POS_SPD p i, s.rd .POS_SECT p i, s.rd .POS_ETAG_LO p i, s.rd .POS_ETAG_HI p i] ∧
        t = { s with rdr := t.rdr, resp := t.resp }) ∧
    (clk = false ∨ (s.pos p i).last = none → NoEvent (exec (.standstillTimeout p i) s) s) ∧
    (∀ g, clk = true → (s.pos p i).last = some g →
      let u := s.run (s.rawOf (g + BitVec.ofNat 64 (s.f F.POS_SPDCFG.ss_to p i * 1600000)) + flt + 4 - s.clk.raw)
      Accepts (exec (.standstillTimeout p i) s) fun t => t.bit F.POS_STAT.still p i = true ∧
        (t.pos p i).hist = [] ∧ (t.pos p i).last = none ∧ t.rd .POS_SPD p i = 0 ∧ KeepsRegs u t [.POS_STAT, .POS_SPD] ∧
        t = { u with regs := t.regs, poss := t.poss, free := t.free, resp := t.resp }) ∧
    (clk = false ∨ (s.pos p i).lq = [] → NoEvent (exec (.positionLatch p i) s) s) ∧
    (∀ q qs, clk = true → (s.pos p i).lq = q :: qs →
      let u := s.run (q.raw + flt + 4 - s.clk.raw)
      (u.pos p i).lq = (s.pos p i).lq →
      Accepts (exec (.positionLatch p i) s) fun t => t.rd .POS_CNT p i = u.rd .POS_CNT p i ∧ (t.pos p i).hist = (u.pos p i).hist ∧
        ((u.pos p i).hist.length < 2 → t.rd .POS_SPD p i = 0) ∧ (t.pos p i).lq.length = qs.length ∧
        (q.val = none → (t.pos p i).fl = 0 ∧ (t.pos p i).win = []) ∧
        (let x := u.f F.POS_CFG.le_in p i
          let b := u.f F.POS_CFG.axis p i
          b < 6 → x < 15 → let sl : InSlot := SMap.get {} (t.ax p b).slots x
          sl.tag = q.tag ∧ sl.v = u.posFraction p i ((q.val.map (·.1)).getD (u.rd .POS_CNT p i))) ∧
        KeepsRegs u t [.POS_SPD, .POS_SECT, .POS_EMU_STAT] ∧ t.mem = s.mem) ∧
    (∀ (k : Fin 3) (d : PinDiag),
      let b := 4 * k.val + diagIx d
      let c := s.cond p i k (diagIx d)
      let live := (s.f F.POS_DSTAT.live p i).testBit b
      let u := s.run (s.dwellTick p i k (diagIx d) - s.clk.raw)
      (s.pwr.mode ≠ 3 → c.1 = true → live = false → Accepts (exec (.pinDiagnostic p i k d) s) fun t =>
        t.nbit .POS_DSTAT b p i = true ∧ (t.f F.POS_DSTAT.live p i).testBit b = true ∧ t.bit F.POS_STAT.diag p i = true ∧
        KeepsRegs u t ([.POS_DSTAT, .POS_STAT] ++ alarmRegs) ∧ t.mem = s.mem) ∧
      (s.pwr.mode = 3 ∨ c.1 = false ∨ live = true → NoEvent (exec (.pinDiagnostic p i k d) s) s) ∧
      (s.pwr.mode ≠ 3 → d ≠ .stuck → c.1 = false → live = true → Accepts (exec (.pinDiagnosticClear p i k d) s) fun t =>
        (t.f F.POS_DSTAT.live p i).testBit b = false ∧ t.nbit .POS_DSTAT b p i = u.nbit .POS_DSTAT b p i ∧ t.mem = s.mem ∧
        (u.bit F.PWM_STATUS.clk_ok p = false ∨ (∀ j : Fin 3, SMap.get false (u.pos p i).lvl j = (u.pos p i).pins.getLsbD j) →
          KeepsRegs u t [.POS_DSTAT, .POS_STAT])) ∧
      (s.pwr.mode = 3 ∨ d = .stuck ∨ c.1 = true ∨ live = false → NoEvent (exec (.pinDiagnosticClear p i k d) s) s))) ∧
  (∀ (n : Fin 8) (s : State),
    let only (u t : State) (rs : List RegName) : Prop := KeepsRegs u t rs ∧ t = { u with regs := t.regs, pwr := t.pwr, resp := t.resp }
    let en := s.bit F.PWR_SENS_CTL.en 0 n
    let on := s.bit F.PWR_SENS_STAT.on 0 n
    (∀ (m : Master) (r : Bool), (s.req m).admits (s.owner (.sens n)) = true → Accepts (exec (.sensorSupplyEnable m n r) s) fun t =>
      t.bit F.PWR_SENS_CTL.en 0 n = true ∧ t.bit F.PWR_SENS_CTL.auto_retry 0 n = r ∧
      (en = false → t.bit F.PWR_SENS_STAT.on 0 n = (s.sensPower || on)) ∧ (en = true → t.bit F.PWR_SENS_STAT.on 0 n = on) ∧
      only s t [.PWR_SENS_CTL, .PWR_SENS_STAT]) ∧
    (on = false → ∀ l, NoEvent (exec (.sensorSupplyShort (n, l)) s) s) ∧
    (on = true → (Accepts (exec (.sensorSupplyShort (n, false)) s) fun t => t.bit F.PWR_SENS_STAT.on 0 n = true ∧
        t.bit F.PWR_SENS_STAT.ilim 0 n = false ∧ t.sens n = (0, 0) ∧ only s t [.PWR_SENS_STAT]) ∧
      ((s.sens n).1 ≠ 1 → Accepts (exec (.sensorSupplyShort (n, true)) s) fun t => t.bit F.PWR_SENS_STAT.on 0 n = true ∧
        t.bit F.PWR_SENS_STAT.ilim 0 n = true ∧ t.sens n = (1, s.clk.raw) ∧ only s t [.PWR_SENS_STAT]) ∧
      ((s.sens n).1 = 1 →
        let u := s.run ((s.sens n).2 + 1000000 - s.clk.raw)
        Accepts (exec (.sensorSupplyShort (n, true)) s) fun t => t.bit F.PWR_SENS_STAT.on 0 n = false ∧ t.bit F.PWR_SENS_STAT.ilim 0 n = false ∧
          t.bit F.PWR_SENS_STAT.short 0 n = true ∧ t.f F.PWR_SENS_STAT.short_cnt 0 n = min (u.f F.PWR_SENS_STAT.short_cnt 0 n + 1) 0xFFFF ∧
          t.sens n = (2, u.clk.raw) ∧ only u t [.PWR_SENS_STAT])) ∧
    (let again := en && s.bit F.PWR_SENS_CTL.auto_retry 0 n && (s.sens n).1 == 2
      let u := s.run ((s.sens n).2 + 100000000 - s.clk.raw)
      (again = true → u.sensPower = true → Accepts (exec (.sensorSupplyRetry n) s) fun t =>
        t.bit F.PWR_SENS_STAT.on 0 n = true ∧ only u t [.PWR_SENS_STAT]) ∧
      (again = true → u.sensPower = false → NoEvent (exec (.sensorSupplyRetry n) s) u) ∧
      (again = false → NoEvent (exec (.sensorSupplyRetry n) s) s)) ∧
    (Accepts (exec (.sensorReverseBlock n) s) fun t => t.bit F.PWR_SENS_STAT.ext 0 n = true ∧ only s t [.PWR_SENS_STAT]) ∧
    (on = true → Accepts (exec (.sensorUndervoltage n) s) fun t => t.bit F.PWR_SENS_STAT.uv 0 n = true ∧ only s t [.PWR_SENS_STAT]) ∧
    (on = false → NoEvent (exec (.sensorUndervoltage n) s) s)) ∧
  (∀ (p : PackIx) (s : State),
    let todo := (s.emu p).todo
    let u := s.run ((s.emu p).next - s.clk.raw)
    let n := 4 * (u.f F.POS_EMU_CFG.lines_m1 p + 1)
    let pos := u.f F.POS_EMU_POS.state p
    let moved (u t : State) : Prop := KeepsRegs u t [.POS_EMU_POS, .POS_EMU_STAT] ∧ t = { u with regs := t.regs, emus := t.emus, resp := t.resp }
    (s.bit F.PWM_STATUS.clk_ok p = false ∨ todo = 0 → NoEvent (exec (.emulatorEdge p) s) s) ∧
    (s.bit F.PWM_STATUS.clk_ok p = true → todo ≠ 0 → (u.emu p).todo = todo → pos < n →
      (0 < todo → Accepts (exec (.emulatorEdge p) s) fun t => t.f F.POS_EMU_POS.state p = (pos + 1) % n ∧ (t.emu p).todo = todo - 1 ∧ moved u t) ∧
      (todo < 0 → Accepts (exec (.emulatorEdge p) s) fun t => t.f F.POS_EMU_POS.state p = (pos + n - 1) % n ∧ (t.emu p).todo = todo + 1 ∧ moved u t)) ∧
    (∀ m : Master, (s.req m).admits (s.owner (.pack p)) = true → Accepts (exec (.resync m p) s) fun t =>
      t.f F.POS_EMU_POS.state p = (s.emu p).src % 2 ^ F.POS_EMU_POS.state.w ∧ (t.emu p).todo = 0 ∧ t.f F.POS_EMU_STAT.backlog p = 0 ∧ moved s t))

/-! ### Loop engine -/

/-- The operations on vector registers, accumulators and staged stores. -/
def Obligations.EngineRegisterOperationsComplete : Prop :=
  ∀ (p : PackIx) (d a b c : VReg) (s : State),
    let k := s.eng p
    let x := s.runAxis p
    let two (g : Word → Word → Word) : Eng := k.setVec d fun i => g (k.lane a i) (k.lane b i)
    let acc (n : Fin 4) (g : Word → Nat → Word) : Eng := (List.range 4).foldl (fun q i =>
      { q with acc := q.acc.set 0 (4 * n + i) (clampAcc (q.limits n i).1 (q.limits n i).2 (g (q.acc.get 0 (4 * n + i)) i)) }) k
    let bad (o : Out) : Prop := Accepts o fun t => t.busy p = false ∧ t.axSt p x = 5 ∧ t.bit F.LE_AX_STAT.coef_ecc p x = true ∧
      t.f F.LE_AX_STAT.fault_cause p x = 5 ∧ t.mem = s.mem
    EngOp (.leNop p) s p 1 k ∧
    (∀ (n : Fin 16) (m : Fin 64),
      (k.rep = none → EngOp (.rep p n m) s p 1 { k with rep := some (k.pc + 1, n + 1, m + 1) }) ∧
      (s.runsNext p (some (.rep p n m)) → k.rep ≠ none → RunStopped (exec (.rep p n m) s) s p)) ∧
    (s.axSt p x = 3 ∨ s.axSt p x = 4 → x < 6 →
      (s.busy p = true → 2 ≤ s.ram.leFlips.get 0 (leKey p .LE_PROGMEM k.pc 0) → bad (exec (.leNop p) s)) ∧
      ∀ i : Nat, i < 4 →
        (∀ w : Fin 128, w + i < 128 → s.runsNext p (some (.lk p d w)) →
          2 ≤ s.ram.leFlips.get 0 (leKey p .LE_COEF x (128 * s.f F.LE_GAIT_SEL.cur p x + w + i)) → bad (exec (.lk p d w) s)) ∧
        (∀ w : Fin 64, SMap.get none k.st w = none → s.runsNext p (some (.lst p d w)) →
          2 ≤ s.ram.leFlips.get 0 (leKey p .LE_STATE x (4 * w + i)) → bad (exec (.lst p d w) s))) ∧
    EngOp (.vadd p d a b) s p 2 (two engAdd) ∧ EngOp (.vsub p d a b) s p 2 (two engSub) ∧
    EngOp (.vmul p d a b) s p 2 (two engMul) ∧ EngOp (.vmin p d a b) s p 2 (two engMin) ∧
    EngOp (.vmax p d a b) s p 2 (two engMax) ∧ EngOp (.vdiv p d a b) s p 10 (two engDiv) ∧
    EngOp (.vcmpgt p d a b) s p 1 (two engGt) ∧ EngOp (.vcmpge p d a b) s p 1 (two engGe) ∧
    EngOp (.vfma p d a b c) s p 3 (k.setVec d fun i => engFma (k.lane a i) (k.lane b i) (k.lane c i)) ∧
    EngOp (.vdot p d a b) s p 4 (k.setVec d fun i =>
      if i = 0 then engDot [(k.lane a 0, k.lane b 0), (k.lane a 1, k.lane b 1), (k.lane a 2, k.lane b 2), (k.lane a 3, k.lane b 3)] else 0) ∧
    EngOp (.vclamp p d a b c) s p 2 (k.setVec d fun i =>
      if isNanW (k.lane a i) then ftz (k.lane b i) else engMin (engMax (k.lane a i) (k.lane b i)) (k.lane c i)) ∧
    EngOp (.vsel p d a b c) s p 1 (k.setVec d fun i => if (ftz (k.lane c i)).extractLsb' 0 31 = 0 then k.lane b i else k.lane a i) ∧
    (∀ sel : BitVec 8, EngOp (.vswz p d a sel) s p 1 (k.setVec d fun i => k.lane a (sel.extractLsb' (2 * i) 2).toNat)) ∧
    EngOp (.vabs p d a) s p 1 (k.setVec d fun i => ftz (k.lane a i) &&& 0x7FFFFFFF) ∧
    EngOp (.vneg p d a) s p 1 (k.setVec d fun i => ftz (k.lane a i) ^^^ 0x80000000) ∧
    (∀ (n : VLane) (imm : BitVec 8), EngOp (.vli p d n imm) s p 1 (k.setLane d n (intWord imm.toInt))) ∧
    EngOp (.vrcp p d a) s p 6 (k.setVec d fun i => engDiv 0x3F800000 (k.lane a i)) ∧
    EngOp (.vrsqrt p d a) s p 6 (k.setVec d fun i => engRsqrt (k.lane a i)) ∧
    EngOp (.vsqrt p d a) s p 8 (k.setVec d fun i => engSqrt (k.lane a i)) ∧
    EngOp (.cwrap p d a) s p 1 (k.setVec d fun i => wrapWord (k.lane a i)) ∧
    (∀ n : Fin 4,
      EngOp (.aclr p n) s p 1 ((List.range 4).foldl (fun q i =>
        { q with acc := q.acc.set 0 (4 * n + i) 0, lo := q.lo.set 0xFF800000 (4 * n + i) 0xFF800000,
                 hi := q.hi.set 0x7F800000 (4 * n + i) 0x7F800000 }) k) ∧
      EngOp (.alim p a b n) s p 1 ((List.range 4).foldl (fun q i =>
        { q with lo := q.lo.set 0xFF800000 (4 * n + i) (if ltW (k.lane b i) (k.lane a i) then k.lane b i else k.lane a i),
                 hi := q.hi.set 0x7F800000 (4 * n + i) (k.lane b i) }) k) ∧
      EngOp (.amac p a b n) s p 3 (acc n fun v i => engFma (k.lane a i) (k.lane b i) v) ∧
      EngOp (.aadd p a n) s p 2 (acc n fun v i => engAdd v (k.lane a i)) ∧
      EngOp (.aget p d n) s p 1 (k.setVec d fun i => k.acc.get 0 (4 * n + i))) ∧
    (∀ w : Fin 128, (∀ i : Nat, i < 4 → w + i < 128 →
        s.ram.leFlips.get 0 (leKey p .LE_COEF x (128 * s.f F.LE_GAIT_SEL.cur p x + w + i)) = 0) → EngOp (.lk p d w) s p 2 (k.setVec d fun i =>
      if w + i < 128 then s.rd .LE_COEF p x (128 * s.f F.LE_GAIT_SEL.cur p x + w + i) else 0)) ∧
    (∀ w : Fin 64,
      ((SMap.get none k.st w).isSome ∨ (∀ i : Nat, i < 4 → s.ram.leFlips.get 0 (leKey p .LE_STATE x (4 * w + i)) = 0) → EngOp (.lst p d w) s p 2 (k.setVec d fun i =>
        ((SMap.get none k.st w).map fun vs => vs.getD i 0).getD (s.rd .LE_STATE p x (4 * w + i)))) ∧
      EngOp (.sst p a w) s p 2 { k with st := k.st.set none w (some (k.vec a)) }) ∧
    EngOp (.lmode p d) s p 1 (k.setVec d fun i =>
      [if s.axSt p x = 4 then 0x3F800000 else 0, if k.first then 0x3F800000 else 0, intWord (s.axTicks p x),
       intWord (s.f F.LE_GAIT_SEL.cur p x)].getD i 0) ∧
    (∀ (n : Fin 8) (m : BitVec 4), EngOp (.dout p a n m) s p 2 ((List.range 4).foldl (fun q i =>
      if m.getLsbD i then { q with duty := q.duty.set none (n + i) (some (q.lane a i)) } else q) k)) ∧
    (∀ (n : Fin 8) (l : VLane), EngOp (.mout p a n l) s p 2 { k with mout := k.mout.set none n (some (k.lane a l)) }) ∧
    (∀ ch : Fin 64, EngOp (.evt p ch) s p 2 { k with evts := k.evts ++ [ch.val] })

/-- Inputs of a run, and the CORDIC unit. -/
def Obligations.EngineInputsAndCordic : Prop :=
  ∀ (p : PackIx) (d a b : VReg) (n : VLane) (sl : Fin 16) (s : State),
    let k := s.eng p
    let x := s.runAxis p
    let slot (i : Nat) : InSlot := SMap.get {} (s.ax p x).slots i
    let since (t : Tag) : Word := ratWord (t - (s.ax p x).bk).toInt 16
    let recOf (i : Nat) : JRec := { ty := 8, pos := x, a := BitVec.ofNat 32 i, x := (slot i).pv, y := BitVec.ofNat 32 (slot i).pw, tag := (slot i).ptag }
    let new (i : Nat) : List Nat := if i ∈ k.read then [] else [i]
    let k1 : Eng := { k with read := new sl ++ k.read }
    let js : List JRec := (new sl).map recOf
    let free (i : Instr) (st : Nat) (P : Eng → Prop) : Prop :=
      let o := exec i s
      (s.busy p = false → NoEvent o s) ∧
      (s.runsNext p (some i) → s.opFits p st k → Accepts o fun t => (∃ q, P q ∧ t.eng p = { q.advance with steps := k.steps + st }) ∧
        (∀ r, r ≠ p.val → t.eng r = s.eng r) ∧ t = { s with engs := t.engs, free := t.free, resp := t.resp }) ∧
      (s.runsNext p (some i) → ¬ s.opFits p st k → RunStopped o s p)
    let lanes (w : List Word) : Eng := k.setVec d fun i => w.getD i 0
    EngOp (.lin p d n sl) s p 2 (k1.setLane d n (slot sl).pv) js ∧
    (let ns := ((List.range 4).map (sl.val + ·)).filter fun i => decide (i < 16) && !k.read.contains i
     EngOp (.lin4 p d sl) s p 3 (({ k with read := ns.reverse ++ k.read }).setVec d fun i => if sl + i < 16 then (slot (sl + i)).pv else 0)
       (ns.map recOf)) ∧
    EngOp (.lflg p d n sl) s p 1 (k1.setLane d n (intWord (slot sl).pw)) js ∧
    EngOp (.ltg p d n sl) s p 2 (k1.setLane d n (since (slot sl).ptag)) js ∧
    (∀ e : Fin 4,
      ((slot sl).fifo[e.val]? = none → EngOp (.lrs p d sl e) s p 3 (k.setVec d fun _ => 0)) ∧
      (∀ smp info t, (slot sl).fifo[e.val]? = some (smp, info, t) →
        let code (f : Fld) : Word := ratWord (BitVec.ofNat 16 (f.get smp)).toInt 32768
        let m := 16 + 4 * sl.val + e.val
        EngOp (.lrs p d sl e) s p 3 (({ k with read := new m ++ k.read }).setVec d fun i =>
          [code F.RSV_SMP.sin, code F.RSV_SMP.cos, if info.getLsbD 0 then 0xBF800000 else 0x3F800000, since t].getD i 0)
          ((new m).map fun m => { ty := 8, pos := x, a := BitVec.ofNat 32 m, x := smp, y := info, tag := t }))) ∧
    (let m := 80 + n.val
     EngOp (.lsp p d n n) s p 2 (({ k with read := new m ++ k.read }).setLane d n (s.rd .LE_RAMP_V p x n))
       ((new m).map fun m => { ty := 8, pos := x, a := BitVec.ofNat 32 m, x := s.rd .LE_RAMP_V p x n, y := 0, tag := s.now })) ∧
    free (.csc p d a) 8 (fun q => match turn64 (k.lane a 0) with
      | none => q = lanes [qnan, qnan, 0, 0]
      | some f => ∃ u v, q = lanes [nearOr u (cosSin f).1, nearOr v (cosSin f).2, 0, 0]) ∧
    free (.crot p d a b) 8 (fun q => ∃ w0 w1 w2 w3,
      let u := rotated (k.lane a 0) (k.lane a 1) (k.lane b 0) w0 w1
      let v := rotated (k.lane a 2) (k.lane a 3) (k.lane b 1) w2 w3
      q = lanes [u.1, u.2, v.1, v.2]) ∧
    free (.cvec p d a) 9 (fun q =>
      match fval (ftz (k.lane a 0)), fval (ftz (k.lane a 1)) with
      | .fin sx mx ex, .fin sy my ey =>
        let e := min ex ey
        let u := scaled sx mx ex e
        let v := scaled sy my ey e
        if mx = 0 ∧ my = 0 then q = lanes [0, 0, 0, 0]
        else ∃ w g, q = lanes [magWord w u v e,
          let r := nearOr g (angleRef u v)
          if ltW r 0 || leW 0x3F800000 r then fxWord (min (angleRef u v) (2 ^ 62 - 2 ^ 38)) else r, 0, 0]
      | vx, vy => if vx.isNan || vy.isNan then q = lanes [qnan, qnan, 0, 0] else ∃ g : Nat, g < 2 ^ 24 ∧ q = lanes [0x7F800000, ratWord g (2 ^ 24), 0, 0]) ∧
    free (.eout p a) 2 (fun q => match floorOf (k.lane a 0) with
      | some (_, m, e) => q = { k with eout := some (m * 2 ^ 32 / 2 ^ (-e).toNat) }
      | none => ∃ w : Word, q = { k with eout := some w.toNat })

/-- Ready, start, stop, release and the release limit; `u` is the state at an event's instant. -/
def Obligations.RunsStartReleaseAndStop : Prop :=
  ∀ (p : PackIx) (s : State),
    let k := s.eng p
    let limitPast (s : State) (a : Nat) : Bool := (s.ax p a).lim || decide ((s.ax p a).bkRaw + s.axTicks p a - 62 < s.clk.raw)
    (∀ a : AxisIx,
      let u := s.run ((s.ax p a).bkRaw + min (s.f F.LE_AX_RDY.rdy p a) (s.axTicks p a - 1) - s.clk.raw)
      let can := u.axRuns p a && (u.ax p a).ready.isNone && !(u.ax p a).ran && !limitPast u a
      (can = false → NoEvent (exec (.runReadyDeadline p a) s) u) ∧
      (can = true → Accepts (exec (.runReadyDeadline p a) s) fun t =>
        t.ax p a = { u.ax p a with ready := some u.now, recov := (u.ax p a).recov || u.recovering p } ∧ t = { u with axs := t.axs, resp := t.resp })) ∧
    (s.busy p = true ∨ (∀ a < 6, s.axRuns p a = false ∨ (s.ax p a).ready = none ∨ limitPast s a = true) → NoEvent (exec (.runStart p) s) s) ∧
    (∀ (a : AxisIx) (g : Tag), s.busy p = false → s.axRuns p a = true → (s.ax p a).ready = some g → limitPast s a = false →
      (∀ b < 6, ∀ h, b ≠ a.val → s.axRuns p b = true → (s.ax p b).ready = some h → limitPast s b = false → if b < a then Tag.before g h = true else Tag.before h g = false) →
      let fc := (List.range 16).any fun i => (s.policy p a i).2.1
      (8 < s.f F.LE_AX_STEPS.steps p a → fc = false → Accepts (exec (.runStart p) s) fun t =>
        t.busy p = true ∧ t.runAxis p = a ∧ t.eng p = { pc := s.entryOf p a, steps := 8, first := (s.ax p a).first } ∧
        (t.ax p a).ready = none ∧ (t.ax p a).ran = true ∧ (t.ax p a).first = false ∧ (t.ax p a).fltRuns = 0 ∧
        (∀ i < 16, SMap.get {} (t.ax p a).slots i = (s.policy p a i).1) ∧ (∀ n < 4, t.rd .LE_RAMP_V p a n = (s.rampNext p a n).1) ∧
        KeepsRegs s t [.LE_STATUS, .LE_AX_STAT, .LE_RAMP_V, .LE_RAMP_SRC] ∧
        t = { s with regs := t.regs, axs := t.axs, engs := t.engs, resp := t.resp }) ∧
      (8 < s.f F.LE_AX_STEPS.steps p a → fc = true → Accepts (exec (.runStart p) s) fun t =>
        (t.ax p a).fltRuns = min ((s.ax p a).fltRuns + 1) 15 ∧
        ((s.ax p a).fltRuns < s.f F.LE_AX_POL.flt_n p a → s.f F.LE_AX_POL.flt_n p a ≤ (s.ax p a).fltRuns + 1 →
          t.bit F.LE_AX_STAT.in_flt p a = true)) ∧
      (s.f F.LE_AX_STEPS.steps p a ≤ 8 → Accepts (exec (.runStart p) s) fun t => t.busy p = false ∧ t.bit F.LE_AX_STAT.prog_err p a = true)) ∧
    (s.busy p = false → NoEvent (exec (.runStop p) s) s ∧ NoEvent (exec (.leEnd p) s) s) ∧
    (s.runsNext p none → RunStopped (exec (.runStop p) s) s p) ∧
    (s.runsNext p (some (.leEnd p)) → k.rep ≠ none → RunStopped (exec (.leEnd p) s) s p) ∧
    (s.runsNext p (some (.leEnd p)) → k.rep = none → s.axRuns p (s.runAxis p) = true → limitPast s (s.runAxis p) = true → (s.ax p (s.runAxis p)).lim = false →
      (s.ax p (s.runAxis p)).done = false → Accepts (exec (.leEnd p) s) fun t => t.busy p = false ∧ t.bit F.LE_AX_STAT.late p (s.runAxis p) = true ∧
        t.mem = s.mem ∧ ∀ r ∈ ([.PWM_DUTY, .LE_MOUT, .LE_STATE] : List RegName), ∀ q i j, t.rd r q i j = s.rd r q i j) ∧
    (s.runsNext p (some (.leEnd p)) → k.rep = none → (s.axRuns p (s.runAxis p) && limitPast s (s.runAxis p)) = false → SMap.wf (fun _ => none) k.mout = true → SMap.wf (fun _ => none) k.st = true → SMap.wf (fun _ => none) k.duty = true →
      let a := s.runAxis p
      Accepts (exec (.leEnd p) s) fun t => t.busy p = false ∧ t.f F.LE_STATUS.cur p = 7 ∧ (t.ax p a).done = true ∧
        t.f F.LE_AX_STAT.late_run p a = 0 ∧ t.mem = s.mem ∧
        (∀ n, t.rd .LE_MOUT p a n = (SMap.get none k.mout n).getD (s.rd .LE_MOUT p a n)) ∧
        (∀ w i, i < 4 → t.rd .LE_STATE p a (4 * w + i) = ((SMap.get none k.st w).map fun vs => vs.getD i 0).getD (s.rd .LE_STATE p a (4 * w + i))) ∧
        (∀ x j l v, s.setOfAxis p a = some x → (s.legsOf p x)[j]? = some l → SMap.get none k.duty j = some v →
          (s.f F.PWM_SET_CTL.mode p x = 2 → t.rd .PWM_DUTY p l = s.rd .PWM_DUTY p l ∧ t.bit F.PWM_SET_STAT.dout_ign p x = true) ∧
          (s.f F.PWM_SET_CTL.mode p x ≠ 2 → isNanW v = true → t.rd .PWM_DUTY p l = s.rd .PWM_DUTY p l ∧ t.bit F.LE_AX_STAT.dnan p a = true) ∧
          (s.f F.PWM_SET_CTL.mode p x ≠ 2 → isNanW v = false → t.rd .PWM_DUTY p l = (clampDuty v).1)) ∧
        (∀ l, (∀ x j, s.setOfAxis p a = some x → (s.legsOf p x)[j]? = some l → SMap.get none k.duty j = none) →
          t.rd .PWM_DUTY p l = s.rd .PWM_DUTY p l) ∧
        (∀ ch ∈ k.evts, ch < 64 → s.lf F.PLSH_PROD.pkind (64 * p + ch) = 3 → s.lf F.PLSH_PROD.pidx (64 * p + ch) = a →
          s.lf F.PLSH_ATTR.en (64 * p + ch) ≠ 0 → t.lsh.flight.get [] (64 * p + ch) =
            (k.evts.filter (· == ch)).foldl (fun l _ => putEv ⟨0, s.now, 0⟩ l) (s.lsh.flight.get [] (64 * p + ch)))) ∧
    (∀ a : AxisIx,
      (s.axRuns p a = false ∨ (s.ax p a).lim = true → NoEvent (exec (.releaseLimit p a) s) s) ∧
      (s.axRuns p a = true → (s.ax p a).lim = false →
        let u := s.run ((s.ax p a).bkRaw + s.axTicks p a - 62 - s.clk.raw)
        u.axRuns p a = true → (u.ax p a).lim = false →
        ((u.ax p a).done = true → Accepts (exec (.releaseLimit p a) s) fun t =>
          t.ax p a = { u.ax p a with lim := true, ready := none, recov := false } ∧ t = { u with axs := t.axs, resp := t.resp }) ∧
        ((u.ax p a).done = false → Accepts (exec (.releaseLimit p a) s) fun t =>
          t.bit F.LE_AX_STAT.late p a = true ∧
          t.f F.LE_AX_STAT.late_cause p a = (if (u.ax p a).recov then 3 else if (u.ax p a).ran then 1 else 2) ∧
          t.f F.LE_AX_CNT.late_cnt p a = min (u.f F.LE_AX_CNT.late_cnt p a + 1) 0xFFFF ∧
          t.f F.LE_AX_STAT.late_run p a = min (u.f F.LE_AX_STAT.late_run p a + 1) 15 ∧
          t.pairAt .LE_AX_LTAG_LO .LE_AX_LTAG_HI p a = (u.ax p a).bk + u.tickUnits (u.axTicks p a) ∧
          (u.busy p = true → u.runAxis p = a → t.busy p = false) ∧ (t.ax p a).ready = none ∧
          t.mem = s.mem ∧ ∀ r ∈ ([.PWM_DUTY, .LE_MOUT, .LE_STATE] : List RegName), ∀ q i j, t.rd r q i j = u.rd r q i j)))

/-- ARM, OPEN, CLOSE, DISARM, GAIT_FORCE and COEFFICIENT_WRITE. -/
def Obligations.AxisCommandsComplete : Prop :=
  ∀ (m : Master) (p : PackIx) (a : AxisIx) (s : State), (s.req m).admits (s.axOwner p a) = true →
    let st := s.axSt p a
    let pend := s.f F.LE_AX_STAT.pend p a
    let late := match s.setOfAxis p a with
      | some x => s.afterCutoff p x
      | none => false
    let pends (o : Out) (c : Nat) : Prop := Accepts o fun t => t.f F.LE_AX_STAT.pend p a = c ∧ t.axSt p a = st ∧
      (t.ax p a).late = (late && !(c == 1 && st == 6)) ∧
      (pend ≠ 0 → t.bit F.LE_AX_STAT.cmd_repl p a = true) ∧ KeepsRegs s t [.LE_AX_STAT, .PWM_LEGSTAT] ∧
      t = { s with regs := t.regs, axs := t.axs, resp := t.resp }
    let refused (o : Out) : Prop := ∃ t, o = .next t ∧ t.resp.err = true ∧ t.bit F.LE_AX_STAT.cmd_rej p a = true ∧ t.axSt p a = st ∧
      t.f F.LE_AX_STAT.pend p a = pend ∧ KeepsRegs s t [.LE_AX_STAT, .PWM_SET_STAT] ∧ t = { s with regs := t.regs, resp := t.resp }
    let tripped := match s.setOfAxis p a with
      | some x => s.bit F.MUZ_SET_STAT.tripped p x
      | none => false
    let bad := s.armBad p a
    (st = 1 ∨ st = 6 → if bad then refused (exec (.arm m p a) s) else pends (exec (.arm m p a) s) 1) ∧
    (st = 5 → (bad || tripped) = true → refused (exec (.arm m p a) s)) ∧
    (st = 5 → (bad || tripped) = false → Accepts (exec (.arm m p a) s) fun t => t.axSt p a = 6 ∧ t.f F.LE_AX_STAT.pend p a = 1 ∧ t.mem = s.mem) ∧
    (st ≠ 1 → st ≠ 5 → st ≠ 6 → refused (exec (.arm m p a) s)) ∧
    (if st = 2 ∨ st = 4 then pends (exec (.axisOpen m p a) s) 2 else refused (exec (.axisOpen m p a) s)) ∧
    (if st = 3 then pends (exec (.axisClose m p a) s) 3 else refused (exec (.axisClose m p a) s)) ∧
    (if st = 2 ∨ st = 3 ∨ st = 4 then pends (exec (.disarm m p a) s) 4
     else if st = 5 then Accepts (exec (.disarm m p a) s) fun t => t.axSt p a = 6 ∧ t.mem = s.mem
     else refused (exec (.disarm m p a) s)) ∧
    (∀ (en : Bool) (g : Fin 8), Accepts (exec (.gaitForce m p a en g) s) fun t =>
      t.bit F.LE_GAIT_SEL.force_en p a = en ∧ t.f F.LE_GAIT_SEL.force p a = min g.val (s.f F.LE_GAIT_CFG.n_gait_m1 p a) ∧
      t.f F.LE_GAIT_SEL.cur p a = s.f F.LE_GAIT_SEL.cur p a ∧ t.f F.LE_GAIT_SEL.cand p a = s.f F.LE_GAIT_SEL.cand p a ∧
      (s.f F.LE_GAIT_CFG.n_gait_m1 p a < g → t.bit F.LE_AX_STAT.cfg_clamp p a = true) ∧
      KeepsRegs s t [.LE_GAIT_SEL, .LE_AX_STAT] ∧ t = { s with regs := t.regs, axs := t.axs, resp := t.resp }) ∧
    (∀ (g : Fin 8) (w : Fin 128) (v : Word), let run := s.busy p && s.runAxis p == a.val && g.val == s.f F.LE_GAIT_SEL.cur p a
      (s.loopLocked p a = false → run = false → Accepts (exec (.coefficientWrite m p a g w v) s) fun t =>
        t.rd .LE_COEF p a (128 * g.val + w.val) = v ∧ (∀ j : Nat, j ≠ 128 * g.val + w.val → t.rd .LE_COEF p a j = s.rd .LE_COEF p a j) ∧ KeepsRegs s t [.LE_COEF] ∧
        t = { s with regs := t.regs, ram := { s.ram with leFlips := t.ram.leFlips }, resp := t.resp }) ∧
      (s.loopLocked p a = false → run = true → Accepts (exec (.coefficientWrite m p a g w v) s) fun t =>
        (t.ax p a).coef = (s.ax p a).coef ++ [(128 * g.val + w.val, v)] ∧ t = { s with axs := t.axs, resp := t.resp }) ∧
      (s.loopLocked p a = true → ∃ t, exec (.coefficientWrite m p a g w v) s = .next t ∧ t.resp.err = true ∧ KeepsRegs s t lossRegs ∧
        t = { s with regs := t.regs, log := t.log, resp := t.resp }))

/-! ### Pulse-width modulation -/

/-- The generator of a leg; `u` is the state at an event's instant. -/
def Obligations.GeneratorCommandsComplete : Prop :=
  ∀ (p : PackIx) (l : LegIx) (s : State),
    let k := s.pleg p l
    let regsOnly (u t : State) (rs : List RegName) : Prop := KeepsRegs u t rs ∧ (∀ j : Nat, j ≠ l → t.pleg p j = u.pleg p j) ∧
      t = { u with regs := t.regs, plegs := t.plegs, resp := t.resp }
    let runs := match s.setOfLeg p l with
      | some x => s.bit F.PWM_SET_STAT.cnt_run p x && !(s.pset p x).restart && s.bit F.PWM_STATUS.clk_ok p
      | none => false
    (runs = false → NoEvent (exec (.carrierStart p l) s) s ∧ (∀ high, NoEvent (exec (.pwmEdge p l high) s) s) ∧
      NoEvent (exec (.peakThresholdStep p l) s) s) ∧
    (∀ x, s.setOfLeg p l = some x → runs = true →
      (s.nextCarrier p x l = none → NoEvent (exec (.carrierStart p l) s) s) ∧
      (∀ cs, s.nextCarrier p x l = some cs →
        let u := s.run (cs / 16 - s.clk.raw)
        let k := u.pleg p l
        let mode := u.f F.PWM_SET_CTL.mode p x
        let gen := decide (u.legLevel p l = 6)
        let w := k.highTime mode
        let c16 := 16 * (u.pset p x).car
        let dr := 16 * u.f F.PWM_LEGCTL.dt_rise p l
        let df := 16 * u.f F.PWM_LEGCTL.dt_fall p l
        let m := max (16 * u.f F.PWM_LEGMIN.min_pulse p l) 1
        let rise := if mode = 2 then k.tR else if mode = 1 then c16 / 2 - w / 2 else 0
        let tight := match k.span with
          | some n => decide (n + (if c16 < w + df + m then 0 else rise) < df + m)
          | none => false
        let count (on : Bool) (t : State) : Prop := t.f F.PWM_SET_CNT.drop_cnt p x =
          if on then min (u.f F.PWM_SET_CNT.drop_cnt p x + 1) 0xFFFF else u.f F.PWM_SET_CNT.drop_cnt p x
        let active (t : State) : Prop := t.f F.PWM_LEGW.w p l = w % 2 ^ 28 ∧ (t.pleg p l).d = k.tD ∧ (t.pleg p l).cr = k.tR ∧ (t.pleg p l).cf = k.tF ∧
          (t.pleg p l).cs = cs ∧ (t.pleg p l).j = k.j + 1 ∧ (t.pleg p l).span = none ∧ Guarded u t p l
        let began (g : Bool × Bool × Bool) (hi lo : Bool) : Prop := Accepts (exec (.carrierStart p l) s) fun t => active t ∧
          (g.1 = false → ((t.pleg p l).edges, (t.pleg p l).genH, (t.pleg p l).genL) = (false, g.2)) ∧
          (g.1 = true → ((t.pleg p l).edges, (t.pleg p l).genH, (t.pleg p l).genL) = (true, rise == 0, rise != 0)) ∧
          (gen && hi → t.bit F.PWM_LEGSTAT.drop_hi p l = true) ∧ (gen && lo → t.bit F.PWM_LEGSTAT.drop_lo p l = true) ∧
          ((gen && hi) = false → t.bit F.PWM_LEGSTAT.drop_hi p l = u.bit F.PWM_LEGSTAT.drop_hi p l) ∧
          ((gen && lo) = false → t.bit F.PWM_LEGSTAT.drop_lo p l = u.bit F.PWM_LEGSTAT.drop_lo p l) ∧
          count (gen && (hi || lo)) t ∧
          (w ≠ 0 → dr + m ≤ w → t.bit F.PWM_LEGSTAT.short p l = (u.bit F.PWM_LEGSTAT.short p l || tight) ∧
            t.bit F.PWM_SET_STAT.short p x = (u.bit F.PWM_SET_STAT.short p x || tight)) ∧
          regsOnly u t [.PWM_LEGW, .PWM_LEGSTAT, .PWM_SET_STAT, .PWM_SET_CNT]
        (mode ≠ 3 → w = 0 → began (false, false, true) false false) ∧
        (mode ≠ 3 → 0 < w → w < dr + m → began (false, false, true) true false) ∧
        (mode ≠ 3 → 0 < w → dr + m ≤ w → w + df + m ≤ c16 → began (true, false, true) false false) ∧
        (mode ≠ 3 → dr + m ≤ w → c16 < w + df + m → w < c16 → began (false, true, false) false true) ∧
        (mode ≠ 3 → dr + m ≤ w → c16 ≤ w → began (false, true, false) false false) ∧
        (mode = 3 → let c := dutyScale k.tD 1023
          Accepts (exec (.carrierStart p l) s) fun t => active t ∧ (t.pleg p l).thr = c ∧ (t.pleg p l).thrN = 0 ∧
            (u.bit F.CMP_STAT.out_u p (u.f F.PWM_LEGPCM.cmp p l) = false ∨ c = 0 →
              (t.pleg p l).genH = decide (c ≠ 0) ∧ (t.pleg p l).genL = decide (c = 0)) ∧
            regsOnly u t [.PWM_LEGW, .PWM_LEGSTAT, .PWM_SET_STAT, .PWM_SET_CNT])) ∧
      (∀ high : Bool,
        (k.edges = false ∨ k.ended = true ∨ k.genH = high → NoEvent (exec (.pwmEdge p l high) s) s) ∧
        (k.edges = true → k.ended = false → k.genH ≠ high →
          let u := s.run ((k.cs + k.edgeAt (s.f F.PWM_SET_CTL.mode p x) (s.f F.PWM_LEGW.w p l) high) / 16 - s.clk.raw)
          let mode := u.f F.PWM_SET_CTL.mode p x
          let gen := decide (u.legLevel p l = 6)
          let c16 := (u.pleg p l).c16
          Accepts (exec (.pwmEdge p l high) s) fun t =>
            (mode ≠ 3 ∨ high = false → (t.pleg p l).genH = high ∧ (t.pleg p l).genL = (!high)) ∧
            (mode = 3 → gen = true → t.bit F.PWM_LEGSTAT.maxd p l = true ∧ t.bit F.PWM_SET_STAT.maxd p x = true) ∧
            (gen = true → high = false → mode = 1 ∨ mode = 2 → (t.pleg p l).span = some (c16 -
              if mode = 2 then (u.pleg p l).cf else c16 / 2 - u.f F.PWM_LEGW.w p l / 2 + u.f F.PWM_LEGW.w p l)) ∧
            (gen = false ∨ high = true ∨ (mode ≠ 1 ∧ mode ≠ 2) → (t.pleg p l).span = none) ∧
            Guarded u t p l ∧ regsOnly u t [.PWM_LEGSTAT, .PWM_SET_STAT, .PWM_SET_CNT])) ∧
      (s.f F.PWM_SET_CTL.mode p x ≠ 3 ∨ k.edges = false → NoEvent (exec (.peakThresholdStep p l) s) s) ∧
      (s.f F.PWM_SET_CTL.mode p x = 3 → k.edges = true →
        let u := s.run (k.cs / 16 + k.thrN + 4 - s.clk.raw)
        let q := u.pleg p l
        Accepts (exec (.peakThresholdStep p l) s) fun t =>
          t.pleg p l = { q with thrN := q.thrN + 4, thr := dutyScale q.d 1023 - u.f F.PWM_LEGPCM.slope p l * (q.thrN + 4) / 256 } ∧ regsOnly u t [])) ∧
    (k.blank = false → NoEvent (exec (.blankingEnd p l) s) s) ∧
    (k.blank = true →
      let u := s.run (k.blankTo - s.clk.raw)
      (u.pleg p l).blank = true → (u.pcmHit p l = true → Accepts (exec (.blankingEnd p l) s) fun t =>
        (t.pleg p l).genH = false ∧ (t.pleg p l).ended = true ∧
        (∀ x, u.setOfLeg p l = some x → u.legLevel p l = 6 → t.bit F.PWM_LEGSTAT.term p l = true ∧ t.bit F.PWM_SET_STAT.term p x = true ∧
          t.f F.PWM_SET_CNT.term_cnt p x = min (u.f F.PWM_SET_CNT.term_cnt p x + 1) 0xFFFF) ∧
        Guarded u t p l ∧ regsOnly u t [.PWM_LEGSTAT, .PWM_SET_STAT, .PWM_SET_CNT]) ∧
      (u.pcmHit p l = false → Accepts (exec (.blankingEnd p l) s) fun t => t.pleg p l = { u.pleg p l with blank := false } ∧ regsOnly u t [])) ∧
    (k.pendOn = none → NoEvent (exec (.deadTimeExpiry p l) s) s) ∧
    (∀ high, k.pendOn = some high →
      let u := s.run (s.deadDue p l high - s.clk.raw)
      Accepts (exec (.deadTimeExpiry p l) s) fun t => Guarded u t p l ∧ regsOnly u t [.PWM_LEGSTAT, .PWM_SET_STAT, .PWM_SET_CNT] ∧
        (u.asks p l high = true → u.asks p l (!high) = false → u.out p l high = false → u.out p l (!high) = false → u.deadDue p l high ≤ u.clk.raw →
          u.tripNow p l = false → u.bit F.CMP_STAT.out_u p (u.f F.PWM_LEGPCM.cmp p l) = false →
          t.out p l high = true ∧ (t.pleg p l).pendOn = none ∧ (t.pleg p l).blank = decide (u.f F.PWM_LEGMIN.blank p l ≠ 0)))

/-- Commands and events of phase sets and legs but the generator's; `u` is the state at an event's instant. -/
def Obligations.SetAndLegCommandsComplete : Prop :=
  ∀ (p : PackIx) (s : State),
    let trl (t : State) (l : Nat) : Prop := ∃ y : SetIx, s.member p y l = true ∧ t.bit F.MUZ_SET_STAT.tripped p y = true
    (∀ x : SetIx,
      let tr (t : State) : Prop := t.bit F.MUZ_SET_STAT.tripped p x = true
      let applied (u : State) (st : Nat) (t : State) : Prop :=
        let ptr := u.f F.PWM_MASK_PTR.ptr p x
        let n := u.f F.PWM_MASK_CTL.n_ent_m1 p x
        t.f F.PWM_MASK_PTR.ptr p x = (if u.bit F.PWM_MASK_CTL.smode p x then 8 * u.f F.PWM_MASK_PTR.bank p x + st
          else if u.bit F.PWM_MASK_PTR.dir p x then (if ptr = 0 ∨ n < ptr then n else ptr - 1) else if n ≤ ptr then 0 else ptr + 1) ∧
        t.f F.PWM_MASK_PTR.state p x = st % 8 ∧
        t.f F.PWM_MASK_PTR.step_cnt p x = min (u.f F.PWM_MASK_PTR.step_cnt p x + 1) 0xFFFF ∧ (t.pset p x).maskWait = none ∧
        (∀ l ∈ u.legsOf p x, Guarded u t p l) ∧ KeepsRegs u t [.PWM_MASK_PTR, .PWM_LEGSTAT, .PWM_SET_STAT, .PWM_SET_CNT] ∧
        t = { u with regs := t.regs, psets := t.psets, plegs := t.plegs, resp := t.resp }
      let clk := s.bit F.PWM_STATUS.clk_ok p
      (∀ m : Master, (s.req m).admits (s.pwmSetOwner p x) = true →
        (s.afterCutoff p x = true → Accepts (exec (.loadGo m p x) s) fun t => t.pset p x = { s.pset p x with goLate := true } ∧
          t = { s with psets := t.psets, resp := t.resp }) ∧
        (s.afterCutoff p x = false → Accepts (exec (.loadGo m p x) s) fun t => t.pset p x = { s.pset p x with go := true } ∧
          t.bit F.PWM_SET_STAT.ld_wait p x = false ∧ KeepsRegs s t [.PWM_SET_STAT] ∧ t = { s with regs := t.regs, psets := t.psets, resp := t.resp }) ∧
        ((s.axisOfSet p x).isSome = true → TurnedAway (exec (.setEnable m p x) s) s ∧ TurnedAway (exec (.setDisable m p x) s) s) ∧
        (s.axisOfSet p x = none →
          (s.tooTight p x = true → ∃ t, exec (.setEnable m p x) s = .next t ∧ t.resp.err = true ∧ t.bit F.PWM_SET_STAT.cfg_err p x = true ∧
            KeepsRegs s t [.PWM_SET_STAT] ∧ t = { s with regs := t.regs, resp := t.resp }) ∧
          (s.tooTight p x = false → s.bit F.PWM_SET_STAT.seq p x = false → (∀ l ∈ s.legsOf p x, s.legSeq p l = false ∧ (s.pleg p l).seqOwn = false) →
            Accepts (exec (.setEnable m p x) s) fun t => t.mem = s.mem ∧
              (tr t ∨ t.bit F.PWM_SET_RUN.en p x = true) ∧ ∀ l ∈ s.legsOf p x, t.bit F.PWM_LEGSTAT.en p l = true ∨ trl t l) ∧
          (s.tooTight p x = false → s.bit F.PWM_SET_STAT.seq p x = true ∨ (∃ l ∈ s.legsOf p x, (s.pleg p l).seqOwn = true) →
            Accepts (exec (.setEnable m p x) s) fun t => t.mem = s.mem ∧ t.bit F.PWM_SET_RUN.en_pend p x = true ∧
              t.bit F.PWM_SET_RUN.en p x = s.bit F.PWM_SET_RUN.en p x ∧
              ∀ l ∈ s.legsOf p x, t.bit F.PWM_LEGSTAT.en p l = s.bit F.PWM_LEGSTAT.en p l ∧
                (s.bit F.PWM_LEGSTAT.en p l = false → t.bit F.PWM_LEGSTAT.en_pend p l = true)) ∧
          (Accepts (exec (.setDisable m p x) s) fun t => t.bit F.PWM_SET_RUN.en p x = false ∧ t.bit F.PWM_SET_RUN.en_pend p x = false ∧
            (∀ l ∈ s.legsOf p x, t.bit F.PWM_LEGSTAT.en_pend p l = false) ∧
            (s.bit F.PWM_SET_STAT.seq p x = false → t.bit F.PWM_SET_STAT.seq p x = true ∧ (t.pset p x).seqAt = s.clk.raw ∧
              ∀ l ∈ s.legsOf p x, t.bit F.PWM_LEGSTAT.en p l = false ∧ t.bit F.PWM_LEGSTAT.seq p l = true) ∧ t.mem = s.mem)) ∧
        (∀ c : BitVec 12,
          (s.setAxSt p x = some 4 → s.img.ctlr = false → ∃ t, exec (.forceWrite m p x c) s = .next t ∧ t.resp.err = true ∧ KeepsRegs s t lossRegs ∧
            t = { s with regs := t.regs, log := t.log, resp := t.resp }) ∧
          (s.setAxSt p x ≠ some 4 → s.img.ctlr = false → Accepts (exec (.forceWrite m p x c) s) fun t =>
            t.tick.f F.PWM_FORCE.code p x = c.toNat ∧ ∃ e, t = { s with soon := s.soon ++ [e], resp := t.resp })) ∧
        (∀ v : Word, s.img.ctlr = false → Accepts (exec (.maskPtrWrite m p x v) s) fun t => t.f F.PWM_MASK_PTR.ptr p x = s.f F.PWM_MASK_PTR.ptr p x ∧
          t.bit F.PWM_MASK_PTR.dir p x = v.getLsbD 4 ∧ t.bit F.PWM_MASK_PTR.bank p x = v.getLsbD 5 ∧ KeepsRegs s t [.PWM_MASK_PTR] ∧
          t.tick.f F.PWM_MASK_PTR.ptr p x = (v.extractLsb' 0 4).toNat ∧ (t.tick.pset p x).maskWait = none ∧
          ∃ e, t = { s with regs := t.regs, soon := s.soon ++ [e], resp := t.resp })) ∧
      (∀ (g : Tag) (st : BitVec 3),
        let due := s.rawOf g + s.f F.PWM_MASK_CTL.dly p x
        (clk = false → NoEvent (exec (.maskEvent p x g st) s) s) ∧
        (clk = true → (s.pset p x).maskWait = none →
          (due < s.clk.raw → Accepts (exec (.maskEvent p x g st) s) fun t => t.bit F.PWM_MASK_PTR.late p x = true ∧ applied s st.toNat t) ∧
          (due = s.clk.raw → Accepts (exec (.maskEvent p x g st) s) (applied s st.toNat)) ∧
          (s.clk.raw < due → Accepts (exec (.maskEvent p x g st) s) fun t =>
            t.pset p x = { s.pset p x with maskWait := some (due, st.toNat) } ∧ t = { s with psets := t.psets, resp := t.resp })) ∧
        (∀ w, clk = true → (s.pset p x).maskWait = some w → s.clk.raw < due →
          Accepts (exec (.maskEvent p x g st) s) fun t => t.bit F.PWM_MASK_PTR.ovr p x = true ∧
            t.f F.PWM_MASK_PTR.state p x = w.2 % 8 ∧ (t.pset p x).maskWait = some (due, st.toNat))) ∧
      (clk = false ∨ (s.pset p x).maskWait = none → NoEvent (exec (.maskEventApply p x) s) s) ∧
      (∀ w, clk = true → (s.pset p x).maskWait = some w → w.2 < 8 →
        Accepts (exec (.maskEventApply p x) s) (applied (s.run (w.1 - s.clk.raw)) w.2)) ∧
      (let seq := s.bit F.PWM_SET_STAT.seq p x && !(s.pset p x).dwellDone
       let u := s.run (s.dwellDue p x (s.pset p x).seqAt - s.clk.raw)
       let own := (u.legsOf p x).any fun l => (u.pleg p l).seqOwn
       (seq = false → NoEvent (exec (.sequenceDwellEnd p (.set x)) s) s) ∧
       (seq = true → own = true → u.bit F.PWM_SET_STAT.seq p x = true → Accepts (exec (.sequenceDwellEnd p (.set x)) s) fun t =>
         t.bit F.PWM_SET_STAT.seq p x = true ∧
         (t.pset p x).dwellDone = true ∧ ∀ l ∈ u.legsOf p x, (u.pleg p l).seqOwn = false → t.bit F.PWM_LEGSTAT.seq p l = false) ∧
       (seq = true → own = false → Accepts (exec (.sequenceDwellEnd p (.set x)) s) fun t =>
         t.bit F.PWM_SET_STAT.seq p x = false ∧ (t.pset p x).dwellDone = false ∧ (∀ l ∈ u.legsOf p x, t.bit F.PWM_LEGSTAT.seq p l = false) ∧
         (∀ a, u.axisOfSet p x = some a → u.axSt p a = 6 → t.axSt p a = 1 ∧ t.f F.LE_AX_STAT.pend p a = u.f F.LE_AX_STAT.pend p a) ∧ t.mem = s.mem))) ∧
    (∀ (m : Master) (mask : BitVec 18),
      let q := s.req m
      let mine (l : LegIx) : Bool := mask.getLsbD l && q.admits (s.legOwner p l)
      let all := (List.finRange 18).all fun l => !mask.getLsbD l || q.admits (s.legOwner p l)
      q.mapped = true →
      (∃ t, exec (.legOn m p mask) s = .next t ∧ t.resp.err = (!all) ∧ t.mem = s.mem ∧
        (∀ l, mine l = true → s.legSeq p l = false → t.bit F.PWM_LEGSTAT.en p l = true ∨ trl t l) ∧
        (∀ l, mine l = true → s.legSeq p l = true → s.bit F.PWM_LEGSTAT.en p l = false →
          t.bit F.PWM_LEGSTAT.en_pend p l = true ∨ trl t l) ∧
        ∀ l, mine l = false → t.bit F.PWM_LEGSTAT.en p l = s.bit F.PWM_LEGSTAT.en p l ∨ trl t l) ∧
      (∃ t, exec (.legOff m p mask) s = .next t ∧ t.resp.err = (!all) ∧ t.mem = s.mem ∧
        (∀ l, mine l = true → t.bit F.PWM_LEGSTAT.en p l = false ∧
          (s.bit F.PWM_LEGSTAT.en p l = true → (s.setOfLeg p l).isSome = true → t.bit F.PWM_LEGSTAT.seq p l = true ∧ (t.pleg p l).seqOwn = true ∧
            (t.pleg p l).seqAt = s.clk.raw) ∧
          (s.bit F.PWM_LEGSTAT.en p l = false → t.bit F.PWM_LEGSTAT.en_pend p l = false)) ∧
        ∀ l, mine l = false → t.bit F.PWM_LEGSTAT.en p l = s.bit F.PWM_LEGSTAT.en p l ∨ trl t l)) ∧
    (∀ l : LegIx,
      ((s.pleg p l).seqOwn = false → NoEvent (exec (.sequenceDwellEnd p (.leg l)) s) s) ∧
      ((s.pleg p l).seqOwn = true → Accepts (exec (.sequenceDwellEnd p (.leg l)) s) fun t => (t.pleg p l).seqOwn = false ∧
        t.bit F.PWM_LEGSTAT.seq p l = false ∧ t.mem = s.mem))

/-- R165: the two outputs of a leg are never on together. -/
def Obligations.OutputsAreNeverOnTogether : Prop :=
  ∀ (s t : State) (m : Master) (p : PackIx) (l : LegIx) (x : SetIx) (b : Bool) (v : Word) (g : Tag) (n : Fin 16)
    (le : Tag × Bool) (lv : List (Tag × Bool)) (ce : Tag × PinClass) (cl : List (Tag × PinClass)),
    s.legsApart →
    ∀ c ∈ ([.carrierStart p l, .pwmEdge p l b, .deadTimeExpiry p l, .blankingEnd p l, .peakThresholdStep p l, .loadGo m p x, .setEnable m p x,
        .setDisable m p x, .legOn m p (v.setWidth 18), .legOff m p (v.setWidth 18), .forceWrite m p x (v.setWidth 12), .maskPtrWrite m p x v,
        .maskEvent p x g (v.setWidth 3), .maskEventApply p x, .sequenceDwellEnd p (.set x), .sequenceDwellEnd p (.leg l), .softwareTrip m p (v.setWidth 6),
        .tripClear m p x, .comparatorLevelChange p n b le lv, .protectionInputChange p l b ce cl, .leEnd p] : List Instr),
      s.tick.legsApart ∧ (exec c s = .next t → t.legsApart)

/-! ### Comparators, muzzle, thermal limits -/

/-- The majority filter of comparator levels and protection inputs. Comparators; `u` is the state at an event's instant. -/
def Obligations.ComparatorsFilterAndTrip : Prop :=
  ((∀ (f : Flt) (m k : Nat) (now : Bool), (k ≤ f.trues m → f.out m k now = true) ∧
    (f.trues m < k → k ≤ m - f.trues m → f.out m k now = false) ∧ (f.trues m < k → m - f.trues m < k → f.out m k now = now)) ∧
  ∀ (m k r0 a r r1 raw : Nat) (out : Bool) (t t1 : Tag) (f : Flt) (tag : Nat → Tag),
    0 < k → k ≤ m → m < 2 * k → m ≤ 16 → f.raw = out → f.fill = out → (∀ e ∈ f.hist, e.1 = out) → f.at_ = r0 + 4 * a →
    f.at_ ≤ raw → raw ≤ r → r ≤ raw + 100 → raw ≤ f.at_ + 100 → f.at_ < r →
    let g : Sampling := { m := m, k := k, next := fun q => if q < r0 then r0 else r0 + 4 * ((q - r0) / 4 + 1), mask := fun _ => false, tagAt := tag }
    (Flt.feed g raw [(r, t, !out)] f out).2.2 = [(r0 + 4 * ((r - r0 + 3) / 4 + k - 1), !out, t)] ∧
    (r ≤ r1 → r1 ≤ r + 4 * (k - 1) → (Flt.feed g raw [(r, t, !out), (r1, t1, out)] f out).2.2 = [])) ∧
  (∀ (p : PackIx) (s : State),
    (∀ n : Fin 16,
      let k := s.cmp p n
      let held (u : State) : Bool := u.bit F.CMP_STAT.dac_fail p n || (u.bit F.CMP_STAT.chk_fail p n && u.bit F.CMP_CHK.act p n)
      let source (u t : State) (x : Nat) (asserts never : Bool) (g : Tag) : Prop :=
        (asserts = true → t.nbit .MUZ_LIVE (x % 32) p (x / 32) = true ∧ (u.nbit .MUZ_LIVE (x % 32) p (x / 32) = false → Tripped u t p x g)) ∧
        (never = true → t.nbit .MUZ_LIVE (x % 32) p (x / 32) = false)
      let sources (u t : State) (hi lo : Bool) (g : Tag) : Prop :=
        let c := t.bit F.CMP_STAT.in_chk p n
        source u t n (((hi && (u.pcmDrivers p n).isEmpty) || held u) && !c) ((!hi && !held u) || c) g ∧
        source u t (16 + n) ((lo || held u) && !c) ((!lo && !held u) || c) g
      (∀ (isU : Bool) (e : Tag × Bool) (more : List (Tag × Bool)),
        let o := exec (.comparatorLevelChange p n isU e more) s
        let rs := (e :: more).map fun e => (s.rawOf e.1, e.1, e.2)
        let r := Flt.feed (s.cmpSampling p n isU) s.clk.raw rs (if isU then k.u else k.l) (s.bit (if isU then F.CMP_STAT.out_u else F.CMP_STAT.out_l) p n)
        let s1 := s.updCmp p n fun k => if isU then { k with u := r.1 } else { k with l := r.1 }
        let ends (v t : State) : Prop := t = { v.runTo rs with resp := t.resp }
        (s.pwr.mode = 3 → NoEvent o s) ∧
        (s.pwr.mode ≠ 3 → r.2.2 = [] → Accepts o (ends s1)) ∧
        (∀ (q : Nat) (lvl : Bool) (g0 : Tag), s.pwr.mode ≠ 3 → r.2.2 = [(q, lvl, g0)] → Accepts o fun t => ∃ v, ends v t ∧
          let u := s1.run (q - s.clk.raw)
          let g := u.capTag p g0
          let hi := if isU then lvl else u.bit F.CMP_STAT.out_u p n
          let lo := if isU then u.bit F.CMP_STAT.out_l p n else lvl
          v.bit F.CMP_STAT.out_u p n = hi ∧ v.bit F.CMP_STAT.out_l p n = lo ∧
          (lvl = true → v.bit (if isU then F.CMP_STAT.evt_u else F.CMP_STAT.evt_l) p n = true ∧
            v.pairAt .CMP_EVTAG_LO .CMP_EVTAG_HI p n = g) ∧
          (lvl = false → v.pairAt .CMP_EVTAG_LO .CMP_EVTAG_HI p n = u.pairAt .CMP_EVTAG_LO .CMP_EVTAG_HI p n) ∧
          sources u v hi lo g ∧ KeepsRegs u v ([.CMP_EVTAG_LO, .CMP_EVTAG_HI] ++ tripRegs) ∧ v.mem = s.mem)) ∧
      (∀ (m : Master) (v : Word), (s.req m).admits (s.ainOwner p n) = true → Accepts (exec (.thresholdWrite m p n v) s) fun t =>
        t.f F.CMP_THR.lo p n = F.CMP_THR.lo.get v ∧ t.f F.CMP_THR.hi p n = F.CMP_THR.hi.get v ∧ KeepsRegs s t [.CMP_THR] ∧
        (k.window = true → t.cmp p n = { k with held := some v } ∧ t = { s with regs := t.regs, cmps := t.cmps, resp := t.resp }) ∧
        (k.window = false → (t.tick.cmp p n).lo = F.CMP_THR.lo.get v ∧
          ((s.pcmDrivers p n).isEmpty = true → (t.tick.cmp p n).hi = F.CMP_THR.hi.get v) ∧
          ((s.pcmDrivers p n).isEmpty = false → (t.tick.cmp p n).hiWait = true) ∧
          ∃ e, t = { s with regs := t.regs, soon := s.soon ++ [e], resp := t.resp })) ∧
      (let off := !s.bit F.PWM_STATUS.clk_ok p || s.bit F.CMP_STAT.in_chk p n
       (off = true ∨ s.chkDue p n = none → NoEvent (exec (.checkWindowOpen p n) s) s) ∧
       ∀ due, off = false → s.chkDue p n = some due →
         let u := s.run (due - s.clk.raw)
         let mark (t : State) : Prop := (t.cmp p n).cntAt = (u.pset p (u.f F.CMP_CHK.src p n)).bk + 1 ∧ t.mem = s.mem
         let barred (j : Nat) : Bool := u.bit F.CMP_STAT.out_u p j || u.bit F.CMP_STAT.out_l p j || !(u.pcmDrivers p j).isEmpty ||
           ((u.cmp p j).thrAt != 0 && decide (u.clk.raw + 1 < (u.cmp p j).thrAt + 100)) ||
           (List.range 16).any fun i => i != j && u.bit F.CMP_STAT.in_chk p i && u.shareRoute p j i
         let skip := barred n || (List.range n).any fun j => u.chkDue p j == some u.clk.raw && u.shareRoute p n j && !barred j
         (skip = true → Accepts (exec (.checkWindowOpen p n) s) fun t => mark t ∧ t.bit F.CMP_STAT.chk_skip p n = true ∧
           KeepsRegs u t [.CMP_STAT] ∧ t = { u with regs := t.regs, cmps := t.cmps, resp := t.resp }) ∧
         (skip = false → Accepts (exec (.checkWindowOpen p n) s) fun t => mark t ∧ t.bit F.CMP_STAT.in_chk p n = true ∧
           (t.cmp p n).window = true ∧ (t.cmp p n).winAt = u.clk.raw ∧ (t.cmp p n).preU = false ∧ (t.cmp p n).preL = false ∧
           t.nbit .MUZ_LIVE n p = false ∧ t.nbit .MUZ_LIVE (16 + n) p = false ∧ KeepsRegs u t tripRegs)) ∧
      (∀ hi lo : Bool,
        let u := s.run (k.winAt + 64 + 4 * s.f F.CMP_FLT.m p n - s.clk.raw)
        let meets := k.window && u.bit F.CMP_STAT.out_u p n == hi && u.bit F.CMP_STAT.out_l p n == lo
        (meets = false → NoEvent (exec (.checkWindowEnd p n hi lo) s) s) ∧
        (meets = true →
        let e := u.chkExpect p n
        let miss := (e.2.2.1 && hi != e.1) || (e.2.2.2 && lo != e.2.1)
        let swap := u.f F.CMP_CHK.method p n == 0
        let fail := miss && (!swap || (u.cmp p n).swapMiss)
        Accepts (exec (.checkWindowEnd p n hi lo) s) fun t =>
          t.f F.CMP_STAT.chk_cnt p n = min (u.f F.CMP_STAT.chk_cnt p n + 1) 0xFFFF ∧
          t.bit F.CMP_STAT.chk_miss p n = ((miss && swap) || u.bit F.CMP_STAT.chk_miss p n) ∧
          t.bit F.CMP_STAT.chk_fail p n = (fail || u.bit F.CMP_STAT.chk_fail p n) ∧
          (t.cmp p n).window = false ∧ (t.cmp p n).swapMiss = (miss && swap) ∧ (t.cmp p n).held = none ∧
          (t.cmp p n).tieHigh = ((u.cmp p n).tieHigh != decide (u.f F.CMP_CHK.method p n = 3)) ∧
          (t.cmp p n).lo = (u.cmp p n).lo ∧ (t.cmp p n).hi = (u.cmp p n).hi ∧
          (∀ v, (u.cmp p n).held = some v → t.soon = u.soon ++ [.thr p n v]) ∧ ((u.cmp p n).held = none → t.soon = u.soon) ∧
          KeepsRegs u t ([.CMP_STAT] ++ alarmRegs) ∧ t.mem = s.mem)) ∧
      (k.window = true ∨ s.bit F.CMP_STAT.in_chk p n = false → NoEvent (exec (.checkRestoreEnd p n) s) s) ∧
      (k.window = false → s.bit F.CMP_STAT.in_chk p n = true →
        let u := s.run (k.winAt + 2 * (64 + 4 * s.f F.CMP_FLT.m p n) - 16 - s.clk.raw)
        Accepts (exec (.checkRestoreEnd p n) s) fun t => t.bit F.CMP_STAT.in_chk p n = false ∧
          sources u t (u.bit F.CMP_STAT.out_u p n) (u.bit F.CMP_STAT.out_l p n) u.now ∧ KeepsRegs u t tripRegs ∧ t.mem = s.mem)) ∧
    (∀ m : Master, (s.req m).admits (s.owner (.pack p)) = true →
      let can := s.rdbkOk p && !s.bit F.CMP_GSTAT.rdbk_busy p
      (can = true → Accepts (exec (.readback m p) s) fun t => t.bit F.CMP_GSTAT.rdbk_busy p = true ∧ KeepsRegs s t [.CMP_GSTAT] ∧
        t = { s with regs := t.regs, resp := t.resp }) ∧
      (can = false → ∃ t, exec (.readback m p) s = .next t ∧ t.resp.err = true ∧ t.bit F.CMP_GSTAT.refused p = true ∧
        t.bit F.CMP_GSTAT.rdbk_busy p = s.bit F.CMP_GSTAT.rdbk_busy p ∧ KeepsRegs s t [.CMP_GSTAT] ∧ t = { s with regs := t.regs, resp := t.resp })) ∧
    (∀ cs : List (BitVec 16 × BitVec 16), cs.length = 16 →
      let pass (n : Nat) : Bool := dacPass (s.f F.CMP_THR.lo p n) (cs.getD n (0, 0)).1 && dacPass (s.f F.CMP_THR.hi p n) (cs.getD n (0, 0)).2
      (s.bit F.CMP_GSTAT.rdbk_busy p = false → NoEvent (exec (.readbackDone p cs) s) s) ∧
      (s.bit F.CMP_GSTAT.rdbk_busy p = true → Accepts (exec (.readbackDone p cs) s) fun t => t.bit F.CMP_GSTAT.rdbk_busy p = false ∧
        (∀ n < 16, t.f F.CMP_RDBK.lo_code p n = (cs.getD n (0, 0)).1.toNat ∧ t.f F.CMP_RDBK.hi_code p n = (cs.getD n (0, 0)).2.toNat ∧
          t.bit F.CMP_STAT.dac_fail p n = (!pass n) ∧ t.nbit .CMP_GSTAT (16 + n) p = (!pass n)) ∧
        t.bit F.CMP_GSTAT.rdbk_ok p = ((List.range 16).all pass) ∧ t.bit F.CMP_GSTAT.rdbk_fail p = (!(List.range 16).all pass) ∧
        KeepsRegs s t ([.CMP_GSTAT, .CMP_RDBK] ++ tripRegs) ∧ t.mem = s.mem)))
/-- Trips and their end; `u` is the state at an event's instant. -/
def Obligations.TripsLatchAndClear : Prop :=
  ∀ (p : PackIx) (s : State),
    (∀ (l : LegIx) (low : Bool) (e : Tag × PinClass) (more : List (Tag × PinClass)),
      let tr := e :: more
      let o := exec (.protectionInputChange p l low e more) s
      let en := s.bit (if low then F.MUZ_PROT.en_l else F.MUZ_PROT.en_h) p l
      let pol := s.bit (if low then F.MUZ_PROT.pol_l else F.MUZ_PROT.pol_h) p l
      let asserts (c : PinClass) : Bool := en && match c with
        | .low => !pol
        | .high => pol
        | _ => true
      let rs := tr.map fun e => (s.rawOf e.1 + min 15 Config.protDelay, e.1, asserts e.2)
      let fld : Fld := if low then F.MUZ_PROT.live_l else F.MUZ_PROT.live_h
      let r := Flt.feed { m := s.f F.MUZ_PROT.m p l, k := s.f F.MUZ_PROT.k p l, next := s.nextSample p, mask := fun _ => false, tagAt := s.tagOf }
        s.clk.raw rs (s.prot p l low) (s.bit fld p l)
      let s1 := (tr.foldl (fun s e => { s with fld := s.fld.set .open_ (protPin p l low) e.2 }) s).setProt p l low r.1
      let ends (v t : State) : Prop := t = { v.runTo rs with resp := t.resp }
      let x := 40 + 2 * l.val + low.toNat
      (s.pwr.mode = 3 → NoEvent o s) ∧
      (s.pwr.mode ≠ 3 → r.2.2 = [] → Accepts o (ends s1)) ∧
      (∀ (q : Nat) (now : Bool) (g0 : Tag), s.pwr.mode ≠ 3 → r.2.2 = [(q, now, g0)] → Accepts o fun t => ∃ v, ends v t ∧
        let u := s1.run (q - s.clk.raw)
        let was := u.nbit .MUZ_LIVE (x % 32) p (x / 32)
        v.bit fld p l = now ∧ v.nbit .MUZ_LIVE (x % 32) p (x / 32) = now ∧
        (now = true → was = false → Tripped u v p x (u.capTag p g0)) ∧ KeepsRegs u v ([.MUZ_PROT] ++ tripRegs) ∧ v.mem = s.mem)) ∧
    (let due := s.incTag.get 0 p + BitVec.ofNat 64 (s.f F.MUZ_CTL.inc_win p * 160000) + 1
     let u := s.run (s.ticksTo due)
     (s.bit F.MUZ_INC.open_ p = false ∨ Tag.after due u.now = true → NoEvent (exec (.incidentWindowEnd p) s) s) ∧
     (s.bit F.MUZ_INC.open_ p = true → Tag.after due u.now = false → Accepts (exec (.incidentWindowEnd p) s) fun t =>
       t.bit F.MUZ_INC.open_ p = false ∧ KeepsRegs u t [.MUZ_INC] ∧ t = { u with regs := t.regs, resp := t.resp })) ∧
    (∀ (m : Master) (mask : BitVec 6), (s.req m).mapped = true →
      let mine (x : SetIx) : Bool := mask.getLsbD x && (s.req m).admits (s.setOwner p x)
      let all := (List.finRange 6).all fun x => !mask.getLsbD x || (s.req m).admits (s.setOwner p x)
      ∃ t, exec (.softwareTrip m p mask) s = .next t ∧ t.resp.err = (!all) ∧ t.mem = s.mem ∧ KeepsRegs s t tripRegs ∧
        let calm := ∀ i, t.rd .MUZ_LIVE p i = s.rd .MUZ_LIVE p i
        (∀ x : SetIx, mine x = true → s.setRunning p x = true → t.bit F.MUZ_SET_STAT.tripped p x = true ∧
          (s.bit F.MUZ_SET_STAT.tripped p x = false → (calm → t.f F.MUZ_SET_STAT.first p x = 77) ∧
            t.pairAt .MUZ_SET_TAG_LO .MUZ_SET_TAG_HI p x = s.now ∧
            t.f F.MUZ_SET_INC.trip_cnt p x = min (s.f F.MUZ_SET_INC.trip_cnt p x + 1) 0xFFFF ∧ t.bit F.MUZ_INC.open_ p = true)) ∧
        ∀ x : SetIx, calm → mine x = false ∨ s.setRunning p x = false → t.bit F.MUZ_SET_STAT.tripped p x = s.bit F.MUZ_SET_STAT.tripped p x) ∧
    (∀ (m : Master) (x : SetIx), (s.req m).admits (s.setOwner p x) = true →
      let live := (List.range 77).any fun i => s.nbit .MUZ_LIVE (i % 32) p (i / 32) && s.routed p i x
      (s.bit F.MUZ_SET_STAT.tripped p x = false → live = false → Accepts (exec (.tripClear m p x) s) fun t => KeepsRegs s t [] ∧
        t = { s with regs := t.regs, resp := t.resp }) ∧
      (live = true → ∃ t, exec (.tripClear m p x) s = .next t ∧ t.resp.err = true ∧
        t.bit F.MUZ_SET_STAT.tripped p x = s.bit F.MUZ_SET_STAT.tripped p x ∧ t.bit F.MUZ_SET_STAT.clr_rej p x = true ∧ KeepsRegs s t [.MUZ_SET_STAT] ∧
        t = { s with regs := t.regs, resp := t.resp }) ∧
      (s.bit F.MUZ_SET_STAT.tripped p x = true → live = false → Accepts (exec (.tripClear m p x) s) fun t =>
        t.bit F.MUZ_SET_STAT.tripped p x = false ∧ t.f F.MUZ_SET_STAT.fault p x = 0 ∧ t.f F.MUZ_SET_STAT.first p x = 0x7F ∧
        t.bit F.MUZ_SET_STAT.assert p x = decide (s.setAxSt p x = some 5) ∧ (∀ l ∈ s.legsOf p x, Guarded s t p l) ∧
        KeepsRegs s t [.MUZ_SET_STAT, .PWM_LEGSTAT, .PWM_SET_STAT, .PWM_SET_CNT] ∧ t = { s with regs := t.regs, plegs := t.plegs, resp := t.resp }))

/-- Thermal sensors; `u` is the state at the time-out. -/
def Obligations.ThermalSensorsComplete : Prop :=
  ∀ (i : Fin 12) (temp : BitVec 12) (s : State),
    let d := if i.val < 8 then 0 else 1
    let flag (u : State) (g : Nat) : Bool := u.bit ([F.THM_SEN.warn, F.THM_SEN.limit, F.THM_SEN.trip].getD g F.THM_SEN.warn) 0 i
    let c := temp.toInt
    let same (u t : State) : Prop := t.mem = s.mem ∧ KeepsRegs u t ([.THM_SEN, .THM_STAT] ++ tripRegs) ∧ ∀ j : Fin 12, j ≠ i → t.rd .THM_SEN 0 j = u.rd .THM_SEN 0 j
    let counted (u : State) (up dn : Nat → Bool) (t : State) : Prop := ∀ g < 3,
      let n := if up g then min ((u.thm i).up.get 0 g + 1) 100 else 0
      let z := if dn g then min ((u.thm i).down.get 0 g + 1) 100 else 0
      (t.thm i).up.get 0 g = n ∧ (t.thm i).down.get 0 g = z ∧ flag t g = if n = 100 then true else if z = 100 then false else flag u g
    let thr (g : Nat) : Int := 8 * ([s.f F.THM_THR.warn 0 d, s.f F.THM_THR.limit 0 d, s.f F.THM_THR.trip 0 d].getD g 0 : Nat)
    let cold (g : Nat) : Bool := decide (c ≤ thr g - 32)
    let warm (g : Nat) : Bool := decide (thr g ≤ c)
    let left (t : State) : Prop := (t.thm i).up = [] ∧ (t.thm i).down = [] ∧ ∀ g < 3, flag t g = false
    let hot (u t : State) : Prop := (u.bit F.THM_THR.flt_trip 0 d = true → counted u (fun _ => true) (fun _ => false) t) ∧
      (u.bit F.THM_THR.flt_trip 0 d = false → left t)
    let failed (t : State) : Prop := t.bit F.THM_SEN.flt 0 i = true ∧ t.bit F.THM_STAT.flt_seen = true ∧ (t.thm i).good = 0
    let read (t : State) : Prop := t.f F.THM_SEN.temp 0 i = temp.toNat ∧ t.bit F.THM_SEN.valid 0 i = true ∧ (t.thm i).at_ = s.clk.raw ∧
      (t.thm i).silent = false ∧ same s t
    let good := (s.thm i).good
    let on := s.pwr.mode ≠ 3 ∧ (8 ≤ i.val ∨ s.pwr.mode ≠ 2)
    (¬ on → NoEvent (exec (.thermalSample i temp) s) s ∧ NoEvent (exec (.thermalSensorTimeout i) s) s) ∧
    (on → -440 ≤ c → c ≤ 1600 → s.bit F.THM_SEN.flt 0 i = false → Accepts (exec (.thermalSample i temp) s) fun t => read t ∧
      t.bit F.THM_SEN.flt 0 i = false ∧ (t.thm i).good = min (good + 1) 100 ∧ counted s warm cold t) ∧
    (on → -440 ≤ c → c ≤ 1600 → s.bit F.THM_SEN.flt 0 i = true → good < 99 → Accepts (exec (.thermalSample i temp) s) fun t => read t ∧
      t.bit F.THM_SEN.flt 0 i = true ∧ (t.thm i).good = good + 1 ∧ hot s t) ∧
    (on → -440 ≤ c → c ≤ 1600 → s.bit F.THM_SEN.flt 0 i = true → 99 ≤ good → Accepts (exec (.thermalSample i temp) s) fun t => read t ∧
      t.bit F.THM_SEN.flt 0 i = false ∧ counted s warm cold t) ∧
    (on → c < -440 ∨ 1600 < c → Accepts (exec (.thermalSample i temp) s) fun t => read t ∧ failed t ∧ hot s t) ∧
    (on →
      let silent := (s.thm i).silent
      let first := (s.thm i).at_ + if silent then 10000 else 100000
      let u := s.run (first - s.clk.raw)
      (silent = true → s.bit F.THM_SEN.flt 0 i = true) →
      Accepts (exec (.thermalSensorTimeout i) s) fun t => t.f F.THM_SEN.temp 0 i = s.f F.THM_SEN.temp 0 i ∧
        (silent = false → failed t) ∧ (silent = true → (t.thm i).good = (u.thm i).good) ∧ (t.thm i).silent = true ∧ same u t ∧
        (u.clk.raw < first + 10000 → (t.thm i).at_ = first ∧ hot u t) ∧
        (first + 990000 ≤ u.clk.raw → u.bit F.THM_THR.flt_trip 0 d = true → ∀ g < 3, flag t g = true))

/-! ### Banks and swaps -/

/-- Bank commands and the recovery image. -/
def Obligations.BankCommandsComplete : Prop :=
  ∀ s : State,
    let b := s.boot
    let o := 1 - b
    let only (rs : List RegName) (t : State) : Prop := KeepsRegs s t rs ∧ t = { s with regs := t.regs, img := t.img, resp := t.resp }
    (∀ m : Master,
      let gives (out : Out) (c : Nat) (may : Bool) : Prop :=
        ((s.req m).isT0 = true → may = true → Accepts out fun t => t.bit F.IMG_BANK.busy = true ∧ t.img.bankJobs = s.img.bankJobs ++ [c] ∧
          only [.IMG_BANK] t) ∧
        ((s.req m).isT0 = true → may = false → ∃ t, out = .next t ∧ t.resp.err = true ∧ t.bit F.IMG_BANK.cmd_rej = true ∧
          t.bit F.IMG_BANK.busy = s.bit F.IMG_BANK.busy ∧ t.img = s.img ∧ only [.IMG_BANK] t) ∧
        ((s.req m).isT0 = false → ∃ t, out = .next t ∧ t.resp.err = true ∧ KeepsRegs s t lossRegs ∧
          t = { s with regs := t.regs, log := t.log, resp := t.resp })
      gives (exec (.setTrial m) s) 1 (s.bankHdr o).good ∧ gives (exec (.confirm m) s) 2 (decide ((s.bankHdr b).state = 1)) ∧
      gives (exec (.markBad m) s) 3 true ∧ gives (exec (.raiseSvn m) s) 4 (decide ((s.bankHdr b).state = 2))) ∧
    (s.img.bankJobs = [] → NoEvent (exec .bankCommandDone s) s) ∧
    (∀ job jobs, s.img.bankJobs = job :: jobs →
      let rest (n : Nat) (t : State) : Prop := t.bit F.IMG_BANK.busy = (!jobs.isEmpty) ∧ t.img.bankJobs = jobs ∧
        (∀ k, k < bankBase n + 4 ∨ bankBase n + 12 ≤ k → SMap.get (memDefault k) t.mem k = SMap.get (memDefault k) s.mem k) ∧
        KeepsRegs s t ([.IMG_BANK, .IMG_BANK_SEQ, .IMG_SVN] ++ lossRegs)
      (job = 1 → Accepts (exec .bankCommandDone s) fun t => (t.bankHdr o).state = 1 ∧ (t.bankHdr o).tries = 3 ∧
        (t.bankHdr o).seq = ((s.bankHdr b).seq + 1) % 2 ^ 32 ∧ (t.bankHdr o).good = (s.bankHdr o).good ∧ rest o t) ∧
      (job = 2 → Accepts (exec .bankCommandDone s) fun t => (t.bankHdr b).state = 2 ∧ (t.bankHdr b).tries = (s.bankHdr b).tries ∧
        (t.bankHdr b).seq = (s.bankHdr b).seq ∧ rest b t) ∧
      (job = 3 → Accepts (exec .bankCommandDone s) fun t => (t.bankHdr o).state = 3 ∧ (t.bankHdr o).seq = (s.bankHdr o).seq ∧ rest o t) ∧
      (job = 4 → Accepts (exec .bankCommandDone s) fun t => t.img.svn = max s.img.svn (s.f F.IMG_SVN.img) ∧
        t.f F.IMG_SVN.fuse = max s.img.svn (s.f F.IMG_SVN.img) % 256 ∧ t.mem = s.mem ∧ rest o t)) ∧
    (∀ a len : Word,
      let f : ImgSrc := fun i => if 0x11800000 ≤ a.toNat + i ∧ a.toNat + i < 0x12000000 then s.byte (a.toNat + i) else 0
      let h := f.hdr (min len.toNat (0x2000000 - 64))
      (s.f F.IMG_STATUS.phase ≠ 4 → NoEvent (exec (.recoveryImage a len) s) s) ∧
      (∀ c, s.f F.IMG_STATUS.phase = 4 → f.auth h 0 s.img.svn true = some c → Accepts (exec (.recoveryImage a len) s) fun t =>
        t.f F.IMG_ERR.code = c ∧ t.bit F.IMG_ERR.swap = false ∧ only [.IMG_ERR] t) ∧
      (s.f F.IMG_STATUS.phase = 4 → f.auth h 0 s.img.svn true = none → Accepts (exec (.recoveryImage a len) s) fun t =>
        (t.bankByte 0).num 0 4 = 0x4B4E4247 ∧ (t.bankHdr 0).state = 1 ∧ (t.bankHdr 0).tries = 3 ∧
        (t.bankHdr 0).seq = (max (s.bankHdr 0).seq (s.bankHdr 1).seq + 1) % 2 ^ 32 ∧ t.pwr.mode = 0 ∧ t.f F.PWR_RST_STAT.cause = 2))

/-- The states of a swap before its commit. -/
def Obligations.SwapCommandsComplete : Prop :=
  ∀ s : State, (s.img.prog.all SwapOp.isProg) = true →
    let st := s.swapSt
    let only (rs : List RegName) (t : State) : Prop := KeepsRegs s t rs ∧ t = { s with
      regs := t.regs, img := t.img, ram := { s.ram with leFlips := t.ram.leFlips }, resp := t.resp }
    (∀ m : Master, (s.req m).isT0 = false → ∀ c ∈ ([.stage m, .swapGo m, .swapAbort m, .revert m] : List Instr),
      ∃ t, exec c s = .next t ∧ t.resp.err = true ∧ KeepsRegs s t lossRegs ∧ t = { s with regs := t.regs, log := t.log, resp := t.resp }) ∧
    (∀ m : Master, (s.req m).isT0 = true →
      (st = 1 ∨ st = 2 ∨ st = 3 → ∃ t, exec (.stage m) s = .next t ∧ t.resp.err = true ∧ t.f F.IMG_ERR.code = 14 ∧ t.bit F.IMG_ERR.swap = true ∧
        t.img = s.img ∧ only [.IMG_ERR] t) ∧
      (st ≠ 1 → st ≠ 2 → st ≠ 3 → Accepts (exec (.stage m) s) fun t => t.swapSt = 1 ∧ t.bit F.IMG_SWAP_STAT.undo = false ∧ t.img.undo = [] ∧
        t.img.staged = [] ∧ (let a := s.f F.IMG_SWAP_SRC.addr * 4
          t.img.src = a ∧ t.img.hdr = (s.swapSrc a).hdr (swapRoom a) ∧
          t.img.verdict = ((s.swapSrc a).auth t.img.hdr 1 s.img.svn (allOk (fun o => s.imgWordOk (a + o)) (t.img.hdr.sig + sigLen))).getD 0) ∧
        only [.IMG_SWAP_STAT, .IMG_STATUS] t) ∧
      (st ≠ 2 → TurnedAway (exec (.swapGo m) s) s) ∧
      (let late := s.bit F.IMG_SWAP_CTL.at_en && Tag.before (s.pairAt .IMG_SWAP_AT_LO .IMG_SWAP_AT_HI) s.now
       let skip := s.bit F.IMG_SWAP_CTL.skip_late
       (st = 2 → (late && skip) = false → Accepts (exec (.swapGo m) s) fun t => t.swapSt = 3 ∧ t.img = { s.img with goAt := s.clk.raw, abortLate := false } ∧
         (late = true → t.bit F.IMG_SWAP_STAT.late = true) ∧ only [.IMG_SWAP_STAT] t) ∧
       (st = 2 → (late && skip) = true → Accepts (exec (.swapGo m) s) fun t => t.swapSt = 0 ∧ t.bit F.IMG_SWAP_STAT.dropped = true ∧
         t.bit F.IMG_SWAP_STAT.late = true ∧ t.img.staged = [] ∧ t.img.prog = [] ∧ only [.IMG_SWAP_STAT, .LE_PROGMEM] t)) ∧
      (st = 0 ∨ st = 4 → TurnedAway (exec (.swapAbort m) s) s) ∧
      (st = 3 → s.commitSoon = true → Accepts (exec (.swapAbort m) s) fun t => t.img = { s.img with abortLate := true } ∧ only [] t) ∧
      (st = 1 ∨ st = 2 ∨ (st = 3 ∧ s.commitSoon = false) → Accepts (exec (.swapAbort m) s) fun t => t.swapSt = 0 ∧ t.img.staged = [] ∧ t.img.prog = [] ∧
        only [.IMG_SWAP_STAT, .LE_PROGMEM] t) ∧
      (s.bit F.IMG_SWAP_STAT.undo = false ∨ st = 1 ∨ st = 2 ∨ st = 3 → TurnedAway (exec (.revert m) s) s) ∧
      (s.bit F.IMG_SWAP_STAT.undo = true → st ≠ 1 → st ≠ 2 → st ≠ 3 →
        let late := s.bit F.IMG_SWAP_CTL.at_en && Tag.before (s.pairAt .IMG_SWAP_AT_LO .IMG_SWAP_AT_HI) s.now
        let drops := late && s.bit F.IMG_SWAP_CTL.skip_late
        (drops = false → Accepts (exec (.revert m) s) fun t => t.swapSt = 3 ∧ t.img.staged = s.img.undo ∧ t.img.scope = s.img.undoScope ∧
          t.img.goAt = s.clk.raw ∧ (late = true → t.bit F.IMG_SWAP_STAT.late = true) ∧ only [.IMG_SWAP_STAT] t) ∧
        (drops = true → Accepts (exec (.revert m) s) fun t => t.swapSt = 0 ∧ t.bit F.IMG_SWAP_STAT.dropped = true ∧ t.img.undo = s.img.undo ∧
          t.bit F.IMG_SWAP_STAT.undo = true ∧ only [.IMG_SWAP_STAT] t))) ∧
    (st ≠ 1 → NoEvent (exec .stagingDone s) s) ∧
    (st = 1 → Accepts (exec .stagingDone s) fun t => (t.swapSt = 2 ∨ (t.swapSt = 0 ∧ t.bit F.IMG_SWAP_STAT.failed = true ∧ t.img.staged = [])) ∧
      (s.img.verdict ≠ 0 → t.swapSt = 0 ∧ t.f F.IMG_ERR.code = s.img.verdict % 2 ^ F.IMG_ERR.code.w) ∧
      only [.IMG_STATUS, .IMG_ERR, .IMG_SWAP_STAT, .IMG_SWAP_SCOPE, .LE_PROGMEM] t)

/-! ### The fabric -/

/-- RD and WR. MBX. -/
def Obligations.InboundFabricRequestsAreAnswered : Prop :=
  (∀ (ln : FabIx) (f : Frame) (s : State),
    let q := s.req (.fabric f.src f.tenant f.sec)
    let a := f.addr.toNat % 2 ^ 44
    let answers (t : State) (ty st : Nat) (pay : List Byte) : Prop := t.lastSent ln ty fun g =>
      g.dst = f.src ∧ g.txid = f.txid ∧ g.tenant = f.tenant ∧ g.status = BitVec.ofNat 4 st ∧ g.payload = pay
    let refused (i : Instr) (ty n : Nat) (acc : AccKind) : Prop := s.arrives ln (ty - 1) f →
      (s.inRange f n = false → Accepts (exec i s) fun t => answers t ty 3 [] ∧ t = { s with net := t.net, resp := t.resp }) ∧
      (s.inRange f n = true → q.mapped = false ∨ (a % 4 = 0 ∧ 4 ≤ n ∧ isMem a = true ∧ s.regionOk q acc (unalias a) 4 = false) →
        Accepts (exec i s) fun t => answers t ty 1 [] ∧ KeepsRegs s t lossRegs ∧
          t = { s with regs := t.regs, log := t.log, net := t.net, resp := t.resp })
    let words (n : Nat) (acc : AccKind) : Prop := s.inRange f n = true ∧ q.mapped = true ∧ n % 4 = 0 ∧ a % 4 = 0 ∧ a + n ≤ 0x12000000 ∧
      ∀ k, k < n → k % 4 = 0 → s.regionOk q acc (a + k) 4 = true ∧ s.pageClosedAt (a + k) = false ∧
        ∀ w, w < 9 → (s.cFlip (lineOf (a + k)) w).2 = 0
    refused (.rdFrame ln f) 2 f.len.toNat .read ∧ refused (.wrFrame ln f) 4 f.plen.toNat .write ∧
    (s.arrives ln 1 f → words f.len.toNat .read →
      (∀ k, k < f.len.toNat → k % 4 = 0 → s.nflips (a + k) = 0 ∧ (s.ram.valid.get 0 ((a + k) / 4) = 0 ∨ s.ram.valid.get 0 ((a + k) / 4) = 7)) →
      Accepts (exec (.rdFrame ln f) s) fun t => answers t 2 0 (s.bytes a f.len.toNat) ∧ (∀ x, t.byte x = s.byte x) ∧
        t = { s with ram := t.ram, net := t.net, resp := t.resp }) ∧
    (s.arrives ln 3 f → words f.plen.toNat .write → Accepts (exec (.wrFrame ln f) s) fun t => answers t 4 0 [] ∧
      (∀ x, t.byte x = if a ≤ x ∧ x < a + f.plen.toNat then f.payload.getD (x - a) 0 else s.byte x) ∧
      t = { s with mem := t.mem, ram := t.ram, net := t.net, resp := t.resp })) ∧
  (∀ (ln : FabIx) (f : Frame) (s : State), s.arrives ln 5 f →
    let q := s.req (.fabric f.src f.tenant f.sec)
    let c := f.addr.toNat % 16
    let ch := f.addr.toNat / 16 % 16
    let v := frameWord f 0
    let bound := (List.range 32).any fun e => s.bit F.FAB_MRX.en 0 e && s.f F.FAB_MRX.core 0 e == c && s.f F.FAB_MRX.ch 0 e == ch &&
      s.f F.FAB_MRX.node 0 e == f.src.toNat && s.f F.FAB_MRX.ten 0 e == f.tenant.val
    let good := q.admits { ten := s.f F.MBX_RX_CFG.owner c ch, sec := s.bit F.MBX_RX_CFG.sec c ch } && decide (c < 12) &&
      s.bit F.MBX_RX_CFG.en c ch && s.f F.MBX_RX_CFG.sender c ch == 44 && bound
    let told (t : State) (st : Nat) : Prop := t.lastSent ln 6 fun g => g.dst = f.src ∧ g.txid = f.txid ∧ g.status = BitVec.ofNat 4 st
    let only (rs : List RegName) (t : State) : Prop := KeepsRegs s t rs ∧ t = { s with regs := t.regs, log := t.log, net := t.net, resp := t.resp }
    (good = false → Accepts (exec (.mbxFrame ln f) s) fun t => told t 1 ∧ only lossRegs t) ∧
    (good = true → (s.core c).held = true → Accepts (exec (.mbxFrame ln f) s) fun t => told t 5 ∧ t.bit F.MBX_TX_STAT.aborted 0 c ch = true ∧
      only [.MBX_TX_STAT] t) ∧
    (good = true → (s.core c).held = false → s.nbit .MBX_RX_FULL ch c = true → Accepts (exec (.mbxFrame ln f) s) fun t => told t 4 ∧
      t.bit F.MBX_TX_STAT.rej 0 c ch = true ∧ t.nbit .MBX_RX_STAT ch c = true ∧ only [.MBX_TX_STAT, .MBX_RX_STAT] t) ∧
    (good = true → (s.core c).held = false → s.nbit .MBX_RX_FULL ch c = false → Accepts (exec (.mbxFrame ln f) s) fun t => told t 0 ∧
      t.rd .MBX_RX c ch 0 = BitVec.ofNat 32 (v.toNat / 16 * 16 + (if v.toNat % 16 = 0 then 1 else min (v.toNat % 16) 8)) ∧
      (∀ w, 1 ≤ w → w < 8 → t.rd .MBX_RX c ch w = frameWord f w) ∧ t.nbit .MBX_RX_FULL ch c = true ∧
      t.bit F.MBX_TX_STAT.full 0 c ch = true ∧ t.mbxTag.get 0 (16 * c + ch) = s.now ∧ Pended s t c (s.f F.MBX_RX_CFG.src c ch) ∧
      KeepsRegs s t ([.MBX_RX, .MBX_RX_STAT, .MBX_RX_FULL, .MBX_TX_STAT] ++ pendRegs) ∧ t.mem = s.mem ∧ t.banks = s.banks))
/-- RDR, WRA, MBXA and REQUEST_TIMEOUT; `u` is the state at the timeout's instant. FABRIC_MAILBOX_SEND. -/
def Obligations.FabricRequestsEndWithTheirResponse : Prop :=
  (∀ (ln : FabIx) (f : Frame) (s : State),
    let ends (p : OutReq → Bool) := s.net.reqs.find? fun r => r.lane == ln.val && r.txid == f.txid.toNat && p r && !Tag.after s.now r.due
    let gone (t : State) (r : OutReq) : Prop := t.net.reqs = s.net.reqs.filter (· != r)
    let late (i : Instr) : Prop := Accepts (exec i s) fun t => t.f F.FAB_REQ_STAT.late_rsp = min (s.f F.FAB_REQ_STAT.late_rsp + 1) 0xFFFF ∧
      t.net.reqs = s.net.reqs ∧ KeepsRegs s t [.FAB_REQ_STAT] ∧ t = { s with regs := t.regs, net := t.net, resp := t.resp }
    let loaded (i : Instr) (u : State) (r : OutReq) (c : Nat) (x : Nat × Word) : Prop := (s.core c).win = some (r.txid, none) →
      Accepts (exec i s) fun t => t.core c = { s.core c with win := some (r.txid, some x) } ∧ (∀ d, d ≠ c → t.core d = s.core d) ∧ gone t r ∧
        t = { u with cores := t.cores, net := t.net, resp := t.resp }
    let stored (i : Instr) (u : State) (r : OutReq) (c : Nat) (as : List Word) : Prop := Accepts (exec i s) fun t =>
      t.core c = { s.core c with errResp := (s.core c).errResp ++ as } ∧ (∀ d, d ≠ c → t.core d = s.core d) ∧ gone t r ∧
      t = { u with cores := t.cores, net := t.net, resp := t.resp }
    let sent (i : Instr) (u : State) (r : OutReq) (m st : Nat) : Prop := Accepts (exec i s) fun t => t.bit F.FAB_MTX_STAT.busy 0 m = false ∧
      t.bit (if st = 0 then F.FAB_MTX_STAT.sent else if st = 4 then F.FAB_MTX_STAT.rej else if st = 5 then F.FAB_MTX_STAT.aborted
        else if st = 1 then F.FAB_MTX_STAT.refused else F.FAB_MTX_STAT.lost) 0 m = true ∧ (∀ k, k ≠ m → t.rd .FAB_MTX_STAT 0 k = s.rd .FAB_MTX_STAT 0 k) ∧
      gone t r ∧ KeepsRegs u t [.FAB_MTX_STAT] ∧ t = { u with regs := t.regs, net := t.net, resp := t.resp }
    let st := f.status.toNat
    (s.arrives ln 2 f →
      let p (r : OutReq) : Bool := match r.by_ with
        | .load _ _ => true
        | .dma k => (s.dma.get {} k).wait == 1
        | _ => false
      (ends p = none → late (.rdrFrame ln f)) ∧
      (∀ r c n, ends p = some r → r.by_ = .load c n →
        loaded (.rdrFrame ln f) s r c (if st = 0 then (0, BitVec.ofNat 32 (ofBytes (f.payload.take n))) else (1, 0)))) ∧
    (s.arrives ln 4 f →
      let p (r : OutReq) : Bool := match r.by_ with
        | .store _ _ => true
        | .dma k => (s.dma.get {} k).wait == 2
        | _ => false
      (ends p = none → late (.wraFrame ln f)) ∧
      (∀ r c a, ends p = some r → r.by_ = .store c a → stored (.wraFrame ln f) s r c (if st = 0 then [] else [BitVec.ofNat 32 a])) ∧
      (∀ r k, ends p = some r → r.by_ = .dma k → st = 0 →
        let d := s.dma.get {} k
        Accepts (exec (.wraFrame ln f) s) fun t => gone t r ∧ t.mem = s.mem ∧
          t.dma.get {} k = { d with src := d.src + d.wlen, dst := d.dst + d.wlen, left := d.left - d.wlen, wait := 0, wlen := 0, stop := false })) ∧
    (s.arrives ln 6 f →
      let p (r : OutReq) : Bool := match r.by_ with
        | .slot m => s.slotFor f m
        | _ => false
      (∀ r m, ends p = some r → r.by_ = .slot m → sent (.mbxaFrame ln f) s r m st) ∧
      (ends p = none → (st ≠ 5 ∨ ∀ m, m < 16 → s.slotFor f m = false) → late (.mbxaFrame ln f)) ∧
      (ends p = none → st = 5 → (∃ m, m < 16 ∧ s.slotFor f m = true) → Accepts (exec (.mbxaFrame ln f) s) fun t =>
        (∀ m, m < 16 → t.bit F.FAB_MTX_STAT.aborted 0 m = (s.bit F.FAB_MTX_STAT.aborted 0 m || s.slotFor f m)) ∧
        KeepsRegs s t [.FAB_MTX_STAT] ∧ t = { s with regs := t.regs, net := t.net, resp := t.resp })) ∧
    (∀ x : BitVec 12,
      let r? := s.net.reqs.find? fun r => r.lane == ln.val && r.txid == x.toNat
      (r? = none → NoEvent (exec (.requestTimeout ln x) s) s) ∧
      (∀ r, r? = some r → s.lnSt ln ≠ 5 →
        let due := r.due + s.tickUnits crossTicks + 1
        let u := s.run (s.ticksTo due)
        let i := Instr.requestTimeout ln x
        (Tag.after due u.now = true → NoEvent (exec i s) s) ∧
        (Tag.after due u.now = false → (∀ c n, r.by_ = .load c n → loaded i u r c (1, 0)) ∧
          (∀ c a, r.by_ = .store c a → stored i u r c [BitVec.ofNat 32 a]) ∧ (∀ m, r.by_ = .slot m → sent i u r m 7))))) ∧
  (∀ (m : Master) (sl : Fin 16) (v : Word) (s : State),
    let i := Instr.fabricMailboxSend m sl v
    let own := (s.req m).admits { ten := s.f F.FAB_MTX_CFG.owner 0 sl, sec := s.bit F.FAB_MTX_CFG.sec 0 sl }
    let on := s.bit F.FAB_MTX_CFG.en 0 sl && !s.bit F.FAB_MTX_STAT.busy 0 sl
    let node := s.f F.FAB_MTX_CFG.node 0 sl
    (own = true → on = false → TurnedAway (exec i s) s) ∧
    (own = true → on = true → s.laneTo node = none → Accepts (exec i s) fun t => t.rd .FAB_MTX 0 sl = v ∧ t.bit F.FAB_MTX_STAT.lost 0 sl = true ∧
      t.bit F.FAB_MTX_STAT.busy 0 sl = false ∧ KeepsRegs s t [.FAB_MTX, .FAB_MTX_STAT] ∧ t = { s with regs := t.regs, resp := t.resp }) ∧
    (∀ ln, own = true → on = true → s.laneTo node = some ln → Accepts (exec i s) fun t => t.rd .FAB_MTX 0 sl = v ∧
      t.bit F.FAB_MTX_STAT.busy 0 sl = true ∧
      t.net.reqs = s.net.reqs ++ [{ txid := s.net.nextTx, lane := ln, by_ := .slot sl, due := s.now + BitVec.ofNat 64 (16000 * s.f F.FAB_CTL.tmo) }] ∧
      (t.lastSent ln 5 fun g => g.dst = BitVec.ofNat 8 node ∧ g.txid = BitVec.ofNat 12 s.net.nextTx ∧
        g.payload = (List.range 8).flatMap fun w => toBytes 4 (if w = 0 then v else s.rd .FAB_MTX 0 sl w).toNat) ∧
      KeepsRegs s t [.FAB_MTX, .FAB_MTX_STAT] ∧ t = { s with regs := t.regs, net := t.net, resp := t.resp }) ∧
    (own = false → ∃ t, exec i s = .next t ∧ t.resp.err = true ∧ KeepsRegs s t lossRegs ∧ t = { s with regs := t.regs, log := t.log, resp := t.resp }))
/-- The frames of the link itself, and ETH. The events of a link and T0's commands to it; `u` is the state at an event's instant. -/
def Obligations.LinksFollowTheirFramesAndEvents : Prop :=
  (∀ (ln : FabIx) (f : Frame) (s : State),
    let link (t : State) : Prop := t = { s with net := t.net, resp := t.resp }
    let buf := s.net.buf.get [] ln
    let rest := if f.ackV then buf.filter fun e => seqAfter e.2.seq.toNat f.ack.toNat else buf
    let clear : Prop := (∀ r ∈ s.net.reqs, r.lane ≠ ln.val) ∧ buf = [] ∧ s.noneWaits ln
    let replays (i : Instr) (u : State) (b : List (Nat × Frame)) (n : Nat) : Prop :=
      (b = [] → Accepts (exec i s) fun t => t = { u with net := t.net, resp := t.resp }) ∧
      (b ≠ [] → n + 1 < 8 → Accepts (exec i s) fun t => t.f F.FAB_LCNT2.replays 0 ln = min (s.f F.FAB_LCNT2.replays 0 ln + 1) 0xFFFF ∧
        t.net.reps.get 0 ln = n + 1 ∧ t.net.buf.get [] ln = b ∧ KeepsRegs u t [.FAB_LCNT2] ∧
        t = { u with regs := t.regs, net := t.net, resp := t.resp }) ∧
      (b ≠ [] → 8 ≤ n + 1 → Accepts (exec i s) fun t => (t.lnSt ln = 0 ∨ t.lnSt ln = 6) ∧ t.bit F.FAB_LSTAT.surprise 0 ln = true ∧
        t.net.buf.get [] ln = [])
    (f.wf = true → s.lnSt ln < 2 ∨ 5 < s.lnSt ln → ∀ j : JoinInfo, ∀ i ∈ ([.rdFrame ln f, .rdrFrame ln f, .wrFrame ln f, .wraFrame ln f,
      .mbxFrame ln f, .mbxaFrame ln f, .ethFrame ln f, .joinFrame ln f j, .leaveFrame ln f, .nakFrame ln f, .idleFrame ln f] : List Instr),
      NoEvent (exec i s) s) ∧
    (f.wf = true → s.lnSt ln = 4 → f.plen.toNat ≤ 256 → f.intact = false → s.net.naked.get false ln = false → ∀ j : JoinInfo,
      ∀ i ∈ ([.rdFrame ln f, .rdrFrame ln f, .wrFrame ln f, .wraFrame ln f, .mbxFrame ln f, .mbxaFrame ln f, .ethFrame ln f, .joinFrame ln f j,
        .leaveFrame ln f, .nakFrame ln f, .idleFrame ln f] : List Instr),
      Accepts (exec i s) fun t => t.net.naked.get false ln = true ∧ (∃ g, t.net.last.get none ln = some (11, g)) ∧ link t) ∧
    (s.arrives ln 0 f → s.lnSt ln = 4 → s.noneWaits ln → Accepts (exec (.idleFrame ln f) s) fun t => t.net.buf.get [] ln = rest ∧
      (∀ vc, vc < 4 → t.net.used.get 0 (4 * ln + vc) = s.net.used.get 0 (4 * ln + vc) - f.credit.toNat / 256 ^ vc % 256) ∧ link t) ∧
    (s.arrives ln 11 f → s.noneWaits ln → replays (.nakFrame ln f) s rest (if rest.length < buf.length then 0 else s.net.reps.get 0 ln)) ∧
    (s.net.waits.get [] ln = [] → s.lnSt ln ≠ 5 → NoEvent (exec (.replayTimeout ln) s) s) ∧
    (∀ w ws, s.net.waits.get [] ln = w :: ws → 1 ≤ s.lnSt ln → s.lnSt ln ≤ 4 →
      replays (.replayTimeout ln) (s.run (w + 2000 - s.clk.raw)) buf (s.net.reps.get 0 ln)) ∧
    (s.arrives ln 10 f → s.lnSt ln = 4 →
      ((∃ r ∈ s.net.reqs, r.lane = ln.val) → s.net.lvOut.get false ln = false → Accepts (exec (.leaveFrame ln f) s) fun t => t.lnSt ln = 5 ∧
        t.net.lvIn.get false ln = true ∧ KeepsRegs s t linkRegs) ∧
      (clear → Accepts (exec (.leaveFrame ln f) s) fun t => t.lnSt ln = 0 ∧ KeepsRegs s t linkRegs)) ∧
    (∀ i : JoinInfo, s.arrives ln 9 f → s.lnSt ln = 2 →
      (i.idOk = false → clear → Accepts (exec (.joinFrame ln f i) s) fun t => t.bit F.FAB_LSTAT.id_err 0 ln = true ∧
        t.f F.FAB_LSTAT.loss 0 ln = min (s.f F.FAB_LSTAT.loss 0 ln + 1) 15 ∧
        t.lnSt ln = (if 2 ≤ (recentMm s.now (s.net.losses.get [] ln)).length then 6 else 0) ∧ KeepsRegs s t linkRegs) ∧
      (i.idOk = true → Accepts (exec (.joinFrame ln f i) s) fun t => t.f F.FAB_LSTAT.partner 0 ln = i.partner.toNat ∧
        t.lnSt ln = (if s.bit F.FAB_NODE.valid || (i.assign.isSome && ln.val == s.f F.FAB_CTL.ts_lane) then
          (if s.timeSt = 1 ∧ (i.locked || s.net.told.get false ln) = true then 4 else 3) else 2) ∧
        KeepsRegs s t (.FAB_NODE :: linkRegs))) ∧
    (s.arrives ln 8 f →
      let w := f.addr.toNat
      let part := (if w / 2 ^ 12 % 8 = 0 then [] else s.net.part.get [] ln) ++ f.payload
      (w / 2 ^ 15 % 2 = 0 → Accepts (exec (.ethFrame ln f) s) fun t => t.net.part.get [] ln = part ∧ t.net.drops = s.net.drops ∧ link t) ∧
      (w / 2 ^ 15 % 2 = 1 → part.length ≠ w % 2 ^ 12 → Accepts (exec (.ethFrame ln f) s) fun t => t.net.part.get [] ln = [] ∧
        t.net.drops = s.net.drops + 1 ∧ link t))) ∧
  (∀ (ln : FabIx) (s : State),
    let st := s.lnSt ln
    let only (t : State) : Prop := KeepsRegs s t linkRegs ∧ t.mem = s.mem ∧ t.banks = s.banks
    let released (t : State) : Prop := t.net.reqs = s.net.reqs.filter (fun r => r.lane != ln.val) ∧ t.net.buf.get [] ln = [] ∧
      t.net.seqTx.get 0 ln = 0 ∧ t.net.seqRx.get 0 ln = 0 ∧ t.mem = s.mem ∧ t.banks = s.banks
    let lost (i : Instr) (u : State) : Prop := Accepts (exec i s) fun t => t.f F.FAB_LSTAT.loss 0 ln = min (s.f F.FAB_LSTAT.loss 0 ln + 1) 15 ∧
      t.clk = u.clk ∧ t.bit F.FAB_LSTAT.surprise 0 ln = true ∧ t.lnSt ln = (if 2 ≤ (recentMm u.now (s.net.losses.get [] ln)).length then 6 else 0) ∧ released t
    let refused (i : Instr) : Prop := ∃ t, exec i s = .next t ∧ t.resp.err = true ∧ KeepsRegs s t lossRegs ∧
      t = { s with regs := t.regs, log := t.log, resp := t.resp }
    (st = 0 → (s.f F.FAB_CTL.lane_en).testBit ln = true → Accepts (exec (.signalDetect ln) s) fun t => t.lnSt ln = 1 ∧ only t) ∧
    (st ≠ 0 ∨ (s.f F.FAB_CTL.lane_en).testBit ln = false → NoEvent (exec (.signalDetect ln) s) s) ∧
    (∀ inv, (st = 1 → Accepts (exec (.trainingDone ln inv) s) fun t => t.lnSt ln = 2 ∧ t.bit F.FAB_LSTAT.pol_inv 0 ln = inv ∧
        t.lastSent ln 9 (fun _ => True) ∧ only t) ∧
      (st ≠ 1 → NoEvent (exec (.trainingDone ln inv) s) s)) ∧
    (1 ≤ st → st ≤ 5 → lost (.linkSignalLoss ln) s) ∧ (st = 0 ∨ 5 < st → NoEvent (exec (.linkSignalLoss ln) s) s) ∧
    (2 ≤ st → st ≤ 5 → lost (.linkFrameTimeout ln) (s.run (s.net.heard.get 0 ln + 2000 - s.clk.raw))) ∧ (st < 2 ∨ 5 < st → NoEvent (exec (.linkFrameTimeout ln) s) s) ∧
    (let end_ := s.net.drain.get 0 ln
     let u := s.run (s.ticksTo end_)
     (st = 5 → Tag.after end_ u.now = false → Accepts (exec (.drainTimeout ln) s) fun t => t.lnSt ln = 0 ∧ t.clk = u.clk ∧
       t.bit F.FAB_LSTAT.drain_to 0 ln = true ∧ released t) ∧
     (st = 5 → Tag.after end_ u.now = true → NoEvent (exec (.drainTimeout ln) s) s)) ∧
    (st ≠ 5 → NoEvent (exec (.drainTimeout ln) s) s) ∧
    (Accepts (exec (.uncorrectableCodeword ln) s) fun t => t.f F.FAB_LCNT.uncorr 0 ln = min (s.f F.FAB_LCNT.uncorr 0 ln + 1) 0xFFFF ∧
      KeepsRegs s t [.FAB_LCNT] ∧ t = { s with regs := t.regs, net := t.net, resp := t.resp }) ∧
    (∀ m : Master,
      ((s.req m).isT0 = true → st = 4 → s.net.lvIn.get false ln = false → Accepts (exec (.leave m ln) s) fun t => t.lnSt ln = 5 ∧ only t) ∧
      ((s.req m).isT0 = true → st ≠ 4 → NoEvent (exec (.leave m ln) s) s) ∧
      ((s.req m).isT0 = true → st = 6 → Accepts (exec (.restart m ln) s) fun t => t.lnSt ln = 0 ∧ only t) ∧
      ((s.req m).isT0 = true → st ≠ 6 → NoEvent (exec (.restart m ln) s) s) ∧
      ((s.req m).isT0 = false → refused (.leave m ln) ∧ refused (.restart m ln))))
/-! ### Network queues, CAN, gate drivers -/

/-- Frames from outside, and CAN_BUS_OFF_RECOVERY. FRAME_LAUNCH and TAIL_ADVANCE. -/
def Obligations.NetworkRingsSendAndReceive : Prop :=
  (∀ s : State,
    let takes (o : Out) (can : Bool) (q : Nat) (bs : List Byte) (tag : Tag) (err : Bool) : Prop :=
      let fl (f : Fld) : Fld := ringFld can f
      let a := s.descAt can q
      let b := (s.word a).toNat
      let kept := bs.take (s.qf can F.ETH_Q_CFG.buf_len q)
      let cl := decide (s.qf can F.ETH_Q_CFG.buf_len q < bs.length)
      let h := s.qf can F.ETH_Q_HEAD.head q + 1
      (s.ringReady can q = true → (∀ l w, (s.cFlip l w).2 = 0 ∧ s.nflips l = 0) → 0x11800000 ≤ b → b + kept.length ≤ 0x12000000 → b + kept.length ≤ a ∨ a + 16 ≤ b → Accepts o fun t =>
        (∀ x, t.byte x = if b ≤ x ∧ x < b + kept.length then kept.getD (x - b) 0
          else if a + 4 ≤ x ∧ x < a + 8 then (toBytes 4 (descWord (s.word (a + 4)).toNat kept.length cl false err)).getD (x - (a + 4)) 0
          else if a + 8 ≤ x ∧ x < a + 16 then (toBytes 8 tag.toNat).getD (x - (a + 8)) 0 else s.byte x) ∧
        t.qf can F.ETH_Q_HEAD.head q = (if s.qf can F.ETH_Q_CFG.size q ≤ h then 0 else h % 1024) ∧
        t.bit (fl F.ETH_Q_STAT.clamp) 0 q = (s.bit (fl F.ETH_Q_STAT.clamp) 0 q || cl) ∧
        KeepsRegs s t [ringReg can .ETH_Q_HEAD, ringReg can .ETH_Q_STAT] ∧
        t = { s with mem := t.mem, ram := t.ram, regs := t.regs, net := t.net, resp := t.resp }) ∧
      (s.ringReady can q = false → Accepts o fun t => t.f (fl F.ETH_Q_STAT.drop_cnt) 0 q = min (s.f (fl F.ETH_Q_STAT.drop_cnt) 0 q + 1) 0xFFFF ∧
        KeepsRegs s t [ringReg can .ETH_Q_STAT] ∧ t = { s with regs := t.regs, resp := t.resp })
    (∀ (port : Fin 22) (f : NetFrame),
      let o := exec (.ethernetFrameReceive port f) s
      let e? := s.net.fwd.find? fun e => e.1 == f.dst && e.2.1 == f.vid.toNat
      let shut := s.net.stopped || (decide (14 ≤ port.val) && !s.tenEn (port.val - 14))
      let dropped : Prop := Accepts o fun t => t = { s with net := { s.net with drops := s.net.drops + 1 }, resp := t.resp }
      (shut = true → NoEvent o s) ∧
      (shut = false → f.fcsOk = false ∨ 2048 < f.bytes.length ∨ e? = none → dropped) ∧
      (∀ e (d : Fin 22), shut = false → f.fcsOk = true → f.bytes.length ≤ 2048 → e? = some e →
        (∀ k : Fin 22, (k ≠ port ∧ e.2.2.testBit k = true) ↔ k = d) →
        (4 ≤ d.val → d.val < 14 → Accepts o fun t => t.net.outs.get (0, []) d = ((s.net.outs.get (0, []) d).1 + 1, f.bytes) ∧
          (∀ k, k ≠ d.val → t.net.outs.get (0, []) k = s.net.outs.get (0, []) k) ∧ t = { s with net := t.net, resp := t.resp }) ∧
        (14 ≤ d.val → s.tenEn (d.val - 14) = false → dropped) ∧
        (14 ≤ d.val → s.tenEn (d.val - 14) = true → takes o false (s.rxRing (d.val - 14)) f.bytes f.tag false))) ∧
    (∀ (k : Fin 8) (f : NetFrame),
      let o := exec (.canFrameReceive k f) s
      ((s.net.stopped || s.net.busOff.get false k) = true → NoEvent o s) ∧
      ((s.net.stopped || s.net.busOff.get false k) = false → takes o true (2 * k + 1) f.bytes f.tag (!f.fcsOk))) ∧
    (∀ k : Fin 8, Accepts (exec (.canBusOffRecovery k) s) fun t => t.net.busOff.get false k = false ∧
      (∀ j, j ≠ k.val → t.net.busOff.get false j = s.net.busOff.get false j) ∧ t = { s with net := { s.net with busOff := t.net.busOff }, resp := t.resp })) ∧
  (∀ (can : Bool) (q : Fin 64) (s : State), ringWf can q = true →
    let fl (f : Fld) : Fld := ringFld can f
    let i := Instr.frameLaunch can q
    let own : Owner := if can then s.owner (.netq true q) else { ten := q / 8, sec := false }
    let may := !s.net.stopped && ringSends can q && !(can && s.net.busOff.get false (q.val / 2)) && s.tenEn (if can then own.ten else q.val / 8) &&
      s.ringReady can q
    let a := s.descAt can q
    let w := (s.word (a + 4)).toNat
    let g := Tag.ofWords (s.word (a + 12)) (s.word (a + 8))
    let late := g != 0 && Tag.before g (s.net.reach.get 0 (64 * can.toNat + q))
    let waits := g != 0 && Tag.before s.now g && !late
    let len := min (w % 2 ^ 12) (min (s.qf can F.ETH_Q_CFG.buf_len q) 2048)
    let drop := late && w.testBit 15
    let h := s.qf can F.ETH_Q_HEAD.head q + 1
    let bs := s.bytes (s.word a).toNat len
    let n := 32 + q.val / 2
    (may = false ∨ waits = true → NoEvent (exec i s) s) ∧
    (may = true → waits = false → Accepts (exec i s) fun t =>
      t.qf can F.ETH_Q_HEAD.head q = (if s.qf can F.ETH_Q_CFG.size q ≤ h then 0 else h % 1024) ∧
      t.bit (fl F.ETH_Q_STAT.clamp) 0 q = (s.bit (fl F.ETH_Q_STAT.clamp) 0 q || len != w % 2 ^ 12) ∧
      t.bit (fl F.ETH_Q_STAT.late) 0 q = (s.bit (fl F.ETH_Q_STAT.late) 0 q || late) ∧
      (can = true ∨ drop = true → (∀ l w, (s.cFlip l w).2 = 0 ∧ s.nflips l = 0) → (∀ x, t.byte x = if a + 4 ≤ x ∧ x < a + 8 then
          (toBytes 4 (descWord w len (len != w % 2 ^ 12) late drop)).getD (x - (a + 4)) 0 else s.byte x) ∧
        t.net.outs = (if drop then s.net.outs else s.net.outs.set (0, []) n ((s.net.outs.get (0, []) n).1 + 1, bs)) ∧
        KeepsRegs s t [ringReg can .ETH_Q_HEAD, ringReg can .ETH_Q_STAT] ∧
        t = { s with mem := t.mem, ram := t.ram, regs := t.regs, net := t.net, resp := t.resp }) ∧
      (can = false → drop = false → (s.net.fwd.find? fun e => e.1 == (frameKey bs).1 && e.2.1 == (frameKey bs).2) = none →
        t.net.drops = s.net.drops + 1 ∧ t.net.outs = s.net.outs)) ∧
    (∀ (m : Master) (v : Word),
      ((s.req m).admits own = true → Accepts (exec (.tailAdvance m can q v) s) fun t => t.qf can F.ETH_Q_TAIL.tail q = v.toNat % 1024 ∧
        (∀ k : Nat, k ≠ q → t.qf can F.ETH_Q_TAIL.tail k = s.qf can F.ETH_Q_TAIL.tail k) ∧ KeepsRegs s t [ringReg can .ETH_Q_TAIL] ∧
        t = { s with regs := t.regs, net := { s.net with reach := t.net.reach }, resp := t.resp }) ∧
      ((s.req m).admits own = false → ∃ t, exec (.tailAdvance m can q v) s = .next t ∧ t.resp.err = true ∧ KeepsRegs s t lossRegs ∧
        t = { s with regs := t.regs, log := t.log, resp := t.resp })))
/-- KEY_INSTALL and the SPI masters; `u` is the state at an event's instant. -/
def Obligations.KeysAndSpiComplete : Prop :=
  ∀ s : State,
    let refused (i : Instr) : Prop := ∃ t, exec i s = .next t ∧ t.resp.err = true ∧ KeepsRegs s t lossRegs ∧
      t = { s with regs := t.regs, log := t.log, resp := t.resp }
    (∀ (m : Master) (sa : Nat) (key : List Word), keyWf key = true →
      ((s.req m).isT0 = true → Accepts (exec (.keyInstall m sa key) s) fun t => t.net.keys.get [] sa = key ∧
        (∀ k, k ≠ sa → t.net.keys.get [] k = s.net.keys.get [] k) ∧ t = { s with net := { s.net with keys := t.net.keys }, resp := t.resp }) ∧
      ((s.req m).isT0 = false → refused (.keyInstall m sa key))) ∧
    (∀ (p : PackIx) (k : Fin 4),
      let on := s.bit F.SPI_CTL.en p k && s.fieldUp && s.pwr.mode != 2
      let busy := s.bit F.SPI_STAT.busy p k
      let d := s.f F.SPI_CTL.div p k
      let bits := (s.f F.SPI_CTL.nw_m1 p k + 1) * (s.f F.SPI_CTL.bits_m1 p k + 1)
      let starts (i : Instr) (u : State) : Prop :=
        (on = false → Accepts (exec i s) fun t => t = { u with resp := t.resp }) ∧
        (on = true → busy = true → Accepts (exec i s) fun t => t.bit F.SPI_STAT.ovr p k = true ∧ t.bit F.SPI_STAT.busy p k = true ∧
          KeepsRegs u t [.SPI_STAT] ∧ t = { u with regs := t.regs, resp := t.resp }) ∧
        (on = true → busy = false → Accepts (exec i s) fun t => t.bit F.SPI_STAT.busy p k = true ∧
          t.net.spi.get {} (spiKey p k) = {
            tx := (List.range (s.f F.SPI_CTL.nw_m1 p k + 1)).map (fun w => s.rd .SPI_TX p k w)
            tag := u.now + u.tickUnits d
            fin := u.clk.raw + (2 * d + ((2 * bits - 1) * d + 1) / 2) } ∧
          (∀ j, j ≠ spiKey p k → t.net.spi.get {} j = s.net.spi.get {} j) ∧
          KeepsRegs u t [.SPI_STAT] ∧ t = { u with regs := t.regs, net := { u.net with spi := t.net.spi }, resp := t.resp })
      let trig := s.f F.SPI_CTL.trig p k
      let x := s.pset p (s.f F.SPI_CTL.set p k)
      let counts := s.bit F.PWM_SET_STAT.cnt_run p (s.f F.SPI_CTL.set p k) && s.bit F.PWM_STATUS.clk_ok p && !x.restart
      let due := x.bk + min (s.f F.SPI_TRG.off p k) (x.ticks - 1)
      let came := s.net.spiEv.get 0 (spiKey p k)
      (∀ m : Master, ((s.req m).admits (s.owner (.pack p)) = true → starts (.spiGo m p k) s) ∧
        ((s.req m).admits (s.owner (.pack p)) = false → refused (.spiGo m p k))) ∧
      (trig = 2 → came ≠ 0 → starts (.spiTrigger p k) { s with net := { s.net with spiEv := s.net.spiEv.upd 0 (spiKey p k) (fun e => e - 1) } }) ∧
      (trig = 1 → counts = true → s.clk.raw ≤ due → starts (.spiTrigger p k) (s.run (due - s.clk.raw))) ∧
      (trig ≠ 1 ∧ trig ≠ 2 ∨ trig = 2 ∧ came = 0 ∨ trig = 1 ∧ (counts = false ∨ due < s.clk.raw) → NoEvent (exec (.spiTrigger p k) s) s) ∧
      (∀ rx : List Word, rxWf rx = true →
        let u := s.run ((s.net.spi.get {} (spiKey p k)).fin - s.clk.raw)
        (busy = false → NoEvent (exec (.spiTransferEnd p k rx) s) s) ∧
        (busy = true → Accepts (exec (.spiTransferEnd p k rx) s) fun t => t.bit F.SPI_STAT.busy p k = false ∧ t.bit F.SPI_STAT.done p k = true ∧
          t.f F.SPI_STAT.xfer_cnt p k = min (s.f F.SPI_STAT.xfer_cnt p k + 1) 0xFFFF ∧
          t.pairAt .SPI_TAG_LO .SPI_TAG_HI p k = (s.net.spi.get {} (spiKey p k)).tag ∧
          (∀ w v, w ≤ s.f F.SPI_CTL.nw_m1 p k → rx[w]? = some v → t.rd .SPI_RX p k w = BitVec.ofNat 32 (v.toNat % 2 ^ (s.f F.SPI_CTL.bits_m1 p k + 1))) ∧
          KeepsRegs u t [.SPI_RX, .SPI_STAT, .SPI_TAG_LO, .SPI_TAG_HI] ∧ t = { u with regs := t.regs, resp := t.resp })))

/-! ### Power states, supplies, pace, resets -/

/-- The power states. -/
def Obligations.LowPowerStatesAreEnteredAndLeft : Prop :=
  ∀ s : State,
    (∀ m : Master, ∀ e ∈ ([(.den m, 2), (.kennel m, 3)] : List (Instr × Nat)),
      ((s.req m).isT0 = true → s.denOk = true → Accepts (exec e.1 s) fun t => t.bit F.PWR_STAT.busy = true ∧ t.pwr.target = some e.2 ∧
        t.pwr.past = false ∧ t.pwr.wake = false ∧ t.pwr.mode = 1 ∧ t.net.stopped = true ∧ (∀ n : SlotIx, t.bit F.TIME_ACT_CTL.arm 0 n = false) ∧
        (∀ n : Fin 8, t.bit F.PWR_SENS_CTL.en 0 n = false) ∧ (∀ ln : FabIx, t.lnSt ln ≠ 4) ∧ t.mem = s.mem ∧ t.banks = s.banks) ∧
      ((s.req m).isT0 = true → s.denOk = false → ∃ t, exec e.1 s = .next t ∧ t.resp.err = true ∧ t.bit F.PWR_STAT.refused = true ∧
        KeepsRegs s t [.PWR_STAT] ∧ t = { s with regs := t.regs, resp := t.resp }) ∧
      ((s.req m).isT0 = false → ∃ t, exec e.1 s = .next t ∧ t.resp.err = true ∧ KeepsRegs s t lossRegs ∧
        t = { s with regs := t.regs, log := t.log, resp := t.resp })) ∧
    (s.pwr.target = none ∨ s.pwr.past = true → NoEvent (exec .pointOfNoReturn s) s) ∧
    (s.pwr.target = none ∨ s.pwr.past = false → NoEvent (exec .lowPowerEntryComplete s) s) ∧
    (∀ g, s.pwr.target = some g →
      (s.pwr.past = false → Accepts (exec .pointOfNoReturn s) fun t => t.pwr.past = true ∧ t.pwr.target = some g ∧ (∀ c : CoreIx, (t.core c).held = true) ∧
        t.fieldUp = false ∧ t.memUp = false ∧ (∀ p : PackIx, t.bit F.PWM_STATUS.clk_ok p = false ∧ t.bit F.PWM_STATUS.clk_lost p = true) ∧
        t.clk.stopped = true ∧ t.mem = s.mem ∧ ((∀ ln : FabIx, s.lnSt ln ≠ 5) → t.clk.raw = s.clk.raw ∧
          t.clk.tag = s.clk.aoTag + BitVec.ofNat 64 (16 * aoTicks (max s.clk.aoCycles (64 * (s.clk.raw - s.clk.aoAt) / 1953125))))) ∧
      (s.pwr.past = true → Accepts (exec .lowPowerEntryComplete s) fun t => t.bit F.PWR_STAT.busy = false ∧ t.pwr.mode = g ∧ t.pwr.target = none ∧
        (g = 3 → t.lsh = {}) ∧ (s.pwr.wake = true → t.pwr.wake = true ∧ t.pwr.fldEn = true) ∧
        (s.pwr.wake = false → (∀ n : Fin 8, s.levelWake n = false) → t.pwr.wake = false ∧
          (g = 3 → t.pwr.fldEn = false ∧ t.pwr.coreEn = false) ∧ (g ≠ 3 → t.pwr.coreEn = s.bit F.PWR_DEN_CTL.trc_ret)) ∧ t.mem = s.mem)) ∧
    (let due := s.pwr.mode == 2 && !s.pwr.wake && s.f F.PWR_DEN_CTL.den_to != 0
     (due = false → NoEvent (exec .denTimeout s) s) ∧
     (due = true → Accepts (exec .denTimeout s) fun t => t.pwr.mode = 3 ∧
       t.clk = (s.run (s.aoRaw (s.pwr.entryCyc + 32768 * s.f F.PWR_DEN_CTL.den_to) - s.clk.raw)).clk ∧ t.bit F.PWR_AO_CAUSE.den_to = true ∧ t.lsh = {} ∧
       t.pwr.fldEn = false ∧ t.pwr.coreEn = false ∧ t.mem = s.mem)) ∧
    (s.rd .PWR_AO_WAKE = 0 ∨ s.pwr.mode < 2 → NoEvent (exec .wakeTimer s) s) ∧
    (s.rd .PWR_AO_WAKE ≠ 0 → s.pwr.mode = 2 ∨ s.pwr.mode = 3 → s.pwr.past = true → s.pwr.target = none → Accepts (exec .wakeTimer s) fun t =>
      let u := s.run (s.aoRaw (s.pwr.entryCyc + (s.rd .PWR_AO_WAKE).toNat) - s.clk.raw)
      t.bit F.PWR_AO_CAUSE.timer = true ∧ t.pwr.wake = true ∧ t.pwr.fldEn = true ∧
      (s.pwr.wake = false → t.f F.PWR_AO_CAUSE.from_ = s.pwr.mode ∧ t.pairAt .PWR_AO_TAG_LO .PWR_AO_TAG_HI = u.now) ∧
      KeepsRegs u t [.PWR_AO_CAUSE, .PWR_AO_TAG_LO, .PWR_AO_TAG_HI] ∧ t = { u with regs := t.regs, pwr := t.pwr, resp := t.resp })

/-- Whistle pins, supplies and pace; `u` is the state at an event's instant. -/
def Obligations.PinsSuppliesAndPaceComplete : Prop :=
  ∀ s : State,
    (∀ (n : Fin 8) (level : Bool) (g : Tag),
      let i := Instr.whistleEdge n level g
      let d := s.f F.PWR_WHISTLE.det 0 n
      let hit := ((level && (d == 0 || d == 2 || d == 3)) || (!level && (d == 1 || d == 2 || d == 4))) && s.bit F.PWR_WHISTLE.live 0 n != level
      let on := s.bit F.PWR_WHISTLE.en 0 n
      let cyc := s.aoFirst (s.rawOf g)
      let u := s.run (((s.clk.aoAt : Int) + aoOff (cyc + s.f F.PWR_WHISTLE.flt 0 n - 1)).toNat - s.clk.raw)
      let raised (t : State) (x : Tag) : Prop := ∀ k : Fin 320,
        if s.lf F.PLSH_PROD.pkind k = 7 ∧ s.lf F.PLSH_PROD.pidx k = n ∧ s.lf F.PLSH_ATTR.en k ≠ 0 then
          ∃ xs ys, s.lsh.flight.get [] k = xs ++ ys ∧ t.lsh.flight.get [] k = xs ++ ⟨0, x, 0⟩ :: ys ∧
            (∀ e ∈ xs, Tag.before x e.tag = false ∧ (x = e.tag → e.rank = 0)) ∧
            (∀ e, ys.head? = some e → Tag.before x e.tag = true ∨ (x = e.tag ∧ 0 < e.rank))
        else t.lsh.flight.get [] k = s.lsh.flight.get [] k
      (on = false → NoEvent (exec i s) s) ∧
      (on = true → hit = false → Accepts (exec i s) fun t => t.bit F.PWR_WHISTLE.live 0 n = level ∧
        t.bit F.PWR_WHISTLE.seen 0 n = s.bit F.PWR_WHISTLE.seen 0 n ∧ KeepsRegs u t [.PWR_WHISTLE] ∧ t = { u with regs := t.regs, resp := t.resp }) ∧
      (on = true → hit = true → s.pwr.mode = 1 → s.pwr.target = none → s.pwr.past = false → Accepts (exec i s) fun t =>
        t.bit F.PWR_WHISTLE.live 0 n = level ∧ t.bit F.PWR_WHISTLE.seen 0 n = true ∧ raised t g ∧
        KeepsRegs u t [.PWR_WHISTLE] ∧ t = { u with regs := t.regs, lsh := t.lsh, resp := t.resp }) ∧
      (on = true → hit = true → s.pwr.mode = 2 ∨ s.pwr.mode = 3 → s.pwr.target = none → s.pwr.past = true →
        let may := s.bit (if s.pwr.mode = 3 then F.PWR_WHISTLE.wake_ken else F.PWR_WHISTLE.wake_den) 0 n
        (may = true → Accepts (exec i s) fun t => t.nbit .PWR_AO_CAUSE n = true ∧ t.pwr.wake = true ∧ t.pwr.fldEn = true ∧ t.mem = s.mem) ∧
        (may = false → Accepts (exec i s) fun t => t.pwr = s.pwr ∧ (s.pwr.mode = 3 → t.lsh = s.lsh) ∧
          (s.pwr.mode = 2 → raised t (s.clk.aoTag + BitVec.ofInt 64 (16 * aoOff cyc))) ∧ KeepsRegs u t [.PWR_WHISTLE] ∧
          t = { u with regs := t.regs, lsh := t.lsh, resp := t.resp }))) ∧
    (∀ core : Bool,
      let g := core.toNat
      let waits := if core then s.pwr.coreEn && !s.pwr.coreOk else s.pwr.fldEn && !s.pwr.fldOk
      let n := s.pwr.tries.get 0 g + 1
      (waits = false → NoEvent (exec (.supplyOk core) s) s ∧ NoEvent (exec (.supplyOkTimeout core) s) s) ∧
      (waits = true → Accepts (exec (.supplyOk core) s) fun t => t.pwr.tries.get 0 g = 0 ∧
        t.pwr.enAt = (if core || s.pwr.coreEn then s.pwr.enAt else s.pwr.enAt.set 0 1 s.clk.raw) ∧ t = { s with resp := t.resp, pwr := { s.pwr with
        fldOk := s.pwr.fldOk || !core, coreOk := s.pwr.coreOk || core, coreEn := s.pwr.coreEn || !core, tries := t.pwr.tries, enAt := t.pwr.enAt } }) ∧
      (waits = true → Accepts (exec (.supplyOkTimeout core) s) fun t =>
        let u := s.run (s.pwr.enAt.get 0 g + 10000000 - s.clk.raw)
        let off := decide (3 ≤ n) && s.pwr.mode == 3
        t.pwr.fldEn = (s.pwr.fldEn && core && !off) ∧ t.pwr.coreEn = (s.pwr.coreEn && !core) ∧ t.pwr.fldOk = (s.pwr.fldOk && !off) ∧
        t.pwr.enAt.get 0 g = u.clk.raw ∧
        (n < 3 → t.pwr.tries.get 0 g = n ∧ t = { u with pwr := t.pwr, resp := t.resp }) ∧
        (3 ≤ n → t.pwr.tries.get 0 g = 0 ∧ t.bit F.PWR_AO_CAUSE.sup_fault = true ∧ t.pwr.wake = false ∧
          (∃ r, t.pwr.alarms = s.pwr.alarms ++ [(0, r)] ∧ r.a = BitVec.ofNat 32 (14 + 2 * 2 ^ 16)) ∧ KeepsRegs u t [.PWR_AO_CAUSE] ∧
          t = { u with regs := t.regs, pwr := t.pwr, resp := t.resp })) ∧
      (let on := if core then s.pwr.coreEn else s.pwr.fldEn
       (s.pwr.tries.get 0 g = 0 ∨ on = true → NoEvent (exec (.supplyRetry core) s) s) ∧
       (s.pwr.tries.get 0 g ≠ 0 → on = false → Accepts (exec (.supplyRetry core) s) fun t =>
         let u := s.run (s.pwr.enAt.get 0 g + 100000000 - s.clk.raw)
         t.pwr.enAt = s.pwr.enAt.set 0 g u.clk.raw ∧ t = { u with resp := t.resp, pwr := { s.pwr with
           fldEn := s.pwr.fldEn || !core, coreEn := s.pwr.coreEn || core, enAt := t.pwr.enAt } }))) ∧
    (let out := !s.pwr.coreOk || s.pwr.past || decide (2 ≤ s.pwr.mode)
     (out = true → NoEvent (exec .coreBrownOut s) s) ∧
     (out = false → Accepts (exec .coreBrownOut s) fun t => t.pwr.mode = 0 ∧ t.pwr.coreOk = false ∧ t.pwr.coreEn = true ∧ (∀ c : CoreIx, (t.core c).held = true) ∧
       t.f F.PWR_RST_STAT.cause = 3 ∧ t.bit F.PWR_AO_CAUSE.core_bo = true ∧
       (∃ r, t.pwr.alarms = s.pwr.alarms ++ [(0, r)] ∧ r.a = BitVec.ofNat 32 (14 + 3 * 2 ^ 16)) ∧ t.mem = s.mem)) ∧
    (∀ (i : Fin 101) (ps : Nat),
      let c := Instr.paceWindow i ps
      let out := s.nbit .PWR_PACE_STAT (i % 32) 0 (i / 32)
      let step (t : State) : Prop := t.pwr.step.get 0 i = ps % 4096
      let quiet (P : State → Prop) : Prop := Accepts (exec c s) fun t => P t ∧ step t ∧ t = { s with pwr := t.pwr, resp := t.resp }
      (s.pwr.mode ≠ 1 ∨ s.resting i = true → NoEvent (exec c s) s) ∧
      (s.pwr.mode = 1 → s.resting i = false →
        (out = false → ps ≤ 824 → quiet fun t => t.pwr.slow.get 0 i = 0) ∧
        (out = false → 824 < ps → s.pwr.slow.get 0 i = 0 → quiet fun t => t.pwr.slow.get 0 i = 1) ∧
        (out = false → 824 < ps → s.pwr.slow.get 0 i ≠ 0 → Accepts (exec c s) fun t => t.pwr.slow.get 0 i = 0 ∧ step t ∧
          t.nbit .PWR_PACE_STAT (i % 32) 0 (i / 32) = true ∧ t.nbit .PWR_PACE_SEEN (i % 32) 0 (i / 32) = true ∧ t.bit F.PWR_STAT.gov = false ∧
          t.f F.PWR_PACE_CNT.loss = min (s.f F.PWR_PACE_CNT.loss + 1) 0xFFFF ∧
          KeepsRegs s t ([.PWR_PACE_STAT, .PWR_PACE_SEEN, .PWR_PACE_CNT, .PWR_STAT] ++ alarmRegs) ∧ t.mem = s.mem ∧ t.banks = s.banks) ∧
        (out = true → ps < 776 ∨ 824 < ps → quiet fun t => t.pwr.good.get 0 i = 0) ∧
        (out = true → 776 ≤ ps → ps ≤ 824 → s.pwr.good.get 0 i + 1 < 8 → quiet fun t => t.pwr.good.get 0 i = s.pwr.good.get 0 i + 1) ∧
        (out = true → 776 ≤ ps → ps ≤ 824 → 8 ≤ s.pwr.good.get 0 i + 1 → Accepts (exec c s) fun t => t.pwr.good.get 0 i = 0 ∧ step t ∧
          t.nbit .PWR_PACE_STAT (i % 32) 0 (i / 32) = false ∧ KeepsRegs s t [.PWR_PACE_STAT, .PWR_STAT] ∧
          t = { s with regs := t.regs, pwr := t.pwr, resp := t.resp })))

/-- The resets and the start-up order. -/
def Obligations.ResetsAndStartUpComplete : Prop :=
  ∀ s : State,
    let refused (i : Instr) : Prop := ∃ t, exec i s = .next t ∧ t.resp.err = true ∧ KeepsRegs s t lossRegs ∧
      t = { s with regs := t.regs, log := t.log, resp := t.resp }
    let nvOnly (t : State) : Prop := ∀ k, SMap.get (memDefault k) t.mem k = if k < 0x4000000 then SMap.get (memDefault k) s.mem k else memDefault k
    let cleared (t : State) : Prop := (∀ r p i j, r ≠ .MEM_NV_SPARE → t.rd r p i j = resetWord r i) ∧
      (∀ i, i < RegName.MEM_NV_SPARE.row.nI → t.rd .MEM_NV_SPARE 0 i = s.rd .MEM_NV_SPARE 0 i) ∧ nvOnly t ∧
      t = { State.reset with
        pending := s.pending, free := s.free, resp := t.resp, mem := t.mem, ram := s.nvRam, img := { svn := s.img.svn }
        regs := t.regs, fld := s.fld, cmps := keptCmps s.cmps 0 }
    let stops (t : State) (p : Nat) : Prop := ∀ x : SetIx, s.setRunning p x = true → t.bit F.PWM_SET_RUN.en p x = false ∧ t.bit F.PWM_SET_STAT.seq p x = true
    let device (i : Instr) (cause : Nat) : Prop := Accepts (exec i s) fun t => t.pwr.mode = 0 ∧ t.pwr.target = none ∧ (∀ c : CoreIx, (t.core c).held = true) ∧
      (∀ p : PackIx, stops t p) ∧ t.f F.PWR_RST_STAT.cause = cause ∧ t.f F.PWR_RST_STAT.dev_cnt = min (s.f F.PWR_RST_STAT.dev_cnt + 1) 255 ∧
      t.fieldUp = false ∧ t.memUp = false ∧ t.mem = s.mem
    Accepts (exec .powerOnReset s) cleared ∧ (s.pwr.mode ≠ 3 → Accepts (exec .fieldSupplyLoss s) cleared) ∧
    (s.pwr.mode = 3 → NoEvent (exec .fieldSupplyLoss s) s) ∧ device .resetN 1 ∧
    (∀ m : Master, ((s.req m).isT0 = true → device (.device m) 2) ∧ ((s.req m).isT0 = false → refused (.device m) ∧ ∀ p : PackIx, refused (.pack m p)) ∧
      (∀ p : PackIx, (s.req m).isT0 = true →
        let absorbed := (s.f F.PWR_RST_STAT.pack_busy).testBit p || (s.f F.TEN_RST_STAT.busy).testBit (s.owner (.pack p)).ten
        (absorbed = true → NoEvent (exec (.pack m p) s) s) ∧
        (absorbed = false → s.img.prog.all SwapOp.isProg = true → Accepts (exec (.pack m p) s) fun t =>
          (∀ q : PackIx, (t.f F.PWR_RST_STAT.pack_busy).testBit q = (q == p || (s.f F.PWR_RST_STAT.pack_busy).testBit q)) ∧ stops t p ∧
          (∀ a : AxisIx, s.axSt p a = 2 ∨ s.axSt p a = 3 ∨ s.axSt p a = 4 → t.axSt p a = 6) ∧ t.pwr.mode = s.pwr.mode))) ∧
    (∀ (p : PackIx) (e : StartEnv),
      let wait := !(s.f F.PWR_RST_STAT.pack_busy).testBit p || ((List.range 6).any fun x => s.bit F.PWM_SET_STAT.seq p x) ||
        (List.range 18).any fun l => (s.pleg p l).seqOwn
      (wait = true → NoEvent (exec (.packResetDone p e) s) s) ∧
      (wait = false → Accepts (exec (.packResetDone p e) s) fun t => (t.f F.PWR_RST_STAT.pack_done).testBit p = true ∧
        (∀ q : PackIx, (t.f F.PWR_RST_STAT.pack_busy).testBit q = (q != p && (s.f F.PWR_RST_STAT.pack_busy).testBit q)) ∧
        t.nbit .PWR_STAT (24 + p) = false)) ∧
    (∀ e : StartEnv,
      let seq := (List.range 4).any fun p => ((List.range 6).any fun x => s.bit F.PWM_SET_STAT.seq p x) || (List.range 18).any fun l => (s.pleg p l).seqOwn
      let go := s.pwr.fldOk && s.pwr.coreOk && !s.bit F.PWR_RST_STAT.halt && !seq && (s.pwr.mode == 0 || (decide (2 ≤ s.pwr.mode) && s.pwr.wake))
      let halts (n : Nat) : Prop := Accepts (exec (.resetRelease e) s) fun t => t.bit F.PWR_RST_STAT.halt = true ∧ t.f F.PWR_RST_STAT.stage = n ∧ nvOnly t
      (go = false → NoEvent (exec (.resetRelease e) s) s) ∧
      (go = true → 3 < e.paceFails → halts 3) ∧ (go = true → e.paceFails ≤ 3 → e.fusesOk = false → halts 4) ∧
      (go = true → e.paceFails ≤ 3 → e.fusesOk = true → e.badPages = [] → Accepts (exec (.resetRelease e) s) fun t => t.pwr.mode = 1 ∧
        (t.f F.PWR_RST_STAT.stage = 9 ∨ t.f F.PWR_RST_STAT.stage = 11)))

/-! ### The whole block -/

/-- The reset state by the spec's tables. -/
def Obligations.ResetStateFollowsTheTables : Prop :=
  let s := State.reset
  s.pending = [] ∧ s.now = 0 ∧ s.timeSt = 0 ∧ s.rd .TIME_RATE = 0 ∧ (∀ a, 0x10000000 ≤ a → a < 0x12000000 → s.byte a = 0) ∧
  (∀ ln : FabIx, s.lnSt ln = 0) ∧ s.f F.FAB_CTL.tmo = 0x32 ∧
  (∀ q : Fin 64, s.f F.ETH_Q_CFG.size 0 q = 4 ∧ s.f F.ETH_Q_CFG.buf_len 0 q = 0x600 ∧ s.bit F.ETH_Q_CFG.en 0 q = false) ∧
  (∀ (p : PackIx) (k : Fin 4), s.f F.SPI_CTL.div p k = 0x64 ∧ s.f F.SPI_CTL.bits_m1 p k = 7 ∧ s.bit F.SPI_CTL.en p k = false) ∧
  (∀ (p : PackIx) (a : AxisIx), s.axSt p a = 0) ∧
  (∀ (c : CoreIx) (k : Fin 32), s.rd .INT_MASK c k = 0xFFFFFFFF ∧ s.rd .INT_PEND c k = 0) ∧ (∀ c : CoreIx, s.ctxState c 0 = 2) ∧
  (∀ (p : PackIx) (l : LegIx) (high : Bool), s.out p l high = false) ∧ (∀ n : Fin 8, s.bit F.PWR_SENS_CTL.en 0 n = false)

/-- The invariant at reset. -/
def Obligations.InvariantHoldsAtReset : Prop := State.reset.inv = true

/-- Every step keeps the invariant. -/
def Obligations.EveryStepKeepsTheInvariant : Prop :=
  ∀ s t : State, s.inv = true → step s = .next t → t.inv = true

/-- The address map: decoding the address of a register gives the register. -/
def Obligations.RegisterAddressesRoundTrip : Prop :=
  ∀ x : RegAt, x.i < x.r.row.nI → x.j < x.r.row.nJ →
    x.addr % 4 = 0 ∧
    (match x.r.row.blk.space with
     | .pack => x.p < 4 → regAt x.addr = some x
     | .sys => x.p = 0 → regAt x.addr = some x
     | .priv => privAt x.p x.addr = some x)

/-- Decoding of the words that cores and loop engines execute. -/
def Obligations.InstructionWordsDecode : Prop :=
  (∀ (c : CoreIx) (rd ra rb : RegIx),
    (∀ e ∈ intOps, decodeCore c (encR 0 rd ra rb 0 e.1) = some (e.2 c rd ra rb)) ∧
    (∀ e ∈ shiftOps, ∀ sh : BitVec 5, decodeCore c (encR 0 rd ra 0 sh.toNat e.1) = some (e.2 c rd ra sh)) ∧
    (∀ e ∈ immOps, ∀ imm : BitVec 16, decodeCore c (encI e.1 rd ra imm) = some (e.2 c rd ra imm)) ∧
    (∀ e ∈ fpOps3, decodeCore c (encR 0x1E rd ra rb 0 e.1) = some (e.2 c rd ra rb)) ∧
    (∀ e ∈ fpOps2, decodeCore c (encR 0x1E rd ra 0 0 e.1) = some (e.2 c rd ra)) ∧
    (∀ e ∈ fpOpsD, decodeCore c (encR 0x1E rd ra rb 0 e.1) =
      if rd.val % 2 = 0 ∧ ra.val % 2 = 0 ∧ rb.val % 2 = 0 then some (e.2 c rd ra rb) else none) ∧
    decodeCore c (encR 0x1E rd ra 0 0 0x28) = (if rd.val % 2 = 0 then some (.fcvtDS c rd ra) else none) ∧
    decodeCore c (encR 0x1E rd ra 0 0 0x29) = (if ra.val % 2 = 0 then some (.fcvtSD c rd ra) else none) ∧
    (∀ imm : BitVec 16, decodeCore c (encI 0x07 rd 0 imm) = some (.lui c rd imm) ∧
      decodeCore c (encI 0x18 rd 0 imm) = (if sprListed imm.toNat then some (.mfs c rd imm) else none) ∧
      decodeCore c (encI 0x19 0 ra imm) = (if sprListed imm.toNat then some (.mts c ra imm) else none)) ∧
    (∀ off : BitVec 26, decodeCore c (BitVec.ofNat 32 (0x12 * 2 ^ 26 + off.toNat)) = some (.j c off) ∧
      decodeCore c (BitVec.ofNat 32 (0x13 * 2 ^ 26 + off.toNat)) = some (.jal c off)) ∧
    (∀ (n : Fin 3) (off : BitVec 16), decodeCore c (encL 0x15 n ra off) = if off = 0 then none else some (.loop c n ra off)) ∧
    (∀ (n : Fin 3) (cnt : BitVec 10) (off : BitVec 14), decodeCore c (encLI 0x16 n cnt off) = if off = 0 then none else some (.loopi c n cnt off)) ∧
    (∀ (cnt : BitVec 10) (off : BitVec 14), decodeCore c (encL 0x15 3 ra (off.setWidth 16)) = none ∧ decodeCore c (encLI 0x16 3 cnt off) = none) ∧
    decodeCore c (encS 0 0) = some (.eret c) ∧ decodeCore c (encS 0 1) = some (.erets c) ∧ decodeCore c (encS 0 4) = some (.fence c) ∧
    decodeCore c (encS 0 5) = some (.yield_ c) ∧ (∀ code : BitVec 20, decodeCore c (encS code.toNat 2) = some (.trap c code)) ∧
    decodeCore c (encR 0x17 0 ra 0 0 3) = some (.flush c ra) ∧
    decodeCore c (encR 0x1A 0 ra rb 0 0) = some (.ctxsLo c ra rb) ∧ decodeCore c (encR 0x1A 0 ra rb 0 1) = some (.ctxsHi c ra rb) ∧
    decodeCore c (encR 0x1A rd ra 0 0 2) = some (.ctxrLo c rd ra) ∧ decodeCore c (encR 0x1A rd ra 0 0 3) = some (.ctxrHi c rd ra)) ∧
  (∀ (c : CoreIx) (w w' : Word) (i : Instr), decodeCore c w = some i → decodeCore c w' = some i → w = w') ∧
  (∀ (p : PackIx) (d a b r : VReg) (imm : BitVec 10),
    let w (op : Nat) : Word := BitVec.ofNat 32 (op * 2 ^ 26 + d.val * 2 ^ 22 + a.val * 2 ^ 18 + b.val * 2 ^ 14 + r.val * 2 ^ 10 + imm.toNat)
    let lane : VLane := ⟨imm.toNat % 4, Nat.mod_lt _ (by decide)⟩
    let slot : Fin 16 := ⟨imm.toNat / 4 % 16, Nat.mod_lt _ (by decide)⟩
    (∀ e ∈ leOps3, decodeLe p (w e.1) = some (e.2 p d a b)) ∧ (∀ e ∈ leOps4, decodeLe p (w e.1) = some (e.2 p d a b r)) ∧
    (∀ e ∈ leOps2, decodeLe p (w e.1) = some (e.2 p d a)) ∧ (∀ e ∈ leOpsIn, decodeLe p (w e.1) = some (e.2 p d lane slot)) ∧
    decodeLe p (w 0x00) = some (.leNop p) ∧ decodeLe p (w 0x01) = some (.leEnd p) ∧
    decodeLe p (w 0x12) = some (.vli p d lane (BitVec.ofNat 8 (imm.toNat / 4))) ∧ decodeLe p (w 0x20) = some (.aclr p lane) ∧
    decodeLe p (w 0x21) = some (.alim p a b lane) ∧ decodeLe p (w 0x22) = some (.amac p a b lane) ∧ decodeLe p (w 0x23) = some (.aadd p a lane) ∧
    decodeLe p (w 0x24) = some (.aget p d lane) ∧ decodeLe p (w 0x29) = some (.lin4 p d slot) ∧ decodeLe p (w 0x31) = some (.lmode p d) ∧
    decodeLe p (w 0x36) = some (.eout p a))

/-- R35's table of outcomes. -/
def Obligations.TagsAreComparedBySignedDifference : Prop :=
  ∀ a b : Tag,
    let d := (a - b).toInt
    (d = 0 ↔ a = b) ∧ (d = 0 → Tag.after a b = false ∧ Tag.before a b = false) ∧
    (1 ≤ d → d ≤ 2 ^ 63 - 1 → Tag.after a b = true ∧ Tag.before a b = false) ∧
    (-(2 ^ 63 - 1) ≤ d → d ≤ -1 → Tag.before a b = true ∧ Tag.after a b = false) ∧
    (d = -(2 ^ 63) → Tag.before a b = true ∧ Tag.after a b = false)

/-- Where a command stops. -/
def Obligations.CommandsStopOnlyWhereTheyMust : Prop :=
  (∀ (i : Instr) (s : State),
    (i.wellFormed = false → exec i s = .fault .illFormed) ∧
    (∀ f, exec i s = .fault f → i.wellFormed = false ∨
      ∃ p n bits, (i = .decimatorOutput p n bits ∧ bits.length < sincLen (s.sdmN p n) (s.f F.SDM_FLT.osr p n)) ∨
        (i = .fastPathOutput p n bits ∧ bits.length < sincLen (max 1 (s.f F.SDM_FLT.f_order p n)) (s.f F.SDM_FLT.f_osr p n))) ∧
    (∀ r, exec i s = .refused r → r = .debugBlock ∧ ∃ c : CoreIx,
      (∃ (a v : Word) (w : Bool), 0xF0000000 ≤ a.toNat ∧ a.toNat < 0xF1000000 ∧
        i ∈ ([.registerWrite (.core c) a v, .readLatchLo (.core c) a, .writeLatchHi (.core c) a v, .loWriteCommit (.core c) a v,
          .resultSnapshotRead (.core c) a, .rcFieldRead (.core c) a, .uncachedAccess (.core c) w a v] : List Instr)) ∨
      (∃ rd ra imm, i ∈ ([.ldw c rd ra imm, .ldh c rd ra imm, .ldhu c rd ra imm, .ldb c rd ra imm, .ldbu c rd ra imm, .flw c rd ra imm,
        .stw c rd ra imm, .sth c rd ra imm, .stb c rd ra imm, .fsw c rd ra imm] : List Instr)))) ∧
  (∀ (c : CoreIx) (a v : Word) (w : Bool) (s : State), 0xF0000000 ≤ a.toNat → a.toNat < 0xF1000000 →
    ∀ i ∈ ([.registerWrite (.core c) a v, .readLatchLo (.core c) a, .writeLatchHi (.core c) a v, .loWriteCommit (.core c) a v,
      .resultSnapshotRead (.core c) a, .rcFieldRead (.core c) a, .uncachedAccess (.core c) w a v] : List Instr), exec i s = .refused .debugBlock)
end

