-- ==== Sys2Proof/Laws/Map.lean ====
section
/-! SUPPORT. The laws of the finite maps: a read after a write, and that a write keeps the canonical form. -/

namespace Sys2Proof.Laws
open Sys2Proof.Machine

theorem SMap_get_erase {α : Type} (d : α) (m : SMap α) (k k' : Nat) :
    SMap.get d (m.erase k) k' = if k' = k then d else SMap.get d m k' := by
  induction m with
  | nil => simp [SMap.erase, SMap.get]
  | cons e m ih =>
    obtain ⟨j, v⟩ := e
    by_cases h : j = k
    · subst h
      by_cases h2 : k' = j
      · subst h2; simpa [SMap.erase] using ih
      · simp [SMap.erase, SMap.get, ih, h2, Ne.symm h2]
    · by_cases h2 : j = k'
      · subst h2; simp [SMap.erase, SMap.get, h]
      · simp [SMap.erase, SMap.get, h, h2, ih]

theorem SMap_get_erase_ne {α : Type} (d : α) (m : SMap α) {k k' : Nat} (h : k' ≠ k) :
    SMap.get d (m.erase k) k' = SMap.get d m k' := by
  rw [SMap_get_erase, if_neg h]

theorem SMap_get_insert {α : Type} (d : α) (m : SMap α) (k k' : Nat) (v : α)
    (hk : ∀ e ∈ m, e.1 ≠ k) :
    SMap.get d (m.insert k v) k' = if k' = k then v else SMap.get d m k' := by
  induction m with
  | nil => simp [SMap.insert, SMap.get, eq_comm]
  | cons e m ih =>
    obtain ⟨j, w⟩ := e
    have hj : j ≠ k := hk (j, w) (by simp)
    have ih' := ih (fun e he => hk e (by simp [he]))
    by_cases hlt : k < j
    · by_cases h2 : k' = k
      · simp [SMap.insert, SMap.get, hlt, h2]
      · simp [SMap.insert, SMap.get, hlt, h2, Ne.symm h2]
    · by_cases h2 : j = k'
      · subst h2; simp [SMap.insert, SMap.get, hlt, hj]
      · simp [SMap.insert, SMap.get, hlt, h2, ih']

theorem SMap_erase_ne {α : Type} (m : SMap α) (k : Nat) : ∀ e ∈ m.erase k, e.1 ≠ k := by
  induction m with
  | nil => simp [SMap.erase]
  | cons e m ih =>
    obtain ⟨j, v⟩ := e
    by_cases h : j = k
    · simpa [SMap.erase, h] using ih
    · intro e he
      simp only [SMap.erase, h, if_false, List.mem_cons] at he
      rcases he with rfl | he
      · exact h
      · exact ih e he

/-- A read after a write: the written value at the key, every other key as before. -/
@[simp] theorem SMap_get_set {α : Type} [DecidableEq α] (d : α) (m : SMap α) (k k' : Nat) (v : α) :
    SMap.get d (m.set d k v) k' = if k' = k then v else SMap.get d m k' := by
  unfold SMap.set
  split
  · next h => rw [SMap_get_erase, h]
  · rw [SMap_get_insert d _ k k' v (SMap_erase_ne m k), SMap_get_erase]
    split <;> rfl

/-- A write leaves every other key, whatever value an unlisted key is read as. -/
theorem SMap_get_set_ne {α : Type} [DecidableEq α] (d d' : α) (m : SMap α) (k k' : Nat) (v : α) (h : k' ≠ k) :
    SMap.get d' (m.set d k v) k' = SMap.get d' m k' := by
  unfold SMap.set
  split
  · rw [SMap_get_erase_ne d' m h]
  · rw [SMap_get_insert d' _ k k' v (SMap_erase_ne m k), if_neg h, SMap_get_erase_ne d' m h]

theorem SMap_mem_erase {α : Type} (m : SMap α) (k : Nat) : ∀ e ∈ m.erase k, e ∈ m := by
  induction m with
  | nil => simp [SMap.erase]
  | cons e m ih =>
    obtain ⟨j, v⟩ := e
    intro e he
    by_cases h : j = k
    · simp only [SMap.erase, h, if_true] at he
      exact List.mem_cons_of_mem _ (ih e he)
    · simp only [SMap.erase, h, if_false, List.mem_cons] at he
      rcases he with rfl | he
      · simp
      · exact List.mem_cons_of_mem _ (ih e he)

theorem SMap_mem_insert {α : Type} (m : SMap α) (k : Nat) (v : α) : ∀ e ∈ m.insert k v, e = (k, v) ∨ e ∈ m := by
  induction m with
  | nil => simp [SMap.insert]
  | cons e m ih =>
    obtain ⟨j, w⟩ := e
    intro e he
    by_cases h : k < j
    · simpa [SMap.insert, h] using he
    · simp only [SMap.insert, h, if_false, List.mem_cons] at he
      rcases he with rfl | he
      · simp
      · rcases ih e he with h | h <;> simp [h]

theorem SMap_sorted_erase {α : Type} (m : SMap α) (k : Nat) (h : m.sorted = true) : (m.erase k).sorted = true := by
  induction m with
  | nil => rfl
  | cons e m ih =>
    obtain ⟨j, v⟩ := e
    simp only [SMap.sorted, SMap.above, Bool.and_eq_true, List.all_eq_true, decide_eq_true_eq] at h
    by_cases hj : j = k
    · simpa [SMap.erase, hj] using ih h.2
    · simp only [SMap.erase, hj, if_false, SMap.sorted, SMap.above, Bool.and_eq_true, List.all_eq_true, decide_eq_true_eq]
      exact ⟨fun e he => h.1 e (SMap_mem_erase m k e he), ih h.2⟩

theorem SMap_sorted_insert {α : Type} (m : SMap α) (k : Nat) (v : α) (h : m.sorted = true) (hk : ∀ e ∈ m, e.1 ≠ k) :
    (m.insert k v).sorted = true := by
  induction m with
  | nil => simp [SMap.insert, SMap.sorted, SMap.above]
  | cons e m ih =>
    obtain ⟨j, w⟩ := e
    have hs := h
    simp only [SMap.sorted, SMap.above, Bool.and_eq_true, List.all_eq_true, decide_eq_true_eq] at h
    have hj : j ≠ k := hk (j, w) (by simp)
    by_cases hlt : k < j
    · simp only [SMap.insert, hlt, if_true]
      rw [SMap.sorted, hs, Bool.and_true]
      simp only [SMap.above, List.all_eq_true, decide_eq_true_eq, List.mem_cons]
      rintro e (rfl | he)
      · exact hlt
      · exact lt_trans hlt (h.1 e he)
    · simp only [SMap.insert, hlt, if_false, SMap.sorted, SMap.above, Bool.and_eq_true, List.all_eq_true, decide_eq_true_eq]
      refine ⟨fun e he => ?_, ih h.2 (fun e he => hk e (by simp [he]))⟩
      rcases SMap_mem_insert m k v e he with rfl | he
      · show j < k; omega
      · exact h.1 e he

/-- A write keeps the canonical form. -/
theorem SMap_wf_set {α : Type} [DecidableEq α] (d : Nat → α) (m : SMap α) (k : Nat) (v : α) (h : m.wf d = true) :
    (m.set (d k) k v).wf d = true := by
  simp only [SMap.wf, Bool.and_eq_true, List.all_eq_true, decide_eq_true_eq] at h ⊢
  unfold SMap.set
  split
  · exact ⟨SMap_sorted_erase m k h.1, fun e he => h.2 e (SMap_mem_erase m k e he)⟩
  · next hv =>
    refine ⟨SMap_sorted_insert _ k v (SMap_sorted_erase m k h.1) (SMap_erase_ne m k), fun e he => ?_⟩
    rcases SMap_mem_insert _ k v e he with rfl | he
    · exact hv
    · exact h.2 e (SMap_mem_erase m k e he)

end Sys2Proof.Laws
end

