-- ==== Sys2Proof/Laws/State.lean ====
section
/-! SUPPORT. Laws of the state: what each named update leaves (one lemma per field), what a register, a bank and every array of hidden
state read after a write of one of them. -/

namespace Sys2Proof.Laws
open Sys2Proof Sys2Proof.Machine

variable (s : State)

/-! ### wr -/

@[simp] theorem wr_pending (r : RegName) (v : Word) (p i j : Nat) : State.pending (s.wr r v p i j) = s.pending := rfl
@[simp] theorem wr_clk (r : RegName) (v : Word) (p i j : Nat) : State.clk (s.wr r v p i j) = s.clk := rfl
@[simp] theorem wr_mem (r : RegName) (v : Word) (p i j : Nat) : State.mem (s.wr r v p i j) = s.mem := rfl
@[simp] theorem wr_ram (r : RegName) (v : Word) (p i j : Nat) : State.ram (s.wr r v p i j) = s.ram := rfl
@[simp] theorem wr_log (r : RegName) (v : Word) (p i j : Nat) : State.log (s.wr r v p i j) = s.log := rfl
@[simp] theorem wr_lsh (r : RegName) (v : Word) (p i j : Nat) : State.lsh (s.wr r v p i j) = s.lsh := rfl
@[simp] theorem wr_rdr (r : RegName) (v : Word) (p i j : Nat) : State.rdr (s.wr r v p i j) = s.rdr := rfl
@[simp] theorem wr_own (r : RegName) (v : Word) (p i j : Nat) : State.own (s.wr r v p i j) = s.own := rfl
@[simp] theorem wr_mbxTag (r : RegName) (v : Word) (p i j : Nat) : State.mbxTag (s.wr r v p i j) = s.mbxTag := rfl
@[simp] theorem wr_dma (r : RegName) (v : Word) (p i j : Nat) : State.dma (s.wr r v p i j) = s.dma := rfl
@[simp] theorem wr_free (r : RegName) (v : Word) (p i j : Nat) : State.free (s.wr r v p i j) = s.free := rfl
@[simp] theorem wr_resp (r : RegName) (v : Word) (p i j : Nat) : State.resp (s.wr r v p i j) = s.resp := rfl
@[simp] theorem wr_banks (r : RegName) (v : Word) (p i j : Nat) : State.banks (s.wr r v p i j) = s.banks := rfl
@[simp] theorem wr_cores (r : RegName) (v : Word) (p i j : Nat) : State.cores (s.wr r v p i j) = s.cores := rfl
@[simp] theorem wr_pairs (r : RegName) (v : Word) (p i j : Nat) : State.pairs (s.wr r v p i j) = s.pairs := rfl
@[simp] theorem wr_psets (r : RegName) (v : Word) (p i j : Nat) : State.psets (s.wr r v p i j) = s.psets := rfl
@[simp] theorem wr_plegs (r : RegName) (v : Word) (p i j : Nat) : State.plegs (s.wr r v p i j) = s.plegs := rfl
@[simp] theorem wr_axSet (r : RegName) (v : Word) (p i j : Nat) : State.axSet (s.wr r v p i j) = s.axSet := rfl
@[simp] theorem wr_cmps (r : RegName) (v : Word) (p i j : Nat) : State.cmps (s.wr r v p i j) = s.cmps := rfl
@[simp] theorem wr_therm (r : RegName) (v : Word) (p i j : Nat) : State.therm (s.wr r v p i j) = s.therm := rfl
@[simp] theorem wr_prots (r : RegName) (v : Word) (p i j : Nat) : State.prots (s.wr r v p i j) = s.prots := rfl
@[simp] theorem wr_fld (r : RegName) (v : Word) (p i j : Nat) : State.fld (s.wr r v p i j) = s.fld := rfl
@[simp] theorem wr_soon (r : RegName) (v : Word) (p i j : Nat) : State.soon (s.wr r v p i j) = s.soon := rfl
@[simp] theorem wr_incTag (r : RegName) (v : Word) (p i j : Nat) : State.incTag (s.wr r v p i j) = s.incTag := rfl
@[simp] theorem wr_toOpen (r : RegName) (v : Word) (p i j : Nat) : State.toOpen (s.wr r v p i j) = s.toOpen := rfl
@[simp] theorem wr_acqs (r : RegName) (v : Word) (p i j : Nat) : State.acqs (s.wr r v p i j) = s.acqs := rfl
@[simp] theorem wr_axs (r : RegName) (v : Word) (p i j : Nat) : State.axs (s.wr r v p i j) = s.axs := rfl
@[simp] theorem wr_engs (r : RegName) (v : Word) (p i j : Nat) : State.engs (s.wr r v p i j) = s.engs := rfl
@[simp] theorem wr_poss (r : RegName) (v : Word) (p i j : Nat) : State.poss (s.wr r v p i j) = s.poss := rfl
@[simp] theorem wr_emus (r : RegName) (v : Word) (p i j : Nat) : State.emus (s.wr r v p i j) = s.emus := rfl
@[simp] theorem wr_net (r : RegName) (v : Word) (p i j : Nat) : State.net (s.wr r v p i j) = s.net := rfl
@[simp] theorem wr_pwr (r : RegName) (v : Word) (p i j : Nat) : State.pwr (s.wr r v p i j) = s.pwr := rfl
@[simp] theorem wr_img (r : RegName) (v : Word) (p i j : Nat) : State.img (s.wr r v p i j) = s.img := rfl
@[simp] theorem wr_was (r : RegName) (v : Word) (p i j : Nat) : State.was (s.wr r v p i j) = s.was := rfl
@[simp] theorem bank_wr (r : RegName) (v : Word) (p i j : Nat) (c' b' : Nat) : State.bank (s.wr r v p i j) c' b' = s.bank c' b' := rfl
@[simp] theorem core_wr (r : RegName) (v : Word) (p i j : Nat) (c' : Nat) : State.core (s.wr r v p i j) c' = s.core c' := rfl
@[simp] theorem owner_wr (r : RegName) (v : Word) (p i j : Nat) (x' : Res) : State.owner (s.wr r v p i j) x' = s.owner x' := rfl

/-! ### put -/

@[simp] theorem put_pending (f : Fld) (n p i j : Nat) : State.pending (s.put f n p i j) = s.pending := rfl
@[simp] theorem put_clk (f : Fld) (n p i j : Nat) : State.clk (s.put f n p i j) = s.clk := rfl
@[simp] theorem put_mem (f : Fld) (n p i j : Nat) : State.mem (s.put f n p i j) = s.mem := rfl
@[simp] theorem put_ram (f : Fld) (n p i j : Nat) : State.ram (s.put f n p i j) = s.ram := rfl
@[simp] theorem put_log (f : Fld) (n p i j : Nat) : State.log (s.put f n p i j) = s.log := rfl
@[simp] theorem put_lsh (f : Fld) (n p i j : Nat) : State.lsh (s.put f n p i j) = s.lsh := rfl
@[simp] theorem put_rdr (f : Fld) (n p i j : Nat) : State.rdr (s.put f n p i j) = s.rdr := rfl
@[simp] theorem put_own (f : Fld) (n p i j : Nat) : State.own (s.put f n p i j) = s.own := rfl
@[simp] theorem put_mbxTag (f : Fld) (n p i j : Nat) : State.mbxTag (s.put f n p i j) = s.mbxTag := rfl
@[simp] theorem put_dma (f : Fld) (n p i j : Nat) : State.dma (s.put f n p i j) = s.dma := rfl
@[simp] theorem put_free (f : Fld) (n p i j : Nat) : State.free (s.put f n p i j) = s.free := rfl
@[simp] theorem put_resp (f : Fld) (n p i j : Nat) : State.resp (s.put f n p i j) = s.resp := rfl
@[simp] theorem put_banks (f : Fld) (n p i j : Nat) : State.banks (s.put f n p i j) = s.banks := rfl
@[simp] theorem put_cores (f : Fld) (n p i j : Nat) : State.cores (s.put f n p i j) = s.cores := rfl
@[simp] theorem put_pairs (f : Fld) (n p i j : Nat) : State.pairs (s.put f n p i j) = s.pairs := rfl
@[simp] theorem put_psets (f : Fld) (n p i j : Nat) : State.psets (s.put f n p i j) = s.psets := rfl
@[simp] theorem put_plegs (f : Fld) (n p i j : Nat) : State.plegs (s.put f n p i j) = s.plegs := rfl
@[simp] theorem put_axSet (f : Fld) (n p i j : Nat) : State.axSet (s.put f n p i j) = s.axSet := rfl
@[simp] theorem put_cmps (f : Fld) (n p i j : Nat) : State.cmps (s.put f n p i j) = s.cmps := rfl
@[simp] theorem put_therm (f : Fld) (n p i j : Nat) : State.therm (s.put f n p i j) = s.therm := rfl
@[simp] theorem put_prots (f : Fld) (n p i j : Nat) : State.prots (s.put f n p i j) = s.prots := rfl
@[simp] theorem put_fld (f : Fld) (n p i j : Nat) : State.fld (s.put f n p i j) = s.fld := rfl
@[simp] theorem put_soon (f : Fld) (n p i j : Nat) : State.soon (s.put f n p i j) = s.soon := rfl
@[simp] theorem put_incTag (f : Fld) (n p i j : Nat) : State.incTag (s.put f n p i j) = s.incTag := rfl
@[simp] theorem put_toOpen (f : Fld) (n p i j : Nat) : State.toOpen (s.put f n p i j) = s.toOpen := rfl
@[simp] theorem put_acqs (f : Fld) (n p i j : Nat) : State.acqs (s.put f n p i j) = s.acqs := rfl
@[simp] theorem put_axs (f : Fld) (n p i j : Nat) : State.axs (s.put f n p i j) = s.axs := rfl
@[simp] theorem put_engs (f : Fld) (n p i j : Nat) : State.engs (s.put f n p i j) = s.engs := rfl
@[simp] theorem put_poss (f : Fld) (n p i j : Nat) : State.poss (s.put f n p i j) = s.poss := rfl
@[simp] theorem put_emus (f : Fld) (n p i j : Nat) : State.emus (s.put f n p i j) = s.emus := rfl
@[simp] theorem put_net (f : Fld) (n p i j : Nat) : State.net (s.put f n p i j) = s.net := rfl
@[simp] theorem put_pwr (f : Fld) (n p i j : Nat) : State.pwr (s.put f n p i j) = s.pwr := rfl
@[simp] theorem put_img (f : Fld) (n p i j : Nat) : State.img (s.put f n p i j) = s.img := rfl
@[simp] theorem put_was (f : Fld) (n p i j : Nat) : State.was (s.put f n p i j) = s.was := rfl
@[simp] theorem bank_put (f : Fld) (n p i j : Nat) (c' b' : Nat) : State.bank (s.put f n p i j) c' b' = s.bank c' b' := rfl
@[simp] theorem core_put (f : Fld) (n p i j : Nat) (c' : Nat) : State.core (s.put f n p i j) c' = s.core c' := rfl
@[simp] theorem owner_put (f : Fld) (n p i j : Nat) (x' : Res) : State.owner (s.put f n p i j) x' = s.owner x' := rfl

/-! ### setb -/

@[simp] theorem setb_pending (f : Fld) (p i j : Nat) : State.pending (s.setb f p i j) = s.pending := rfl
@[simp] theorem setb_clk (f : Fld) (p i j : Nat) : State.clk (s.setb f p i j) = s.clk := rfl
@[simp] theorem setb_mem (f : Fld) (p i j : Nat) : State.mem (s.setb f p i j) = s.mem := rfl
@[simp] theorem setb_ram (f : Fld) (p i j : Nat) : State.ram (s.setb f p i j) = s.ram := rfl
@[simp] theorem setb_log (f : Fld) (p i j : Nat) : State.log (s.setb f p i j) = s.log := rfl
@[simp] theorem setb_lsh (f : Fld) (p i j : Nat) : State.lsh (s.setb f p i j) = s.lsh := rfl
@[simp] theorem setb_rdr (f : Fld) (p i j : Nat) : State.rdr (s.setb f p i j) = s.rdr := rfl
@[simp] theorem setb_own (f : Fld) (p i j : Nat) : State.own (s.setb f p i j) = s.own := rfl
@[simp] theorem setb_mbxTag (f : Fld) (p i j : Nat) : State.mbxTag (s.setb f p i j) = s.mbxTag := rfl
@[simp] theorem setb_dma (f : Fld) (p i j : Nat) : State.dma (s.setb f p i j) = s.dma := rfl
@[simp] theorem setb_free (f : Fld) (p i j : Nat) : State.free (s.setb f p i j) = s.free := rfl
@[simp] theorem setb_resp (f : Fld) (p i j : Nat) : State.resp (s.setb f p i j) = s.resp := rfl
@[simp] theorem setb_banks (f : Fld) (p i j : Nat) : State.banks (s.setb f p i j) = s.banks := rfl
@[simp] theorem setb_cores (f : Fld) (p i j : Nat) : State.cores (s.setb f p i j) = s.cores := rfl
@[simp] theorem setb_pairs (f : Fld) (p i j : Nat) : State.pairs (s.setb f p i j) = s.pairs := rfl
@[simp] theorem setb_psets (f : Fld) (p i j : Nat) : State.psets (s.setb f p i j) = s.psets := rfl
@[simp] theorem setb_plegs (f : Fld) (p i j : Nat) : State.plegs (s.setb f p i j) = s.plegs := rfl
@[simp] theorem setb_axSet (f : Fld) (p i j : Nat) : State.axSet (s.setb f p i j) = s.axSet := rfl
@[simp] theorem setb_cmps (f : Fld) (p i j : Nat) : State.cmps (s.setb f p i j) = s.cmps := rfl
@[simp] theorem setb_therm (f : Fld) (p i j : Nat) : State.therm (s.setb f p i j) = s.therm := rfl
@[simp] theorem setb_prots (f : Fld) (p i j : Nat) : State.prots (s.setb f p i j) = s.prots := rfl
@[simp] theorem setb_fld (f : Fld) (p i j : Nat) : State.fld (s.setb f p i j) = s.fld := rfl
@[simp] theorem setb_soon (f : Fld) (p i j : Nat) : State.soon (s.setb f p i j) = s.soon := rfl
@[simp] theorem setb_incTag (f : Fld) (p i j : Nat) : State.incTag (s.setb f p i j) = s.incTag := rfl
@[simp] theorem setb_toOpen (f : Fld) (p i j : Nat) : State.toOpen (s.setb f p i j) = s.toOpen := rfl
@[simp] theorem setb_acqs (f : Fld) (p i j : Nat) : State.acqs (s.setb f p i j) = s.acqs := rfl
@[simp] theorem setb_axs (f : Fld) (p i j : Nat) : State.axs (s.setb f p i j) = s.axs := rfl
@[simp] theorem setb_engs (f : Fld) (p i j : Nat) : State.engs (s.setb f p i j) = s.engs := rfl
@[simp] theorem setb_poss (f : Fld) (p i j : Nat) : State.poss (s.setb f p i j) = s.poss := rfl
@[simp] theorem setb_emus (f : Fld) (p i j : Nat) : State.emus (s.setb f p i j) = s.emus := rfl
@[simp] theorem setb_net (f : Fld) (p i j : Nat) : State.net (s.setb f p i j) = s.net := rfl
@[simp] theorem setb_pwr (f : Fld) (p i j : Nat) : State.pwr (s.setb f p i j) = s.pwr := rfl
@[simp] theorem setb_img (f : Fld) (p i j : Nat) : State.img (s.setb f p i j) = s.img := rfl
@[simp] theorem setb_was (f : Fld) (p i j : Nat) : State.was (s.setb f p i j) = s.was := rfl
@[simp] theorem bank_setb (f : Fld) (p i j : Nat) (c' b' : Nat) : State.bank (s.setb f p i j) c' b' = s.bank c' b' := rfl
@[simp] theorem core_setb (f : Fld) (p i j : Nat) (c' : Nat) : State.core (s.setb f p i j) c' = s.core c' := rfl
@[simp] theorem owner_setb (f : Fld) (p i j : Nat) (x' : Res) : State.owner (s.setb f p i j) x' = s.owner x' := rfl

/-! ### clrb -/

@[simp] theorem clrb_pending (f : Fld) (p i j : Nat) : State.pending (s.clrb f p i j) = s.pending := rfl
@[simp] theorem clrb_clk (f : Fld) (p i j : Nat) : State.clk (s.clrb f p i j) = s.clk := rfl
@[simp] theorem clrb_mem (f : Fld) (p i j : Nat) : State.mem (s.clrb f p i j) = s.mem := rfl
@[simp] theorem clrb_ram (f : Fld) (p i j : Nat) : State.ram (s.clrb f p i j) = s.ram := rfl
@[simp] theorem clrb_log (f : Fld) (p i j : Nat) : State.log (s.clrb f p i j) = s.log := rfl
@[simp] theorem clrb_lsh (f : Fld) (p i j : Nat) : State.lsh (s.clrb f p i j) = s.lsh := rfl
@[simp] theorem clrb_rdr (f : Fld) (p i j : Nat) : State.rdr (s.clrb f p i j) = s.rdr := rfl
@[simp] theorem clrb_own (f : Fld) (p i j : Nat) : State.own (s.clrb f p i j) = s.own := rfl
@[simp] theorem clrb_mbxTag (f : Fld) (p i j : Nat) : State.mbxTag (s.clrb f p i j) = s.mbxTag := rfl
@[simp] theorem clrb_dma (f : Fld) (p i j : Nat) : State.dma (s.clrb f p i j) = s.dma := rfl
@[simp] theorem clrb_free (f : Fld) (p i j : Nat) : State.free (s.clrb f p i j) = s.free := rfl
@[simp] theorem clrb_resp (f : Fld) (p i j : Nat) : State.resp (s.clrb f p i j) = s.resp := rfl
@[simp] theorem clrb_banks (f : Fld) (p i j : Nat) : State.banks (s.clrb f p i j) = s.banks := rfl
@[simp] theorem clrb_cores (f : Fld) (p i j : Nat) : State.cores (s.clrb f p i j) = s.cores := rfl
@[simp] theorem clrb_pairs (f : Fld) (p i j : Nat) : State.pairs (s.clrb f p i j) = s.pairs := rfl
@[simp] theorem clrb_psets (f : Fld) (p i j : Nat) : State.psets (s.clrb f p i j) = s.psets := rfl
@[simp] theorem clrb_plegs (f : Fld) (p i j : Nat) : State.plegs (s.clrb f p i j) = s.plegs := rfl
@[simp] theorem clrb_axSet (f : Fld) (p i j : Nat) : State.axSet (s.clrb f p i j) = s.axSet := rfl
@[simp] theorem clrb_cmps (f : Fld) (p i j : Nat) : State.cmps (s.clrb f p i j) = s.cmps := rfl
@[simp] theorem clrb_therm (f : Fld) (p i j : Nat) : State.therm (s.clrb f p i j) = s.therm := rfl
@[simp] theorem clrb_prots (f : Fld) (p i j : Nat) : State.prots (s.clrb f p i j) = s.prots := rfl
@[simp] theorem clrb_fld (f : Fld) (p i j : Nat) : State.fld (s.clrb f p i j) = s.fld := rfl
@[simp] theorem clrb_soon (f : Fld) (p i j : Nat) : State.soon (s.clrb f p i j) = s.soon := rfl
@[simp] theorem clrb_incTag (f : Fld) (p i j : Nat) : State.incTag (s.clrb f p i j) = s.incTag := rfl
@[simp] theorem clrb_toOpen (f : Fld) (p i j : Nat) : State.toOpen (s.clrb f p i j) = s.toOpen := rfl
@[simp] theorem clrb_acqs (f : Fld) (p i j : Nat) : State.acqs (s.clrb f p i j) = s.acqs := rfl
@[simp] theorem clrb_axs (f : Fld) (p i j : Nat) : State.axs (s.clrb f p i j) = s.axs := rfl
@[simp] theorem clrb_engs (f : Fld) (p i j : Nat) : State.engs (s.clrb f p i j) = s.engs := rfl
@[simp] theorem clrb_poss (f : Fld) (p i j : Nat) : State.poss (s.clrb f p i j) = s.poss := rfl
@[simp] theorem clrb_emus (f : Fld) (p i j : Nat) : State.emus (s.clrb f p i j) = s.emus := rfl
@[simp] theorem clrb_net (f : Fld) (p i j : Nat) : State.net (s.clrb f p i j) = s.net := rfl
@[simp] theorem clrb_pwr (f : Fld) (p i j : Nat) : State.pwr (s.clrb f p i j) = s.pwr := rfl
@[simp] theorem clrb_img (f : Fld) (p i j : Nat) : State.img (s.clrb f p i j) = s.img := rfl
@[simp] theorem clrb_was (f : Fld) (p i j : Nat) : State.was (s.clrb f p i j) = s.was := rfl
@[simp] theorem bank_clrb (f : Fld) (p i j : Nat) (c' b' : Nat) : State.bank (s.clrb f p i j) c' b' = s.bank c' b' := rfl
@[simp] theorem core_clrb (f : Fld) (p i j : Nat) (c' : Nat) : State.core (s.clrb f p i j) c' = s.core c' := rfl
@[simp] theorem owner_clrb (f : Fld) (p i j : Nat) (x' : Res) : State.owner (s.clrb f p i j) x' = s.owner x' := rfl

/-! ### putb -/

@[simp] theorem putb_pending (f : Fld) (b : Bool) (p i j : Nat) : State.pending (s.putb f b p i j) = s.pending := rfl
@[simp] theorem putb_clk (f : Fld) (b : Bool) (p i j : Nat) : State.clk (s.putb f b p i j) = s.clk := rfl
@[simp] theorem putb_mem (f : Fld) (b : Bool) (p i j : Nat) : State.mem (s.putb f b p i j) = s.mem := rfl
@[simp] theorem putb_ram (f : Fld) (b : Bool) (p i j : Nat) : State.ram (s.putb f b p i j) = s.ram := rfl
@[simp] theorem putb_log (f : Fld) (b : Bool) (p i j : Nat) : State.log (s.putb f b p i j) = s.log := rfl
@[simp] theorem putb_lsh (f : Fld) (b : Bool) (p i j : Nat) : State.lsh (s.putb f b p i j) = s.lsh := rfl
@[simp] theorem putb_rdr (f : Fld) (b : Bool) (p i j : Nat) : State.rdr (s.putb f b p i j) = s.rdr := rfl
@[simp] theorem putb_own (f : Fld) (b : Bool) (p i j : Nat) : State.own (s.putb f b p i j) = s.own := rfl
@[simp] theorem putb_mbxTag (f : Fld) (b : Bool) (p i j : Nat) : State.mbxTag (s.putb f b p i j) = s.mbxTag := rfl
@[simp] theorem putb_dma (f : Fld) (b : Bool) (p i j : Nat) : State.dma (s.putb f b p i j) = s.dma := rfl
@[simp] theorem putb_free (f : Fld) (b : Bool) (p i j : Nat) : State.free (s.putb f b p i j) = s.free := rfl
@[simp] theorem putb_resp (f : Fld) (b : Bool) (p i j : Nat) : State.resp (s.putb f b p i j) = s.resp := rfl
@[simp] theorem putb_banks (f : Fld) (b : Bool) (p i j : Nat) : State.banks (s.putb f b p i j) = s.banks := rfl
@[simp] theorem putb_cores (f : Fld) (b : Bool) (p i j : Nat) : State.cores (s.putb f b p i j) = s.cores := rfl
@[simp] theorem putb_pairs (f : Fld) (b : Bool) (p i j : Nat) : State.pairs (s.putb f b p i j) = s.pairs := rfl
@[simp] theorem putb_psets (f : Fld) (b : Bool) (p i j : Nat) : State.psets (s.putb f b p i j) = s.psets := rfl
@[simp] theorem putb_plegs (f : Fld) (b : Bool) (p i j : Nat) : State.plegs (s.putb f b p i j) = s.plegs := rfl
@[simp] theorem putb_axSet (f : Fld) (b : Bool) (p i j : Nat) : State.axSet (s.putb f b p i j) = s.axSet := rfl
@[simp] theorem putb_cmps (f : Fld) (b : Bool) (p i j : Nat) : State.cmps (s.putb f b p i j) = s.cmps := rfl
@[simp] theorem putb_therm (f : Fld) (b : Bool) (p i j : Nat) : State.therm (s.putb f b p i j) = s.therm := rfl
@[simp] theorem putb_prots (f : Fld) (b : Bool) (p i j : Nat) : State.prots (s.putb f b p i j) = s.prots := rfl
@[simp] theorem putb_fld (f : Fld) (b : Bool) (p i j : Nat) : State.fld (s.putb f b p i j) = s.fld := rfl
@[simp] theorem putb_soon (f : Fld) (b : Bool) (p i j : Nat) : State.soon (s.putb f b p i j) = s.soon := rfl
@[simp] theorem putb_incTag (f : Fld) (b : Bool) (p i j : Nat) : State.incTag (s.putb f b p i j) = s.incTag := rfl
@[simp] theorem putb_toOpen (f : Fld) (b : Bool) (p i j : Nat) : State.toOpen (s.putb f b p i j) = s.toOpen := rfl
@[simp] theorem putb_acqs (f : Fld) (b : Bool) (p i j : Nat) : State.acqs (s.putb f b p i j) = s.acqs := rfl
@[simp] theorem putb_axs (f : Fld) (b : Bool) (p i j : Nat) : State.axs (s.putb f b p i j) = s.axs := rfl
@[simp] theorem putb_engs (f : Fld) (b : Bool) (p i j : Nat) : State.engs (s.putb f b p i j) = s.engs := rfl
@[simp] theorem putb_poss (f : Fld) (b : Bool) (p i j : Nat) : State.poss (s.putb f b p i j) = s.poss := rfl
@[simp] theorem putb_emus (f : Fld) (b : Bool) (p i j : Nat) : State.emus (s.putb f b p i j) = s.emus := rfl
@[simp] theorem putb_net (f : Fld) (b : Bool) (p i j : Nat) : State.net (s.putb f b p i j) = s.net := rfl
@[simp] theorem putb_pwr (f : Fld) (b : Bool) (p i j : Nat) : State.pwr (s.putb f b p i j) = s.pwr := rfl
@[simp] theorem putb_img (f : Fld) (b : Bool) (p i j : Nat) : State.img (s.putb f b p i j) = s.img := rfl
@[simp] theorem putb_was (f : Fld) (b : Bool) (p i j : Nat) : State.was (s.putb f b p i j) = s.was := rfl
@[simp] theorem bank_putb (f : Fld) (b : Bool) (p i j : Nat) (c' b' : Nat) : State.bank (s.putb f b p i j) c' b' = s.bank c' b' := rfl
@[simp] theorem core_putb (f : Fld) (b : Bool) (p i j : Nat) (c' : Nat) : State.core (s.putb f b p i j) c' = s.core c' := rfl
@[simp] theorem owner_putb (f : Fld) (b : Bool) (p i j : Nat) (x' : Res) : State.owner (s.putb f b p i j) x' = s.owner x' := rfl

/-! ### putNbit -/

@[simp] theorem putNbit_pending (r : RegName) (n : Nat) (b : Bool) (p i j : Nat) : State.pending (s.putNbit r n b p i j) = s.pending := rfl
@[simp] theorem putNbit_clk (r : RegName) (n : Nat) (b : Bool) (p i j : Nat) : State.clk (s.putNbit r n b p i j) = s.clk := rfl
@[simp] theorem putNbit_mem (r : RegName) (n : Nat) (b : Bool) (p i j : Nat) : State.mem (s.putNbit r n b p i j) = s.mem := rfl
@[simp] theorem putNbit_ram (r : RegName) (n : Nat) (b : Bool) (p i j : Nat) : State.ram (s.putNbit r n b p i j) = s.ram := rfl
@[simp] theorem putNbit_log (r : RegName) (n : Nat) (b : Bool) (p i j : Nat) : State.log (s.putNbit r n b p i j) = s.log := rfl
@[simp] theorem putNbit_lsh (r : RegName) (n : Nat) (b : Bool) (p i j : Nat) : State.lsh (s.putNbit r n b p i j) = s.lsh := rfl
@[simp] theorem putNbit_rdr (r : RegName) (n : Nat) (b : Bool) (p i j : Nat) : State.rdr (s.putNbit r n b p i j) = s.rdr := rfl
@[simp] theorem putNbit_own (r : RegName) (n : Nat) (b : Bool) (p i j : Nat) : State.own (s.putNbit r n b p i j) = s.own := rfl
@[simp] theorem putNbit_mbxTag (r : RegName) (n : Nat) (b : Bool) (p i j : Nat) : State.mbxTag (s.putNbit r n b p i j) = s.mbxTag := rfl
@[simp] theorem putNbit_dma (r : RegName) (n : Nat) (b : Bool) (p i j : Nat) : State.dma (s.putNbit r n b p i j) = s.dma := rfl
@[simp] theorem putNbit_free (r : RegName) (n : Nat) (b : Bool) (p i j : Nat) : State.free (s.putNbit r n b p i j) = s.free := rfl
@[simp] theorem putNbit_resp (r : RegName) (n : Nat) (b : Bool) (p i j : Nat) : State.resp (s.putNbit r n b p i j) = s.resp := rfl
@[simp] theorem putNbit_banks (r : RegName) (n : Nat) (b : Bool) (p i j : Nat) : State.banks (s.putNbit r n b p i j) = s.banks := rfl
@[simp] theorem putNbit_cores (r : RegName) (n : Nat) (b : Bool) (p i j : Nat) : State.cores (s.putNbit r n b p i j) = s.cores := rfl
@[simp] theorem putNbit_pairs (r : RegName) (n : Nat) (b : Bool) (p i j : Nat) : State.pairs (s.putNbit r n b p i j) = s.pairs := rfl
@[simp] theorem putNbit_psets (r : RegName) (n : Nat) (b : Bool) (p i j : Nat) : State.psets (s.putNbit r n b p i j) = s.psets := rfl
@[simp] theorem putNbit_plegs (r : RegName) (n : Nat) (b : Bool) (p i j : Nat) : State.plegs (s.putNbit r n b p i j) = s.plegs := rfl
@[simp] theorem putNbit_axSet (r : RegName) (n : Nat) (b : Bool) (p i j : Nat) : State.axSet (s.putNbit r n b p i j) = s.axSet := rfl
@[simp] theorem putNbit_cmps (r : RegName) (n : Nat) (b : Bool) (p i j : Nat) : State.cmps (s.putNbit r n b p i j) = s.cmps := rfl
@[simp] theorem putNbit_therm (r : RegName) (n : Nat) (b : Bool) (p i j : Nat) : State.therm (s.putNbit r n b p i j) = s.therm := rfl
@[simp] theorem putNbit_prots (r : RegName) (n : Nat) (b : Bool) (p i j : Nat) : State.prots (s.putNbit r n b p i j) = s.prots := rfl
@[simp] theorem putNbit_fld (r : RegName) (n : Nat) (b : Bool) (p i j : Nat) : State.fld (s.putNbit r n b p i j) = s.fld := rfl
@[simp] theorem putNbit_soon (r : RegName) (n : Nat) (b : Bool) (p i j : Nat) : State.soon (s.putNbit r n b p i j) = s.soon := rfl
@[simp] theorem putNbit_incTag (r : RegName) (n : Nat) (b : Bool) (p i j : Nat) : State.incTag (s.putNbit r n b p i j) = s.incTag := rfl
@[simp] theorem putNbit_toOpen (r : RegName) (n : Nat) (b : Bool) (p i j : Nat) : State.toOpen (s.putNbit r n b p i j) = s.toOpen := rfl
@[simp] theorem putNbit_acqs (r : RegName) (n : Nat) (b : Bool) (p i j : Nat) : State.acqs (s.putNbit r n b p i j) = s.acqs := rfl
@[simp] theorem putNbit_axs (r : RegName) (n : Nat) (b : Bool) (p i j : Nat) : State.axs (s.putNbit r n b p i j) = s.axs := rfl
@[simp] theorem putNbit_engs (r : RegName) (n : Nat) (b : Bool) (p i j : Nat) : State.engs (s.putNbit r n b p i j) = s.engs := rfl
@[simp] theorem putNbit_poss (r : RegName) (n : Nat) (b : Bool) (p i j : Nat) : State.poss (s.putNbit r n b p i j) = s.poss := rfl
@[simp] theorem putNbit_emus (r : RegName) (n : Nat) (b : Bool) (p i j : Nat) : State.emus (s.putNbit r n b p i j) = s.emus := rfl
@[simp] theorem putNbit_net (r : RegName) (n : Nat) (b : Bool) (p i j : Nat) : State.net (s.putNbit r n b p i j) = s.net := rfl
@[simp] theorem putNbit_pwr (r : RegName) (n : Nat) (b : Bool) (p i j : Nat) : State.pwr (s.putNbit r n b p i j) = s.pwr := rfl
@[simp] theorem putNbit_img (r : RegName) (n : Nat) (b : Bool) (p i j : Nat) : State.img (s.putNbit r n b p i j) = s.img := rfl
@[simp] theorem putNbit_was (r : RegName) (n : Nat) (b : Bool) (p i j : Nat) : State.was (s.putNbit r n b p i j) = s.was := rfl
@[simp] theorem bank_putNbit (r : RegName) (n : Nat) (b : Bool) (p i j : Nat) (c' b' : Nat) : State.bank (s.putNbit r n b p i j) c' b' = s.bank c' b' := rfl
@[simp] theorem core_putNbit (r : RegName) (n : Nat) (b : Bool) (p i j : Nat) (c' : Nat) : State.core (s.putNbit r n b p i j) c' = s.core c' := rfl
@[simp] theorem owner_putNbit (r : RegName) (n : Nat) (b : Bool) (p i j : Nat) (x' : Res) : State.owner (s.putNbit r n b p i j) x' = s.owner x' := rfl

/-! ### setPair -/

@[simp] theorem setPair_pending (lo hi : RegName) (t : Tag) (p i j : Nat) : State.pending (s.setPair lo hi t p i j) = s.pending := rfl
@[simp] theorem setPair_clk (lo hi : RegName) (t : Tag) (p i j : Nat) : State.clk (s.setPair lo hi t p i j) = s.clk := rfl
@[simp] theorem setPair_mem (lo hi : RegName) (t : Tag) (p i j : Nat) : State.mem (s.setPair lo hi t p i j) = s.mem := rfl
@[simp] theorem setPair_ram (lo hi : RegName) (t : Tag) (p i j : Nat) : State.ram (s.setPair lo hi t p i j) = s.ram := rfl
@[simp] theorem setPair_log (lo hi : RegName) (t : Tag) (p i j : Nat) : State.log (s.setPair lo hi t p i j) = s.log := rfl
@[simp] theorem setPair_lsh (lo hi : RegName) (t : Tag) (p i j : Nat) : State.lsh (s.setPair lo hi t p i j) = s.lsh := rfl
@[simp] theorem setPair_rdr (lo hi : RegName) (t : Tag) (p i j : Nat) : State.rdr (s.setPair lo hi t p i j) = s.rdr := rfl
@[simp] theorem setPair_own (lo hi : RegName) (t : Tag) (p i j : Nat) : State.own (s.setPair lo hi t p i j) = s.own := rfl
@[simp] theorem setPair_mbxTag (lo hi : RegName) (t : Tag) (p i j : Nat) : State.mbxTag (s.setPair lo hi t p i j) = s.mbxTag := rfl
@[simp] theorem setPair_dma (lo hi : RegName) (t : Tag) (p i j : Nat) : State.dma (s.setPair lo hi t p i j) = s.dma := rfl
@[simp] theorem setPair_free (lo hi : RegName) (t : Tag) (p i j : Nat) : State.free (s.setPair lo hi t p i j) = s.free := rfl
@[simp] theorem setPair_resp (lo hi : RegName) (t : Tag) (p i j : Nat) : State.resp (s.setPair lo hi t p i j) = s.resp := rfl
@[simp] theorem setPair_banks (lo hi : RegName) (t : Tag) (p i j : Nat) : State.banks (s.setPair lo hi t p i j) = s.banks := rfl
@[simp] theorem setPair_cores (lo hi : RegName) (t : Tag) (p i j : Nat) : State.cores (s.setPair lo hi t p i j) = s.cores := rfl
@[simp] theorem setPair_pairs (lo hi : RegName) (t : Tag) (p i j : Nat) : State.pairs (s.setPair lo hi t p i j) = s.pairs := rfl
@[simp] theorem setPair_psets (lo hi : RegName) (t : Tag) (p i j : Nat) : State.psets (s.setPair lo hi t p i j) = s.psets := rfl
@[simp] theorem setPair_plegs (lo hi : RegName) (t : Tag) (p i j : Nat) : State.plegs (s.setPair lo hi t p i j) = s.plegs := rfl
@[simp] theorem setPair_axSet (lo hi : RegName) (t : Tag) (p i j : Nat) : State.axSet (s.setPair lo hi t p i j) = s.axSet := rfl
@[simp] theorem setPair_cmps (lo hi : RegName) (t : Tag) (p i j : Nat) : State.cmps (s.setPair lo hi t p i j) = s.cmps := rfl
@[simp] theorem setPair_therm (lo hi : RegName) (t : Tag) (p i j : Nat) : State.therm (s.setPair lo hi t p i j) = s.therm := rfl
@[simp] theorem setPair_prots (lo hi : RegName) (t : Tag) (p i j : Nat) : State.prots (s.setPair lo hi t p i j) = s.prots := rfl
@[simp] theorem setPair_fld (lo hi : RegName) (t : Tag) (p i j : Nat) : State.fld (s.setPair lo hi t p i j) = s.fld := rfl
@[simp] theorem setPair_soon (lo hi : RegName) (t : Tag) (p i j : Nat) : State.soon (s.setPair lo hi t p i j) = s.soon := rfl
@[simp] theorem setPair_incTag (lo hi : RegName) (t : Tag) (p i j : Nat) : State.incTag (s.setPair lo hi t p i j) = s.incTag := rfl
@[simp] theorem setPair_toOpen (lo hi : RegName) (t : Tag) (p i j : Nat) : State.toOpen (s.setPair lo hi t p i j) = s.toOpen := rfl
@[simp] theorem setPair_acqs (lo hi : RegName) (t : Tag) (p i j : Nat) : State.acqs (s.setPair lo hi t p i j) = s.acqs := rfl
@[simp] theorem setPair_axs (lo hi : RegName) (t : Tag) (p i j : Nat) : State.axs (s.setPair lo hi t p i j) = s.axs := rfl
@[simp] theorem setPair_engs (lo hi : RegName) (t : Tag) (p i j : Nat) : State.engs (s.setPair lo hi t p i j) = s.engs := rfl
@[simp] theorem setPair_poss (lo hi : RegName) (t : Tag) (p i j : Nat) : State.poss (s.setPair lo hi t p i j) = s.poss := rfl
@[simp] theorem setPair_emus (lo hi : RegName) (t : Tag) (p i j : Nat) : State.emus (s.setPair lo hi t p i j) = s.emus := rfl
@[simp] theorem setPair_net (lo hi : RegName) (t : Tag) (p i j : Nat) : State.net (s.setPair lo hi t p i j) = s.net := rfl
@[simp] theorem setPair_pwr (lo hi : RegName) (t : Tag) (p i j : Nat) : State.pwr (s.setPair lo hi t p i j) = s.pwr := rfl
@[simp] theorem setPair_img (lo hi : RegName) (t : Tag) (p i j : Nat) : State.img (s.setPair lo hi t p i j) = s.img := rfl
@[simp] theorem setPair_was (lo hi : RegName) (t : Tag) (p i j : Nat) : State.was (s.setPair lo hi t p i j) = s.was := rfl
@[simp] theorem bank_setPair (lo hi : RegName) (t : Tag) (p i j : Nat) (c' b' : Nat) : State.bank (s.setPair lo hi t p i j) c' b' = s.bank c' b' := rfl
@[simp] theorem core_setPair (lo hi : RegName) (t : Tag) (p i j : Nat) (c' : Nat) : State.core (s.setPair lo hi t p i j) c' = s.core c' := rfl
@[simp] theorem owner_setPair (lo hi : RegName) (t : Tag) (p i j : Nat) (x' : Res) : State.owner (s.setPair lo hi t p i j) x' = s.owner x' := rfl

/-! ### setIf -/

@[simp] theorem setIf_pending (c : Bool) (f : Fld) (p i j : Nat) : State.pending (s.setIf c f p i j) = s.pending := by cases c <;> rfl
@[simp] theorem setIf_clk (c : Bool) (f : Fld) (p i j : Nat) : State.clk (s.setIf c f p i j) = s.clk := by cases c <;> rfl
@[simp] theorem setIf_mem (c : Bool) (f : Fld) (p i j : Nat) : State.mem (s.setIf c f p i j) = s.mem := by cases c <;> rfl
@[simp] theorem setIf_ram (c : Bool) (f : Fld) (p i j : Nat) : State.ram (s.setIf c f p i j) = s.ram := by cases c <;> rfl
@[simp] theorem setIf_log (c : Bool) (f : Fld) (p i j : Nat) : State.log (s.setIf c f p i j) = s.log := by cases c <;> rfl
@[simp] theorem setIf_lsh (c : Bool) (f : Fld) (p i j : Nat) : State.lsh (s.setIf c f p i j) = s.lsh := by cases c <;> rfl
@[simp] theorem setIf_rdr (c : Bool) (f : Fld) (p i j : Nat) : State.rdr (s.setIf c f p i j) = s.rdr := by cases c <;> rfl
@[simp] theorem setIf_own (c : Bool) (f : Fld) (p i j : Nat) : State.own (s.setIf c f p i j) = s.own := by cases c <;> rfl
@[simp] theorem setIf_mbxTag (c : Bool) (f : Fld) (p i j : Nat) : State.mbxTag (s.setIf c f p i j) = s.mbxTag := by cases c <;> rfl
@[simp] theorem setIf_dma (c : Bool) (f : Fld) (p i j : Nat) : State.dma (s.setIf c f p i j) = s.dma := by cases c <;> rfl
@[simp] theorem setIf_free (c : Bool) (f : Fld) (p i j : Nat) : State.free (s.setIf c f p i j) = s.free := by cases c <;> rfl
@[simp] theorem setIf_resp (c : Bool) (f : Fld) (p i j : Nat) : State.resp (s.setIf c f p i j) = s.resp := by cases c <;> rfl
@[simp] theorem setIf_banks (c : Bool) (f : Fld) (p i j : Nat) : State.banks (s.setIf c f p i j) = s.banks := by cases c <;> rfl
@[simp] theorem setIf_cores (c : Bool) (f : Fld) (p i j : Nat) : State.cores (s.setIf c f p i j) = s.cores := by cases c <;> rfl
@[simp] theorem setIf_pairs (c : Bool) (f : Fld) (p i j : Nat) : State.pairs (s.setIf c f p i j) = s.pairs := by cases c <;> rfl
@[simp] theorem setIf_psets (c : Bool) (f : Fld) (p i j : Nat) : State.psets (s.setIf c f p i j) = s.psets := by cases c <;> rfl
@[simp] theorem setIf_plegs (c : Bool) (f : Fld) (p i j : Nat) : State.plegs (s.setIf c f p i j) = s.plegs := by cases c <;> rfl
@[simp] theorem setIf_axSet (c : Bool) (f : Fld) (p i j : Nat) : State.axSet (s.setIf c f p i j) = s.axSet := by cases c <;> rfl
@[simp] theorem setIf_cmps (c : Bool) (f : Fld) (p i j : Nat) : State.cmps (s.setIf c f p i j) = s.cmps := by cases c <;> rfl
@[simp] theorem setIf_therm (c : Bool) (f : Fld) (p i j : Nat) : State.therm (s.setIf c f p i j) = s.therm := by cases c <;> rfl
@[simp] theorem setIf_prots (c : Bool) (f : Fld) (p i j : Nat) : State.prots (s.setIf c f p i j) = s.prots := by cases c <;> rfl
@[simp] theorem setIf_fld (c : Bool) (f : Fld) (p i j : Nat) : State.fld (s.setIf c f p i j) = s.fld := by cases c <;> rfl
@[simp] theorem setIf_soon (c : Bool) (f : Fld) (p i j : Nat) : State.soon (s.setIf c f p i j) = s.soon := by cases c <;> rfl
@[simp] theorem setIf_incTag (c : Bool) (f : Fld) (p i j : Nat) : State.incTag (s.setIf c f p i j) = s.incTag := by cases c <;> rfl
@[simp] theorem setIf_toOpen (c : Bool) (f : Fld) (p i j : Nat) : State.toOpen (s.setIf c f p i j) = s.toOpen := by cases c <;> rfl
@[simp] theorem setIf_acqs (c : Bool) (f : Fld) (p i j : Nat) : State.acqs (s.setIf c f p i j) = s.acqs := by cases c <;> rfl
@[simp] theorem setIf_axs (c : Bool) (f : Fld) (p i j : Nat) : State.axs (s.setIf c f p i j) = s.axs := by cases c <;> rfl
@[simp] theorem setIf_engs (c : Bool) (f : Fld) (p i j : Nat) : State.engs (s.setIf c f p i j) = s.engs := by cases c <;> rfl
@[simp] theorem setIf_poss (c : Bool) (f : Fld) (p i j : Nat) : State.poss (s.setIf c f p i j) = s.poss := by cases c <;> rfl
@[simp] theorem setIf_emus (c : Bool) (f : Fld) (p i j : Nat) : State.emus (s.setIf c f p i j) = s.emus := by cases c <;> rfl
@[simp] theorem setIf_net (c : Bool) (f : Fld) (p i j : Nat) : State.net (s.setIf c f p i j) = s.net := by cases c <;> rfl
@[simp] theorem setIf_pwr (c : Bool) (f : Fld) (p i j : Nat) : State.pwr (s.setIf c f p i j) = s.pwr := by cases c <;> rfl
@[simp] theorem setIf_img (c : Bool) (f : Fld) (p i j : Nat) : State.img (s.setIf c f p i j) = s.img := by cases c <;> rfl
@[simp] theorem setIf_was (c : Bool) (f : Fld) (p i j : Nat) : State.was (s.setIf c f p i j) = s.was := by cases c <;> rfl
@[simp] theorem bank_setIf (c : Bool) (f : Fld) (p i j : Nat) (c' b' : Nat) : State.bank (s.setIf c f p i j) c' b' = s.bank c' b' := by cases c <;> rfl
@[simp] theorem core_setIf (c : Bool) (f : Fld) (p i j : Nat) (c' : Nat) : State.core (s.setIf c f p i j) c' = s.core c' := by cases c <;> rfl
@[simp] theorem owner_setIf (c : Bool) (f : Fld) (p i j : Nat) (x' : Res) : State.owner (s.setIf c f p i j) x' = s.owner x' := by cases c <;> rfl

/-! ### inc -/

@[simp] theorem inc_pending (f : Fld) (p i j : Nat) : State.pending (s.inc f p i j) = s.pending := by unfold State.inc; split <;> rfl
@[simp] theorem inc_clk (f : Fld) (p i j : Nat) : State.clk (s.inc f p i j) = s.clk := by unfold State.inc; split <;> rfl
@[simp] theorem inc_mem (f : Fld) (p i j : Nat) : State.mem (s.inc f p i j) = s.mem := by unfold State.inc; split <;> rfl
@[simp] theorem inc_ram (f : Fld) (p i j : Nat) : State.ram (s.inc f p i j) = s.ram := by unfold State.inc; split <;> rfl
@[simp] theorem inc_log (f : Fld) (p i j : Nat) : State.log (s.inc f p i j) = s.log := by unfold State.inc; split <;> rfl
@[simp] theorem inc_lsh (f : Fld) (p i j : Nat) : State.lsh (s.inc f p i j) = s.lsh := by unfold State.inc; split <;> rfl
@[simp] theorem inc_rdr (f : Fld) (p i j : Nat) : State.rdr (s.inc f p i j) = s.rdr := by unfold State.inc; split <;> rfl
@[simp] theorem inc_own (f : Fld) (p i j : Nat) : State.own (s.inc f p i j) = s.own := by unfold State.inc; split <;> rfl
@[simp] theorem inc_mbxTag (f : Fld) (p i j : Nat) : State.mbxTag (s.inc f p i j) = s.mbxTag := by unfold State.inc; split <;> rfl
@[simp] theorem inc_dma (f : Fld) (p i j : Nat) : State.dma (s.inc f p i j) = s.dma := by unfold State.inc; split <;> rfl
@[simp] theorem inc_free (f : Fld) (p i j : Nat) : State.free (s.inc f p i j) = s.free := by unfold State.inc; split <;> rfl
@[simp] theorem inc_resp (f : Fld) (p i j : Nat) : State.resp (s.inc f p i j) = s.resp := by unfold State.inc; split <;> rfl
@[simp] theorem inc_banks (f : Fld) (p i j : Nat) : State.banks (s.inc f p i j) = s.banks := by unfold State.inc; split <;> rfl
@[simp] theorem inc_cores (f : Fld) (p i j : Nat) : State.cores (s.inc f p i j) = s.cores := by unfold State.inc; split <;> rfl
@[simp] theorem inc_pairs (f : Fld) (p i j : Nat) : State.pairs (s.inc f p i j) = s.pairs := by unfold State.inc; split <;> rfl
@[simp] theorem inc_psets (f : Fld) (p i j : Nat) : State.psets (s.inc f p i j) = s.psets := by unfold State.inc; split <;> rfl
@[simp] theorem inc_plegs (f : Fld) (p i j : Nat) : State.plegs (s.inc f p i j) = s.plegs := by unfold State.inc; split <;> rfl
@[simp] theorem inc_axSet (f : Fld) (p i j : Nat) : State.axSet (s.inc f p i j) = s.axSet := by unfold State.inc; split <;> rfl
@[simp] theorem inc_cmps (f : Fld) (p i j : Nat) : State.cmps (s.inc f p i j) = s.cmps := by unfold State.inc; split <;> rfl
@[simp] theorem inc_therm (f : Fld) (p i j : Nat) : State.therm (s.inc f p i j) = s.therm := by unfold State.inc; split <;> rfl
@[simp] theorem inc_prots (f : Fld) (p i j : Nat) : State.prots (s.inc f p i j) = s.prots := by unfold State.inc; split <;> rfl
@[simp] theorem inc_fld (f : Fld) (p i j : Nat) : State.fld (s.inc f p i j) = s.fld := by unfold State.inc; split <;> rfl
@[simp] theorem inc_soon (f : Fld) (p i j : Nat) : State.soon (s.inc f p i j) = s.soon := by unfold State.inc; split <;> rfl
@[simp] theorem inc_incTag (f : Fld) (p i j : Nat) : State.incTag (s.inc f p i j) = s.incTag := by unfold State.inc; split <;> rfl
@[simp] theorem inc_toOpen (f : Fld) (p i j : Nat) : State.toOpen (s.inc f p i j) = s.toOpen := by unfold State.inc; split <;> rfl
@[simp] theorem inc_acqs (f : Fld) (p i j : Nat) : State.acqs (s.inc f p i j) = s.acqs := by unfold State.inc; split <;> rfl
@[simp] theorem inc_axs (f : Fld) (p i j : Nat) : State.axs (s.inc f p i j) = s.axs := by unfold State.inc; split <;> rfl
@[simp] theorem inc_engs (f : Fld) (p i j : Nat) : State.engs (s.inc f p i j) = s.engs := by unfold State.inc; split <;> rfl
@[simp] theorem inc_poss (f : Fld) (p i j : Nat) : State.poss (s.inc f p i j) = s.poss := by unfold State.inc; split <;> rfl
@[simp] theorem inc_emus (f : Fld) (p i j : Nat) : State.emus (s.inc f p i j) = s.emus := by unfold State.inc; split <;> rfl
@[simp] theorem inc_net (f : Fld) (p i j : Nat) : State.net (s.inc f p i j) = s.net := by unfold State.inc; split <;> rfl
@[simp] theorem inc_pwr (f : Fld) (p i j : Nat) : State.pwr (s.inc f p i j) = s.pwr := by unfold State.inc; split <;> rfl
@[simp] theorem inc_img (f : Fld) (p i j : Nat) : State.img (s.inc f p i j) = s.img := by unfold State.inc; split <;> rfl
@[simp] theorem inc_was (f : Fld) (p i j : Nat) : State.was (s.inc f p i j) = s.was := by unfold State.inc; split <;> rfl
@[simp] theorem bank_inc (f : Fld) (p i j : Nat) (c' b' : Nat) : State.bank (s.inc f p i j) c' b' = s.bank c' b' := by unfold State.inc; split <;> rfl
@[simp] theorem core_inc (f : Fld) (p i j : Nat) (c' : Nat) : State.core (s.inc f p i j) c' = s.core c' := by unfold State.inc; split <;> rfl
@[simp] theorem owner_inc (f : Fld) (p i j : Nat) (x' : Res) : State.owner (s.inc f p i j) x' = s.owner x' := by unfold State.inc; split <;> rfl

/-! ### putPf -/

@[simp] theorem putPf_pending (f : Fld) (v n : Nat) : State.pending (s.putPf f v n) = s.pending := rfl
@[simp] theorem putPf_clk (f : Fld) (v n : Nat) : State.clk (s.putPf f v n) = s.clk := rfl
@[simp] theorem putPf_mem (f : Fld) (v n : Nat) : State.mem (s.putPf f v n) = s.mem := rfl
@[simp] theorem putPf_ram (f : Fld) (v n : Nat) : State.ram (s.putPf f v n) = s.ram := rfl
@[simp] theorem putPf_log (f : Fld) (v n : Nat) : State.log (s.putPf f v n) = s.log := rfl
@[simp] theorem putPf_lsh (f : Fld) (v n : Nat) : State.lsh (s.putPf f v n) = s.lsh := rfl
@[simp] theorem putPf_rdr (f : Fld) (v n : Nat) : State.rdr (s.putPf f v n) = s.rdr := rfl
@[simp] theorem putPf_own (f : Fld) (v n : Nat) : State.own (s.putPf f v n) = s.own := rfl
@[simp] theorem putPf_mbxTag (f : Fld) (v n : Nat) : State.mbxTag (s.putPf f v n) = s.mbxTag := rfl
@[simp] theorem putPf_dma (f : Fld) (v n : Nat) : State.dma (s.putPf f v n) = s.dma := rfl
@[simp] theorem putPf_free (f : Fld) (v n : Nat) : State.free (s.putPf f v n) = s.free := rfl
@[simp] theorem putPf_resp (f : Fld) (v n : Nat) : State.resp (s.putPf f v n) = s.resp := rfl
@[simp] theorem putPf_banks (f : Fld) (v n : Nat) : State.banks (s.putPf f v n) = s.banks := rfl
@[simp] theorem putPf_cores (f : Fld) (v n : Nat) : State.cores (s.putPf f v n) = s.cores := rfl
@[simp] theorem putPf_pairs (f : Fld) (v n : Nat) : State.pairs (s.putPf f v n) = s.pairs := rfl
@[simp] theorem putPf_psets (f : Fld) (v n : Nat) : State.psets (s.putPf f v n) = s.psets := rfl
@[simp] theorem putPf_plegs (f : Fld) (v n : Nat) : State.plegs (s.putPf f v n) = s.plegs := rfl
@[simp] theorem putPf_axSet (f : Fld) (v n : Nat) : State.axSet (s.putPf f v n) = s.axSet := rfl
@[simp] theorem putPf_cmps (f : Fld) (v n : Nat) : State.cmps (s.putPf f v n) = s.cmps := rfl
@[simp] theorem putPf_therm (f : Fld) (v n : Nat) : State.therm (s.putPf f v n) = s.therm := rfl
@[simp] theorem putPf_prots (f : Fld) (v n : Nat) : State.prots (s.putPf f v n) = s.prots := rfl
@[simp] theorem putPf_fld (f : Fld) (v n : Nat) : State.fld (s.putPf f v n) = s.fld := rfl
@[simp] theorem putPf_soon (f : Fld) (v n : Nat) : State.soon (s.putPf f v n) = s.soon := rfl
@[simp] theorem putPf_incTag (f : Fld) (v n : Nat) : State.incTag (s.putPf f v n) = s.incTag := rfl
@[simp] theorem putPf_toOpen (f : Fld) (v n : Nat) : State.toOpen (s.putPf f v n) = s.toOpen := rfl
@[simp] theorem putPf_acqs (f : Fld) (v n : Nat) : State.acqs (s.putPf f v n) = s.acqs := rfl
@[simp] theorem putPf_axs (f : Fld) (v n : Nat) : State.axs (s.putPf f v n) = s.axs := rfl
@[simp] theorem putPf_engs (f : Fld) (v n : Nat) : State.engs (s.putPf f v n) = s.engs := rfl
@[simp] theorem putPf_poss (f : Fld) (v n : Nat) : State.poss (s.putPf f v n) = s.poss := rfl
@[simp] theorem putPf_emus (f : Fld) (v n : Nat) : State.emus (s.putPf f v n) = s.emus := rfl
@[simp] theorem putPf_net (f : Fld) (v n : Nat) : State.net (s.putPf f v n) = s.net := rfl
@[simp] theorem putPf_pwr (f : Fld) (v n : Nat) : State.pwr (s.putPf f v n) = s.pwr := rfl
@[simp] theorem putPf_img (f : Fld) (v n : Nat) : State.img (s.putPf f v n) = s.img := rfl
@[simp] theorem putPf_was (f : Fld) (v n : Nat) : State.was (s.putPf f v n) = s.was := rfl
@[simp] theorem bank_putPf (f : Fld) (v n : Nat) (c' b' : Nat) : State.bank (s.putPf f v n) c' b' = s.bank c' b' := rfl
@[simp] theorem core_putPf (f : Fld) (v n : Nat) (c' : Nat) : State.core (s.putPf f v n) c' = s.core c' := rfl
@[simp] theorem owner_putPf (f : Fld) (v n : Nat) (x' : Res) : State.owner (s.putPf f v n) x' = s.owner x' := rfl

/-! ### putPend -/

@[simp] theorem putPend_pending (c n : Nat) (b : Bool) : State.pending (s.putPend c n b) = s.pending := rfl
@[simp] theorem putPend_clk (c n : Nat) (b : Bool) : State.clk (s.putPend c n b) = s.clk := rfl
@[simp] theorem putPend_mem (c n : Nat) (b : Bool) : State.mem (s.putPend c n b) = s.mem := rfl
@[simp] theorem putPend_ram (c n : Nat) (b : Bool) : State.ram (s.putPend c n b) = s.ram := rfl
@[simp] theorem putPend_log (c n : Nat) (b : Bool) : State.log (s.putPend c n b) = s.log := rfl
@[simp] theorem putPend_lsh (c n : Nat) (b : Bool) : State.lsh (s.putPend c n b) = s.lsh := rfl
@[simp] theorem putPend_rdr (c n : Nat) (b : Bool) : State.rdr (s.putPend c n b) = s.rdr := rfl
@[simp] theorem putPend_own (c n : Nat) (b : Bool) : State.own (s.putPend c n b) = s.own := rfl
@[simp] theorem putPend_mbxTag (c n : Nat) (b : Bool) : State.mbxTag (s.putPend c n b) = s.mbxTag := rfl
@[simp] theorem putPend_dma (c n : Nat) (b : Bool) : State.dma (s.putPend c n b) = s.dma := rfl
@[simp] theorem putPend_free (c n : Nat) (b : Bool) : State.free (s.putPend c n b) = s.free := rfl
@[simp] theorem putPend_resp (c n : Nat) (b : Bool) : State.resp (s.putPend c n b) = s.resp := rfl
@[simp] theorem putPend_banks (c n : Nat) (b : Bool) : State.banks (s.putPend c n b) = s.banks := rfl
@[simp] theorem putPend_cores (c n : Nat) (b : Bool) : State.cores (s.putPend c n b) = s.cores := rfl
@[simp] theorem putPend_pairs (c n : Nat) (b : Bool) : State.pairs (s.putPend c n b) = s.pairs := rfl
@[simp] theorem putPend_psets (c n : Nat) (b : Bool) : State.psets (s.putPend c n b) = s.psets := rfl
@[simp] theorem putPend_plegs (c n : Nat) (b : Bool) : State.plegs (s.putPend c n b) = s.plegs := rfl
@[simp] theorem putPend_axSet (c n : Nat) (b : Bool) : State.axSet (s.putPend c n b) = s.axSet := rfl
@[simp] theorem putPend_cmps (c n : Nat) (b : Bool) : State.cmps (s.putPend c n b) = s.cmps := rfl
@[simp] theorem putPend_therm (c n : Nat) (b : Bool) : State.therm (s.putPend c n b) = s.therm := rfl
@[simp] theorem putPend_prots (c n : Nat) (b : Bool) : State.prots (s.putPend c n b) = s.prots := rfl
@[simp] theorem putPend_fld (c n : Nat) (b : Bool) : State.fld (s.putPend c n b) = s.fld := rfl
@[simp] theorem putPend_soon (c n : Nat) (b : Bool) : State.soon (s.putPend c n b) = s.soon := rfl
@[simp] theorem putPend_incTag (c n : Nat) (b : Bool) : State.incTag (s.putPend c n b) = s.incTag := rfl
@[simp] theorem putPend_toOpen (c n : Nat) (b : Bool) : State.toOpen (s.putPend c n b) = s.toOpen := rfl
@[simp] theorem putPend_acqs (c n : Nat) (b : Bool) : State.acqs (s.putPend c n b) = s.acqs := rfl
@[simp] theorem putPend_axs (c n : Nat) (b : Bool) : State.axs (s.putPend c n b) = s.axs := rfl
@[simp] theorem putPend_engs (c n : Nat) (b : Bool) : State.engs (s.putPend c n b) = s.engs := rfl
@[simp] theorem putPend_poss (c n : Nat) (b : Bool) : State.poss (s.putPend c n b) = s.poss := rfl
@[simp] theorem putPend_emus (c n : Nat) (b : Bool) : State.emus (s.putPend c n b) = s.emus := rfl
@[simp] theorem putPend_net (c n : Nat) (b : Bool) : State.net (s.putPend c n b) = s.net := rfl
@[simp] theorem putPend_pwr (c n : Nat) (b : Bool) : State.pwr (s.putPend c n b) = s.pwr := rfl
@[simp] theorem putPend_img (c n : Nat) (b : Bool) : State.img (s.putPend c n b) = s.img := rfl
@[simp] theorem putPend_was (c n : Nat) (b : Bool) : State.was (s.putPend c n b) = s.was := rfl
@[simp] theorem bank_putPend (c n : Nat) (b : Bool) (c' b' : Nat) : State.bank (s.putPend c n b) c' b' = s.bank c' b' := rfl
@[simp] theorem core_putPend (c n : Nat) (b : Bool) (c' : Nat) : State.core (s.putPend c n b) c' = s.core c' := rfl
@[simp] theorem owner_putPend (c n : Nat) (b : Bool) (x' : Res) : State.owner (s.putPend c n b) x' = s.owner x' := rfl

/-! ### resetBlk -/

@[simp] theorem resetBlk_pending (b : Blk) (p : Nat) : State.pending (s.resetBlk b p) = s.pending := rfl
@[simp] theorem resetBlk_clk (b : Blk) (p : Nat) : State.clk (s.resetBlk b p) = s.clk := rfl
@[simp] theorem resetBlk_mem (b : Blk) (p : Nat) : State.mem (s.resetBlk b p) = s.mem := rfl
@[simp] theorem resetBlk_ram (b : Blk) (p : Nat) : State.ram (s.resetBlk b p) = s.ram := rfl
@[simp] theorem resetBlk_log (b : Blk) (p : Nat) : State.log (s.resetBlk b p) = s.log := rfl
@[simp] theorem resetBlk_lsh (b : Blk) (p : Nat) : State.lsh (s.resetBlk b p) = s.lsh := rfl
@[simp] theorem resetBlk_rdr (b : Blk) (p : Nat) : State.rdr (s.resetBlk b p) = s.rdr := rfl
@[simp] theorem resetBlk_own (b : Blk) (p : Nat) : State.own (s.resetBlk b p) = s.own := rfl
@[simp] theorem resetBlk_mbxTag (b : Blk) (p : Nat) : State.mbxTag (s.resetBlk b p) = s.mbxTag := rfl
@[simp] theorem resetBlk_dma (b : Blk) (p : Nat) : State.dma (s.resetBlk b p) = s.dma := rfl
@[simp] theorem resetBlk_free (b : Blk) (p : Nat) : State.free (s.resetBlk b p) = s.free := rfl
@[simp] theorem resetBlk_resp (b : Blk) (p : Nat) : State.resp (s.resetBlk b p) = s.resp := rfl
@[simp] theorem resetBlk_banks (b : Blk) (p : Nat) : State.banks (s.resetBlk b p) = s.banks := rfl
@[simp] theorem resetBlk_cores (b : Blk) (p : Nat) : State.cores (s.resetBlk b p) = s.cores := rfl
@[simp] theorem resetBlk_pairs (b : Blk) (p : Nat) : State.pairs (s.resetBlk b p) = s.pairs := rfl
@[simp] theorem resetBlk_psets (b : Blk) (p : Nat) : State.psets (s.resetBlk b p) = s.psets := rfl
@[simp] theorem resetBlk_plegs (b : Blk) (p : Nat) : State.plegs (s.resetBlk b p) = s.plegs := rfl
@[simp] theorem resetBlk_axSet (b : Blk) (p : Nat) : State.axSet (s.resetBlk b p) = s.axSet := rfl
@[simp] theorem resetBlk_cmps (b : Blk) (p : Nat) : State.cmps (s.resetBlk b p) = s.cmps := rfl
@[simp] theorem resetBlk_therm (b : Blk) (p : Nat) : State.therm (s.resetBlk b p) = s.therm := rfl
@[simp] theorem resetBlk_prots (b : Blk) (p : Nat) : State.prots (s.resetBlk b p) = s.prots := rfl
@[simp] theorem resetBlk_fld (b : Blk) (p : Nat) : State.fld (s.resetBlk b p) = s.fld := rfl
@[simp] theorem resetBlk_soon (b : Blk) (p : Nat) : State.soon (s.resetBlk b p) = s.soon := rfl
@[simp] theorem resetBlk_incTag (b : Blk) (p : Nat) : State.incTag (s.resetBlk b p) = s.incTag := rfl
@[simp] theorem resetBlk_toOpen (b : Blk) (p : Nat) : State.toOpen (s.resetBlk b p) = s.toOpen := rfl
@[simp] theorem resetBlk_acqs (b : Blk) (p : Nat) : State.acqs (s.resetBlk b p) = s.acqs := rfl
@[simp] theorem resetBlk_axs (b : Blk) (p : Nat) : State.axs (s.resetBlk b p) = s.axs := rfl
@[simp] theorem resetBlk_engs (b : Blk) (p : Nat) : State.engs (s.resetBlk b p) = s.engs := rfl
@[simp] theorem resetBlk_poss (b : Blk) (p : Nat) : State.poss (s.resetBlk b p) = s.poss := rfl
@[simp] theorem resetBlk_emus (b : Blk) (p : Nat) : State.emus (s.resetBlk b p) = s.emus := rfl
@[simp] theorem resetBlk_net (b : Blk) (p : Nat) : State.net (s.resetBlk b p) = s.net := rfl
@[simp] theorem resetBlk_pwr (b : Blk) (p : Nat) : State.pwr (s.resetBlk b p) = s.pwr := rfl
@[simp] theorem resetBlk_img (b : Blk) (p : Nat) : State.img (s.resetBlk b p) = s.img := rfl
@[simp] theorem resetBlk_was (b : Blk) (p : Nat) : State.was (s.resetBlk b p) = s.was := rfl
@[simp] theorem bank_resetBlk (b : Blk) (p : Nat) (c' b' : Nat) : State.bank (s.resetBlk b p) c' b' = s.bank c' b' := rfl
@[simp] theorem core_resetBlk (b : Blk) (p : Nat) (c' : Nat) : State.core (s.resetBlk b p) c' = s.core c' := rfl
@[simp] theorem owner_resetBlk (b : Blk) (p : Nat) (x' : Res) : State.owner (s.resetBlk b p) x' = s.owner x' := rfl

/-! ### setBank -/

@[simp] theorem setBank_pending (c b : Nat) (k : Bank) : State.pending (s.setBank c b k) = s.pending := rfl
@[simp] theorem setBank_clk (c b : Nat) (k : Bank) : State.clk (s.setBank c b k) = s.clk := rfl
@[simp] theorem setBank_regs (c b : Nat) (k : Bank) : State.regs (s.setBank c b k) = s.regs := rfl
@[simp] theorem setBank_mem (c b : Nat) (k : Bank) : State.mem (s.setBank c b k) = s.mem := rfl
@[simp] theorem setBank_ram (c b : Nat) (k : Bank) : State.ram (s.setBank c b k) = s.ram := rfl
@[simp] theorem setBank_log (c b : Nat) (k : Bank) : State.log (s.setBank c b k) = s.log := rfl
@[simp] theorem setBank_lsh (c b : Nat) (k : Bank) : State.lsh (s.setBank c b k) = s.lsh := rfl
@[simp] theorem setBank_rdr (c b : Nat) (k : Bank) : State.rdr (s.setBank c b k) = s.rdr := rfl
@[simp] theorem setBank_own (c b : Nat) (k : Bank) : State.own (s.setBank c b k) = s.own := rfl
@[simp] theorem setBank_mbxTag (c b : Nat) (k : Bank) : State.mbxTag (s.setBank c b k) = s.mbxTag := rfl
@[simp] theorem setBank_dma (c b : Nat) (k : Bank) : State.dma (s.setBank c b k) = s.dma := rfl
@[simp] theorem setBank_free (c b : Nat) (k : Bank) : State.free (s.setBank c b k) = s.free := rfl
@[simp] theorem setBank_resp (c b : Nat) (k : Bank) : State.resp (s.setBank c b k) = s.resp := rfl
@[simp] theorem setBank_cores (c b : Nat) (k : Bank) : State.cores (s.setBank c b k) = s.cores := rfl
@[simp] theorem setBank_pairs (c b : Nat) (k : Bank) : State.pairs (s.setBank c b k) = s.pairs := rfl
@[simp] theorem setBank_psets (c b : Nat) (k : Bank) : State.psets (s.setBank c b k) = s.psets := rfl
@[simp] theorem setBank_plegs (c b : Nat) (k : Bank) : State.plegs (s.setBank c b k) = s.plegs := rfl
@[simp] theorem setBank_axSet (c b : Nat) (k : Bank) : State.axSet (s.setBank c b k) = s.axSet := rfl
@[simp] theorem setBank_cmps (c b : Nat) (k : Bank) : State.cmps (s.setBank c b k) = s.cmps := rfl
@[simp] theorem setBank_therm (c b : Nat) (k : Bank) : State.therm (s.setBank c b k) = s.therm := rfl
@[simp] theorem setBank_prots (c b : Nat) (k : Bank) : State.prots (s.setBank c b k) = s.prots := rfl
@[simp] theorem setBank_fld (c b : Nat) (k : Bank) : State.fld (s.setBank c b k) = s.fld := rfl
@[simp] theorem setBank_soon (c b : Nat) (k : Bank) : State.soon (s.setBank c b k) = s.soon := rfl
@[simp] theorem setBank_incTag (c b : Nat) (k : Bank) : State.incTag (s.setBank c b k) = s.incTag := rfl
@[simp] theorem setBank_toOpen (c b : Nat) (k : Bank) : State.toOpen (s.setBank c b k) = s.toOpen := rfl
@[simp] theorem setBank_acqs (c b : Nat) (k : Bank) : State.acqs (s.setBank c b k) = s.acqs := rfl
@[simp] theorem setBank_axs (c b : Nat) (k : Bank) : State.axs (s.setBank c b k) = s.axs := rfl
@[simp] theorem setBank_engs (c b : Nat) (k : Bank) : State.engs (s.setBank c b k) = s.engs := rfl
@[simp] theorem setBank_poss (c b : Nat) (k : Bank) : State.poss (s.setBank c b k) = s.poss := rfl
@[simp] theorem setBank_emus (c b : Nat) (k : Bank) : State.emus (s.setBank c b k) = s.emus := rfl
@[simp] theorem setBank_net (c b : Nat) (k : Bank) : State.net (s.setBank c b k) = s.net := rfl
@[simp] theorem setBank_pwr (c b : Nat) (k : Bank) : State.pwr (s.setBank c b k) = s.pwr := rfl
@[simp] theorem setBank_img (c b : Nat) (k : Bank) : State.img (s.setBank c b k) = s.img := rfl
@[simp] theorem setBank_was (c b : Nat) (k : Bank) : State.was (s.setBank c b k) = s.was := rfl
@[simp] theorem rd_setBank (c b : Nat) (k : Bank) (r : RegName) (p' i' j' : Nat) : State.rd (s.setBank c b k) r p' i' j' = s.rd r p' i' j' := rfl
@[simp] theorem f_setBank (c b : Nat) (k : Bank) (g : Fld) (p' i' j' : Nat) : State.f (s.setBank c b k) g p' i' j' = s.f g p' i' j' := rfl
@[simp] theorem bit_setBank (c b : Nat) (k : Bank) (g : Fld) (p' i' j' : Nat) : State.bit (s.setBank c b k) g p' i' j' = s.bit g p' i' j' := rfl
@[simp] theorem core_setBank (c b : Nat) (k : Bank) (c' : Nat) : State.core (s.setBank c b k) c' = s.core c' := rfl
@[simp] theorem owner_setBank (c b : Nat) (k : Bank) (x' : Res) : State.owner (s.setBank c b k) x' = s.owner x' := rfl

/-! ### setCore -/

@[simp] theorem setCore_pending (c : Nat) (k : Core) : State.pending (s.setCore c k) = s.pending := rfl
@[simp] theorem setCore_clk (c : Nat) (k : Core) : State.clk (s.setCore c k) = s.clk := rfl
@[simp] theorem setCore_regs (c : Nat) (k : Core) : State.regs (s.setCore c k) = s.regs := rfl
@[simp] theorem setCore_mem (c : Nat) (k : Core) : State.mem (s.setCore c k) = s.mem := rfl
@[simp] theorem setCore_ram (c : Nat) (k : Core) : State.ram (s.setCore c k) = s.ram := rfl
@[simp] theorem setCore_log (c : Nat) (k : Core) : State.log (s.setCore c k) = s.log := rfl
@[simp] theorem setCore_lsh (c : Nat) (k : Core) : State.lsh (s.setCore c k) = s.lsh := rfl
@[simp] theorem setCore_rdr (c : Nat) (k : Core) : State.rdr (s.setCore c k) = s.rdr := rfl
@[simp] theorem setCore_own (c : Nat) (k : Core) : State.own (s.setCore c k) = s.own := rfl
@[simp] theorem setCore_mbxTag (c : Nat) (k : Core) : State.mbxTag (s.setCore c k) = s.mbxTag := rfl
@[simp] theorem setCore_dma (c : Nat) (k : Core) : State.dma (s.setCore c k) = s.dma := rfl
@[simp] theorem setCore_free (c : Nat) (k : Core) : State.free (s.setCore c k) = s.free := rfl
@[simp] theorem setCore_resp (c : Nat) (k : Core) : State.resp (s.setCore c k) = s.resp := rfl
@[simp] theorem setCore_banks (c : Nat) (k : Core) : State.banks (s.setCore c k) = s.banks := rfl
@[simp] theorem setCore_pairs (c : Nat) (k : Core) : State.pairs (s.setCore c k) = s.pairs := rfl
@[simp] theorem setCore_psets (c : Nat) (k : Core) : State.psets (s.setCore c k) = s.psets := rfl
@[simp] theorem setCore_plegs (c : Nat) (k : Core) : State.plegs (s.setCore c k) = s.plegs := rfl
@[simp] theorem setCore_axSet (c : Nat) (k : Core) : State.axSet (s.setCore c k) = s.axSet := rfl
@[simp] theorem setCore_cmps (c : Nat) (k : Core) : State.cmps (s.setCore c k) = s.cmps := rfl
@[simp] theorem setCore_therm (c : Nat) (k : Core) : State.therm (s.setCore c k) = s.therm := rfl
@[simp] theorem setCore_prots (c : Nat) (k : Core) : State.prots (s.setCore c k) = s.prots := rfl
@[simp] theorem setCore_fld (c : Nat) (k : Core) : State.fld (s.setCore c k) = s.fld := rfl
@[simp] theorem setCore_soon (c : Nat) (k : Core) : State.soon (s.setCore c k) = s.soon := rfl
@[simp] theorem setCore_incTag (c : Nat) (k : Core) : State.incTag (s.setCore c k) = s.incTag := rfl
@[simp] theorem setCore_toOpen (c : Nat) (k : Core) : State.toOpen (s.setCore c k) = s.toOpen := rfl
@[simp] theorem setCore_acqs (c : Nat) (k : Core) : State.acqs (s.setCore c k) = s.acqs := rfl
@[simp] theorem setCore_axs (c : Nat) (k : Core) : State.axs (s.setCore c k) = s.axs := rfl
@[simp] theorem setCore_engs (c : Nat) (k : Core) : State.engs (s.setCore c k) = s.engs := rfl
@[simp] theorem setCore_poss (c : Nat) (k : Core) : State.poss (s.setCore c k) = s.poss := rfl
@[simp] theorem setCore_emus (c : Nat) (k : Core) : State.emus (s.setCore c k) = s.emus := rfl
@[simp] theorem setCore_net (c : Nat) (k : Core) : State.net (s.setCore c k) = s.net := rfl
@[simp] theorem setCore_pwr (c : Nat) (k : Core) : State.pwr (s.setCore c k) = s.pwr := rfl
@[simp] theorem setCore_img (c : Nat) (k : Core) : State.img (s.setCore c k) = s.img := rfl
@[simp] theorem setCore_was (c : Nat) (k : Core) : State.was (s.setCore c k) = s.was := rfl
@[simp] theorem rd_setCore (c : Nat) (k : Core) (r : RegName) (p' i' j' : Nat) : State.rd (s.setCore c k) r p' i' j' = s.rd r p' i' j' := rfl
@[simp] theorem f_setCore (c : Nat) (k : Core) (g : Fld) (p' i' j' : Nat) : State.f (s.setCore c k) g p' i' j' = s.f g p' i' j' := rfl
@[simp] theorem bit_setCore (c : Nat) (k : Core) (g : Fld) (p' i' j' : Nat) : State.bit (s.setCore c k) g p' i' j' = s.bit g p' i' j' := rfl
@[simp] theorem bank_setCore (c : Nat) (k : Core) (c' b' : Nat) : State.bank (s.setCore c k) c' b' = s.bank c' b' := rfl
@[simp] theorem owner_setCore (c : Nat) (k : Core) (x' : Res) : State.owner (s.setCore c k) x' = s.owner x' := rfl

/-! ### updCore -/

@[simp] theorem updCore_pending (c : Nat) (f : Core → Core) : State.pending (s.updCore c f) = s.pending := rfl
@[simp] theorem updCore_clk (c : Nat) (f : Core → Core) : State.clk (s.updCore c f) = s.clk := rfl
@[simp] theorem updCore_regs (c : Nat) (f : Core → Core) : State.regs (s.updCore c f) = s.regs := rfl
@[simp] theorem updCore_mem (c : Nat) (f : Core → Core) : State.mem (s.updCore c f) = s.mem := rfl
@[simp] theorem updCore_ram (c : Nat) (f : Core → Core) : State.ram (s.updCore c f) = s.ram := rfl
@[simp] theorem updCore_log (c : Nat) (f : Core → Core) : State.log (s.updCore c f) = s.log := rfl
@[simp] theorem updCore_lsh (c : Nat) (f : Core → Core) : State.lsh (s.updCore c f) = s.lsh := rfl
@[simp] theorem updCore_rdr (c : Nat) (f : Core → Core) : State.rdr (s.updCore c f) = s.rdr := rfl
@[simp] theorem updCore_own (c : Nat) (f : Core → Core) : State.own (s.updCore c f) = s.own := rfl
@[simp] theorem updCore_mbxTag (c : Nat) (f : Core → Core) : State.mbxTag (s.updCore c f) = s.mbxTag := rfl
@[simp] theorem updCore_dma (c : Nat) (f : Core → Core) : State.dma (s.updCore c f) = s.dma := rfl
@[simp] theorem updCore_free (c : Nat) (f : Core → Core) : State.free (s.updCore c f) = s.free := rfl
@[simp] theorem updCore_resp (c : Nat) (f : Core → Core) : State.resp (s.updCore c f) = s.resp := rfl
@[simp] theorem updCore_banks (c : Nat) (f : Core → Core) : State.banks (s.updCore c f) = s.banks := rfl
@[simp] theorem updCore_pairs (c : Nat) (f : Core → Core) : State.pairs (s.updCore c f) = s.pairs := rfl
@[simp] theorem updCore_psets (c : Nat) (f : Core → Core) : State.psets (s.updCore c f) = s.psets := rfl
@[simp] theorem updCore_plegs (c : Nat) (f : Core → Core) : State.plegs (s.updCore c f) = s.plegs := rfl
@[simp] theorem updCore_axSet (c : Nat) (f : Core → Core) : State.axSet (s.updCore c f) = s.axSet := rfl
@[simp] theorem updCore_cmps (c : Nat) (f : Core → Core) : State.cmps (s.updCore c f) = s.cmps := rfl
@[simp] theorem updCore_therm (c : Nat) (f : Core → Core) : State.therm (s.updCore c f) = s.therm := rfl
@[simp] theorem updCore_prots (c : Nat) (f : Core → Core) : State.prots (s.updCore c f) = s.prots := rfl
@[simp] theorem updCore_fld (c : Nat) (f : Core → Core) : State.fld (s.updCore c f) = s.fld := rfl
@[simp] theorem updCore_soon (c : Nat) (f : Core → Core) : State.soon (s.updCore c f) = s.soon := rfl
@[simp] theorem updCore_incTag (c : Nat) (f : Core → Core) : State.incTag (s.updCore c f) = s.incTag := rfl
@[simp] theorem updCore_toOpen (c : Nat) (f : Core → Core) : State.toOpen (s.updCore c f) = s.toOpen := rfl
@[simp] theorem updCore_acqs (c : Nat) (f : Core → Core) : State.acqs (s.updCore c f) = s.acqs := rfl
@[simp] theorem updCore_axs (c : Nat) (f : Core → Core) : State.axs (s.updCore c f) = s.axs := rfl
@[simp] theorem updCore_engs (c : Nat) (f : Core → Core) : State.engs (s.updCore c f) = s.engs := rfl
@[simp] theorem updCore_poss (c : Nat) (f : Core → Core) : State.poss (s.updCore c f) = s.poss := rfl
@[simp] theorem updCore_emus (c : Nat) (f : Core → Core) : State.emus (s.updCore c f) = s.emus := rfl
@[simp] theorem updCore_net (c : Nat) (f : Core → Core) : State.net (s.updCore c f) = s.net := rfl
@[simp] theorem updCore_pwr (c : Nat) (f : Core → Core) : State.pwr (s.updCore c f) = s.pwr := rfl
@[simp] theorem updCore_img (c : Nat) (f : Core → Core) : State.img (s.updCore c f) = s.img := rfl
@[simp] theorem updCore_was (c : Nat) (f : Core → Core) : State.was (s.updCore c f) = s.was := rfl
@[simp] theorem rd_updCore (c : Nat) (f : Core → Core) (r : RegName) (p' i' j' : Nat) : State.rd (s.updCore c f) r p' i' j' = s.rd r p' i' j' := rfl
@[simp] theorem f_updCore (c : Nat) (f : Core → Core) (g : Fld) (p' i' j' : Nat) : State.f (s.updCore c f) g p' i' j' = s.f g p' i' j' := rfl
@[simp] theorem bit_updCore (c : Nat) (f : Core → Core) (g : Fld) (p' i' j' : Nat) : State.bit (s.updCore c f) g p' i' j' = s.bit g p' i' j' := rfl
@[simp] theorem bank_updCore (c : Nat) (f : Core → Core) (c' b' : Nat) : State.bank (s.updCore c f) c' b' = s.bank c' b' := rfl
@[simp] theorem owner_updCore (c : Nat) (f : Core → Core) (x' : Res) : State.owner (s.updCore c f) x' = s.owner x' := rfl

/-! ### updPair -/

@[simp] theorem updPair_pending (n : Nat) (f : Pair → Pair) : State.pending (s.updPair n f) = s.pending := rfl
@[simp] theorem updPair_clk (n : Nat) (f : Pair → Pair) : State.clk (s.updPair n f) = s.clk := rfl
@[simp] theorem updPair_regs (n : Nat) (f : Pair → Pair) : State.regs (s.updPair n f) = s.regs := rfl
@[simp] theorem updPair_mem (n : Nat) (f : Pair → Pair) : State.mem (s.updPair n f) = s.mem := rfl
@[simp] theorem updPair_ram (n : Nat) (f : Pair → Pair) : State.ram (s.updPair n f) = s.ram := rfl
@[simp] theorem updPair_log (n : Nat) (f : Pair → Pair) : State.log (s.updPair n f) = s.log := rfl
@[simp] theorem updPair_lsh (n : Nat) (f : Pair → Pair) : State.lsh (s.updPair n f) = s.lsh := rfl
@[simp] theorem updPair_rdr (n : Nat) (f : Pair → Pair) : State.rdr (s.updPair n f) = s.rdr := rfl
@[simp] theorem updPair_own (n : Nat) (f : Pair → Pair) : State.own (s.updPair n f) = s.own := rfl
@[simp] theorem updPair_mbxTag (n : Nat) (f : Pair → Pair) : State.mbxTag (s.updPair n f) = s.mbxTag := rfl
@[simp] theorem updPair_dma (n : Nat) (f : Pair → Pair) : State.dma (s.updPair n f) = s.dma := rfl
@[simp] theorem updPair_free (n : Nat) (f : Pair → Pair) : State.free (s.updPair n f) = s.free := rfl
@[simp] theorem updPair_resp (n : Nat) (f : Pair → Pair) : State.resp (s.updPair n f) = s.resp := rfl
@[simp] theorem updPair_banks (n : Nat) (f : Pair → Pair) : State.banks (s.updPair n f) = s.banks := rfl
@[simp] theorem updPair_cores (n : Nat) (f : Pair → Pair) : State.cores (s.updPair n f) = s.cores := rfl
@[simp] theorem updPair_psets (n : Nat) (f : Pair → Pair) : State.psets (s.updPair n f) = s.psets := rfl
@[simp] theorem updPair_plegs (n : Nat) (f : Pair → Pair) : State.plegs (s.updPair n f) = s.plegs := rfl
@[simp] theorem updPair_axSet (n : Nat) (f : Pair → Pair) : State.axSet (s.updPair n f) = s.axSet := rfl
@[simp] theorem updPair_cmps (n : Nat) (f : Pair → Pair) : State.cmps (s.updPair n f) = s.cmps := rfl
@[simp] theorem updPair_therm (n : Nat) (f : Pair → Pair) : State.therm (s.updPair n f) = s.therm := rfl
@[simp] theorem updPair_prots (n : Nat) (f : Pair → Pair) : State.prots (s.updPair n f) = s.prots := rfl
@[simp] theorem updPair_fld (n : Nat) (f : Pair → Pair) : State.fld (s.updPair n f) = s.fld := rfl
@[simp] theorem updPair_soon (n : Nat) (f : Pair → Pair) : State.soon (s.updPair n f) = s.soon := rfl
@[simp] theorem updPair_incTag (n : Nat) (f : Pair → Pair) : State.incTag (s.updPair n f) = s.incTag := rfl
@[simp] theorem updPair_toOpen (n : Nat) (f : Pair → Pair) : State.toOpen (s.updPair n f) = s.toOpen := rfl
@[simp] theorem updPair_acqs (n : Nat) (f : Pair → Pair) : State.acqs (s.updPair n f) = s.acqs := rfl
@[simp] theorem updPair_axs (n : Nat) (f : Pair → Pair) : State.axs (s.updPair n f) = s.axs := rfl
@[simp] theorem updPair_engs (n : Nat) (f : Pair → Pair) : State.engs (s.updPair n f) = s.engs := rfl
@[simp] theorem updPair_poss (n : Nat) (f : Pair → Pair) : State.poss (s.updPair n f) = s.poss := rfl
@[simp] theorem updPair_emus (n : Nat) (f : Pair → Pair) : State.emus (s.updPair n f) = s.emus := rfl
@[simp] theorem updPair_net (n : Nat) (f : Pair → Pair) : State.net (s.updPair n f) = s.net := rfl
@[simp] theorem updPair_pwr (n : Nat) (f : Pair → Pair) : State.pwr (s.updPair n f) = s.pwr := rfl
@[simp] theorem updPair_img (n : Nat) (f : Pair → Pair) : State.img (s.updPair n f) = s.img := rfl
@[simp] theorem updPair_was (n : Nat) (f : Pair → Pair) : State.was (s.updPair n f) = s.was := rfl
@[simp] theorem rd_updPair (n : Nat) (f : Pair → Pair) (r : RegName) (p' i' j' : Nat) : State.rd (s.updPair n f) r p' i' j' = s.rd r p' i' j' := rfl
@[simp] theorem f_updPair (n : Nat) (f : Pair → Pair) (g : Fld) (p' i' j' : Nat) : State.f (s.updPair n f) g p' i' j' = s.f g p' i' j' := rfl
@[simp] theorem bit_updPair (n : Nat) (f : Pair → Pair) (g : Fld) (p' i' j' : Nat) : State.bit (s.updPair n f) g p' i' j' = s.bit g p' i' j' := rfl
@[simp] theorem bank_updPair (n : Nat) (f : Pair → Pair) (c' b' : Nat) : State.bank (s.updPair n f) c' b' = s.bank c' b' := rfl
@[simp] theorem core_updPair (n : Nat) (f : Pair → Pair) (c' : Nat) : State.core (s.updPair n f) c' = s.core c' := rfl
@[simp] theorem owner_updPair (n : Nat) (f : Pair → Pair) (x' : Res) : State.owner (s.updPair n f) x' = s.owner x' := rfl

/-! ### updLatch -/

@[simp] theorem updLatch_pending (m : Master) (f : Latch → Latch) : State.pending (s.updLatch m f) = s.pending := rfl
@[simp] theorem updLatch_clk (m : Master) (f : Latch → Latch) : State.clk (s.updLatch m f) = s.clk := rfl
@[simp] theorem updLatch_regs (m : Master) (f : Latch → Latch) : State.regs (s.updLatch m f) = s.regs := rfl
@[simp] theorem updLatch_mem (m : Master) (f : Latch → Latch) : State.mem (s.updLatch m f) = s.mem := rfl
@[simp] theorem updLatch_ram (m : Master) (f : Latch → Latch) : State.ram (s.updLatch m f) = s.ram := rfl
@[simp] theorem updLatch_log (m : Master) (f : Latch → Latch) : State.log (s.updLatch m f) = s.log := rfl
@[simp] theorem updLatch_lsh (m : Master) (f : Latch → Latch) : State.lsh (s.updLatch m f) = s.lsh := rfl
@[simp] theorem updLatch_own (m : Master) (f : Latch → Latch) : State.own (s.updLatch m f) = s.own := rfl
@[simp] theorem updLatch_mbxTag (m : Master) (f : Latch → Latch) : State.mbxTag (s.updLatch m f) = s.mbxTag := rfl
@[simp] theorem updLatch_dma (m : Master) (f : Latch → Latch) : State.dma (s.updLatch m f) = s.dma := rfl
@[simp] theorem updLatch_free (m : Master) (f : Latch → Latch) : State.free (s.updLatch m f) = s.free := rfl
@[simp] theorem updLatch_resp (m : Master) (f : Latch → Latch) : State.resp (s.updLatch m f) = s.resp := rfl
@[simp] theorem updLatch_banks (m : Master) (f : Latch → Latch) : State.banks (s.updLatch m f) = s.banks := rfl
@[simp] theorem updLatch_cores (m : Master) (f : Latch → Latch) : State.cores (s.updLatch m f) = s.cores := rfl
@[simp] theorem updLatch_pairs (m : Master) (f : Latch → Latch) : State.pairs (s.updLatch m f) = s.pairs := rfl
@[simp] theorem updLatch_psets (m : Master) (f : Latch → Latch) : State.psets (s.updLatch m f) = s.psets := rfl
@[simp] theorem updLatch_plegs (m : Master) (f : Latch → Latch) : State.plegs (s.updLatch m f) = s.plegs := rfl
@[simp] theorem updLatch_axSet (m : Master) (f : Latch → Latch) : State.axSet (s.updLatch m f) = s.axSet := rfl
@[simp] theorem updLatch_cmps (m : Master) (f : Latch → Latch) : State.cmps (s.updLatch m f) = s.cmps := rfl
@[simp] theorem updLatch_therm (m : Master) (f : Latch → Latch) : State.therm (s.updLatch m f) = s.therm := rfl
@[simp] theorem updLatch_prots (m : Master) (f : Latch → Latch) : State.prots (s.updLatch m f) = s.prots := rfl
@[simp] theorem updLatch_fld (m : Master) (f : Latch → Latch) : State.fld (s.updLatch m f) = s.fld := rfl
@[simp] theorem updLatch_soon (m : Master) (f : Latch → Latch) : State.soon (s.updLatch m f) = s.soon := rfl
@[simp] theorem updLatch_incTag (m : Master) (f : Latch → Latch) : State.incTag (s.updLatch m f) = s.incTag := rfl
@[simp] theorem updLatch_toOpen (m : Master) (f : Latch → Latch) : State.toOpen (s.updLatch m f) = s.toOpen := rfl
@[simp] theorem updLatch_acqs (m : Master) (f : Latch → Latch) : State.acqs (s.updLatch m f) = s.acqs := rfl
@[simp] theorem updLatch_axs (m : Master) (f : Latch → Latch) : State.axs (s.updLatch m f) = s.axs := rfl
@[simp] theorem updLatch_engs (m : Master) (f : Latch → Latch) : State.engs (s.updLatch m f) = s.engs := rfl
@[simp] theorem updLatch_poss (m : Master) (f : Latch → Latch) : State.poss (s.updLatch m f) = s.poss := rfl
@[simp] theorem updLatch_emus (m : Master) (f : Latch → Latch) : State.emus (s.updLatch m f) = s.emus := rfl
@[simp] theorem updLatch_net (m : Master) (f : Latch → Latch) : State.net (s.updLatch m f) = s.net := rfl
@[simp] theorem updLatch_pwr (m : Master) (f : Latch → Latch) : State.pwr (s.updLatch m f) = s.pwr := rfl
@[simp] theorem updLatch_img (m : Master) (f : Latch → Latch) : State.img (s.updLatch m f) = s.img := rfl
@[simp] theorem updLatch_was (m : Master) (f : Latch → Latch) : State.was (s.updLatch m f) = s.was := rfl
@[simp] theorem rd_updLatch (m : Master) (f : Latch → Latch) (r : RegName) (p' i' j' : Nat) : State.rd (s.updLatch m f) r p' i' j' = s.rd r p' i' j' := rfl
@[simp] theorem f_updLatch (m : Master) (f : Latch → Latch) (g : Fld) (p' i' j' : Nat) : State.f (s.updLatch m f) g p' i' j' = s.f g p' i' j' := rfl
@[simp] theorem bit_updLatch (m : Master) (f : Latch → Latch) (g : Fld) (p' i' j' : Nat) : State.bit (s.updLatch m f) g p' i' j' = s.bit g p' i' j' := rfl
@[simp] theorem bank_updLatch (m : Master) (f : Latch → Latch) (c' b' : Nat) : State.bank (s.updLatch m f) c' b' = s.bank c' b' := rfl
@[simp] theorem core_updLatch (m : Master) (f : Latch → Latch) (c' : Nat) : State.core (s.updLatch m f) c' = s.core c' := rfl
@[simp] theorem owner_updLatch (m : Master) (f : Latch → Latch) (x' : Res) : State.owner (s.updLatch m f) x' = s.owner x' := rfl

/-! ### setCell -/

@[simp] theorem setCell_pending (k : Nat) (b : Byte) : State.pending (s.setCell k b) = s.pending := rfl
@[simp] theorem setCell_clk (k : Nat) (b : Byte) : State.clk (s.setCell k b) = s.clk := rfl
@[simp] theorem setCell_regs (k : Nat) (b : Byte) : State.regs (s.setCell k b) = s.regs := rfl
@[simp] theorem setCell_ram (k : Nat) (b : Byte) : State.ram (s.setCell k b) = s.ram := rfl
@[simp] theorem setCell_log (k : Nat) (b : Byte) : State.log (s.setCell k b) = s.log := rfl
@[simp] theorem setCell_lsh (k : Nat) (b : Byte) : State.lsh (s.setCell k b) = s.lsh := rfl
@[simp] theorem setCell_rdr (k : Nat) (b : Byte) : State.rdr (s.setCell k b) = s.rdr := rfl
@[simp] theorem setCell_own (k : Nat) (b : Byte) : State.own (s.setCell k b) = s.own := rfl
@[simp] theorem setCell_mbxTag (k : Nat) (b : Byte) : State.mbxTag (s.setCell k b) = s.mbxTag := rfl
@[simp] theorem setCell_dma (k : Nat) (b : Byte) : State.dma (s.setCell k b) = s.dma := rfl
@[simp] theorem setCell_free (k : Nat) (b : Byte) : State.free (s.setCell k b) = s.free := rfl
@[simp] theorem setCell_resp (k : Nat) (b : Byte) : State.resp (s.setCell k b) = s.resp := rfl
@[simp] theorem setCell_banks (k : Nat) (b : Byte) : State.banks (s.setCell k b) = s.banks := rfl
@[simp] theorem setCell_cores (k : Nat) (b : Byte) : State.cores (s.setCell k b) = s.cores := rfl
@[simp] theorem setCell_pairs (k : Nat) (b : Byte) : State.pairs (s.setCell k b) = s.pairs := rfl
@[simp] theorem setCell_psets (k : Nat) (b : Byte) : State.psets (s.setCell k b) = s.psets := rfl
@[simp] theorem setCell_plegs (k : Nat) (b : Byte) : State.plegs (s.setCell k b) = s.plegs := rfl
@[simp] theorem setCell_axSet (k : Nat) (b : Byte) : State.axSet (s.setCell k b) = s.axSet := rfl
@[simp] theorem setCell_cmps (k : Nat) (b : Byte) : State.cmps (s.setCell k b) = s.cmps := rfl
@[simp] theorem setCell_therm (k : Nat) (b : Byte) : State.therm (s.setCell k b) = s.therm := rfl
@[simp] theorem setCell_prots (k : Nat) (b : Byte) : State.prots (s.setCell k b) = s.prots := rfl
@[simp] theorem setCell_fld (k : Nat) (b : Byte) : State.fld (s.setCell k b) = s.fld := rfl
@[simp] theorem setCell_soon (k : Nat) (b : Byte) : State.soon (s.setCell k b) = s.soon := rfl
@[simp] theorem setCell_incTag (k : Nat) (b : Byte) : State.incTag (s.setCell k b) = s.incTag := rfl
@[simp] theorem setCell_toOpen (k : Nat) (b : Byte) : State.toOpen (s.setCell k b) = s.toOpen := rfl
@[simp] theorem setCell_acqs (k : Nat) (b : Byte) : State.acqs (s.setCell k b) = s.acqs := rfl
@[simp] theorem setCell_axs (k : Nat) (b : Byte) : State.axs (s.setCell k b) = s.axs := rfl
@[simp] theorem setCell_engs (k : Nat) (b : Byte) : State.engs (s.setCell k b) = s.engs := rfl
@[simp] theorem setCell_poss (k : Nat) (b : Byte) : State.poss (s.setCell k b) = s.poss := rfl
@[simp] theorem setCell_emus (k : Nat) (b : Byte) : State.emus (s.setCell k b) = s.emus := rfl
@[simp] theorem setCell_net (k : Nat) (b : Byte) : State.net (s.setCell k b) = s.net := rfl
@[simp] theorem setCell_pwr (k : Nat) (b : Byte) : State.pwr (s.setCell k b) = s.pwr := rfl
@[simp] theorem setCell_img (k : Nat) (b : Byte) : State.img (s.setCell k b) = s.img := rfl
@[simp] theorem setCell_was (k : Nat) (b : Byte) : State.was (s.setCell k b) = s.was := rfl
@[simp] theorem rd_setCell (k : Nat) (b : Byte) (r : RegName) (p' i' j' : Nat) : State.rd (s.setCell k b) r p' i' j' = s.rd r p' i' j' := rfl
@[simp] theorem f_setCell (k : Nat) (b : Byte) (g : Fld) (p' i' j' : Nat) : State.f (s.setCell k b) g p' i' j' = s.f g p' i' j' := rfl
@[simp] theorem bit_setCell (k : Nat) (b : Byte) (g : Fld) (p' i' j' : Nat) : State.bit (s.setCell k b) g p' i' j' = s.bit g p' i' j' := rfl
@[simp] theorem bank_setCell (k : Nat) (b : Byte) (c' b' : Nat) : State.bank (s.setCell k b) c' b' = s.bank c' b' := rfl
@[simp] theorem core_setCell (k : Nat) (b : Byte) (c' : Nat) : State.core (s.setCell k b) c' = s.core c' := rfl
@[simp] theorem owner_setCell (k : Nat) (b : Byte) (x' : Res) : State.owner (s.setCell k b) x' = s.owner x' := rfl

/-! ### setFlips -/

@[simp] theorem setFlips_pending (a : Nat) (v : BitVec 39) : State.pending (s.setFlips a v) = s.pending := rfl
@[simp] theorem setFlips_clk (a : Nat) (v : BitVec 39) : State.clk (s.setFlips a v) = s.clk := rfl
@[simp] theorem setFlips_regs (a : Nat) (v : BitVec 39) : State.regs (s.setFlips a v) = s.regs := rfl
@[simp] theorem setFlips_mem (a : Nat) (v : BitVec 39) : State.mem (s.setFlips a v) = s.mem := rfl
@[simp] theorem setFlips_log (a : Nat) (v : BitVec 39) : State.log (s.setFlips a v) = s.log := rfl
@[simp] theorem setFlips_lsh (a : Nat) (v : BitVec 39) : State.lsh (s.setFlips a v) = s.lsh := rfl
@[simp] theorem setFlips_rdr (a : Nat) (v : BitVec 39) : State.rdr (s.setFlips a v) = s.rdr := rfl
@[simp] theorem setFlips_own (a : Nat) (v : BitVec 39) : State.own (s.setFlips a v) = s.own := rfl
@[simp] theorem setFlips_mbxTag (a : Nat) (v : BitVec 39) : State.mbxTag (s.setFlips a v) = s.mbxTag := rfl
@[simp] theorem setFlips_dma (a : Nat) (v : BitVec 39) : State.dma (s.setFlips a v) = s.dma := rfl
@[simp] theorem setFlips_free (a : Nat) (v : BitVec 39) : State.free (s.setFlips a v) = s.free := rfl
@[simp] theorem setFlips_resp (a : Nat) (v : BitVec 39) : State.resp (s.setFlips a v) = s.resp := rfl
@[simp] theorem setFlips_banks (a : Nat) (v : BitVec 39) : State.banks (s.setFlips a v) = s.banks := rfl
@[simp] theorem setFlips_cores (a : Nat) (v : BitVec 39) : State.cores (s.setFlips a v) = s.cores := rfl
@[simp] theorem setFlips_pairs (a : Nat) (v : BitVec 39) : State.pairs (s.setFlips a v) = s.pairs := rfl
@[simp] theorem setFlips_psets (a : Nat) (v : BitVec 39) : State.psets (s.setFlips a v) = s.psets := rfl
@[simp] theorem setFlips_plegs (a : Nat) (v : BitVec 39) : State.plegs (s.setFlips a v) = s.plegs := rfl
@[simp] theorem setFlips_axSet (a : Nat) (v : BitVec 39) : State.axSet (s.setFlips a v) = s.axSet := rfl
@[simp] theorem setFlips_cmps (a : Nat) (v : BitVec 39) : State.cmps (s.setFlips a v) = s.cmps := rfl
@[simp] theorem setFlips_therm (a : Nat) (v : BitVec 39) : State.therm (s.setFlips a v) = s.therm := rfl
@[simp] theorem setFlips_prots (a : Nat) (v : BitVec 39) : State.prots (s.setFlips a v) = s.prots := rfl
@[simp] theorem setFlips_fld (a : Nat) (v : BitVec 39) : State.fld (s.setFlips a v) = s.fld := rfl
@[simp] theorem setFlips_soon (a : Nat) (v : BitVec 39) : State.soon (s.setFlips a v) = s.soon := rfl
@[simp] theorem setFlips_incTag (a : Nat) (v : BitVec 39) : State.incTag (s.setFlips a v) = s.incTag := rfl
@[simp] theorem setFlips_toOpen (a : Nat) (v : BitVec 39) : State.toOpen (s.setFlips a v) = s.toOpen := rfl
@[simp] theorem setFlips_acqs (a : Nat) (v : BitVec 39) : State.acqs (s.setFlips a v) = s.acqs := rfl
@[simp] theorem setFlips_axs (a : Nat) (v : BitVec 39) : State.axs (s.setFlips a v) = s.axs := rfl
@[simp] theorem setFlips_engs (a : Nat) (v : BitVec 39) : State.engs (s.setFlips a v) = s.engs := rfl
@[simp] theorem setFlips_poss (a : Nat) (v : BitVec 39) : State.poss (s.setFlips a v) = s.poss := rfl
@[simp] theorem setFlips_emus (a : Nat) (v : BitVec 39) : State.emus (s.setFlips a v) = s.emus := rfl
@[simp] theorem setFlips_net (a : Nat) (v : BitVec 39) : State.net (s.setFlips a v) = s.net := rfl
@[simp] theorem setFlips_pwr (a : Nat) (v : BitVec 39) : State.pwr (s.setFlips a v) = s.pwr := rfl
@[simp] theorem setFlips_img (a : Nat) (v : BitVec 39) : State.img (s.setFlips a v) = s.img := rfl
@[simp] theorem setFlips_was (a : Nat) (v : BitVec 39) : State.was (s.setFlips a v) = s.was := rfl
@[simp] theorem rd_setFlips (a : Nat) (v : BitVec 39) (r : RegName) (p' i' j' : Nat) : State.rd (s.setFlips a v) r p' i' j' = s.rd r p' i' j' := rfl
@[simp] theorem f_setFlips (a : Nat) (v : BitVec 39) (g : Fld) (p' i' j' : Nat) : State.f (s.setFlips a v) g p' i' j' = s.f g p' i' j' := rfl
@[simp] theorem bit_setFlips (a : Nat) (v : BitVec 39) (g : Fld) (p' i' j' : Nat) : State.bit (s.setFlips a v) g p' i' j' = s.bit g p' i' j' := rfl
@[simp] theorem bank_setFlips (a : Nat) (v : BitVec 39) (c' b' : Nat) : State.bank (s.setFlips a v) c' b' = s.bank c' b' := rfl
@[simp] theorem core_setFlips (a : Nat) (v : BitVec 39) (c' : Nat) : State.core (s.setFlips a v) c' = s.core c' := rfl
@[simp] theorem owner_setFlips (a : Nat) (v : BitVec 39) (x' : Res) : State.owner (s.setFlips a v) x' = s.owner x' := rfl

/-! ### updSet -/

@[simp] theorem updSet_pending (p x : Nat) (f : Machine.PSet → Machine.PSet) : State.pending (s.updSet p x f) = s.pending := rfl
@[simp] theorem updSet_clk (p x : Nat) (f : Machine.PSet → Machine.PSet) : State.clk (s.updSet p x f) = s.clk := rfl
@[simp] theorem updSet_regs (p x : Nat) (f : Machine.PSet → Machine.PSet) : State.regs (s.updSet p x f) = s.regs := rfl
@[simp] theorem updSet_mem (p x : Nat) (f : Machine.PSet → Machine.PSet) : State.mem (s.updSet p x f) = s.mem := rfl
@[simp] theorem updSet_ram (p x : Nat) (f : Machine.PSet → Machine.PSet) : State.ram (s.updSet p x f) = s.ram := rfl
@[simp] theorem updSet_log (p x : Nat) (f : Machine.PSet → Machine.PSet) : State.log (s.updSet p x f) = s.log := rfl
@[simp] theorem updSet_lsh (p x : Nat) (f : Machine.PSet → Machine.PSet) : State.lsh (s.updSet p x f) = s.lsh := rfl
@[simp] theorem updSet_rdr (p x : Nat) (f : Machine.PSet → Machine.PSet) : State.rdr (s.updSet p x f) = s.rdr := rfl
@[simp] theorem updSet_own (p x : Nat) (f : Machine.PSet → Machine.PSet) : State.own (s.updSet p x f) = s.own := rfl
@[simp] theorem updSet_mbxTag (p x : Nat) (f : Machine.PSet → Machine.PSet) : State.mbxTag (s.updSet p x f) = s.mbxTag := rfl
@[simp] theorem updSet_dma (p x : Nat) (f : Machine.PSet → Machine.PSet) : State.dma (s.updSet p x f) = s.dma := rfl
@[simp] theorem updSet_free (p x : Nat) (f : Machine.PSet → Machine.PSet) : State.free (s.updSet p x f) = s.free := rfl
@[simp] theorem updSet_resp (p x : Nat) (f : Machine.PSet → Machine.PSet) : State.resp (s.updSet p x f) = s.resp := rfl
@[simp] theorem updSet_banks (p x : Nat) (f : Machine.PSet → Machine.PSet) : State.banks (s.updSet p x f) = s.banks := rfl
@[simp] theorem updSet_cores (p x : Nat) (f : Machine.PSet → Machine.PSet) : State.cores (s.updSet p x f) = s.cores := rfl
@[simp] theorem updSet_pairs (p x : Nat) (f : Machine.PSet → Machine.PSet) : State.pairs (s.updSet p x f) = s.pairs := rfl
@[simp] theorem updSet_plegs (p x : Nat) (f : Machine.PSet → Machine.PSet) : State.plegs (s.updSet p x f) = s.plegs := rfl
@[simp] theorem updSet_axSet (p x : Nat) (f : Machine.PSet → Machine.PSet) : State.axSet (s.updSet p x f) = s.axSet := rfl
@[simp] theorem updSet_cmps (p x : Nat) (f : Machine.PSet → Machine.PSet) : State.cmps (s.updSet p x f) = s.cmps := rfl
@[simp] theorem updSet_therm (p x : Nat) (f : Machine.PSet → Machine.PSet) : State.therm (s.updSet p x f) = s.therm := rfl
@[simp] theorem updSet_prots (p x : Nat) (f : Machine.PSet → Machine.PSet) : State.prots (s.updSet p x f) = s.prots := rfl
@[simp] theorem updSet_fld (p x : Nat) (f : Machine.PSet → Machine.PSet) : State.fld (s.updSet p x f) = s.fld := rfl
@[simp] theorem updSet_soon (p x : Nat) (f : Machine.PSet → Machine.PSet) : State.soon (s.updSet p x f) = s.soon := rfl
@[simp] theorem updSet_incTag (p x : Nat) (f : Machine.PSet → Machine.PSet) : State.incTag (s.updSet p x f) = s.incTag := rfl
@[simp] theorem updSet_toOpen (p x : Nat) (f : Machine.PSet → Machine.PSet) : State.toOpen (s.updSet p x f) = s.toOpen := rfl
@[simp] theorem updSet_acqs (p x : Nat) (f : Machine.PSet → Machine.PSet) : State.acqs (s.updSet p x f) = s.acqs := rfl
@[simp] theorem updSet_axs (p x : Nat) (f : Machine.PSet → Machine.PSet) : State.axs (s.updSet p x f) = s.axs := rfl
@[simp] theorem updSet_engs (p x : Nat) (f : Machine.PSet → Machine.PSet) : State.engs (s.updSet p x f) = s.engs := rfl
@[simp] theorem updSet_poss (p x : Nat) (f : Machine.PSet → Machine.PSet) : State.poss (s.updSet p x f) = s.poss := rfl
@[simp] theorem updSet_emus (p x : Nat) (f : Machine.PSet → Machine.PSet) : State.emus (s.updSet p x f) = s.emus := rfl
@[simp] theorem updSet_net (p x : Nat) (f : Machine.PSet → Machine.PSet) : State.net (s.updSet p x f) = s.net := rfl
@[simp] theorem updSet_pwr (p x : Nat) (f : Machine.PSet → Machine.PSet) : State.pwr (s.updSet p x f) = s.pwr := rfl
@[simp] theorem updSet_img (p x : Nat) (f : Machine.PSet → Machine.PSet) : State.img (s.updSet p x f) = s.img := rfl
@[simp] theorem updSet_was (p x : Nat) (f : Machine.PSet → Machine.PSet) : State.was (s.updSet p x f) = s.was := rfl
@[simp] theorem rd_updSet (p x : Nat) (f : Machine.PSet → Machine.PSet) (r : RegName) (p' i' j' : Nat) : State.rd (s.updSet p x f) r p' i' j' = s.rd r p' i' j' := rfl
@[simp] theorem f_updSet (p x : Nat) (f : Machine.PSet → Machine.PSet) (g : Fld) (p' i' j' : Nat) : State.f (s.updSet p x f) g p' i' j' = s.f g p' i' j' := rfl
@[simp] theorem bit_updSet (p x : Nat) (f : Machine.PSet → Machine.PSet) (g : Fld) (p' i' j' : Nat) : State.bit (s.updSet p x f) g p' i' j' = s.bit g p' i' j' := rfl
@[simp] theorem bank_updSet (p x : Nat) (f : Machine.PSet → Machine.PSet) (c' b' : Nat) : State.bank (s.updSet p x f) c' b' = s.bank c' b' := rfl
@[simp] theorem core_updSet (p x : Nat) (f : Machine.PSet → Machine.PSet) (c' : Nat) : State.core (s.updSet p x f) c' = s.core c' := rfl
@[simp] theorem owner_updSet (p x : Nat) (f : Machine.PSet → Machine.PSet) (x' : Res) : State.owner (s.updSet p x f) x' = s.owner x' := rfl

/-! ### updLeg -/

@[simp] theorem updLeg_pending (p l : Nat) (f : PLeg → PLeg) : State.pending (s.updLeg p l f) = s.pending := rfl
@[simp] theorem updLeg_clk (p l : Nat) (f : PLeg → PLeg) : State.clk (s.updLeg p l f) = s.clk := rfl
@[simp] theorem updLeg_regs (p l : Nat) (f : PLeg → PLeg) : State.regs (s.updLeg p l f) = s.regs := rfl
@[simp] theorem updLeg_mem (p l : Nat) (f : PLeg → PLeg) : State.mem (s.updLeg p l f) = s.mem := rfl
@[simp] theorem updLeg_ram (p l : Nat) (f : PLeg → PLeg) : State.ram (s.updLeg p l f) = s.ram := rfl
@[simp] theorem updLeg_log (p l : Nat) (f : PLeg → PLeg) : State.log (s.updLeg p l f) = s.log := rfl
@[simp] theorem updLeg_lsh (p l : Nat) (f : PLeg → PLeg) : State.lsh (s.updLeg p l f) = s.lsh := rfl
@[simp] theorem updLeg_rdr (p l : Nat) (f : PLeg → PLeg) : State.rdr (s.updLeg p l f) = s.rdr := rfl
@[simp] theorem updLeg_own (p l : Nat) (f : PLeg → PLeg) : State.own (s.updLeg p l f) = s.own := rfl
@[simp] theorem updLeg_mbxTag (p l : Nat) (f : PLeg → PLeg) : State.mbxTag (s.updLeg p l f) = s.mbxTag := rfl
@[simp] theorem updLeg_dma (p l : Nat) (f : PLeg → PLeg) : State.dma (s.updLeg p l f) = s.dma := rfl
@[simp] theorem updLeg_free (p l : Nat) (f : PLeg → PLeg) : State.free (s.updLeg p l f) = s.free := rfl
@[simp] theorem updLeg_resp (p l : Nat) (f : PLeg → PLeg) : State.resp (s.updLeg p l f) = s.resp := rfl
@[simp] theorem updLeg_banks (p l : Nat) (f : PLeg → PLeg) : State.banks (s.updLeg p l f) = s.banks := rfl
@[simp] theorem updLeg_cores (p l : Nat) (f : PLeg → PLeg) : State.cores (s.updLeg p l f) = s.cores := rfl
@[simp] theorem updLeg_pairs (p l : Nat) (f : PLeg → PLeg) : State.pairs (s.updLeg p l f) = s.pairs := rfl
@[simp] theorem updLeg_psets (p l : Nat) (f : PLeg → PLeg) : State.psets (s.updLeg p l f) = s.psets := rfl
@[simp] theorem updLeg_axSet (p l : Nat) (f : PLeg → PLeg) : State.axSet (s.updLeg p l f) = s.axSet := rfl
@[simp] theorem updLeg_cmps (p l : Nat) (f : PLeg → PLeg) : State.cmps (s.updLeg p l f) = s.cmps := rfl
@[simp] theorem updLeg_therm (p l : Nat) (f : PLeg → PLeg) : State.therm (s.updLeg p l f) = s.therm := rfl
@[simp] theorem updLeg_prots (p l : Nat) (f : PLeg → PLeg) : State.prots (s.updLeg p l f) = s.prots := rfl
@[simp] theorem updLeg_fld (p l : Nat) (f : PLeg → PLeg) : State.fld (s.updLeg p l f) = s.fld := rfl
@[simp] theorem updLeg_soon (p l : Nat) (f : PLeg → PLeg) : State.soon (s.updLeg p l f) = s.soon := rfl
@[simp] theorem updLeg_incTag (p l : Nat) (f : PLeg → PLeg) : State.incTag (s.updLeg p l f) = s.incTag := rfl
@[simp] theorem updLeg_toOpen (p l : Nat) (f : PLeg → PLeg) : State.toOpen (s.updLeg p l f) = s.toOpen := rfl
@[simp] theorem updLeg_acqs (p l : Nat) (f : PLeg → PLeg) : State.acqs (s.updLeg p l f) = s.acqs := rfl
@[simp] theorem updLeg_axs (p l : Nat) (f : PLeg → PLeg) : State.axs (s.updLeg p l f) = s.axs := rfl
@[simp] theorem updLeg_engs (p l : Nat) (f : PLeg → PLeg) : State.engs (s.updLeg p l f) = s.engs := rfl
@[simp] theorem updLeg_poss (p l : Nat) (f : PLeg → PLeg) : State.poss (s.updLeg p l f) = s.poss := rfl
@[simp] theorem updLeg_emus (p l : Nat) (f : PLeg → PLeg) : State.emus (s.updLeg p l f) = s.emus := rfl
@[simp] theorem updLeg_net (p l : Nat) (f : PLeg → PLeg) : State.net (s.updLeg p l f) = s.net := rfl
@[simp] theorem updLeg_pwr (p l : Nat) (f : PLeg → PLeg) : State.pwr (s.updLeg p l f) = s.pwr := rfl
@[simp] theorem updLeg_img (p l : Nat) (f : PLeg → PLeg) : State.img (s.updLeg p l f) = s.img := rfl
@[simp] theorem updLeg_was (p l : Nat) (f : PLeg → PLeg) : State.was (s.updLeg p l f) = s.was := rfl
@[simp] theorem rd_updLeg (p l : Nat) (f : PLeg → PLeg) (r : RegName) (p' i' j' : Nat) : State.rd (s.updLeg p l f) r p' i' j' = s.rd r p' i' j' := rfl
@[simp] theorem f_updLeg (p l : Nat) (f : PLeg → PLeg) (g : Fld) (p' i' j' : Nat) : State.f (s.updLeg p l f) g p' i' j' = s.f g p' i' j' := rfl
@[simp] theorem bit_updLeg (p l : Nat) (f : PLeg → PLeg) (g : Fld) (p' i' j' : Nat) : State.bit (s.updLeg p l f) g p' i' j' = s.bit g p' i' j' := rfl
@[simp] theorem bank_updLeg (p l : Nat) (f : PLeg → PLeg) (c' b' : Nat) : State.bank (s.updLeg p l f) c' b' = s.bank c' b' := rfl
@[simp] theorem core_updLeg (p l : Nat) (f : PLeg → PLeg) (c' : Nat) : State.core (s.updLeg p l f) c' = s.core c' := rfl
@[simp] theorem owner_updLeg (p l : Nat) (f : PLeg → PLeg) (x' : Res) : State.owner (s.updLeg p l f) x' = s.owner x' := rfl

/-! ### updCmp -/

@[simp] theorem updCmp_pending (p n : Nat) (f : Cmp → Cmp) : State.pending (s.updCmp p n f) = s.pending := rfl
@[simp] theorem updCmp_clk (p n : Nat) (f : Cmp → Cmp) : State.clk (s.updCmp p n f) = s.clk := rfl
@[simp] theorem updCmp_regs (p n : Nat) (f : Cmp → Cmp) : State.regs (s.updCmp p n f) = s.regs := rfl
@[simp] theorem updCmp_mem (p n : Nat) (f : Cmp → Cmp) : State.mem (s.updCmp p n f) = s.mem := rfl
@[simp] theorem updCmp_ram (p n : Nat) (f : Cmp → Cmp) : State.ram (s.updCmp p n f) = s.ram := rfl
@[simp] theorem updCmp_log (p n : Nat) (f : Cmp → Cmp) : State.log (s.updCmp p n f) = s.log := rfl
@[simp] theorem updCmp_lsh (p n : Nat) (f : Cmp → Cmp) : State.lsh (s.updCmp p n f) = s.lsh := rfl
@[simp] theorem updCmp_rdr (p n : Nat) (f : Cmp → Cmp) : State.rdr (s.updCmp p n f) = s.rdr := rfl
@[simp] theorem updCmp_own (p n : Nat) (f : Cmp → Cmp) : State.own (s.updCmp p n f) = s.own := rfl
@[simp] theorem updCmp_mbxTag (p n : Nat) (f : Cmp → Cmp) : State.mbxTag (s.updCmp p n f) = s.mbxTag := rfl
@[simp] theorem updCmp_dma (p n : Nat) (f : Cmp → Cmp) : State.dma (s.updCmp p n f) = s.dma := rfl
@[simp] theorem updCmp_free (p n : Nat) (f : Cmp → Cmp) : State.free (s.updCmp p n f) = s.free := rfl
@[simp] theorem updCmp_resp (p n : Nat) (f : Cmp → Cmp) : State.resp (s.updCmp p n f) = s.resp := rfl
@[simp] theorem updCmp_banks (p n : Nat) (f : Cmp → Cmp) : State.banks (s.updCmp p n f) = s.banks := rfl
@[simp] theorem updCmp_cores (p n : Nat) (f : Cmp → Cmp) : State.cores (s.updCmp p n f) = s.cores := rfl
@[simp] theorem updCmp_pairs (p n : Nat) (f : Cmp → Cmp) : State.pairs (s.updCmp p n f) = s.pairs := rfl
@[simp] theorem updCmp_psets (p n : Nat) (f : Cmp → Cmp) : State.psets (s.updCmp p n f) = s.psets := rfl
@[simp] theorem updCmp_plegs (p n : Nat) (f : Cmp → Cmp) : State.plegs (s.updCmp p n f) = s.plegs := rfl
@[simp] theorem updCmp_axSet (p n : Nat) (f : Cmp → Cmp) : State.axSet (s.updCmp p n f) = s.axSet := rfl
@[simp] theorem updCmp_therm (p n : Nat) (f : Cmp → Cmp) : State.therm (s.updCmp p n f) = s.therm := rfl
@[simp] theorem updCmp_prots (p n : Nat) (f : Cmp → Cmp) : State.prots (s.updCmp p n f) = s.prots := rfl
@[simp] theorem updCmp_fld (p n : Nat) (f : Cmp → Cmp) : State.fld (s.updCmp p n f) = s.fld := rfl
@[simp] theorem updCmp_soon (p n : Nat) (f : Cmp → Cmp) : State.soon (s.updCmp p n f) = s.soon := rfl
@[simp] theorem updCmp_incTag (p n : Nat) (f : Cmp → Cmp) : State.incTag (s.updCmp p n f) = s.incTag := rfl
@[simp] theorem updCmp_toOpen (p n : Nat) (f : Cmp → Cmp) : State.toOpen (s.updCmp p n f) = s.toOpen := rfl
@[simp] theorem updCmp_acqs (p n : Nat) (f : Cmp → Cmp) : State.acqs (s.updCmp p n f) = s.acqs := rfl
@[simp] theorem updCmp_axs (p n : Nat) (f : Cmp → Cmp) : State.axs (s.updCmp p n f) = s.axs := rfl
@[simp] theorem updCmp_engs (p n : Nat) (f : Cmp → Cmp) : State.engs (s.updCmp p n f) = s.engs := rfl
@[simp] theorem updCmp_poss (p n : Nat) (f : Cmp → Cmp) : State.poss (s.updCmp p n f) = s.poss := rfl
@[simp] theorem updCmp_emus (p n : Nat) (f : Cmp → Cmp) : State.emus (s.updCmp p n f) = s.emus := rfl
@[simp] theorem updCmp_net (p n : Nat) (f : Cmp → Cmp) : State.net (s.updCmp p n f) = s.net := rfl
@[simp] theorem updCmp_pwr (p n : Nat) (f : Cmp → Cmp) : State.pwr (s.updCmp p n f) = s.pwr := rfl
@[simp] theorem updCmp_img (p n : Nat) (f : Cmp → Cmp) : State.img (s.updCmp p n f) = s.img := rfl
@[simp] theorem updCmp_was (p n : Nat) (f : Cmp → Cmp) : State.was (s.updCmp p n f) = s.was := rfl
@[simp] theorem rd_updCmp (p n : Nat) (f : Cmp → Cmp) (r : RegName) (p' i' j' : Nat) : State.rd (s.updCmp p n f) r p' i' j' = s.rd r p' i' j' := rfl
@[simp] theorem f_updCmp (p n : Nat) (f : Cmp → Cmp) (g : Fld) (p' i' j' : Nat) : State.f (s.updCmp p n f) g p' i' j' = s.f g p' i' j' := rfl
@[simp] theorem bit_updCmp (p n : Nat) (f : Cmp → Cmp) (g : Fld) (p' i' j' : Nat) : State.bit (s.updCmp p n f) g p' i' j' = s.bit g p' i' j' := rfl
@[simp] theorem bank_updCmp (p n : Nat) (f : Cmp → Cmp) (c' b' : Nat) : State.bank (s.updCmp p n f) c' b' = s.bank c' b' := rfl
@[simp] theorem core_updCmp (p n : Nat) (f : Cmp → Cmp) (c' : Nat) : State.core (s.updCmp p n f) c' = s.core c' := rfl
@[simp] theorem owner_updCmp (p n : Nat) (f : Cmp → Cmp) (x' : Res) : State.owner (s.updCmp p n f) x' = s.owner x' := rfl

/-! ### updAcq -/

@[simp] theorem updAcq_pending (p : Nat) (f : Acq → Acq) : State.pending (s.updAcq p f) = s.pending := rfl
@[simp] theorem updAcq_clk (p : Nat) (f : Acq → Acq) : State.clk (s.updAcq p f) = s.clk := rfl
@[simp] theorem updAcq_regs (p : Nat) (f : Acq → Acq) : State.regs (s.updAcq p f) = s.regs := rfl
@[simp] theorem updAcq_mem (p : Nat) (f : Acq → Acq) : State.mem (s.updAcq p f) = s.mem := rfl
@[simp] theorem updAcq_ram (p : Nat) (f : Acq → Acq) : State.ram (s.updAcq p f) = s.ram := rfl
@[simp] theorem updAcq_log (p : Nat) (f : Acq → Acq) : State.log (s.updAcq p f) = s.log := rfl
@[simp] theorem updAcq_lsh (p : Nat) (f : Acq → Acq) : State.lsh (s.updAcq p f) = s.lsh := rfl
@[simp] theorem updAcq_rdr (p : Nat) (f : Acq → Acq) : State.rdr (s.updAcq p f) = s.rdr := rfl
@[simp] theorem updAcq_own (p : Nat) (f : Acq → Acq) : State.own (s.updAcq p f) = s.own := rfl
@[simp] theorem updAcq_mbxTag (p : Nat) (f : Acq → Acq) : State.mbxTag (s.updAcq p f) = s.mbxTag := rfl
@[simp] theorem updAcq_dma (p : Nat) (f : Acq → Acq) : State.dma (s.updAcq p f) = s.dma := rfl
@[simp] theorem updAcq_free (p : Nat) (f : Acq → Acq) : State.free (s.updAcq p f) = s.free := rfl
@[simp] theorem updAcq_resp (p : Nat) (f : Acq → Acq) : State.resp (s.updAcq p f) = s.resp := rfl
@[simp] theorem updAcq_banks (p : Nat) (f : Acq → Acq) : State.banks (s.updAcq p f) = s.banks := rfl
@[simp] theorem updAcq_cores (p : Nat) (f : Acq → Acq) : State.cores (s.updAcq p f) = s.cores := rfl
@[simp] theorem updAcq_pairs (p : Nat) (f : Acq → Acq) : State.pairs (s.updAcq p f) = s.pairs := rfl
@[simp] theorem updAcq_psets (p : Nat) (f : Acq → Acq) : State.psets (s.updAcq p f) = s.psets := rfl
@[simp] theorem updAcq_plegs (p : Nat) (f : Acq → Acq) : State.plegs (s.updAcq p f) = s.plegs := rfl
@[simp] theorem updAcq_axSet (p : Nat) (f : Acq → Acq) : State.axSet (s.updAcq p f) = s.axSet := rfl
@[simp] theorem updAcq_cmps (p : Nat) (f : Acq → Acq) : State.cmps (s.updAcq p f) = s.cmps := rfl
@[simp] theorem updAcq_therm (p : Nat) (f : Acq → Acq) : State.therm (s.updAcq p f) = s.therm := rfl
@[simp] theorem updAcq_prots (p : Nat) (f : Acq → Acq) : State.prots (s.updAcq p f) = s.prots := rfl
@[simp] theorem updAcq_fld (p : Nat) (f : Acq → Acq) : State.fld (s.updAcq p f) = s.fld := rfl
@[simp] theorem updAcq_soon (p : Nat) (f : Acq → Acq) : State.soon (s.updAcq p f) = s.soon := rfl
@[simp] theorem updAcq_incTag (p : Nat) (f : Acq → Acq) : State.incTag (s.updAcq p f) = s.incTag := rfl
@[simp] theorem updAcq_toOpen (p : Nat) (f : Acq → Acq) : State.toOpen (s.updAcq p f) = s.toOpen := rfl
@[simp] theorem updAcq_axs (p : Nat) (f : Acq → Acq) : State.axs (s.updAcq p f) = s.axs := rfl
@[simp] theorem updAcq_engs (p : Nat) (f : Acq → Acq) : State.engs (s.updAcq p f) = s.engs := rfl
@[simp] theorem updAcq_poss (p : Nat) (f : Acq → Acq) : State.poss (s.updAcq p f) = s.poss := rfl
@[simp] theorem updAcq_emus (p : Nat) (f : Acq → Acq) : State.emus (s.updAcq p f) = s.emus := rfl
@[simp] theorem updAcq_net (p : Nat) (f : Acq → Acq) : State.net (s.updAcq p f) = s.net := rfl
@[simp] theorem updAcq_pwr (p : Nat) (f : Acq → Acq) : State.pwr (s.updAcq p f) = s.pwr := rfl
@[simp] theorem updAcq_img (p : Nat) (f : Acq → Acq) : State.img (s.updAcq p f) = s.img := rfl
@[simp] theorem updAcq_was (p : Nat) (f : Acq → Acq) : State.was (s.updAcq p f) = s.was := rfl
@[simp] theorem rd_updAcq (p : Nat) (f : Acq → Acq) (r : RegName) (p' i' j' : Nat) : State.rd (s.updAcq p f) r p' i' j' = s.rd r p' i' j' := rfl
@[simp] theorem f_updAcq (p : Nat) (f : Acq → Acq) (g : Fld) (p' i' j' : Nat) : State.f (s.updAcq p f) g p' i' j' = s.f g p' i' j' := rfl
@[simp] theorem bit_updAcq (p : Nat) (f : Acq → Acq) (g : Fld) (p' i' j' : Nat) : State.bit (s.updAcq p f) g p' i' j' = s.bit g p' i' j' := rfl
@[simp] theorem bank_updAcq (p : Nat) (f : Acq → Acq) (c' b' : Nat) : State.bank (s.updAcq p f) c' b' = s.bank c' b' := rfl
@[simp] theorem core_updAcq (p : Nat) (f : Acq → Acq) (c' : Nat) : State.core (s.updAcq p f) c' = s.core c' := rfl
@[simp] theorem owner_updAcq (p : Nat) (f : Acq → Acq) (x' : Res) : State.owner (s.updAcq p f) x' = s.owner x' := rfl

/-! ### updAx -/

@[simp] theorem updAx_pending (p a : Nat) (f : Ax → Ax) : State.pending (s.updAx p a f) = s.pending := rfl
@[simp] theorem updAx_clk (p a : Nat) (f : Ax → Ax) : State.clk (s.updAx p a f) = s.clk := rfl
@[simp] theorem updAx_regs (p a : Nat) (f : Ax → Ax) : State.regs (s.updAx p a f) = s.regs := rfl
@[simp] theorem updAx_mem (p a : Nat) (f : Ax → Ax) : State.mem (s.updAx p a f) = s.mem := rfl
@[simp] theorem updAx_ram (p a : Nat) (f : Ax → Ax) : State.ram (s.updAx p a f) = s.ram := rfl
@[simp] theorem updAx_log (p a : Nat) (f : Ax → Ax) : State.log (s.updAx p a f) = s.log := rfl
@[simp] theorem updAx_lsh (p a : Nat) (f : Ax → Ax) : State.lsh (s.updAx p a f) = s.lsh := rfl
@[simp] theorem updAx_rdr (p a : Nat) (f : Ax → Ax) : State.rdr (s.updAx p a f) = s.rdr := rfl
@[simp] theorem updAx_own (p a : Nat) (f : Ax → Ax) : State.own (s.updAx p a f) = s.own := rfl
@[simp] theorem updAx_mbxTag (p a : Nat) (f : Ax → Ax) : State.mbxTag (s.updAx p a f) = s.mbxTag := rfl
@[simp] theorem updAx_dma (p a : Nat) (f : Ax → Ax) : State.dma (s.updAx p a f) = s.dma := rfl
@[simp] theorem updAx_free (p a : Nat) (f : Ax → Ax) : State.free (s.updAx p a f) = s.free := rfl
@[simp] theorem updAx_resp (p a : Nat) (f : Ax → Ax) : State.resp (s.updAx p a f) = s.resp := rfl
@[simp] theorem updAx_banks (p a : Nat) (f : Ax → Ax) : State.banks (s.updAx p a f) = s.banks := rfl
@[simp] theorem updAx_cores (p a : Nat) (f : Ax → Ax) : State.cores (s.updAx p a f) = s.cores := rfl
@[simp] theorem updAx_pairs (p a : Nat) (f : Ax → Ax) : State.pairs (s.updAx p a f) = s.pairs := rfl
@[simp] theorem updAx_psets (p a : Nat) (f : Ax → Ax) : State.psets (s.updAx p a f) = s.psets := rfl
@[simp] theorem updAx_plegs (p a : Nat) (f : Ax → Ax) : State.plegs (s.updAx p a f) = s.plegs := rfl
@[simp] theorem updAx_axSet (p a : Nat) (f : Ax → Ax) : State.axSet (s.updAx p a f) = s.axSet := rfl
@[simp] theorem updAx_cmps (p a : Nat) (f : Ax → Ax) : State.cmps (s.updAx p a f) = s.cmps := rfl
@[simp] theorem updAx_therm (p a : Nat) (f : Ax → Ax) : State.therm (s.updAx p a f) = s.therm := rfl
@[simp] theorem updAx_prots (p a : Nat) (f : Ax → Ax) : State.prots (s.updAx p a f) = s.prots := rfl
@[simp] theorem updAx_fld (p a : Nat) (f : Ax → Ax) : State.fld (s.updAx p a f) = s.fld := rfl
@[simp] theorem updAx_soon (p a : Nat) (f : Ax → Ax) : State.soon (s.updAx p a f) = s.soon := rfl
@[simp] theorem updAx_incTag (p a : Nat) (f : Ax → Ax) : State.incTag (s.updAx p a f) = s.incTag := rfl
@[simp] theorem updAx_toOpen (p a : Nat) (f : Ax → Ax) : State.toOpen (s.updAx p a f) = s.toOpen := rfl
@[simp] theorem updAx_acqs (p a : Nat) (f : Ax → Ax) : State.acqs (s.updAx p a f) = s.acqs := rfl
@[simp] theorem updAx_engs (p a : Nat) (f : Ax → Ax) : State.engs (s.updAx p a f) = s.engs := rfl
@[simp] theorem updAx_poss (p a : Nat) (f : Ax → Ax) : State.poss (s.updAx p a f) = s.poss := rfl
@[simp] theorem updAx_emus (p a : Nat) (f : Ax → Ax) : State.emus (s.updAx p a f) = s.emus := rfl
@[simp] theorem updAx_net (p a : Nat) (f : Ax → Ax) : State.net (s.updAx p a f) = s.net := rfl
@[simp] theorem updAx_pwr (p a : Nat) (f : Ax → Ax) : State.pwr (s.updAx p a f) = s.pwr := rfl
@[simp] theorem updAx_img (p a : Nat) (f : Ax → Ax) : State.img (s.updAx p a f) = s.img := rfl
@[simp] theorem updAx_was (p a : Nat) (f : Ax → Ax) : State.was (s.updAx p a f) = s.was := rfl
@[simp] theorem rd_updAx (p a : Nat) (f : Ax → Ax) (r : RegName) (p' i' j' : Nat) : State.rd (s.updAx p a f) r p' i' j' = s.rd r p' i' j' := rfl
@[simp] theorem f_updAx (p a : Nat) (f : Ax → Ax) (g : Fld) (p' i' j' : Nat) : State.f (s.updAx p a f) g p' i' j' = s.f g p' i' j' := rfl
@[simp] theorem bit_updAx (p a : Nat) (f : Ax → Ax) (g : Fld) (p' i' j' : Nat) : State.bit (s.updAx p a f) g p' i' j' = s.bit g p' i' j' := rfl
@[simp] theorem bank_updAx (p a : Nat) (f : Ax → Ax) (c' b' : Nat) : State.bank (s.updAx p a f) c' b' = s.bank c' b' := rfl
@[simp] theorem core_updAx (p a : Nat) (f : Ax → Ax) (c' : Nat) : State.core (s.updAx p a f) c' = s.core c' := rfl
@[simp] theorem owner_updAx (p a : Nat) (f : Ax → Ax) (x' : Res) : State.owner (s.updAx p a f) x' = s.owner x' := rfl

/-! ### updEng -/

@[simp] theorem updEng_pending (p : Nat) (f : Eng → Eng) : State.pending (s.updEng p f) = s.pending := rfl
@[simp] theorem updEng_clk (p : Nat) (f : Eng → Eng) : State.clk (s.updEng p f) = s.clk := rfl
@[simp] theorem updEng_regs (p : Nat) (f : Eng → Eng) : State.regs (s.updEng p f) = s.regs := rfl
@[simp] theorem updEng_mem (p : Nat) (f : Eng → Eng) : State.mem (s.updEng p f) = s.mem := rfl
@[simp] theorem updEng_ram (p : Nat) (f : Eng → Eng) : State.ram (s.updEng p f) = s.ram := rfl
@[simp] theorem updEng_log (p : Nat) (f : Eng → Eng) : State.log (s.updEng p f) = s.log := rfl
@[simp] theorem updEng_lsh (p : Nat) (f : Eng → Eng) : State.lsh (s.updEng p f) = s.lsh := rfl
@[simp] theorem updEng_rdr (p : Nat) (f : Eng → Eng) : State.rdr (s.updEng p f) = s.rdr := rfl
@[simp] theorem updEng_own (p : Nat) (f : Eng → Eng) : State.own (s.updEng p f) = s.own := rfl
@[simp] theorem updEng_mbxTag (p : Nat) (f : Eng → Eng) : State.mbxTag (s.updEng p f) = s.mbxTag := rfl
@[simp] theorem updEng_dma (p : Nat) (f : Eng → Eng) : State.dma (s.updEng p f) = s.dma := rfl
@[simp] theorem updEng_free (p : Nat) (f : Eng → Eng) : State.free (s.updEng p f) = s.free := rfl
@[simp] theorem updEng_resp (p : Nat) (f : Eng → Eng) : State.resp (s.updEng p f) = s.resp := rfl
@[simp] theorem updEng_banks (p : Nat) (f : Eng → Eng) : State.banks (s.updEng p f) = s.banks := rfl
@[simp] theorem updEng_cores (p : Nat) (f : Eng → Eng) : State.cores (s.updEng p f) = s.cores := rfl
@[simp] theorem updEng_pairs (p : Nat) (f : Eng → Eng) : State.pairs (s.updEng p f) = s.pairs := rfl
@[simp] theorem updEng_psets (p : Nat) (f : Eng → Eng) : State.psets (s.updEng p f) = s.psets := rfl
@[simp] theorem updEng_plegs (p : Nat) (f : Eng → Eng) : State.plegs (s.updEng p f) = s.plegs := rfl
@[simp] theorem updEng_axSet (p : Nat) (f : Eng → Eng) : State.axSet (s.updEng p f) = s.axSet := rfl
@[simp] theorem updEng_cmps (p : Nat) (f : Eng → Eng) : State.cmps (s.updEng p f) = s.cmps := rfl
@[simp] theorem updEng_therm (p : Nat) (f : Eng → Eng) : State.therm (s.updEng p f) = s.therm := rfl
@[simp] theorem updEng_prots (p : Nat) (f : Eng → Eng) : State.prots (s.updEng p f) = s.prots := rfl
@[simp] theorem updEng_fld (p : Nat) (f : Eng → Eng) : State.fld (s.updEng p f) = s.fld := rfl
@[simp] theorem updEng_soon (p : Nat) (f : Eng → Eng) : State.soon (s.updEng p f) = s.soon := rfl
@[simp] theorem updEng_incTag (p : Nat) (f : Eng → Eng) : State.incTag (s.updEng p f) = s.incTag := rfl
@[simp] theorem updEng_toOpen (p : Nat) (f : Eng → Eng) : State.toOpen (s.updEng p f) = s.toOpen := rfl
@[simp] theorem updEng_acqs (p : Nat) (f : Eng → Eng) : State.acqs (s.updEng p f) = s.acqs := rfl
@[simp] theorem updEng_axs (p : Nat) (f : Eng → Eng) : State.axs (s.updEng p f) = s.axs := rfl
@[simp] theorem updEng_poss (p : Nat) (f : Eng → Eng) : State.poss (s.updEng p f) = s.poss := rfl
@[simp] theorem updEng_emus (p : Nat) (f : Eng → Eng) : State.emus (s.updEng p f) = s.emus := rfl
@[simp] theorem updEng_net (p : Nat) (f : Eng → Eng) : State.net (s.updEng p f) = s.net := rfl
@[simp] theorem updEng_pwr (p : Nat) (f : Eng → Eng) : State.pwr (s.updEng p f) = s.pwr := rfl
@[simp] theorem updEng_img (p : Nat) (f : Eng → Eng) : State.img (s.updEng p f) = s.img := rfl
@[simp] theorem updEng_was (p : Nat) (f : Eng → Eng) : State.was (s.updEng p f) = s.was := rfl
@[simp] theorem rd_updEng (p : Nat) (f : Eng → Eng) (r : RegName) (p' i' j' : Nat) : State.rd (s.updEng p f) r p' i' j' = s.rd r p' i' j' := rfl
@[simp] theorem f_updEng (p : Nat) (f : Eng → Eng) (g : Fld) (p' i' j' : Nat) : State.f (s.updEng p f) g p' i' j' = s.f g p' i' j' := rfl
@[simp] theorem bit_updEng (p : Nat) (f : Eng → Eng) (g : Fld) (p' i' j' : Nat) : State.bit (s.updEng p f) g p' i' j' = s.bit g p' i' j' := rfl
@[simp] theorem bank_updEng (p : Nat) (f : Eng → Eng) (c' b' : Nat) : State.bank (s.updEng p f) c' b' = s.bank c' b' := rfl
@[simp] theorem core_updEng (p : Nat) (f : Eng → Eng) (c' : Nat) : State.core (s.updEng p f) c' = s.core c' := rfl
@[simp] theorem owner_updEng (p : Nat) (f : Eng → Eng) (x' : Res) : State.owner (s.updEng p f) x' = s.owner x' := rfl

/-! ### updPos -/

@[simp] theorem updPos_pending (p i : Nat) (f : Pos → Pos) : State.pending (s.updPos p i f) = s.pending := rfl
@[simp] theorem updPos_clk (p i : Nat) (f : Pos → Pos) : State.clk (s.updPos p i f) = s.clk := rfl
@[simp] theorem updPos_regs (p i : Nat) (f : Pos → Pos) : State.regs (s.updPos p i f) = s.regs := rfl
@[simp] theorem updPos_mem (p i : Nat) (f : Pos → Pos) : State.mem (s.updPos p i f) = s.mem := rfl
@[simp] theorem updPos_ram (p i : Nat) (f : Pos → Pos) : State.ram (s.updPos p i f) = s.ram := rfl
@[simp] theorem updPos_log (p i : Nat) (f : Pos → Pos) : State.log (s.updPos p i f) = s.log := rfl
@[simp] theorem updPos_lsh (p i : Nat) (f : Pos → Pos) : State.lsh (s.updPos p i f) = s.lsh := rfl
@[simp] theorem updPos_rdr (p i : Nat) (f : Pos → Pos) : State.rdr (s.updPos p i f) = s.rdr := rfl
@[simp] theorem updPos_own (p i : Nat) (f : Pos → Pos) : State.own (s.updPos p i f) = s.own := rfl
@[simp] theorem updPos_mbxTag (p i : Nat) (f : Pos → Pos) : State.mbxTag (s.updPos p i f) = s.mbxTag := rfl
@[simp] theorem updPos_dma (p i : Nat) (f : Pos → Pos) : State.dma (s.updPos p i f) = s.dma := rfl
@[simp] theorem updPos_free (p i : Nat) (f : Pos → Pos) : State.free (s.updPos p i f) = s.free := rfl
@[simp] theorem updPos_resp (p i : Nat) (f : Pos → Pos) : State.resp (s.updPos p i f) = s.resp := rfl
@[simp] theorem updPos_banks (p i : Nat) (f : Pos → Pos) : State.banks (s.updPos p i f) = s.banks := rfl
@[simp] theorem updPos_cores (p i : Nat) (f : Pos → Pos) : State.cores (s.updPos p i f) = s.cores := rfl
@[simp] theorem updPos_pairs (p i : Nat) (f : Pos → Pos) : State.pairs (s.updPos p i f) = s.pairs := rfl
@[simp] theorem updPos_psets (p i : Nat) (f : Pos → Pos) : State.psets (s.updPos p i f) = s.psets := rfl
@[simp] theorem updPos_plegs (p i : Nat) (f : Pos → Pos) : State.plegs (s.updPos p i f) = s.plegs := rfl
@[simp] theorem updPos_axSet (p i : Nat) (f : Pos → Pos) : State.axSet (s.updPos p i f) = s.axSet := rfl
@[simp] theorem updPos_cmps (p i : Nat) (f : Pos → Pos) : State.cmps (s.updPos p i f) = s.cmps := rfl
@[simp] theorem updPos_therm (p i : Nat) (f : Pos → Pos) : State.therm (s.updPos p i f) = s.therm := rfl
@[simp] theorem updPos_prots (p i : Nat) (f : Pos → Pos) : State.prots (s.updPos p i f) = s.prots := rfl
@[simp] theorem updPos_fld (p i : Nat) (f : Pos → Pos) : State.fld (s.updPos p i f) = s.fld := rfl
@[simp] theorem updPos_soon (p i : Nat) (f : Pos → Pos) : State.soon (s.updPos p i f) = s.soon := rfl
@[simp] theorem updPos_incTag (p i : Nat) (f : Pos → Pos) : State.incTag (s.updPos p i f) = s.incTag := rfl
@[simp] theorem updPos_toOpen (p i : Nat) (f : Pos → Pos) : State.toOpen (s.updPos p i f) = s.toOpen := rfl
@[simp] theorem updPos_acqs (p i : Nat) (f : Pos → Pos) : State.acqs (s.updPos p i f) = s.acqs := rfl
@[simp] theorem updPos_axs (p i : Nat) (f : Pos → Pos) : State.axs (s.updPos p i f) = s.axs := rfl
@[simp] theorem updPos_engs (p i : Nat) (f : Pos → Pos) : State.engs (s.updPos p i f) = s.engs := rfl
@[simp] theorem updPos_emus (p i : Nat) (f : Pos → Pos) : State.emus (s.updPos p i f) = s.emus := rfl
@[simp] theorem updPos_net (p i : Nat) (f : Pos → Pos) : State.net (s.updPos p i f) = s.net := rfl
@[simp] theorem updPos_pwr (p i : Nat) (f : Pos → Pos) : State.pwr (s.updPos p i f) = s.pwr := rfl
@[simp] theorem updPos_img (p i : Nat) (f : Pos → Pos) : State.img (s.updPos p i f) = s.img := rfl
@[simp] theorem updPos_was (p i : Nat) (f : Pos → Pos) : State.was (s.updPos p i f) = s.was := rfl
@[simp] theorem rd_updPos (p i : Nat) (f : Pos → Pos) (r : RegName) (p' i' j' : Nat) : State.rd (s.updPos p i f) r p' i' j' = s.rd r p' i' j' := rfl
@[simp] theorem f_updPos (p i : Nat) (f : Pos → Pos) (g : Fld) (p' i' j' : Nat) : State.f (s.updPos p i f) g p' i' j' = s.f g p' i' j' := rfl
@[simp] theorem bit_updPos (p i : Nat) (f : Pos → Pos) (g : Fld) (p' i' j' : Nat) : State.bit (s.updPos p i f) g p' i' j' = s.bit g p' i' j' := rfl
@[simp] theorem bank_updPos (p i : Nat) (f : Pos → Pos) (c' b' : Nat) : State.bank (s.updPos p i f) c' b' = s.bank c' b' := rfl
@[simp] theorem core_updPos (p i : Nat) (f : Pos → Pos) (c' : Nat) : State.core (s.updPos p i f) c' = s.core c' := rfl
@[simp] theorem owner_updPos (p i : Nat) (f : Pos → Pos) (x' : Res) : State.owner (s.updPos p i f) x' = s.owner x' := rfl

/-! ### updEmu -/

@[simp] theorem updEmu_pending (p : Nat) (f : Emu → Emu) : State.pending (s.updEmu p f) = s.pending := rfl
@[simp] theorem updEmu_clk (p : Nat) (f : Emu → Emu) : State.clk (s.updEmu p f) = s.clk := rfl
@[simp] theorem updEmu_regs (p : Nat) (f : Emu → Emu) : State.regs (s.updEmu p f) = s.regs := rfl
@[simp] theorem updEmu_mem (p : Nat) (f : Emu → Emu) : State.mem (s.updEmu p f) = s.mem := rfl
@[simp] theorem updEmu_ram (p : Nat) (f : Emu → Emu) : State.ram (s.updEmu p f) = s.ram := rfl
@[simp] theorem updEmu_log (p : Nat) (f : Emu → Emu) : State.log (s.updEmu p f) = s.log := rfl
@[simp] theorem updEmu_lsh (p : Nat) (f : Emu → Emu) : State.lsh (s.updEmu p f) = s.lsh := rfl
@[simp] theorem updEmu_rdr (p : Nat) (f : Emu → Emu) : State.rdr (s.updEmu p f) = s.rdr := rfl
@[simp] theorem updEmu_own (p : Nat) (f : Emu → Emu) : State.own (s.updEmu p f) = s.own := rfl
@[simp] theorem updEmu_mbxTag (p : Nat) (f : Emu → Emu) : State.mbxTag (s.updEmu p f) = s.mbxTag := rfl
@[simp] theorem updEmu_dma (p : Nat) (f : Emu → Emu) : State.dma (s.updEmu p f) = s.dma := rfl
@[simp] theorem updEmu_free (p : Nat) (f : Emu → Emu) : State.free (s.updEmu p f) = s.free := rfl
@[simp] theorem updEmu_resp (p : Nat) (f : Emu → Emu) : State.resp (s.updEmu p f) = s.resp := rfl
@[simp] theorem updEmu_banks (p : Nat) (f : Emu → Emu) : State.banks (s.updEmu p f) = s.banks := rfl
@[simp] theorem updEmu_cores (p : Nat) (f : Emu → Emu) : State.cores (s.updEmu p f) = s.cores := rfl
@[simp] theorem updEmu_pairs (p : Nat) (f : Emu → Emu) : State.pairs (s.updEmu p f) = s.pairs := rfl
@[simp] theorem updEmu_psets (p : Nat) (f : Emu → Emu) : State.psets (s.updEmu p f) = s.psets := rfl
@[simp] theorem updEmu_plegs (p : Nat) (f : Emu → Emu) : State.plegs (s.updEmu p f) = s.plegs := rfl
@[simp] theorem updEmu_axSet (p : Nat) (f : Emu → Emu) : State.axSet (s.updEmu p f) = s.axSet := rfl
@[simp] theorem updEmu_cmps (p : Nat) (f : Emu → Emu) : State.cmps (s.updEmu p f) = s.cmps := rfl
@[simp] theorem updEmu_therm (p : Nat) (f : Emu → Emu) : State.therm (s.updEmu p f) = s.therm := rfl
@[simp] theorem updEmu_prots (p : Nat) (f : Emu → Emu) : State.prots (s.updEmu p f) = s.prots := rfl
@[simp] theorem updEmu_fld (p : Nat) (f : Emu → Emu) : State.fld (s.updEmu p f) = s.fld := rfl
@[simp] theorem updEmu_soon (p : Nat) (f : Emu → Emu) : State.soon (s.updEmu p f) = s.soon := rfl
@[simp] theorem updEmu_incTag (p : Nat) (f : Emu → Emu) : State.incTag (s.updEmu p f) = s.incTag := rfl
@[simp] theorem updEmu_toOpen (p : Nat) (f : Emu → Emu) : State.toOpen (s.updEmu p f) = s.toOpen := rfl
@[simp] theorem updEmu_acqs (p : Nat) (f : Emu → Emu) : State.acqs (s.updEmu p f) = s.acqs := rfl
@[simp] theorem updEmu_axs (p : Nat) (f : Emu → Emu) : State.axs (s.updEmu p f) = s.axs := rfl
@[simp] theorem updEmu_engs (p : Nat) (f : Emu → Emu) : State.engs (s.updEmu p f) = s.engs := rfl
@[simp] theorem updEmu_poss (p : Nat) (f : Emu → Emu) : State.poss (s.updEmu p f) = s.poss := rfl
@[simp] theorem updEmu_net (p : Nat) (f : Emu → Emu) : State.net (s.updEmu p f) = s.net := rfl
@[simp] theorem updEmu_pwr (p : Nat) (f : Emu → Emu) : State.pwr (s.updEmu p f) = s.pwr := rfl
@[simp] theorem updEmu_img (p : Nat) (f : Emu → Emu) : State.img (s.updEmu p f) = s.img := rfl
@[simp] theorem updEmu_was (p : Nat) (f : Emu → Emu) : State.was (s.updEmu p f) = s.was := rfl
@[simp] theorem rd_updEmu (p : Nat) (f : Emu → Emu) (r : RegName) (p' i' j' : Nat) : State.rd (s.updEmu p f) r p' i' j' = s.rd r p' i' j' := rfl
@[simp] theorem f_updEmu (p : Nat) (f : Emu → Emu) (g : Fld) (p' i' j' : Nat) : State.f (s.updEmu p f) g p' i' j' = s.f g p' i' j' := rfl
@[simp] theorem bit_updEmu (p : Nat) (f : Emu → Emu) (g : Fld) (p' i' j' : Nat) : State.bit (s.updEmu p f) g p' i' j' = s.bit g p' i' j' := rfl
@[simp] theorem bank_updEmu (p : Nat) (f : Emu → Emu) (c' b' : Nat) : State.bank (s.updEmu p f) c' b' = s.bank c' b' := rfl
@[simp] theorem core_updEmu (p : Nat) (f : Emu → Emu) (c' : Nat) : State.core (s.updEmu p f) c' = s.core c' := rfl
@[simp] theorem owner_updEmu (p : Nat) (f : Emu → Emu) (x' : Res) : State.owner (s.updEmu p f) x' = s.owner x' := rfl

/-! ### updNet -/

@[simp] theorem updNet_pending (f : NetSt → NetSt) : State.pending (s.updNet f) = s.pending := rfl
@[simp] theorem updNet_clk (f : NetSt → NetSt) : State.clk (s.updNet f) = s.clk := rfl
@[simp] theorem updNet_regs (f : NetSt → NetSt) : State.regs (s.updNet f) = s.regs := rfl
@[simp] theorem updNet_mem (f : NetSt → NetSt) : State.mem (s.updNet f) = s.mem := rfl
@[simp] theorem updNet_ram (f : NetSt → NetSt) : State.ram (s.updNet f) = s.ram := rfl
@[simp] theorem updNet_log (f : NetSt → NetSt) : State.log (s.updNet f) = s.log := rfl
@[simp] theorem updNet_lsh (f : NetSt → NetSt) : State.lsh (s.updNet f) = s.lsh := rfl
@[simp] theorem updNet_rdr (f : NetSt → NetSt) : State.rdr (s.updNet f) = s.rdr := rfl
@[simp] theorem updNet_own (f : NetSt → NetSt) : State.own (s.updNet f) = s.own := rfl
@[simp] theorem updNet_mbxTag (f : NetSt → NetSt) : State.mbxTag (s.updNet f) = s.mbxTag := rfl
@[simp] theorem updNet_dma (f : NetSt → NetSt) : State.dma (s.updNet f) = s.dma := rfl
@[simp] theorem updNet_free (f : NetSt → NetSt) : State.free (s.updNet f) = s.free := rfl
@[simp] theorem updNet_resp (f : NetSt → NetSt) : State.resp (s.updNet f) = s.resp := rfl
@[simp] theorem updNet_banks (f : NetSt → NetSt) : State.banks (s.updNet f) = s.banks := rfl
@[simp] theorem updNet_cores (f : NetSt → NetSt) : State.cores (s.updNet f) = s.cores := rfl
@[simp] theorem updNet_pairs (f : NetSt → NetSt) : State.pairs (s.updNet f) = s.pairs := rfl
@[simp] theorem updNet_psets (f : NetSt → NetSt) : State.psets (s.updNet f) = s.psets := rfl
@[simp] theorem updNet_plegs (f : NetSt → NetSt) : State.plegs (s.updNet f) = s.plegs := rfl
@[simp] theorem updNet_axSet (f : NetSt → NetSt) : State.axSet (s.updNet f) = s.axSet := rfl
@[simp] theorem updNet_cmps (f : NetSt → NetSt) : State.cmps (s.updNet f) = s.cmps := rfl
@[simp] theorem updNet_therm (f : NetSt → NetSt) : State.therm (s.updNet f) = s.therm := rfl
@[simp] theorem updNet_prots (f : NetSt → NetSt) : State.prots (s.updNet f) = s.prots := rfl
@[simp] theorem updNet_fld (f : NetSt → NetSt) : State.fld (s.updNet f) = s.fld := rfl
@[simp] theorem updNet_soon (f : NetSt → NetSt) : State.soon (s.updNet f) = s.soon := rfl
@[simp] theorem updNet_incTag (f : NetSt → NetSt) : State.incTag (s.updNet f) = s.incTag := rfl
@[simp] theorem updNet_toOpen (f : NetSt → NetSt) : State.toOpen (s.updNet f) = s.toOpen := rfl
@[simp] theorem updNet_acqs (f : NetSt → NetSt) : State.acqs (s.updNet f) = s.acqs := rfl
@[simp] theorem updNet_axs (f : NetSt → NetSt) : State.axs (s.updNet f) = s.axs := rfl
@[simp] theorem updNet_engs (f : NetSt → NetSt) : State.engs (s.updNet f) = s.engs := rfl
@[simp] theorem updNet_poss (f : NetSt → NetSt) : State.poss (s.updNet f) = s.poss := rfl
@[simp] theorem updNet_emus (f : NetSt → NetSt) : State.emus (s.updNet f) = s.emus := rfl
@[simp] theorem updNet_pwr (f : NetSt → NetSt) : State.pwr (s.updNet f) = s.pwr := rfl
@[simp] theorem updNet_img (f : NetSt → NetSt) : State.img (s.updNet f) = s.img := rfl
@[simp] theorem updNet_was (f : NetSt → NetSt) : State.was (s.updNet f) = s.was := rfl
@[simp] theorem rd_updNet (f : NetSt → NetSt) (r : RegName) (p' i' j' : Nat) : State.rd (s.updNet f) r p' i' j' = s.rd r p' i' j' := rfl
@[simp] theorem f_updNet (f : NetSt → NetSt) (g : Fld) (p' i' j' : Nat) : State.f (s.updNet f) g p' i' j' = s.f g p' i' j' := rfl
@[simp] theorem bit_updNet (f : NetSt → NetSt) (g : Fld) (p' i' j' : Nat) : State.bit (s.updNet f) g p' i' j' = s.bit g p' i' j' := rfl
@[simp] theorem bank_updNet (f : NetSt → NetSt) (c' b' : Nat) : State.bank (s.updNet f) c' b' = s.bank c' b' := rfl
@[simp] theorem core_updNet (f : NetSt → NetSt) (c' : Nat) : State.core (s.updNet f) c' = s.core c' := rfl
@[simp] theorem owner_updNet (f : NetSt → NetSt) (x' : Res) : State.owner (s.updNet f) x' = s.owner x' := rfl

/-! ### updPwr -/

@[simp] theorem updPwr_pending (f : PwrSt → PwrSt) : State.pending (s.updPwr f) = s.pending := rfl
@[simp] theorem updPwr_clk (f : PwrSt → PwrSt) : State.clk (s.updPwr f) = s.clk := rfl
@[simp] theorem updPwr_regs (f : PwrSt → PwrSt) : State.regs (s.updPwr f) = s.regs := rfl
@[simp] theorem updPwr_mem (f : PwrSt → PwrSt) : State.mem (s.updPwr f) = s.mem := rfl
@[simp] theorem updPwr_ram (f : PwrSt → PwrSt) : State.ram (s.updPwr f) = s.ram := rfl
@[simp] theorem updPwr_log (f : PwrSt → PwrSt) : State.log (s.updPwr f) = s.log := rfl
@[simp] theorem updPwr_lsh (f : PwrSt → PwrSt) : State.lsh (s.updPwr f) = s.lsh := rfl
@[simp] theorem updPwr_rdr (f : PwrSt → PwrSt) : State.rdr (s.updPwr f) = s.rdr := rfl
@[simp] theorem updPwr_own (f : PwrSt → PwrSt) : State.own (s.updPwr f) = s.own := rfl
@[simp] theorem updPwr_mbxTag (f : PwrSt → PwrSt) : State.mbxTag (s.updPwr f) = s.mbxTag := rfl
@[simp] theorem updPwr_dma (f : PwrSt → PwrSt) : State.dma (s.updPwr f) = s.dma := rfl
@[simp] theorem updPwr_free (f : PwrSt → PwrSt) : State.free (s.updPwr f) = s.free := rfl
@[simp] theorem updPwr_resp (f : PwrSt → PwrSt) : State.resp (s.updPwr f) = s.resp := rfl
@[simp] theorem updPwr_banks (f : PwrSt → PwrSt) : State.banks (s.updPwr f) = s.banks := rfl
@[simp] theorem updPwr_cores (f : PwrSt → PwrSt) : State.cores (s.updPwr f) = s.cores := rfl
@[simp] theorem updPwr_pairs (f : PwrSt → PwrSt) : State.pairs (s.updPwr f) = s.pairs := rfl
@[simp] theorem updPwr_psets (f : PwrSt → PwrSt) : State.psets (s.updPwr f) = s.psets := rfl
@[simp] theorem updPwr_plegs (f : PwrSt → PwrSt) : State.plegs (s.updPwr f) = s.plegs := rfl
@[simp] theorem updPwr_axSet (f : PwrSt → PwrSt) : State.axSet (s.updPwr f) = s.axSet := rfl
@[simp] theorem updPwr_cmps (f : PwrSt → PwrSt) : State.cmps (s.updPwr f) = s.cmps := rfl
@[simp] theorem updPwr_therm (f : PwrSt → PwrSt) : State.therm (s.updPwr f) = s.therm := rfl
@[simp] theorem updPwr_prots (f : PwrSt → PwrSt) : State.prots (s.updPwr f) = s.prots := rfl
@[simp] theorem updPwr_fld (f : PwrSt → PwrSt) : State.fld (s.updPwr f) = s.fld := rfl
@[simp] theorem updPwr_soon (f : PwrSt → PwrSt) : State.soon (s.updPwr f) = s.soon := rfl
@[simp] theorem updPwr_incTag (f : PwrSt → PwrSt) : State.incTag (s.updPwr f) = s.incTag := rfl
@[simp] theorem updPwr_toOpen (f : PwrSt → PwrSt) : State.toOpen (s.updPwr f) = s.toOpen := rfl
@[simp] theorem updPwr_acqs (f : PwrSt → PwrSt) : State.acqs (s.updPwr f) = s.acqs := rfl
@[simp] theorem updPwr_axs (f : PwrSt → PwrSt) : State.axs (s.updPwr f) = s.axs := rfl
@[simp] theorem updPwr_engs (f : PwrSt → PwrSt) : State.engs (s.updPwr f) = s.engs := rfl
@[simp] theorem updPwr_poss (f : PwrSt → PwrSt) : State.poss (s.updPwr f) = s.poss := rfl
@[simp] theorem updPwr_emus (f : PwrSt → PwrSt) : State.emus (s.updPwr f) = s.emus := rfl
@[simp] theorem updPwr_net (f : PwrSt → PwrSt) : State.net (s.updPwr f) = s.net := rfl
@[simp] theorem updPwr_img (f : PwrSt → PwrSt) : State.img (s.updPwr f) = s.img := rfl
@[simp] theorem updPwr_was (f : PwrSt → PwrSt) : State.was (s.updPwr f) = s.was := rfl
@[simp] theorem rd_updPwr (f : PwrSt → PwrSt) (r : RegName) (p' i' j' : Nat) : State.rd (s.updPwr f) r p' i' j' = s.rd r p' i' j' := rfl
@[simp] theorem f_updPwr (f : PwrSt → PwrSt) (g : Fld) (p' i' j' : Nat) : State.f (s.updPwr f) g p' i' j' = s.f g p' i' j' := rfl
@[simp] theorem bit_updPwr (f : PwrSt → PwrSt) (g : Fld) (p' i' j' : Nat) : State.bit (s.updPwr f) g p' i' j' = s.bit g p' i' j' := rfl
@[simp] theorem bank_updPwr (f : PwrSt → PwrSt) (c' b' : Nat) : State.bank (s.updPwr f) c' b' = s.bank c' b' := rfl
@[simp] theorem core_updPwr (f : PwrSt → PwrSt) (c' : Nat) : State.core (s.updPwr f) c' = s.core c' := rfl
@[simp] theorem owner_updPwr (f : PwrSt → PwrSt) (x' : Res) : State.owner (s.updPwr f) x' = s.owner x' := rfl

/-! ### updImg -/

@[simp] theorem updImg_pending (f : ImgSt → ImgSt) : State.pending (s.updImg f) = s.pending := rfl
@[simp] theorem updImg_clk (f : ImgSt → ImgSt) : State.clk (s.updImg f) = s.clk := rfl
@[simp] theorem updImg_regs (f : ImgSt → ImgSt) : State.regs (s.updImg f) = s.regs := rfl
@[simp] theorem updImg_mem (f : ImgSt → ImgSt) : State.mem (s.updImg f) = s.mem := rfl
@[simp] theorem updImg_ram (f : ImgSt → ImgSt) : State.ram (s.updImg f) = s.ram := rfl
@[simp] theorem updImg_log (f : ImgSt → ImgSt) : State.log (s.updImg f) = s.log := rfl
@[simp] theorem updImg_lsh (f : ImgSt → ImgSt) : State.lsh (s.updImg f) = s.lsh := rfl
@[simp] theorem updImg_rdr (f : ImgSt → ImgSt) : State.rdr (s.updImg f) = s.rdr := rfl
@[simp] theorem updImg_own (f : ImgSt → ImgSt) : State.own (s.updImg f) = s.own := rfl
@[simp] theorem updImg_mbxTag (f : ImgSt → ImgSt) : State.mbxTag (s.updImg f) = s.mbxTag := rfl
@[simp] theorem updImg_dma (f : ImgSt → ImgSt) : State.dma (s.updImg f) = s.dma := rfl
@[simp] theorem updImg_free (f : ImgSt → ImgSt) : State.free (s.updImg f) = s.free := rfl
@[simp] theorem updImg_resp (f : ImgSt → ImgSt) : State.resp (s.updImg f) = s.resp := rfl
@[simp] theorem updImg_banks (f : ImgSt → ImgSt) : State.banks (s.updImg f) = s.banks := rfl
@[simp] theorem updImg_cores (f : ImgSt → ImgSt) : State.cores (s.updImg f) = s.cores := rfl
@[simp] theorem updImg_pairs (f : ImgSt → ImgSt) : State.pairs (s.updImg f) = s.pairs := rfl
@[simp] theorem updImg_psets (f : ImgSt → ImgSt) : State.psets (s.updImg f) = s.psets := rfl
@[simp] theorem updImg_plegs (f : ImgSt → ImgSt) : State.plegs (s.updImg f) = s.plegs := rfl
@[simp] theorem updImg_axSet (f : ImgSt → ImgSt) : State.axSet (s.updImg f) = s.axSet := rfl
@[simp] theorem updImg_cmps (f : ImgSt → ImgSt) : State.cmps (s.updImg f) = s.cmps := rfl
@[simp] theorem updImg_therm (f : ImgSt → ImgSt) : State.therm (s.updImg f) = s.therm := rfl
@[simp] theorem updImg_prots (f : ImgSt → ImgSt) : State.prots (s.updImg f) = s.prots := rfl
@[simp] theorem updImg_fld (f : ImgSt → ImgSt) : State.fld (s.updImg f) = s.fld := rfl
@[simp] theorem updImg_soon (f : ImgSt → ImgSt) : State.soon (s.updImg f) = s.soon := rfl
@[simp] theorem updImg_incTag (f : ImgSt → ImgSt) : State.incTag (s.updImg f) = s.incTag := rfl
@[simp] theorem updImg_toOpen (f : ImgSt → ImgSt) : State.toOpen (s.updImg f) = s.toOpen := rfl
@[simp] theorem updImg_acqs (f : ImgSt → ImgSt) : State.acqs (s.updImg f) = s.acqs := rfl
@[simp] theorem updImg_axs (f : ImgSt → ImgSt) : State.axs (s.updImg f) = s.axs := rfl
@[simp] theorem updImg_engs (f : ImgSt → ImgSt) : State.engs (s.updImg f) = s.engs := rfl
@[simp] theorem updImg_poss (f : ImgSt → ImgSt) : State.poss (s.updImg f) = s.poss := rfl
@[simp] theorem updImg_emus (f : ImgSt → ImgSt) : State.emus (s.updImg f) = s.emus := rfl
@[simp] theorem updImg_net (f : ImgSt → ImgSt) : State.net (s.updImg f) = s.net := rfl
@[simp] theorem updImg_pwr (f : ImgSt → ImgSt) : State.pwr (s.updImg f) = s.pwr := rfl
@[simp] theorem updImg_was (f : ImgSt → ImgSt) : State.was (s.updImg f) = s.was := rfl
@[simp] theorem rd_updImg (f : ImgSt → ImgSt) (r : RegName) (p' i' j' : Nat) : State.rd (s.updImg f) r p' i' j' = s.rd r p' i' j' := rfl
@[simp] theorem f_updImg (f : ImgSt → ImgSt) (g : Fld) (p' i' j' : Nat) : State.f (s.updImg f) g p' i' j' = s.f g p' i' j' := rfl
@[simp] theorem bit_updImg (f : ImgSt → ImgSt) (g : Fld) (p' i' j' : Nat) : State.bit (s.updImg f) g p' i' j' = s.bit g p' i' j' := rfl
@[simp] theorem bank_updImg (f : ImgSt → ImgSt) (c' b' : Nat) : State.bank (s.updImg f) c' b' = s.bank c' b' := rfl
@[simp] theorem core_updImg (f : ImgSt → ImgSt) (c' : Nat) : State.core (s.updImg f) c' = s.core c' := rfl
@[simp] theorem owner_updImg (f : ImgSt → ImgSt) (x' : Res) : State.owner (s.updImg f) x' = s.owner x' := rfl

/-! ### resp -/

@[simp] theorem resp_pending (x : Resp) : State.pending ({ s with resp := x }) = s.pending := rfl
@[simp] theorem resp_clk (x : Resp) : State.clk ({ s with resp := x }) = s.clk := rfl
@[simp] theorem resp_regs (x : Resp) : State.regs ({ s with resp := x }) = s.regs := rfl
@[simp] theorem resp_mem (x : Resp) : State.mem ({ s with resp := x }) = s.mem := rfl
@[simp] theorem resp_ram (x : Resp) : State.ram ({ s with resp := x }) = s.ram := rfl
@[simp] theorem resp_log (x : Resp) : State.log ({ s with resp := x }) = s.log := rfl
@[simp] theorem resp_lsh (x : Resp) : State.lsh ({ s with resp := x }) = s.lsh := rfl
@[simp] theorem resp_rdr (x : Resp) : State.rdr ({ s with resp := x }) = s.rdr := rfl
@[simp] theorem resp_own (x : Resp) : State.own ({ s with resp := x }) = s.own := rfl
@[simp] theorem resp_mbxTag (x : Resp) : State.mbxTag ({ s with resp := x }) = s.mbxTag := rfl
@[simp] theorem resp_dma (x : Resp) : State.dma ({ s with resp := x }) = s.dma := rfl
@[simp] theorem resp_free (x : Resp) : State.free ({ s with resp := x }) = s.free := rfl
@[simp] theorem resp_banks (x : Resp) : State.banks ({ s with resp := x }) = s.banks := rfl
@[simp] theorem resp_cores (x : Resp) : State.cores ({ s with resp := x }) = s.cores := rfl
@[simp] theorem resp_pairs (x : Resp) : State.pairs ({ s with resp := x }) = s.pairs := rfl
@[simp] theorem resp_psets (x : Resp) : State.psets ({ s with resp := x }) = s.psets := rfl
@[simp] theorem resp_plegs (x : Resp) : State.plegs ({ s with resp := x }) = s.plegs := rfl
@[simp] theorem resp_axSet (x : Resp) : State.axSet ({ s with resp := x }) = s.axSet := rfl
@[simp] theorem resp_cmps (x : Resp) : State.cmps ({ s with resp := x }) = s.cmps := rfl
@[simp] theorem resp_therm (x : Resp) : State.therm ({ s with resp := x }) = s.therm := rfl
@[simp] theorem resp_prots (x : Resp) : State.prots ({ s with resp := x }) = s.prots := rfl
@[simp] theorem resp_fld (x : Resp) : State.fld ({ s with resp := x }) = s.fld := rfl
@[simp] theorem resp_soon (x : Resp) : State.soon ({ s with resp := x }) = s.soon := rfl
@[simp] theorem resp_incTag (x : Resp) : State.incTag ({ s with resp := x }) = s.incTag := rfl
@[simp] theorem resp_toOpen (x : Resp) : State.toOpen ({ s with resp := x }) = s.toOpen := rfl
@[simp] theorem resp_acqs (x : Resp) : State.acqs ({ s with resp := x }) = s.acqs := rfl
@[simp] theorem resp_axs (x : Resp) : State.axs ({ s with resp := x }) = s.axs := rfl
@[simp] theorem resp_engs (x : Resp) : State.engs ({ s with resp := x }) = s.engs := rfl
@[simp] theorem resp_poss (x : Resp) : State.poss ({ s with resp := x }) = s.poss := rfl
@[simp] theorem resp_emus (x : Resp) : State.emus ({ s with resp := x }) = s.emus := rfl
@[simp] theorem resp_net (x : Resp) : State.net ({ s with resp := x }) = s.net := rfl
@[simp] theorem resp_pwr (x : Resp) : State.pwr ({ s with resp := x }) = s.pwr := rfl
@[simp] theorem resp_img (x : Resp) : State.img ({ s with resp := x }) = s.img := rfl
@[simp] theorem resp_was (x : Resp) : State.was ({ s with resp := x }) = s.was := rfl
@[simp] theorem rd_resp (x : Resp) (r : RegName) (p' i' j' : Nat) : State.rd ({ s with resp := x }) r p' i' j' = s.rd r p' i' j' := rfl
@[simp] theorem f_resp (x : Resp) (g : Fld) (p' i' j' : Nat) : State.f ({ s with resp := x }) g p' i' j' = s.f g p' i' j' := rfl
@[simp] theorem bit_resp (x : Resp) (g : Fld) (p' i' j' : Nat) : State.bit ({ s with resp := x }) g p' i' j' = s.bit g p' i' j' := rfl
@[simp] theorem bank_resp (x : Resp) (c' b' : Nat) : State.bank ({ s with resp := x }) c' b' = s.bank c' b' := rfl
@[simp] theorem core_resp (x : Resp) (c' : Nat) : State.core ({ s with resp := x }) c' = s.core c' := rfl
@[simp] theorem owner_resp (x : Resp) (x' : Res) : State.owner ({ s with resp := x }) x' = s.owner x' := rfl

/-! ### updClk -/

@[simp] theorem updClk_pending (f : Clock → Clock) : State.pending (s.updClk f) = s.pending := rfl
@[simp] theorem updClk_regs (f : Clock → Clock) : State.regs (s.updClk f) = s.regs := rfl
@[simp] theorem updClk_mem (f : Clock → Clock) : State.mem (s.updClk f) = s.mem := rfl
@[simp] theorem updClk_ram (f : Clock → Clock) : State.ram (s.updClk f) = s.ram := rfl
@[simp] theorem updClk_log (f : Clock → Clock) : State.log (s.updClk f) = s.log := rfl
@[simp] theorem updClk_lsh (f : Clock → Clock) : State.lsh (s.updClk f) = s.lsh := rfl
@[simp] theorem updClk_rdr (f : Clock → Clock) : State.rdr (s.updClk f) = s.rdr := rfl
@[simp] theorem updClk_own (f : Clock → Clock) : State.own (s.updClk f) = s.own := rfl
@[simp] theorem updClk_mbxTag (f : Clock → Clock) : State.mbxTag (s.updClk f) = s.mbxTag := rfl
@[simp] theorem updClk_dma (f : Clock → Clock) : State.dma (s.updClk f) = s.dma := rfl
@[simp] theorem updClk_free (f : Clock → Clock) : State.free (s.updClk f) = s.free := rfl
@[simp] theorem updClk_resp (f : Clock → Clock) : State.resp (s.updClk f) = s.resp := rfl
@[simp] theorem updClk_banks (f : Clock → Clock) : State.banks (s.updClk f) = s.banks := rfl
@[simp] theorem updClk_cores (f : Clock → Clock) : State.cores (s.updClk f) = s.cores := rfl
@[simp] theorem updClk_pairs (f : Clock → Clock) : State.pairs (s.updClk f) = s.pairs := rfl
@[simp] theorem updClk_psets (f : Clock → Clock) : State.psets (s.updClk f) = s.psets := rfl
@[simp] theorem updClk_plegs (f : Clock → Clock) : State.plegs (s.updClk f) = s.plegs := rfl
@[simp] theorem updClk_axSet (f : Clock → Clock) : State.axSet (s.updClk f) = s.axSet := rfl
@[simp] theorem updClk_cmps (f : Clock → Clock) : State.cmps (s.updClk f) = s.cmps := rfl
@[simp] theorem updClk_therm (f : Clock → Clock) : State.therm (s.updClk f) = s.therm := rfl
@[simp] theorem updClk_prots (f : Clock → Clock) : State.prots (s.updClk f) = s.prots := rfl
@[simp] theorem updClk_fld (f : Clock → Clock) : State.fld (s.updClk f) = s.fld := rfl
@[simp] theorem updClk_soon (f : Clock → Clock) : State.soon (s.updClk f) = s.soon := rfl
@[simp] theorem updClk_incTag (f : Clock → Clock) : State.incTag (s.updClk f) = s.incTag := rfl
@[simp] theorem updClk_toOpen (f : Clock → Clock) : State.toOpen (s.updClk f) = s.toOpen := rfl
@[simp] theorem updClk_acqs (f : Clock → Clock) : State.acqs (s.updClk f) = s.acqs := rfl
@[simp] theorem updClk_axs (f : Clock → Clock) : State.axs (s.updClk f) = s.axs := rfl
@[simp] theorem updClk_engs (f : Clock → Clock) : State.engs (s.updClk f) = s.engs := rfl
@[simp] theorem updClk_poss (f : Clock → Clock) : State.poss (s.updClk f) = s.poss := rfl
@[simp] theorem updClk_emus (f : Clock → Clock) : State.emus (s.updClk f) = s.emus := rfl
@[simp] theorem updClk_net (f : Clock → Clock) : State.net (s.updClk f) = s.net := rfl
@[simp] theorem updClk_pwr (f : Clock → Clock) : State.pwr (s.updClk f) = s.pwr := rfl
@[simp] theorem updClk_img (f : Clock → Clock) : State.img (s.updClk f) = s.img := rfl
@[simp] theorem updClk_was (f : Clock → Clock) : State.was (s.updClk f) = s.was := rfl
@[simp] theorem rd_updClk (f : Clock → Clock) (r : RegName) (p' i' j' : Nat) : State.rd (s.updClk f) r p' i' j' = s.rd r p' i' j' := rfl
@[simp] theorem f_updClk (f : Clock → Clock) (g : Fld) (p' i' j' : Nat) : State.f (s.updClk f) g p' i' j' = s.f g p' i' j' := rfl
@[simp] theorem bit_updClk (f : Clock → Clock) (g : Fld) (p' i' j' : Nat) : State.bit (s.updClk f) g p' i' j' = s.bit g p' i' j' := rfl
@[simp] theorem bank_updClk (f : Clock → Clock) (c' b' : Nat) : State.bank (s.updClk f) c' b' = s.bank c' b' := rfl
@[simp] theorem core_updClk (f : Clock → Clock) (c' : Nat) : State.core (s.updClk f) c' = s.core c' := rfl
@[simp] theorem owner_updClk (f : Clock → Clock) (x' : Res) : State.owner (s.updClk f) x' = s.owner x' := rfl

/-! ### Registers -/

theorem blk_lt (r : RegName) : r.row.blk.ctorIdx < 32 := by
  cases h : r.row.blk <;> decide

theorem regKey_inj {r r' : RegName} {i i' j j' : Nat} :
    regKey r i j = regKey r' i' j' ↔ r = r' ∧ i = i' ∧ j = j' := by
  simp only [regKey, Nat.pair_eq_pair]
  constructor
  · rintro ⟨h1, h2, h3⟩
    refine ⟨?_, h2, h3⟩
    exact (RegName.ofNat_ctorIdx r).symm.trans ((congrArg RegName.ofNat h1).trans (RegName.ofNat_ctorIdx r'))
  · rintro ⟨rfl, rfl, rfl⟩
    exact ⟨rfl, rfl, rfl⟩

/-- A register read after a register write: the written word at the same register of the same place, every other one as before. -/
theorem rd_wr (r r' : RegName) (v : Word) (p i j p' i' j' : Nat) :
    (s.wr r v p i j).rd r' p' i' j' =
      if r' = r ∧ p' = p ∧ i' = i ∧ j' = j then v else s.rd r' p' i' j' := by
  unfold State.rd State.wr
  simp only [SMap.upd, SMap_get_set]
  by_cases hb : regBlk r' p' = regBlk r p
  · rw [if_pos hb]
    by_cases hk : regKey r' i' j' = regKey r i j
    · obtain ⟨hr, hi, hj⟩ := regKey_inj.1 hk
      subst hr hi hj
      have hp : p' = p := by unfold regBlk at hb; omega
      simp [hp]
    · have hne : ¬ (r' = r ∧ p' = p ∧ i' = i ∧ j' = j) := by
        rintro ⟨rfl, rfl, rfl, rfl⟩; exact hk rfl
      rw [if_neg hne, hb]
      rw [SMap_get_set_ne _ _ _ _ _ _ hk]
  · have hne : ¬ (r' = r ∧ p' = p ∧ i' = i ∧ j' = j) := by
      rintro ⟨rfl, rfl, rfl, rfl⟩; exact hb rfl
    rw [if_neg hb, if_neg hne]

/-- A register reads its written word. -/
@[simp] theorem rd_wr_self (r : RegName) (v : Word) (p i j : Nat) : (s.wr r v p i j).rd r p i j = v := by
  simp [rd_wr]

/-- A write of one register leaves every register of another name. -/
theorem rd_wr_name {r r' : RegName} (h : r' ≠ r) (v : Word) (p i j p' i' j' : Nat) :
    (s.wr r v p i j).rd r' p' i' j' = s.rd r' p' i' j' := by
  simp [rd_wr, h]

/-- A register read after a field write. -/
theorem rd_put (f : Fld) (r' : RegName) (n p i j p' i' j' : Nat) :
    (s.put f n p i j).rd r' p' i' j' =
      if r' = f.r ∧ p' = p ∧ i' = i ∧ j' = j then f.put (s.rd f.r p i j) n else s.rd r' p' i' j' := by
  simp only [State.put, rd_wr]

/-- A field of a register of another name is left by a field write. -/
theorem f_put_name {f g : Fld} (h : g.r ≠ f.r) (n p i j p' i' j' : Nat) :
    (s.put f n p i j).f g p' i' j' = s.f g p' i' j' := by
  simp [State.f, rd_put, h]

/-- A field read from a word in which it was replaced. -/
theorem Fld_get_put (f : Fld) (w : Word) (n : Nat) (h : f.lo + f.w ≤ 32) : f.get (f.put w n) = n % 2 ^ f.w := by
  have hn : n % 2 ^ f.w < 2 ^ f.w := Nat.mod_lt _ (Nat.two_pow_pos _)
  have hle : 2 ^ (f.lo + f.w) ≤ 2 ^ 32 := Nat.pow_le_pow_right (by decide) h
  have hsh : (n % 2 ^ f.w) <<< f.lo < 2 ^ 32 := by
    rw [Nat.shiftLeft_eq]
    calc n % 2 ^ f.w * 2 ^ f.lo < 2 ^ f.w * 2 ^ f.lo := Nat.mul_lt_mul_of_pos_right hn (Nat.two_pow_pos _)
      _ = 2 ^ (f.lo + f.w) := by rw [← Nat.pow_add, Nat.add_comm]
      _ ≤ 2 ^ 32 := hle
  have hm : (2 ^ f.w - 1) <<< f.lo < 2 ^ 32 := by
    have h1 : 2 ^ f.w - 1 < 2 ^ f.w := Nat.sub_lt (Nat.two_pow_pos _) (by decide)
    rw [Nat.shiftLeft_eq]
    calc (2 ^ f.w - 1) * 2 ^ f.lo < 2 ^ f.w * 2 ^ f.lo := Nat.mul_lt_mul_of_pos_right h1 (Nat.two_pow_pos _)
      _ = 2 ^ (f.lo + f.w) := by rw [← Nat.pow_add, Nat.add_comm]
      _ ≤ 2 ^ 32 := hle
  unfold Fld.get Fld.put Fld.mask
  apply Nat.eq_of_testBit_eq
  intro i
  simp only [BitVec.toNat_or, BitVec.toNat_and, BitVec.toNat_not, BitVec.toNat_ofNat, Nat.mod_eq_of_lt hsh,
    Nat.mod_eq_of_lt hm, Nat.testBit_mod_two_pow, Nat.testBit_shiftRight, Nat.testBit_or, Nat.testBit_and,
    Nat.testBit_shiftLeft]
  by_cases hi : i < f.w
  · have h32 : f.lo + i < 32 := by omega
    have e : 2 ^ 32 - 1 - (2 ^ f.w - 1) <<< f.lo = 2 ^ 32 - ((2 ^ f.w - 1) <<< f.lo + 1) := by omega
    rw [e, Nat.testBit_two_pow_sub_succ hm]
    simp [hi, h32, Nat.testBit_shiftLeft, Nat.testBit_two_pow_sub_one]
  · simp [hi]

/-- A field read after its own write. -/
theorem f_put_self (f : Fld) (n p i j : Nat) (h : f.lo + f.w ≤ 32) : (s.put f n p i j).f f p i j = n % 2 ^ f.w := by
  simp [State.f, rd_put, Fld_get_put f _ n h]

theorem f_lt (f : Fld) (p i j : Nat) : s.f f p i j < 2 ^ f.w := Nat.mod_lt _ (Nat.two_pow_pos _)

/-- A saturating count, read after it counted. -/
theorem f_inc_self (f : Fld) (p i j : Nat) (h : f.lo + f.w ≤ 32) :
    (s.inc f p i j).f f p i j = min (s.f f p i j + 1) (2 ^ f.w - 1) := by
  have hl := f_lt s f p i j
  unfold State.inc
  split
  · rw [f_put_self s f _ p i j h, Nat.mod_eq_of_lt (by omega)]; omega
  · rw [f_put_self s f _ p i j h, Nat.mod_eq_of_lt (by omega)]; omega

/-- A saturating count leaves every register but its own. -/
theorem rd_inc_ne (f : Fld) (r' : RegName) (p i j p' i' j' : Nat) (h : ¬ (r' = f.r ∧ p' = p ∧ i' = i ∧ j' = j)) :
    (s.inc f p i j).rd r' p' i' j' = s.rd r' p' i' j' := by
  unfold State.inc
  split <;> rw [rd_put, if_neg h]

/-! ### Arrays of hidden state -/

/-- A bank read after a bank write; banks are 0 to 8. -/
theorem bank_setBank (c b c' b' : Nat) (k : Bank) (hb : b < 16) (hb' : b' < 16) :
    (s.setBank c b k).bank c' b' = if c' = c ∧ b' = b then k else s.bank c' b' := by
  simp only [State.bank, State.setBank, SMap_get_set]
  by_cases h : 16 * c' + b' = 16 * c + b
  · have : c' = c ∧ b' = b := by omega
    simp [this]
  · have : ¬ (c' = c ∧ b' = b) := by rintro ⟨rfl, rfl⟩; exact h rfl
    simp [h, this]

@[simp] theorem bank_setBank_self (c b : Nat) (k : Bank) : (s.setBank c b k).bank c b = k := by
  simp [State.bank, State.setBank]

@[simp] theorem core_setCore (c c' : Nat) (k : Core) : (s.setCore c k).core c' = if c' = c then k else s.core c' := by
  simp [State.core, State.setCore]

@[simp] theorem core_updCore (c c' : Nat) (f : Core → Core) :
    (s.updCore c f).core c' = if c' = c then f (s.core c) else s.core c' := by
  simp [State.updCore]

@[simp] theorem pair_updPair (n n' : Nat) (f : Pair → Pair) :
    (s.updPair n f).pair n' = if n' = n then f (s.pair n) else s.pair n' := by
  simp [State.pair, State.updPair]

end Sys2Proof.Laws
end

