-- ==== Sys2Proof/Laws/Access.lean ====
section
/-! SUPPORT. A register access by address: which register it reaches, and what the answer of the block that holds the register makes
of the command. -/

namespace Sys2Proof.Laws
open Sys2Proof Sys2Proof.Machine

/-- An address that names a register lies in the pack or system register space. -/
theorem regAt_range {a : Nat} {x : RegAt} (h : regAt a = some x) :
    regSpace a = true ∧ 0x40000000 ≤ a ∧ a < 0x57000000 := by
  unfold regAt at h
  unfold regSpace
  cases hb : blkAt a with
  | none => simp [hb] at h
  | some bp =>
    refine ⟨rfl, ?_⟩
    unfold blkAt at hb
    split_ifs at hb <;> omega

theorem isMem_reg {a : Nat} (h1 : 0x40000000 ≤ a) : isMem a = false := by
  have hu : unalias a = a := by
    unfold unalias
    rw [if_neg (by omega)]
  simp [isMem, isNv, isSram, hu]
  omega

/-- The SEC block lies past every register that has a name. -/
theorem isSec_reg {a : Nat} {x : RegAt} (h : regAt a = some x) : isSec a = false := by
  by_contra hs
  have hs' : 0x55000000 ≤ a ∧ a < 0x56000000 := by simpa [isSec] using hs
  have hb : blkAt a = none := by
    unfold blkAt
    rw [if_neg (by omega), if_pos (by omega)]
    have : blkOf .sys a = none := by
      unfold blkOf
      rw [List.find?_eq_none]
      intro b _
      cases b <;> simp [Blk.space, Blk.base, Blk.limit] <;> omega
    rw [this]; rfl
  simp [regAt, hb] at h

/-- A word write at the address of a register is the write of that register. -/
theorem cmdWrite_reg {s : State} {m : Master} {a : Nat} {x : RegAt} (h : regAt a = some x) (ha : a % 4 = 0)
    (hm : (s.req m).mapped = true) (v : Word) :
    s.cmdWrite m a v = rspOut (s.regWriteAt (s.req m) (some x) a v) := by
  obtain ⟨h1, h2, h3⟩ := regAt_range h
  have hd : debugAccess m a = false := by cases m <;> simp [debugAccess]; omega
  have hw : isWin a = false := by simp [isWin]; omega
  have ha' : a - a % 4 = a := by omega
  have hv : BitVec.ofNat 32 (v.toNat % 2 ^ (8 * 4)) = v := by
    apply BitVec.eq_of_toNat_eq; simp; omega
  unfold State.cmdWrite State.busWrite
  rw [hd, hm, ha']
  simp only [hw, Bool.false_eq_true, if_false, Bool.not_true]
  unfold State.localWrite
  rw [isMem_reg h2, isSec_reg h, h1, ha', h, hv]
  cases (s.req m).m <;> rfl

/-- A word read at the address of a register is the read of that register. -/
theorem cmdRead_reg {s : State} {m : Master} {a : Nat} {x : RegAt} (h : regAt a = some x) (ha : a % 4 = 0)
    (hm : (s.req m).mapped = true) :
    s.cmdRead m a = rspOut (s.regReadAt (s.req m) (some x) a 4) := by
  obtain ⟨h1, h2, h3⟩ := regAt_range h
  have hd : debugAccess m a = false := by cases m <;> simp [debugAccess]; omega
  have hw : isWin a = false := by simp [isWin]; omega
  have ha' : a - a % 4 = a := by omega
  unfold State.cmdRead State.busRead
  rw [hd, hm, ha']
  simp only [hw, Bool.false_eq_true, if_false, Bool.not_true]
  unfold State.localRead
  rw [isMem_reg h2, isSec_reg h, h1, ha', h]
  cases (s.req m).m <;> rfl

/-- An accepted write whose block answers `.ok`. -/
theorem regWriteAt_ok {s s1 : State} {q : Req} {x : RegAt} {a : Nat} {v : Word} (ha : a % 4 = 0) (hg : (s.guard q x).wr = .ok)
    (h : s.regWrite q x v a = (s1, .ok)) : s.regWriteAt q (some x) a v = (s1, .ok 0) := by
  have hl : laneWord a v = v := by simp [laneWord, ha]
  simp only [State.regWriteAt, hg, hl, h]

/-- A write to which the block answers an error. -/
theorem regWriteAt_err {s s1 : State} {q : Req} {x : RegAt} {a : Nat} {v : Word} (ha : a % 4 = 0) (hg : (s.guard q x).wr = .ok)
    (h : s.regWrite q x v a = (s1, .err)) : s.regWriteAt q (some x) a v = (s1, .refused) := by
  have hl : laneWord a v = v := by simp [laneWord, ha]
  simp only [State.regWriteAt, hg, hl, h]

/-- A read that the check admits. -/
theorem regReadAt_ok {s : State} {q : Req} {x : RegAt} {a : Nat} (ha : a % 4 = 0) (hg : (s.guard q x).rd = true) :
    s.regReadAt q (some x) a 4 = ((s.regRead q x).1, .ok (s.regRead q x).2) := by
  have e : ∀ w : Word, BitVec.ofNat 32 ((w >>> (8 * (a % 4))).toNat % 2 ^ (8 * 4)) = w := by
    intro w; apply BitVec.eq_of_toNat_eq; simp [ha]; omega
  simp only [State.regReadAt, hg, if_true, e]

end Sys2Proof.Laws
end

