-- ==== Sys2Proof/Laws/Exec.lean ====
section
/-! SUPPORT. What the shared operations of a core's instructions do: one lemma for an instruction that completes, one for each
synchronous condition of R279, and what `completed` leaves. -/

namespace Sys2Proof.Laws
open Sys2Proof Sys2Proof.Machine

/-- What `completed` leaves of the other views of a state. -/
@[simp] theorem bank_completed (s : State) (c c' b' : Nat) (h : Bool) : (s.completed c h).bank c' b' = s.bank c' b' := by
  simp [State.completed]

@[simp] theorem core_completed (s : State) (c c' : Nat) (h : Bool) :
    (s.completed c h).core c' = if c' = c then { s.core c with shield := h, waiting := none } else s.core c' := by
  simp [State.completed]

theorem pos_completed (s : State) (c : Nat) (h : Bool) :
    (s.completed c h).f F.CHK_POS.pos c = min (s.f F.CHK_POS.pos c + 1) (2 ^ 28 - 1) := by
  simp only [State.completed, f_updCore]
  exact f_inc_self _ _ _ _ _ (by decide)

theorem rd_completed (s : State) (c : Nat) (h : Bool) (r : RegName) (p i j : Nat)
    (hne : ¬ (r = .CHK_POS ∧ p = c ∧ i = 0 ∧ j = 0)) : (s.completed c h).rd r p i j = s.rd r p i j := by
  simp only [State.completed, rd_updCore]
  exact rd_inc_ne _ _ _ _ _ _ _ _ _ hne

theorem completed_rest (s : State) (c : Nat) (h : Bool) :
    s.completed c h = { s with regs := (s.completed c h).regs, cores := (s.completed c h).cores } := by
  unfold State.completed State.inc State.updCore State.setCore State.put State.wr
  split <;> rfl

/-- The state that a completed instruction leaves is the one of `Retired`. -/
theorem retired_completed (f : State) (c b : Nat) (k : Bank) (old ld : List (Nat × Word)) (hold : Bool) (hb : b < 9) :
    Retired f { ((f.setBank c b { k with ldNew := ld, ldDue := old }).completed c (hold || !ld.isEmpty)) with
      resp := { err := false, data := 0 } } c b k old ld hold := by
  constructor
  · simp
  · intro c' b' hb' hne
    simp only [bank_resp, bank_completed]
    rw [bank_setBank _ _ _ _ _ _ (by omega) (by omega), if_neg hne]
  · simp
  · intro c' hc
    simp [hc]
  · simp only [f_resp, pos_completed, f_setBank]
  · intro r p i j h
    simp only [rd_resp]
    rw [rd_completed _ _ _ _ _ _ _ h, rd_setBank]
  · rw [completed_rest]
    rfl

theorem runBank_lt (s : State) (c : Nat) : s.runBank c < 9 := by
  unfold State.runBank
  split
  · decide
  · exact lt_trans (f_lt s F.SCHED_CTX_STAT.bank c _ 0) (by decide)

/-! ### Waiting loads -/

@[simp] theorem ldNew_setReg (k : Bank) (n : Nat) (v : Word) : (k.setReg n v).ldNew = k.ldNew := by
  unfold Bank.setReg; split <;> rfl

theorem bank_setBank_any (s : State) (c b : Nat) (k : Bank) : ((s.setBank c b k).bank c b) = k := bank_setBank_self s c b k

/-- A delivered load leaves the loads that wait behind it. -/
theorem ldNew_deliverReg (s : State) (c b n : Nat) (v : Word) : ((s.deliverReg c b n v).bank c b).ldNew = (s.bank c b).ldNew := by
  unfold State.deliverReg
  simp only []
  split_ifs <;> simp [Bank.writeStatus]

theorem ldNew_deliver (c b : Nat) (xs : List (Nat × Word)) (s : State) :
    ((s.deliver c b xs).bank c b).ldNew = (s.bank c b).ldNew := by
  induction xs generalizing s with
  | nil => rfl
  | cons x xs ih => rw [State.deliver, ih, ldNew_deliverReg]

theorem bank_replayPop (s : State) (c c' b : Nat) : (s.replayPop c).bank c' b = s.bank c' b := by
  simp [State.replayPop]

theorem bank_replayPend (s : State) (c c' b : Nat) : (s.replayPend c).bank c' b = s.bank c' b := by
  unfold State.replayPend
  split
  · split
    · simp [State.replayPop]
    · rfl
  · rfl

/-- The loads of the instruction before reach the bank after the next one (R253). -/
theorem ldNew_begun (s : State) (c : Nat) :
    (((s.replayPend c).deliverDue c (s.runBank c)).bank c (s.runBank c)).ldNew = (s.cur c).ldNew := by
  rw [State.deliverDue, ldNew_deliver, bank_setBank_self]
  simp only [bank_replayPend]
  rfl

/-! ### One instruction -/

/-- An instruction that reaches its own part and is done: its next state. -/
theorem instr_done (s : State) (c : Nat) (w : Word) (priv fp : Bool) (body : State → Bank → Ires)
    (s3 : State) (k : Bank) (ld : List (Nat × Word)) (jump : Option Word) (hold : Bool) (g : State)
    (hr : CoreReady s c w) (hp : priv = true → (s.front c).st 1 = false)
    (hf : if fp = true then s.fpBegun c = (g, true) else g = s.begun c)
    (hb : body g (g.bank c (s.runBank c)) = .done s3 k jump ld hold) :
    s.instr c w false priv fp body = .next { (s3.finish c (s.runBank c) k jump (s.cur c).pc (s.cur c).ldNew ld hold) with
      resp := { err := false, data := 0 } } := by
  obtain ⟨hrun, hmay, hd⟩ := hr
  have hfe : ((s.replayPend c).deliverDue c (s.runBank c)).fetch c = (s.begun c, .ok w) := by
    rw [← hd]; rfl
  have hpr : (priv && ((s.begun c).bank c (s.runBank c)).st 1) = false := by
    cases priv with
    | false => rfl
    | true => simpa [State.front] using hp rfl
  have hsw : (if (fp && !((s.begun c).bank c (s.runBank c)).st 3) = true then
      if (decide (s.runBank c = 8) || (s.begun c).bit F.SCHED_CTX.fp c ((s.begun c).bankCtx c (s.runBank c))) = true
      then (s.begun c).fpSwap c else (s.begun c, false) else (s.begun c, true)) = (g, true) := by
    cases fp with
    | false => simp at hf; simp [hf]
    | true =>
      simp only [if_true] at hf
      rw [← hf]
      unfold State.fpBegun
      simp only [Bool.true_and]
      cases ((s.begun c).bank c (s.runBank c)).st 3 <;> simp
  unfold State.instr
  rw [← ldNew_begun s c]
  simp only [hrun, hmay, Bool.not_true, Bool.or_self, Bool.false_eq_true, if_false, hfe, hpr, ne_eq, not_true_eq_false]
  simp only [hsw, hb, Bool.not_true, Bool.false_eq_true, if_false]
  rfl

/-- An instruction that is done without a transfer: the next state is the retired one, at the successor. -/
theorem instr_retires (s : State) (c : Nat) (w : Word) (priv fp : Bool) (body : State → Bank → Ires)
    (s3 : State) (k : Bank) (ld : List (Nat × Word)) (hold : Bool) (g : State)
    (hr : CoreReady s c w) (hp : priv = true → (s.front c).st 1 = false)
    (hf : if fp = true then s.fpBegun c = (g, true) else g = s.begun c)
    (hb : body g (g.bank c (s.runBank c)) = .done s3 k none ld hold) :
    ∃ t, s.instr c w false priv fp body = .next t ∧ Stepped s3 t c (s.runBank c) k (s.cur c).pc (s.cur c).ldNew ld hold :=
  ⟨_, instr_done s c w priv fp body s3 k ld none hold g hr hp hf hb, retired_completed _ _ _ _ _ _ _ (runBank_lt s c)⟩

/-- An instruction that is done with a transfer: the next state is the retired one, at the target. -/
theorem instr_retires_at (s : State) (c : Nat) (w : Word) (priv fp : Bool) (body : State → Bank → Ires)
    (s3 : State) (k : Bank) (a : Word) (ld : List (Nat × Word)) (hold : Bool) (g : State)
    (hr : CoreReady s c w) (hp : priv = true → (s.front c).st 1 = false)
    (hf : if fp = true then s.fpBegun c = (g, true) else g = s.begun c)
    (hb : body g (g.bank c (s.runBank c)) = .done s3 k (some a) ld hold) :
    ∃ t, s.instr c w false priv fp body = .next t ∧
      Retired s3 t c (s.runBank c) { k with pc := a } (s.cur c).ldNew ld hold :=
  ⟨_, instr_done s c w priv fp body s3 k ld (some a) hold g hr hp hf hb, retired_completed _ _ _ _ _ _ _ (runBank_lt s c)⟩

end Sys2Proof.Laws
end

