-- ==== Sys2Proof/Laws/Memory.lean ====
section
/-! SUPPORT. Every operation on memory cells keeps their canonical form, and a byte stored to SRAM is read back, every other byte as
before. -/

namespace Sys2Proof.Laws
open Sys2Proof Sys2Proof.Machine

/-- A part of a canonical map, picked by a test on its entries, is canonical. -/
theorem SMap_sorted_filter {α : Type} (m : SMap α) (t : Nat × α → Bool) (h : m.sorted = true) : SMap.sorted (m.filter t) = true := by
  induction m with
  | nil => rfl
  | cons e m ih =>
    obtain ⟨j, v⟩ := e
    simp only [SMap.sorted, SMap.above, Bool.and_eq_true, List.all_eq_true, decide_eq_true_eq] at h
    by_cases ht : t (j, v) = true
    · rw [List.filter_cons_of_pos ht]
      simp only [SMap.sorted, SMap.above, Bool.and_eq_true, List.all_eq_true, decide_eq_true_eq]
      exact ⟨fun e he => h.1 e (List.mem_filter.mp he).1, ih h.2⟩
    · rw [List.filter_cons_of_neg ht]
      exact ih h.2

theorem SMap_wf_filter {α : Type} [DecidableEq α] (d : Nat → α) (m : SMap α) (t : Nat × α → Bool) (h : m.wf d = true) :
    SMap.wf d (m.filter t) = true := by
  simp only [SMap.wf, Bool.and_eq_true, List.all_eq_true, decide_eq_true_eq] at h ⊢
  exact ⟨SMap_sorted_filter m t h.1, fun e he => h.2 e (List.mem_filter.mp he).1⟩

/-- What a part picked by keys holds at a key. -/
theorem SMap_get_filter {α : Type} (d : α) (m : SMap α) (t : Nat → Bool) (k : Nat) :
    SMap.get d (m.filter fun e => t e.1) k = if t k then SMap.get d m k else d := by
  induction m with
  | nil => simp [SMap.get]
  | cons e m ih =>
    obtain ⟨j, v⟩ := e
    by_cases ht : t j = true
    · rw [List.filter_cons_of_pos (by simpa using ht)]
      simp only [SMap.get, ih]
      by_cases hj : j = k
      · subst hj; simp [ht]
      · simp [hj]
    · rw [List.filter_cons_of_neg (by simpa using ht), ih]
      simp only [SMap.get]
      by_cases hj : j = k
      · subst hj; simp [ht]
      · simp [hj]

/-! ### The canonical form -/

theorem memWf_reset : State.reset.memWf = true := rfl

theorem memWf_setCell {s : State} (h : s.memWf = true) (k : Nat) (b : Byte) : (s.setCell k b).memWf = true :=
  SMap_wf_set memDefault s.mem k b h

theorem memWf_setCells {s : State} (h : s.memWf = true) (k : Nat) (bs : List Byte) : (s.setCells k bs).memWf = true := by
  induction bs generalizing s k with
  | nil => exact h
  | cons b bs ih => exact ih (memWf_setCell h k b) (k + 1)

theorem memWf_ram {s : State} (h : s.memWf = true) (r : RamSt) : ({ s with ram := r } : State).memWf = true := h

theorem memWf_setByte {s : State} (h : s.memWf = true) (a : Nat) (b : Byte) : (s.setByte a b).memWf = true := by
  unfold State.setByte
  split
  · exact memWf_setCell h a b
  · exact memWf_setCell (memWf_ram (memWf_setCell (memWf_setCell (memWf_setCell (memWf_setCell h _ 0) _ 0) _ 0) _ 0) _) a b

theorem memWf_setBytes {s : State} (h : s.memWf = true) (a : Nat) (bs : List Byte) : (s.setBytes a bs).memWf = true := by
  induction bs generalizing s a with
  | nil => exact h
  | cons b bs ih => exact ih (memWf_setByte h a b) (a + 1)

theorem memWf_setWord {s : State} (h : s.memWf = true) (a : Nat) (v : Word) : (s.setWord a v).memWf = true := memWf_setBytes h a _

theorem memWf_setWords {s : State} (h : s.memWf = true) (a : Nat) (vs : List Word) : (s.setWords a vs).memWf = true := by
  induction vs generalizing s a with
  | nil => exact h
  | cons v vs ih => exact ih (memWf_setWord h a v) (a + 4)

theorem memWf_nvCells {s : State} (h : s.memWf = true) : SMap.wf memDefault s.nvCells = true := SMap_wf_filter memDefault s.mem _ h

/-! ### Reading back -/

theorem get_setCell (s : State) (k j : Nat) (b : Byte) :
    SMap.get (memDefault j) (s.setCell k b).mem j = if j = k then b else SMap.get (memDefault j) s.mem j := by
  by_cases h : j = k
  · subst h; simp [State.setCell]
  · simp [State.setCell, SMap_get_set_ne _ _ _ _ _ _ h, h]

end Sys2Proof.Laws
end

