-- ==== Sys2Proof/Laws/Run.lean ====
section
/-! SUPPORT. What the passing of ticks leaves: `State.run` changes the clock, what was left to the next tick, the generators' registers
and records, and the comparators' thresholds; every other field and register stays (log 1). -/

namespace Sys2Proof.Laws
open Sys2Proof Sys2Proof.Machine

/-- The registers that a tick can change with nothing commanded: a leg's outputs, a set's status and counts, a mask's pointer and a
force that apply in the tick after their write (R165, R171, R174, R179). -/
def runRegs : List RegName := [.PWM_LEGSTAT, .PWM_SET_STAT, .PWM_SET_CNT, .PWM_FORCE, .PWM_MASK_PTR]

/-- Between two states nothing but the generators and the thresholds has changed. -/
structure Driven (s t : State) : Prop where
  rest : t = { s with soon := t.soon, regs := t.regs, plegs := t.plegs, psets := t.psets, cmps := t.cmps }
  regs : KeepsRegs s t runRegs

theorem Driven.refl (s : State) : Driven s s := ⟨rfl, fun _ _ _ _ _ => rfl⟩

theorem Driven.trans {s t u : State} (h : Driven s t) (g : Driven t u) : Driven s u :=
  ⟨by rw [g.rest, h.rest], fun r p i j hr => (g.regs r p i j hr).trans (h.regs r p i j hr)⟩

theorem Driven.of_rd {s t : State} (h : t = { s with soon := t.soon, plegs := t.plegs, psets := t.psets, cmps := t.cmps }) :
    Driven s t := ⟨by rw [h], fun r p i j _ => by rw [h]; rfl⟩

theorem driven_put (s : State) (f : Fld) (n p i j : Nat) (h : f.r ∈ runRegs) : Driven s (s.put f n p i j) := by
  refine ⟨rfl, fun r p' i' j' hr => ?_⟩
  rw [State.put, rd_wr_name]
  rintro rfl
  exact hr h

theorem driven_inc (s : State) (f : Fld) (p i j : Nat) (h : f.r ∈ runRegs) : Driven s (s.inc f p i j) := by
  unfold State.inc
  split <;> exact driven_put _ _ _ _ _ _ h

theorem driven_updLeg (s : State) (p l : Nat) (f : PLeg → PLeg) : Driven s (s.updLeg p l f) := .of_rd rfl
theorem driven_updSet (s : State) (p x : Nat) (f : Machine.PSet → Machine.PSet) : Driven s (s.updSet p x f) := .of_rd rfl
theorem driven_updCmp (s : State) (p n : Nat) (f : Cmp → Cmp) : Driven s (s.updCmp p n f) := .of_rd rfl

theorem driven_foldl {α : Type} (f : State → α → State) (h : ∀ s a, Driven s (f s a)) (xs : List α) (s : State) : Driven s (xs.foldl f s) := by
  induction xs generalizing s with
  | nil => exact Driven.refl s
  | cons x xs ih => exact (h s x).trans (ih _)

theorem driven_ite {s a b : State} {c : Prop} [Decidable c] (ha : Driven s a) (hb : Driven s b) : Driven s (if c then a else b) := by
  split <;> assumption

theorem driven_turnOn (s : State) (p l : Nat) (high : Bool) : Driven s (s.turnOn p l high) := by
  unfold State.turnOn
  refine Driven.trans ?_ (driven_updLeg _ _ _ _)
  cases high <;> exact driven_put _ _ _ _ _ _ (by decide)

theorem driven_guardLeg (s : State) (p l : Nat) : Driven s (s.guardLeg p l) := by
  have h0 : Driven s (s.put F.PWM_LEGSTAT.src (s.legLevel p l) p l) := driven_put _ _ _ _ _ _ (by decide)
  have off (t : State) (b : Bool) (f : Fld) (hf : f.r ∈ runRegs) (g : PLeg → PLeg) (h : Driven s t) :
      Driven s (if b then (t.clrb f p l).updLeg p l g else t) := by
    split
    · exact h.trans ((driven_put _ _ _ _ _ _ hf).trans (driven_updLeg _ _ _ _))
    · exact h
  unfold State.guardLeg
  have h2 := off _ (s.bit F.PWM_LEGSTAT.out_l p l && !(s.legWant p l).2) F.PWM_LEGSTAT.out_l (by decide)
    (fun k => { k with offL := s.clk.raw })
    (off _ (s.bit F.PWM_LEGSTAT.out_h p l && !(s.legWant p l).1) F.PWM_LEGSTAT.out_h (by decide) (fun k => { k with offH := s.clk.raw }) h0)
  have leg := fun g => h2.trans (driven_updLeg _ p l g)
  have on := fun high => h2.trans (driven_turnOn _ p l high)
  exact driven_ite (driven_ite (on _) (leg _)) (driven_ite (driven_ite (on _) (leg _)) (leg _))

theorem driven_termNoted (s : State) (p l : Nat) : Driven s (s.termNoted p l) := by
  unfold State.termNoted
  split
  · split
    · exact ((driven_put _ _ _ _ _ _ (by decide)).trans (driven_put _ _ _ _ _ _ (by decide))).trans (driven_inc _ _ _ _ _ (by decide))
    · exact Driven.refl s
  · exact Driven.refl s

theorem driven_drive (s : State) (p l : Nat) : Driven s (s.drive p l) := by
  unfold State.drive State.pcmEnd
  refine (driven_guardLeg s p l).trans ?_
  split
  · exact ((driven_termNoted _ _ _).trans (driven_updLeg _ _ _ _)).trans (driven_guardLeg _ _ _)
  · exact Driven.refl _

theorem driven_driveSet (s : State) (p x : Nat) : Driven s (s.driveSet p x) := driven_foldl _ (fun s l => driven_drive s p l) _ s

theorem driven_settle (s : State) : Driven s s.settle := by
  unfold State.settle
  refine Driven.trans (.of_rd rfl : Driven s { s with soon := [] }) (driven_foldl _ (fun s e => ?_) _ _)
  cases e with
  | force p x v => exact (driven_put _ _ _ _ _ _ (by decide)).trans (driven_driveSet _ _ _)
  | ptr p x v => exact ((driven_put _ _ _ _ _ _ (by decide)).trans (driven_updSet _ _ _ _)).trans (driven_driveSet _ _ _)
  | thr p n v => exact .of_rd rfl
  | leg p l => exact driven_drive _ _ _
  | set p x => exact driven_driveSet _ _ _

/-- What the ticks themselves leave: everything but the clock. -/
theorem ticks_rest (s : State) (n : Nat) : s.ticks n = { s with clk := (s.ticks n).clk } := by
  unfold State.ticks
  split <;> rfl

theorem raw_ticks (s : State) (n : Nat) : (s.ticks n).clk.raw = s.clk.raw + n := by
  unfold State.ticks
  split <;> rfl

/-- Between two states nothing but the clock, the generators and the thresholds has changed. -/
structure Ran (s t : State) : Prop where
  rest : t = { s with clk := t.clk, soon := t.soon, regs := t.regs, plegs := t.plegs, psets := t.psets, cmps := t.cmps }
  regs : KeepsRegs s t runRegs

theorem Driven.ran {s t : State} (h : Driven s t) : Ran s t := ⟨by rw [h.rest], h.regs⟩

theorem ran_ticks (s : State) (n : Nat) : Ran s (s.ticks n) := by
  rw [ticks_rest]
  exact ⟨rfl, fun _ _ _ _ _ => rfl⟩

theorem Ran.trans {s t u : State} (h : Ran s t) (g : Ran t u) : Ran s u :=
  ⟨by rw [g.rest, h.rest], fun r p i j hr => (g.regs r p i j hr).trans (h.regs r p i j hr)⟩

/-- What `n` ticks leave. -/
theorem run_frame (s : State) (n : Nat) : Ran s (s.run n) := by
  unfold State.run
  split
  · exact (Driven.refl s).ran
  · split
    · exact ran_ticks s n
    · exact ((ran_ticks s 1).trans (driven_settle _).ran).trans (ran_ticks _ _)

/-- `n` ticks take the raw counter on by `n`. -/
theorem raw_run (s : State) (n : Nat) : (s.run n).clk.raw = s.clk.raw + n := by
  have settle (t : State) : t.settle.clk = t.clk := by rw [(driven_settle t).rest]
  unfold State.run
  split
  · omega
  · split
    · exact raw_ticks s n
    · rw [raw_ticks, settle, raw_ticks]
      omega

/-- A register that no tick changes reads after `n` ticks as before. -/
theorem rd_run (s : State) (n : Nat) (r : RegName) (p i j : Nat) (h : r ∉ runRegs) : (s.run n).rd r p i j = s.rd r p i j :=
  (run_frame s n).regs r p i j h

/-- The fields that ticks leave alone. -/
@[simp] theorem mem_run (s : State) (n : Nat) : (s.run n).mem = s.mem := by rw [(run_frame s n).rest]
@[simp] theorem ram_run (s : State) (n : Nat) : (s.run n).ram = s.ram := by rw [(run_frame s n).rest]
@[simp] theorem banks_run (s : State) (n : Nat) : (s.run n).banks = s.banks := by rw [(run_frame s n).rest]
@[simp] theorem cores_run (s : State) (n : Nat) : (s.run n).cores = s.cores := by rw [(run_frame s n).rest]
@[simp] theorem pairs_run (s : State) (n : Nat) : (s.run n).pairs = s.pairs := by rw [(run_frame s n).rest]
@[simp] theorem log_run (s : State) (n : Nat) : (s.run n).log = s.log := by rw [(run_frame s n).rest]
@[simp] theorem lsh_run (s : State) (n : Nat) : (s.run n).lsh = s.lsh := by rw [(run_frame s n).rest]
@[simp] theorem net_run (s : State) (n : Nat) : (s.run n).net = s.net := by rw [(run_frame s n).rest]
@[simp] theorem pwr_run (s : State) (n : Nat) : (s.run n).pwr = s.pwr := by rw [(run_frame s n).rest]
@[simp] theorem img_run (s : State) (n : Nat) : (s.run n).img = s.img := by rw [(run_frame s n).rest]
@[simp] theorem dma_run (s : State) (n : Nat) : (s.run n).dma = s.dma := by rw [(run_frame s n).rest]

end Sys2Proof.Laws
end

