-- ==== Sys2Proof/Machine/Package.lean ====
section
/-! DEFINITION. The package's balls: their names (R12) and the signal or supply that each carries (R469, R481 to R485). No command
shows a ball; the map stands beside the machine, whose pins the other files name by their index. -/

namespace Sys2Proof.Machine

/-- What a ball carries: a signal or a supply of R483 to R485, with the indices of its name (R8's chapter, "Pins and balls"). -/
inductive Signal where
  | pwmh (pack leg : Nat) | pwml (pack leg : Nat) | vioPwm (pack bank : Nat) | fld (n : Nat)
  | gsck (pack master : Nat) | gmosi (pack master : Nat) | gmiso (pack master : Nat) | gcsN (pack master : Nat)
  | sdc (pack ch : Nat) | sdd (pack ch : Nat) | excp (pack ch : Nat) | excn (pack ch : Nat) | ain (pack n : Nat) | aref (pack : Nat)
  | ftxp (lane : Nat) | ftxn (lane : Nat) | frxp (lane : Nat) | frxn (lane : Nat)
  | etxp (port : Nat) | etxn (port : Nat) | erxp (port : Nat) | erxn (port : Nat)
  | mdc | mdio | t1sp (n : Nat) | t1sn (n : Nat) | ctx (n : Nat) | crx (n : Nat) | sens (n : Nat) | whistle (n : Nat)
  | supFldEn | supCoreEn | supFldOk | supCoreOk | resetN | xin | xout | zcal | tck | tms | tdi | tdo | trstN
  | vddFld | vddCore | vddSerLv | vddSerHv | vnv | vio | vana | vao | vss | vssa
deriving DecidableEq, Repr

/-- The letters of the rows, in order (R12). -/
def ballRows : List String :=
  ["A", "B", "C", "D", "E", "F", "G", "H", "J", "K", "L", "M", "N", "P", "T", "U", "V", "W", "Y"] ++
  ["AA", "AB", "AC", "AD", "AE", "AF", "AG", "AH", "AJ", "AK", "AL", "AM", "AN", "AP", "AT", "AU", "AV", "AW", "AY", "BA"]

/-- The number of the row that letters name, 1 to 39 (R12). -/
def ballRow (letters : String) : Option Nat := (ballRows.idxOf? letters).map (· + 1)

/-- What slot `n` of pack `p`'s band holds (R483). -/
def bandSignal (p n : Nat) : Signal :=
  if n ≤ 36 then if n % 2 = 1 then .pwmh p ((n - 1) / 2) else .pwml p ((n - 1) / 2)
  else if n ≤ 40 then .vioPwm p 0 else if n ≤ 44 then .vioPwm p 1
  else if n ≤ 62 then .fld (18 * p + (n - 45))
  else if n ≤ 98 then .fld (72 + 36 * p + (n - 63))
  else if n ≤ 114 then
    let m := (n - 99) / 4
    match (n - 99) % 4 with
    | 0 => .gsck p m
    | 1 => .gmosi p m
    | 2 => .gmiso p m
    | _ => .gcsN p m
  else if n ≤ 118 then .vddFld else if n ≤ 122 then .vss
  else if n ≤ 138 then if n % 2 = 1 then .sdc p ((n - 123) / 2) else .sdd p ((n - 123) / 2)
  else if n ≤ 142 then if n % 2 = 1 then .excp p ((n - 139) / 2) else .excn p ((n - 139) / 2)
  else if n ≤ 158 then .ain p (n - 143)
  else if n = 159 then .aref p
  else if n ≤ 164 then .vana else .vssa

/-- What slot `c` of the centre ring holds (R484). -/
def ringSignal (c : Nat) : Signal :=
  if c ≤ 24 then
    let n := (c - 1) / 6
    match (c - 1) % 6 with
    | 1 => .ftxp n
    | 2 => .ftxn n
    | 4 => .frxp n
    | 5 => .frxn n
    | _ => .vss
  else if c ≤ 48 then
    let m := (c - 25) / 4
    match (c - 25) % 4 with
    | 0 => .etxp m
    | 1 => .etxn m
    | 2 => .erxp m
    | _ => .erxn m
  else if c = 49 then .mdc else if c = 50 then .mdio
  else if c ≤ 58 then if c % 2 = 1 then .t1sp ((c - 51) / 2) else .t1sn ((c - 51) / 2)
  else if c ≤ 74 then if c % 2 = 1 then .ctx ((c - 59) / 2) else .crx ((c - 59) / 2)
  else if c ≤ 82 then .sens (c - 75) else if c ≤ 90 then .whistle (c - 83)
  else
    ([.supFldEn, .supCoreEn, .supFldOk, .supCoreOk, .resetN, .xin, .xout, .zcal, .tck, .tms, .tdi, .tdo, .trstN, .vao, .vao] :
      List Signal).getD (c - 91) .vss

/-- What a ball of the centre core carries (R485). -/
def coreSignal (r c : Nat) : Signal :=
  if (r + c) % 2 = 0 then .vss
  else if r ≤ 8 then .vddSerLv else if r ≤ 10 then .vddSerHv else if r ≤ 12 then .vnv else if r ≤ 14 then .vio
  else if r ≤ 28 then .vddCore else .vddFld

/-- The slot of the centre ring at a row and column on it, clockwise from row 6, column 6 (R484). -/
def ringSlot (r c : Nat) : Nat :=
  if r = 6 then c - 5 else if c = 34 then 29 + (r - 6) else if r = 34 then 57 + (34 - c) else 85 + (34 - r)

/-- What the ball at a row and column, each 1 to 39, carries (R481 to R485); none outside the array. -/
def ballSignal (r c : Nat) : Option Signal :=
  if r = 0 ∨ 39 < r ∨ c = 0 ∨ 39 < c then none
  else if r ≤ 5 ∧ c ≤ 34 then some (bandSignal 0 (34 * (r - 1) + c))
  else if r ≤ 34 ∧ 35 ≤ c then some (bandSignal 1 (34 * (39 - c) + r))
  else if 35 ≤ r ∧ 6 ≤ c then some (bandSignal 2 (34 * (39 - r) + (40 - c)))
  else if c ≤ 5 then some (bandSignal 3 (34 * (c - 1) + (40 - r)))
  else if r = 6 ∨ r = 34 ∨ c = 6 ∨ c = 34 then some (ringSignal (ringSlot r c))
  else some (coreSignal r c)

/-- What the ball with a name such as K35 carries (R12). -/
def ballNamed (letters : String) (col : Nat) : Option Signal := (ballRow letters).bind fun r => ballSignal r col

/-- The supply of a leg's outputs: bank 0 for legs 0 to 8, bank 1 for legs 9 to 17 (R469). -/
def legSupply (pack leg : Nat) : Signal := .vioPwm pack (leg / 9)

end Sys2Proof.Machine
end

