-- ==== Sys2Proof/Machine/Pins.lean ====
section
/-! DEFINITION. The levels of output pins that follow from the state: PWM pins behind the output polarity (R172) and the emulator's
A, B and Z (R122). No command reads them; they say what a board sees. -/

namespace Sys2Proof.Machine

/-- The rail of the PWM pins is on: VIO_PWM belongs to the field group, which is off in Kennel (R431, R433). -/
def State.pwmRail (s : State) : Bool := s.pwr.fldOk && s.pwr.mode != 3

/-- The levels of a leg's high and low pin, none where VIO_PWM is off (R433, R455): low until the configuration controller has written
the leg's PWM_LEGCTL; then an output that is on drives its pin high, or low where its polarity bit is 1, and one that is off drives the
other level (R172, R454). -/
def State.pwmPins (s : State) (p l : Nat) : Option (Bool × Bool) :=
  if !s.pwmRail then none
  else if !(s.pleg p l).cfgd then some (false, false)
  else some (s.bit F.PWM_LEGSTAT.out_h p l != s.bit F.PWM_LEGCTL.pol_h p l, s.bit F.PWM_LEGSTAT.out_l p l != s.bit F.PWM_LEGCTL.pol_l p l)

/-- A sensor supply's output is driven (R121, R454). -/
def State.sensPin (s : State) (n : Nat) : Bool := s.pwmRail && s.bit F.PWR_SENS_STAT.on 0 n

/-- The levels of A and B in an output state of the emulator: A leads B going forward (R102, R122; log 114 for state 0). -/
def emuAB (state : Nat) : Bool × Bool := (state % 4 == 1 || state % 4 == 2, state % 4 == 2 || state % 4 == 3)

/-- The levels of the emulator's A, B and Z: Z is high in state 0, and only with z_en (R122). -/
def State.emuPins (s : State) (p : Nat) : Bool × Bool × Bool :=
  let n := s.f F.POS_EMU_POS.state p
  ((emuAB n).1, (emuAB n).2, n == 0 && s.bit F.POS_EMU_CFG.z_en p)

end Sys2Proof.Machine
end

