-- ==== Sys2Proof/Tests/Slice0.lean ====
section
/-! SUPPORT. Small tests: ill-formed terms refused, results written out from the spec's words, and for the statements of
Certificates/Slice0/Obligations.lean states that meet their hypotheses. -/

set_option Elab.async false

namespace Sys2Proof.Tests

open Sys2Proof Sys2Proof.Machine

/-- A next state with the property. -/
def okOut (o : Out) (p : State → Bool) : Bool := match o with
  | .next t => p t
  | _ => false

/-- The command is accepted, with the property. -/
def takes (o : Out) (p : State → Bool := fun _ => true) : Bool := okOut o fun t => !t.resp.err && p t

/-- The answer is data. -/
def gave : State × Rsp → Bool
  | (_, .ok _) => true
  | _ => false

/-- The fetch gives this word. -/
def gives (w : Word) : Rsp → Bool
  | .ok d => d == w
  | _ => false

/-- `CoreReady` as a Bool. -/
def ready (s : State) (c : Nat) (w : Word) : Bool :=
  s.coreRuns c && s.mayStart c w && gives w (((s.replayPend c).deliverDue c (s.runBank c)).fetch c).2

theorem coreReady_of (s : State) (c : Nat) (w : Word) (h : ready s c w = true) : CoreReady s c w := by
  unfold ready gives at h
  split at h
  · rename_i d hd
    simp only [Bool.and_eq_true, beq_iff_eq] at h
    exact ⟨h.1.1, h.1.2, by rw [hd, h.2]⟩
  · simp at h

/-! ### Well-formed commands -/

/-- A header of a payload of three octets without one. -/
def fr : Frame :=
  { intact := true, icvOk := true, seq := 0, ack := 0, ackV := false, dst := 0, src := 0, tenant := 0, sec := false, txid := 0,
    status := 0, len := 0, addr := 0, plen := 3, tag := 0, credit := 0, payload := [] }
theorem test_frame_ill_formed : Instr.wellFormed (.rdFrame 0 fr) = false := by decide
theorem test_frame_well_formed : Instr.wellFormed (.rdFrame 0 { fr with payload := [1, 2, 3] }) = true := by decide
theorem test_key_ill_formed : Instr.wellFormed (.keyInstall (.core 0) 0 [1, 2]) = false := by decide
theorem test_codes_ill_formed : Instr.wellFormed (.readbackDone 0 []) = false := by decide
theorem test_rx_ill_formed : Instr.wellFormed (.spiTransferEnd 0 0 []) = false := by decide
theorem test_bits_ill_formed : Instr.wellFormed (.decimatorOutput 0 0 []) = false := by decide
theorem test_fast_bits_ill_formed : Instr.wellFormed (.fastPathOutput 0 0 []) = false := by decide
theorem test_cal_ill_formed : Instr.wellFormed (.calSetCommit (.core 0) 0 true 32 0) = false := by decide
theorem test_cal_well_formed : Instr.wellFormed (.calSetCommit (.core 0) 0 true 31 0) = true := by decide
theorem test_tail_ill_formed : Instr.wellFormed (.tailAdvance (.core 0) true 16 0) = false := by decide
theorem test_launch_ill_formed : Instr.wellFormed (.frameLaunch true 16) = false := by decide

/-! ### States -/

/-- After reset, in mode Run, region 0 of core 0 and of DMA channel 0 opens all addresses to every access. -/
def rs : State := ((((State.reset.wr .MEM_RGN_ATTR 0x1F 0 0 0).wr .MEM_RGN_LIMIT 0xFFFFF000 0 0 0).wr .MEM_RGN_ATTR 0x1F 0 12 0).wr
  .MEM_RGN_LIMIT 0xFFFFF000 0 12 0).updPwr fun k => { k with mode := 1 }

/-- Core 0 running in bank 0. -/
def runs (k : Bank) (s : State := rs) : State := (s.setBank 0 0 k).updCore 0 fun q => { q with held := false }

/-- A bank at the first word of SRAM. -/
def bk : Bank := { pc := 0x10000000 }

/-- Core 0 about to execute. -/
def cs : State := runs bk

/-- With register `n` of its bank at `v`. -/
def withG (n : Nat) (v : Word) (s : State := cs) : State := s.setBank 0 0 ((s.bank 0 0).setReg n v)

/-- With word `w` at the first word of SRAM. -/
def code (w : Word) (s : State := cs) : State := s.setWord 0x10000000 w

/-! ### Words of instructions -/

/-- A word by its fields: width and value of each, from the top (R249, R127). -/
def fields (xs : List (Nat × Nat)) : Word := BitVec.ofNat 32 (xs.foldl (fun n x => n * 2 ^ x.1 + x.2) 0)

/-- R249: the R format is op, rd, ra, rb, sh, fn; R250 gives the op and fn codes. -/
theorem test_word_sub : fields [(6, 0), (5, 3), (5, 1), (5, 2), (5, 0), (6, 0x01)] = 0x00611001 ∧
    decodeCore 4 0x00611001 = some (.sub 4 3 1 2) := by decide +kernel
theorem test_word_srai : decodeCore 0 (fields [(6, 0), (5, 31), (5, 1), (5, 0), (5, 17), (6, 0x0B)]) = some (.srai 0 31 1 17) := by decide +kernel
theorem test_word_lui : decodeCore 0 (fields [(6, 0x07), (5, 9), (5, 0), (16, 0x8001)]) = some (.lui 0 9 0x8001) := by decide +kernel
/-- The I format: op, rd, ra, imm; for a store the register whose value is stored stands in the place of rd. -/
theorem test_word_ldh : decodeCore 0 (fields [(6, 0x09), (5, 9), (5, 2), (16, 0xFFFE)]) = some (.ldh 0 9 2 0xFFFE) := by decide +kernel
theorem test_word_fsw : decodeCore 0 (fields [(6, 0x1D), (5, 9), (5, 2), (16, 4)]) = some (.fsw 0 9 2 4) := by decide +kernel
theorem test_word_bne : decodeCore 0 (fields [(6, 0x11), (5, 9), (5, 2), (16, 4)]) = some (.bne 0 9 2 4) := by decide +kernel
theorem test_word_jal : decodeCore 0 (fields [(6, 0x13), (26, 0x3FFFFFF)]) = some (.jal 0 0x3FFFFFF) := by decide +kernel
theorem test_word_loopi : decodeCore 0 (fields [(6, 0x16), (2, 2), (10, 0x3FF), (14, 1)]) = some (.loopi 0 2 0x3FF 1) ∧
    decodeCore 0 (fields [(6, 0x16), (2, 3), (10, 0x3FF), (14, 1)]) = none ∧ decodeCore 0 (fields [(6, 0x16), (2, 2), (10, 0x3FF), (14, 0)]) = none := by
  decide +kernel
theorem test_word_trap : decodeCore 0 (fields [(6, 0x17), (20, 0xABCDE), (6, 2)]) = some (.trap 0 0xABCDE) := by decide +kernel
theorem test_word_mts : decodeCore 0 (fields [(6, 0x19), (5, 0), (5, 7), (16, 8)]) = some (.mts 0 7 8) ∧
    decodeCore 0 (fields [(6, 0x19), (5, 0), (5, 7), (16, 7)]) = none := by decide +kernel
theorem test_word_fp : decodeCore 0 (fields [(6, 0x1E), (5, 2), (5, 4), (5, 6), (5, 0), (6, 0x22)]) = some (.fmulD 0 2 4 6) ∧
    decodeCore 0 (fields [(6, 0x1E), (5, 2), (5, 4), (5, 5), (5, 0), (6, 0x22)]) = none ∧
    decodeCore 0 (fields [(6, 0x1E), (5, 2), (5, 4), (5, 5), (5, 0), (6, 0x05)]) = some (.fmadd 0 2 4 5) := by decide +kernel
theorem test_word_ctx : decodeCore 0 (fields [(6, 0x1A), (5, 6), (5, 4), (5, 0), (5, 0), (6, 3)]) = some (.ctxrHi 0 6 4) := by decide +kernel
/-- R127: op, d, a, b, c, imm. -/
theorem test_word_vfma : decodeLe 2 (fields [(6, 0x07), (4, 1), (4, 2), (4, 3), (4, 4), (10, 0)]) = some (.vfma 2 1 2 3 4) := by decide +kernel
theorem test_word_dout : decodeLe 2 (fields [(6, 0x34), (4, 0), (4, 2), (4, 0), (4, 0), (10, 0x2B)]) = some (.dout 2 2 3 5) := by decide +kernel

/-! ### The queue and the clock -/

theorem test_idle_tick : State.reset.pending = [] ∧ State.reset.clk.stopped = false ∧ State.reset.rd .TIME_RATE = 0 ∧
    State.reset.clk.frac = 0 := by decide +kernel
/-- R44: while the timebase is stopped, the always-on cycles go on; the tag is that of the cycle begun last. -/
theorem test_stopped : (let t := ({ State.reset with clk := { stopped := true } } : State).run 30518
    (t.clk.aoCycles, t.clk.tag) == (1, 488288)) = true := by decide +kernel

/-! ### Cores: instructions -/

theorem test_core_ready : CoreReady (code (encR 0 3 1 2 0 0)) 0 (encR 0 3 1 2 0 0) := coreReady_of _ _ _ (by decide +kernel)
/-- Another word at the pc: the command is not what the core executes. -/
theorem test_other_word : okOut (exec (.sub 0 3 1 2) (code (encR 0 3 1 2 0 0))) (fun t => (t.bank 0 0).pc == 0x10000000) = true := by decide +kernel
theorem test_add : okOut (exec (.add 0 3 1 2) (code (encR 0 3 1 2 0 0) (withG 2 0xFFFFFFFF (withG 1 5)))) (fun t => (t.bank 0 0).reg 3 == 4) = true := by decide +kernel
/-- R251: a quotient by zero is 0xFFFFFFFF, and the remainder is the dividend. -/
theorem test_div_by_zero : okOut (exec (.div 0 3 1 2) (code (encR 0 3 1 2 0 0x1C) (withG 1 5))) (fun t => (t.bank 0 0).reg 3 == 0xFFFFFFFF) = true := by decide +kernel
theorem test_rem_by_zero : okOut (exec (.rem 0 3 1 2) (code (encR 0 3 1 2 0 0x1E) (withG 1 5))) (fun t => (t.bank 0 0).reg 3 == 5) = true := by decide +kernel
/-- R247: a write to g0 is discarded. -/
theorem test_g0 : okOut (exec (.addi 0 0 0 7) (code (encI 1 0 0 7))) (fun t => (t.bank 0 0).reg 0 == 0 && (t.bank 0 0).pc == 0x10000004) = true := by
  decide +kernel

def ld : State := withG 1 0x10000100
theorem test_load_hyps : ready (code (encI 8 3 1 0) ld) 0 (encI 8 3 1 0) = true ∧ ready (code (encI 0x1C 3 1 0) ld) 0 (encI 0x1C 3 1 0) = true ∧ debugAccess (.core 0) 0x10000100 = false ∧
    ((ld.begun 0).jnlFull 0 && !notJournaled 0 0x10000100) = false ∧ gave ((ld.begun 0).coreLoad 0 0x10000100 4) = true ∧
    gave ((ld.begun 0).coreLoad 0 0x10000103 1) = true ∧ (ld.fpBegun 0).2 = true := by decide +kernel
/-- R253: the loaded register is written after the next instruction. -/
theorem test_load_delay : okOut (exec (.ldb 0 3 1 3) (code (encI 0x0B 3 1 3) (ld.setWord 0x10000100 0x80000000))) (fun t =>
    (t.bank 0 0).reg 3 == 0 && (t.bank 0 0).ldNew == [(3, 0xFFFFFF80)]) = true := by decide +kernel
theorem test_load_due : ((runs { bk with ldDue := [(3, 9)], ldNew := [(4, 8)] }).cur 0).ldDue = [(3, 9)] := by decide +kernel

/-- A store waits in the commit queue of a running pair. -/
def waits : State := (ld.updCore 0 fun q => { q with queue := [{ addr := 0x10000100, size := 4, val := 0x11223344 }] })
theorem test_forward_hyps : (waits.replaying 0 && !notJournaled 0 0x10000102) = false ∧
    gave (waits.busRead (waits.req (coreM 0)) 0x10000102 2) = true := by decide +kernel
theorem test_forward : okOut (exec (.ldhu 0 3 1 2) (code (encI 0x0A 3 1 2) waits)) (fun t => (t.bank 0 0).ldNew == [(3, 0x1122)]) = true := by decide +kernel
/-- As a pair. -/
def asPair (s : State) : State := (s.putPf F.PJNL_PSTAT.paired 1 8).setb F.CHK_STAT.paired 0
theorem test_store_paired : ready (code (encI 0x0D 2 1 0) (asPair ld)) 0 (encI 0x0D 2 1 0) = true ∧ ((asPair ld).begun 0).jnlFull 0 = false ∧ ((asPair ld).begun 0).replaying 0 = false ∧
    ((asPair ld).begun 0).paired (corePair 0) = true ∧ (((asPair ld).begun 0).core 0).queue.length < 16 := by decide +kernel
theorem test_store_unpaired : ready (code (encI 0x1D 2 1 0) ld) 0 (encI 0x1D 2 1 0) = true ∧ (ld.begun 0).jnlFull 0 = false ∧ (ld.begun 0).replaying 0 = false ∧
    (ld.begun 0).paired (corePair 0) = false := by decide +kernel
theorem test_store_ald : okOut (exec (.sth 0 2 1 2) (code (encI 0x0E 2 1 2) (withG 2 0xABCD1234 ld))) (fun t => t.word 0x10000100 == 0x12340000) = true := by
  decide +kernel
theorem test_confirm_hyps : (waits.core 0).queue = [{ addr := 0x10000100, size := 4, val := 0x11223344 }] ∧ isSram 0x10000100 = true ∧
    waits.regionOk { waits.req (coreM 0) with user := false, ctx := 0, sec := waits.secOk (waits.req (coreM 0)).ten && !false } .write
      0x10000100 4 = true ∧ waits.pageClosedAt 0x10000100 = false ∧ waits.nflips 0x10000100 ≤ 1 ∧ (∀ w, w < 9 → (waits.cFlip (lineOf 0x10000100) w).2 ≤ 1) := by decide +kernel
/-- R276 and R301: the aliases set and clear bits. -/
theorem test_alias_hyps : rs.pageClosedAt 0x10000100 = false ∧ rs.nflips 0x10000100 ≤ 1 ∧ (∀ w, w < 9 → (rs.cFlip (lineOf 0x10000100) w).2 ≤ 1) ∧
    rs.regionOk (rs.req (coreM 0)) .write 0x10000100 4 = true ∧ rs.regionOk (rs.req (coreM 0)) .read 0x10000100 4 = true := by decide +kernel
theorem test_branch_both : (cs.front 0).reg 1 = (cs.front 0).reg 2 ∧ (ld.front 0).reg 1 ≠ (ld.front 0).reg 2 := by decide +kernel
theorem test_branch : okOut (exec (.beq 0 1 2 0xFFFF) (code (encI 0x10 1 2 0xFFFF))) (fun t => (t.bank 0 0).pc == 0x0FFFFFFC) = true := by decide +kernel

/-- A bank at the end of loops 0 and 1, of which loop 0 is in its last pass. -/
def lpb : Bank := { bk with lp := [(0, 0x10000080), (1, 0x10000000), (2, 1), (3, 0x10000040), (4, 0x10000000), (5, 3)] }
theorem test_loops : (lpb.successor 0x10000000).2 = 0x10000040 ∧ (lpb.successor 0x10000000).1.lp.get 0 2 = 0 ∧
    (lpb.successor 0x10000000).1.lp.get 0 5 = 2 := by decide +kernel
theorem test_mfs_hyps : ready (code (encI 0x18 1 0 8)) 0 (encI 0x18 1 0 8) = true ∧ ready (code (encI 0x19 0 1 8)) 0 (encI 0x19 0 1 8) = true ∧ (cs.front 0).st 1 = false ∧ (cs.fpBegun 0).2 = true ∧ (cs.begun 0).bit F.SCHED_STAT.fast 0 = false := by
  decide +kernel
/-- In the fast bank. -/
def fst_ : State := (cs.setBank 0 8 bk).setb F.SCHED_STAT.fast 0
theorem test_eret_fast : ready (code (encS 0 0) fst_) 0 (encS 0 0) = true ∧ ready (code (encS 0 1) fst_) 0 (encS 0 1) = true ∧ (fst_.front 0).st 1 = false ∧
    ((fst_.begun 0).bit F.SCHED_STAT.fast 0 && !(fst_.front 0).st 7) = true := by decide +kernel
theorem test_trap_single : ready (code (encS 5 2)) 0 (encS 5 2) = true ∧ (((cs.begun 0).deliverAll 0 0).bank 0 0).st 7 = false := by decide +kernel
def gm0 : State := runs { bk with status := 12 }
theorem test_trap_kinds : ready (code (encS 5 2) gm0) 0 (encS 5 2) = true ∧ (((gm0.begun 0).deliverAll 0 0).bank 0 0).st 0 = false ∧
    (((cs.begun 0).deliverAll 0 0).bank 0 0).st 0 = true := by decide +kernel
/-- R261 and R278: a trap with gm = 1 is a double fault: vector 1, ECAUSE v + 32, dfh = 1. -/
theorem test_double : okOut (exec (.trap 0 5) (code (encS 5 2))) (fun t => (t.bank 0 0).pc == 16 && (t.bank 0 0).ecause == 42 && (t.bank 0 0).st 7) = true := by
  decide +kernel
theorem test_fetch_refused : (runs { pc := 0x10000000 } (rs.wr .MEM_RGN_ATTR 0 0 0 0)).coreRuns 0 = true ∧
    ((((runs bk (rs.wr .MEM_RGN_ATTR 0 0 0 0)).replayPend 0).deliverDue 0 0).fetch 0).2 = .refused := by decide +kernel
def flip2 : State := { cs with ram := { cs.ram with valid := [(0x4000000, 7)], flips := [(0x4000000, 3)] } }
theorem test_fetch_ue : flip2.coreRuns 0 = true ∧ (((flip2.replayPend 0).deliverDue 0 0).fetch 0).2 = .ue := by decide +kernel
def usr : State := runs { bk with status := 14 }
theorem test_user : ready (code (encS 0 0) usr) 0 (encS 0 0) = true ∧ (usr.bank 0 0).st 1 = true := by decide +kernel
def nofp : State := runs { bk with status := 5 }
theorem test_fp_unavailable : ready (code (encR 0x1E 1 2 3 0 0) nofp) 0 (encR 0x1E 1 2 3 0 0) = true ∧ (nofp.fpBegun 0).2 = false := by decide +kernel
theorem test_misaligned : ((withG 1 0x10000101).front 0).reg 1 = 0x10000101 := by decide +kernel
theorem test_flush_hyps : (cs.begun 0).vectorLine 0 0x400001 = false ∧ (cs.begun 0).vectorLine 0 0 = true := by decide +kernel
theorem test_fence_hyps : ((cs.begun 0).core 0).queue = [] ∧ ((cs.begun 0).core 0).errResp = [] ∧ (cs.begun 0).net.reqs = [] := by
  decide +kernel
theorem test_yield_hyps : ((fst_.begun 0).bit F.SCHED_STAT.fast 0 || (fst_.front 0).st 7) = true ∧
    ((cs.begun 0).bit F.SCHED_STAT.fast 0 || (cs.front 0).st 7) = false ∧
    (cs.begun 0).bit F.SCHED_CTX.wake_en 0 0 = false ∧
    ((cs.setb F.SCHED_CTX.wake_en 0 0).begun 0).bit F.SCHED_CTX.wake_en 0 0 = true ∧
    ((cs.setb F.SCHED_CTX.wake_en 0 0).begun 0).pends 0 0 = false ∧
    (((cs.setb F.SCHED_CTX.wake_en 0 0).putPend 0 0 true).begun 0).pends 0 0 = true := by decide +kernel
theorem test_vector_reload : ((cs.updCore 0 fun q => { q with vecReload := some 0 }).core 0).vecReload = some 0 ∧
    gave (rs.memRead (rs.saveReq 0) .fetch 0x10000000 4) = true ∧ gave (State.reset.memRead (State.reset.saveReq 0) .fetch 0x10000000 4) = false := by
  decide +kernel
/-- 1 + 2 = 3 in binary32; g1 and g2 of the numbering are f1 and f2 here. -/
theorem test_fadd : okOut (exec (.fadd 0 3 1 2) (code (encR 0x1E 3 1 2 0 0) (cs.updCore 0 fun q => { q with f := [(1, 0x3F800000), (2, 0x40000000)] })))
    (fun t => (t.core 0).f.get 0 3 == 0x40400000) = true := by decide +kernel
/-- 1 / 0 is an infinity and raises dz (R264, R265). -/
theorem test_fdiv_zero : okOut (exec (.fdiv 0 3 1 2) (code (encR 0x1E 3 1 2 0 3) (cs.updCore 0 fun q => { q with f := [(1, 0x3F800000)] })))
    (fun t => (t.core 0).f.get 0 3 == 0x7F800000 && (t.core 0).fcsr != 0) = true := by decide +kernel
theorem test_ctx_save_hyps : ready (code (encR 0x1A 0 1 2 0 0) (withG 1 0x10000080)) 0 (encR 0x1A 0 1 2 0 0) = true ∧
    ((cs.begun 0).regionOk ((cs.begun 0).req (coreM 0)) .write 0x10000080 128 && isSram 0x10000080) = true ∧
    ((cs.begun 0).regionOk ((cs.begun 0).req (coreM 0)) .read 0x10000080 128 && isSram 0x10000080) = true ∧
    ((cs.begun 0).regionOk ((cs.begun 0).req (coreM 0)) .write 0x08000000 128 && isSram 0x08000000) = false ∧
    ((cs.begun 0).regionOk ((cs.begun 0).req (coreM 0)) .read 0x08000000 128 && isSram 0x08000000) = false ∧
    (match (cs.begun 0).loadWords 0 0x10000080 27 [] with | (_, .ok _, _) => true | _ => false) = true := by decide +kernel

/-! ### Cores: scheduler, events, checkpoints -/

def spl : State := (rs.put F.SCHED_SAVE.base (0x10000000 / 512) 0).updCore 0 fun q => { q with job := some (true, 3) }
theorem test_spill_hyps : (spl.core 0).job = some (true, 3) ∧ (rs.core 0).job ≠ some (true, 3) ∧
    (spl.regionOk (spl.saveReq 0) .write (spl.f F.SCHED_SAVE.base 0 * 512 + 0x600) 256 && isSram (spl.f F.SCHED_SAVE.base 0 * 512 + 0x600)) = true ∧
    ((spl.put F.SCHED_SAVE.base 0 0).regionOk (spl.saveReq 0) .write 0x600 256 && isSram 0x600) = false := by decide +kernel
def rst_ : State := spl.updCore 0 fun q => { q with job := some (false, 3), fresh := [(3, true)] }
theorem test_restore_hyps : (rst_.core 0).job = some (false, 3) ∧ (rst_.freeBanks 0).head?.isSome = true ∧
    (rst_.core 0).fresh.get false 3 = true ∧
    ((rst_.put F.SCHED_SAVE.base 0 0).regionOk (rst_.saveReq 0) .read 0x600 256 && isSram 0x600) = false := by decide +kernel
theorem test_start_hyps : rs.ctxState 0 3 = 0 ∧ rs.ctxState 0 0 ≠ 0 ∧ rs.f F.SCHED_STAT.cur 0 = 0 ∧
    (rs.put F.SCHED_CTX_STAT.state 3 0 5).ctxState 0 5 = 3 := by decide +kernel
/-- Context 0 yielded while context 1, resident in bank 1, is READY. -/
def sw2 : State := ((((cs.put F.SCHED_CTX_STAT.state 1 0 1).setb F.SCHED_CTX_STAT.resident 0 1).put F.SCHED_CTX_STAT.bank 1 0 1).put
  F.SCHED_CTX_STAT.state 3 0 0)
theorem test_switch_hyps : sw2.replaying 0 = false ∧ sw2.selected 0 = some 1 ∧ sw2.bit F.SCHED_STAT.fast 0 = false ∧
    sw2.bit F.SCHED_CTX_STAT.resident 0 1 = true ∧ (sw2.core 0).held = false ∧ (sw2.core 0).shield = false ∧ (sw2.core 0).win = none ∧
    (sw2.cur 0).ldNew = [] ∧ (sw2.cur 0).st 7 = false ∧ sw2.ctxState 0 0 ≠ 2 := by decide +kernel
theorem test_switch : okOut (exec (.contextSwitch 0) sw2) (fun t => t.f F.SCHED_STAT.cur 0 == 1 && t.ctxState 0 1 == 2) = true := by decide +kernel
/-- With source 5 pending and routed to the slow vector. -/
def irq (fast : Bool) : State := ((gm0.putPend 0 5 true).wr .INT_MASK 0xFFFFFFDF 0 0 0).wr .INT_FAST (if fast then 0x20 else 0) 0 0 0
theorem test_async_hyps : cs.asyncOpen 0 = false ∧ gm0.asyncOpen 0 = true ∧ (gm0.cur 0).ldDue = [] ∧ gm0.offer 0 true = none ∧
    gm0.offer 0 false = none ∧ (gm0.updCore 0 fun q => { q with storeErr := some 4 }).asyncOpen 0 = true ∧
    (gm0.updCore 0 fun q => { q with ctxFault := some 4 }).asyncOpen 0 = true := by decide +kernel
theorem test_store_error : ((rs.updCore 0 fun q => { q with errResp := [8], storeErr := some 4 }).core 0).errResp = [8] ∧
    ((rs.updCore 0 fun q => { q with errResp := [8] }).core 0).storeErr = none ∧
    gave (rs.memRead (rs.req (coreM 0)) .fetch 0x10000000 4) = true ∧
    gave (State.reset.memRead (State.reset.req (coreM 0)) .fetch 0x10000000 4) = false := by decide +kernel
def on0 (f : Core → Core) (s : State := cs) : State := s.updCore 0 f
theorem test_checkpoint_hyps : (let live := fun s : State => s.paired 8 && !(s.core 0).held && s.pf F.PJNL_PSTAT.failed 8 == 0
    !live cs && live (asPair cs) && !(asPair cs).recovering 8 && ((asPair cs).drainQueue 0 16).paired 8 &&
      live ((asPair cs).putPf F.PJNL_PSTAT.rec 1 8) && ((asPair cs).putPf F.PJNL_PSTAT.rec 1 8).recovering 8) = true := by decide +kernel
/-- R382: a checkpoint saves the banks. -/
theorem test_checkpoint : takes (exec (.checkpoint 0 false) (asPair (withG 5 7))) (fun t => ((t.pair 8).ck.banks.get {} 0).reg 5 == 7 &&
    (t.pair 8).jnl.length == 1) = true := by decide +kernel
def idle0 : State := cs.put F.SCHED_CTX_STAT.state 0 0 0
theorem test_rest_hyps : (idle0.f F.PWR_STAT.rest).testBit 0 = false ∧ (idle0.core 0).held = false ∧ idle0.ctxsIn 0 1 = [] ∧ idle0.ctxsIn 0 2 = [] ∧
    idle0.fastPending 0 = false ∧ (idle0.core 0).job = none ∧ (idle0.core 0).queue = [] ∧ idle0.pwr.mode = 1 ∧ idle0.pwr.past = false ∧
    cs.ctxsIn 0 2 ≠ [] := by decide +kernel
theorem test_rest_exit_hyps : (let s := (idle0.put F.PWR_STAT.rest 1).put F.SCHED_CTX_STAT.state 1 0 0
    (s.f F.PWR_STAT.rest).testBit 0 && s.ctxsIn 0 1 != []) = true := by decide +kernel
def logs (l : LogSt) (s : State := rs) : State := { s with log := l }
theorem test_port_hyps : (logs { aqPort := [(0, 0)] }).log.aqPort = [(0, 0)] ∧ (logs { jnlPort := [8] }).log.jnlPort = [8] ∧
    (logs { staged := [(8, {})] }).logOf 8 = [] ∧ (logs { trcPort := [{ cls := 1 }] }).log.trcPort = [{ cls := 1 }] := by decide +kernel
theorem test_port_order : okOut (exec .recordPortWrite (logs { staged := [(8, {}), (9, {})] })) (fun t => t.log.staged == [(9, {})] &&
    t.log.elog == [{}]) = true := by decide +kernel
def live8 : State := asPair cs
theorem test_mismatch_hyps : (let live := fun s : State => s.paired (corePair 0) && s.pf F.PJNL_PSTAT.failed 8 == 0 && !(s.core 0).held
    live live8 && !live cs && (recentMm live8.now (live8.pair 8).mm).length < 2 && !(live8.pair 8).jbad &&
      (recentMm live8.now [0, 0]).length == 2) = true := by decide +kernel
theorem test_engine_mismatch_hyps : (let s := rs.putPf F.PJNL_PSTAT.paired 1 2
    s.paired 2 && s.pf F.PJNL_PSTAT.failed 2 == 0 && !s.busy 2 && (recentMm s.now (s.pair 2).mm).length < 2) = true := by decide +kernel
theorem test_recovery_done_hyps : (let s := rs.putPf F.PJNL_PSTAT.rec 1 2
    let u := rs.putPf F.PJNL_PSTAT.rec 1 8
    s.recovering 2 && !s.busy 2 && !(s.pair 2).deferred && u.recovering 8 && (u.pair 8).replay.isEmpty && !rs.recovering 2) = true := by decide +kernel

/-! ### Memory control, coherence, logs, DMA -/

def ini : State := (rs.put F.MEM_INIT_BASE.base 0x10000).put F.MEM_INIT_CNT.cnt 1
theorem test_init_hyps : (ini.req (.core 0)).mapped = true ∧ ini.bit F.MEM_INIT_STAT.busy = false ∧ ini.initPages.1 ≠ [] ∧
    (∀ g ∈ ini.initPages.1, isSram (g * 4096) = true ∧ ini.regionOk (ini.req (.core 0)) .write (g * 4096) 4096 = true) ∧
    (ini.setb F.MEM_INIT_STAT.busy).bit F.MEM_INIT_STAT.busy = true := by decide +kernel
def scr (n : BitVec 39) : State :=
  { rs.put F.MEM_SCRUB_CTL.sram_ms 10 with ram := { valid := [(0x4000000, 7)], flips := [(0x4000000, n)] } }
theorem test_scrub_hyps : (scr 1).f F.MEM_SCRUB_CTL.sram_ms ≠ 0 ∧ (scr 1).pageClosedAt 0x10000000 = false ∧ (scr 1).nflips 0x10000000 = 1 ∧
    (scr 3).nflips 0x10000000 = 2 ∧ (scr 1).ram.valid.get 0 0x4000000 = 7 ∧ isNv 0x02000000 = true := by decide +kernel
/-- R312 and R313: a single flipped bit is corrected and recorded. -/
theorem test_scrub : okOut (exec (.scrubRead 0x10000000) (scr 1)) (fun t => t.nflips 0x10000000 == 0 && t.log.staged.length == 1) = true := by
  decide +kernel
theorem test_retire_hyps : (rs.req (.core 0)).isT0 = true ∧ (rs.rd .MEM_RETIRE 0 0).getLsbD 0 = false ∧
    ¬ (∃ k : Fin 64, k ≠ 0 ∧ rs.bit F.MEM_RETIRE.en 0 k = true ∧ rs.f F.MEM_RETIRE.page 0 k = 0x10000) := by decide +kernel
theorem test_retire_edges : takes (exec (.pageRetire (.core 0) 0 0x10000) rs) = true ∧ takes (exec (.pageRetire (.core 0) 63 0x11FFF) rs) = true ∧
    takes (exec (.pageRetire (.core 0) 0 0x0FFFF) rs) = false ∧ takes (exec (.pageRetire (.core 0) 0 0x12000) rs) = false := by decide +kernel
theorem test_closed_hyps : ({ rs with ram := { closing := [(0, 0x10000)] } } : State).ram.closing = [(0, 0x10000)] := rfl
def nv (b : Bool) (job : Nat) : State :=
  { (((rs.put F.MEM_NV_DST.dst (0x2000000 / 64)).put F.MEM_NV_SRC.src (0x10000000 / 64)).put F.MEM_NV_LEN.len 1).putb F.MEM_NV_STAT.busy b with
    ram := { nvJob := job, nvArg := (0x10000000, 0x2000000, 64), valid := (List.range 16).map fun i => (0x4000000 + i, 7) } }
theorem test_nv_hyps : ((nv false 0).req (.core 0)).isT0 = true ∧ (nv false 0).bit F.MEM_NV_STAT.busy = false ∧ (nv false 0).blkRetired 0x2000000 = false ∧
    (nv true 1).bit F.MEM_NV_STAT.busy = true ∧ isNv 0x2000000 = true ∧ (nv true 1).ram.nvProg.get false ((nv true 1).nvKey 0x2000000 / 64) = false ∧
    ∀ i, i < 16 → (nv true 1).ram.valid.get 0 (0x10000000 / 4 + i) = 7 ∧ (nv true 1).nflips (0x10000000 + 4 * i) = 0 := by decide +kernel
theorem test_nv_retired : (let s : State := { nv false 0 with ram := { nvRetired := [((nv false 0).nvKey 0x2000000 / 0x4000, true)] } }
    s.blkRetired 0x2000000) = true := by decide +kernel
/-- R322: erased lines read as ones. -/
theorem test_erase : okOut (exec (.nvCommandDone false) ((nv true 2).setWord 0x2000010 5)) (fun t => t.byte 0x2000010 == 0xFF &&
    t.byte 0x2004000 == 0xFF && !t.bit F.MEM_NV_STAT.busy) = true := by decide +kernel
theorem test_mesi_hyps : cached 0x10000000 = true ∧ rs.l1 0x400000 2 = .i ∧
    ({ rs with ram := { l1 := [(8 * 0x400000 + 2, .m)] } } : State).l1 0x400000 2 = .m := by decide +kernel
theorem test_read_miss : okOut (exec (.readMiss 1 0x10000000) { rs with ram := { l1 := [(8 * 0x400000 + 2, .m)] } })
    (fun t => t.l1 0x400000 1 == .s && t.l1 0x400000 2 == .s) = true := by decide +kernel
theorem test_pop_hyps : (rs.req (.core 0)).isT0 = true ∧ (rs.req (.core 0)).mapped = true ∧ (rs.req (.core 0)).ten = 0 ∧
    (logs { alarms := [(0, [{}])] }).aq 0 = [{}] ∧ rs.aq 0 = [] := by decide +kernel
theorem test_pop : takes (exec (.elogPop (.core 0)) (logs { elog := [{ a := 1 }, { a := 2 }] })) (fun t => t.log.elog == [{ a := 2 }]) = true := by
  decide +kernel
/-- A DMA channel set up to move 128 octets within SRAM, running where `b`. -/
def dm (b : Bool) : State :=
  { ((((rs.wr .DMA_SRC_LO 0x10000000 0 0 0).wr .DMA_DST_LO 0x10001000 0 0 0).put F.DMA_LEN.len 32 0 0).putb F.DMA_STAT.busy b 0 0) with
    dma := if b then [(0, { src := 0x10000000, dst := 0x10001000, left := 128 })] else [] }
theorem test_dma_start_hyps : ((dm false).req (.core 0)).admits ((dm false).owner (.dma 0)) = true ∧ (dm false).bit F.DMA_STAT.busy 0 0 = false ∧
    (dm false).bit F.DMA_STAT.halted 0 0 = false ∧ (dm true).bit F.DMA_STAT.busy 0 0 = true ∧ (dm false).f F.DMA_CTL.trig 0 0 ≠ 1 ∧
    ((dm false).put F.DMA_CTL.trig 1 0 0).f F.DMA_CTL.trig 0 0 = 1 ∧ ((dm false).req (.slot 0)).admits ((dm false).owner (.dma 0)) = true := by
  decide +kernel
theorem test_dma_burst_hyps : (dm true).localAddr 0x10000000 = true ∧ (dm true).localAddr 0x10001000 = true ∧
    (List.range 64).all (fun i => i % 4 != 0 || ((dm true).regionOk ((dm true).req (.dma 0)) .read (0x10000000 + i) 4 &&
      (dm true).regionOk ((dm true).req (.dma 0)) .write (0x10001000 + i) 4 && !(dm true).pageClosedAt (0x10000000 + i) &&
      (dm true).nflips (0x10000000 + i) == 0 && (dm true).ram.valid.get 0 ((0x10000000 + i) / 4) == 0)) = true ∧
    4 ≤ (dm true).burstLen 0 := by decide +kernel
theorem test_dma_burst : takes (exec (.dmaBurst 0) ((dm true).setWord 0x10000004 0x77)) (fun t => t.word 0x10001004 == 0x77 &&
    (t.dma.get {} 0).left == 64) = true := by decide +kernel
theorem test_dma_refused : ((dm true).wr .MEM_RGN_ATTR 0 0 12 0).regionOk (((dm true).wr .MEM_RGN_ATTR 0 0 12 0).req (.dma 0)) .read
    (unalias 0x10000000) 4 = false ∧ isMem 0x10000000 = true := by decide +kernel
/-- The same with its source on node 2, which lane 0, UP or not, leads to. -/
def far (up : Bool) : State := ((({ dm true with dma := [(0, { src := 2 * 2 ^ 44, dst := 0x10001000, left := 128 })] } : State).setb
  F.FAB_ROUTE.pen 0 2).put F.FAB_LSTAT.state (if up then 4 else 0) 0 0)
theorem test_dma_far : (far false).localAddr (2 * 2 ^ 44) = false ∧ (far false).laneTo 2 = none ∧ (far true).laneTo 2 = some 0 := by decide +kernel

/-! ### Leash channels, interrupts, mailboxes, tenants -/

/-- Channel 0 enabled, with one event in flight, to the flag (0) or to an interrupt of core 0 (1). -/
def lsh (ck : Nat) : State :=
  { (((rs.setb F.PWR_D2D_STATUS.fld_up).put F.PLSH_ATTR.en 1 0 0).put F.PLSH_CONS.ckind ck 0 0) with lsh := { flight := [(0, [{ data := 9, tag := 3 }])] } }
theorem test_leash_hyps : (rs.req (.core 0)).mapped = true ∧ (rs.req (.core 0)).admits (rs.lshOwner 0) = true ∧ rs.lf F.PLSH_PROD.pkind 0 = 0 ∧
    rs.lf F.PLSH_ATTR.en 0 = 0 ∧ (lsh 0).lf F.PLSH_ATTR.en 0 ≠ 0 ∧ (rs.req (.fabric 1 3 false)).admits (rs.lshOwner 0) = false := by decide +kernel
theorem test_delivery_hyps : (lsh 0).pwr.mode ≠ 3 ∧ (lsh 0).coreProducer 0 = true ∧ (lsh 0).fieldUp = true ∧ (lsh 0).unreachable 0 = false ∧
    (lsh 1).lf F.PLSH_CONS.ckind 0 = 1 ∧ rs.lsh.flight.get [] 0 = [] := by decide +kernel
/-- Core 0 is held, and so is the event of a channel to its interrupt. -/
theorem test_delivery_held : (lsh 1).unreachable 0 = true ∧ (lsh 1).lsh.held.get [] 0 = [] := by decide +kernel
/-- R338: the flag is set and the data and tag are those of the event. -/
theorem test_delivery : takes (exec (.leashEventDelivery 0) (lsh 0)) (fun t => t.ringBit .PLSH_FLAG 0 && t.lf F.PLSH_LAST.data 0 == 9) = true := by
  decide +kernel
theorem test_interrupt_hyps : (cs.cur 0).status.getLsbD 1 = false ∧ (usr.cur 0).status.getLsbD 1 = true ∧ cs.ctxsIn 0 3 = [] ∧
    (rs.req (.core 0)).ten = 0 ∧ (rs.rd .INT_DBT 0).getLsbD 0 = false ∧ ((rs.wr .INT_DBT 1 0 0 0).rd .INT_DBT 0).getLsbD 0 = true := by decide +kernel
theorem test_doorbell : takes (exec (.doorbell 0 0x3FF) cs) (fun t => t.pends 0 1023 && !t.pends 0 1022) = true := by decide +kernel
/-- Channel 3 of core 0 admits core 0. -/
def mbx : State := (cs.setb F.MBX_RX_CFG.en 0 3).put F.MBX_RX_CFG.sender (cs.req (.core 0)).mno 0 3
theorem test_mailbox_hyps : (let q := mbx.req (.core 0)
    q.mapped && mbx.bit F.MBX_RX_CFG.en 0 3 && mbx.f F.MBX_RX_CFG.sender 0 3 == q.mno && mbx.f F.MBX_RX_CFG.owner 0 3 == q.ten &&
      (!mbx.bit F.MBX_RX_CFG.sec 0 3 || q.sec) && !(mbx.core 0).held && !mbx.nbit .MBX_RX_FULL 3 0 && (rs.core 0).held) = true := by decide +kernel
/-- R351: a length code of 0 counts as 1 word. -/
theorem test_mailbox : takes (exec (.mailboxSend (.core 0) 0 3 0x20) mbx) (fun t => t.rd .MBX_RX 0 3 == 0x21 && t.nbit .MBX_RX_FULL 3 0) = true := by
  decide +kernel
theorem test_mailbox_rejected : okOut (exec (.mailboxSend (.core 0) 0 3 0x20) (mbx.putNbit .MBX_RX_FULL 3 true 0))
    (fun t => t.resp.err && t.bit F.MBX_TX_STAT.rej 0 0 3) = true := by decide +kernel
def ten3 (busy : Nat) : State := (rs.setb F.TEN_CFG.en 0 3).put F.TEN_RST_STAT.busy busy
theorem test_tenant_hyps : (ten3 0).tenEn 3 = true ∧ ((ten3 0).req (.core 0)).ten = 0 ∧ ((ten3 0).f F.TEN_RST_STAT.busy).testBit 3 = false ∧
    ((ten3 8).f F.TEN_RST_STAT.busy).testBit 3 = true ∧ (ten3 0).tenEn 0 = true := by decide +kernel
set_option maxRecDepth 20000 in
theorem test_tenant_reset : takes (exec (.tenantReset (.core 0) 3) (ten3 0)) (fun t => (t.f F.TEN_RST_STAT.busy).testBit 3) = true ∧
    takes (exec (.tenantReset (.core 0) 0) (ten3 0)) = false := by decide +kernel

/-! ### Register accesses -/

/-- A requester whose tenant is not mapped. -/
def remote : Master := .fabric 1 5 false
theorem test_mapping : (rs.req (.core 0)).mapped = true ∧ (rs.req (.core 0)).isT0 = true ∧ (rs.req remote).mapped = false := by decide +kernel
theorem test_register_hyps : regSpace 0x50FFFFFC = true ∧ isSec 0x50FFFFFC = false ∧ regAt 0x50FFFFFC = none := by decide +kernel
/-- Every register named in the statements about plain accesses and pairs has an address that decodes to it. -/
theorem test_register_addresses : ([.TRC_CTL, .SJNL_PFILL, .JNL_SLOG_STAT, .DMA_CTL, .DMA_NEXT, .TIME_NOW_LO, .IMG_SWAP_AT_LO, .IMG_SWAP_AT_HI,
    .DMA_SRC_LO, .DMA_SRC_HI, .ADC_RES, .SDM_RES, .RSV_SMP] : List RegName).all (fun r =>
      (regAt (RegAt.addr { r := r, p := 0, i := 0, j := 0 })).map RegAt.r == some r) = true := by decide +kernel
theorem test_dma_write : takes (exec (.registerWrite (.core 0) (BitVec.ofNat 32 (RegAt.addr { r := .DMA_NEXT, p := 0, i := 3, j := 0 })) 0x10000040) rs)
    (fun t => t.rd .DMA_NEXT 0 3 == 0x10000040) = true := by decide +kernel
theorem test_unmapped_write : okOut (exec (.registerWrite remote 0x40000000 1) rs) (fun t => t.resp.err) = true := by decide +kernel
/-- R47: the high word is written with the low word. -/
theorem test_pair_write : (match exec (.writeLatchHi (.core 0) (BitVec.ofNat 32 (RegAt.addr { r := .DMA_SRC_HI, p := 0, i := 0, j := 0 })) 7) rs with
    | .next t => takes (exec (.loWriteCommit (.core 0) (BitVec.ofNat 32 (RegAt.addr { r := .DMA_SRC_LO, p := 0, i := 0, j := 0 })) 0x40) t)
        (fun u => t.rd .DMA_SRC_HI == 0 && u.pairAt .DMA_SRC_LO .DMA_SRC_HI == 0x700000040)
    | _ => false) = true := by decide +kernel
theorem test_result_hyps : (match regAt (RegAt.addr { r := .ADC_RES, p := 0, i := 3, j := 0 }) with
    | some x => (rs.guard (rs.req (.core 0)) x).rd && !rs.negSide x.p x.i && (rs.setb F.ADC_ROUTE.diff 0 2).negSide x.p x.i
    | none => false) = true := by decide +kernel
theorem test_uncached_hyps : 8 ≤ (rs.req (.dma 0)).mno ∧ (rs.req (.dma 0)).mapped = true ∧ isSram 0x10000000 = true ∧
    rs.pageClosedAt 0x10000000 = false ∧ rs.regionOk (rs.req (.dma 0)) .write 0x10000000 4 = true ∧
    rs.regionOk (rs.req (.dma 0)) .read 0x10000000 4 = true ∧ rs.nflips 0x10000000 = 0 ∧ rs.ram.valid.get 0 0x4000000 = 0 ∧
    rs.regionOk (rs.req (.dma 1)) .write 0x10000000 4 = false := by decide +kernel

/-! ### Boundaries, the timebase, slots, die links -/

/-- The field clock is present in every pack, and set 0 of pack 0 counts. -/
def fl : State := ((List.range 4).foldl (fun s p => s.setb F.PWM_STATUS.clk_ok p) rs).setb F.PWM_SET_STAT.cnt_run 0 0
theorem test_boundary_hyps : fl.bit F.PWM_SET_STAT.cnt_run 0 0 = true ∧ fl.bit F.PWM_STATUS.clk_ok 0 = true ∧ (fl.pset 0 0).restart = false ∧
    fl.axisOfSet 0 0 = none ∧ fl.bit F.PWM_SET_CTL.ldsync 0 0 = false ∧ fl.swapSt ≠ 3 ∧
    (fl.put F.PWM_SET_CTL.legs 1 0 1).f F.PWM_SET_CTL.legs 0 1 ≠ 0 ∧ fl.bit F.PWM_SET_STAT.cnt_run 0 1 = false ∧ fl.pwr.mode = 1 ∧
    fl.pwr.past = false ∧ State.reset.pwr.mode ≠ 1 := by decide +kernel
/-- Lane 0 is UP and followed; `st` the timebase's state. -/
def tb (st : Nat) : State := (((rs.put F.FAB_LSTAT.state 4 0 0).setb F.TIME_CTL.sync_en).put F.TIME_STATUS.state st)
theorem test_tsync_hyps : (tb 0).lnSt 0 = 4 ∧ (tb 0).bit F.TIME_CTL.sync_en = true ∧ (tb 0).f F.TIME_CTL.domain = 0 ∧
    (tb 0).f F.FAB_CTL.ts_lane = 0 ∧ (tb 0).clk.stopped = false ∧ (tb 0).timeSt = 0 ∧ (tb 1).timeSt = 1 ∧ (tb 2).timeSt = 2 ∧ (tb 3).timeSt = 3 := by
  decide +kernel
theorem test_shadow_hyps : rs.clk.stopped = false ∧ ({ rs with clk := { stopped := true } } : State).clk.stopped = true := by decide +kernel
/-- Slot 2 armed for kind `k` at the present tag and address `a`. -/
def slot (k a : Nat) : State := (((rs.setb F.TIME_ACT_CTL.arm 0 2).put F.TIME_ACT_CTL.kind k 0 2).wr .TIME_ACT_ADDR (BitVec.ofNat 32 a) 0 2 0)
theorem test_slot_arm_hyps : (rs.req (.core 0)).admits (rs.owner (.slot 2)) = true ∧ rs.slotArmed 2 = false ∧ Tag.before (rs.slotTgt 2) rs.now = false ∧
    Tag.before (rs.slotTgt 2) ({ rs with clk := { tag := 5 } } : State).now = true ∧ (slot 1 0).slotArmed 2 = true ∧
    (slot 1 0).f F.TIME_ACT_CTL.kind 0 2 = 1 ∧ (slot 1 0).slotReached 2 = true ∧ ((slot 1 0).wr .TIME_ACT_TGT_LO 9 0 2 0).slotReached 2 = false := by
  decide +kernel
theorem test_slot_fire_hyps : (slot 0 0).clk.stopped = false ∧ ((slot 0 0).put F.PLSH_PROD.pkind 4 0 0).lf F.PLSH_PROD.pkind 0 = 4 ∧
    ((slot 0 0).put F.PLSH_PROD.pidx 2 0 0).lf F.PLSH_PROD.pidx 0 = 2 ∧ (slot 0 0).lf F.PLSH_PROD.pkind 0 ≠ 4 ∧
    ((slot 2 0).req (.slot 2)).admits ((slot 2 0).owner (.dma 0)) = true ∧
    ({ slot 2 0 with own := [(Res.key (.dma 0), { ten := 1 })] } : State).owner (.dma 0) = { ten := 1 } := by decide +kernel
theorem test_slot_refusal : takes (exec (.slotFire 2) (slot 0 0)) (fun t => t.clk.slotRefs == [2] && t.bit F.TIME_ACT_STAT.fired 0 2) = true := by
  decide +kernel
theorem test_die_link_hyps : (rs.setb F.PWR_D2D_STATUS.fld_up).bit F.PWR_D2D_STATUS.fld_up = true ∧ rs.bit F.PWR_D2D_STATUS.fld_up = false ∧
    rs.bit F.PWR_D2D_STATUS.mem_up = false ∧ rs.bit F.PWR_D2D_STATUS.fld_fail = false ∧ rs.pwr.mode = 1 ∧ rs.pwr.retry.get 0 0 < 3 := by decide +kernel
theorem test_field_loss : takes (exec .fieldLinkLoss (fl.setb F.PWR_D2D_STATUS.fld_up)) (fun t => !t.bit F.PWM_STATUS.clk_ok 0 &&
    t.f F.PWR_D2D_STATUS.fld_loss == 1) = true := by decide +kernel

/-! ### Acquisition and position feedback -/

/-- Resolver channel 0 runs on sample-and-holds 0 and 2. -/
def rv : State := ((fl.setb F.RSV_STAT.run 0 0).put F.RSV_CTL.sh_sin 0 0 0).put F.RSV_CTL.sh_cos 2 0 0
/-- Entry 0 of pack 0 is enabled and due; sample-and-hold 0 is in state `st` with an input's sample. -/
def aq (st : Nat) (k : Hold := {}) (s : State := fl) : State :=
  ((s.setb F.ADC_ENT_CTL.en 0 0).put F.ADC_ENT_CTL.src 0 0 0).updAcq 0 fun q =>
    { q with ent := [(0, 1)], hold := if st = 0 then [] else [(0, { k with st := st, auto := true, recon := true, smp := { n := 2, gain := 1, due := 1000 } })] }
/-- Held by entry 1 in the present tick. -/
def aq1 : State := aq 2 { ent := 1 }
theorem test_hold_hyps : (aq 0).bit F.PWM_STATUS.clk_ok 0 = true ∧ (aq 0).holdDue 0 0 = some 0 ∧ fl.holdDue 0 0 = none ∧
    (({ aq 0 with clk := { raw := 5 } } : State).holdDue 0 0 == some 0) = true ∧
    (aq 0).shBusy 0 0 = false ∧ (aq 0).shRsv 0 0 = false ∧ (aq 2).shBusy 0 0 = true ∧ (let r := aq 0 {} (rv.setb F.RSV_CTL.en 0 0)
      r.shRsv 0 0 && r.holdDue 0 0 == some 0) = true ∧
    (aq1.sh 0 0).st ≠ 0 ∧ (aq1.sh 0 0).rsv = none ∧ (aq1.sh 0 0).heldAt = aq1.clk.raw ∧ (aq1.sh 0 0).ent = 1 ∧ (aq1.holdDue 0 0) = some 0 := by decide +kernel
theorem test_hold : takes (exec (.sampleHold 0 0) (aq 0)) (fun t => (t.sh 0 0).st == 2) = true ∧
    takes (exec (.sampleHold 0 0) (aq 2 { heldAt := 9 })) (fun t => t.f F.ADC_CNT.miss_cnt 0 == 1 && t.nbit .ADC_EVT_1 0 0) = true ∧
    takes (exec (.sampleHold 0 0) aq1) (fun t => t.nbit .ADC_EVT_1 1 0 && (t.sh 0 0).ent == 0) = true := by decide +kernel
theorem test_conversion_hyps : (aq 2).sarAt 0 0 2 = some 0 ∧ (aq 3).sarAt 0 0 3 = some 0 ∧ (aq 0).sarAt 0 0 2 = none ∧ ((aq 2).sh 0 0).rsv = none ∧
    endOfScale false 0x1000 = false ∧ endOfScale false 0xFFFF = true ∧ ((aq 2).run 167).reconOk 0 0 = true ∧
    ((aq 2).run 800).reconOk 0 0 = false ∧ (aq 2).pwr.past = false ∧ (aq 2).pwr.mode = 1 := by decide +kernel
/-- R75: a code at the end of the scale is converted again with the next lower gain. -/
theorem test_conversion : takes (exec (.conversionEnd 0 0 0xFFFF) (aq 2)) (fun t => (t.sh 0 0).st == 3 && (t.sh 0 0).smp.gain == 0) = true := by
  decide +kernel
theorem test_router_hyps : (((aq 0).updAcq 0 fun q => { q with out := [{ kind := 0, n := 15, flags := 7 }] }).acq 0).out = [{ kind := 0, n := 15, flags := 7 }] ∧
    (((aq 0).updAcq 0 fun q => { q with out := [{ kind := 1, n := 7 }] }).acq 0).out = [{ kind := 1, n := 7 }] ∧ ((aq 0).acq 0).out = [] := by decide +kernel
theorem test_selfcal_hyps : (fl.req (.core 0)).admits (fl.owner (.pack 0)) = true ∧ fl.bit F.ADC_STATUS.cal_busy 0 = false ∧
    fl.bit F.CMP_GSTAT.rdbk_busy 0 = false ∧ (List.range 6).all (fun a => fl.axSt 0 a < 2) = true ∧
    (fl.put F.LE_AX_STAT.state 2 0 5).axSt 0 5 = 2 := by decide +kernel
/-- Channel 0 enabled as a first-order decimator of 4 bits. -/
def sd : State := (((fl.setb F.SDM_CH.en 0 0).put F.SDM_FLT.order 1 0 0).put F.SDM_FLT.osr 4 0 0)
/-- A synchronised channel that runs on its clock. -/
def sdSync : State := (sd.setb F.SDM_CH.sync 0 0).setSdmc 0 0 { clk := true }
theorem test_sdm_sync_hyps : (sdSync.sdmc 0 0).clk = true ∧ sdSync.bit F.SDM_CH.sync 0 0 = true ∧
    (sdSync.run (sdSync.sdmWindow 0 0 - sdSync.clk.raw)).f F.SDM_FLT.osr 0 0 = 4 ∧
    takes (exec (.decimatorOutput 0 0 [true, true, false, true]) sdSync) = true ∧ (sd.setb F.SDM_STAT.stuck 0 0).pwr.past = false := by decide +kernel
theorem test_sdm_hyps : (fl.req (.core 0)).admits (fl.boundOwner 0 (fl.f F.SDM_CH.axis 0 0)) = true ∧ fl.axLk 0 0 = false ∧
    sd.bit F.SDM_CH.en 0 0 = true ∧ sd.bit F.SDM_CH.sync 0 0 = false ∧ sd.f F.SDM_FLT.osr 0 0 = 4 ∧ sd.bit F.SDM_STAT.stuck 0 0 = false ∧
    (sd.setb F.SDM_STAT.stuck 0 0).bit F.SDM_STAT.stuck 0 0 = true ∧ fl.bit F.SDM_CH.en 0 0 = false := by decide +kernel
/-- R86: three ones among four bits give 2·3 − 4 of 4. -/
theorem test_decimator : takes (exec (.decimatorOutput 0 0 [true, true, false, true]) sd) (fun t => (t.acq 0).out.map (·.raw) == [2]) = true := by
  decide +kernel
theorem test_decimator_short : (match exec (.decimatorOutput 0 0 [true, true, true]) sd with
    | .fault f => decide (f = .illFormed)
    | _ => false) = true := by decide +kernel
theorem test_fast_hyps : ((((sd.setb F.SDM_FLT.f_en 0 0).put F.SDM_FLT.f_order 1 0 0).put F.SDM_FLT.f_osr 4 0 0).f F.SDM_FLT.f_osr 0 0) = 4 := by decide +kernel
theorem test_fast_trip : (let s := (((((sd.setb F.SDM_FLT.f_en 0 0).put F.SDM_FLT.f_order 1 0 0).put F.SDM_FLT.f_osr 4 0 0).put
      F.SDM_FTHR.f_hi 0x4000 0 0).put F.SDM_FTHR.f_lo 0xC000 0 0).put F.SDM_FLT.f_cnt 0 0 0
    takes (exec (.fastPathOutput 0 0 [true, true, true, true]) s) (fun t => t.bit F.SDM_STAT.f_trip 0 0) &&
    takes (exec (.fastPathOutput 0 0 [true, true, true, false]) s) (fun t => !t.bit F.SDM_STAT.f_trip 0 0)) = true := by decide +kernel
theorem test_cal_hyps : (fl.req (.core 0)).admits (fl.ainOwner 0 15) = true ∧ fl.calLocked 0 (fl.ainAxis 0 15) = false ∧
    fl.calLocked 0 (fl.f F.SDM_CH.axis 0 7) = false ∧
    ((fl.put F.ADC_ROUTE.axis 1 0 15).put F.LE_AX_STAT.state 4 0 1).calLocked 0 (((fl.put F.ADC_ROUTE.axis 1 0 15)).ainAxis 0 15) = true := by decide +kernel
theorem test_resolver_hyps : (fl.req (.core 0)).admits (fl.boundOwner 0 (fl.f F.RSV_CTL.axis 0 0)) = true ∧
    (decide (fl.f F.RSV_CTL.axis 0 0 < 6) && fl.axLk 0 (fl.f F.RSV_CTL.axis 0 0)) = false ∧ rv.bit F.RSV_STAT.run 0 0 = true ∧
    (let u := rv.run ((rv.rsvDue 0 0 0).1)
     !u.shBusy 0 0 && !u.shBusy 0 2 && u.f F.RSV_CTL.sh_sin 0 0 == 0 && u.f F.RSV_CTL.sh_cos 0 0 == 2 && (u.setSh 0 2 { st := 2 }).shBusy 0 2) = true ∧
    (rv.setSh 0 2 { st := 2 }).bit F.PWM_STATUS.clk_ok 0 = true ∧ 0 < (rv.put F.RSV_EXC.exc_div 2 0 0).f F.RSV_EXC.exc_div 0 0 ∧
    (rv.rsvc 0 0).start ≤ rv.clk.raw := by decide +kernel
/-- R92: with exc_div 2, N = 128; the holds of phase 5 lie at 32 + 5 and 96 + 5, the second of opposite polarity. -/
theorem test_resolver_hold : (let s := (rv.put F.RSV_EXC.exc_div 2 0 0).put F.RSV_PH.ph 5 0 0
    takes (exec (.resolverHold 0 0 false) s) (fun t => t.clk.raw == 37 && !(t.rsvc 0 0).pol && (t.sh 0 0).rsv == some (0, true)) &&
    (s.rsvDue 0 0 38 == (101, true)) && takes (exec (.resolverHold 0 0 false) (s.setSh 0 2 { st := 2 })) fun t => t.bit F.RSV_STAT.miss 0 0) = true := by decide +kernel
theorem test_resolver_pair_hyps : (let s := (rv.setSh 0 2 { st := 2, rsv := some (0, false) }).setRsvc 0 0 { sin := some 5 }
    let u := s.run 167
    (s.sarAt 0 1 2 == some 2) && ((u.sh 0 2).rsv == some (0, false)) && (u.rsvc 0 0).sin == some 5) = true := by decide +kernel
/-- Interface 0 of pack 0 in mode `m` with its pins at `pins`, whose classes present the same. -/
def ps (m : Nat) (pins : BitVec 3) : State := (((fl.put F.POS_CFG.mode m 0 0).put F.POS_CFG.flt 5 0 0).put F.POS_HMAP.map 0o543210 0 0).updPos 0 0 fun k =>
  { k with pins := pins, hallOk := true, lvl := [(0, pins.getLsbD 0), (1, pins.getLsbD 1), (2, pins.getLsbD 2)] }
/-- The pins take these levels at tag 0. -/
def pinsTo (b : BitVec 3) : Instr :=
  let e (k : Fin 3) : Tag × Fin 3 × PinClass := (0, k, if b.getLsbD k then .high else .low)
  .positionEdge 0 0 (e 0) [e 1, e 2]
theorem test_position_hyps : (ps 2 0).f F.POS_CFG.mode 0 0 = 2 ∧ (ps 2 5).bit F.PWM_STATUS.clk_ok 0 = true ∧
    (∀ k : Fin 3, SMap.get false ((ps 2 5).pos 0 0).lvl k = ((ps 2 5).pos 0 0).pins.getLsbD k ∧ (ps 2 5).pinFrozen 0 0 k = false) ∧
    (ps 2 0).clk.raw ≤ (ps 2 0).rawOf 0 ∧ 0 < (ps 2 0).f F.POS_CFG.flt 0 0 ∧ (ps 2 0).bit F.POS_CFG.inv 0 0 = false ∧ (ps 2 0).bit F.POS_IDX.z_edge 0 0 = false ∧
    (ps 2 0).bit F.POS_IDX.z_gate 0 0 = false ∧ hallSector ((ps 1 0).f F.POS_HMAP.map 0 0) 2 = some 1 ∧ hallSector 0 7 = none ∧
    (ps 1 1).f F.POS_SECT.sector 0 0 < 6 ∧ ((ps 1 1).pos 0 0).hallOk = true ∧ (ps 2 0).pwr.mode ≠ 3 := by decide +kernel
/-- R102: in quadrature A before B counts up; R97: the level held for flt ticks is accepted. -/
theorem test_quadrature : takes (exec (pinsTo 1) (ps 2 0)) (fun t => t.rd .POS_CNT 0 0 == 1 && t.clk.raw == (ps 2 0).f F.POS_CFG.flt 0 0) = true ∧
    takes (exec (pinsTo 2) (ps 2 0)) (fun t => t.rd .POS_CNT 0 0 == 0xFFFFFFFF) = true ∧
    takes (exec (pinsTo 3) (ps 2 0)) (fun t => t.bit F.POS_STAT.quad_err 0 0) = true ∧
    takes (exec (.positionEdge 0 0 (0, 0, .high) [(0, 0, .low)]) (ps 2 0)) (fun t => t.rd .POS_CNT 0 0 == 0) = true := by decide +kernel
theorem test_position_command_hyps : (fl.req (.core 0)).admits (fl.posOwner 0 0) = true ∧
    (decide (fl.f F.POS_CFG.axis 0 0 < 6) && fl.axLk 0 (fl.f F.POS_CFG.axis 0 0)) = false ∧ F.POS_CFG.mode.get 3 = 3 ∧
    F.POS_CFG.mode.get 5 = 5 ∧ ((fl.updPos 0 0 fun k => { k with last := some 2 }).pos 0 0).last = some 2 ∧ (fl.pos 0 0).last = none := by decide +kernel
def lat : State := fl.updPos 0 0 fun k => { k with lq := [{ raw := 3, tag := 48 }] }
theorem test_latch_hyps : (fl.pos 0 0).lq = [] ∧ (lat.pos 0 0).lq = [{ raw := 3, tag := 48 }] ∧
    ((lat.run (3 + lat.f F.POS_CFG.flt 0 0 + 4)).pos 0 0).lq = [{ raw := 3, tag := 48 }] ∧ takes (exec (.positionLatch 0 0) lat) = true := by decide +kernel
def cnd (b : Bool) (live : Nat) : State := (fl.updPos 0 0 fun k => { k with cond := if b then [(0, (true, 0))] else [] }).put F.POS_DSTAT.live live 0 0
theorem test_diagnostic_hyps : (cnd true 0).cond 0 0 0 0 = (true, 0) ∧ ((cnd true 0).f F.POS_DSTAT.live 0 0).testBit 0 = false ∧
    (cnd false 1).cond 0 0 0 0 = (false, 0) ∧ ((cnd false 1).f F.POS_DSTAT.live 0 0).testBit 0 = true ∧ fl.pwr.mode ≠ 3 := by decide +kernel
/-- R119: the dwell ends before the condition is flagged. -/
theorem test_diagnostic : takes (exec (.pinDiagnostic 0 0 0 .open_) (cnd true 0)) (fun t => t.clk.raw == 1000 * fl.f F.POS_DIAG.dwell 0 0 &&
    t.nbit .POS_DSTAT 0 0 0) = true := by decide +kernel
def sup (on : Bool) (k : Nat) (s : State := rs) : State := (((s.setb F.PWR_SENS_CTL.en 0 7).setb F.PWR_SENS_CTL.auto_retry 0 7).putb F.PWR_SENS_STAT.on on 0 7).setSens 7 (k, 0)
theorem test_supply_hyps : (rs.req (.core 0)).admits (rs.owner (.sens 7)) = true ∧ rs.bit F.PWR_SENS_CTL.en 0 7 = false ∧
    (sup true 1).bit F.PWR_SENS_STAT.on 0 7 = true ∧ ((sup true 1).sens 7).1 = 1 ∧ ((sup true 0).sens 7).1 ≠ 1 ∧ ((sup false 2).sens 7).1 = 2 ∧
    (sup false 2).bit F.PWR_SENS_CTL.auto_retry 0 7 = true ∧ rs.sensPower = true ∧ (rs.updPwr fun k => { k with mode := 2 }).sensPower = false := by decide +kernel
def em (n : Int) : State := fl.updEmu 0 fun k => { k with todo := n }
theorem test_emulator_hyps : fl.f F.POS_EMU_POS.state 0 < 4 * (fl.f F.POS_EMU_CFG.lines_m1 0 + 1) ∧ ((em 1).emu 0).todo = 1 ∧ ((em (-1)).emu 0).todo = -1 ∧
    (((em 1).run (((em 1).emu 0).next - 0)).emu 0).todo = 1 := by decide +kernel

/-! ### Loop engine -/

/-- A run of axis 0 of pack 0 executes, within its limit of 100 steps. -/
def en : State := ((fl.setb F.LE_STATUS.busy 0).put F.LE_STATUS.cur 0 0).put F.LE_AX_STEPS.steps 100 0 0
/-- With word `w` of program memory at the engine's position. -/
def op (w : Word) (s : State := en) : State := s.wr .LE_PROGMEM w 0 0 0
/-- R127: op, d, a, b, c, imm. -/
def opw (n d a b c imm : Nat) : Word := fields [(6, n), (4, d), (4, a), (4, b), (4, c), (10, imm)]
/-- A run executes the operation, within its limits; its word and the words that it reads are sound. -/
def nexts (w : Word) (i : Option Instr) (s : State := en) : Bool :=
  (op w s).busy 0 && (op w s).leNext 0 == i && (op w s).ram.leFlips == [] && decide ((s.eng 0).steps + 10 < s.f F.LE_AX_STEPS.steps 0 (s.runAxis 0)) &&
    decide ((s.eng 0).advance.pc ≤ 4095) && s.runAxis 0 == 0
def leHyps : List (Word × Option Instr) :=
  [(opw 0 0 0 0 0 0, some (.leNop 0)), (opw 0x04 1 2 3 0 0, some (.vadd 0 1 2 3)), (opw 0x07 1 2 3 4 0, some (.vfma 0 1 2 3 4)),
   (opw 0x0F 1 2 0 0 0x1B, some (.vswz 0 1 2 0x1B)), (opw 0x12 1 0 0 0 0x3FE, some (.vli 0 1 2 0xFF)), (opw 0x13 1 2 0 0 0, some (.vrcp 0 1 2)),
   (opw 0x22 0 1 2 0 3, some (.amac 0 1 2 3)), (opw 0x2E 1 0 0 0 127, some (.lk 0 1 127)), (opw 0x2F 1 0 0 0 63, some (.lst 0 1 63)),
   (opw 0x30 0 1 0 0 63, some (.sst 0 1 63)), (opw 0x34 0 2 0 0 0x2B, some (.dout 0 2 3 5)), (opw 0x37 0 0 0 0 63, some (.evt 0 63)),
   (opw 0x28 1 0 0 0 (4 * 15 + 2), some (.lin 0 1 2 15)), (opw 0x29 1 0 0 0 (4 * 15), some (.lin4 0 1 15)),
   (opw 0x2C 1 0 0 0 (4 * 3 + 64), some (.lrs 0 1 3 1)), (opw 0x2D 1 0 0 0 (4 * 2 + 2), some (.lsp 0 1 2 2)), (opw 0x19 1 2 3 0 0, some (.crot 0 1 2 3)),
   (opw 0x1A 1 2 0 0 0, some (.cvec 0 1 2)), (opw 0x36 0 2 0 0 0, some (.eout 0 2)), (opw 0x02 0 0 0 1 2, some (.rep 0 1 2)), (opw 0x3F 0 0 0 0 0, none)]
theorem test_engine_hyps : (leHyps.all fun e => nexts e.1 e.2) = true := by decide +kernel
/-- A run idle, one at its step limit, one inside a body; another word; an axis OPEN with a coefficient, a state and a program word spoiled. -/
theorem test_engine_stops : fl.busy 0 = false ∧ nexts 0 (some (.leNop 0)) (en.updEng 0 fun k => { k with rep := some (0, 1, 1) }) = true ∧
    (op 0).leNext 0 ≠ some (.vadd 0 1 2 3) ∧ ¬ ((op 0 (en.put F.LE_AX_STEPS.steps 1 0 0)).eng 0).steps + 1 < (en.put F.LE_AX_STEPS.steps 1 0 0).f F.LE_AX_STEPS.steps 0 0 := by
  decide +kernel
def spoiled (k : Nat) : State := let s := en.put F.LE_AX_STAT.state 3 0 0; { s with ram := { s.ram with leFlips := [(k, 2)] } }
theorem test_engine_spoiled : takes (exec (.leNop 0) (spoiled (leKey 0 .LE_PROGMEM 0 0))) (fun t => t.axSt 0 0 == 5) = true ∧
    takes (exec (.lk 0 1 127) (op (opw 0x2E 1 0 0 0 127) (spoiled (leKey 0 .LE_COEF 0 127)))) (fun t => t.f F.LE_AX_STAT.fault_cause 0 0 == 5) = true ∧
    takes (exec (.lst 0 1 63) (op (opw 0x2F 1 0 0 0 63) (spoiled (leKey 0 .LE_STATE 0 255)))) (fun t => !t.busy 0) = true ∧
    (spoiled 0).axSt 0 0 = 3 ∧ (spoiled 0).runAxis 0 = 0 := by decide +kernel
/-- R126: 1.5 + 2.25 = 3.75 in lane 3. -/
theorem test_vadd : takes (exec (.vadd 0 1 2 3) (op (opw 0x04 1 2 3 0 0) (en.updEng 0 fun k => { k with v := [(11, 0x3FC00000), (15, 0x40100000)] })))
    (fun t => (t.eng 0).lane 1 3 == 0x40700000 && (t.eng 0).steps == 2) = true := by decide +kernel
theorem test_rep : takes (exec (.rep 0 1 2) (op (opw 0x02 0 0 0 1 2))) (fun t => (t.eng 0).rep == some (1, 2, 3)) = true ∧
    takes (exec (.rep 0 1 2) (op (opw 0x02 0 0 0 1 2) (en.updEng 0 fun k => { k with rep := some (0, 1, 1) }))) (fun t => !t.busy 0) = true := by decide +kernel
/-- R126: the immediate of vli is signed. -/
theorem test_vli : takes (exec (.vli 0 1 2 0xFF) (op (opw 0x12 1 0 0 0 0x3FE))) (fun t => (t.eng 0).lane 1 2 == 0xBF800000) = true := by decide +kernel
theorem test_engine_fifo : (let s := en.updAx 0 0 fun k => { k with slots := [(3, { fifo := [(1, 2, 3)] })] }
    (SMap.get {} (s.ax 0 0).slots 3).fifo[0]? == some (1, 2, 3) && (SMap.get {} (s.ax 0 0).slots 3).fifo[1]? == none) = true := by decide +kernel
/-- Axis 0 is OPEN, and its run is ready, in a period of 10,000 ticks. -/
def rdy : State := ((((fl.put F.LE_AX_STAT.state 3 0 0).put F.LE_AX_STEPS.steps 100 0 0).updSet 0 0 fun k => { k with car := 10000, ncar := 1 }).updAx 0 0 fun k =>
  { k with ready := some 0 }) |> fun s => { s with axSet := [(0, some 0)] }
def rdy0 : State := rdy.updAx 0 0 fun k => { k with ready := none }
theorem test_run_hyps : rdy.busy 0 = false ∧ rdy.axRuns 0 0 = true ∧ (rdy.ax 0 0).ready = some 0 ∧ (List.range 6).all (fun b => b == 0 || !rdy.axRuns 0 b) = true ∧
    ((rdy.ax 0 0).lim || decide ((rdy.ax 0 0).bkRaw + rdy.axTicks 0 0 - 62 < rdy.clk.raw)) = false ∧
    8 < rdy.f F.LE_AX_STEPS.steps 0 0 ∧ ((List.range 16).any fun i => (rdy.policy 0 0 i).2.1) = false ∧
    (rdy0.ax 0 0).ran = false ∧ (rdy0.ax 0 0).ready = none := by decide +kernel
theorem test_run_start : takes (exec (.runStart 0) rdy) (fun t => t.busy 0 && (t.eng 0).steps == 8) = true ∧
    takes (exec (.runReadyDeadline 0 0) rdy0) (fun t => (t.ax 0 0).ready.isSome) = true := by decide +kernel
/-- Slot 0 of the axis is required and absent, which counts as a fault. -/
def rdyBad : State := ((rdy.put F.LE_AX_IN.inmask 1 0 0).setb F.LE_INPOL.absent_flt 0 0 0).put F.LE_AX_POL.flt_n 1 0 0
theorem test_run_fault : ((List.range 16).any fun i => (rdyBad.policy 0 0 i).2.1) = true ∧ (rdyBad.ax 0 0).fltRuns = 0 ∧ rdyBad.f F.LE_AX_POL.flt_n 0 0 = 1 ∧
    takes (exec (.runStart 0) rdyBad) (fun t => t.bit F.LE_AX_STAT.in_flt 0 0) = true := by decide +kernel
def endw : Word := opw 0x01 0 0 0 0 0
/-- A run of axis 0 at its `end`: before its release limit, and past it. -/
def rund (raw : Nat) : State := op endw (((({ rdy with clk := { raw := raw } } : State).setb F.LE_STATUS.busy 0).put F.LE_STATUS.cur 0 0).updAx 0 0 fun k => { k with ran := true })
theorem test_release_hyps : nexts endw (some (.leEnd 0)) = true ∧ nexts endw (some (.leEnd 0)) (rund 0) = true ∧ (rund 0).axRuns 0 0 = true ∧
    ((rund 9999).ax 0 0).lim = false ∧ ((rund 9999).ax 0 0).done = false ∧ ((rund 9999).ax 0 0).bkRaw + (rund 9999).axTicks 0 0 - 62 < (rund 9999).clk.raw ∧
    (rund 9999).leNext 0 = some (.leEnd 0) ∧ (en.eng 0).rep = none ∧ SMap.wf (fun _ => none) (en.eng 0).mout = true ∧
    SMap.wf (fun _ => none) (en.eng 0).st = true ∧ SMap.wf (fun _ => none) (en.eng 0).duty = true ∧ rs.axRuns 0 0 = false := by decide +kernel
theorem test_release_mout : takes (exec (.leEnd 0) (op endw (en.updEng 0 fun k => { k with mout := [(7, some 5)] }))) (fun t => t.rd .LE_MOUT 0 0 7 == 5 && !t.busy 0) = true ∧
    takes (exec (.leEnd 0) (rund 9999)) (fun t => t.bit F.LE_AX_STAT.late 0 0 && !t.busy 0) = true := by decide +kernel
theorem test_release_limit : takes (exec (.releaseLimit 0 0) rdy) (fun t => t.f F.LE_AX_STAT.late_cause 0 0 == 2 && t.clk.raw == 9938) = true := by decide +kernel
/-- Axis 0 of pack 0 in state `st`, bound to set 0 of a base's period. -/
def ax (st : Nat) : State := { (fl.put F.LE_AX_STAT.state st 0 0).put F.LE_AX_STEPS.steps 100 0 0 with axSet := [(0, some 0)] }
theorem test_axis_hyps : ((ax 1).req (.core 0)).admits ((ax 1).axOwner 0 0) = true ∧ ((ax 1).armBad 0 0) = false ∧ (fl.armBad 0 0) = true ∧
    ((ax 5).bit F.MUZ_SET_STAT.tripped 0 0) = false ∧ (ax 3).loopLocked 0 0 = false ∧ (ax 4).loopLocked 0 0 = true ∧
    (List.range 7).all (fun st => (ax st).axSt 0 0 == st) = true := by decide +kernel
/-- R142: ARM is accepted in IDLE and SHUTDOWN and leaves SAFE only when the axis is not tripped; OPEN needs ARMED or CLOSED. -/
theorem test_axis : takes (exec (.arm (.core 0) 0 0) (ax 1)) (fun t => t.f F.LE_AX_STAT.pend 0 0 == 1) = true ∧
    takes (exec (.arm (.core 0) 0 0) (ax 3)) = false ∧ takes (exec (.axisOpen (.core 0) 0 0) (ax 2)) = true ∧
    takes (exec (.axisOpen (.core 0) 0 0) (ax 3)) = false ∧ takes (exec (.axisClose (.core 0) 0 0) (ax 3)) = true := by decide +kernel

/-! ### Pulse-width modulation -/

/-- Leg 0 belongs to set 0, unbound, which counts; `m` its mode, and the leg is enabled. -/
def pw (m : Nat) (s : State := fl) : State := (((s.put F.PWM_SET_CTL.legs 1 0 0).put F.PWM_SET_CTL.mode m 0 0).setb F.PWM_SET_RUN.en 0 0).setb F.PWM_LEGSTAT.en 0 0
def duty (w : Nat) : State := (pw 0).updLeg 0 0 fun k => { k with tW := w }
theorem test_generator_hyps : (pw 0).setOfLeg 0 0 = some 0 ∧ (pw 0).bit F.PWM_SET_STAT.cnt_run 0 0 = true ∧ ((pw 0).pset 0 0).restart = false ∧
    (pw 0).bit F.PWM_STATUS.clk_ok 0 = true ∧ (pw 0).setOfLeg 0 1 = none ∧ (pw 0).legLevel 0 0 = 6 := by decide +kernel
/-- R163: the next carrier starts in the present tick; an edge and a blanking timer have their instants. -/
theorem test_carrier_hyps : ((pw 0).nextCarrier 0 0 0).isSome = true ∧ takes (exec (.carrierStart 0 0) (duty 400000)) (fun t => (t.pleg 0 0).edges) = true ∧
    (let s := (pw 3).updLeg 0 0 fun k => { k with blank := true, blankTo := 40, edges := true, genH := true }
    let u := s.run 40
    (u.pleg 0 0).blank && !u.pcmHit 0 0 && ((u.setb F.CMP_STAT.out_u 0 0).setb F.PWM_LEGSTAT.out_h 0 0).pcmHit 0 0) = true ∧
    (let s := (pw 0).updLeg 0 0 fun k => { k with pendOn := some true, genH := true }
    let u := s.run (s.deadDue 0 0 true)
    u.asks 0 0 true && !u.asks 0 0 false && !u.out 0 0 true && !u.out 0 0 false && decide (u.deadDue 0 0 true ≤ u.clk.raw) && !u.tripNow 0 0) = true := by
  decide +kernel
/-- The five cases of a carrier's pulse (R163, R166): none, too short, in between, too long, all of it. -/
theorem test_pulse_hyps : (let w (v : Nat) := ((duty v).pleg 0 0).highTime 0
    let c16 := 16 * ((pw 0).pset 0 0).car
    let dr := 16 * (pw 0).f F.PWM_LEGCTL.dt_rise 0 0
    let df := 16 * (pw 0).f F.PWM_LEGCTL.dt_fall 0 0
    let m := max (16 * (pw 0).f F.PWM_LEGMIN.min_pulse 0 0) 1
    w 0 == 0 && (0 < w 1 && w 1 < dr + m) && (dr + m ≤ w 400000 && w 400000 + df + m ≤ c16) &&
      (dr + m ≤ w 799999 && c16 < w 799999 + df + m && w 799999 < c16) && c16 ≤ w 800000) = true := by decide +kernel
theorem test_edge_hyps : (((pw 0).updLeg 0 0 fun k => { k with edges := true, genH := true }).pleg 0 0).edges = true ∧
    (pw 3).f F.PWM_SET_CTL.mode 0 0 = 3 ∧ (((pw 0).updLeg 0 0 fun k => { k with pendOn := some true, genH := true }).pleg 0 0).pendOn = some true := by decide +kernel
/-- R167: the next carrier's high edge comes before the spanning low pulse could turn on. -/
theorem test_short_span : takes (exec (.carrierStart 0 0) ((pw 2).updLeg 0 0 fun k => { k with tR := 5, tF := 400000, span := some 0 }))
    (fun t => t.bit F.PWM_LEGSTAT.short 0 0 && t.bit F.PWM_SET_STAT.short 0 0 && (t.pleg 0 0).span == none) = true := by decide +kernel
theorem test_dead_time_hyps : (let s := (pw 0).updLeg 0 0 fun k => { k with pendOn := some true, genH := true }
    s.asks 0 0 true && !s.out 0 0 false && !s.asks 0 0 false) = true := by decide +kernel
/-- R165: an output waits for the dead time, and goes on at its end. -/
theorem test_dead_time : takes (exec (.deadTimeExpiry 0 0) ((pw 0).updLeg 0 0 fun k => { k with pendOn := some true, genH := true }))
    (fun t => t.out 0 0 true && !t.out 0 0 false) = true := by decide +kernel
theorem test_blanking_hyps : (let s := ((pw 3).setb F.CMP_STAT.out_u 0 0).updLeg 0 0 fun k => { k with blank := true, edges := true, genH := true }
    let u := s.put F.PWM_LEGPCM.cmp 0 0 0
    (u.pleg 0 0).blank && !((pw 3).pleg 0 0).blank && u.bit F.PWM_LEGSTAT.en 0 0 && u.bit F.CMP_STAT.out_u 0 (u.f F.PWM_LEGPCM.cmp 0 0)) = true := by decide +kernel
theorem test_set_hyps : ((pw 0).req (.core 0)).admits ((pw 0).pwmSetOwner 0 0) = true ∧ ({ pw 0 with clk := { raw := 49969 } } : State).afterCutoff 0 0 = true ∧
    ({ pw 0 with clk := { raw := 49968 } } : State).afterCutoff 0 0 = false ∧
    (pw 0).axisOfSet 0 0 = none ∧ (pw 0).tooTight 0 0 = false ∧ (pw 0).bit F.PWM_SET_STAT.seq 0 0 = false ∧ ((pw 0).pleg 0 0).seqOwn = false ∧
    (pw 0).setAxSt 0 0 ≠ some 4 ∧ (ax 4).setAxSt 0 0 = some 4 ∧ (ax 4).img.ctlr = false := by decide +kernel
theorem test_set_disable : takes (exec (.setDisable (.core 0) 0 0) (pw 0)) (fun t => t.bit F.PWM_SET_STAT.seq 0 0 && !t.bit F.PWM_LEGSTAT.en 0 0) = true := by
  decide +kernel
def waitsMask : State := fl.updSet 0 0 fun k => { k with maskWait := some (5, 7) }
theorem test_mask_hyps : (waitsMask.pset 0 0).maskWait = some (5, 7) ∧ (fl.pset 0 0).maskWait = none ∧ fl.rawOf 0 + fl.f F.PWM_MASK_CTL.dly 0 0 = fl.clk.raw ∧
    fl.clk.raw < fl.rawOf 160 ∧ (({ fl with clk := { raw := 10, tag := 160 } } : State).rawOf 0 < 10) ∧ (fl.clrb F.PWM_STATUS.clk_ok 0).bit F.PWM_STATUS.clk_ok 0 = false := by
  decide +kernel
/-- R173: the waiting event applies at its tick. -/
theorem test_mask : takes (exec (.maskEventApply 0 0) waitsMask) (fun t => t.clk.raw == 5 && t.f F.PWM_MASK_PTR.state 0 0 == 7) = true := by decide +kernel
theorem test_sequence_hyps : (let s := (pw 0).setb F.PWM_SET_STAT.seq 0 0
    let w (s : State) : State := s.run (s.dwellDue 0 0 (s.pset 0 0).seqAt)
    let u := s.updLeg 0 0 fun k => { k with seqOwn := true }
    s.bit F.PWM_SET_STAT.seq 0 0 && !(s.pset 0 0).dwellDone && !((w s).legsOf 0 0).any (fun l => ((w s).pleg 0 l).seqOwn) &&
      (w u).bit F.PWM_SET_STAT.seq 0 0 && ((w u).legsOf 0 0).any fun l => ((w u).pleg 0 l).seqOwn) = true := by decide +kernel
theorem test_leg_hyps : (fl.req (.core 0)).mapped = true ∧ (pw 0).seqOf 0 0 0 = false ∧ ((pw 0).setb F.PWM_SET_STAT.seq 0 0).seqOf 0 0 0 = true := by decide +kernel
theorem test_leg_off : takes (exec (.legOff (.core 0) 0 1) (pw 0)) (fun t => !t.bit F.PWM_LEGSTAT.en 0 0 && (t.pleg 0 0).seqOwn) = true := by decide +kernel
theorem test_legs_apart : State.reset.legsApart := by
  intro p l h
  have : State.reset.out p l true = false := (by decide +kernel : (F.PWM_LEGSTAT.out_h.get (resetWord .PWM_LEGSTAT 0) != 0) = false)
  simp [this] at h
theorem test_legs_step : okOut (exec (.carrierStart 0 0) State.reset) (fun _ => true) = true := by decide +kernel

/-! ### Comparators, muzzle, thermal limits -/

def cm (f : Cmp → Cmp) (s : State := fl) : State := (s.put F.CMP_CFG.mode 1 0 0).updCmp 0 0 f
theorem test_comparator_hyps : (cm id).bit F.CMP_STAT.out_u 0 0 = false ∧ (cm id).f F.CMP_CFG.mode 0 0 ≠ 0 ∧ fl.f F.CMP_CFG.mode 0 0 = 0 ∧
    ((cm id).pcmDrivers 0 0).isEmpty = true ∧ (cm id).bit F.CMP_STAT.in_chk 0 0 = false ∧ (fl.req (.core 0)).admits (fl.ainOwner 0 0) = true ∧
    ((cm fun k => { k with window := true }).cmp 0 0).window = true := by decide +kernel
/-- R187 and R188: with m = 3, k = 2 a pulse of 4 ticks from tick 5 is sampled once and passes nothing; a level held passes at its second sample. -/
theorem test_majority : (let g : Sampling := { m := 3, k := 2, next := fun q => 4 * ((q + 3) / 4), mask := fun _ => false, tagAt := fun _ => 0 }
    (Flt.feed { g with next := fun q => 4 * (q / 4 + 1) } 0 [(5, 7, true), (9, 8, false)] {} false).2.2 == [] &&
      (Flt.feed { g with next := fun q => 4 * (q / 4 + 1) } 0 [(5, 7, true)] {} false).2.2 == [(12, true, 7)] && g.m == 3) = true := by decide +kernel
/-- R190: both levels of a window are blanked while the timer of leg bleg runs, and none turns true. -/
theorem test_blanked_level : (let s := ((cm id ((pw 0).updLeg 0 0 fun k => { k with blank := true, blankTo := 1000 })).put F.CMP_CFG.bleg 0 0 0).setb F.CMP_CFG.blank_en 0 0
    s.cmpBlanked 0 0 true 999 && !s.cmpBlanked 0 0 true 1000 && takes (exec (.comparatorLevelChange 0 0 true (0, true) []) s) (fun t => !t.bit F.CMP_STAT.out_u 0 0)) = true := by
  decide +kernel
/-- R186 and R202: the upper output rises, the source is live, and a running set in its route trips. -/
theorem test_comparator : takes (exec (.comparatorLevelChange 0 0 true (0, true) []) (cm id ((pw 0).put F.MUZ_SRC.sets 1 0 0)))
    (fun t => t.bit F.CMP_STAT.out_u 0 0 && t.nbit .MUZ_LIVE 0 0 && t.bit F.MUZ_SET_STAT.tripped 0 0) = true ∧
    ((cm id).pwr.mode = 1 ∧ (Flt.feed ((cm id).cmpSampling 0 0 true) 0 [(0, 0, true)] {} false).2.2.length = 1) := by decide +kernel
theorem test_check_hyps : (let s := ((cm id).setb F.CMP_CHK.en 0 0).updAcq 0 fun q => { q with chk := [(0, 1)] }
    s.chkDue 0 0 == some 0 && s.bit F.PWM_STATUS.clk_ok 0 && !s.bit F.CMP_STAT.out_u 0 0 && !s.bit F.CMP_STAT.out_l 0 0 &&
      (s.cmp 0 0).thrAt == 0 && (List.range 16).all fun j => !s.bit F.CMP_STAT.in_chk 0 j) = true := by decide +kernel
theorem test_check_skip_hyps : (let s := (((cm id).setb F.CMP_CHK.en 0 0).setb F.CMP_STAT.out_l 0 0).updAcq 0 fun q => { q with chk := [(0, 1)] }
    s.bit F.CMP_STAT.out_l 0 0) = true := by decide +kernel
theorem test_readback_hyps : (fl.req (.core 0)).admits (fl.owner (.pack 0)) = true ∧ fl.rdbkOk 0 = true ∧ fl.bit F.CMP_GSTAT.rdbk_busy 0 = false ∧
    (fl.put F.LE_AX_STAT.state 4 0 0).rdbkOk 0 = false := by decide +kernel
theorem test_trip_hyps : (pw 0).setRunning 0 0 = true ∧ fl.setRunning 0 1 = false ∧ (pw 0).bit F.MUZ_SET_STAT.tripped 0 0 = false ∧
    (fl.setb F.MUZ_PROT.en_l 0 17).bit F.MUZ_PROT.en_l 0 17 = true ∧ (fl.req (.core 0)).admits (fl.setOwner 0 0) = true := by decide +kernel
theorem test_trip_clear_hyps : (let s := (((pw 0).setb F.MUZ_SET_STAT.tripped 0 0).put F.MUZ_SRC.sets 1 0 0)
    let u := s.putNbit .MUZ_LIVE 0 true 0 0
    let live (s : State) := (List.range 77).any fun i => s.nbit .MUZ_LIVE (i % 32) 0 (i / 32) && s.routed 0 i 0
    s.bit F.MUZ_SET_STAT.tripped 0 0 && !live s && live u) = true := by decide +kernel
/-- R209: a clear with a live source in the route is rejected. -/
theorem test_trip_clear : (let s := (((pw 0).setb F.MUZ_SET_STAT.tripped 0 0).put F.MUZ_SRC.sets 1 0 0)
    takes (exec (.tripClear (.core 0) 0 0) s) (fun t => !t.bit F.MUZ_SET_STAT.tripped 0 0) &&
    !takes (exec (.tripClear (.core 0) 0 0) (s.putNbit .MUZ_LIVE 0 true 0 0))) = true := by decide +kernel
theorem test_thermal_hyps : rs.pwr.mode = 1 ∧ (rs.setb F.THM_SEN.flt 0 0).bit F.THM_SEN.flt 0 0 = true ∧ rs.bit F.THM_SEN.flt 0 0 = false ∧
    (rs.thm 0).good < 99 ∧ ({ rs with therm := [(0, { good := 99 })] } : State).thm 0 = { good := 99 } ∧
    (BitVec.ofInt 12 (-440)).toInt = -440 ∧ (BitVec.ofInt 12 1600).toInt = 1600 ∧ (BitVec.ofInt 12 1601).toInt = 1601 := by decide +kernel
/-- R216: a reading below −55 °C is a failure; −55 °C is a reading. -/
theorem test_thermal : takes (exec (.thermalSample 0 (BitVec.ofInt 12 (-441))) rs) (fun t => t.bit F.THM_SEN.flt 0 0) = true ∧
    takes (exec (.thermalSample 0 (BitVec.ofInt 12 (-440))) rs) (fun t => !t.bit F.THM_SEN.flt 0 0) = true := by decide +kernel

/-! ### Banks and swaps -/

theorem test_bank_hyps : (rs.req (.core 0)).isT0 = true ∧ rs.bit F.IMG_BANK.busy = false ∧ (rs.bankHdr 1).good = false ∧ (rs.req remote).isT0 = false ∧
    (rs.setb F.IMG_BANK.busy).bit F.IMG_BANK.busy = true ∧ (rs.put F.IMG_STATUS.phase 4).f F.IMG_STATUS.phase = 4 := by decide +kernel
/-- A bank with the word that marks it, in state `st`. -/
def bank (b st : Nat) : State := (((rs.setb F.IMG_BANK.busy).setb F.PWR_D2D_STATUS.mem_up).bankWord b 0 0x4B4E4247).bankWord b 8 st
theorem test_bank_states : ((bank 1 0).bankHdr 1).good = true ∧ ((bank 0 1).bankHdr 0).state = 1 ∧ ((bank 0 2).bankHdr 0).state = 2 := by decide +kernel
theorem test_set_trial_done : takes (exec .bankCommandDone { bank 1 0 with img := { bankJobs := [1] } }) (fun t => (t.bankHdr 1).state == 1 && (t.bankHdr 1).tries == 3) =
    true := by decide +kernel
theorem test_recovery_hyps : (let f : ImgSrc := fun i => if 0x11800000 ≤ 0x11800000 + i ∧ 0x11800000 + i < 0x12000000 then rs.byte (0x11800000 + i) else 0
    (f.auth (f.hdr 0x1000) 0 rs.img.svn true).isSome) = true := by decide +kernel
def sw (st : Nat) : State := rs.put F.IMG_SWAP_STAT.state st
theorem test_swap_hyps : (sw 2).swapSt = 2 ∧ (sw 2).bit F.IMG_SWAP_CTL.at_en = false ∧ ({ sw 3 with clk := { raw := 100000000 } } : State).commitSoon = true ∧
    (sw 3).commitSoon = false ∧ (sw 3).img.prog = [] ∧ ((sw 0).setb F.IMG_SWAP_STAT.undo).bit F.IMG_SWAP_STAT.undo = true ∧
    (((sw 2).setb F.IMG_SWAP_CTL.at_en).wr .IMG_SWAP_AT_LO 0xFFFFFFFF 0 0 0).bit F.IMG_SWAP_CTL.at_en = true := by decide +kernel
/-- R235 to R239: STAGE is refused while a swap is staged, and taken otherwise. -/
theorem test_stage : takes (exec (.stage (.core 0)) (sw 0)) (fun t => t.swapSt == 1) = true ∧ takes (exec (.stage (.core 0)) (sw 2)) = false ∧
    takes (exec (.swapGo (.core 0)) (sw 2)) (fun t => t.swapSt == 3) = true := by decide +kernel

/-! ### The fabric -/

/-- Lane 0 in state `st`; a frame that fits it, of 8 octets, to an address. -/
def ln (st : Nat) (s : State := rs) : State := s.put F.FAB_LSTAT.state st 0 0
def fm (a : Nat) : Frame := { fr with plen := 8, payload := [1, 2, 3, 4, 5, 6, 7, 8], len := 8, addr := BitVec.ofNat 52 a, src := 1 }
theorem test_arrives : (ln 4).arrives 0 1 (fm 0x10000000) ∧ (ln 4).arrives 0 3 (fm 0x10000000) ∧ (ln 4).arrives 0 5 (fm 0) ∧ (ln 4).arrives 0 10 (fm 0) ∧
    (ln 2).arrives 0 9 (fm 0) ∧ (ln 4).arrives 0 11 (fm 0) ∧ (ln 4).arrives 0 8 (fm 0x8008) ∧ (ln 4).arrives 0 0 (fm 0) := by
  refine ⟨?_, ?_, ?_, ?_, ?_, ?_, ?_, ?_⟩ <;> (unfold State.arrives; decide +kernel)
/-- Node 1 is mapped to T0. -/
def maps (s : State) : State := (s.setb F.FAB_INMAP.en 0 0).put F.FAB_INMAP.node 1 0 0
/-- And region 0 of the fabric's requesters opens all addresses. -/
def inb : State := ((maps (ln 4)).wr .MEM_RGN_ATTR 0x1F 0 44 0).wr .MEM_RGN_LIMIT 0xFFFFF000 0 44 0
theorem test_inbound_hyps : (let q := inb.req (.fabric 1 0 false)
    inb.inRange (fm 0x10000000) 8 && q.mapped && inb.regionOk q .read 0x10000000 4 && inb.regionOk q .write 0x10000004 4 && !inb.pageClosedAt 0x10000004 &&
      inb.nflips 0x10000000 == 0 && !inb.inRange (fm 0x1FFFFFFF) 8 && !(inb.req (.fabric 1 3 false)).mapped && (!(ln 4).regionOk q .read 0x10000000 4)) = true := by decide +kernel
theorem test_inbound_write : takes (exec (.wrFrame 0 (fm 0x10000000)) inb) (fun t => t.word 0x10000000 == 0x04030201 && t.word 0x10000004 == 0x08070605) = true := by
  decide +kernel
/-- Channel 3 of core 0 bound to node 1. -/
def mrx : State := (((((((maps (ln 4 cs)).setb F.FAB_MRX.en 0 0).put F.FAB_MRX.core 0 0 0).put F.FAB_MRX.ch 3 0 0).put F.FAB_MRX.node 1 0 0).put F.FAB_MRX.ten 0 0 0).setb
  F.MBX_RX_CFG.en 0 3).put F.MBX_RX_CFG.sender 44 0 3
theorem test_mbx_hyps : (let q := mrx.req (.fabric 1 0 false)
    q.admits { ten := mrx.f F.MBX_RX_CFG.owner 0 3, sec := mrx.bit F.MBX_RX_CFG.sec 0 3 } && mrx.bit F.MBX_RX_CFG.en 0 3 &&
      mrx.f F.MBX_RX_CFG.sender 0 3 == 44 && !(mrx.core 0).held && !mrx.nbit .MBX_RX_FULL 3 0 && mrx.bit F.FAB_MRX.en 0 0) = true := by decide +kernel
theorem test_mbx : takes (exec (.mbxFrame 0 (fm 0x30)) mrx) (fun t => t.nbit .MBX_RX_FULL 3 0 && t.rd .MBX_RX 0 3 1 == 0x08070605) = true := by decide +kernel
/-- One request outstanding on lane 0. -/
def outs (b : ReqBy) (s : State := ln 4) : State := { s with net := { s.net with reqs := [{ txid := 0, lane := 0, by_ := b, due := 5 }] } }
theorem test_response_hyps : (outs (.load 0 4)).net.reqs = [{ txid := 0, lane := 0, by_ := .load 0 4, due := 5 }] ∧
    ((outs (.load 0 4) ((ln 4).updCore 0 fun q => { q with win := some (0, none) })).core 0).win = some (0, none) ∧
    Tag.after (outs (.load 0 4)).now 5 = false ∧ (ln 4).net.reqs = [] ∧ (ln 4).lnSt 0 ≠ 5 ∧ (fm 0).status = 0 := by decide +kernel
theorem test_response : takes (exec (.wraFrame 0 { fm 0 with status := 1 }) (outs (.store 0 0x40))) (fun t => (t.core 0).errResp == [0x40] && t.net.reqs == []) =
    true := by decide +kernel
theorem test_late_response : takes (exec (.wraFrame 0 (fm 0)) (ln 4)) (fun t => t.f F.FAB_REQ_STAT.late_rsp == 1) = true := by decide +kernel
theorem test_send_hyps : (let s := (ln 4).setb F.FAB_MTX_CFG.en 0 15
    let u := (s.setb F.FAB_ROUTE.pen 0 2).put F.FAB_MTX_CFG.node 2 0 15
    (s.req (.core 0)).admits { ten := s.f F.FAB_MTX_CFG.owner 0 15, sec := s.bit F.FAB_MTX_CFG.sec 0 15 } && s.bit F.FAB_MTX_CFG.en 0 15 &&
      !s.bit F.FAB_MTX_STAT.busy 0 15 && s.laneTo 0 == none && u.laneTo 2 == some 0) = true := by decide +kernel
theorem test_aborted_hyps : (let s := (ln 4).setb F.FAB_MTX_CFG.en 0 0
    (List.range 16).any fun m => s.slotFor { fm 0 with src := 0 } m) = true := by decide +kernel
def buffered : State := let s := ln 4; { s with net := { s.net with buf := [(0, [(1, fr)])], reps := [(0, 7)], waits := [(0, [5])] } }
theorem test_link_hyps : buffered.net.buf.get [] 0 = [(1, fr)] ∧ buffered.net.reps.get 0 0 = 7 ∧ (∀ vc, vc < 4 → buffered.net.waitq.get [] (4 * 0 + vc) = []) ∧
    buffered.net.naked.get false 0 = false ∧ buffered.net.lvOut.get false 0 = false ∧ (ln 2).bit F.FAB_NODE.valid = false ∧ (ln 7).lnSt 0 = 7 := by decide +kernel
theorem test_wait_hyps : buffered.net.waits.get [] 0 = [5] ∧ (ln 4).net.waits.get [] 0 = [] ∧ (ln 4).lnSt 0 ≠ 5 := by decide +kernel
/-- R411: the eighth replay without an acknowledgement advancing loses the link. -/
theorem test_replays : takes (exec (.replayTimeout 0) buffered) (fun t => t.lnSt 0 == 0 && t.bit F.FAB_LSTAT.surprise 0 0 && t.clk.raw == 2005) = true := by decide +kernel
theorem test_eth_hyps : (fm 0x0008).addr.toNat / 2 ^ 15 % 2 = 0 ∧ (fm 0x8007).addr.toNat / 2 ^ 15 % 2 = 1 ∧ (fm 0x8007).addr.toNat % 2 ^ 12 = 7 := by decide +kernel
theorem test_lane_hyps : (rs.f F.FAB_CTL.lane_en).testBit 0 = false ∧ ((rs.put F.FAB_CTL.lane_en 8).f F.FAB_CTL.lane_en).testBit 3 = true ∧ rs.lnSt 3 = 0 ∧
    (ln 1).lnSt 0 = 1 ∧ (ln 5).lnSt 0 = 5 ∧ (ln 6).lnSt 0 = 6 ∧ (ln 4).net.lvIn.get false 0 = false := by decide +kernel
theorem test_signal_loss : takes (exec (.linkSignalLoss 0) (ln 4)) (fun t => t.lnSt 0 == 0 && t.f F.FAB_LSTAT.loss 0 0 == 1) = true := by decide +kernel

/-! ### Network queues, gate drivers -/

/-- Ring `q` at 0x1180_0000 with its first descriptor's buffer at 0x1180_1000. -/
def ring (can : Bool) (q : Nat) : State :=
  ((((rs.setb (ringFld can F.ETH_Q_CFG.en) 0 q).wr (ringReg can .ETH_Q_BASE) 0x11800000 0 q 0).put (ringFld can F.ETH_Q_TAIL.tail) 1 0 q).setWord 0x11800000 0x11801000).setWord 0x11800004 0x1004
/-- The rings of port 14's tenant, and the entry that leads there and to port 4. -/
def eth : State := { ring false 4 with net := { fwd := [(5, 0, 2 ^ 14), (6, 0, 2 ^ 4)] } }
def nf (d : Nat) : NetFrame := { dst := d, vid := 0, fcsOk := true, bytes := [1, 2, 3, 4], tag := 9 }
theorem test_ring_hyps : eth.ringReady false (eth.rxRing 0) = true ∧ (eth.word (eth.descAt false (eth.rxRing 0))).toNat = 0x11801000 ∧
    rs.ringReady false (rs.rxRing 0) = false ∧ eth.tenEn 0 = true ∧ eth.tenEn 7 = false ∧ eth.net.stopped = false ∧
    (eth.net.fwd.find? fun e => e.1 == 7 && e.2.1 == 0) = none ∧
    (∀ k : Fin 22, (k ≠ 0 ∧ (2 ^ 14 : Nat).testBit k = true) ↔ k = 14) ∧ (∀ k : Fin 22, (k ≠ 0 ∧ (2 ^ 4 : Nat).testBit k = true) ↔ k = 4) := by decide +kernel
theorem test_eth_receive : takes (exec (.ethernetFrameReceive 0 (nf 5)) eth) (fun t => t.word 0x11801000 == 0x04030201) = true := by decide +kernel
theorem test_can_hyps : (ring true 1).ringReady true 1 = true ∧ rs.net.busOff.get false 0 = false ∧ ringSends true 0 = true ∧ (ring true 0).ringReady true 0 = true ∧
    (ring false 0).ringReady false 0 = true ∧ ringSends false 0 = true ∧ ringWf true 15 = true ∧ ringWf false 63 = true := by decide +kernel
/-- R428: a descriptor whose launch tag lies ahead waits. -/
theorem test_launch_hyps : (let s := (ring true 0).setWord ((ring true 0).descAt true 0 + 8) 100
    let g := Tag.ofWords (s.word (s.descAt true 0 + 12)) (s.word (s.descAt true 0 + 8))
    g == 100 && Tag.before s.now g && !Tag.before g (s.net.reach.get 0 64)) = true := by decide +kernel
theorem test_tail_hyps : (rs.req (.core 0)).admits { ten := 0, sec := false } = true ∧ (rs.req (.core 0)).admits { ten := 7, sec := false } = false := by decide +kernel
/-- SPI master 0 of pack 0 is on, and busy where `b`. -/
def spi (b : Bool) : State := (((fl.setb F.PWR_D2D_STATUS.fld_up).setb F.SPI_CTL.en 0 0).putb F.SPI_STAT.busy b 0 0)
theorem test_spi_hyps : (spi false).bit F.SPI_CTL.en 0 0 = true ∧ (spi false).fieldUp = true ∧ (spi false).pwr.mode ≠ 2 ∧ (spi true).bit F.SPI_STAT.busy 0 0 = true ∧
    ((spi false).put F.SPI_CTL.trig 2 0 0).f F.SPI_CTL.trig 0 0 = 2 ∧ (spi false).f F.SPI_CTL.trig 0 0 = 0 ∧ rxWf [1] = true ∧ rxWf (List.replicate 16 1) = true ∧
    keyWf (List.replicate 8 0) = true := by decide +kernel
/-- R430: received words of 8 bits. -/
theorem test_spi : takes (exec (.spiTransferEnd 0 0 [0x1FF]) (spi true)) (fun t => t.rd .SPI_RX 0 0 == 0xFF && t.f F.SPI_STAT.xfer_cnt 0 0 == 1) = true := by
  decide +kernel

/-! ### Power states, supplies, pace, resets -/

def low (m : Nat) (tgt : Option Nat) (past : Bool) (s : State := rs) : State := s.updPwr fun k => { k with mode := m, target := tgt, past := past }
theorem test_den_hyps : rs.denOk = true ∧ (low 2 none true).denOk = false ∧ (low 1 (some 2) false).pwr.target = some 2 ∧ (low 1 (some 3) true).pwr.past = true ∧
    (List.range 8).all (fun n => !rs.levelWake n) = true := by decide +kernel
theorem test_den : takes (exec (.den (.core 0)) rs) (fun t => t.pwr.target == some 2 && t.net.stopped) = true := by decide +kernel
theorem test_no_return : takes (exec .pointOfNoReturn (low 1 (some 2) false)) (fun t => t.pwr.past && t.clk.stopped) = true := by decide +kernel
theorem test_timers_hyps : ((low 2 none true).put F.PWR_DEN_CTL.den_to 1).f F.PWR_DEN_CTL.den_to ≠ 0 ∧ (low 2 none true).pwr.wake = false ∧ rs.rd .PWR_AO_WAKE = 0 ∧
    ((low 3 none true).wr .PWR_AO_WAKE 1 0 0 0).rd .PWR_AO_WAKE ≠ 0 := by decide +kernel
/-- Pin 7 is enabled for rising edges (0) and may wake from Den. -/
def pin (s : State := rs) : State := ((s.setb F.PWR_WHISTLE.en 0 7).put F.PWR_WHISTLE.det 0 0 7).setb F.PWR_WHISTLE.wake_den 0 7
theorem test_pin_hyps : pin.bit F.PWR_WHISTLE.en 0 7 = true ∧ pin.f F.PWR_WHISTLE.det 0 7 = 0 ∧ pin.bit F.PWR_WHISTLE.live 0 7 = false ∧ pin.pwr.target = none ∧
    (pin (low 2 none true)).bit F.PWR_WHISTLE.wake_den 0 7 = true ∧ (pin (low 3 none true)).bit F.PWR_WHISTLE.wake_ken 0 7 = false ∧
    rs.bit F.PWR_WHISTLE.en 0 7 = false := by decide +kernel
theorem test_pin_wakes : takes (exec (.whistleEdge 7 true 3) (pin (low 2 none true))) (fun t => t.pwr.wake && t.nbit .PWR_AO_CAUSE 7) = true := by decide +kernel
theorem test_supply_state_hyps : rs.pwr.fldEn = true ∧ rs.pwr.fldOk = false ∧ rs.pwr.coreEn = false ∧ rs.pwr.tries.get 0 0 = 0 ∧
    ((rs.updPwr fun k => { k with tries := [(0, 2)] }).pwr.tries.get 0 0 + 1) = 3 ∧ (rs.updPwr fun k => { k with coreOk := true }).pwr.coreOk = true := by decide +kernel
theorem test_pace_hyps : rs.resting 100 = false ∧ rs.nbit .PWR_PACE_STAT (100 % 32) 0 (100 / 32) = false ∧ rs.pwr.slow.get 0 100 = 0 ∧
    (rs.putNbit .PWR_PACE_STAT (100 % 32) true 0 (100 / 32)).nbit .PWR_PACE_STAT (100 % 32) 0 (100 / 32) = true ∧
    (rs.updPwr fun k => { k with slow := [(100, 1)], good := [(100, 7)] }).pwr.good.get 0 100 + 1 = 8 ∧ State.reset.pwr.mode ≠ 1 := by decide +kernel
/-- R435 and R24: a window of 775 ps lies outside the band of 0.776 ns to 0.824 ns. -/
theorem test_pace : (let s (n : Nat) := (rs.updPwr fun k => { k with good := [(100, n)] }).putNbit .PWR_PACE_STAT 4 true 0 3
    takes (exec (.paceWindow 100 775) (s 3)) (fun t => t.pwr.good.get 0 100 == 0) && takes (exec (.paceWindow 100 776) (s 3)) (fun t => t.pwr.good.get 0 100 == 4) &&
    takes (exec (.paceWindow 100 824) (s 7)) (fun t => !t.nbit .PWR_PACE_STAT 4 0 3)) = true := by decide +kernel
theorem test_reset_hyps : (rs.req (.core 0)).isT0 = true ∧ (rs.f F.PWR_RST_STAT.pack_busy).testBit 3 = false ∧
    ((rs.put F.PWR_RST_STAT.pack_busy 8).f F.PWR_RST_STAT.pack_busy).testBit 3 = true ∧ rs.img.prog.all SwapOp.isProg = true ∧
    (List.range 6).all (fun x => !rs.bit F.PWM_SET_STAT.seq 3 x) = true ∧ (List.range 18).all (fun l => !(rs.pleg 3 l).seqOwn) = true := by decide +kernel
theorem test_reset_n : takes (exec .resetN cs) (fun t => t.pwr.mode == 0 && (t.core 0).held && t.f F.PWR_RST_STAT.dev_cnt == 1) = true := by decide +kernel
def env (pace : Nat) (fuses : Bool) : StartEnv :=
  { paceFails := pace, fusesOk := fuses, badPages := [], injFails := [], dac := [], sarFails := [], cols := 0 }
def up_ : State := State.reset.updPwr fun k => { k with fldOk := true, coreOk := true }
theorem test_release_start_hyps : up_.pwr.fldOk = true ∧ up_.pwr.coreOk = true ∧ up_.bit F.PWR_RST_STAT.halt = false ∧ up_.pwr.mode = 0 := by decide +kernel
theorem test_release_halts : takes (exec (.resetRelease (env 4 true)) up_) (fun t => t.bit F.PWR_RST_STAT.halt && t.f F.PWR_RST_STAT.stage == 3) = true ∧
    takes (exec (.resetRelease (env 3 false)) up_) (fun t => t.f F.PWR_RST_STAT.stage == 4) = true := by decide +kernel

/-! ### The whole block -/

theorem test_invariant_hyps : rs.inv = true ∧ (ld.setWord 0x10000000 1).inv = true ∧
    okOut (step { code (encI 0x0F 2 1 0) ld with pending := [.stb 0 2 1 0] }) (fun t => t.inv && t.pending == [] && t.byte 0x10000100 == 0) = true := by decide +kernel
theorem test_address_hyps : regAt (RegAt.addr { r := .PWM_LEGSTAT, p := 3, i := 17 }) = some { r := .PWM_LEGSTAT, p := 3, i := 17 } ∧
    regAt (RegAt.addr { r := .MEM_RGN_ATTR, p := 0, i := 44, j := 15 }) = some { r := .MEM_RGN_ATTR, p := 0, i := 44, j := 15 } := by decide +kernel
/-- R35: the wrap, and the distance of 2^63. -/
theorem test_tags : Tag.after 1 0xFFFFFFFFFFFFFFFF = true ∧ Tag.before 0xFFFFFFFFFFFFFFFF 1 = true ∧ Tag.before 0x8000000000000000 0 = true ∧
    Tag.after 0x7FFFFFFFFFFFFFFF 0 = true ∧ Tag.after 0x8000000000000000 0 = false := by decide
theorem test_debug_refused : (match exec (.registerWrite (.core 0) 0xF0000000 1) rs with
    | .refused r => decide (r = .debugBlock)
    | _ => false) = true ∧ (match exec (.ldw 0 1 2 0) (code (encI 8 1 2 0) (withG 2 0xF0FFFFFC)) with
    | .refused r => decide (r = .debugBlock)
    | _ => false) = true := by decide +kernel

/-! ### The package -/

/-- "AIN_1_03 ... is ball K35" (R485's example). -/
theorem test_ball_ain : ballNamed "K" 35 = some (.ain 1 3) := by decide +kernel
/-- "PWMH_2_05 ... is ball BA29". -/
theorem test_ball_pwmh : ballNamed "BA" 29 = some (.pwmh 2 5) := by decide +kernel
/-- "FTXP_2 ... is ball F19". -/
theorem test_ball_ftxp : ballNamed "F" 19 = some (.ftxp 2) := by decide +kernel
/-- "The ball U21 ... carries VDD_CORE". -/
theorem test_ball_core : ballNamed "U" 21 = some .vddCore := by decide +kernel

/-- How many balls of a row carry a signal that `p` picks. -/
def ballsIn (p : Signal → Bool) (r : Nat) : Nat :=
  ((List.range 39).filter fun c => match ballSignal (r + 1) (c + 1) with
    | some x => p x
    | none => false).length

/-- "396 VSS, ... 189 VDD_CORE, ... 83 VDD_FLD" (R485). -/
theorem test_ball_counts :
    (((List.range 39).map (ballsIn (· == .vss))).sum, ((List.range 39).map (ballsIn (· == .vddCore))).sum,
      ((List.range 39).map (ballsIn (· == .vddFld))).sum, ((List.range 39).map (ballsIn (· == .vssa))).sum) = (396, 189, 83, 24) := by
  decide +kernel

/-! ### Pins -/

/-- The field supplies are good in Run, and the configuration controller has written leg 3's PWM_LEGCTL. -/
def railed : State := (State.reset.updPwr fun k => { k with mode := 1, fldOk := true }).updLeg 0 3 fun k => { k with cfgd := true }
/-- R172: an active-low output that is on drives its pin low, and one that is off drives it high; R433: without VIO_PWM nothing is driven. -/
theorem test_pwm_pins : (((railed.setb F.PWM_LEGCTL.pol_h 0 3).setb F.PWM_LEGSTAT.out_h 0 3).pwmPins 0 3 == some (false, false) &&
    (railed.setb F.PWM_LEGCTL.pol_l 0 3).pwmPins 0 3 == some (false, true) && railed.pwmPins 0 4 == some (false, false) &&
    (railed.updPwr fun k => { k with fldOk := false }).pwmPins 0 3 == none) = true := by decide +kernel
/-- R122 and R102: forward, A rises with B at 0, B rises with A at 1, A falls with B at 1, B falls with A at 0; Z in state 0 with z_en. -/
theorem test_emulator_pins : ([0, 1, 2, 3, 4].map emuAB, (State.reset.setb F.POS_EMU_CFG.z_en 1).emuPins 1, State.reset.emuPins 1) =
    ([(false, false), (true, false), (true, true), (false, true), (false, false)], (false, false, true), (false, false, false)) := by
  decide +kernel

/-! ### Instants, and conditions that several statements share -/

/-- A reserved word is one that no instruction has, and a core may execute it. -/
theorem test_reserved_hyps : reservedWord 0xFC000000 = true ∧ reservedWord (encS 0 0) = false ∧ ready (code 0xFC000000) 0 0xFC000000 = true ∧
    ready (code (encL 0x15 0 1 0)) 0 (encL 0x15 0 1 0) = true ∧ ready (code (encI 0x18 1 0 7)) 0 (encI 0x18 1 0 7) = true ∧ (cs.core 0).waiting = none := by
  decide +kernel
theorem test_reserved : okOut (exec (.reservedEncoding 0 0xFC000000) (code 0xFC000000 gm0)) (fun t => (t.bank 0 0).pc == 32 && (t.bank 0 0).eval == 0xFC000000) =
    true := by decide +kernel
/-- A fast interrupt came while no context ran. -/
def idleFast : State := fst_.put F.SCHED_CTX_STAT.state 0 0 0
theorem test_return_hyps : (fst_.begun 0).bit F.SCHED_STAT.fast 0 = true ∧ (fst_.clrb F.SCHED_STAT.fast 0).idle 0 = false ∧
    (idleFast.clrb F.SCHED_STAT.fast 0).idle 0 = true ∧ ready (code (encS 0 0) idleFast) 0 (encS 0 0) = true := by decide +kernel
theorem test_clean_copies : (∀ l ∈ [0x400004, 0x460000], ∀ w < 9, (rs.cFlip l w).2 = 0) ∧ rs.ram.cFlips = [] ∧ rs.ram.flips = [] ∧ rs.ram.leFlips = [] := by
  decide +kernel
/-- The switch of 05_sched: awake, settled, nothing to take. -/
theorem test_settled_hyps : sw2.awake 0 = true ∧ (sw2.settled 0).asyncEvent 0 = none ∧ (sw2.core 0).job ≠ some (true, 1) ∧ (sw2.core 0).waiting = none ∧
    (gm0.settled 0).idle 0 = false ∧ ((irq true).settled 0).asyncOpen 0 = true ∧ (irq true).offer 0 true = some 5 ∧ (irq false).offer 0 false = some 5 ∧
    (irq false).offer 0 true = none ∧ (gm0.settled 0).asyncOpen 0 = true := by decide +kernel
theorem test_spill_open : spl.ctxState 0 3 ≠ 2 ∧ (let s := (spl.setb F.SCHED_CTX_STAT.resident 0 3).put F.SCHED_CTX_STAT.bank 2 0 3
    s.bit F.SCHED_CTX_STAT.resident 0 3 && (s.bank 0 2).ldDue.isEmpty && (s.bank 0 2).ldNew.isEmpty && !s.pageClosedAt 0x10000600) = true := by decide +kernel
/-- The core has requested the line of its pc, which its region admits and which reads. -/
def seeks : State := cs.updCore 0 fun q => { q with want := some 0x400000 }
theorem test_line_hyps : (seeks.core 0).want = some 0x400000 ∧ seeks.coreRuns 0 = true ∧ seeks.vectorLine 0 0x400000 = false ∧
    ((seeks.core 0).codeLine 0x400000).isNone = true ∧ (isMem 0x10000000 && seeks.regionOk (seeks.req (coreM 0)) .fetch (unalias 0x10000000) 4) = true ∧
    (seeks.lineRead (seeks.req (coreM 0)) 0x10000000).2.2.isSome = true ∧ (flip2.lineRead (flip2.req (coreM 0)) 0x10000000).2.2 = none ∧
    (cs.cur 0).pc.toNat / 64 = 0x400000 := by decide +kernel
/-- A core pair whose checkpoint is forced, and due by its interval. -/
def due (s : State := asPair cs) : State := s.put F.CHK_CTL.interval 1 0
theorem test_checkpoint_due_hyps : due.paired 8 = true ∧ (due.core 0).held = false ∧ due.pf F.PJNL_PSTAT.failed 8 = 0 ∧ (due.core 0).waiting = none ∧ (due.core 0).win = none ∧
    (let v := due.run (due.ticksTo ((due.pair 8).ckAt + 16000))
     !Tag.after ((due.pair 8).ckAt + 16000) v.now && !v.recovering 8 && (v.drainQueue 0 16).paired 8) = true ∧ corePair 0 = 8 := by decide +kernel
theorem test_checkpoint_due : okOut (exec (.checkpoint 0 false) due) (fun t => t.clk.raw == 1000 && (t.pair 8).jnl.length == 1) = true := by decide +kernel
/-- Slots: just fired, and waiting for its target. -/
theorem test_slot_instants : (slot 0 0).slotJust 2 = false ∧ (({ slot 0 0 with clk := { fired := [(2, 1)] } } : State).slotJust 2) = true ∧
    (let s := (slot 1 0x10000000).wr .TIME_ACT_TGT_LO 160 0 2 0
     let u := s.run (s.ticksTo (s.slotTgt 2))
     u.slotReached 2 && u.clk.raw == 10 && isSram 0x10000000 && !u.pageClosedAt 0x10000000) = true ∧ (slot 0 0).clk.due.contains 2 = false := by decide +kernel
/-- The timebase: locked with loss_n 1; its lock is lost 1 ms after the last message and the crossing bound. -/
theorem test_loss_hyps : (let s := (tb 1).put F.TIME_CTL.loss_n 1
    let due := s.clk.lastMsg + 16000000 + s.tickUnits crossTicks + 1
    !Tag.after due (s.run (s.ticksTo due)).now && s.timeSt == 1) = true ∧ (rs.aq 0) = [] ∧ rs.tenEn 0 = true ∧ rs.pwr.past = false := by decide +kernel
theorem test_shadow_cycle : (let s := ({ rs with clk := { stopped := true } } : State)
    s.clk.raw < s.clk.aoAt + (1953125 * (s.clk.aoCycles + 1) + 63) / 64 ∧ s.soon = []) := by decide +kernel
theorem test_retrain_hyps : (rs.bit (linkUpF .field) || rs.bit (linkFailF .field) || rs.pwr.mode != 1 || rs.pwr.past) = false ∧
    Tag.before ((rs.pwr.d2d.get [] 0).headD rs.now + 800000) rs.now = false ∧
    (let u := rs.run (rs.ticksTo (rs.now + 800000))
     Tag.after (rs.now + 800000) u.now) = false := by decide +kernel
/-- A channel that has delivered an event of the same tag in this tick. -/
theorem test_twin_hyps : (let s := lsh 0
    let u := { s with lsh := { s.lsh with last := [(0, some (s.clk.raw, 3))] } }
    u.lsh.last.get none 0 == some (u.clk.raw, 3) && ((u.run 1).lsh.flight.get [] 0).length == 1 && (u.run 1).pwr.mode == 1) = true := by decide +kernel
/-- Links: the request's deadline and the crossing bound, the last frame heard, the end of a drain. -/
theorem test_link_instants : (let s := outs (.load 0 4)
    let d := 5 + s.tickUnits crossTicks + 1
    let u := s.run (s.ticksTo d)
    let dr : State := { ln 5 with net := { (ln 5).net with drain := [(0, 160)] } }
    !Tag.after d u.now && s.lnSt 0 == 4 && !Tag.after 160 (dr.run (dr.ticksTo 160)).now && dr.lnSt 0 == 5) = true := by decide +kernel
theorem test_drain : takes (exec (.drainTimeout 0) { ln 5 with net := { (ln 5).net with drain := [(0, 160)] } }) (fun t => t.lnSt 0 == 0 &&
    t.bit F.FAB_LSTAT.drain_to 0 0 && t.clk.raw == 10) = true := by decide +kernel
/-- An SPI master that a period's offset, and one that a delivered event, starts. -/
theorem test_spi_instants : (let s := (spi false).put F.SPI_CTL.trig 1 0 0
    let u : State := let v := (spi false).put F.SPI_CTL.trig 2 0 0; { v with net := { v.net with spiEv := [(0, 1)] } }
    s.bit F.PWM_SET_STAT.cnt_run 0 (s.f F.SPI_CTL.set 0 0) && takes (exec (.spiTrigger 0 0) s) (fun t => t.bit F.SPI_STAT.busy 0 0) &&
      u.net.spiEv.get 0 (spiKey 0 0) == 1 && takes (exec (.spiTrigger 0 0) u) (fun t => t.bit F.SPI_STAT.busy 0 0 && t.net.spiEv == [])) = true := by decide +kernel
/-- Supplies: a group that is asked for and not good, one that waits for its retry; a core die that runs. -/
theorem test_supply_instants : (let w := rs.updPwr fun k => { k with fldEn := true, fldOk := false }
    let r := rs.updPwr fun k => { k with fldEn := false, tries := [(0, 1)] }
    let b := rs.updPwr fun k => { k with coreOk := true }
    takes (exec (.supplyOkTimeout false) w) (fun t => t.clk.raw == 10000000 && !t.pwr.fldEn && t.pwr.tries.get 0 0 == 1) &&
      takes (exec (.supplyRetry false) r) (fun t => t.pwr.fldEn && t.clk.raw == 100000000) && takes (exec .coreBrownOut b) (fun t => t.pwr.mode == 0)) = true := by
  decide +kernel
/-- Low power: an entry at its point of no return, one complete, a wake and a time-out in Den. -/
theorem test_low_instants : (low 1 (some 2) true).pwr.past = true ∧ (low 2 none true).pwr.target = none ∧
    takes (exec .lowPowerEntryComplete (low 1 (some 2) true)) (fun t => t.pwr.mode == 2) = true ∧
    takes (exec .wakeTimer ((low 2 none true).wr .PWR_AO_WAKE 2 0 0 0)) (fun t => t.pwr.wake && t.bit F.PWR_AO_CAUSE.timer) = true := by decide +kernel
theorem test_whistle_hyps : ((true && (pin.f F.PWR_WHISTLE.det 0 7 == 0 || false)) && pin.bit F.PWR_WHISTLE.live 0 7 != true) = true ∧
    (pin.setb F.PWR_WHISTLE.live 0 7).bit F.PWR_WHISTLE.live 0 7 = true ∧ pin.pwr.past = false ∧ pin.pwr.mode = 1 := by decide +kernel
theorem test_thermal_instants : (rs.thm 0).silent = false ∧ ({ rs with therm := [(0, { silent := true })] } : State).thm 0 = { silent := true } ∧
    (rs.clrb F.THM_THR.flt_trip 0 0).bit F.THM_THR.flt_trip 0 0 = false ∧ (rs.setb F.THM_THR.flt_trip 0 0).bit F.THM_THR.flt_trip 0 0 = true ∧
    takes (exec (.thermalSensorTimeout 0) rs) (fun t => t.clk.raw == 100000 && t.bit F.THM_SEN.flt 0 0) = true := by decide +kernel
/-- Comparator windows and the incident at their instants. -/
theorem test_window_instants : (let s := (cm fun k => { k with window := true }).setb F.CMP_STAT.in_chk 0 0
    let r := (cm fun k => { k with window := false }).setb F.CMP_STAT.in_chk 0 0
    let i := fl.setb F.MUZ_INC.open_ 0
    takes (exec (.checkWindowEnd 0 0 false false) s) (fun t => !(t.cmp 0 0).window && t.f F.CMP_STAT.chk_cnt 0 0 == 1) &&
      takes (exec (.checkWindowEnd 0 0 true false) s) (fun t => (t.cmp 0 0).window) &&
      takes (exec (.checkRestoreEnd 0 0) r) (fun t => !t.bit F.CMP_STAT.in_chk 0 0) &&
      takes (exec (.incidentWindowEnd 0) i) (fun t => !t.bit F.MUZ_INC.open_ 0)) = true := by decide +kernel
/-- A protection input in class open asserts; m = k = 1 passes it at its first sample. -/
theorem test_protection : (let s := (((pw 0).setb F.MUZ_PROT.en_h 0 0).put F.MUZ_PROT.m 1 0 0).put F.MUZ_PROT.k 1 0 0
    s.bit F.MUZ_PROT.en_h 0 0 && s.pwr.mode == 1 && s.f F.MUZ_PROT.k 0 0 == 1) = true := by decide +kernel

end Sys2Proof.Tests
end

section
/-! Where registers lie (R6, R297, R298): the places that a row of the tables gives, that no two registers of a block and no two blocks
of a space share one, and that an address decodes to the register that lies there. -/

namespace Sys2Proof.Proofs
open Sys2Proof Sys2Proof.Machine

/-! ### Rows and their offsets -/

/-- The offset within its block of a register of row `w` at the indices `i` and `j`. -/
def rowOff (w : Row) (i j : Nat) : Nat := w.off + w.sI * i + w.sJ * j

/-- How far the offsets of a row reach beyond the first, modulo `m`: an index whose stride `m` divides does not count. -/
def rowReach (m : Nat) (w : Row) : Nat :=
  (if m ∣ w.sI then 0 else w.sI * (w.nI - 1)) + (if m ∣ w.sJ then 0 else w.sJ * (w.nJ - 1))

/-- Modulo `m`, the offsets of row `w` all stand before those of row `w'`. -/
def rowBefore (m : Nat) (w w' : Row) : Bool :=
  decide (w.off % m + rowReach m w < w'.off % m) && (m == 0 || decide (w'.off % m + rowReach m w' < m))

/-- Two rows that share no offset: their whole ranges are apart, or their ranges modulo a stride of the first are. -/
def rowsApart (w w' : Row) : Bool :=
  [0, w.sI, w.sJ].any fun m => rowBefore m w w' || rowBefore m w' w

/-- A row in its block: words at multiples of 4, an index without a stride has one value, the second index stays below the first's
stride, and the last register lies below the block's limit. -/
def rowPlaced (w : Row) : Bool :=
  decide (w.off % 4 = 0 ∧ w.sI % 4 = 0 ∧ w.sJ % 4 = 0 ∧ (w.sI = 0 → w.nI ≤ 1) ∧ (w.sJ = 0 → w.nJ ≤ 1) ∧
    (w.sI ≠ 0 → w.sJ * (w.nJ - 1) < w.sI) ∧ w.blk.base + (w.off + w.sI * (w.nI - 1) + w.sJ * (w.nJ - 1)) < w.blk.limit)

theorem mul_index_le {s i n : Nat} (h : i < n) : s * i ≤ s * (n - 1) := Nat.mul_le_mul_left s (by omega)

/-- One index moves an offset, modulo `m`, by nothing where `m` divides its stride, and by at most the whole span otherwise. -/
theorem index_mod (m s n i : Nat) (h : i < n) :
    ∃ k ≤ (if m ∣ s then 0 else s * (n - 1)), ∀ o, (o + s * i) % m = (o + k) % m := by
  split
  · next hd =>
    obtain ⟨t, rfl⟩ := hd
    exact ⟨0, le_refl _, fun o => by rw [Nat.mul_assoc, Nat.add_mul_mod_self_left, Nat.add_zero]⟩
  · exact ⟨s * i, mul_index_le h, fun _ => rfl⟩

/-- Every offset of a row is, modulo `m`, that of a place within its reach. -/
theorem rowOff_mod (m : Nat) {w : Row} {i j : Nat} (hi : i < w.nI) (hj : j < w.nJ) :
    ∃ k ≤ rowReach m w, rowOff w i j % m = (w.off % m + k) % m := by
  obtain ⟨a, ha, hia⟩ := index_mod m w.sI w.nI i hi
  obtain ⟨b, hb, hjb⟩ := index_mod m w.sJ w.nJ j hj
  refine ⟨a + b, Nat.add_le_add ha hb, ?_⟩
  rw [rowOff, hjb, Nat.add_right_comm, hia, Nat.mod_add_mod, Nat.add_right_comm, Nat.add_assoc]

/-- A row that stands before another, modulo `m`, shares no offset with it. -/
theorem rowOff_ne_of_before {m : Nat} {w w' : Row} (h : rowBefore m w w' = true) {i j i' j' : Nat} (hi : i < w.nI) (hj : j < w.nJ)
    (hi' : i' < w'.nI) (hj' : j' < w'.nJ) : rowOff w i j ≠ rowOff w' i' j' := by
  obtain ⟨a, ha, hwa⟩ := rowOff_mod m hi hj
  obtain ⟨b, hb, hwb⟩ := rowOff_mod m hi' hj'
  simp only [rowBefore, Bool.and_eq_true, Bool.or_eq_true, decide_eq_true_eq, beq_iff_eq] at h
  obtain ⟨hlt, hm⟩ := h
  intro he
  rw [he, hwb] at hwa
  rcases hm with rfl | hm
  · simp only [Nat.mod_zero] at hwa hlt
    omega
  · have h1 : (w.off % m + a) % m = w.off % m + a := Nat.mod_eq_of_lt (by omega)
    have h2 : (w'.off % m + b) % m = w'.off % m + b := Nat.mod_eq_of_lt (by omega)
    omega

theorem rowOff_ne_of_apart {w w' : Row} (h : rowsApart w w' = true) {i j i' j' : Nat} (hi : i < w.nI) (hj : j < w.nJ)
    (hi' : i' < w'.nI) (hj' : j' < w'.nJ) : rowOff w i j ≠ rowOff w' i' j' := by
  simp only [rowsApart, List.any_eq_true, Bool.or_eq_true] at h
  obtain ⟨m, -, hb | hb⟩ := h
  · exact rowOff_ne_of_before hb hi hj hi' hj'
  · exact (rowOff_ne_of_before hb hi' hj' hi hj).symm

/-- What `ixAt` answers are indices of the row whose offset was asked for. -/
theorem rowOff_of_ixAt {w : Row} {o i j : Nat} (h : w.ixAt o = some (i, j)) : i < w.nI ∧ j < w.nJ ∧ rowOff w i j = o := by
  unfold Row.ixAt at h
  split at h
  · cases h
  next hoff =>
    simp only [Option.ite_none_right_eq_some, Option.some.injEq, Prod.mk.injEq] at h
    obtain ⟨⟨hi, hj, hz⟩, rfl, rfl⟩ := h
    refine ⟨hi, hj, ?_⟩
    have hI : w.sI * (if w.sI = 0 then 0 else (o - w.off) / w.sI) + (if w.sI = 0 then o - w.off else (o - w.off) % w.sI) = o - w.off := by
      split
      · omega
      · exact Nat.div_add_mod _ _
    generalize (if w.sI = 0 then o - w.off else (o - w.off) % w.sI) = e at hI hz ⊢
    have hJ : w.sJ * (if w.sJ = 0 then 0 else e / w.sJ) + (if w.sJ = 0 then e else e % w.sJ) = e := by
      split
      · omega
      · exact Nat.div_add_mod _ _
    unfold rowOff
    omega

/-- The offset of a placed row at two of its indices is decoded to these indices. -/
theorem ixAt_rowOff {w : Row} (hw : rowPlaced w = true) {i j : Nat} (hi : i < w.nI) (hj : j < w.nJ) :
    w.ixAt (rowOff w i j) = some (i, j) := by
  simp only [rowPlaced, decide_eq_true_eq] at hw
  obtain ⟨-, -, -, hI, hJ, hin, -⟩ := hw
  have hd : rowOff w i j - w.off = w.sI * i + w.sJ * j := by unfold rowOff; omega
  have hlt : w.sI ≠ 0 → w.sJ * j < w.sI := fun h => lt_of_le_of_lt (mul_index_le hj) (hin h)
  have h1 : (if w.sI = 0 then 0 else (w.sI * i + w.sJ * j) / w.sI) = i := by
    split
    · next h => have := hI h; omega
    · next h => rw [Nat.mul_add_div (by omega), Nat.div_eq_of_lt (hlt h), Nat.add_zero]
  have h2 : (if w.sI = 0 then w.sI * i + w.sJ * j else (w.sI * i + w.sJ * j) % w.sI) = w.sJ * j := by
    split
    · next h => rw [h]; omega
    · next h => rw [Nat.mul_add_mod, Nat.mod_eq_of_lt (hlt h)]
  have h3 : (if w.sJ = 0 then 0 else w.sJ * j / w.sJ) = j := by
    split
    · next h => have := hJ h; omega
    · next h => exact Nat.mul_div_cancel_left j (by omega)
  have h4 : (if w.sJ = 0 then w.sJ * j else w.sJ * j % w.sJ) = 0 := by
    split
    · next h => rw [h, Nat.zero_mul]
    · exact Nat.mul_mod_right _ _
  unfold Row.ixAt
  rw [if_neg (by unfold rowOff; omega)]
  simp only [hd, h1, h2, h3, h4, hi, hj, and_self, if_true]

/-! ### The tables -/

theorem mem_regs (r : RegName) : r ∈ r.row.blk.regs := List.contains_iff_mem.mp (by cases r <;> rfl)

theorem rowPlaced_row (r : RegName) : rowPlaced r.row = true := by cases r <;> rfl

theorem mem_allBlks (b : Blk) : b ∈ allBlks := by cases b <;> decide

/-- Any two registers of a block lie apart, checked over the tables. -/
theorem regs_apart : ∀ b ∈ allBlks, ∀ r ∈ b.regs, ∀ r' ∈ b.regs, r ≠ r' → rowsApart r.row r'.row = true := by
  decide +kernel

/-- Any two blocks of a space lie apart, checked over the tables. -/
theorem blks_apart : ∀ b ∈ allBlks, ∀ b' ∈ allBlks, b.space = b'.space → b ≠ b' → b.limit ≤ b'.base ∨ b'.limit ≤ b.base := by
  decide +kernel

/-! ### Decoding an address -/

/-- A search finds the one element that passes the test. -/
theorem find?_eq_some_of_unique {α : Type} {p : α → Bool} {l : List α} {a : α} (ha : a ∈ l) (hp : p a = true)
    (hu : ∀ b ∈ l, p b = true → b = a) : l.find? p = some a := by
  cases h : l.find? p with
  | none => exact absurd hp (List.find?_eq_none.mp h a ha)
  | some b => rw [hu b (List.mem_of_find?_eq_some h) (List.find?_some h)]

/-- A search finds the answer of the one element that has any. -/
theorem findSome?_eq_some_of_unique {α β : Type} {f : α → Option β} {l : List α} {a : α} {y : β} (ha : a ∈ l) (hf : f a = some y)
    (hu : ∀ b ∈ l, b ≠ a → f b = none) : l.findSome? f = some y := by
  cases h : l.findSome? f with
  | none => rw [List.findSome?_eq_none_iff.mp h a ha] at hf; cases hf
  | some z =>
    obtain ⟨b, hb, hz⟩ := List.exists_of_findSome?_eq_some h
    by_cases hba : b = a
    · rw [← hz, hba, hf]
    · rw [hu b hb hba] at hz; cases hz

/-- Within a block, a register's offset decodes to that register at its indices. -/
theorem at_rowOff (r : RegName) (p : Nat) {i j : Nat} (hi : i < r.row.nI) (hj : j < r.row.nJ) :
    r.row.blk.at p (rowOff r.row i j) = some { r := r, p := p, i := i, j := j } := by
  refine findSome?_eq_some_of_unique (mem_regs r) (by rw [ixAt_rowOff (rowPlaced_row r) hi hj]; rfl) fun r' hr' hne => ?_
  have hap := regs_apart _ (mem_allBlks _) r' hr' r (mem_regs r) hne
  rw [Option.map_eq_none_iff]
  cases h : r'.row.ixAt (rowOff r.row i j) with
  | none => rfl
  | some ij =>
    obtain ⟨hi', hj', he⟩ := rowOff_of_ixAt h
    exact absurd he (rowOff_ne_of_apart hap hi' hj' hi hj)

/-- A place within a block's range lies in that block. -/
theorem blkOf_eq (b : Blk) {o : Nat} (h1 : b.base ≤ o) (h2 : o < b.limit) : blkOf b.space o = some b := by
  refine find?_eq_some_of_unique (mem_allBlks b) (by simp [h1, h2]) fun b' hb' h => ?_
  simp only [decide_eq_true_eq] at h
  obtain ⟨hs, h3, h4⟩ := h
  by_contra hne
  have := blks_apart b' hb' b (mem_allBlks b) hs hne
  omega

/-- The ranges of the spaces: a pack's blocks lie in 0x40_0000 bytes, the system's from 0x5000_0000 to 0x5700_0000 (R297). -/
theorem blk_range (b : Blk) : (b.space = .pack → b.limit ≤ 0x400000) ∧ (b.space = .sys → 0x50000000 ≤ b.base ∧ b.limit ≤ 0x57000000) := by
  cases b <;> decide

/-- A register's place within its space. -/
def placeOf (x : RegAt) : Nat := x.r.row.blk.base + rowOff x.r.row x.i x.j

theorem addr_eq (x : RegAt) : x.addr = (if x.r.row.blk.space = .pack then 0x40000000 + x.p * 0x1000000 else 0) + placeOf x := by
  simp only [RegAt.addr, placeOf, rowOff]
  omega

section
variable {x : RegAt} (hi : x.i < x.r.row.nI) (hj : x.j < x.r.row.nJ)
include hi hj

theorem placeOf_lt : placeOf x < x.r.row.blk.limit := by
  have hp := rowPlaced_row x.r
  simp only [rowPlaced, decide_eq_true_eq] at hp
  obtain ⟨-, -, -, -, -, -, hlim⟩ := hp
  have := mul_index_le (s := x.r.row.sI) hi
  have := mul_index_le (s := x.r.row.sJ) hj
  unfold placeOf rowOff
  omega

theorem at_placeOf : x.r.row.blk.at x.p (placeOf x - x.r.row.blk.base) = some x := by
  rw [placeOf, Nat.add_sub_cancel_left, at_rowOff x.r x.p hi hj]

theorem blkOf_placeOf : blkOf x.r.row.blk.space (placeOf x) = some x.r.row.blk :=
  blkOf_eq _ (Nat.le_add_right _ _) (placeOf_lt hi hj)

theorem regAt_addr_pack (hs : x.r.row.blk.space = .pack) (hp : x.p < 4) : regAt x.addr = some x := by
  have hlt := placeOf_lt hi hj
  have hlim := (blk_range x.r.row.blk).1 hs
  have ha : x.addr = 0x40000000 + x.p * 0x1000000 + placeOf x := by rw [addr_eq, if_pos hs]
  have hmod : x.addr % 0x1000000 = placeOf x := by omega
  have hdiv : (x.addr - 0x40000000) / 0x1000000 = x.p := by omega
  have hb : blkAt x.addr = some (x.r.row.blk, x.p) := by
    rw [blkAt, if_pos (by omega), hmod, hdiv, ← hs, blkOf_placeOf hi hj]
    rfl
  simp only [regAt, hb]
  rw [if_pos hs, hmod, at_placeOf hi hj]

theorem regAt_addr_sys (hs : x.r.row.blk.space = .sys) (hp : x.p = 0) : regAt x.addr = some x := by
  have hlt := placeOf_lt hi hj
  obtain ⟨hbase, hlim⟩ := (blk_range x.r.row.blk).2 hs
  have hge : x.r.row.blk.base ≤ placeOf x := Nat.le_add_right _ _
  have ha : x.addr = placeOf x := by rw [addr_eq, hs]; simp
  have hb : blkAt x.addr = some (x.r.row.blk, x.p) := by
    rw [blkAt, if_neg (by omega), if_pos (by omega), ha, ← hs, blkOf_placeOf hi hj, hp]
    rfl
  simp only [regAt, hb]
  rw [if_neg (by simp [hs]), ha, at_placeOf hi hj]

theorem privAt_addr (hs : x.r.row.blk.space = .priv) : privAt x.p x.addr = some x := by
  have ha : x.addr = placeOf x := by rw [addr_eq, hs]; simp
  have hb : blkOf .priv x.addr = some x.r.row.blk := by rw [ha, ← hs, blkOf_placeOf hi hj]
  simp only [privAt, hb]
  rw [ha, at_placeOf hi hj]

end

theorem base_mod_four (b : Blk) : b.base % 4 = 0 := by cases b <;> rfl

theorem addr_mod_four (x : RegAt) : x.addr % 4 = 0 := by
  have hp := rowPlaced_row x.r
  simp only [rowPlaced, decide_eq_true_eq] at hp
  obtain ⟨ho, hI, hJ, -⟩ := hp
  have hb := base_mod_four x.r.row.blk
  have h1 : x.r.row.sI * x.i % 4 = 0 := by rw [Nat.mul_mod, hI, Nat.zero_mul, Nat.zero_mod]
  have h2 : x.r.row.sJ * x.j % 4 = 0 := by rw [Nat.mul_mod, hJ, Nat.zero_mul, Nat.zero_mod]
  rw [addr_eq, placeOf, rowOff]
  split <;> omega

/-- Settles O57, space by space: a row's place decodes to its indices, and no other row of the block, and no other block of the space,
lies there. -/
theorem registerAddressesRoundTrip : Obligations.RegisterAddressesRoundTrip := by
  intro x hi hj
  refine ⟨addr_mod_four x, ?_⟩
  cases hs : x.r.row.blk.space with
  | pack => exact regAt_addr_pack hi hj hs
  | sys => exact regAt_addr_sys hi hj hs
  | priv => exact privAt_addr hi hj hs

end Sys2Proof.Proofs
end

section
/-! Special registers and returns from exceptions (R247, R260, R261, R263, R283, R285): what mfs reads and mts writes, and where eret and
erets leave the core. -/

namespace Sys2Proof.Proofs
open Sys2Proof Sys2Proof.Machine Sys2Proof.Laws

/-! ### A core written with what it holds -/

/-- Two states that differ at most in how the map of the cores is written down. -/
structure CoresAlike (s t : State) : Prop where
  rest : t = { s with cores := t.cores }
  core : ∀ c, t.core c = s.core c

theorem coresAlike_setCore_core (s : State) (c : Nat) : CoresAlike s (s.setCore c (s.core c)) :=
  ⟨rfl, fun d => by rw [core_setCore]; split <;> simp_all⟩

theorem CoresAlike.updCore {s t : State} (h : CoresAlike s t) (c : Nat) (f : Core → Core) :
    CoresAlike (s.updCore c f) (t.updCore c f) := by
  refine ⟨?_, fun d => by simp only [core_updCore, h.core]⟩
  rw [h.rest]
  rfl

theorem CoresAlike.btbHit {s t : State} (h : CoresAlike s t) (c : Nat) (e a : Word) : CoresAlike (s.btbHit c e a) (t.btbHit c e a) := by
  unfold State.btbHit
  rw [h.core]
  dsimp only
  split
  · split
    · exact h.updCore c _
    · exact (h.updCore c _).updCore c _
  · exact h.updCore c _

theorem CoresAlike.wrapped {s t : State} (h : CoresAlike s t) (c : Nat) (k : Bank) (e : Word) :
    CoresAlike (s.wrapped c k e) (t.wrapped c k e) := by
  unfold State.wrapped
  split
  · exact h.btbHit c e _
  · exact h

/-- What a completed instruction leaves does not depend on how the map of the cores is written down. -/
theorem CoresAlike.retired {f g t : State} {c b : Nat} {k : Bank} {old ld : List (Nat × Word)} {hold : Bool} (h : CoresAlike f g)
    (ht : Retired f t c b k old ld hold) : Retired g t c b k old ld hold := by
  obtain ⟨hbank, hbanks, hcore, hcores, hpos, hregs, hrest⟩ := ht
  have hb (c' b' : Nat) : g.bank c' b' = f.bank c' b' := by rw [h.rest]; rfl
  have hr (r : RegName) (p i j : Nat) : g.rd r p i j = f.rd r p i j := by rw [h.rest]; rfl
  refine ⟨hbank, fun c' b' hb' hne => (hbanks c' b' hb' hne).trans (hb c' b').symm, by rw [h.core, hcore],
    fun c' hc => (hcores c' hc).trans (h.core c').symm, ?_, fun r p i j hne => (hregs r p i j hne).trans (hr r p i j).symm, ?_⟩
  · rw [hpos, State.f, State.f, hr]
  · rw [hrest, h.rest]

/-! ### Special registers -/

theorem sprListed_of {n : Nat} (h : n ≤ 6 ∨ 8 ≤ n ∧ n ≤ 16) : sprListed n = true := decide_eq_true h

/-- Core `c`'s number, and whether it runs in a pair (R260). -/
theorem cid_eq (s : State) (c : CoreIx) : s.cid c = BitVec.ofNat 32 (c.val + 16 * (s.bit F.CHK_STAT.paired c).toNat) := by
  unfold State.cid
  congr 1
  split <;> omega

/-- The value of each special register by its number (R260). -/
theorem spr_value (s : State) (c : CoreIx) (k : Bank) (n : Nat) :
    (n = 0 → s.spr c k n = k.status) ∧ (n = 1 → s.spr c k n = k.epc) ∧ (n = 2 → s.spr c k n = k.ecause) ∧
    (n = 3 → s.spr c k n = k.eval) ∧ (n = 4 → s.spr c k n = (s.core c).vbase) ∧ (n = 5 → s.spr c k n = (s.core c).fcsr) ∧
    (n = 6 → s.spr c k n = BitVec.ofNat 32 (c.val + 16 * (s.bit F.CHK_STAT.paired c).toNat)) ∧
    (8 ≤ n → s.spr c k n = k.lp.get 0 (n - 8)) := by
  rw [← cid_eq]
  refine ⟨?_, ?_, ?_, ?_, ?_, ?_, ?_, fun h8 => ?_⟩
  iterate 7 rintro rfl; rfl
  unfold State.spr
  iterate 7 rw [if_neg (by omega)]

/-- The bank that an mts of `v` to special register `n` leaves. -/
def mtsBank (owns : Bool) (k : Bank) (n : Nat) (v : Word) : Bank :=
  if n = 0 then k.writeStatus owns v
  else if n = 1 then { k with epc := v &&& 0xFFFFFFFC }
  else if n = 3 then { k with eval := v }
  else if 8 ≤ n then { k with lp := k.lp.set 0 (n - 8) (if (n - 8) % 3 = 2 then v else v &&& 0xFFFFFFFC) }
  else k

/-- The core that an mts of `v` to special register `n` leaves: FCSR takes 7 bits (R260). -/
def mtsCore (q : Core) (n : Nat) (v : Word) : Core := { q with fcsr := if n = 5 then v &&& 0x7F else q.fcsr }

theorem mtsCore_of_ne {n : Nat} (h : n ≠ 5) (q : Core) (v : Word) : mtsCore q n v = q := by simp [mtsCore, h]

theorem mtsBank_frame (owns : Bool) (k : Bank) (n : Nat) (v : Word) :
    mtsBank owns k n v = { k with status := (mtsBank owns k n v).status, epc := if n = 1 then v &&& 0xFFFFFFFC else k.epc,
                                  eval := if n = 3 then v else k.eval, lp := (mtsBank owns k n v).lp } := by
  unfold mtsBank Bank.writeStatus
  split_ifs <;> simp_all

theorem mtsBank_status_of_ne {n : Nat} (h : n ≠ 0) (owns : Bool) (k : Bank) (v : Word) : (mtsBank owns k n v).status = k.status := by
  rw [mtsBank, if_neg h]
  split_ifs <;> rfl

/-- STATUS by an mts: um and dfh stay, fa becomes 1 only for the owner, and the reserved bits stay zero (R260, R261, R293). -/
theorem mtsBank_status (owns : Bool) (k : Bank) (v : Word) {i : Nat} (hi : i < 32) :
    (mtsBank owns k 0 v).status.getLsbD i =
      if i = 1 ∨ i = 7 then k.status.getLsbD i else if i = 3 then v.getLsbD 3 && owns else decide (i < 7) && v.getLsbD i := by
  simp only [mtsBank, if_true, Bank.writeStatus, BitVec.getLsbD_or, BitVec.getLsbD_and]
  cases owns <;> interval_cases i <;> simp

theorem mtsBank_lp (owns : Bool) (k : Bank) (n m : Nat) (v : Word) :
    (mtsBank owns k n v).lp.get 0 m =
      if 8 ≤ n ∧ m = n - 8 then (if m % 3 = 2 then v else v &&& 0xFFFFFFFC) else k.lp.get 0 m := by
  by_cases h8 : 8 ≤ n
  · rw [mtsBank, if_neg (by omega), if_neg (by omega), if_neg (by omega), if_pos h8]
    simp only [SMap_get_set, h8, true_and]
    split
    · next hm => rw [hm]
    · rfl
  · rw [if_neg (by omega)]
    unfold mtsBank Bank.writeStatus
    split_ifs <;> rfl

/-- What mts does past its checks (R260): one write, of the bank or of FCSR. -/
def mtsRun (c r n : Nat) (s : State) (k : Bank) : Ires :=
  .done (if n = 5 then s.setCore c (mtsCore (s.core c) n (k.reg r)) else s) (mtsBank (s.ownsFp c (s.runBank c)) k n (k.reg r))

theorem execMts_eq (c : CoreIx) (r : RegIx) (spr : BitVec 16) (s : State) :
    execMts c r spr s = s.instr c (encI 0x19 0 r spr) (!sprListed spr.toNat) (sprMachine spr.toNat) (spr.toNat == 5)
      (mtsRun c r spr.toNat) := by
  unfold execMts
  refine congrArg (s.instr c _ _ _ _) (funext fun s => funext fun k => ?_)
  unfold mtsRun mtsBank mtsCore
  split_ifs <;> simp_all [State.updCore]

section
variable {c : CoreIx} {r : RegIx} {spr : BitVec 16} {s g : State} (hn : spr.toNat ≤ 6 ∨ 8 ≤ spr.toNat ∧ spr.toNat ≤ 16)
  (hp : spr.toNat ≤ 4 → (s.front c).st 1 = false) (hg : if spr.toNat = 5 then s.fpBegun c = (g, true) else g = s.begun c)
include hn hp hg

/-- mfs puts the value of the special register into its destination. -/
theorem exec_mfs (hr : CoreReady s c (encI 0x18 r 0 spr)) :
    ∃ t, exec (.mfs c r spr) s = .next t ∧
      Stepped g t c (s.runBank c) ((g.bank c (s.runBank c)).setReg r (g.spr c (g.bank c (s.runBank c)) spr.toNat))
        (s.cur c).pc (s.cur c).ldNew [] false := by
  show ∃ t, execMfs c r spr s = .next t ∧ _
  unfold execMfs
  simp only [sprListed_of hn, Bool.not_true]
  exact instr_retires s c _ _ _ _ _ _ _ _ g hr (fun h => hp (of_decide_eq_true h)) (by simpa using hg) rfl

/-- mts writes the special register, in the bank or in the core. -/
theorem exec_mts (hr : CoreReady s c (encI 0x19 0 r spr)) :
    ∃ t, exec (.mts c r spr) s = .next t ∧
      Stepped (g.setCore c (mtsCore (g.core c) spr.toNat ((g.bank c (s.runBank c)).reg r))) t c (s.runBank c)
        (mtsBank (g.ownsFp c (g.runBank c)) (g.bank c (s.runBank c)) spr.toNat ((g.bank c (s.runBank c)).reg r))
        (s.cur c).pc (s.cur c).ldNew [] false := by
  show ∃ t, execMts c r spr s = .next t ∧ _
  rw [execMts_eq, sprListed_of hn]
  obtain ⟨t, ht, hst⟩ := instr_retires s c _ _ (spr.toNat == 5) (mtsRun c r spr.toNat) _ _ _ _ g hr
    (fun h => hp (of_decide_eq_true h)) (by simpa using hg) rfl
  refine ⟨t, ht, ?_⟩
  by_cases h5 : spr.toNat = 5
  · rwa [if_pos h5] at hst
  · rw [if_neg h5] at hst
    rw [mtsCore_of_ne h5]
    exact ((coresAlike_setCore_core g c).wrapped c _ _).retired hst

end

/-! ### Returns from an exception -/

/-- STATUS after a return: gm, um and lp from their previous-state bits, dfh cleared, the rest kept (R263, R283). -/
theorem returnStatus_bit (w : Word) {i : Nat} (hi : i < 32) :
    (returnStatus w).getLsbD i = if i < 3 then w.getLsbD (i + 4) else decide (i < 7) && w.getLsbD i := by
  simp only [returnStatus, BitVec.getLsbD_or, BitVec.getLsbD_and, BitVec.getLsbD_ushiftRight]
  interval_cases i <;> simp

/-- What a return does past its checks, in the state `s` with the running bank `k`: to the instruction at EPC or, with `next`, to its
successor (R259, R263). -/
def returnRun (c : Nat) (next : Bool) (s : State) (k : Bank) : Ires :=
  let k1 := { k with status := returnStatus k.status }
  if s.bit F.SCHED_STAT.fast c && !k.st 7 then
    let g := s.clrb F.SCHED_STAT.fast c
    if g.idle c then .done g k1 (some k1.pc) [] true
    else
      let kb := g.bank c (g.runBank c)
      .done ((if next then g.wrapped c kb k.epc else g).setBank c (g.runBank c) (kb.returnTo k.epc next)) k1 (some k1.pc) [] true
  else .done (if next then s.wrapped c k1 k.epc else s) (k1.returnTo k.epc next) (some (k1.returnTo k.epc next).pc) [] true

theorem eretTo_eq (s : State) (c : CoreIx) (fn : Nat) (next : Bool) :
    s.eretTo c fn next = s.instr c (encS 0 fn) false true false (returnRun c next) := rfl

/-- A return to the instruction at EPC or, with `next`, to its successor (R259, R263): in its own bank, or from the fast bank, which stays
at the return (log 14), to no bank where none ran before (log 140), or to the bank that was interrupted (R285). -/
theorem eretTo_retires {s : State} {c : CoreIx} (fn : Nat) (next : Bool) (hum : (s.front c).st 1 = false) (hr : CoreReady s c (encS 0 fn)) :
    let f := s.begun c
    let k := s.front c
    let k' : Bank := { k with status := returnStatus k.status }
    let fast := f.bit F.SCHED_STAT.fast c && !k.st 7
    let g := f.clrb F.SCHED_STAT.fast c
    let kb := g.bank c (g.runBank c)
    let leaves (t s3 : State) (k3 : Bank) : Prop := Retired s3 t c (s.runBank c) k3 (s.cur c).ldNew [] true
    ∃ t, s.eretTo c fn next = .next t ∧
      (fast = false → leaves t (if next then f.wrapped c k' k.epc else f) (k'.returnTo k.epc next)) ∧
      (fast = true → g.idle c = true → leaves t g k') ∧
      (fast = true → g.idle c = false →
        leaves t ((if next then g.wrapped c kb k.epc else g).setBank c (g.runBank c) (kb.returnTo k.epc next)) k') := by
  intro f k k' fast g kb leaves
  have run (s3 : State) (k3 : Bank) (hb : returnRun c next f k = .done s3 k3 (some k3.pc) [] true) :=
    instr_retires_at s c _ true false _ s3 k3 k3.pc [] true f hr (fun _ => hum) rfl hb
  rw [eretTo_eq]
  cases hf : fast with
  | false =>
    obtain ⟨t, ht, hret⟩ := run (if next then f.wrapped c k' k.epc else f) (k'.returnTo k.epc next) (if_neg (ne_true_of_eq_false hf))
    exact ⟨t, ht, fun _ => hret, nofun, nofun⟩
  | true =>
    cases hi : g.idle c with
    | true =>
      obtain ⟨t, ht, hret⟩ := run g k' ((if_pos hf).trans (if_pos hi))
      exact ⟨t, ht, nofun, fun _ _ => hret, fun _ => nofun⟩
    | false =>
      obtain ⟨t, ht, hret⟩ := run _ k' ((if_pos hf).trans (if_neg (ne_true_of_eq_false hi)))
      exact ⟨t, ht, nofun, fun _ => nofun, fun _ _ => hret⟩

/-- Settles O7: each instruction completes with the one result that its form computes, and the clauses read that result off. -/
theorem specialRegistersAndReturnsComplete : Obligations.SpecialRegistersAndReturnsComplete := by
  constructor
  · intro c r spr s g n hn hp hg b k v
    constructor
    · intro hr
      obtain ⟨t, ht, hst⟩ := exec_mfs hn hp hg hr
      exact ⟨t, _, ht, hst, spr_value _ _ _ _⟩
    · intro hr
      obtain ⟨t, ht, hst⟩ := exec_mts hn hp hg hr
      refine ⟨t, _, _, ht, hst, rfl, mtsBank_frame _ _ _ _, fun h0 => mtsBank_status_of_ne h0 _ _ _, fun h0 i hi => ?_, fun m => mtsBank_lp _ _ _ m _⟩
      rw [show spr.toNat = 0 from h0]
      exact mtsBank_status _ k v hi
  · intro c s hum
    exact ⟨returnStatus (s.front c).status, fun i hi => returnStatus_bit _ hi, eretTo_retires 0 false hum, eretTo_retires 1 true hum⟩

end Sys2Proof.Proofs
end

section
/-! Accesses of plain registers (R8, R9, R30, R363, R372, R415): who may write them, what an accepted write and a clearing read leave, and
what a refused access leaves. -/

namespace Sys2Proof.Proofs
open Sys2Proof Sys2Proof.Machine Sys2Proof.Laws

/-! ### What a refusal leaves -/

/-- Between two states nothing but the logs and their loss registers has changed. -/
structure LogsOnly (s t : State) : Prop where
  rest : t = { s with regs := t.regs, log := t.log }
  regs : KeepsRegs s t lossRegs

theorem LogsOnly.refl (s : State) : LogsOnly s s := ⟨rfl, fun _ _ _ _ _ => rfl⟩

theorem LogsOnly.trans {s t u : State} (h : LogsOnly s t) (g : LogsOnly t u) : LogsOnly s u :=
  ⟨by rw [g.rest, h.rest], fun r p i j hr => (g.regs r p i j hr).trans (h.regs r p i j hr)⟩

theorem logsOnly_log (s : State) (l : LogSt) : LogsOnly s { s with log := l } := ⟨rfl, fun _ _ _ _ _ => rfl⟩

theorem logsOnly_wr (s : State) {r : RegName} (hr : r ∈ lossRegs) (v : Word) (p i j : Nat) : LogsOnly s (s.wr r v p i j) :=
  ⟨rfl, fun _ _ _ _ h' => rd_wr_name s (fun he => h' (by rw [he]; exact hr)) v _ _ _ _ _ _⟩

theorem logsOnly_inc (s : State) {f : Fld} (hr : f.r ∈ lossRegs) (p i j : Nat) : LogsOnly s (s.inc f p i j) := by
  unfold State.inc
  split <;> exact logsOnly_wr s hr _ _ _ _

theorem logsOnly_setPair (s : State) {lo hi : RegName} (hl : lo ∈ lossRegs) (hh : hi ∈ lossRegs) (t : Tag) (p i j : Nat) :
    LogsOnly s (s.setPair lo hi t p i j) := (logsOnly_wr s hl _ _ _ _).trans (logsOnly_wr _ hh _ _ _ _)

/-- The loss of an entry: the tags of the first and the last loss, and the count (R319). -/
theorem logsOnly_loss (s : State) {fl fh ll lh : RegName} {f : Fld} (b : Bool) (t : Tag) (n : Nat) (h : ∀ r ∈ [fl, fh, ll, lh, f.r], r ∈ lossRegs) :
    LogsOnly s (((if b then s.setPair fl fh t 0 n else s).setPair ll lh t 0 n).inc f 0 n) := by
  refine LogsOnly.trans ?_ ((logsOnly_setPair _ (h ll (by simp)) (h lh (by simp)) t 0 n 0).trans (logsOnly_inc _ (h f.r (by simp)) 0 n 0))
  split
  · exact logsOnly_setPair s (h fl (by simp)) (h fh (by simp)) t 0 n 0
  · exact LogsOnly.refl s

theorem logsOnly_lose (s : State) (lg : Nat) (t : Tag) : LogsOnly s (s.lose lg t) := by
  unfold State.lose
  split
  · simpa using logsOnly_loss s (f := F.TEN_VLOG_STAT.lost) (decide (s.f F.TEN_VLOG_STAT.lost 0 lg = 0)) t lg (by decide)
  · split
    · simpa using logsOnly_loss s (f := F.MEM_ELOG_STAT.lost) (decide (s.f F.MEM_ELOG_STAT.lost = 0)) t 0 (by decide)
    · simpa using logsOnly_loss s (f := F.JNL_SLOG_STAT.lost) (decide (s.f F.JNL_SLOG_STAT.lost = 0)) t 0 (by decide)

theorem logsOnly_stageRec (s : State) (lg : Nat) (r : LogRec) : LogsOnly s (s.stageRec lg r) := by
  unfold State.stageRec
  refine LogsOnly.trans ?_ (logsOnly_log _ _)
  split
  · split
    · exact (logsOnly_log s _).trans (logsOnly_lose _ _ _)
    · exact LogsOnly.refl s
  · exact LogsOnly.refl s

theorem logsOnly_violation (s : State) (q : Req) (a k : Nat) (acc : AccKind) (o : Option Owner) (d dom : Nat) :
    LogsOnly s (s.violation q a k acc o d dom) := logsOnly_stageRec _ _ _

/-- An access that is refused and entered in the violation log: an error response, and nothing else but the logs. -/
theorem errResp_of_logsOnly {s t : State} (h : LogsOnly s t) :
    ∃ u, errResp t = .next u ∧ u.resp.err = true ∧ KeepsRegs s u lossRegs ∧
      u = { s with regs := u.regs, log := u.log, resp := u.resp } :=
  ⟨_, rfl, rfl, h.regs, by rw [h.rest]⟩

/-! ### The address of an access -/

/-- Only a request over the fabric can be without a local tenant, and it does not reach the debug block. -/
theorem debugAccess_of_unmapped {s : State} {m : Master} (h : (s.req m).mapped = false) (a : Nat) : debugAccess m a = false := by
  cases m with
  | core c => cases h
  | _ => rfl

theorem cmdWrite_unmapped {s : State} {m : Master} (h : (s.req m).mapped = false) (a : Nat) (v : Word) :
    s.cmdWrite m a v = errResp (s.violation (s.req m) a 11 .write none) := by
  simp [State.cmdWrite, debugAccess_of_unmapped h, h]

theorem cmdRead_unmapped {s : State} {m : Master} (h : (s.req m).mapped = false) (a : Nat) :
    s.cmdRead m a = errResp (s.violation (s.req m) a 11 .read none) := by
  simp [State.cmdRead, debugAccess_of_unmapped h, h]

theorem debugAccess_aligned (m : Master) (a : Nat) : debugAccess m (a - a % 4) = debugAccess m a := by
  cases m with
  | core c => exact decide_eq_decide.mpr (by omega)
  | _ => rfl

/-- A word write acts on the aligned word (log 26). -/
theorem cmdWrite_aligned {s : State} {m : Master} (hm : (s.req m).mapped = true) (a : Nat) (v : Word) :
    s.cmdWrite m a v = s.cmdWrite m (a - a % 4) v := by
  have h4 : a - a % 4 - (a - a % 4) % 4 = a - a % 4 := by omega
  simp only [State.cmdWrite, debugAccess_aligned, hm, h4]
  rfl

/-- A word read acts on the aligned word (log 26). -/
theorem cmdRead_aligned {s : State} {m : Master} (hm : (s.req m).mapped = true) (a : Nat) : s.cmdRead m a = s.cmdRead m (a - a % 4) := by
  have h4 : a - a % 4 - (a - a % 4) % 4 = a - a % 4 := by omega
  simp only [State.cmdRead, debugAccess_aligned, hm, h4]
  rfl

/-- Where an address of a register block lies: in none of the other ranges of the local map (R297). -/
theorem regSpace_range {b : Nat} (h : regSpace b = true) : 0x40000000 ≤ b ∧ b < 0x57000000 := by
  unfold regSpace blkAt at h
  split_ifs at h
  · omega
  · omega
  · cases h

/-- An address of a register block is neither in the debug block nor in a fabric window. -/
theorem regSpace_route {b : Nat} (h : regSpace b = true) (m : Master) : debugAccess m b = false ∧ isWin b = false := by
  obtain ⟨h1, h2⟩ := regSpace_range h
  have hw : isWin b = false := decide_eq_false (by omega)
  refine ⟨?_, hw⟩
  cases m with
  | core c => exact decide_eq_false (by omega)
  | _ => rfl

section
variable {s : State} {m : Master} {b : Nat} (ha : b % 4 = 0) (hs : regSpace b = true)
include ha hs

/-- A word write within a register block goes to the local map. -/
theorem cmdWrite_local (hm : (s.req m).mapped = true) (v : Word) : s.cmdWrite m b v = rspOut (s.localWrite (s.req m) b 4 v) := by
  obtain ⟨hd, hw⟩ := regSpace_route hs m
  simp only [State.cmdWrite, State.busWrite, hd, hm, ha, hw, Nat.sub_zero, Bool.false_eq_true, if_false, Bool.not_true]
  cases (s.req m).m <;> rfl

/-- A word read within a register block goes to the local map. -/
theorem cmdRead_local (hm : (s.req m).mapped = true) : s.cmdRead m b = rspOut (s.localRead (s.req m) b 4) := by
  obtain ⟨hd, hw⟩ := regSpace_route hs m
  simp only [State.cmdRead, State.busRead, hd, hm, ha, hw, Nat.sub_zero, Bool.false_eq_true, if_false, Bool.not_true]
  cases (s.req m).m <;> rfl

theorem localWrite_reserved (hsec : isSec b = false) (hn : regAt b = none) (q : Req) (v : Word) : s.localWrite q b 4 v = (s, .ok 0) := by
  simp [State.localWrite, isMem_reg (regSpace_range hs).1, hsec, hs, ha, hn, State.regWriteAt]

theorem localRead_reserved (hsec : isSec b = false) (hn : regAt b = none) (q : Req) : s.localRead q b 4 = (s, .ok 0) := by
  simp [State.localRead, isMem_reg (regSpace_range hs).1, hsec, hs, ha, hn, State.regReadAt]

end

/-- A write that the check of its register refuses is entered in the violation log. -/
theorem regWriteAt_viol {s : State} {q : Req} {x : RegAt} {a k : Nat} {v : Word} (hg : (s.guard q x).wr = .viol k) :
    s.regWriteAt q (some x) a v = (s.violation q a k .write (s.guard q x).own, .refused) := by
  simp only [State.regWriteAt, hg]

/-! ### Where a decoded register lies -/

theorem blk_of_mem_regs : ∀ b ∈ allBlks, ∀ r ∈ b.regs, r.row.blk = b := by decide +kernel

/-- What an address decodes to is a register of a block, at indices in its range; outside the packs it has no pack. -/
theorem regAt_inv {a : Nat} {x : RegAt} (h : regAt a = some x) :
    x.i < x.r.row.nI ∧ x.j < x.r.row.nJ ∧ (x.r.row.blk.space = .sys → x.p = 0) := by
  unfold regAt at h
  split at h
  · next b p hb =>
    obtain ⟨r, hr, hx⟩ := List.exists_of_findSome?_eq_some h
    obtain ⟨⟨i, j⟩, hij, rfl⟩ := Option.map_eq_some_iff.mp hx
    obtain ⟨hi, hj, -⟩ := rowOff_of_ixAt hij
    refine ⟨hi, hj, fun hs => ?_⟩
    rw [blk_of_mem_regs b (mem_allBlks b) r hr] at hs
    unfold blkAt at hb
    split_ifs at hb
    · obtain ⟨b', hb', he⟩ := Option.map_eq_some_iff.mp hb
      obtain rfl : b' = b := congrArg Prod.fst he
      have hp := List.find?_some hb'
      simp [hs] at hp
    · obtain ⟨b', -, he⟩ := Option.map_eq_some_iff.mp hb
      exact (congrArg Prod.snd he).symm
  · cases h

/-! ### Plain registers -/

/-- Registers of T0 that take a write by their access codes alone. -/
def plainOfT0 : List RegName :=
  [.TRC_CTL, .TRC_STAT, .TRC_CNT, .IMG_STATUS, .IMG_SWAP_SRC, .IMG_SWAP_CTL, .IMG_SWAP_STAT, .IMG_BANK, .SJNL_PSTAT, .SJNL_PFILL, .JNL_SLOG_STAT]

/-- Registers of a DMA channel that take a write by their access codes alone. -/
def plainOfDma : List RegName := [.DMA_CTL, .DMA_LEN, .DMA_NEXT]

/-- Registers of T0 that a read clears. -/
def countsOfT0 : List RegName := [.MEM_ELOG_STAT, .JNL_SLOG_STAT, .TRC_CNT, .SJNL_PFILL, .SJNL_PREC]

/-- Writes of a register by its access codes alone, at its own place. -/
def PlainWrite (s : State) (q : Req) (x : RegAt) : Prop :=
  ∀ v a, s.regWrite q x v a = (s.wr x.r (x.r.row.write (s.rd x.r x.p x.i x.j) v) x.p x.i x.j, .ok)

/-- T0's plain registers: reserved to T0 (R372), and written by their access codes. -/
theorem access_plainOfT0 (s : State) (q : Req) {r : RegName} (h : r ∈ plainOfT0) (p i j : Nat) :
    s.guard q ⟨r, p, i, j⟩ = .t0 q false ∧ PlainWrite s q ⟨r, p, i, j⟩ := by
  unfold plainOfT0 at h
  fin_cases h <;> exact ⟨rfl, fun _ _ => rfl⟩

/-- A channel's plain registers: its owner's (R363), and written by their access codes. -/
theorem access_plainOfDma (s : State) (q : Req) {r : RegName} (h : r ∈ plainOfDma) (i : Nat) :
    s.guard q ⟨r, 0, i, 0⟩ = .owned q (s.owner (.dma i)) ∧ PlainWrite s q ⟨r, 0, i, 0⟩ := by
  unfold plainOfDma at h
  fin_cases h <;> exact ⟨rfl, fun _ _ => rfl⟩

/-- T0's counts: reserved to T0 (R372), and cleared by their read. -/
theorem access_countsOfT0 (s : State) (q : Req) {r : RegName} (h : r ∈ countsOfT0) (p i j : Nat) :
    s.guard q ⟨r, p, i, j⟩ = .t0 q false ∧ s.regRead q ⟨r, p, i, j⟩ = s.plainRead ⟨r, p, i, j⟩ := by
  unfold countsOfT0 at h
  fin_cases h <;> exact ⟨rfl, rfl⟩

/-- A channel's plain registers stand alone: no pack, no second index. -/
theorem plainOfDma_place {r : RegName} (h : r ∈ plainOfDma) : r.row.blk.space = .sys ∧ r.row.nJ = 1 ∧ r ∉ plainOfT0 := by
  unfold plainOfDma at h
  fin_cases h <;> decide

theorem guard_t0_wr (q : Req) : (q.isT0 = true → (Guard.t0 q false).wr = .ok) ∧ (q.isT0 = false → ∃ k, (Guard.t0 q false).wr = .viol k) :=
  ⟨fun h => if_pos h, fun h => ⟨6, if_neg (ne_true_of_eq_false h)⟩⟩

theorem guard_owned_wr (q : Req) (o : Owner) :
    (q.admits o = true → (Guard.owned q o).wr = .ok) ∧ (q.admits o = false → ∃ k, (Guard.owned q o).wr = .viol k) :=
  ⟨fun h => if_pos h, fun h => ⟨_, if_neg (ne_true_of_eq_false h)⟩⟩

/-- Every plain register that an address decodes to: its writer may write it by its access codes, and any other is refused. -/
theorem plain_access {s : State} {q : Req} {b : Nat} {x : RegAt} (hx : regAt b = some x) (hr : x.r ∈ plainOfT0 ∨ x.r ∈ plainOfDma) :
    let may := if x.r ∈ plainOfT0 then q.isT0 else q.admits (s.owner (.dma x.i))
    PlainWrite s q x ∧ (may = true → (s.guard q x).wr = .ok) ∧ (may = false → ∃ k, (s.guard q x).wr = .viol k) := by
  intro may
  rcases hr with hr | hr
  · obtain ⟨hg, hw⟩ := access_plainOfT0 s q hr x.p x.i x.j
    have hmay : may = q.isT0 := if_pos hr
    rw [hmay, show s.guard q x = .t0 q false from hg]
    exact ⟨hw, guard_t0_wr q⟩
  · obtain ⟨hs, hJ, hnot⟩ := plainOfDma_place hr
    obtain ⟨-, hj, hp⟩ := regAt_inv hx
    obtain ⟨r, p, i, j⟩ := x
    obtain rfl : p = 0 := hp hs
    obtain rfl : j = 0 := by dsimp only at hj hJ; omega
    obtain ⟨hg, hw⟩ := access_plainOfDma s q hr i
    have hmay : may = q.admits (s.owner (.dma i)) := if_neg hnot
    rw [hmay, hg]
    exact ⟨hw, guard_owned_wr q _⟩

/-! ### The commands -/

/-- A register holds `w`, and nothing else of the state has changed but the answer. -/
def Wrote (s t : State) (x : RegAt) (w : Word) : Prop :=
  t.rd x.r x.p x.i x.j = w ∧ (∀ p i j, ¬ (p = x.p ∧ i = x.i ∧ j = x.j) → t.rd x.r p i j = s.rd x.r p i j) ∧ KeepsRegs s t [x.r] ∧
    t = { s with regs := t.regs, resp := t.resp }

theorem wrote_wr (s : State) (x : RegAt) (w d : Word) (e : Bool) :
    Wrote s { s.wr x.r w x.p x.i x.j with resp := { err := e, data := d } } x w :=
  ⟨rd_wr_self s _ _ _ _ _, fun p i j h => (rd_wr s _ _ _ _ _ _ _ _ _).trans (if_neg fun he => h he.2),
    fun r _ _ _ h => rd_wr_name s (by simpa using h) _ _ _ _ _ _ _, rfl⟩

section
variable {m : Master} {a v : Word} {s : State} (hm : (s.req m).mapped = true)
include hm

theorem registerWrite_eq {x : RegAt} (hx : regAt (a.toNat - a.toNat % 4) = some x) :
    exec (.registerWrite m a v) s = rspOut (s.regWriteAt (s.req m) (some x) (a.toNat - a.toNat % 4) v) := by
  show s.cmdWrite m a.toNat v = _
  rw [cmdWrite_aligned hm, cmdWrite_reg hx (by omega) hm]

theorem rcFieldRead_eq {x : RegAt} (hx : regAt (a.toNat - a.toNat % 4) = some x) :
    exec (.rcFieldRead m a) s = rspOut (s.regReadAt (s.req m) (some x) (a.toNat - a.toNat % 4) 4) := by
  show s.cmdRead m a.toNat = _
  rw [cmdRead_aligned hm, cmdRead_reg hx (by omega) hm]

theorem registerWrite_accepted {x : RegAt} (hx : regAt (a.toNat - a.toNat % 4) = some x) (hw : PlainWrite s (s.req m) x)
    (hg : (s.guard (s.req m) x).wr = .ok) :
    Accepts (exec (.registerWrite m a v) s) fun t => Wrote s t x (x.r.row.write (s.rd x.r x.p x.i x.j) v) := by
  rw [registerWrite_eq hm hx, regWriteAt_ok (by omega) hg (hw _ _)]
  exact ⟨_, rfl, rfl, wrote_wr s x _ 0 false⟩

theorem registerWrite_refused {x : RegAt} (hx : regAt (a.toNat - a.toNat % 4) = some x) {k : Nat} (hg : (s.guard (s.req m) x).wr = .viol k) :
    ∃ t, exec (.registerWrite m a v) s = .next t ∧ t.resp.err = true ∧ KeepsRegs s t lossRegs ∧
      t = { s with regs := t.regs, log := t.log, resp := t.resp } := by
  rw [registerWrite_eq hm hx, regWriteAt_viol hg]
  exact errResp_of_logsOnly (logsOnly_violation _ _ _ _ _ _ _ _)

/-- A read of a count by T0 returns it and clears its rc fields; another tenant's reads zero and clears nothing (R8, R372). -/
theorem rcFieldRead_count {x : RegAt} (hx : regAt (a.toNat - a.toNat % 4) = some x) (hr : x.r ∈ countsOfT0) :
    ((s.req m).isT0 = true → Accepts (exec (.rcFieldRead m a) s) fun t =>
      t.resp.data = s.rd x.r x.p x.i x.j ∧ Wrote s t x (s.rd x.r x.p x.i x.j &&& ~~~x.r.row.rc)) ∧
    ((s.req m).isT0 = false → NoEvent (exec (.rcFieldRead m a) s) s) := by
  obtain ⟨hg, hread⟩ := access_countsOfT0 s (s.req m) hr x.p x.i x.j
  change s.guard (s.req m) x = _ at hg
  change s.regRead (s.req m) x = s.plainRead x at hread
  rw [rcFieldRead_eq hm hx]
  constructor
  · intro h0
    rw [regReadAt_ok (by omega) (by rw [hg]; exact h0), hread]
    exact ⟨_, rfl, rfl, rfl, wrote_wr s x _ _ false⟩
  · intro h0
    have hrd : (s.guard (s.req m) x).rd = false := by rw [hg]; exact h0
    have hreg : (s.guard (s.req m) x).region = false := by rw [hg]; rfl
    simp only [State.regReadAt, hrd, hreg, Bool.false_eq_true, if_false]
    rfl

/-- A reserved address of a register block reads zero and ignores writes (R9). -/
theorem reserved_access (hs : regSpace (a.toNat - a.toNat % 4) = true) (hsec : isSec (a.toNat - a.toNat % 4) = false)
    (hn : regAt (a.toNat - a.toNat % 4) = none) :
    NoEvent (exec (.registerWrite m a v) s) s ∧ NoEvent (exec (.rcFieldRead m a) s) s := by
  constructor
  · show s.cmdWrite m a.toNat v = _
    rw [cmdWrite_aligned hm, cmdWrite_local (by omega) hs hm, localWrite_reserved (by omega) hs hsec hn]
    rfl
  · show s.cmdRead m a.toNat = _
    rw [cmdRead_aligned hm, cmdRead_local (by omega) hs hm, localRead_reserved (by omega) hs hsec hn]
    rfl

end

/-- A request without a local tenant is refused at every address and entered in T0's log (R365, R415). -/
theorem unmapped_refused {m : Master} {s : State} (h : (s.req m).mapped = false) {i : Instr} {a : Nat} {v : Word}
    (hi : exec i s = s.cmdWrite m a v ∨ exec i s = s.cmdRead m a) :
    ∃ t, exec i s = .next t ∧ t.resp.err = true ∧ KeepsRegs s t lossRegs ∧
      t = { s with regs := t.regs, log := t.log, resp := t.resp } := by
  rcases hi with hi | hi
  · rw [hi, cmdWrite_unmapped h]
    exact errResp_of_logsOnly (logsOnly_violation _ _ _ _ _ _ _ _)
  · rw [hi, cmdRead_unmapped h]
    exact errResp_of_logsOnly (logsOnly_violation _ _ _ _ _ _ _ _)

/-- Settles O24: who may write follows from the guard of the register's block, what is written from its access codes. -/
theorem registerWritesFollowAccessCodes : Obligations.RegisterWritesFollowAccessCodes := by
  constructor
  · intro m a v s hm b q sysPlain dmaPlain counts
    refine ⟨fun x hx => ⟨fun hr => ?_, rcFieldRead_count hm hx⟩, fun hs hsec hn => reserved_access hm hs hsec hn⟩
    obtain ⟨hw, hok, hviol⟩ := plain_access (s := s) (q := s.req m) hx hr
    exact ⟨fun h => registerWrite_accepted hm hx hw (hok h),
      fun h => (hviol h).elim fun _ hg => registerWrite_refused hm hx hg⟩
  · intro m a v s h i hi
    have hacc : exec i s = s.cmdWrite m a.toNat v ∨ exec i s = s.cmdRead m a.toNat := by
      simp only [List.mem_cons, List.not_mem_nil, or_false] at hi
      rcases hi with rfl | rfl | rfl | rfl | rfl | rfl | rfl | rfl
      · exact .inl rfl
      · exact .inr rfl
      · exact .inl rfl
      · exact .inl rfl
      · exact .inr rfl
      · exact .inr rfl
      · exact .inl rfl
      · exact .inr rfl
    exact unmapped_refused h hacc

end Sys2Proof.Proofs
end

section
/-! Frames of operations that several families share: which registers an alarm, the end of a recovery, a fault of an axis and a trip of a set
can change, while memory and banks stay; and that fields of one register do not disturb each other. -/

namespace Sys2Proof.Proofs
open Sys2Proof Sys2Proof.Machine Sys2Proof.Laws

/-! ### Fields of one register -/

/-- Two fields have no bit in common. -/
abbrev fldsApart (f g : Fld) : Prop := g.r ≠ f.r ∨ f.lo + f.w ≤ g.lo ∨ g.lo + g.w ≤ f.lo

theorem getLsbD_mask (f : Fld) {k : Nat} (h : k < f.lo ∨ f.lo + f.w ≤ k) : f.mask.getLsbD k = false := by
  simp only [Fld.mask, BitVec.getLsbD_ofNat, Nat.testBit_shiftLeft, Nat.testBit_two_pow_sub_one, Bool.and_eq_false_iff,
    decide_eq_false_iff_not]
  omega

/-- A field write leaves the bits outside the field. -/
theorem getLsbD_put (f : Fld) (w : Word) (n : Nat) {k : Nat} (h : k < f.lo ∨ f.lo + f.w ≤ k) : (f.put w n).getLsbD k = w.getLsbD k := by
  have hn : (BitVec.ofNat 32 ((n % 2 ^ f.w) <<< f.lo)).getLsbD k = false := by
    simp only [BitVec.getLsbD_ofNat, Nat.testBit_shiftLeft, Nat.testBit_mod_two_pow, Bool.and_eq_false_iff, decide_eq_false_iff_not]
    omega
  simp only [Fld.put, BitVec.getLsbD_or, BitVec.getLsbD_and, BitVec.getLsbD_not, getLsbD_mask f h, hn]
  by_cases hk : k < 32
  · simp [hk]
  · simp [BitVec.getLsbD_of_ge w k (by omega)]

/-- A field is left by the write of another one of its register. -/
theorem get_put_apart {f g : Fld} (w : Word) (n : Nat) (h : f.lo + f.w ≤ g.lo ∨ g.lo + g.w ≤ f.lo) : g.get (f.put w n) = g.get w := by
  refine Nat.eq_of_testBit_eq fun i => ?_
  simp only [Fld.get, Nat.testBit_mod_two_pow, Nat.testBit_shiftRight]
  by_cases hi : i < g.w
  · rw [← BitVec.getLsbD, ← BitVec.getLsbD, getLsbD_put f w n (by omega)]
  · simp [hi]

theorem f_put_apart (s : State) {f g : Fld} (h : fldsApart f g) (n p i j p' i' j' : Nat) :
    (s.put f n p i j).f g p' i' j' = s.f g p' i' j' := by
  rcases h with h | h
  · exact f_put_name s h _ _ _ _ _ _ _
  · unfold State.f
    rw [rd_put]
    split
    · next hr =>
      obtain ⟨hr, rfl, rfl, rfl⟩ := hr
      rw [get_put_apart _ _ h, hr]
    · rfl

theorem bit_put (s : State) (f : Fld) (n p i j p' i' j' : Nat) (h : f.lo + f.w ≤ 32) :
    (s.put f n p i j).bit f p' i' j' = if p' = p ∧ i' = i ∧ j' = j then n % 2 ^ f.w != 0 else s.bit f p' i' j' := by
  simp only [State.bit, State.f, rd_put, true_and]
  split
  · rw [Fld_get_put f _ n h]
  · rfl

theorem bit_put_apart (s : State) {f g : Fld} (h : fldsApart f g) (n p i j p' i' j' : Nat) :
    (s.put f n p i j).bit g p' i' j' = s.bit g p' i' j' := congrArg (· != 0) (f_put_apart s h n p i j p' i' j')

/-- A bit reads true at the place where it was set, and as before elsewhere. -/
theorem bit_setb (s : State) (f : Fld) (p i j p' i' j' : Nat) (h : f.lo + f.w ≤ 32 ∧ f.w ≠ 0) :
    (s.setb f p i j).bit f p' i' j' = (decide (p' = p ∧ i' = i ∧ j' = j) || s.bit f p' i' j') := by
  rw [State.setb, bit_put s f _ _ _ _ _ _ _ h.1]
  split <;> simp [*]

theorem bit_clrb (s : State) (f : Fld) (p i j p' i' j' : Nat) (h : f.lo + f.w ≤ 32) :
    (s.clrb f p i j).bit f p' i' j' = (!decide (p' = p ∧ i' = i ∧ j' = j) && s.bit f p' i' j') := by
  rw [State.clrb, bit_put s f _ _ _ _ _ _ _ h]
  split <;> simp [*]

theorem bit_setb_apart (s : State) {f g : Fld} (h : fldsApart f g) (p i j p' i' j' : Nat) :
    (s.setb f p i j).bit g p' i' j' = s.bit g p' i' j' := bit_put_apart s h _ _ _ _ _ _ _

theorem f_inc_apart (s : State) {f g : Fld} (h : fldsApart f g) (p i j p' i' j' : Nat) :
    (s.inc f p i j).f g p' i' j' = s.f g p' i' j' := by
  unfold State.inc
  split <;> exact f_put_apart s h _ _ _ _ _ _ _

theorem bit_inc_apart (s : State) {f g : Fld} (h : fldsApart f g) (p i j p' i' j' : Nat) :
    (s.inc f p i j).bit g p' i' j' = s.bit g p' i' j' := congrArg (· != 0) (f_inc_apart s h p i j p' i' j')

theorem f_setIf_apart (s : State) (c : Bool) {f g : Fld} (h : fldsApart f g) (p i j p' i' j' : Nat) :
    (s.setIf c f p i j).f g p' i' j' = s.f g p' i' j' := by
  cases c
  · rfl
  · exact f_put_apart s h _ _ _ _ _ _ _

theorem bit_setIf_apart (s : State) (c : Bool) {f g : Fld} (h : fldsApart f g) (p i j p' i' j' : Nat) :
    (s.setIf c f p i j).bit g p' i' j' = s.bit g p' i' j' := congrArg (· != 0) (f_setIf_apart s c h p i j p' i' j')

theorem bit_setIf_self (s : State) (c : Bool) (f : Fld) (p i j : Nat) (h : f.lo + f.w ≤ 32 ∧ f.w ≠ 0) :
    (s.setIf c f p i j).bit f p i j = (s.bit f p i j || c) := by
  cases c
  · exact (Bool.or_false _).symm
  · rw [Bool.or_true]
    exact (bit_setb s f p i j p i j h).trans (by simp)

/-- A property that each step of a fold keeps holds at its end, where the step of one element brings it about. -/
theorem foldl_establishes {α : Type} {f : State → α → State} {Q : State → Prop} (keep : ∀ u x, Q u → Q (f u x)) {x : α}
    (est : ∀ u, Q (f u x)) {xs : List α} (hx : x ∈ xs) (s : State) : Q (xs.foldl f s) := by
  induction xs generalizing s with
  | nil => cases hx
  | cons y ys ih =>
    rcases List.mem_cons.mp hx with rfl | hy
    · exact List.foldlRecOn ys f (est s) fun u hu z _ => keep u z hu
    · exact ih hy _

/-! ### Changes within listed registers -/

/-- Between two states no register has changed but those listed, nor the memory, nor a bank. -/
structure Within (rs : List RegName) (s t : State) : Prop where
  mem : t.mem = s.mem
  banks : t.banks = s.banks
  regs : KeepsRegs s t rs

/-- A register of a littermate pair is the pack's or the system's of the same place. -/
theorem pairReg_mem {rs : List RegName} {r : RegName} {n : Nat} (hp : r ∈ rs) (hs : r.sys ∈ rs) : (pairReg n r).1 ∈ rs := by
  unfold pairReg
  split
  · exact hp
  · split <;> assumption

namespace Within

variable {rs : List RegName} {s a t : State}

theorem refl (s : State) : Within rs s s := ⟨rfl, rfl, fun _ _ _ _ _ => rfl⟩

theorem trans (h : Within rs s a) (g : Within rs a t) : Within rs s t :=
  ⟨g.mem.trans h.mem, g.banks.trans h.banks, fun r p i j hr => (g.regs r p i j hr).trans (h.regs r p i j hr)⟩

theorem mono {rs' : List RegName} (h : Within rs s t) (hs : rs ⊆ rs' := by decide) : Within rs' s t :=
  ⟨h.mem, h.banks, fun r p i j hr => h.regs r p i j fun hm => hr (hs hm)⟩

/-- A field of an unlisted register is left. -/
theorem f_eq (h : Within rs s t) (g : Fld) (p i j : Nat) (hg : g.r ∉ rs := by decide) : t.f g p i j = s.f g p i j :=
  congrArg g.get (h.regs g.r p i j hg)

theorem bit_eq (h : Within rs s t) (g : Fld) (p i j : Nat) (hg : g.r ∉ rs := by decide) : t.bit g p i j = s.bit g p i j :=
  congrArg (· != 0) (h.f_eq g p i j hg)

/-- A change of hidden state. -/
theorem hidden (h : Within rs s a) (hr : t.regs = a.regs := by rfl) (hm : t.mem = a.mem := by rfl) (hb : t.banks = a.banks := by rfl) :
    Within rs s t :=
  ⟨hm.trans h.mem, hb.trans h.banks, fun r p i j hn => by unfold State.rd; rw [hr]; exact h.regs r p i j hn⟩

theorem log (h : Within rs s a) {x : LogSt} : Within rs s { a with log := x } := h.hidden
theorem lsh (h : Within rs s a) {x : LshSt} : Within rs s { a with lsh := x } := h.hidden
theorem pwr (h : Within rs s a) {x : PwrSt} : Within rs s { a with pwr := x } := h.hidden
theorem incTag (h : Within rs s a) {x : SMap Tag} : Within rs s { a with incTag := x } := h.hidden
theorem updPair (h : Within rs s a) {n : Nat} {f : Pair → Pair} : Within rs s (a.updPair n f) := h.hidden
theorem updCore (h : Within rs s a) {c : Nat} {f : Core → Core} : Within rs s (a.updCore c f) := h.hidden
theorem updClk (h : Within rs s a) {f : Clock → Clock} : Within rs s (a.updClk f) := h.hidden
theorem updSet (h : Within rs s a) {p x : Nat} {f : Machine.PSet → Machine.PSet} : Within rs s (a.updSet p x f) := h.hidden
theorem updCmp (h : Within rs s a) {p n : Nat} {f : Cmp → Cmp} : Within rs s (a.updCmp p n f) := h.hidden
theorem updAx (h : Within rs s a) {p x : Nat} {f : Ax → Ax} : Within rs s (a.updAx p x f) := h.hidden
theorem updPos (h : Within rs s a) {p i : Nat} {f : Pos → Pos} : Within rs s (a.updPos p i f) := h.hidden
theorem later (h : Within rs s a) {e : Soon} : Within rs s (a.later e) := h.hidden
theorem fresh (h : Within rs s a) : Within rs s a.fresh.1 := h.hidden

theorem wr (h : Within rs s a) {r : RegName} {v : Word} {p i j : Nat} (hr : r ∈ rs := by decide) : Within rs s (a.wr r v p i j) :=
  ⟨h.mem, h.banks, fun r' p' i' j' hn => (rd_wr_name a (by rintro rfl; exact hn hr) v p i j p' i' j').trans (h.regs r' p' i' j' hn)⟩

/-- A field write: also of a bit that is set or cleared. -/
theorem put (h : Within rs s a) {f : Fld} {n p i j : Nat} (hr : f.r ∈ rs := by decide) : Within rs s (a.put f n p i j) := h.wr hr

theorem putNbit (h : Within rs s a) {r : RegName} {n p i j : Nat} {b : Bool} (hr : r ∈ rs := by decide) :
    Within rs s (a.putNbit r n b p i j) := h.wr hr

theorem inc (h : Within rs s a) {f : Fld} {p i j : Nat} (hr : f.r ∈ rs := by decide) : Within rs s (a.inc f p i j) := by
  unfold State.inc
  split <;> exact h.put hr

theorem setPair (h : Within rs s a) {lo hi : RegName} {g : Tag} {p i j : Nat} (hl : lo ∈ rs := by decide) (hh : hi ∈ rs := by decide) :
    Within rs s (a.setPair lo hi g p i j) := (h.wr hl).wr hh

theorem ite {c : Prop} {_ : Decidable c} (h : Within rs s a) (g : Within rs s t) : Within rs s (if c then a else t) := by
  split <;> assumption

theorem setIf (h : Within rs s a) {c : Bool} {f : Fld} {p i j : Nat} (hr : f.r ∈ rs := by decide) : Within rs s (a.setIf c f p i j) :=
  (h.put hr).ite h

theorem foldl (h : Within rs s a) {α : Type} {f : State → α → State} (hf : ∀ u x, Within rs u (f u x)) (xs : List α) :
    Within rs s (xs.foldl f a) := by
  induction xs generalizing a with
  | nil => exact h
  | cons x xs ih => exact ih (h.trans (hf a x))

theorem putPf (h : Within rs s a) {f : Fld} {v n : Nat} (hp : f.r ∈ rs := by decide) (hs : f.r.sys ∈ rs := by decide) :
    Within rs s (a.putPf f v n) :=
  h.put (f := { f with r := (pairReg n f.r).1 }) (pairReg_mem hp hs)

theorem setPairTag (h : Within rs s a) {lo hi : RegName} {g : Tag} {n : Nat} (hl : lo ∈ rs := by decide) (hh : hi ∈ rs := by decide)
    (hl' : lo.sys ∈ rs := by decide) (hh' : hi.sys ∈ rs := by decide) : Within rs s (a.setPairTag lo hi g n) :=
  h.setPair (lo := (pairReg n lo).1) (hi := (pairReg n hi).1) (pairReg_mem hl hl') (pairReg_mem hh hh')

theorem wrLe (h : Within rs s a) {r : RegName} {v : Word} {p i j : Nat} (hr : r ∈ rs := by decide) : Within rs s (a.wrLe r v p i j) :=
  .hidden (h.wr (v := v) (p := p) (i := i) (j := j) hr)

theorem of_driven (h : Driven s t) (hs : runRegs ⊆ rs := by decide) : Within rs s t :=
  .mono ⟨by rw [h.rest], by rw [h.rest], h.regs⟩ hs

theorem of_logsOnly (h : LogsOnly s t) (hs : lossRegs ⊆ rs := by decide) : Within rs s t :=
  .mono ⟨by rw [h.rest], by rw [h.rest], h.regs⟩ hs

end Within

/-! ### Interrupt sources and alarms -/

theorem within_jnl (s : State) (n : Nat) (r : JRec) : Within pendRegs s (s.jnl n r) := by
  unfold State.jnl
  extract_lets s1 k s2 s3
  have h2 : Within pendRegs s s2 := .putPf (.updPair (.refl s))
  have h3 : Within pendRegs s s3 := .ite (.putPf h2) h2
  exact .ite (.ite (.log h3) h3) (.refl s)

theorem within_schedJobs (s : State) (c : Nat) : Within pendRegs s (s.schedJobs c) := by
  have h : Within pendRegs s (s.showSched c) := .put (.put (.refl s))
  unfold State.schedJobs
  extract_lets s1
  split
  · exact h
  · exact .put (.updCore h)

theorem within_wakeBySource (s : State) (c src : Nat) (g : Tag) : Within pendRegs s (s.wakeBySource c src g) := by
  unfold State.wakeBySource
  split
  · exact .refl s
  · exact .trans (.updCore (.put (.putNbit (.refl s)))) (within_schedJobs _ c)

theorem within_pendSrc (s : State) (c src : Nat) : Within pendRegs s (s.pendSrc c src) := by
  have h : Within pendRegs s (s.putPend c src true) := .putNbit (.refl s)
  exact .ite (.inc (.put (.refl s))) ((h.trans (within_jnl _ _ _)).trans (within_wakeBySource _ _ _ _))

theorem within_ringNotice (s : State) (n : Nat) : Within pendRegs s (s.ringNotice n) := .ite (within_pendSrc s _ _) (.refl s)

theorem within_markAq (s : State) (n i : Nat) : Within alarmRegs s (s.markAq n i) := .ite (.refl s) (.log (.refl s))

theorem within_setAq (s : State) (n : Nat) (es : List LogRec) (is : List Nat) : Within alarmRegs s (s.setAq n es is) :=
  .foldl (.put (.put (.log (.refl s)))) (fun u i => within_markAq u n i) is

theorem within_newAq (s : State) (n : Nat) (r : LogRec) : Within alarmRegs s (s.newAq n r) :=
  (within_setAq s n _ _).trans (within_ringNotice _ n).mono

theorem within_supply (s : State) (core on : Bool) : Within alarmRegs s (s.supply core on) := .ite (.refl s) (.pwr (.refl s))

theorem within_wakePast (s : State) (b : Nat) : Within alarmRegs s (s.wakePast b) := by
  unfold State.wakePast
  extract_lets st w s1 s2 src s3
  have h1 : Within alarmRegs s s1 := .ite (.refl s) (.setPair (.wr (.refl s)))
  have h3 : Within alarmRegs s s3 := .pwr (.putNbit h1)
  have hf := h3.trans (within_supply s3 false true)
  exact .ite (.ite (hf.trans (within_supply _ true true)) hf) h3

theorem within_holdAlarm (s : State) (n : Nat) (w0 d6 d7 : Word) (g : Tag) : Within alarmRegs s (s.holdAlarm n w0 d6 d7 g) := by
  unfold State.holdAlarm
  extract_lets hs same isOvf kbit new src s1
  have h : Within alarmRegs s s1 := .pwr (.refl s)
  exact .ite (h.trans (within_wakePast s1 10)) h

theorem within_alarmTo (s : State) (n kind idx code : Nat) (d6 d7 : Word) (g : Tag) :
    Within alarmRegs s (s.alarmTo n kind idx code d6 d7 g) := by
  unfold State.alarmTo
  extract_lets w0 key es kbit
  refine .ite (within_holdAlarm _ _ _ _ _ _) (.ite ?_ (.refl s))
  split
  · exact within_setAq _ _ _ _
  · split
    · exact .ite (within_setAq _ _ _ _) (within_newAq _ _ _)
    · exact .ite (within_newAq _ _ _) (within_newAq _ _ _)

/-- An alarm changes its registers alone (R396 to R398, R445, R446). -/
theorem within_alarm (s : State) (ts : List Nat) (kind idx code : Nat) (d6 d7 : Word) (g : Tag) :
    Within alarmRegs s (s.alarm ts kind idx code d6 d7 g) :=
  .foldl (.refl s) (fun u n => within_alarmTo u n kind idx code d6 d7 g) _

/-! ### Trips and faults of axes -/

/-- The registers other than LE_AX_STAT that a trip, a fault that leads to SAFE and a shutdown sequence can change. -/
def haltRegs : List RegName :=
  runRegs ++ alarmRegs ++ lossRegs ++ ([.MUZ_LIVE, .MUZ_SEEN, .MUZ_SET_STAT, .MUZ_SET_TAG_LO, .MUZ_SET_TAG_HI, .MUZ_SET_INC, .MUZ_INC,
    .CMP_STAT, .PWM_SET_RUN, .LE_STATUS, .LE_COEF, .PJNL_PSTAT, .PJNL_PREC, .PJNL_PCTAG_LO, .PJNL_PCTAG_HI, .SJNL_PSTAT, .SJNL_PREC,
    .SJNL_PCTAG_LO, .SJNL_PCTAG_HI] : List RegName)

/-- An axis in ARMED, OPEN or CLOSED. -/
abbrev AxLive (st : Nat) : Prop := st = 2 ∨ st = 3 ∨ st = 4

/-- Between two states sets and axes have at most been stopped: an axis has entered SAFE, from ARMED, OPEN or CLOSED, or keeps its
state. -/
structure Halts (s t : State) : Prop where
  within : Within (.LE_AX_STAT :: haltRegs) s t
  axes : ∀ p a, t.axSt p a = s.axSt p a ∨ AxLive (s.axSt p a) ∧ t.axSt p a = 5

theorem axSt_within {rs : List RegName} {s t : State} (h : Within rs s t) (p a : Nat) (hr : RegName.LE_AX_STAT ∉ rs := by decide) :
    t.axSt p a = s.axSt p a := h.f_eq F.LE_AX_STAT.state p a 0 hr

namespace Halts

variable {s a t : State}

theorem refl (s : State) : Halts s s := ⟨.refl s, fun _ _ => .inl rfl⟩

theorem trans (h : Halts s a) (g : Halts a t) : Halts s t := by
  refine ⟨h.within.trans g.within, fun p x => ?_⟩
  rcases g.axes p x with hg | ⟨hl, hg⟩
  · rw [hg]
    exact h.axes p x
  · rcases h.axes p x with ha | ⟨-, ha⟩
    · exact .inr ⟨ha ▸ hl, hg⟩
    · exact .inl (by rw [ha] at hl; simp [AxLive] at hl)

theorem of_within (h : Within haltRegs s t) : Halts s t :=
  ⟨h.mono (List.subset_cons_self _ _), fun p x => .inl (axSt_within h p x)⟩

/-- A change of other registers follows. -/
theorem next (h : Halts s a) (g : Within haltRegs a t) : Halts s t := h.trans (of_within g)

theorem ite {c : Prop} {_ : Decidable c} (h : Halts s a) (g : Halts s t) : Halts s (if c then a else t) := by
  split <;> assumption

theorem foldl (h : Halts s a) {α : Type} {f : State → α → State} (hf : ∀ u x, Halts u (f u x)) (xs : List α) : Halts s (xs.foldl f a) := by
  induction xs generalizing a with
  | nil => exact h
  | cons x xs ih => exact ih (h.trans (hf a x))

/-- An axis that is not in ARMED, OPEN or CLOSED stays out of them. -/
theorem notLive (h : Halts s t) {p x : Nat} (hn : ¬ AxLive (s.axSt p x)) : ¬ AxLive (t.axSt p x) := by
  rcases h.axes p x with he | ⟨hl, -⟩
  · rwa [he]
  · exact absurd hl hn

end Halts

theorem within_driveSet (s : State) (p x : Nat) : Within haltRegs s (s.driveSet p x) := .of_driven (driven_driveSet s p x)

theorem within_muzRefresh (s : State) (p x : Nat) : Within haltRegs s (s.muzRefresh p x) :=
  .trans (.put (.put (.put (.refl s)))) (within_driveSet _ p x)

theorem within_axRefresh (s : State) (p a : Nat) : Within haltRegs s (s.axRefresh p a) := by
  unfold State.axRefresh
  split
  · exact (within_muzRefresh s p _).trans (within_driveSet _ p _)
  · exact .refl s

theorem within_haltAlarm (s : State) (ts : List Nat) (kind idx code : Nat) (d6 d7 : Word) (g : Tag) :
    Within haltRegs s (s.alarm ts kind idx code d6 d7 g) := (within_alarm s ts kind idx code d6 d7 g).mono

theorem within_engCkpt (s : State) (p : Nat) : Within haltRegs s (s.engCkpt p) :=
  .ite (.refl s) (.ite (.updPair (.putPf (.refl s))) (.trans (.setPairTag (.putPf (.updPair (.refl s)))) (within_jnl _ _ _).mono))

theorem within_endRecovery (s : State) (n : Nat) : Within haltRegs s (s.endRecovery n) := by
  unfold State.endRecovery
  dsimp -zeta only
  extract_lets len s2 s3 s4 s5
  have h2 : Within haltRegs s s2 := .putPf (.putPf (.fresh (.refl s)))
  have h3 : Within haltRegs s s3 := .ite (.putPf h2) h2
  have h5 : Within haltRegs s s5 := (h3.trans (within_haltAlarm _ _ _ _ _ _ _ _)).trans (.of_logsOnly (logsOnly_stageRec _ _ _))
  exact .ite (h5.trans (within_engCkpt s5 n)) h5

theorem within_coefApply (s : State) (p a : Nat) : Within haltRegs s (s.coefApply p a) := by
  unfold State.coefApply
  exact .updAx (.foldl (.refl s) (fun u w => .wrLe (.refl u)) _)

theorem within_dropRun (s : State) (p a : Nat) : Within haltRegs s (s.dropRun p a) := by
  unfold State.dropRun
  extract_lets s1
  have h1 : Within haltRegs s s1 := .trans (.put (.put (.refl s))) (within_coefApply _ p a)
  exact .ite (.ite (h1.trans (within_endRecovery s1 p)) h1) (.refl s)

/-- The write of another field of LE_AX_STAT leaves every axis in its state. -/
theorem halts_putAx (s : State) (f : Fld) (n p a : Nat) (hr : f.r = .LE_AX_STAT := by rfl)
    (hf : fldsApart f F.LE_AX_STAT.state := by decide) : Halts s (s.put f n p a) :=
  ⟨.put (.refl s) (by rw [hr]; decide), fun q x => .inl (f_put_apart s hf n p a 0 q x 0)⟩

theorem halts_faultNoted (s : State) (p a cause : Nat) : Halts s (s.faultNoted p a cause) := by
  unfold State.faultNoted
  extract_lets s1 s2
  have h1 : Halts s s1 := halts_putAx s _ _ p a
  have h2 : Halts s s2 := h1.ite (h1.trans ((halts_putAx s1 _ _ p a).trans (halts_putAx _ _ _ p a)))
  exact h2.next (within_haltAlarm _ _ _ _ _ _ _ _)

theorem axSt_put (s : State) (n p a q x : Nat) :
    (s.put F.LE_AX_STAT.state n p a).axSt q x = if q = p ∧ x = a then n % 8 else s.axSt q x := by
  simp only [State.axSt, State.f, rd_put, true_and, and_true]
  split
  · exact Fld_get_put _ _ _ (by decide)
  · rfl

theorem halts_enterSafe {s u : State} {p a : Nat} (h : Halts s u) (hl : AxLive (s.axSt p a)) :
    Halts s (u.put F.LE_AX_STAT.state 5 p a) := by
  refine ⟨.put h.within (by decide), fun q x => ?_⟩
  rw [axSt_put]
  split
  · next hq => exact .inr ⟨hq.1 ▸ hq.2 ▸ hl, rfl⟩
  · exact h.axes q x

/-- A fault that leads to SAFE leaves no axis in ARMED, OPEN or CLOSED (R141, R143). -/
theorem halts_axSafe (s : State) (p a cause : Nat) : Halts s (s.axSafe p a cause) ∧ ¬ AxLive ((s.axSafe p a cause).axSt p a) := by
  unfold State.axSafe
  extract_lets st
  by_cases hl : AxLive st
  · have hu := (halts_faultNoted s p a cause).next (within_dropRun _ p a)
    have hs := halts_enterSafe hu hl
    rw [if_pos hl, axSt_within (within_axRefresh _ p a), axSt_put]
    exact ⟨hs.next (within_axRefresh _ p a), by simp [AxLive]⟩
  · rw [if_neg hl]
    have h : Halts s (if st = 5 ∨ st = 6 then s.put F.LE_AX_STAT.fault_cause cause p a else s) := .ite (halts_putAx s _ _ p a) (.refl s)
    exact ⟨h, h.notLive hl⟩

theorem within_alarmFix (s : State) (w0 : Word) (old new : Tag) (d6 : Word) (n : Nat) : Within haltRegs s (s.alarmFix w0 old new d6 n) := by
  unfold State.alarmFix
  extract_lets hit fix
  refine .ite (.pwr (.refl s)) ?_
  split
  · exact (within_setAq _ _ _ _).mono
  · exact .refl s

theorem within_joinTrip (s : State) (p st x : Nat) (g : Tag) : Within haltRegs s (s.joinTrip p st x g) := by
  unfold State.joinTrip
  extract_lets old new s1 s2
  have h1 : Within haltRegs s s1 := .setPair (.put (.refl s))
  have h2 : Within haltRegs s s2 := .ite (.incTag h1) h1
  exact .foldl h2 (fun u n => within_alarmFix u _ _ _ _ n) _

theorem within_incident (s : State) (p st : Nat) (g : Tag) : Within haltRegs s (s.incident p st g) := by
  unfold State.incident
  extract_lets first joins opened s1
  have ho : Within haltRegs s opened := .put (.put (.put (.refl s)))
  have h1 : Within haltRegs s s1 := .ite (.put (.refl s)) ho.incTag
  exact .put h1

theorem within_startSeq0 (s : State) (p x : Nat) : Within haltRegs s (s.startSeq0 p x) := by
  have legs (u : State) (l : Nat) : Within haltRegs u ((u.clrb F.PWM_LEGSTAT.en p l).setb F.PWM_LEGSTAT.seq p l) := .put (.put (.refl u))
  exact .ite (.refl s) (.later (.foldl (.updSet (.put (.refl s))) legs _))

theorem within_cancelPend (s : State) (p x : Nat) : Within haltRegs s (s.cancelPend p x) :=
  .foldl (.put (.refl s)) (fun u _ => .put (.refl u)) _

/-- A trip stops its set, and its axis where it is bound (R202, R207, R210). -/
theorem halts_trip (s : State) (p st x : Nat) (g : Tag) : Halts s (s.trip p st x g) := by
  unfold State.trip
  extract_lets s0 s1 s2 s3 s4
  have h2 : Within haltRegs s s2 := .inc (.put (.setPair (.put (.put (.updSet (.refl s))))))
  have h3 : Within haltRegs s s3 := (h2.trans (within_incident s2 p st g)).trans (within_muzRefresh _ p st)
  have h4 : Halts s s4 := by
    unfold s4
    split
    · exact (Halts.of_within h3).trans (halts_axSafe s3 p _ 6).1
    · exact .of_within ((.put (h3.trans (within_cancelPend s3 p st)) : Within haltRegs s _).trans (within_startSeq0 _ p st))
  exact h4.next (.later ((within_haltAlarm _ _ _ _ _ _ _ _).trans (within_muzRefresh _ p st)))

theorem halts_assertTo (s : State) (p st x : Nat) (g : Tag) : Halts s (s.assertTo p st x g) := by
  unfold State.assertTo
  extract_lets s1
  have h1 : Within haltRegs s s1 := .ite (within_joinTrip s p st x g) (.refl s)
  exact .ite (.of_within ((.put h1 : Within haltRegs s _).trans (within_muzRefresh _ p st))) (.ite (halts_trip s p st x g) (.refl s))

theorem halts_srcEval0 (s : State) (p x : Nat) (g : Tag) : Halts s (s.srcEval0 p x g) := by
  unfold State.srcEval0
  extract_lets now was s1 s2
  have h1 : Within haltRegs s s1 := .putNbit (.refl s)
  have h2 : Halts s s2 := .of_within (.putNbit h1)
  exact .ite (.foldl h2 (fun u st => .ite (halts_assertTo u p st x g) (.refl u)) _) (.of_within h1)

theorem halts_pcmPass (s : State) (p : Nat) : Halts s (s.pcmPass p) := by
  refine .foldl (.refl s) (fun u n => ?_) _
  extract_lets ds s1 s2
  have h1 : Within haltRegs u s1 := .setIf (.put (.refl u))
  have h2 : Within haltRegs u s2 := .ite (.updCmp h1) h1
  exact .ite (.refl u) (((Halts.of_within h2).trans (halts_srcEval0 s2 p n u.now)).trans (halts_srcEval0 _ p (16 + n) u.now))

theorem halts_pcmRefresh (s : State) (p : Nat) : Halts s (s.pcmRefresh p) := .ite (.foldl (.refl s) (fun u _ => halts_pcmPass u p) _) (.refl s)

/-- The start of a shutdown sequence; a comparator that its legs release may trip another set (R179, R191). -/
theorem halts_startSeq (s : State) (p x : Nat) : Halts s (s.startSeq p x) :=
  (Halts.of_within (within_startSeq0 s p x)).trans (halts_pcmRefresh _ p)

theorem halts_safeSets (s : State) (p : Nat) : Halts s (s.safeSets p) :=
  .foldl (.refl s) (fun u x => (halts_startSeq u p x).next (.put (.refl _))) _

end Sys2Proof.Proofs
end

section
/-! The links between the dies (R26 to R28): what the loss of a link, a retried transfer, and the end of retraining leave. -/

namespace Sys2Proof.Proofs
open Sys2Proof Sys2Proof.Machine Sys2Proof.Laws

/-! ### The forwarded clock -/

/-- The forwarded clock of one pack is absent: what its loss does there (R20, R43, R183). -/
def clockGone (s : State) (p : Nat) : State :=
  (List.range 6).foldl (fun s x => s.updSet p x fun k => { k with restart := s.bit F.PWM_SET_STAT.cnt_run p x })
    (((s.clrb F.PWM_STATUS.clk_ok p).setb F.PWM_STATUS.clk_lost p).updClk fun k =>
      if s.bit F.PWM_STATUS.clk_ok p then { k with lost := k.lost.set (0, 0) p (s.now, s.clk.raw) } else k)

theorem clockLost_eq (s : State) : s.clockLost = (List.range 4).foldl clockGone s := rfl

theorem within_clockGone (s : State) (p : Nat) : Within [] ((s.clrb F.PWM_STATUS.clk_ok p).setb F.PWM_STATUS.clk_lost p) (clockGone s p) :=
  .foldl (.updClk (.refl _)) (fun u _ => .updSet (.refl u)) _

theorem within_clockLost (s : State) : Within [.PWM_STATUS] s s.clockLost := by
  have bits (u : State) (p : Nat) : Within [.PWM_STATUS] u ((u.clrb F.PWM_STATUS.clk_ok p).setb F.PWM_STATUS.clk_lost p) :=
    .put (.put (.refl u))
  exact .foldl (.refl s) (fun u p => (bits u p).trans (within_clockGone u p).mono) _

/-- The clock of a pack is absent, and its loss is noted (R20). -/
abbrev ClkAbsent (s : State) (p : Nat) : Prop := s.bit F.PWM_STATUS.clk_ok p = false ∧ s.bit F.PWM_STATUS.clk_lost p = true

theorem clkAbsent_clockGone {s : State} {p q : Nat} (h : p = q ∨ ClkAbsent s p) : ClkAbsent (clockGone s q) p := by
  have hw := within_clockGone s q
  rw [ClkAbsent, hw.bit_eq F.PWM_STATUS.clk_ok, hw.bit_eq F.PWM_STATUS.clk_lost]
  rw [bit_setb_apart _ (by decide), bit_setb _ _ _ _ _ _ _ _ (by decide), bit_clrb _ _ _ _ _ _ _ _ (by decide), State.clrb,
    bit_put_apart _ (by decide)]
  rcases h with rfl | ⟨hok, hlost⟩
  · simp
  · simp [hok, hlost]

/-- After the loss of the field link the clock of every pack is absent (R20). -/
theorem clkAbsent_clockLost (s : State) {p : Nat} (hp : p < 4) : ClkAbsent s.clockLost p := by
  rw [clockLost_eq]
  exact foldl_establishes (f := clockGone) (Q := fun u => ClkAbsent u p) (fun _ _ h => clkAbsent_clockGone (.inr h))
    (fun _ => clkAbsent_clockGone (.inl rfl)) (List.mem_range.mpr hp) s

theorem within_histClear (s : State) (p i : Nat) : Within [.POS_STAT, .POS_SPD] s (s.histClear p i) := .updPos (.wr (.refl s))

theorem within_setStill (s : State) (p i : Nat) : Within [.POS_STAT, .POS_SPD] s (s.setStill p i) := .updPos (.put (.refl s))

theorem within_posResume (s : State) (p : Nat) : Within [.POS_STAT, .POS_SPD] s (s.posResume p) := by
  refine .foldl (.refl s) (fun u i => .updPos (.trans ?_ (within_setStill _ p i))) _
  exact .trans (.put (.refl u)) (within_histClear _ p i)

theorem within_clockBack (s : State) : Within [.PWM_STATUS, .POS_STAT, .POS_SPD] s s.clockBack :=
  .foldl (.refl s) (fun u p => .trans (.put (.refl u)) (within_posResume _ p).mono) _

/-- After the field link has retrained the clock of every pack is back (R20). -/
theorem clkOk_clockBack (s : State) {p : Nat} (hp : p < 4) : s.clockBack.bit F.PWM_STATUS.clk_ok p = true := by
  have step (u : State) (q : Nat) (h : p = q ∨ u.bit F.PWM_STATUS.clk_ok p = true) :
      ((u.setb F.PWM_STATUS.clk_ok q).posResume q).bit F.PWM_STATUS.clk_ok p = true := by
    rw [(within_posResume _ q).bit_eq F.PWM_STATUS.clk_ok, bit_setb _ _ _ _ _ _ _ _ (by decide)]
    rcases h with rfl | h <;> simp [*]
  unfold State.clockBack
  exact foldl_establishes (f := fun s p => (s.setb F.PWM_STATUS.clk_ok p).posResume p) (Q := fun u => u.bit F.PWM_STATUS.clk_ok p = true)
    (fun u q h => step u q (.inr h)) (fun u => step u p (.inl rfl)) (List.mem_range.mpr hp) s

/-- Events that were held go on their way: only the held bits of channels change (R344). -/
theorem within_releaseHeld (s : State) : Within [.PLSH_ATTR, .SLSH_ATTR] s s.releaseHeld := by
  have reg (g : Nat) : (lshReg g .PLSH_ATTR).1 ∈ [RegName.PLSH_ATTR, .SLSH_ATTR] := by
    unfold lshReg
    split <;> simp [RegName.sys]
  have held {u v : State} (g : Nat) (h : Within [.PLSH_ATTR, .SLSH_ATTR] u v) : Within [.PLSH_ATTR, .SLSH_ATTR] u (v.putLf F.PLSH_ATTR.held 0 g) :=
    h.put (f := { F.PLSH_ATTR.held with r := (lshReg g .PLSH_ATTR).1 }) (reg g)
  unfold State.releaseHeld
  refine .foldl (.refl s) (fun u e => ?_) _
  extract_lets g
  exact .ite (.refl u) (held g (.lsh (.refl u)))

/-! ### The loss of the field link -/

theorem within_spiAbort (s : State) : Within [.SPI_STAT] s s.spiAbort :=
  .foldl (.refl s) (fun u _ => .ite (.put (.put (.refl u))) (.refl u)) _

/-- What the loss of the field link does in the muzzle of one pack: its sets are driven safe, its axes enter SAFE (R27, R206). -/
def muzzleLost (s : State) (p : Nat) : State :=
  (List.range 6).foldl (fun s a => s.axSafe p a 7) ((s.putNbit .MUZ_SEEN 14 true p 2).safeSets p)

theorem fieldLost_eq (s : State) : s.fieldLost = ((List.range 4).foldl muzzleLost s).clockLost.spiAbort := rfl

theorem halts_muzzleLost (s : State) (p : Nat) : Halts s (muzzleLost s p) := by
  have h : Halts s ((s.putNbit .MUZ_SEEN 14 true p 2).safeSets p) := .trans (.of_within (.putNbit (.refl s))) (halts_safeSets _ p)
  exact h.foldl (fun u a => (halts_axSafe u p a 7).1) _

theorem notLive_muzzleLost (s : State) (p : Nat) {a : Nat} (ha : a < 6) : ¬ AxLive ((muzzleLost s p).axSt p a) :=
  foldl_establishes (Q := fun u => ¬ AxLive (u.axSt p a)) (fun u x h => (halts_axSafe u p x 7).1.notLive h)
    (fun u => (halts_axSafe u p a 7).2) (List.mem_range.mpr ha) _

/-- The registers that the loss of the field link can change beside those of alarms. -/
def fieldLossRegs : List RegName := .PWM_STATUS :: .SPI_STAT :: .LE_AX_STAT :: haltRegs

theorem halts_muzzlesLost (s : State) : Halts s ((List.range 4).foldl muzzleLost s) := .foldl (.refl s) halts_muzzleLost _

theorem within_fieldLost (s : State) : Within fieldLossRegs s s.fieldLost :=
  (((halts_muzzlesLost s).within.mono fun _ h => .tail _ (.tail _ h)).trans (within_clockLost _).mono).trans (within_spiAbort _).mono

theorem clkAbsent_fieldLost (s : State) {p : Nat} (hp : p < 4) : ClkAbsent s.fieldLost p := by
  have hw := within_spiAbort ((List.range 4).foldl muzzleLost s).clockLost
  rw [fieldLost_eq, ClkAbsent, hw.bit_eq F.PWM_STATUS.clk_ok, hw.bit_eq F.PWM_STATUS.clk_lost]
  exact clkAbsent_clockLost _ hp

/-- The loss of the field link takes every axis in ARMED, OPEN or CLOSED to SAFE (R27). -/
theorem axSt_fieldLost (s : State) {p a : Nat} (hp : p < 4) (ha : a < 6) (hl : AxLive (s.axSt p a)) : s.fieldLost.axSt p a = 5 := by
  rw [fieldLost_eq, axSt_within (within_spiAbort _), axSt_within (within_clockLost _)]
  have hn : ¬ AxLive (((List.range 4).foldl muzzleLost s).axSt p a) :=
    foldl_establishes (f := muzzleLost) (Q := fun u => ¬ AxLive (u.axSt p a)) (fun u q h => (halts_muzzleLost u q).notLive h)
      (fun u => notLive_muzzleLost u p ha) (List.mem_range.mpr hp) s
  rcases (halts_muzzlesLost s).axes p a with he | ⟨-, h5⟩
  · rw [he] at hn
    exact absurd hl hn
  · exact h5

/-! ### The loss of a link -/

/-- The loss of a link is the third within 1 s (R26). -/
def lossFails (s : State) (l : DieLink) : Bool := decide (2 ≤ (recentMm s.now (s.pwr.d2d.get [] (dieIx l))).length)

/-- The status that the loss of a link leaves: down, counted, and failed at the third loss within 1 s (R26). -/
def linkDown (s : State) (l : DieLink) : State := ((s.clrb (linkUpF l)).inc (linkLossF l)).setIf (lossFails s l) (linkFailF l)

/-- What the loss of a link does beside its status and its alarms (R27, R28). -/
def lossActs (s : State) : DieLink → State
  | .field => s.fieldLost
  | .memory => s

/-- The loss of a link that is up: its status, then what the loss does, then its alarms. -/
theorem dieLost_stages {s : State} {l : DieLink} (h : s.bit (linkUpF l) = true) :
    ∃ u, Within [] (linkDown s l) u ∧ Within alarmRegs (lossActs u l) (s.dieLost l) := by
  unfold State.dieLost
  rw [if_neg (by simp [h])]
  extract_lets ts old tags failed s1 s2 s3 s4
  have hf : failed = lossFails s l := by simp [failed, tags, old, lossFails]
  have hs : linkDown s l = ((s.clrb (linkUpF l)).inc (linkLossF l)).setIf failed (linkFailF l) := by rw [linkDown, hf]
  have h3 : s3 = lossActs s2 l := by cases l <;> rfl
  have h4 : Within alarmRegs s3 s4 := within_alarm _ _ _ _ _ _ _ _
  refine ⟨s2, ?_, h3 ▸ .ite (h4.trans (within_alarm _ _ _ _ _ _ _ _)) h4⟩
  rw [hs, State.setIf]
  unfold s2
  split
  · exact .hidden (.refl _)
  · exact .hidden (.refl _)

theorem linkDown_up (s : State) (l : DieLink) : (linkDown s l).bit (linkUpF l) = false := by
  unfold linkDown
  cases l <;> rw [bit_setIf_apart _ _ (by decide), bit_inc_apart _ (by decide), bit_clrb _ _ _ _ _ _ _ _ (by decide)] <;> simp

theorem linkDown_loss (s : State) (l : DieLink) : (linkDown s l).f (linkLossF l) = min (s.f (linkLossF l) + 1) 15 := by
  unfold linkDown
  cases l <;> rw [f_setIf_apart _ _ (by decide), f_inc_self _ _ _ _ _ (by decide), State.clrb, f_put_apart _ (by decide)] <;> rfl

theorem linkDown_fail (s : State) (l : DieLink) : (linkDown s l).bit (linkFailF l) = (s.bit (linkFailF l) || lossFails s l) := by
  unfold linkDown
  cases l <;> rw [bit_setIf_self _ _ _ _ _ _ (by decide), bit_inc_apart _ (by decide), State.clrb, bit_put_apart _ (by decide)]

/-- The loss of a link leaves the fields of PWR_D2D_STATUS that count transfer errors. -/
theorem linkDown_crc (s : State) (l : DieLink) {g : Fld} (hg : ∀ f ∈ [linkUpF l, linkLossF l, linkFailF l], fldsApart f g) :
    (linkDown s l).f g = s.f g := by
  simp only [List.mem_cons, List.not_mem_nil, or_false, forall_eq_or_imp, forall_eq] at hg
  obtain ⟨hu, hl, hf⟩ := hg
  rw [linkDown, f_setIf_apart _ _ hf, f_inc_apart _ hl, State.clrb, f_put_apart _ hu]

theorem within_linkDown (s : State) (l : DieLink) : Within [.PWR_D2D_STATUS] s (linkDown s l) := by
  cases l <;> exact .setIf (.inc (.put (.refl s)))

/-- The registers that what follows the loss of a link can change (R27, R28). -/
def lossRegsOf : DieLink → List RegName
  | .field => fieldLossRegs
  | .memory => alarmRegs

/-- From the status that the loss leaves, only the field link's loss changes more than alarms do. -/
theorem within_dieLost {s : State} {l : DieLink} (h : s.bit (linkUpF l) = true) : Within (lossRegsOf l) (linkDown s l) (s.dieLost l) := by
  obtain ⟨u, hu, ht⟩ := dieLost_stages h
  have hn (rs : List RegName) : Within rs (linkDown s l) u := hu.mono (List.nil_subset _)
  cases l with
  | field => exact ((hn _).trans (within_fieldLost u)).trans (ht.mono fun r hr => by
      simp [fieldLossRegs, haltRegs, hr])
  | memory => exact (hn _).trans ht

/-- A link that is lost: its status (R26 to R28). -/
structure LinkLost (s t : State) (l : DieLink) : Prop where
  up : t.bit (linkUpF l) = false
  loss : t.f (linkLossF l) = min (s.f (linkLossF l) + 1) 15
  fail : t.bit (linkFailF l) = (s.bit (linkFailF l) || lossFails s l)
  mem : t.mem = s.mem
  banks : t.banks = s.banks

theorem linkLost_dieLost {s : State} {l : DieLink} (h : s.bit (linkUpF l) = true) : LinkLost s (s.dieLost l) l := by
  have hw := within_dieLost h
  have hd := within_linkDown s l
  have hr (g : Fld) (hg : g.r = .PWR_D2D_STATUS) : (s.dieLost l).f g = (linkDown s l).f g :=
    hw.f_eq g 0 0 0 (by rw [hg]; cases l <;> decide)
  have hb (g : Fld) (hg : g.r = .PWR_D2D_STATUS) : (s.dieLost l).bit g = (linkDown s l).bit g := congrArg (· != 0) (hr g hg)
  refine ⟨?_, ?_, ?_, hw.mem.trans hd.mem, hw.banks.trans hd.banks⟩
  · rw [hb _ (by cases l <;> rfl), linkDown_up]
  · rw [hr _ (by cases l <;> rfl), linkDown_loss]
  · rw [hb _ (by cases l <;> rfl), linkDown_fail]

/-- The loss of the field link: every clock is absent, every axis in ARMED, OPEN or CLOSED is in SAFE (R20, R27). -/
theorem fieldLink_dieLost {s : State} (h : s.bit (linkUpF .field) = true) :
    (∀ p < 4, ClkAbsent (s.dieLost .field) p) ∧ ∀ p < 4, ∀ a < 6, AxLive (s.axSt p a) → (s.dieLost .field).axSt p a = 5 := by
  obtain ⟨u, hu, ht⟩ := dieLost_stages h
  refine ⟨fun p hp => ?_, fun p hp a ha hl => ?_⟩
  · rw [ClkAbsent, ht.bit_eq F.PWM_STATUS.clk_ok, ht.bit_eq F.PWM_STATUS.clk_lost]
    exact clkAbsent_fieldLost u hp
  · rw [axSt_within ht]
    refine axSt_fieldLost u hp ha ?_
    rwa [axSt_within hu, axSt_within (within_linkDown s .field)]

theorem dieLost_down {s : State} {l : DieLink} (h : s.bit (linkUpF l) = false) : s.dieLost l = s := by
  unfold State.dieLost
  rw [if_pos (by simp [h])]

/-! ### A retried transfer -/

/-- The count of a retried transfer's CRC error (R28, R51). -/
def retryCounted (s : State) : State :=
  (s.inc F.PWR_D2D_STATUS.crc_err).setIf (decide (0xFFFE ≤ s.f F.PWR_D2D_STATUS.crc_err)) F.PWR_D2D_STATUS.crc_sat

theorem within_retryCounted (s : State) : Within [.PWR_D2D_STATUS] s (retryCounted s) := .setIf (.inc (.refl s))

theorem retryCounted_up (s : State) (l : DieLink) : (retryCounted s).bit (linkUpF l) = s.bit (linkUpF l) := by
  unfold retryCounted
  cases l <;> rw [bit_setIf_apart _ _ (by decide), bit_inc_apart _ (by decide)]

theorem retryCounted_crcErr (s : State) :
    (retryCounted s).f F.PWR_D2D_STATUS.crc_err = min (s.f F.PWR_D2D_STATUS.crc_err + 1) 0xFFFF := by
  rw [retryCounted, f_setIf_apart _ _ (by decide), f_inc_self _ _ _ _ _ (by decide)]
  rfl

theorem retryCounted_crcSat {s : State} (h : 0xFFFE ≤ s.f F.PWR_D2D_STATUS.crc_err) :
    (retryCounted s).bit F.PWR_D2D_STATUS.crc_sat = true := by
  rw [retryCounted, bit_setIf_self _ _ _ _ _ _ (by decide), decide_eq_true h, Bool.or_true]

/-- A retried transfer is counted, and the fourth retry of one transfer loses the link (R26, R28). -/
theorem dieRetry_stages {s : State} {l : DieLink} (h : s.bit (linkUpF l) = true) :
    ∃ u, Within [] (retryCounted s) u ∧ u.bit (linkUpF l) = true ∧
      (s.dieRetry l = u ∨ s.dieRetry l = u.dieLost l ∧ 3 ≤ s.pwr.retry.get 0 (dieIx l)) := by
  unfold State.dieRetry
  rw [if_neg (by simp [h])]
  dsimp -zeta only
  extract_lets sat n s2
  have hw : Within [] (retryCounted s) s2 := .hidden (.refl _)
  refine ⟨s2, hw, by rw [hw.bit_eq _ 0 0 0 List.not_mem_nil, retryCounted_up, h], ?_⟩
  split
  · next h4 =>
    have hn : n ≤ s.pwr.retry.get 0 (dieIx l) + 1 := by
      unfold n
      split <;> omega
    exact .inr ⟨rfl, by omega⟩
  · exact .inl rfl

/-- The loss of a link leaves the counts of transfer errors. -/
theorem dieLost_crc {s : State} {l : DieLink} (h : s.bit (linkUpF l) = true) {g : Fld} (hr : g.r = .PWR_D2D_STATUS)
    (hg : ∀ f ∈ [linkUpF l, linkLossF l, linkFailF l], fldsApart f g) : (s.dieLost l).f g = s.f g := by
  rw [(within_dieLost h).f_eq g 0 0 0 (by rw [hr]; cases l <;> decide), linkDown_crc s l hg]

/-- A retried transfer leaves the CRC counts as it counted them, whether or not the link is lost by it. -/
theorem dieRetry_crc {s : State} {l : DieLink} (h : s.bit (linkUpF l) = true) {g : Fld} (hr : g.r = .PWR_D2D_STATUS)
    (hg : ∀ f ∈ [linkUpF l, linkLossF l, linkFailF l], fldsApart f g) : (s.dieRetry l).f g = (retryCounted s).f g := by
  obtain ⟨u, hu, hup, ht⟩ := dieRetry_stages h
  have hug := hu.f_eq g 0 0 0 List.not_mem_nil
  rcases ht with ht | ⟨ht, -⟩
  · rw [ht, hug]
  · rw [ht, dieLost_crc hup hr hg, hug]

theorem dieRetry_mem {s : State} {l : DieLink} (h : s.bit (linkUpF l) = true) : (s.dieRetry l).mem = s.mem := by
  obtain ⟨u, hu, hup, ht⟩ := dieRetry_stages h
  have hm : u.mem = s.mem := hu.mem.trans (within_retryCounted s).mem
  rcases ht with ht | ⟨ht, -⟩
  · rw [ht, hm]
  · rw [ht, (linkLost_dieLost hup).mem, hm]

theorem dieRetry_down {s : State} {l : DieLink} (h : s.bit (linkUpF l) = false) : s.dieRetry l = s := by
  unfold State.dieRetry
  rw [if_pos (by simp [h])]

/-- Before the fourth retry the link stays up (R26). -/
theorem dieRetry_stays {s : State} {l : DieLink} (h : s.bit (linkUpF l) = true) (hn : s.pwr.retry.get 0 (dieIx l) < 3) :
    (s.dieRetry l).bit (linkUpF l) = true ∧ KeepsRegs s (s.dieRetry l) [.PWR_D2D_STATUS] := by
  obtain ⟨u, hu, hup, ht⟩ := dieRetry_stages h
  rcases ht with ht | ⟨-, h3⟩
  · rw [ht]
    exact ⟨hup, ((within_retryCounted s).trans (hu.mono (List.nil_subset _))).regs⟩
  · omega

/-! ### The end of retraining -/

/-- A link that is not down and retraining in Run (R26). -/
abbrev NotRetraining (s : State) (l : DieLink) : Bool := s.bit (linkUpF l) || s.bit (linkFailF l) || s.pwr.mode != 1 || s.pwr.past

theorem dieRetrained_away {s : State} {l : DieLink} (h : NotRetraining s l = true ∨ Tag.before (s.retrainDue l) s.now = true) :
    s.dieRetrained l = s := by
  unfold State.dieRetrained
  rw [if_pos (Bool.or_eq_true_iff.mpr h)]

/-- The registers beside PWR_D2D_STATUS that the return of a link can change (R20, R27, R117). -/
def linkBackRegs : DieLink → List RegName
  | .field => [.PWM_STATUS, .POS_STAT, .POS_SPD, .PLSH_ATTR, .SLSH_ATTR]
  | .memory => []

/-- A link that has retrained in time is up; the field link's clocks are back (R20, R26). -/
theorem dieRetrained_up {s : State} {l : DieLink} (h : NotRetraining s l = false) (hd : Tag.before (s.retrainDue l) s.now = false) :
    Within (linkBackRegs l) (s.setb (linkUpF l)) (s.dieRetrained l) ∧
      (l = .field → ∀ p < 4, (s.dieRetrained l).bit F.PWM_STATUS.clk_ok p = true) := by
  unfold State.dieRetrained
  rw [if_neg fun hc => (Bool.or_eq_true_iff.mp hc).elim (Bool.eq_false_iff.mp h) (Bool.eq_false_iff.mp hd)]
  extract_lets s1
  cases l with
  | field =>
    have hh := within_releaseHeld s1.clockBack
    refine ⟨(within_clockBack s1).mono.trans hh.mono, fun _ p hp => ?_⟩
    rw [hh.bit_eq F.PWM_STATUS.clk_ok, clkOk_clockBack s1 hp]
  | memory => exact ⟨.refl _, nofun⟩

theorem dieFailed_away {s : State} {l : DieLink} (h : NotRetraining s l = true) : s.dieFailed l = s := by
  unfold State.dieFailed
  rw [if_pos h]

/-- Where the ticks do not reach the end of the 50 µs, nothing happens (log 1). -/
theorem dieFailed_early {s : State} {l : DieLink} (h : Tag.after (s.retrainDue l) (s.run (s.ticksTo (s.retrainDue l))).now = true) :
    s.dieFailed l = s := by
  unfold State.dieFailed State.atTag
  rw [if_pos h, ite_self]

/-- A link that has not retrained fails at the end of the 50 µs, and its alarm is raised (R26). -/
theorem dieFailed_due {s : State} {l : DieLink} (h : NotRetraining s l = false)
    (hd : Tag.after (s.retrainDue l) (s.run (s.ticksTo (s.retrainDue l))).now = false) :
    Within alarmRegs ((s.run (s.ticksTo (s.retrainDue l))).setb (linkFailF l)) (s.dieFailed l) := by
  unfold State.dieFailed State.atTag
  rw [if_neg (Bool.eq_false_iff.mp h), if_neg (Bool.eq_false_iff.mp hd)]
  exact within_alarm _ _ _ _ _ _ _ _

/-- A link that fails is down, and nothing but its status and alarms follows the ticks to the end of the 50 µs. -/
theorem dieFailed_status {s : State} {l : DieLink} (h : NotRetraining s l = false)
    (hd : Tag.after (s.retrainDue l) (s.run (s.ticksTo (s.retrainDue l))).now = false) :
    (s.dieFailed l).bit (linkUpF l) = false ∧ (s.dieFailed l).bit (linkFailF l) = true ∧
      Within (.PWR_D2D_STATUS :: alarmRegs) (s.run (s.ticksTo (s.retrainDue l))) (s.dieFailed l) := by
  have hw := dieFailed_due h hd
  simp only [NotRetraining, Bool.or_eq_false_iff] at h
  obtain ⟨⟨⟨hup, -⟩, -⟩, -⟩ := h
  have hrun : (s.run (s.ticksTo (s.retrainDue l))).bit (linkUpF l) = false := by
    rw [State.bit, State.f, rd_run _ _ _ _ _ _ (by cases l <;> decide)]
    exact hup
  refine ⟨?_, ?_, .trans ?_ (hw.mono (List.subset_cons_self _ _))⟩
  · cases l <;> rw [hw.bit_eq _ 0 0 0 (by decide), bit_setb_apart _ (by decide), hrun]
  · cases l <;> rw [hw.bit_eq _ 0 0 0 (by decide), bit_setb _ _ _ _ _ _ _ _ (by decide)] <;> simp
  · cases l <;> exact .put (.refl _)

/-! ### The commands -/

theorem accepts_ok {s : State} {d : Word} {P : State → Prop} (h : P { s with resp := { err := false, data := d } }) : Accepts (ok s d) P :=
  ⟨_, rfl, rfl, h⟩

theorem noEvent_ok {s t : State} (h : t = s) : NoEvent (ok t) s := by
  rw [h]
  rfl

/-- Settles O29: each command's part by its lemma on the link's status and on what follows it. -/
theorem dieLinksComplete : Obligations.DieLinksComplete := by
  intro s fieldLost memLost away end_
  have field (h : s.bit F.PWR_D2D_STATUS.fld_up = true) : Accepts (ok (s.dieLost .field)) fieldLost := by
    obtain ⟨hup, hloss, hfail, hmem, -⟩ := linkLost_dieLost (l := .field) h
    obtain ⟨hclk, hax⟩ := fieldLink_dieLost h
    exact accepts_ok ⟨hup, hloss, hfail, fun p => hclk p p.isLt, fun p a => hax p p.isLt a a.isLt, hmem⟩
  have memory (h : s.bit F.PWR_D2D_STATUS.mem_up = true) : Accepts (ok (s.dieLost .memory)) memLost := by
    obtain ⟨hup, hloss, hfail, hmem, hbanks⟩ := linkLost_dieLost (l := .memory) h
    have hregs : Within (.PWR_D2D_STATUS :: alarmRegs) s (s.dieLost .memory) :=
      (within_linkDown s .memory).mono.trans ((within_dieLost (l := .memory) h).mono (List.subset_cons_self _ _))
    exact accepts_ok ⟨hup, hloss, hfail, hregs.regs, hmem, hbanks⟩
  refine ⟨fun h => ⟨field h, field h⟩, fun h => ⟨memory h, memory h⟩, fun h => noEvent_ok (dieLost_down (l := .field) h),
    fun h => noEvent_ok (dieLost_down (l := .memory) h), fun l =>
      ⟨?down, fun h => ?retry, ?away, fun h => ⟨?late, fun hd => ?done, ?early, fun hd => ?timeout⟩⟩⟩
  case down => exact fun h => ⟨noEvent_ok (dieLost_down h), noEvent_ok (dieRetry_down h)⟩
  case away => exact fun h => ⟨noEvent_ok (dieRetrained_away (.inl h)), noEvent_ok (dieFailed_away h)⟩
  case late => exact fun hd => noEvent_ok (dieRetrained_away (.inr hd))
  case early => exact fun hd => noEvent_ok (dieFailed_early hd)
  case retry =>
    have crc {g : Fld} := dieRetry_crc (g := g) h
    refine accepts_ok ⟨?_, fun hsat => ?_, dieRetry_stays h, dieRetry_mem h⟩
    · exact (crc rfl (by cases l <;> decide)).trans (retryCounted_crcErr s)
    · exact (congrArg (· != 0) (crc rfl (by cases l <;> decide))).trans (retryCounted_crcSat hsat)
  case done =>
    obtain ⟨hw, hclk⟩ := dieRetrained_up h hd
    have hup : (s.dieRetrained l).bit (linkUpF l) = true := by
      cases l <;> rw [hw.bit_eq _ 0 0 0 (by decide), bit_setb _ _ _ _ _ _ _ _ (by decide)] <;> simp
    refine accepts_ok ⟨hup, hw.mem, fun hl p => hclk hl p p.isLt, ?_⟩
    rintro rfl
    have hs : Within [.PWR_D2D_STATUS] s (s.setb (linkUpF .memory)) := .put (.refl s)
    exact (hs.trans (hw.mono (List.nil_subset _))).regs
  case timeout =>
    obtain ⟨hup, hfail, hw⟩ := dieFailed_status h hd
    exact accepts_ok ⟨hup, hfail, hw.regs, hw.mem.trans (mem_run s _)⟩

end Sys2Proof.Proofs
end

section
/-! The queue and the clock, the reset state, and the order of tags (R31, R34 to R36, R43, R44, R286, R310): a step with and without a
waiting command, what registers read after a power-on reset, and tags as signed differences. -/

namespace Sys2Proof.Proofs
open Sys2Proof Sys2Proof.Machine Sys2Proof.Laws

/-! ### The queue and the clock -/

/-- Ticks with nothing left to do are ticks of the clock alone (log 1). -/
theorem run_idle {s : State} (h : s.soon = []) {n : Nat} (hn : n ≠ 0) : s.run n = s.ticks n := by
  rw [State.run, if_neg hn, h]
  rfl

theorem step_idle {s : State} (hp : s.pending = []) (hs : s.soon = []) : step s = .next (s.ticks 1) := by
  rw [← run_idle hs Nat.one_ne_zero]
  unfold step
  rw [hp]
  rfl

/-- A tick without a rate correction and without a carried fraction is 16 units (R31). -/
theorem ticks_one_uncorrected {s : State} (hs : s.clk.stopped = false) (hr : s.rd .TIME_RATE = 0) (hf : s.clk.frac = 0) :
    s.ticks 1 = { s with clk := { s.clk with raw := s.clk.raw + 1, tag := s.clk.tag + 16, frac := 0 } } := by
  have ht : s.tickRate = 16000000000 := by rw [State.tickRate, hr]; rfl
  rw [State.ticks, if_neg (Bool.eq_false_iff.mp hs), ht, hf]
  rfl

/-- A tick while the timebase is stopped counts the always-on cycles begun (R43, R44). -/
theorem ticks_one_stopped {s : State} (hs : s.clk.stopped = true) :
    s.ticks 1 = s.aoCount (s.clk.raw + 1) := if_pos hs

/-- Settles O1: the two cases of `step`, and one tick of the running and of the stopped clock. -/
theorem stepRunsFrontCommand : Obligations.StepRunsFrontCommand := by
  refine ⟨fun c rest s => rfl, fun s hp hs => ⟨fun hstop => ?_, fun hrun hr hf => ?_⟩⟩
  · rw [step_idle hp hs, ticks_one_stopped hstop]
    rfl
  · rw [step_idle hp hs, ticks_one_uncorrected hrun hr hf]

/-! ### The reset state -/

/-- After a power-on reset a register holds its reset value. -/
theorem rd_reset (r : RegName) (p i j : Nat) : State.reset.rd r p i j = resetWord r i := rfl

/-- The reset value of every register but the state of context 0 is that of its row. -/
theorem rd_reset_row {r : RegName} (h : r ≠ .SCHED_CTX_STAT) (p i j : Nat) : State.reset.rd r p i j = r.row.rst := by
  rw [rd_reset, resetWord, if_neg fun hc => h hc.1]

theorem f_reset {f : Fld} (h : f.r ≠ .SCHED_CTX_STAT) (p i j : Nat) : State.reset.f f p i j = f.get f.r.row.rst := by
  rw [State.f, rd_reset_row h]

theorem bit_reset {f : Fld} (h : f.r ≠ .SCHED_CTX_STAT) (p i j : Nat) : State.reset.bit f p i j = (f.get f.r.row.rst != 0) := by
  rw [State.bit, f_reset h]

/-- No SRAM word is valid at reset, so each byte reads zero (R310). -/
theorem byte_reset {a : Nat} (h : isSram a = true) : State.reset.byte a = 0 := by
  have hv : State.reset.wvalid a = false := by simp [State.wvalid, State.reset, SMap.get]
  simp [State.byte, h, hv]

/-- Settles O54: each field is read off its row's reset value. -/
theorem resetStateFollowsTheTables : Obligations.ResetStateFollowsTheTables := by
  have fld (f : Fld) (p i j : Nat) (h : f.r ≠ .SCHED_CTX_STAT := by decide) := f_reset h p i j
  have bit (f : Fld) (p i j : Nat) (h : f.r ≠ .SCHED_CTX_STAT := by decide) := bit_reset h p i j
  exact ⟨rfl, rfl, rfl, rfl, fun a h1 h2 => byte_reset (decide_eq_true ⟨h1, h2⟩), fun ln => fld _ _ _ _, fld _ _ _ _,
    fun q => ⟨fld _ _ _ _, fld _ _ _ _, bit _ _ _ _⟩, fun p k => ⟨fld _ _ _ _, fld _ _ _ _, bit _ _ _ _⟩, fun p a => fld _ _ _ _,
    fun c k => ⟨rd_reset_row (by decide) _ _ _, rd_reset_row (by decide) _ _ _⟩, fun c => congrArg _ (rd_reset _ _ _ _),
    fun p l high => by cases high <;> exact bit _ _ _ _, fun n => bit _ _ _ _⟩

/-! ### The order of tags -/

/-- A tag is after another where their signed difference is positive (R35). -/
theorem after_iff (a b : Tag) : Tag.after a b = true ↔ 0 < (a - b).toInt := by
  rw [Tag.after, decide_eq_true_eq, BitVec.toInt_eq_toNat_cond]
  have := (a - b).isLt
  split <;> omega

/-- A tag is before another where their signed difference is negative, half the range included (R35, R36). -/
theorem before_iff (a b : Tag) : Tag.before a b = true ↔ (a - b).toInt < 0 := by
  rw [Tag.before, decide_eq_true_eq, BitVec.toInt_eq_toNat_cond]
  have := (a - b).isLt
  split <;> omega

theorem toInt_sub_eq_zero (a b : Tag) : (a - b).toInt = 0 ↔ a = b := by
  rw [← BitVec.toInt_zero (w := 64), BitVec.toInt_inj]
  exact sub_eq_zero

/-- Settles O59: both comparisons read the sign of the difference. -/
theorem tagsAreComparedBySignedDifference : Obligations.TagsAreComparedBySignedDifference := by
  intro a b d
  refine ⟨toInt_sub_eq_zero a b, ?_, ?_, ?_, ?_⟩ <;>
    simp only [Bool.eq_false_iff, ne_eq, after_iff, before_iff] <;> omega

end Sys2Proof.Proofs
end

section
/-! What a report leaves beside its registers: the pending of an interrupt source, a record of the system log, a link's new state and an
alarm change registers, cores, pairs and logs, and the power state at most by an alarm past the point of no return (R346, R396 to R400). -/

namespace Sys2Proof.Proofs
open Sys2Proof Sys2Proof.Machine Sys2Proof.Laws

/-! ### Footprints -/

/-- Between two states only registers, cores, pairs and logs have changed. -/
structure Noted (s t : State) : Prop where
  rest : t = { s with regs := t.regs, cores := t.cores, pairs := t.pairs, log := t.log }

/-- Between two states only registers, cores, pairs, logs and the power state have changed. -/
structure Reported (s t : State) : Prop where
  rest : t = { s with regs := t.regs, cores := t.cores, pairs := t.pairs, log := t.log, pwr := t.pwr }

namespace Noted

variable {s a t : State}

theorem refl (s : State) : Noted s s := ⟨rfl⟩

theorem trans (h : Noted s a) (g : Noted a t) : Noted s t := ⟨by rw [g.rest, h.rest]⟩

theorem ite {c : Prop} {_ : Decidable c} (h : Noted s a) (g : Noted s t) : Noted s (if c then a else t) := by
  split <;> assumption

theorem foldl (h : Noted s a) {α : Type} {f : State → α → State} (hf : ∀ u x, Noted u (f u x)) (xs : List α) : Noted s (xs.foldl f a) :=
  List.foldlRecOn xs f h fun u hu x _ => hu.trans (hf u x)

/-- A field write: also of a bit that is set or cleared. -/
theorem put (h : Noted s a) {f : Fld} {n p i j : Nat} : Noted s (a.put f n p i j) := h.trans ⟨rfl⟩

theorem inc (h : Noted s a) {f : Fld} {p i j : Nat} : Noted s (a.inc f p i j) := h.trans (.ite ⟨rfl⟩ ⟨rfl⟩)

theorem of_logsOnly (h : LogsOnly s t) : Noted s t := ⟨by rw [h.rest]⟩

theorem pwr (h : Noted s t) : t.pwr = s.pwr := by rw [h.rest]
theorem clk (h : Noted s t) : t.clk = s.clk := by rw [h.rest]
theorem net (h : Noted s t) : t.net = s.net := by rw [h.rest]

end Noted

namespace Reported

variable {s a t : State}

theorem refl (s : State) : Reported s s := ⟨rfl⟩

theorem trans (h : Reported s a) (g : Reported a t) : Reported s t := ⟨by rw [g.rest, h.rest]⟩

theorem ite {c : Prop} {_ : Decidable c} (h : Reported s a) (g : Reported s t) : Reported s (if c then a else t) := by
  split <;> assumption

theorem of_noted (h : Noted s t) : Reported s t := ⟨by rw [h.rest]⟩

theorem clk (h : Reported s t) : t.clk = s.clk := by rw [h.rest]
theorem dma (h : Reported s t) : t.dma = s.dma := by rw [h.rest]
theorem net (h : Reported s t) : t.net = s.net := by rw [h.rest]

end Reported

/-! ### Interrupt sources -/

theorem noted_jnl (s : State) (n : Nat) (r : JRec) : Noted s (s.jnl n r) := by
  unfold State.jnl
  extract_lets s1 k s2 s3
  have h2 : Noted s s2 := ⟨rfl⟩
  have h3 : Noted s s3 := .ite (h2.trans ⟨rfl⟩) h2
  exact .ite (.ite (h3.trans ⟨rfl⟩) h3) (.refl s)

theorem noted_schedJobs (s : State) (c : Nat) : Noted s (s.schedJobs c) := by
  unfold State.schedJobs
  extract_lets s1
  split <;> exact ⟨rfl⟩

theorem noted_wakeBySource (s : State) (c src : Nat) (g : Tag) : Noted s (s.wakeBySource c src g) := by
  unfold State.wakeBySource
  split
  · exact .refl s
  · exact .trans ⟨rfl⟩ (noted_schedJobs _ c)

theorem noted_pendSrc (s : State) (c src : Nat) : Noted s (s.pendSrc c src) :=
  .ite (.inc (.put (.refl s))) ((Noted.trans ⟨rfl⟩ (noted_jnl _ _ _)).trans (noted_wakeBySource _ _ _ _))

theorem noted_ringNotice (s : State) (n : Nat) : Noted s (s.ringNotice n) := .ite (noted_pendSrc s _ _) (.refl s)

theorem noted_slogAdd (s : State) (ty : Nat) (b c d : Word) (e : Tag) : Noted s (s.slogAdd ty b c d e) :=
  .of_logsOnly (logsOnly_stageRec _ _ _)

/-! ### Alarms -/

theorem noted_markAq (s : State) (n i : Nat) : Noted s (s.markAq n i) := .ite (.refl s) ⟨rfl⟩

theorem noted_setAq (s : State) (n : Nat) (es : List LogRec) (is : List Nat) : Noted s (s.setAq n es is) :=
  .foldl ⟨rfl⟩ (fun u i => noted_markAq u n i) is

theorem noted_newAq (s : State) (n : Nat) (r : LogRec) : Noted s (s.newAq n r) := (noted_setAq s n _ _).trans (noted_ringNotice _ n)

/-- Before the point of no return an alarm leaves the power state. -/
theorem noted_alarmTo {s : State} (h : s.pwr.past = false) (n kind idx code : Nat) (d6 d7 : Word) (g : Tag) :
    Noted s (s.alarmTo n kind idx code d6 d7 g) := by
  unfold State.alarmTo
  extract_lets w0 key es kbit
  rw [if_neg (Bool.eq_false_iff.mp h)]
  refine .ite ?_ (.refl s)
  split
  · exact noted_setAq _ _ _ _
  · split
    · exact .ite (noted_setAq _ _ _ _) (noted_newAq _ _ _)
    · exact .ite (noted_newAq _ _ _) (noted_newAq _ _ _)

theorem noted_alarm {s : State} (h : s.pwr.past = false) (ts : List Nat) (kind idx code : Nat) (d6 d7 : Word) (g : Tag) :
    Noted s (s.alarm ts kind idx code d6 d7 g) :=
  List.foldlRecOn _ _ (.refl s) fun _ hu n _ => hu.trans (noted_alarmTo (hu.pwr ▸ h) n kind idx code d6 d7 g)

theorem reported_supply (s : State) (core on : Bool) : Reported s (s.supply core on) := .ite (.refl s) ⟨rfl⟩

theorem reported_wakePast (s : State) (b : Nat) : Reported s (s.wakePast b) := by
  unfold State.wakePast
  extract_lets st w s1 s2 src s3
  have h1 : Reported s s1 := .ite (.refl s) ⟨rfl⟩
  have h3 : Reported s s3 := h1.trans ⟨rfl⟩
  have hf := h3.trans (reported_supply s3 false true)
  exact .ite (.ite (hf.trans (reported_supply _ true true)) hf) h3

/-- Past the point of no return an alarm is held, and can be the wake that the exit starts with (R445, R446). -/
theorem reported_holdAlarm (s : State) (n : Nat) (w0 d6 d7 : Word) (g : Tag) : Reported s (s.holdAlarm n w0 d6 d7 g) := by
  unfold State.holdAlarm
  extract_lets hs same isOvf kbit new src s1
  exact .ite (Reported.trans ⟨rfl⟩ (reported_wakePast s1 10)) ⟨rfl⟩

theorem reported_alarm (s : State) (ts : List Nat) (kind idx code : Nat) (d6 d7 : Word) (g : Tag) :
    Reported s (s.alarm ts kind idx code d6 d7 g) := by
  refine List.foldlRecOn _ _ (.refl s) fun u hu n _ => hu.trans ?_
  cases h : u.pwr.past with
  | false => exact .of_noted (noted_alarmTo h n kind idx code d6 d7 g)
  | true =>
    unfold State.alarmTo
    rw [if_pos h]
    exact reported_holdAlarm _ _ _ _ _ _

/-! ### Alarm queues -/

theorem aq_jnl (s : State) (n : Nat) (r : JRec) (k : Nat) : (s.jnl n r).aq k = s.aq k := by
  unfold State.jnl
  extract_lets s1 f s2 s3
  have h3 : s3.aq k = s.aq k := by
    unfold s3
    split <;> rfl
  split
  · split
    · exact h3
    · exact h3
  · rfl

theorem aq_wakeBySource (s : State) (c src : Nat) (g : Tag) (k : Nat) : (s.wakeBySource c src g).aq k = s.aq k := by
  unfold State.wakeBySource
  split
  · rfl
  · unfold State.schedJobs
    extract_lets s1
    split <;> rfl

theorem aq_inc (s : State) (f : Fld) (p i j k : Nat) : (s.inc f p i j).aq k = s.aq k := by
  unfold State.inc
  split <;> rfl

theorem aq_ringNotice (s : State) (n k : Nat) : (s.ringNotice n).aq k = s.aq k := by
  unfold State.ringNotice State.pendSrc
  split
  · split
    · exact aq_inc _ _ _ _ _ _
    · exact (aq_wakeBySource _ _ _ _ _).trans (aq_jnl _ _ _ _)
  · rfl

theorem aq_setAq (s : State) (n : Nat) (es : List LogRec) (is : List Nat) : (s.setAq n es is).aq n = es := by
  have mark (u : State) (i : Nat) (h : u.aq n = es) : (u.markAq n i).aq n = es := by
    unfold State.markAq
    dsimp only
    split <;> exact h
  refine List.foldlRecOn is (fun s i => s.markAq n i) (motive := fun u : State => u.aq n = es) ?_ fun u hu i _ => mark u i hu
  exact (SMap_get_set _ _ _ _ _).trans (if_pos rfl)

/-- Before the point of no return an empty queue takes an alarm under its tag (R396). -/
theorem aq_alarm_of_nil {s : State} {n : Nat} (hp : s.pwr.past = false) (hn : s.tenEn n = true) (h : s.aq n = [])
    (kind idx code : Nat) (d6 d7 : Word) (g : Tag) : ((s.alarm [n] kind idx code d6 d7 g).aq n).map LogRec.first = [g] := by
  show ((s.alarmTo n kind idx code d6 d7 g).aq n).map LogRec.first = [g]
  unfold State.alarmTo
  extract_lets w0 key es kbit
  rw [if_neg (Bool.eq_false_iff.mp hp), if_pos hn, show es = [] from h]
  simp only [List.findIdx?_nil, List.length_nil]
  rw [if_neg (by decide), State.newAq, aq_ringNotice, aq_setAq, h]
  rfl

/-! ### A link's state -/

theorem noted_setLink (s : State) (ln st : Nat) : Noted s (s.setLink ln st) :=
  ((Noted.put (.refl s)).trans (noted_slogAdd _ _ _ _ _ _)).trans (noted_ringNotice _ 0)

theorem within_slogAdd (s : State) (ty : Nat) (b c d : Word) (e : Tag) : Within lossRegs s (s.slogAdd ty b c d e) :=
  .of_logsOnly (logsOnly_stageRec _ _ _)

theorem within_setLink (s : State) (ln st : Nat) : Within linkRegs s (s.setLink ln st) :=
  ((Within.put (.refl s)).trans (within_slogAdd _ _ _ _ _ _).mono).trans (within_ringNotice _ 0).mono

/-- A link's state after it was set: the new one for its lane, every other as before. -/
theorem lnSt_setLink (s : State) (ln st k : Nat) : (s.setLink ln st).lnSt k = if k = ln then st % 8 else s.lnSt k := by
  have h : Within (pendRegs ++ lossRegs) (s.put F.FAB_LSTAT.state st 0 ln) (s.setLink ln st) :=
    (within_slogAdd _ _ _ _ _ _).mono.trans (within_ringNotice _ 0).mono
  rw [State.lnSt, h.f_eq F.FAB_LSTAT.state]
  split
  · next hk => rw [hk]; exact f_put_self s F.FAB_LSTAT.state st 0 ln 0 (by decide)
  · next hk =>
    simp only [State.lnSt, State.f, rd_put, hk]
    rfl

end Sys2Proof.Proofs
end

section
/-! Action slots (R41, R52 to R58): what dropping a slot's action and finding it late leave, and folds in which each slot meets one step
of its own. -/

namespace Sys2Proof.Proofs
open Sys2Proof Sys2Proof.Machine Sys2Proof.Laws

/-! ### Register pairs -/

theorem ofWords_hi_lo (g : Tag) : Tag.ofWords g.hi g.lo = g := by
  unfold Tag.ofWords Tag.hi Tag.lo
  ext i hi
  simp only [BitVec.getElem_or, BitVec.getElem_shiftLeft, BitVec.getElem_setWidth, BitVec.getLsbD_setWidth, BitVec.getLsbD_ushiftRight]
  by_cases h : i < 32
  · simp [h, BitVec.getLsbD_eq_getElem hi]
  · have h2 : i - 32 < 32 := by omega
    have h3 : 32 + (i - 32) = i := by omega
    simp [h, h2, h3, BitVec.getLsbD_eq_getElem hi]

theorem pairAt_setPair (s : State) {lo hi : RegName} (h : lo ≠ hi) (g : Tag) (p i j : Nat) :
    (s.setPair lo hi g p i j).pairAt lo hi p i j = g := by
  rw [State.pairAt, State.setPair, rd_wr_self, rd_wr_name _ h, rd_wr_self, ofWords_hi_lo]

theorem rd_setPair_name (s : State) {lo hi r : RegName} (hl : r ≠ lo) (hh : r ≠ hi) (g : Tag) (p i j p' i' j' : Nat) :
    (s.setPair lo hi g p i j).rd r p' i' j' = s.rd r p' i' j' := by
  rw [State.setPair, rd_wr_name _ hh, rd_wr_name _ hl]

theorem f_setPair_name (s : State) {lo hi : RegName} {f : Fld} (hl : f.r ≠ lo) (hh : f.r ≠ hi) (g : Tag) (p i j p' i' j' : Nat) :
    (s.setPair lo hi g p i j).f f p' i' j' = s.f f p' i' j' := congrArg f.get (rd_setPair_name s hl hh g p i j p' i' j')

theorem bit_setPair_name (s : State) {lo hi : RegName} {f : Fld} (hl : f.r ≠ lo) (hh : f.r ≠ hi) (g : Tag) (p i j p' i' j' : Nat) :
    (s.setPair lo hi g p i j).bit f p' i' j' = s.bit f p' i' j' := congrArg (· != 0) (f_setPair_name s hl hh g p i j p' i' j')

/-- A field write leaves every register of another name. -/
theorem rd_put_name (s : State) {f : Fld} {r : RegName} (h : r ≠ f.r) (n p i j p' i' j' : Nat) :
    (s.put f n p i j).rd r p' i' j' = s.rd r p' i' j' := rd_wr_name s h _ _ _ _ _ _ _

theorem pairAt_put (s : State) {f : Fld} {lo hi : RegName} (hl : lo ≠ f.r) (hh : hi ≠ f.r) (n p i j p' i' j' : Nat) :
    (s.put f n p i j).pairAt lo hi p' i' j' = s.pairAt lo hi p' i' j' :=
  congrArg₂ Tag.ofWords (rd_put_name s hh n p i j p' i' j') (rd_put_name s hl n p i j p' i' j')

/-- A register pair is left by a write of another one. -/
theorem pairAt_setPair_name (s : State) {lo hi l h : RegName} (hn : l ≠ lo ∧ l ≠ hi ∧ h ≠ lo ∧ h ≠ hi) (g : Tag) (p i j p' i' j' : Nat) :
    (s.setPair lo hi g p i j).pairAt l h p' i' j' = s.pairAt l h p' i' j' :=
  congrArg₂ Tag.ofWords (rd_setPair_name s hn.2.2.1 hn.2.2.2 g p i j p' i' j') (rd_setPair_name s hn.1 hn.2.1 g p i j p' i' j')

theorem f_clrb_apart (s : State) {f g : Fld} (h : fldsApart f g) (p i j p' i' j' : Nat) :
    (s.clrb f p i j).f g p' i' j' = s.f g p' i' j' := f_put_apart s h _ _ _ _ _ _ _

theorem bit_clrb_apart (s : State) {f g : Fld} (h : fldsApart f g) (p i j p' i' j' : Nat) :
    (s.clrb f p i j).bit g p' i' j' = s.bit g p' i' j' := bit_put_apart s h _ _ _ _ _ _ _

theorem f_setb_apart (s : State) {f g : Fld} (h : fldsApart f g) (p i j p' i' j' : Nat) :
    (s.setb f p i j).f g p' i' j' = s.f g p' i' j' := f_put_apart s h _ _ _ _ _ _ _

/-- A bit that was set at a place reads true there. -/
theorem bit_setb_self (s : State) (f : Fld) (p i j : Nat) (h : f.lo + f.w ≤ 32 ∧ f.w ≠ 0) : (s.setb f p i j).bit f p i j = true := by
  simp [bit_setb s f p i j p i j h]

/-- A bit that was cleared at a place reads false there. -/
theorem bit_clrb_self (s : State) (f : Fld) (p i j : Nat) (h : f.lo + f.w ≤ 32) : (s.clrb f p i j).bit f p i j = false := by
  simp [bit_clrb s f p i j p i j h]

/-! ### Late and dropped slots -/

/-- The registers of a slot that its own changes touch. -/
def slotRegs : List RegName := [.TIME_ACT_CTL, .TIME_ACT_STAT, .TIME_ACT_FIRE_LO, .TIME_ACT_FIRE_HI]

/-- Between two states slots have changed: their registers, and what fires in this tick. -/
structure SlotsMoved (s t : State) : Prop where
  within : Within slotRegs s t
  rest : t = { s with regs := t.regs, clk := t.clk }
  clk : t.clk = { s.clk with due := t.clk.due }

theorem SlotsMoved.refl (s : State) : SlotsMoved s s := ⟨.refl s, rfl, rfl⟩

theorem SlotsMoved.trans {s a t : State} (h : SlotsMoved s a) (g : SlotsMoved a t) : SlotsMoved s t :=
  ⟨h.within.trans g.within, by rw [g.rest, h.rest], by rw [g.clk, h.clk]⟩

theorem SlotsMoved.ite {s a t : State} {c : Prop} {_ : Decidable c} (h : SlotsMoved s a) (g : SlotsMoved s t) :
    SlotsMoved s (if c then a else t) := by
  split <;> assumption

theorem slotsMoved_slotDrop (s : State) (n : Nat) : SlotsMoved s (s.slotDrop n) :=
  ⟨.updClk (.setPair (.put (.put (.refl s)))), rfl, rfl⟩

theorem slotsMoved_slotLate (s : State) (n : Nat) : SlotsMoved s (s.slotLate n) :=
  have h : SlotsMoved s (s.setb F.TIME_ACT_STAT.late 0 n) := ⟨.put (.refl s), rfl, rfl⟩
  .ite (h.trans (slotsMoved_slotDrop _ n)) (h.trans ⟨.updClk (.refl _), rfl, rfl⟩)

/-- A slot that drops its action is disarmed and no longer waits to fire (R54, R58). -/
theorem slotDrop_slot (s : State) (n : Nat) :
    (s.slotDrop n).slotArmed n = false ∧ (s.slotDrop n).bit F.TIME_ACT_STAT.dropped 0 n = true ∧
      (s.slotDrop n).pairAt .TIME_ACT_FIRE_LO .TIME_ACT_FIRE_HI 0 n = s.now ∧
      (s.slotDrop n).bit F.TIME_ACT_STAT.late 0 n = s.bit F.TIME_ACT_STAT.late 0 n := by
  simp (disch := decide) only [State.slotDrop, State.slotArmed, bit_updClk, bit_setPair_name, bit_setb_self, bit_setb_apart,
    bit_clrb_self, bit_clrb_apart, true_and, and_true]
  exact pairAt_setPair _ (by decide) _ _ _ _

/-- A late slot: with skip_late its action is dropped, without it the slot fires in this tick (R41, R54). -/
theorem slotLate_slot (s : State) (n : Nat) :
    (s.slotLate n).bit F.TIME_ACT_STAT.late 0 n = true ∧
      (s.bit F.TIME_ACT_CTL.skip_late 0 n = true → (s.slotLate n).slotArmed n = false ∧
        (s.slotLate n).bit F.TIME_ACT_STAT.dropped 0 n = true ∧
        (s.slotLate n).pairAt .TIME_ACT_FIRE_LO .TIME_ACT_FIRE_HI 0 n = s.now) ∧
      (s.bit F.TIME_ACT_CTL.skip_late 0 n = false → (s.slotLate n).slotArmed n = s.slotArmed n ∧ n ∈ (s.slotLate n).clk.due) := by
  have hs : (s.setb F.TIME_ACT_STAT.late 0 n).bit F.TIME_ACT_CTL.skip_late 0 n = s.bit F.TIME_ACT_CTL.skip_late 0 n :=
    bit_setb_apart s (by decide) _ _ _ _ _ _
  have hl : (s.setb F.TIME_ACT_STAT.late 0 n).bit F.TIME_ACT_STAT.late 0 n = true := bit_setb_self s _ _ _ _ (by decide)
  unfold State.slotLate
  dsimp only
  rw [hs]
  cases s.bit F.TIME_ACT_CTL.skip_late 0 n with
  | true =>
    obtain ⟨harm, hdrop, hfire, hlate⟩ := slotDrop_slot (s.setb F.TIME_ACT_STAT.late 0 n) n
    exact ⟨hlate.trans hl, fun _ => ⟨harm, hdrop, hfire⟩, nofun⟩
  | false =>
    exact ⟨hl, nofun, fun _ => ⟨bit_setb_apart s (by decide) _ _ _ _ _ _, List.mem_append_right _ List.mem_cons_self⟩⟩

/-! ### Folds over slots -/

/-- A fold in which every other element leaves the relation `R` intact passes through the step of one of its elements once. -/
theorem foldl_single {α : Type} {f : State → α → State} {R : State → State → Prop} (refl : ∀ u, R u u)
    (trans : ∀ u v w, R u v → R v w → R u w) {x : α} (other : ∀ u y, y ≠ x → R u (f u y)) {xs : List α} (hn : xs.Nodup) (hx : x ∈ xs)
    (s : State) : ∃ a, R s a ∧ R (f a x) (xs.foldl f s) := by
  obtain ⟨l, r, rfl⟩ := List.append_of_mem hx
  have hl : x ∉ l := fun h => (List.disjoint_of_nodup_append hn) h List.mem_cons_self
  have hr : x ∉ r := (List.nodup_cons.mp (List.nodup_append.mp hn).2.1).1
  have through (ys : List α) (hy : x ∉ ys) (a : State) : R a (ys.foldl f a) :=
    List.foldlRecOn ys f (refl a) fun u hu y hm => trans _ _ _ hu (other u y fun he => hy (he ▸ hm))
  refine ⟨l.foldl f s, through l hl s, ?_⟩
  rw [List.foldl_append, List.foldl_cons]
  exact through r hr _

/-- Between two states the registers of slot `n` have not changed, nor the tag. -/
structure SlotSame (n : Nat) (s t : State) : Prop where
  tag : t.now = s.now
  regs : ∀ r p j, t.rd r p n j = s.rd r p n j

namespace SlotSame

variable {n : Nat} {s a t : State}

theorem refl (s : State) : SlotSame n s s := ⟨rfl, fun _ _ _ => rfl⟩

theorem trans (h : SlotSame n s a) (g : SlotSame n a t) : SlotSame n s t :=
  ⟨g.tag.trans h.tag, fun r p j => (g.regs r p j).trans (h.regs r p j)⟩

theorem ite {c : Prop} {_ : Decidable c} (h : SlotSame n s a) (g : SlotSame n s t) : SlotSame n s (if c then a else t) := by
  split <;> assumption

theorem wr (h : SlotSame n s a) {m : Nat} (hm : m ≠ n) {r : RegName} {v : Word} {p j : Nat} : SlotSame n s (a.wr r v p m j) :=
  ⟨h.tag, fun r' p' j' => (rd_wr a r r' v p m j p' n j').trans ((if_neg fun hc => hm hc.2.2.1.symm).trans (h.regs r' p' j'))⟩

theorem put (h : SlotSame n s a) {m : Nat} (hm : m ≠ n) {f : Fld} {v p j : Nat} : SlotSame n s (a.put f v p m j) := h.wr hm

theorem setPair (h : SlotSame n s a) {m : Nat} (hm : m ≠ n) {lo hi : RegName} {g : Tag} {p j : Nat} :
    SlotSame n s (a.setPair lo hi g p m j) := (h.wr hm).wr hm

theorem bit_eq (h : SlotSame n s t) (f : Fld) (p j : Nat) : t.bit f p n j = s.bit f p n j :=
  congrArg (fun w => f.get w != 0) (h.regs f.r p j)

theorem pairAt_eq (h : SlotSame n s t) (lo hi : RegName) (p j : Nat) : t.pairAt lo hi p n j = s.pairAt lo hi p n j :=
  congrArg₂ Tag.ofWords (h.regs hi p j) (h.regs lo p j)

end SlotSame

theorem slotSame_slotDrop {m n : Nat} (h : m ≠ n) (s : State) : SlotSame n s (s.slotDrop m) := by
  obtain ⟨ht, hr⟩ := SlotSame.setPair (lo := .TIME_ACT_FIRE_LO) (hi := .TIME_ACT_FIRE_HI) (g := s.now) (p := 0) (j := 0)
    (((SlotSame.refl s).put h (f := F.TIME_ACT_CTL.arm) (v := 0) (p := 0) (j := 0)).put h (f := F.TIME_ACT_STAT.dropped) (v := 1)
      (p := 0) (j := 0)) h
  exact ⟨ht, hr⟩

theorem slotSame_slotLate {m n : Nat} (h : m ≠ n) (s : State) : SlotSame n s (s.slotLate m) := by
  have hl : SlotSame n s (s.setb F.TIME_ACT_STAT.late 0 m) := (SlotSame.refl s).put h
  exact .ite (hl.trans (slotSame_slotDrop h _)) ⟨hl.tag, hl.regs⟩

theorem slotsMoved_slotsAtStep (s : State) : SlotsMoved s s.slotsAtStep :=
  List.foldlRecOn _ _ (.refl s) fun _ hu n _ => hu.trans (.ite (slotsMoved_slotLate _ n) (.refl _))

/-- An armed slot whose target the step has passed is late (R41). -/
theorem slotsAtStep_slot {s : State} {n : Nat} (hn : n < 64) (ha : s.slotArmed n = true) (hb : Tag.before (s.slotTgt n) s.now = true) :
    s.slotsAtStep.bit F.TIME_ACT_STAT.late 0 n = true ∧
      s.slotsAtStep.slotArmed n = !s.bit F.TIME_ACT_CTL.skip_late 0 n ∧
      (s.bit F.TIME_ACT_CTL.skip_late 0 n = true → s.slotsAtStep.bit F.TIME_ACT_STAT.dropped 0 n = true) := by
  obtain ⟨a, hsa, hat⟩ := foldl_single (R := SlotSame n) .refl (fun _ _ _ => .trans) (x := n)
    (fun u m hm => SlotSame.ite (c := (u.slotArmed m && Tag.before (u.slotTgt m) u.now) = true) (slotSame_slotLate hm u) (.refl u))
    List.nodup_range (List.mem_range.mpr hn) s
  have harm : a.slotArmed n = true := (hsa.bit_eq _ _ _).trans ha
  have htgt : Tag.before (a.slotTgt n) a.now = true := by
    rw [State.slotTgt, hsa.pairAt_eq, hsa.tag]
    exact hb
  rw [if_pos (by rw [harm, htgt]; rfl)] at hat
  change SlotSame n (a.slotLate n) s.slotsAtStep at hat
  obtain ⟨hlate, hskip, hstay⟩ := slotLate_slot a n
  rw [hsa.bit_eq] at hskip hstay
  refine ⟨(hat.bit_eq _ _ _).trans hlate, (hat.bit_eq _ _ _).trans ?_, fun hs => (hat.bit_eq _ _ _).trans (hskip hs).2.1⟩
  cases hs : s.bit F.TIME_ACT_CTL.skip_late 0 n with
  | true => exact (hskip hs).1
  | false => exact (hstay hs).1.trans harm

/-- After the entry into Den or Kennel no slot is armed (R58). -/
theorem slotsOff_slot (s : State) {n : Nat} (hn : n < 64) : s.slotsOff.slotArmed n = false := by
  have drop (u : State) (m : Nat) (hu : u.slotArmed n = false) : (u.slotDrop m).slotArmed n = false := by
    by_cases hm : m = n
    · rw [hm]; exact (slotDrop_slot u n).1
    · exact ((slotSame_slotDrop hm u).bit_eq _ _ _).trans hu
  refine foldl_establishes (Q := fun u => u.slotArmed n = false) (fun u m hu => ?_) (x := n) (fun u => ?_) (List.mem_range.mpr hn) s
  · split
    · exact drop u m hu
    · exact hu
  · split
    · exact (slotDrop_slot u n).1
    · next h => exact Bool.eq_false_iff.mpr h

theorem slotsMoved_slotsOff (s : State) : SlotsMoved s s.slotsOff :=
  List.foldlRecOn _ _ (.refl s) fun _ hu n _ => hu.trans (.ite (slotsMoved_slotDrop _ n) (.refl _))

end Sys2Proof.Proofs
end

section
/-! The timebase (R31, R38, R39, R41, R44, R45, R486): its states, the one step and the slew, the loss of synchronisation, and the
always-on shadow. -/

namespace Sys2Proof.Proofs
open Sys2Proof Sys2Proof.Machine Sys2Proof.Laws

/-! ### States of the timebase -/

theorem pairAt_within {rs : List RegName} {s t : State} (h : Within rs s t) (lo hi : RegName) (p i j : Nat) (hl : lo ∉ rs := by decide)
    (hh : hi ∉ rs := by decide) : t.pairAt lo hi p i j = s.pairAt lo hi p i j :=
  congrArg₂ Tag.ofWords (h.regs hi p i j hh) (h.regs lo p i j hl)

theorem timeSt_within {rs : List RegName} {s t : State} (h : Within rs s t) (hr : RegName.TIME_STATUS ∉ rs := by decide) :
    t.timeSt = s.timeSt := h.f_eq F.TIME_STATUS.state 0 0 0 hr

/-- The registers that a change of the timebase's state can change (R38, R45). -/
def timeRegs : List RegName := .TIME_STATUS :: alarmRegs

/-- The state is set and the message counts start anew. -/
def timeSet (s : State) (st : Nat) : State := (s.put F.TIME_STATUS.state st).updClk fun k => { k with good := 0, bad := 0 }

theorem timeToAt_stays {s : State} {st : Nat} (h : ¬ (s.timeSt = 1 ∧ st ≠ 1)) (g : Tag) : s.timeToAt st g = timeSet s st := if_neg h

theorem timeToAt_lost {s : State} {st : Nat} (h : s.timeSt = 1 ∧ st ≠ 1) (g : Tag) : s.timeToAt st g = (timeSet s st).lockLost g := if_pos h

theorem within_timeSet (s : State) (st : Nat) : Within [.TIME_STATUS] s (timeSet s st) := .updClk (.put (.refl s))

theorem timeSt_timeSet (s : State) {st : Nat} (h : st < 4) : (timeSet s st).timeSt = st :=
  (f_put_self s F.TIME_STATUS.state st 0 0 0 (by decide)).trans (Nat.mod_eq_of_lt h)

/-- The status that a departure from LOCKED leaves. -/
def lockNoted (s : State) : State := (s.setb F.TIME_STATUS.lock_lost).inc F.TIME_STATUS.lost_cnt

theorem noted_lockNoted (s : State) : Noted s (lockNoted s) := .inc (.put (.refl s))

theorem within_lockNoted (s : State) : Within [.TIME_STATUS] s (lockNoted s) := .inc (.put (.refl s))

theorem lockNoted_status (s : State) :
    (lockNoted s).timeSt = s.timeSt ∧ (lockNoted s).bit F.TIME_STATUS.lock_lost = true ∧
      (lockNoted s).f F.TIME_STATUS.lost_cnt = min (s.f F.TIME_STATUS.lost_cnt + 1) 0xFFFF := by
  refine ⟨?_, ?_, ?_⟩
  · exact (f_inc_apart _ (by decide) _ _ _ _ _ _).trans (f_setb_apart _ (by decide) _ _ _ _ _ _)
  · exact (bit_inc_apart _ (by decide) _ _ _ _ _ _).trans (bit_setb_self _ _ _ _ _ (by decide))
  · rw [lockNoted, f_inc_self _ _ _ _ _ (by decide), f_setb_apart _ (by decide)]
    rfl

theorem within_lockLost (s : State) (g : Tag) : Within alarmRegs (lockNoted s) (s.lockLost g) := within_alarm _ _ _ _ _ _ _ _

theorem reported_lockLost (s : State) (g : Tag) : Reported s (s.lockLost g) :=
  .trans (.of_noted (noted_lockNoted s)) (reported_alarm _ _ _ _ _ _ _ _)

theorem within_timeToAt (s : State) (st : Nat) (g : Tag) : Within timeRegs s (s.timeToAt st g) :=
  .ite ((within_timeSet s st).mono.trans (((within_lockNoted _).mono (rs' := timeRegs)).trans (within_lockLost _ g).mono))
    (within_timeSet s st).mono

/-- A change of state leaves the clock but for the counts of messages. -/
theorem clk_timeToAt (s : State) (st : Nat) (g : Tag) : (s.timeToAt st g).clk = { s.clk with good := 0, bad := 0 } := by
  by_cases h : s.timeSt = 1 ∧ st ≠ 1
  · rw [timeToAt_lost h, (reported_lockLost _ g).clk]
    rfl
  · rw [timeToAt_stays h]
    rfl

theorem timeSt_timeToAt (s : State) {st : Nat} (hst : st < 4) (g : Tag) : (s.timeToAt st g).timeSt = st := by
  by_cases h : s.timeSt = 1 ∧ st ≠ 1
  · rw [timeToAt_lost h, timeSt_within (within_lockLost _ g), (lockNoted_status _).1, timeSt_timeSet s hst]
  · rw [timeToAt_stays h, timeSt_timeSet s hst]

/-- Leaving LOCKED is noted and counted (R45). -/
theorem timeToAt_lockLost {s : State} {st : Nat} (h : s.timeSt = 1 ∧ st ≠ 1) (g : Tag) :
    (s.timeToAt st g).bit F.TIME_STATUS.lock_lost = true ∧
      (s.timeToAt st g).f F.TIME_STATUS.lost_cnt = min (s.f F.TIME_STATUS.lost_cnt + 1) 0xFFFF := by
  obtain ⟨-, hl, hc⟩ := lockNoted_status (timeSet s st)
  rw [timeToAt_lost h, (within_lockLost _ g).bit_eq F.TIME_STATUS.lock_lost, (within_lockLost _ g).f_eq F.TIME_STATUS.lost_cnt, hl, hc]
  exact ⟨rfl, congrArg (fun n => min (n + 1) 0xFFFF) (f_put_apart s (by decide) _ _ _ _ _ _ _)⟩

/-- A change of state keeps the record that the timebase has stepped. -/
theorem stepped_timeToAt (s : State) (st : Nat) (g : Tag) :
    (s.timeToAt st g).bit F.TIME_STATUS.stepped = s.bit F.TIME_STATUS.stepped := by
  have hset : (timeSet s st).bit F.TIME_STATUS.stepped = s.bit F.TIME_STATUS.stepped := bit_put_apart s (by decide) _ _ _ _ _ _ _
  by_cases h : s.timeSt = 1 ∧ st ≠ 1
  · rw [timeToAt_lost h, (within_lockLost _ g).bit_eq F.TIME_STATUS.stepped, lockNoted, bit_inc_apart _ (by decide),
      bit_setb_apart _ (by decide), hset]
  · rw [timeToAt_stays h, hset]

/-- Before the point of no return T0's empty alarm queue holds the loss of lock under its tag (R45, R396). -/
theorem timeToAt_alarm {s : State} {st : Nat} (h : s.timeSt = 1 ∧ st ≠ 1) (g : Tag) (hp : s.pwr.past = false) (hq : s.aq 0 = []) :
    ((s.timeToAt st g).aq 0).map LogRec.first = [g] := by
  rw [timeToAt_lost h]
  exact aq_alarm_of_nil (s := lockNoted (timeSet s st)) ((congrArg PwrSt.past (noted_lockNoted _).pwr).trans hp) rfl
    ((aq_inc _ _ _ _ _ _).trans hq) _ _ _ _ _ _

/-! ### Slew -/

/-- The state and the number that a slew draws for what the spec leaves open (log 33). -/
def slewDrawn (s : State) : State × Nat := s.freshBit.1.freshBelow 400001

/-- An offset, a rate and whether the slew is at its limit. -/
def slewPut (s : State) (offset rate : Word) (sat : Bool) : State :=
  ((s.wr .TIME_OFFSET offset).wr .TIME_RATE rate).putb F.TIME_STATUS.slew_sat sat

theorem timeSlew_eq (s : State) (d : Tag) :
    s.timeSlew d = slewPut (slewDrawn s).1 (nsOffset d s.freshBit.2) (BitVec.ofInt 32 ((slewDrawn s).2 - 200000))
      ((slewDrawn s).2 == 0 || (slewDrawn s).2 == 400000) := rfl

theorem within_slewDrawn (s : State) : Within [] s (slewDrawn s).1 := .hidden (.refl s)

theorem within_slewPut (s : State) (offset rate : Word) (sat : Bool) :
    Within [.TIME_OFFSET, .TIME_RATE, .TIME_STATUS] s (slewPut s offset rate sat) := .put (.wr (.wr (.refl s)))

theorem timeSt_slewPut (s : State) (offset rate : Word) (sat : Bool) : (slewPut s offset rate sat).timeSt = s.timeSt := by
  have h : Within [.TIME_OFFSET, .TIME_RATE] s ((s.wr .TIME_OFFSET offset).wr .TIME_RATE rate) := .wr (.wr (.refl s))
  exact (f_put_apart _ (by decide) _ _ _ _ _ _ _).trans (timeSt_within h)

theorem rate_slewPut (s : State) (offset rate : Word) (sat : Bool) : (slewPut s offset rate sat).rd .TIME_RATE = rate := by
  rw [slewPut, State.putb, rd_put, if_neg (by decide), rd_wr_self]

theorem within_timeSlew (s : State) (d : Tag) : Within [.TIME_OFFSET, .TIME_RATE, .TIME_STATUS] s (s.timeSlew d) :=
  ((within_slewDrawn s).mono (List.nil_subset _)).trans (within_slewPut _ _ _ _)

theorem slewDrawn_lt (s : State) : (slewDrawn s).2 < 400001 := Nat.mod_lt _ (by decide)

theorem toInt_rate {r : Nat} (h : r < 400001) : (BitVec.ofInt 32 ((r : Int) - 200000)).toInt = r - 200000 :=
  BitVec.toInt_ofInt_eq_self (by decide) (by omega) (by omega)

theorem clk_slewPut (s : State) (offset rate : Word) (sat : Bool) : (slewPut s offset rate sat).clk = s.clk := rfl

theorem clk_timeSlew (s : State) (d : Tag) : (s.timeSlew d).clk = s.clk := by
  rw [timeSlew_eq, clk_slewPut]
  rfl

theorem timeSt_timeSlew (s : State) (d : Tag) : (s.timeSlew d).timeSt = s.timeSt := by
  rw [timeSlew_eq, timeSt_slewPut, timeSt_within (within_slewDrawn s)]

/-- A rate that is slewed stays within 200,000 parts per 10^9 (R39). -/
theorem timeSlew_rate (s : State) (d : Tag) :
    -200000 ≤ ((s.timeSlew d).rd .TIME_RATE).toInt ∧ ((s.timeSlew d).rd .TIME_RATE).toInt ≤ 200000 := by
  have hlt := slewDrawn_lt s
  rw [timeSlew_eq, rate_slewPut, toInt_rate hlt]
  omega

/-! ### Messages -/

/-- What an accepted message makes of the state of a timebase that it does not step (R38, R486). -/
def judged (within : Bool) (a : State) : State :=
  if a.timeSt = 2 then a.timeTo 3
  else if a.timeSt = 3 then
    if !within then a.updClk fun k => { k with good := 0 }
    else if a.clk.good = 7 then a.timeTo 1
    else a.updClk fun k => { k with good := k.good + 1 }
  else if within then a.updClk fun k => { k with bad := 0 }
  else if a.clk.bad = 1 then a.timeTo 3
  else a.updClk fun k => { k with bad := 1 }

/-- Between two states the timebase's state, its counts of messages and its reports have changed. -/
structure Judged (s t : State) : Prop where
  within : Within timeRegs s t
  clk : t.clk = { s.clk with good := t.clk.good, bad := t.clk.bad }

theorem judged_timeTo (s : State) (st : Nat) : Judged s (s.timeTo st) :=
  ⟨within_timeToAt s st _, by rw [State.timeTo, clk_timeToAt]⟩

theorem judged_judged (within : Bool) (a : State) : Judged a (judged within a) := by
  have count (f : Clock → Clock) (h : ∀ k, f k = { k with good := (f k).good, bad := (f k).bad }) : Judged a (a.updClk f) :=
    ⟨.updClk (.refl a), h a.clk⟩
  unfold judged
  split
  · exact judged_timeTo a 3
  · split
    · split
      · exact count _ fun _ => rfl
      · split
        · exact judged_timeTo a 1
        · exact count _ fun _ => rfl
    · split
      · exact count _ fun _ => rfl
      · split
        · exact judged_timeTo a 3
        · exact count _ fun _ => rfl

/-- HOLDOVER ends with the first message (R486). -/
theorem judged_holdover (w : Bool) {a : State} (h : a.timeSt = 2) : (judged w a).timeSt = 3 := by
  rw [judged, if_pos h]
  exact timeSt_timeToAt a (by decide) _

/-- RELOCK ends with the eighth message in a row that lies within 5 ns (R486). -/
theorem judged_relock {a : State} (h : a.timeSt = 3) :
    ((judged false a).timeSt = 3 ∧ (judged false a).clk.good = 0) ∧ (a.clk.good = 7 → (judged true a).timeSt = 1) ∧
      (a.clk.good ≠ 7 → (judged true a).timeSt = 3 ∧ (judged true a).clk.good = a.clk.good + 1) := by
  have h2 : a.timeSt ≠ 2 := by omega
  unfold judged
  rw [if_neg h2, if_neg h2, if_pos h, if_pos h]
  refine ⟨⟨h, rfl⟩, fun hg => ?_, fun hg => ?_⟩
  · rw [if_neg (by decide), if_pos hg]
    exact timeSt_timeToAt a (by decide) _
  · rw [if_neg (by decide), if_neg hg]
    exact ⟨h, rfl⟩

/-- LOCKED ends with the second message in a row that lies outside 5 ns (R486). -/
theorem judged_locked {a : State} (h : a.timeSt = 1) :
    ((judged true a).timeSt = 1 ∧ (judged true a).clk.bad = 0) ∧
      (a.clk.bad ≠ 1 → (judged false a).timeSt = 1 ∧ (judged false a).clk.bad = 1) ∧
      (a.clk.bad = 1 → (judged false a).timeSt = 3 ∧ (judged false a).bit F.TIME_STATUS.lock_lost = true) := by
  have h2 : a.timeSt ≠ 2 := by omega
  have h3 : a.timeSt ≠ 3 := by omega
  unfold judged
  rw [if_neg h2, if_neg h2, if_neg h3, if_neg h3]
  refine ⟨⟨h, rfl⟩, fun hb => ?_, fun hb => ?_⟩
  · rw [if_neg (by decide), if_neg hb]
    exact ⟨h, rfl⟩
  · rw [if_neg (by decide), if_pos hb]
    exact ⟨timeSt_timeToAt a (by decide) _, (timeToAt_lockLost ⟨h, by decide⟩ _).1⟩

/-- The timebase follows messages of a domain on a lane (R38, R39). -/
abbrev Follows (s : State) (ln : Nat) (domain : Byte) : Bool :=
  s.bit F.TIME_CTL.sync_en && s.f F.TIME_CTL.domain == domain.toNat && s.f F.FAB_CTL.ts_lane == ln && !s.clk.stopped

/-- The tag of the last accepted message. -/
def messageNoted (s : State) : State := s.updClk fun k => { k with lastMsg := s.now }

theorem lastMsg_messageNoted (s : State) : (messageNoted s).clk.lastMsg = s.clk.tag := rfl

theorem lnSt_messageNoted (s : State) (ln : Nat) : (messageNoted s).lnSt ln = s.lnSt ln := rfl

theorem tsyncMsg_ignored {s : State} {ln : Nat} {domain : Byte} (h : Follows s ln domain = false) (gm : Tag) :
    s.tsyncMsg ln domain gm = s := if_neg (Bool.eq_false_iff.mp h)

theorem tsyncMsg_free {s : State} {ln : Nat} {domain : Byte} (h : Follows s ln domain = true) (h0 : s.timeSt = 0) (gm : Tag) :
    s.tsyncMsg ln domain gm = messageNoted (s.timeStep gm) := by
  unfold State.tsyncMsg
  rw [if_pos h]
  dsimp only
  rw [if_pos h0]
  rfl

theorem tsyncMsg_follows {s : State} {ln : Nat} {domain : Byte} (h : Follows s ln domain = true) (h0 : s.timeSt ≠ 0) (gm : Tag) :
    s.tsyncMsg ln domain gm = messageNoted (judged (decide ((s.now - gm).toInt.natAbs ≤ 80)) (s.timeSlew (s.now - gm))) := by
  unfold State.tsyncMsg judged
  rw [if_pos h]
  dsimp only
  rw [if_neg h0, timeSt_timeSlew]
  rfl

/-! ### The one step -/

/-- The time that the one step takes over, and its record (R39). -/
def stepTaken (s : State) (gm : Tag) : State :=
  ((((s.freshBit.1.wr .TIME_OFFSET (nsOffset (s.now - gm) s.freshBit.2)).updClk fun k => { k with tag := gm, frac := 0 }).setPair
    .TIME_STEP_LO .TIME_STEP_HI (gm - s.now)).setPair .TIME_STEP_AT_LO .TIME_STEP_AT_HI gm).setb F.TIME_STATUS.stepped

/-- The timebase after its one step, before the slots that it passes (R39). -/
def stepReported (s : State) (gm : Tag) : State := ((stepTaken s gm).slogAdd 1 (gm - s.now).lo (gm - s.now).hi 0 gm).timeTo 3

theorem timeStep_eq (s : State) (gm : Tag) : s.timeStep gm = (stepReported s gm).slotsAtStep := rfl

/-- The registers that the one step itself changes. -/
def stepRegs : List RegName := [.TIME_OFFSET, .TIME_STEP_LO, .TIME_STEP_HI, .TIME_STEP_AT_LO, .TIME_STEP_AT_HI, .TIME_STATUS]

theorem within_stepTaken (s : State) (gm : Tag) : Within stepRegs s (stepTaken s gm) :=
  .put (.setPair (.setPair (.updClk (.wr (.hidden (.refl s))))))

/-- What follows the step changes status and reports alone. -/
theorem within_stepReported (s : State) (gm : Tag) : Within (timeRegs ++ lossRegs) (stepTaken s gm) (stepReported s gm) :=
  (within_slogAdd _ _ _ _ _ _).mono.trans (within_timeToAt _ _ _).mono

theorem clk_stepReported (s : State) (gm : Tag) :
    (stepReported s gm).clk = { s.clk with tag := gm, frac := 0, good := 0, bad := 0 } := by
  rw [stepReported, State.timeTo, clk_timeToAt, (noted_slogAdd _ _ _ _ _ _).clk]
  rfl

/-- The one step leaves its record and RELOCK (R39). -/
theorem stepReported_status (s : State) (gm : Tag) :
    (stepReported s gm).timeSt = 3 ∧ (stepReported s gm).bit F.TIME_STATUS.stepped = true ∧
      (stepReported s gm).pairAt .TIME_STEP_LO .TIME_STEP_HI = gm - s.now ∧
      (stepReported s gm).pairAt .TIME_STEP_AT_LO .TIME_STEP_AT_HI = gm := by
  have hw := within_stepReported s gm
  refine ⟨timeSt_timeToAt _ (by decide) _, ?_, ?_, ?_⟩
  · rw [stepReported, State.timeTo, stepped_timeToAt, (within_slogAdd _ _ _ _ _ _).bit_eq F.TIME_STATUS.stepped]
    exact bit_setb_self _ _ _ _ _ (by decide)
  · rw [pairAt_within hw .TIME_STEP_LO .TIME_STEP_HI, stepTaken, State.setb, pairAt_put _ (by decide) (by decide), pairAt_setPair_name _ (by decide),
      pairAt_setPair _ (by decide)]
  · rw [pairAt_within hw .TIME_STEP_AT_LO .TIME_STEP_AT_HI, stepTaken, State.setb, pairAt_put _ (by decide) (by decide), pairAt_setPair _ (by decide)]

/-! ### Links after the lock -/

/-- What a lane sends changes the network's state alone. -/
theorem send_rest (s : State) (ln ty : Nat) (f : Frame) : s.send ln ty f = { s with net := (s.send ln ty f).net } := by
  unfold State.send State.transmit State.owedSent
  dsimp only
  split
  · split <;> rfl
  · rfl

/-- Between two states links have come UP or sent frames. -/
structure LinksUp (s t : State) : Prop where
  within : Within linkRegs s t
  clk : t.clk = s.clk
  lanes : ∀ k, s.lnSt k ≠ 5 → t.lnSt k ≠ 5

theorem LinksUp.refl (s : State) : LinksUp s s := ⟨.refl s, rfl, fun _ h => h⟩

theorem LinksUp.trans {s a t : State} (h : LinksUp s a) (g : LinksUp a t) : LinksUp s t :=
  ⟨h.within.trans g.within, g.clk.trans h.clk, fun k hk => g.lanes k (h.lanes k hk)⟩

theorem linksUp_reportLock (s : State) (ln : Nat) : LinksUp s (s.reportLock ln) := by
  unfold State.reportLock
  split
  · rw [send_rest]
    exact ⟨.hidden (.refl s), rfl, fun _ h => h⟩
  · exact .refl s

theorem linksUp_linkUp (s : State) (ln : Nat) : LinksUp s (s.linkUp ln) := by
  unfold State.linkUp
  split
  · refine ⟨within_setLink s ln 4, (noted_setLink s ln 4).clk, fun k hk => ?_⟩
    rw [lnSt_setLink]
    split
    · decide
    · exact hk
  · exact .refl s

theorem linksUp_lockedNow (s : State) : LinksUp s s.lockedNow :=
  List.foldlRecOn _ _ (.refl s) fun _ hu ln _ => hu.trans ((linksUp_reportLock _ ln).trans (linksUp_linkUp _ ln))

/-! ### TSYNC -/

/-- The state of a lane that has taken a message. -/
def heardOn (s : State) (ln : Nat) : State := (s.acceptSeq ln 7 emptyFrame).hear ln

theorem heardOn_rest (s : State) (ln : Nat) : heardOn s ln = { s with net := (heardOn s ln).net } := rfl

theorem tsync_down {s : State} {ln : Nat} (h : ¬ (s.lnSt ln = 3 ∨ s.lnSt ln = 4)) (h5 : s.lnSt ln ≠ 5) (domain : Byte) (gm : Tag) :
    (s.tsyncIn ln domain gm).drainGoes ln = s := by
  rw [State.tsyncIn, if_neg h, State.drainGoes, if_pos h5]

/-- A message on a lane that carries it: the timebase takes it, and where it has locked, links report it and come UP (R421). -/
theorem tsync_up {s : State} {ln : Nat} (h : s.lnSt ln = 3 ∨ s.lnSt ln = 4) (domain : Byte) (gm : Tag) {m : State}
    (hm : (heardOn s ln).tsyncMsg ln domain gm = m) (hl : m.lnSt ln = s.lnSt ln) :
    LinksUp m ((s.tsyncIn ln domain gm).drainGoes ln) ∧
      ((s.timeSt ≠ 1 → m.timeSt ≠ 1) → (s.tsyncIn ln domain gm).drainGoes ln = m) := by
  have hin : s.tsyncIn ln domain gm = if s.timeSt ≠ 1 ∧ m.timeSt = 1 then m.lockedNow else m := by
    rw [State.tsyncIn, if_pos h, ← hm]
    rfl
  have hup : LinksUp m (s.tsyncIn ln domain gm) := by
    rw [hin]
    split
    · exact linksUp_lockedNow m
    · exact .refl m
  have hd : (s.tsyncIn ln domain gm).drainGoes ln = s.tsyncIn ln domain gm := if_pos (hup.lanes ln (by omega))
  rw [hd]
  exact ⟨hup, fun ht => by rw [hin, if_neg fun hc => ht hc.1 hc.2]⟩

/-- A message that the timebase does not follow changes the network's state alone. -/
theorem tsync_ignored {s : State} {ln : Nat} (h : s.lnSt ln = 3 ∨ s.lnSt ln = 4) {domain : Byte} (hf : Follows s ln domain = false)
    (gm : Tag) : (s.tsyncIn ln domain gm).drainGoes ln = heardOn s ln :=
  (tsync_up h domain gm (tsyncMsg_ignored (s := heardOn s ln) hf gm) rfl).2 id

/-- What the first message that a free timebase follows leaves (R39, R41). -/
structure TimeStepped (s t : State) (gm : Tag) : Prop where
  clk : t.clk.tag = gm ∧ t.clk.raw = s.clk.raw
  state : t.timeSt = 3
  stepped : t.bit F.TIME_STATUS.stepped = true
  step : t.pairAt .TIME_STEP_LO .TIME_STEP_HI = gm - s.now
  at_ : t.pairAt .TIME_STEP_AT_LO .TIME_STEP_AT_HI = gm
  mem : t.mem = s.mem
  slots : ∀ n < 64, s.slotArmed n = true → Tag.before (s.slotTgt n) gm = true → t.bit F.TIME_ACT_STAT.late 0 n = true ∧
    t.slotArmed n = !s.bit F.TIME_ACT_CTL.skip_late 0 n ∧
    (s.bit F.TIME_ACT_CTL.skip_late 0 n = true → t.bit F.TIME_ACT_STAT.dropped 0 n = true)

theorem TimeStepped.of_heardOn {s t : State} {ln : Nat} {gm : Tag} (h : TimeStepped (heardOn s ln) t gm) : TimeStepped s t gm :=
  ⟨h.clk, h.state, h.stepped, h.step, h.at_, h.mem, h.slots⟩

theorem mem_stepReported (s : State) (gm : Tag) : (stepReported s gm).mem = s.mem :=
  (within_stepReported s gm).mem.trans (within_stepTaken s gm).mem

/-- The one step leaves what the slots' own registers and other blocks' fields hold, but for status and reports. -/
theorem rd_stepReported (s : State) (gm : Tag) {r : RegName} (h : r ∉ timeRegs ++ lossRegs) (h' : r ∉ stepRegs) (p i j : Nat) :
    (stepReported s gm).rd r p i j = s.rd r p i j :=
  ((within_stepReported s gm).regs r p i j h).trans ((within_stepTaken s gm).regs r p i j h')

theorem lnSt_timeStep (s : State) (gm : Tag) (ln : Nat) : (s.timeStep gm).lnSt ln = s.lnSt ln :=
  ((slotsMoved_slotsAtStep _).within.f_eq F.FAB_LSTAT.state 0 ln 0).trans
    (congrArg F.FAB_LSTAT.state.get (rd_stepReported s gm (r := .FAB_LSTAT) (by decide) (by decide) 0 ln 0))

theorem TimeStepped.messageNoted {s t : State} {gm : Tag} (h : TimeStepped s t gm) : TimeStepped s (messageNoted t) gm :=
  ⟨h.clk, h.state, h.stepped, h.step, h.at_, h.mem, h.slots⟩

theorem timeStepped_timeStep (s : State) (gm : Tag) : TimeStepped s (s.timeStep gm) gm := by
  have ctl := rd_stepReported s gm (r := .TIME_ACT_CTL) (by decide) (by decide) 0
  have lo := rd_stepReported s gm (r := .TIME_ACT_TGT_LO) (by decide) (by decide) 0
  have hi := rd_stepReported s gm (r := .TIME_ACT_TGT_HI) (by decide) (by decide) 0
  have hm := slotsMoved_slotsAtStep (stepReported s gm)
  obtain ⟨hst, hstep, hpair, hat⟩ := stepReported_status s gm
  rw [timeStep_eq]
  have hclk : (stepReported s gm).slotsAtStep.clk.tag = gm ∧ (stepReported s gm).slotsAtStep.clk.raw = s.clk.raw := by
    rw [hm.clk, clk_stepReported]
    exact ⟨rfl, rfl⟩
  refine ⟨hclk, (timeSt_within hm.within).trans hst, (hm.within.bit_eq F.TIME_STATUS.stepped 0 0 0).trans hstep,
    (pairAt_within hm.within _ _ _ _ _).trans hpair, (pairAt_within hm.within _ _ _ _ _).trans hat, hm.within.mem.trans (mem_stepReported s gm),
    fun n hn ha hb => ?_⟩
  have harm : (stepReported s gm).slotArmed n = true := (congrArg (F.TIME_ACT_CTL.arm.get · != 0) (ctl n 0)).trans ha
  have hskip : (stepReported s gm).bit F.TIME_ACT_CTL.skip_late 0 n = s.bit F.TIME_ACT_CTL.skip_late 0 n :=
    congrArg (F.TIME_ACT_CTL.skip_late.get · != 0) (ctl n 0)
  have htgt : Tag.before ((stepReported s gm).slotTgt n) (stepReported s gm).now = true := by
    rw [State.slotTgt, State.pairAt, lo, hi, State.now, clk_stepReported]
    exact hb
  rw [← hskip]
  exact slotsAtStep_slot hn harm htgt

theorem TimeStepped.linksUp {s m t : State} {gm : Tag} (h : TimeStepped s m gm) (g : LinksUp m t) : TimeStepped s t gm := by
  obtain ⟨hclk, hst, hstep, hpair, hat, hmem, hslots⟩ := h
  have hw := g.within
  refine ⟨g.clk ▸ hclk, (timeSt_within hw).trans hst, (hw.bit_eq F.TIME_STATUS.stepped 0 0 0).trans hstep,
    (pairAt_within hw _ _ _ _ _).trans hpair, (pairAt_within hw _ _ _ _ _).trans hat, hw.mem.trans hmem, fun n hn ha hb => ?_⟩
  rw [State.slotArmed, hw.bit_eq F.TIME_ACT_STAT.late, hw.bit_eq F.TIME_ACT_CTL.arm, hw.bit_eq F.TIME_ACT_STAT.dropped]
  exact hslots n hn ha hb

/-- The first message that a free timebase follows steps it. -/
theorem tsync_steps {s : State} {ln : Nat} (h : s.lnSt ln = 3 ∨ s.lnSt ln = 4) {domain : Byte} (hf : Follows s ln domain = true)
    (h0 : s.timeSt = 0) (gm : Tag) : TimeStepped s ((s.tsyncIn ln domain gm).drainGoes ln) gm ∧
      ((s.tsyncIn ln domain gm).drainGoes ln).clk.lastMsg = gm := by
  have hm := timeStepped_timeStep (heardOn s ln) gm
  have hl := (lnSt_messageNoted _ ln).trans (lnSt_timeStep (heardOn s ln) gm ln)
  obtain ⟨hup, -⟩ := tsync_up h domain gm (tsyncMsg_free (s := heardOn s ln) hf h0 gm) hl
  refine ⟨hm.messageNoted.of_heardOn.linksUp hup, ?_⟩
  rw [hup.clk, lastMsg_messageNoted]
  exact hm.clk.1

/-- What a message that the timebase follows leaves where it does not step: no jump, a bounded rate, and the state that the measured
offset brings (R38, R39, R486). -/
structure TimeSlewed (s t : State) (within : Bool) : Prop where
  clk : t.clk = { s.clk with good := t.clk.good, bad := t.clk.bad, lastMsg := t.clk.lastMsg }
  rate : -200000 ≤ (t.rd .TIME_RATE).toInt ∧ (t.rd .TIME_RATE).toInt ≤ 200000
  mem : t.mem = s.mem
  holdover : s.timeSt = 2 → t.timeSt = 3
  relock : s.timeSt = 3 → (within = false → t.timeSt = 3 ∧ t.clk.good = 0) ∧ (within = true → s.clk.good = 7 → t.timeSt = 1) ∧
    (within = true → s.clk.good ≠ 7 → t.timeSt = 3 ∧ t.clk.good = s.clk.good + 1)
  locked : s.timeSt = 1 → (within = true → t.timeSt = 1 ∧ t.clk.bad = 0) ∧
    (within = false → s.clk.bad ≠ 1 → t.timeSt = 1 ∧ t.clk.bad = 1) ∧
    (within = false → s.clk.bad = 1 → t.timeSt = 3 ∧ t.bit F.TIME_STATUS.lock_lost = true)

theorem TimeSlewed.tag {s t : State} {w : Bool} (h : TimeSlewed s t w) : t.clk.tag = s.clk.tag := by rw [h.clk]

theorem TimeSlewed.raw {s t : State} {w : Bool} (h : TimeSlewed s t w) : t.clk.raw = s.clk.raw := by rw [h.clk]

theorem timeSlewed_judged (s : State) (d : Tag) (within : Bool) : TimeSlewed s (judged within (s.timeSlew d)) within := by
  have hj := judged_judged within (s.timeSlew d)
  have hs := timeSt_timeSlew s d
  have hc := clk_timeSlew s d
  refine ⟨?_, ?_, hj.within.mem.trans (within_timeSlew s d).mem, fun h => judged_holdover within (hs.trans h), fun h => ?_, fun h => ?_⟩
  · rw [hj.clk, hc]
  · rw [hj.within.regs .TIME_RATE 0 0 0 (by decide)]
    exact timeSlew_rate s d
  · obtain ⟨hf, h7, hn⟩ := judged_relock (hs.trans h)
    rw [hc] at h7 hn
    cases within with
    | false => exact ⟨fun _ => hf, nofun, nofun⟩
    | true => exact ⟨nofun, fun _ => h7, fun _ => hn⟩
  · obtain ⟨ht, h0, h1⟩ := judged_locked (hs.trans h)
    rw [hc] at h0 h1
    cases within with
    | false => exact ⟨nofun, fun _ => h0, fun _ => h1⟩
    | true => exact ⟨fun _ => ht, nofun, nofun⟩

theorem TimeSlewed.messageNoted {s t : State} {w : Bool} (h : TimeSlewed s t w) : TimeSlewed s (messageNoted t) w :=
  ⟨by show { t.clk with lastMsg := t.now } = _; rw [h.clk]; rfl, h.rate, h.mem, h.holdover, h.relock, h.locked⟩

theorem TimeSlewed.linksUp {s m t : State} {w : Bool} (h : TimeSlewed s m w) (g : LinksUp m t) : TimeSlewed s t w := by
  obtain ⟨hclk, hrate, hmem, h2, h3, h1⟩ := h
  have hw := g.within
  have hst : t.timeSt = m.timeSt := timeSt_within hw
  have hlost : t.bit F.TIME_STATUS.lock_lost = m.bit F.TIME_STATUS.lock_lost := hw.bit_eq _ _ _ _
  have hr : t.rd .TIME_RATE = m.rd .TIME_RATE := hw.regs _ _ _ _ (by decide)
  refine ⟨?_, ?_, hw.mem.trans hmem, ?_, ?_, ?_⟩
  · rw [g.clk]; exact hclk
  · rw [hr]; exact hrate
  · rw [hst]; exact h2
  · rw [hst, g.clk]; exact h3
  · rw [hst, hlost, g.clk]; exact h1

theorem TimeSlewed.of_heardOn {s t : State} {ln : Nat} {w : Bool} (h : TimeSlewed (heardOn s ln) t w) : TimeSlewed s t w :=
  ⟨h.clk, h.rate, h.mem, h.holdover, h.relock, h.locked⟩

theorem lnSt_judged (s : State) (d : Tag) (within : Bool) (ln : Nat) : (judged within (s.timeSlew d)).lnSt ln = s.lnSt ln :=
  ((judged_judged within _).within.f_eq F.FAB_LSTAT.state 0 ln 0).trans ((within_timeSlew s d).f_eq F.FAB_LSTAT.state 0 ln 0)

/-- A message that the timebase follows in a state other than FREE slews it. -/
theorem tsync_slews {s : State} {ln : Nat} (h : s.lnSt ln = 3 ∨ s.lnSt ln = 4) {domain : Byte} (hf : Follows s ln domain = true)
    (h0 : s.timeSt ≠ 0) (gm : Tag) :
    TimeSlewed s ((s.tsyncIn ln domain gm).drainGoes ln) (decide ((s.now - gm).toInt.natAbs ≤ 80)) ∧
      ((s.tsyncIn ln domain gm).drainGoes ln).clk.lastMsg = s.now := by
  have hm := timeSlewed_judged (heardOn s ln) ((heardOn s ln).now - gm) (decide (((heardOn s ln).now - gm).toInt.natAbs ≤ 80))
  have hl := (lnSt_messageNoted _ ln).trans (lnSt_judged (heardOn s ln) ((heardOn s ln).now - gm)
    (decide (((heardOn s ln).now - gm).toInt.natAbs ≤ 80)) ln)
  obtain ⟨hup, -⟩ := tsync_up h domain gm (tsyncMsg_follows (s := heardOn s ln) hf h0 gm) hl
  refine ⟨hm.messageNoted.of_heardOn.linksUp hup, ?_⟩
  rw [hup.clk, lastMsg_messageNoted, hm.clk]
  rfl

/-! ### The loss of synchronisation -/

/-- Outside LOCKED and RELOCK nothing is lost (R38). -/
theorem syncLoss_away {s : State} (h : s.timeSt = 0 ∨ s.timeSt = 2) : s.syncLoss = s := by
  have : (s.timeSt == 1 || s.timeSt == 3) = false := by rcases h with h | h <;> rw [h] <;> rfl
  rw [State.syncLoss, State.when_, this]
  rfl

theorem clk_settle (s : State) : s.settle.clk = s.clk := by rw [(driven_settle s).rest]

theorem lastMsg_ticks (s : State) (n : Nat) : (s.ticks n).clk.lastMsg = s.clk.lastMsg := by
  unfold State.ticks
  split <;> rfl

theorem lastMsg_run (s : State) (n : Nat) : (s.run n).clk.lastMsg = s.clk.lastMsg := by
  unfold State.run
  split
  · rfl
  · split
    · exact lastMsg_ticks s n
    · rw [lastMsg_ticks, clk_settle, lastMsg_ticks]

theorem syncDue_run (s : State) (n : Nat) : (s.run n).syncDue = s.syncDue := by
  rw [State.syncDue, lastMsg_run, State.f, rd_run _ _ _ _ _ _ (by decide)]
  rfl

/-- The tag at which the loss of synchronisation is declared: the deadline and the crossing bound have passed (R60, log 118). -/
def lossDue (s : State) : Tag := s.syncDue + s.tickUnits crossTicks + 1

/-- Where the ticks do not reach the deadline, nothing happens (log 1). -/
theorem syncLoss_early {s : State} (h : Tag.after (lossDue s) (s.run (s.ticksTo (lossDue s))).now = true) : s.syncLoss = s := by
  rw [State.syncLoss, State.when_]
  split
  · exact if_pos h
  · rfl

theorem syncLoss_due {s : State} (h : s.timeSt = 1 ∨ s.timeSt = 3) (hd : Tag.after (lossDue s) (s.run (s.ticksTo (lossDue s))).now = false) :
    s.syncLoss = (s.run (s.ticksTo (lossDue s))).timeToAt 2 s.syncDue := by
  have hc : (s.timeSt == 1 || s.timeSt == 3) = true := by rcases h with h | h <;> rw [h] <;> rfl
  rw [State.syncLoss, State.when_, if_pos hc]
  exact (if_neg (Bool.eq_false_iff.mp hd)).trans (by rw [syncDue_run]; rfl)

/-- The loss of synchronisation is HOLDOVER, and out of LOCKED it is reported under the deadline's tag (R38, R45, R60). -/
structure SyncLost (s t : State) : Prop where
  state : t.timeSt = 2
  tag : t.clk.tag = (s.run (s.ticksTo (lossDue s))).clk.tag
  locked : s.timeSt = 1 → t.bit F.TIME_STATUS.lock_lost = true ∧
    t.f F.TIME_STATUS.lost_cnt = min (s.f F.TIME_STATUS.lost_cnt + 1) 0xFFFF ∧
    (s.pwr.past = false → s.aq 0 = [] → (t.aq 0).map LogRec.first = [s.syncDue])
  mem : t.mem = s.mem

theorem syncLost_syncLoss {s : State} (h : s.timeSt = 1 ∨ s.timeSt = 3)
    (hd : Tag.after (lossDue s) (s.run (s.ticksTo (lossDue s))).now = false) : SyncLost s s.syncLoss := by
  rw [syncLoss_due h hd]
  have hrd := rd_run s (s.ticksTo (lossDue s)) .TIME_STATUS 0 0 0 (by decide)
  refine ⟨timeSt_timeToAt _ (by decide) _, by rw [clk_timeToAt], fun h1 => ?_, (within_timeToAt _ _ _).mem.trans (mem_run s _)⟩
  have hlock : (s.run (s.ticksTo (lossDue s))).timeSt = 1 ∧ 2 ≠ 1 := ⟨(congrArg F.TIME_STATUS.state.get hrd).trans h1, by decide⟩
  obtain ⟨hl, hc⟩ := timeToAt_lockLost hlock s.syncDue
  refine ⟨hl, hc.trans (congrArg (fun w => min (F.TIME_STATUS.lost_cnt.get w + 1) 0xFFFF) hrd), fun hp hq => ?_⟩
  exact timeToAt_alarm hlock _ (by rw [pwr_run]; exact hp) (by rw [State.aq, log_run]; exact hq)

/-! ### The always-on shadow -/

/-- The cycle that starts at a tick has begun at it. -/
theorem aoSince_aoRaw (s : State) (n : Nat) : s.aoSince (s.aoRaw n) = n := by
  unfold State.aoSince State.aoRaw aoTicks
  omega

/-- While the timebase is stopped, the next always-on cycle is counted where the clock runs on to its start (R44). -/
theorem aoCopy_stopped {s : State} {n start : Nat} (hn : s.clk.aoCycles + 1 = n) (hst : aoTicks n = start) (hs : s.clk.stopped = true)
    (hq : s.soon = []) (hr : s.clk.raw < s.clk.aoAt + start) :
    s.aoCopy = s.updClk fun k =>
      { k with raw := s.clk.aoAt + start, aoCycles := n, tag := s.clk.aoTag + BitVec.ofNat 64 (16 * start) } := by
  have ha : s.aoRaw n = s.clk.aoAt + start := by rw [State.aoRaw, hst]
  have hm : max s.clk.aoCycles (s.aoSince (s.clk.aoAt + start)) = n := by
    rw [← ha, aoSince_aoRaw]
    omega
  have hraw : s.clk.raw + (s.clk.aoAt + start - s.clk.raw) = s.clk.aoAt + start := by omega
  rw [State.aoCopy, if_pos hs, hn, ha, run_idle hq (by omega), State.ticks, if_pos hs, hraw, State.aoCount, hm, State.aoTagAt, hst]

theorem aoShadow_stopped {s u : State} {n start : Nat} (hu : u = s.updClk fun k =>
      { k with raw := s.clk.aoAt + start, aoCycles := n, tag := s.clk.aoTag + BitVec.ofNat 64 (16 * start) }) :
    Accepts (ok u) fun t =>
      t.clk.aoCycles = n ∧ t.clk.aoTag = s.clk.aoTag ∧ t.clk.raw = s.clk.aoAt + start ∧
      t.clk.tag = s.clk.aoTag + BitVec.ofNat 64 (16 * start) ∧ t = { s with clk := t.clk, resp := t.resp } := by
  rw [hu]
  exact accepts_ok ⟨rfl, rfl, rfl, rfl, rfl⟩

/-- Settles O27: a message is ignored, steps or slews the timebase; the deadline's loss and the shadow's copy by their lemmas. -/
theorem timebaseFollowsTheGrandmaster : Obligations.TimebaseFollowsTheGrandmaster := by
  constructor
  · intro ln domain gm s up follow within
    have hup (h : up = true) : s.lnSt ln = 3 ∨ s.lnSt ln = 4 := by simpa [up] using h
    refine ⟨fun h h5 => noEvent_ok (tsync_down (by simpa [up] using h) h5 domain gm), fun h hf => ?_, fun h hf => ⟨fun h0 => ?_, fun h0 => ?_⟩⟩
    · show Accepts (ok ((s.tsyncIn ln domain gm).drainGoes ln)) _
      rw [tsync_ignored (hup h) hf gm, heardOn_rest]
      exact accepts_ok rfl
    · obtain ⟨⟨⟨htag, hraw⟩, hst, hstep, hpair, hat, hmem, hslots⟩, hlast⟩ := tsync_steps (hup h) hf h0 gm
      exact accepts_ok ⟨htag, hraw, hlast, hst, hstep, hpair, hat, hmem, fun n => hslots n n.isLt⟩
    · obtain ⟨hm, hlast⟩ := tsync_slews (hup h) hf h0 gm
      have htag := hm.tag
      have hraw := hm.raw
      obtain ⟨-, ⟨hlo, hhi⟩, hmem, h2, h3, h1⟩ := hm
      simp only [decide_eq_false_iff_not, decide_eq_true_eq] at h1 h3
      exact accepts_ok ⟨htag, hraw, hlast, hlo, hhi, hmem, h2, h3, h1⟩
  · intro s lossAt due u
    refine ⟨?_, fun h hd => ?_, fun h => ?_, ?_⟩
    · rintro (h | h | h)
      · exact noEvent_ok (syncLoss_away (.inl h))
      · exact noEvent_ok (syncLoss_away (.inr h))
      · exact noEvent_ok (syncLoss_early h)
    · obtain ⟨hst, htag, hlock, hmem⟩ := syncLost_syncLoss h hd
      refine accepts_ok ⟨hst, htag, fun h1 => ?_, hmem⟩
      obtain ⟨hl, hc, hq⟩ := hlock h1
      refine ⟨hl, hc, fun hp _ hqu => hq (by rwa [pwr_run] at hp) (by rwa [State.aq, log_run] at hqu)⟩
    · have he : s.aoCopy = s.updClk fun k => { k with aoTag := k.tag, aoRate := s.rd .TIME_RATE, aoState := s.timeSt,
                                                       aoStepped := s.bit F.TIME_STATUS.stepped, aoCycles := 0, aoAt := k.raw } := if_neg (Bool.eq_false_iff.mp h)
      show Accepts (ok s.aoCopy) _
      rw [he]
      exact accepts_ok ⟨rfl, rfl, rfl, rfl, rfl, rfl, rfl, rfl⟩
    · intro n start hs hq hr
      exact aoShadow_stopped (aoCopy_stopped (n := n) (start := start) rfl rfl hs hq hr)

end Sys2Proof.Proofs
end

section
/-! Memory (R297, R310, R312, R327): a byte and a word read after a store to SRAM, and what the directory's part of an access leaves, with
and without damaged copies. -/

namespace Sys2Proof.Proofs
open Sys2Proof Sys2Proof.Machine Sys2Proof.Laws

/-! ### Cells -/

theorem nvKey_lt (s : State) (a : Nat) : s.nvKey a < 0x4000000 := by
  unfold State.nvKey
  split <;> omega

/-- An SRAM byte is its own cell, and the cell of no other address. -/
theorem cell_eq_sram (s : State) {a c : Nat} (h : isSram a = true) : s.cell c = a ↔ c = a := by
  have ha := of_decide_eq_true h
  have hn := nvKey_lt s c
  unfold State.cell
  split <;> omega

/-- What a cell reads as (log 2). -/
def heldAt (s : State) (k : Nat) : Byte := SMap.get (memDefault k) s.mem k

theorem byte_eq (s : State) (a : Nat) : s.byte a = if isSram a && !s.wvalid a then 0 else heldAt s (s.cell a) := rfl

theorem heldAt_setCell (s : State) (k j : Nat) (b : Byte) : heldAt (s.setCell k b) j = if j = k then b else heldAt s j := get_setCell s k j b

theorem wvalid_word (s : State) {a c : Nat} (h : c / 4 = a / 4) : s.wvalid c = s.wvalid a := by rw [State.wvalid, h]; rfl

/-! ### Stores -/

/-- The word of an SRAM address with its valid bit set and every byte zero (R310). -/
def madeValid (s : State) (a : Nat) : State :=
  { ((((s.setCell (a - a % 4) 0).setCell (a - a % 4 + 1) 0).setCell (a - a % 4 + 2) 0).setCell (a - a % 4 + 3) 0) with
    ram := { s.ram with valid := s.ram.valid.set 0 (a / 4) 7 } }

theorem setByte_eq (s : State) (a : Nat) (b : Byte) :
    s.setByte a b = (if s.wvalid a then s else madeValid s a).setCell a b := rfl

theorem wvalid_madeValid (s : State) (a c : Nat) : (madeValid s a).wvalid c = if c / 4 = a / 4 then true else s.wvalid c := by
  unfold State.wvalid madeValid
  simp only [SMap_get_set]
  split
  · rfl
  · rfl

theorem heldAt_madeValid (s : State) (a k : Nat) : heldAt (madeValid s a) k = if k / 4 = a / 4 then 0 else heldAt s k := by
  show heldAt ((((s.setCell (a - a % 4) 0).setCell (a - a % 4 + 1) 0).setCell (a - a % 4 + 2) 0).setCell (a - a % 4 + 3) 0) k = _
  simp only [heldAt_setCell]
  by_cases h : k / 4 = a / 4
  · rw [if_pos h]
    have hk : k = a - a % 4 ∨ k = a - a % 4 + 1 ∨ k = a - a % 4 + 2 ∨ k = a - a % 4 + 3 := by omega
    rcases hk with hk | hk | hk | hk <;> simp [hk]
  · rw [if_neg h, if_neg (by omega), if_neg (by omega), if_neg (by omega), if_neg (by omega)]

/-- Setting a word's valid bit over zeros changes no byte: the word read zero before (R310). -/
theorem byte_madeValid {s : State} {a : Nat} (h : isSram a = true) (hv : s.wvalid a = false) (c : Nat) :
    (madeValid s a).byte c = s.byte c := by
  have ha := of_decide_eq_true h
  rw [byte_eq, byte_eq, wvalid_madeValid, heldAt_madeValid]
  show (if _ then _ else if s.cell c / 4 = a / 4 then _ else heldAt s (s.cell c)) = _
  by_cases hw : c / 4 = a / 4
  · have hc : isSram c = true := decide_eq_true (by omega)
    rw [if_pos hw, wvalid_word s hw, hv, hc, if_pos ((congrArg (· / 4) ((cell_eq_sram s hc).mpr rfl)).trans hw)]
    rfl
  · have hcell : s.cell c / 4 ≠ a / 4 := by
      intro he
      have hk : isSram (s.cell c) = true := decide_eq_true (by omega)
      exact hw ((congrArg (· / 4) ((cell_eq_sram s hk).mp rfl)).trans he)
    rw [if_neg hw, if_neg hcell]

theorem byte_setCell {s : State} {a : Nat} (h : isSram a = true) (hv : s.wvalid a = true) (b : Byte) (c : Nat) :
    (s.setCell a b).byte c = if c = a then b else s.byte c := by
  rw [byte_eq, byte_eq, heldAt_setCell]
  show (if isSram c && !s.wvalid c then _ else if s.cell c = a then b else heldAt s (s.cell c)) = _
  simp only [cell_eq_sram s h]
  by_cases hc : c = a
  · rw [hc, h, hv]
    simp
  · simp [hc]

/-- A byte stored to SRAM is read back, every other byte as before (R310). -/
theorem byte_setByte (s : State) {a : Nat} (h : isSram a = true) (b : Byte) (c : Nat) :
    (s.setByte a b).byte c = if c = a then b else s.byte c := by
  rw [setByte_eq]
  cases hv : s.wvalid a with
  | true => exact byte_setCell h hv b c
  | false =>
    have hv' : (madeValid s a).wvalid a = true := by rw [wvalid_madeValid, if_pos rfl]
    exact (byte_setCell h hv' b c).trans (by rw [byte_madeValid h hv])

/-- Bytes stored to SRAM are read back, every other byte as before. -/
theorem byte_setBytes (bs : List Byte) (s : State) (a : Nat) (h : ∀ i < bs.length, isSram (a + i) = true) (c : Nat) :
    (s.setBytes a bs).byte c = if a ≤ c ∧ c < a + bs.length then bs.getD (c - a) 0 else s.byte c := by
  induction bs generalizing s a with
  | nil => rw [if_neg (by simp)]; rfl
  | cons b bs ih =>
    have h0 : isSram a = true := h 0 (Nat.succ_pos _)
    have hs : ∀ i < bs.length, isSram (a + 1 + i) = true := fun i hi => by
      rw [Nat.add_assoc, Nat.add_comm 1 i]
      exact h (i + 1) (Nat.succ_lt_succ hi)
    rw [State.setBytes, ih _ _ hs, byte_setByte s h0, List.length_cons]
    by_cases hc : c = a
    · rw [if_neg (by omega), if_pos hc, if_pos (by omega), hc, Nat.sub_self]
      rfl
    · rw [if_neg hc]
      by_cases hin : a + 1 ≤ c ∧ c < a + 1 + bs.length
      · rw [if_pos hin, if_pos (by omega), show c - a = (c - (a + 1)) + 1 by omega]
        rfl
      · rw [if_neg hin, if_neg (by omega)]

theorem length_toBytes (n v : Nat) : (toBytes n v).length = n := by
  induction n generalizing v with
  | zero => rfl
  | succ n ih => rw [toBytes, List.length_cons, ih]

theorem ofBytes_toBytes (n v : Nat) : ofBytes (toBytes n v) = v % 256 ^ n := by
  induction n generalizing v with
  | zero => rw [Nat.pow_zero, Nat.mod_one]; rfl
  | succ n ih =>
    rw [toBytes, ofBytes, ih, BitVec.toNat_ofNat, show 256 ^ (n + 1) = 2 ^ 8 * 256 ^ n from Nat.pow_succ', Nat.mod_mul]
    rfl

theorem toBytes_ofBytes (bs : List Byte) : toBytes bs.length (ofBytes bs) = bs := by
  induction bs with
  | nil => rfl
  | cons b bs ih =>
    have hlt : b.toNat < 256 := b.isLt
    rw [List.length_cons, ofBytes, toBytes]
    congr 1
    · apply BitVec.eq_of_toNat_eq
      rw [BitVec.toNat_ofNat]
      omega
    · rw [show (b.toNat + 256 * ofBytes bs) / 256 = ofBytes bs by omega, ih]

/-- A word of SRAM: four bytes. -/
theorem isSram_word {a : Nat} (h : isSram a = true) (h4 : a % 4 = 0) {i : Nat} (hi : i < 4) : isSram (a + i) = true := by
  have ha := of_decide_eq_true h
  exact decide_eq_true (by omega)

theorem byte_setWord (s : State) {a : Nat} (h : isSram a = true) (h4 : a % 4 = 0) (v : Word) (c : Nat) :
    (s.setWord a v).byte c = if a ≤ c ∧ c < a + 4 then (toBytes 4 v.toNat).getD (c - a) 0 else s.byte c :=
  (byte_setBytes (toBytes 4 v.toNat) s a (fun _ hi => isSram_word h h4 (by rwa [length_toBytes] at hi)) c).trans
    (by rw [length_toBytes])

/-- A word stored to SRAM is read back. -/
theorem word_setWord (s : State) {a : Nat} (h : isSram a = true) (h4 : a % 4 = 0) (v : Word) : (s.setWord a v).word a = v := by
  have hb : (s.setWord a v).bytes a 4 = toBytes 4 v.toNat := by
    refine List.ext_getElem (by simp [State.bytes, length_toBytes]) fun i h1 h2 => ?_
    have hi : i < 4 := by simpa [length_toBytes] using h2
    have hin : a ≤ a + i ∧ a + i < a + 4 := by omega
    simp only [State.bytes, List.getElem_map, List.getElem_range, byte_setWord s h h4, if_pos hin, Nat.add_sub_cancel_left]
    rw [List.getD_eq_getElem _ _ h2]
  rw [State.word, hb, ofBytes_toBytes]
  apply BitVec.eq_of_toNat_eq
  have := v.isLt
  rw [BitVec.toNat_ofNat]
  omega

/-- Between two states only memory, valid bits and codewords have changed. -/
structure Stored (s t : State) : Prop where
  rest : t = { s with mem := t.mem, ram := { s.ram with valid := t.ram.valid, flips := t.ram.flips } }

theorem Stored.refl (s : State) : Stored s s := ⟨rfl⟩

theorem Stored.trans {s a t : State} (h : Stored s a) (g : Stored a t) : Stored s t := ⟨by rw [g.rest, h.rest]⟩

theorem stored_setCell (s : State) (k : Nat) (b : Byte) : Stored s (s.setCell k b) := ⟨rfl⟩

theorem stored_madeValid (s : State) (a : Nat) : Stored s (madeValid s a) := by
  have h := (((stored_setCell s (a - a % 4) 0).trans (stored_setCell _ (a - a % 4 + 1) 0)).trans (stored_setCell _ (a - a % 4 + 2) 0)).trans
    (stored_setCell _ (a - a % 4 + 3) 0)
  refine h.trans ?_
  unfold madeValid
  generalize (((s.setCell (a - a % 4) 0).setCell (a - a % 4 + 1) 0).setCell (a - a % 4 + 2) 0).setCell (a - a % 4 + 3) 0 = u at h
  rw [h.rest]
  exact ⟨rfl⟩

theorem stored_setByte (s : State) (a : Nat) (b : Byte) : Stored s (s.setByte a b) := by
  rw [setByte_eq]
  split
  · exact stored_setCell s a b
  · exact (stored_madeValid s a).trans (stored_setCell _ a b)

theorem stored_setBytes (bs : List Byte) (s : State) (a : Nat) : Stored s (s.setBytes a bs) := by
  induction bs generalizing s a with
  | nil => exact .refl s
  | cons b bs ih => exact (stored_setByte s a b).trans (ih _ _)

theorem stored_setWord (s : State) (a : Nat) (v : Word) : Stored s (s.setWord a v) := (stored_setBytes _ s a).trans ⟨rfl⟩

/-! ### The directory, where no copy is damaged -/

/-- No cache's copy of a line has flipped bits: those of the host cores and the L2's (R312). -/
def LineClean (s : State) (line : Nat) : Prop := ∀ w < 9, (s.cFlip line w).2 = 0

/-- Between two states only the states of cached lines have changed, and no copy has become damaged. -/
structure Shared (s t : State) : Prop where
  rest : t = { s with ram := { s.ram with l1 := t.ram.l1, l2 := t.ram.l2, cFlips := t.ram.cFlips } }
  clean : ∀ line, LineClean s line → LineClean t line

theorem Shared.refl (s : State) : Shared s s := ⟨rfl, fun _ h => h⟩

theorem Shared.trans {s a t : State} (h : Shared s a) (g : Shared a t) : Shared s t :=
  ⟨by rw [g.rest, h.rest], fun line hl => g.clean line (h.clean line hl)⟩

theorem shared_setL1 (s : State) (line c : Nat) (x : Mesi) : Shared s (s.setL1 line c x) := ⟨rfl, fun _ h => h⟩

theorem shared_setL2 (s : State) (line v : Nat) : Shared s (s.setL2 line v) := ⟨rfl, fun _ h => h⟩

/-- A copy that is discarded takes its flipped bits with it. -/
theorem shared_setCFlip (s : State) (line c : Nat) : Shared s (s.setCFlip line c (0, 0)) := by
  refine ⟨rfl, fun l h w hw => ?_⟩
  simp only [State.cFlip, State.setCFlip, SMap_get_set]
  split
  · rfl
  · exact h w hw

theorem writeBack_clean {s : State} {line c : Nat} (h : (s.cFlip line c).2 = 0) : s.writeBack line c = s := by
  rcases hf : s.cFlip line c with ⟨w, n⟩
  rw [hf] at h
  obtain rfl : n = 0 := h
  simp only [State.writeBack, hf]

theorem shared_giveUp {s : State} {line c : Nat} (h : LineClean s line) (hc : c < 9) (x : Mesi) : Shared s (s.giveUp line c x) := by
  unfold State.giveUp
  split
  · exact .refl s
  · rw [writeBack_clean (h c hc)]
    exact (shared_setL1 s line c x).trans (shared_setL2 _ line 2)
  · split
    · exact (shared_setL1 s line c x).trans (shared_setCFlip _ line c)
    · exact shared_setL1 s line c x

/-- A core that gives a clean line up keeps it in the state asked for where it held it; every other core's copy stays. -/
theorem l1_giveUp {s : State} {line c : Nat} (h : LineClean s line) (hc : c < 9) (d : Nat) :
    (s.giveUp line c .i).l1 line d = if d = c then .i else s.l1 line d := by
  have set (u : State) : (u.setL1 line c .i).l1 line d = if d = c then .i else u.l1 line d := by
    simp only [State.l1, State.setL1, SMap_get_set]
    by_cases hd : d = c
    · simp [hd]
    · rw [if_neg (by omega), if_neg hd]
  unfold State.giveUp
  split
  · next hi =>
    split
    · next hd => rw [hd, hi]
    · rfl
  · rw [writeBack_clean (h c hc)]
    exact set s
  · exact set s

theorem range8_lt {c : Nat} (h : c ∈ List.range 8) : c < 9 := Nat.lt_succ_of_lt (List.mem_range.mp h)

theorem shared_recall {s : State} {line : Nat} (h : LineClean s line) : Shared s (s.recall line) :=
  List.foldlRecOn _ _ (.refl s) fun _ hu _ hc => hu.trans (shared_giveUp (hu.clean line h) (range8_lt hc) .i)

/-- After the recall of a clean line no core holds a copy of it (R327). -/
theorem l1_recall {s : State} {line : Nat} (h : LineClean s line) {c : Nat} (hc : c < 8) : (s.recall line).l1 line c = .i := by
  have keep (u : State) (d : Nat) (hd : d < 9) (hu : LineClean u line ∧ u.l1 line c = .i) :
      LineClean (u.giveUp line d .i) line ∧ (u.giveUp line d .i).l1 line c = .i :=
    ⟨(shared_giveUp hu.1 hd .i).clean line hu.1, by rw [l1_giveUp hu.1 hd, hu.2, ite_self]⟩
  have from_ (xs : List Nat) (h9 : ∀ d ∈ xs, d < 9) (hx : c ∈ xs) (u : State) (hu : LineClean u line) :
      (xs.foldl (fun s c => s.giveUp line c .i) u).l1 line c = .i := by
    induction xs generalizing u with
    | nil => cases hx
    | cons d ds ih =>
      rcases List.mem_cons.mp hx with rfl | hd
      · have hc9 := h9 c List.mem_cons_self
        exact (List.foldlRecOn ds _ (motive := fun u : State => LineClean u line ∧ u.l1 line c = .i)
          ⟨(shared_giveUp hu hc9 .i).clean line hu, by rw [l1_giveUp hu hc9, if_pos rfl]⟩ fun u hu d hd =>
            keep u d (h9 d (List.mem_cons_of_mem _ hd)) hu).2
      · exact ih (fun e he => h9 e (List.mem_cons_of_mem _ he)) hd _ ((shared_giveUp hu (h9 d List.mem_cons_self) .i).clean line hu)
  exact from_ _ (fun _ hd => range8_lt hd) (List.mem_range.mpr hc) s h

theorem shared_shareOut {s : State} {line : Nat} (h : LineClean s line) (c : Nat) : Shared s (s.shareOut line c) :=
  List.foldlRecOn _ _ (.refl s) fun u hu d hd => by
    split
    · exact hu
    · exact hu.trans (shared_giveUp (hu.clean line h) (range8_lt hd) .s)

/-- The directory's part of an access by a master that does not cache (R327). -/
theorem shared_cohere {s : State} {q : Req} (hq : 8 ≤ q.mno) (write : Bool) {a : Nat} (h : LineClean s (lineOf a)) :
    Shared s (s.cohere q write a) := by
  unfold State.cohere
  rw [if_neg (show ¬ q.mno < 8 by omega)]
  split
  · split
    · exact shared_recall h
    · exact shared_shareOut h 8
  · exact .refl s

theorem l1_cohere_write {s : State} {q : Req} (hq : 8 ≤ q.mno) {a : Nat} (h : LineClean s (lineOf a)) (hc : cached a = true) {c : Nat}
    (h8 : c < 8) : (s.cohere q true a).l1 (lineOf a) c = .i := by
  unfold State.cohere
  rw [if_pos hc, if_neg (show ¬ q.mno < 8 by omega)]
  exact l1_recall h h8

theorem servedBy_lt {s : State} {q : Req} {a w : Nat} (h : s.servedBy q a = some w) : w < 9 := by
  unfold State.servedBy at h
  split_ifs at h with hc hq h2
  · simp only [Bool.and_eq_true, decide_eq_true_eq] at hq
    cases h
    omega
  · cases h
    decide

/-- A read from a clean copy is whole (R312). -/
theorem cacheRead_clean {s : State} {a : Nat} (h : LineClean s (lineOf a)) (q : Req) {by_ : Option Nat} (h9 : ∀ w, by_ = some w → w < 9) :
    s.cacheRead q a by_ = (s, true) := by
  unfold State.cacheRead
  split
  · rfl
  · next w =>
    rcases hf : s.cFlip (lineOf a) w with ⟨i, n⟩
    have hn : n = 0 := by
      have := h w (h9 w rfl)
      rwa [hf] at this
    simp only [hf, hn, true_or, if_true]

theorem shared_cacheMend (s : State) (by_ : Option Nat) (a : Nat) : Shared s (s.cacheMend by_ a) := by
  unfold State.cacheMend
  split
  · split
    · exact shared_setCFlip _ _ _
    · exact .refl s
  · exact .refl s

namespace Shared

variable {s t : State}

theorem byte (h : Shared s t) (a : Nat) : t.byte a = s.byte a := by rw [h.rest]; rfl
theorem word (h : Shared s t) (a : Nat) : t.word a = s.word a := by rw [h.rest]; rfl
theorem nflips (h : Shared s t) (a : Nat) : t.nflips a = s.nflips a := by rw [h.rest]; rfl
theorem valid (h : Shared s t) : t.ram.valid = s.ram.valid := by rw [h.rest]
theorem flips (h : Shared s t) : t.ram.flips = s.ram.flips := by rw [h.rest]
theorem closed (h : Shared s t) (a : Nat) : t.pageClosedAt a = s.pageClosedAt a := by rw [h.rest]; rfl

end Shared

/-! ### Reads and writes of SRAM words -/

theorem unalias_sram {a : Nat} (h : isSram a = true) : unalias a = a := by
  have := of_decide_eq_true h
  exact if_neg (by omega)

theorem isNv_sram {a : Nat} (h : isSram a = true) : isNv a = false := by
  have := of_decide_eq_true h
  exact decide_eq_false (by omega)

theorem isMem_sram {a : Nat} (h : isSram a = true) : isMem a = true := by
  rw [isMem, unalias_sram h, h, Bool.or_true]

/-- An SRAM word whose codeword is good, in a page in use, with no damaged copy (R310, R312, R320). -/
structure WordGood (s : State) (a : Nat) : Prop where
  sram : isSram a = true
  aligned : a % 4 = 0
  inUse : s.pageClosedAt a = false
  clean : LineClean s (lineOf a)
  noFlips : s.nflips a = 0
  valid : s.ram.valid.get 0 (a / 4) = 0 ∨ s.ram.valid.get 0 (a / 4) = 7

theorem WordGood.shared {s t : State} {a : Nat} (h : WordGood s a) (g : Shared s t) : WordGood t a :=
  ⟨h.sram, h.aligned, (g.closed a).trans h.inUse, g.clean _ h.clean, (g.nflips a).trans h.noFlips, by rw [g.valid]; exact h.valid⟩

theorem eccRead_good {s : State} {a : Nat} (h : WordGood s a) (source mno : Nat) : s.eccRead a source mno = (s, true) := by
  have hf : s.fixValid a source mno = s := if_pos h.valid
  unfold State.eccRead
  rw [hf]
  dsimp only
  split
  · rfl
  · rw [if_pos h.noFlips]

/-- A word read from good SRAM by a master that does not cache (R301, R327). -/
theorem memRead_good {s : State} {q : Req} {a : Nat} (hq : 8 ≤ q.mno) (hr : s.regionOk q .read a 4 = true) (h : WordGood s a) :
    ∃ t, s.memRead q .read a 4 = (t, .ok (s.word a)) ∧ Shared s t := by
  have hs := shared_cohere hq false h.clean
  have hg := h.shared hs
  refine ⟨s.cohere q false a, ?_, hs⟩
  have hb : s.blkRetired a = false := by rw [State.blkRetired, isNv_sram h.sram]; rfl
  have hn : s.nvBusyAt a = false := by simp [State.nvBusyAt, isNv_sram h.sram]
  unfold State.memRead
  simp only [unalias_sram h.sram, hr, h.inUse, hb, hn, isNv_sram h.sram, cacheRead_clean hg.clean q fun _ => servedBy_lt,
    eccRead_good hg, Bool.not_true, Bool.or_self,
    Bool.false_eq_true, if_false, if_true, Bool.and_self]
  exact congrArg (fun w => (_, Rsp.ok w)) (hs.word a)

/-- A word written to SRAM by any master whose region admits it (R301, R310, R327). -/
theorem memWrite_word {s : State} {q : Req} {a : Nat} (ha : isSram a = true) (hr : s.regionOk q .write a 4 = true)
    (hp : s.pageClosedAt a = false) (v : Word) :
    s.memWrite q a 4 v =
      (((s.cohere q true a).cacheMend ((s.cohere q true a).servedBy q a) a).setWord a v, .ok 0) := by
  unfold State.memWrite
  simp only [unalias_sram ha, hr, hp, isNv_sram ha, Bool.not_true, Bool.false_eq_true, if_false, if_true, and_self]

theorem memWrite_refused {s : State} {q : Req} {a : Nat} (hr : s.regionOk q .write (unalias a) 4 = false) (v : Word) :
    s.memWrite q a 4 v = (s.refuse q .write a 4, .refused) := by
  unfold State.memWrite
  simp only [hr, Bool.not_false, if_true]

/-- Between two states a word of SRAM has been written: beside memory, only the states of cached lines. -/
structure WroteWord (s t : State) (a : Nat) (v : Word) : Prop where
  rest : t = { s with mem := t.mem, ram := t.ram }
  word : t.word a = v
  byte : ∀ c, t.byte c = if a ≤ c ∧ c < a + 4 then (toBytes 4 v.toNat).getD (c - a) 0 else s.byte c
  closed : t.ram.closed = s.ram.closed
  clean : ∀ line, LineClean s line → LineClean t line

/-- A word written to SRAM with no damaged copy, by a master that does not cache. -/
theorem memWrite_clean {s : State} {q : Req} {a : Nat} (hq : 8 ≤ q.mno) (ha : isSram a = true) (h4 : a % 4 = 0)
    (hr : s.regionOk q .write a 4 = true) (hp : s.pageClosedAt a = false) (hc : LineClean s (lineOf a)) (v : Word) :
    ∃ t, s.memWrite q a 4 v = (t, .ok 0) ∧ WroteWord s t a v ∧ (cached a = true → ∀ c < 8, t.l1 (lineOf a) c = .i) := by
  have hs := shared_cohere hq true hc
  have hm := hs.trans (shared_cacheMend _ ((s.cohere q true a).servedBy q a) a)
  refine ⟨_, memWrite_word ha hr hp v, ?_, fun hca c h8 => ?_⟩
  · generalize (s.cohere q true a).cacheMend ((s.cohere q true a).servedBy q a) a = u at hm
    have hw := stored_setWord u a v
    refine ⟨by rw [hw.rest, hm.rest], word_setWord u ha h4 v, fun c => ?_, by rw [hw.rest, hm.rest], fun l hl w hw9 => ?_⟩
    · rw [byte_setWord u ha h4, hm.byte]
    · have := hm.clean l hl w hw9
      rw [hw.rest]
      exact this
  · have hl := l1_cohere_write hq hc hca h8
    generalize s.cohere q true a = u at *
    have hw := stored_setWord (u.cacheMend (u.servedBy q a) a) a v
    have hcm : (u.cacheMend (u.servedBy q a) a).ram.l1 = u.ram.l1 := by
      unfold State.cacheMend
      split
      · split <;> rfl
      · rfl
    rw [State.l1, hw.rest]
    show (u.cacheMend (u.servedBy q a) a).ram.l1.get .i _ = _
    rw [hcm]
    exact hl

/-! ### The local map and the bus -/

theorem localRead_mem {s : State} {a : Nat} (h : isMem a = true) (q : Req) (n : Nat) : s.localRead q a n = s.memRead q .read a n := if_pos h

theorem localWrite_mem {s : State} {a : Nat} (h : isMem a = true) (q : Req) (n : Nat) (v : Word) :
    s.localWrite q a n v = s.memWrite q a n v := if_pos h

theorem isWin_sram {a : Nat} (h : isSram a = true) : isWin a = false := by
  have := of_decide_eq_true h
  exact decide_eq_false (by omega)

theorem busWrite_sram {s : State} {a : Nat} (h : isSram a = true) (q : Req) (n : Nat) (v : Word) :
    s.busWrite q a n v = s.memWrite q a n v := by
  rw [← localWrite_mem (isMem_sram h)]
  unfold State.busWrite
  rw [isWin_sram h]
  cases q.m <;> rfl

theorem busRead_sram {s : State} {a : Nat} (h : isSram a = true) (q : Req) (n : Nat) : s.busRead q a n = s.memRead q .read a n := by
  rw [← localRead_mem (isMem_sram h)]
  unfold State.busRead
  rw [isWin_sram h]
  cases q.m <;> rfl

end Sys2Proof.Proofs
end

section
/-! DMA channels (R333 to R335): commands at a system register, start, stop and the clearing of a halt. -/

namespace Sys2Proof.Proofs
open Sys2Proof Sys2Proof.Machine Sys2Proof.Laws

/-! ### Commands that write a system register -/

section
variable {s : State} {m : Master} {r : RegName} {i : Nat} {v : Word} (hs : r.row.blk.space = .sys) (hi : i < r.row.nI)
  (hj : 0 < r.row.nJ) (hm : (s.req m).mapped = true)
include hs hi hj hm

/-- A command that is a write of a system register acts at that register. -/
theorem putAt_sys :
    ∃ a, a % 4 = 0 ∧ s.putAt m r v 0 i = rspOut (s.regWriteAt (s.req m) (some ⟨r, 0, i, 0⟩) a v) :=
  ⟨_, addr_mod_four ⟨r, 0, i, 0⟩, cmdWrite_reg (regAt_addr_sys (x := ⟨r, 0, i, 0⟩) hi hj hs rfl) (addr_mod_four _) hm v⟩

theorem putAt_ok {t : State} (hg : (s.guard (s.req m) ⟨r, 0, i, 0⟩).wr = .ok)
    (h : ∀ a, s.regWrite (s.req m) ⟨r, 0, i, 0⟩ v a = (t, .ok)) : s.putAt m r v 0 i = ok t := by
  obtain ⟨a, ha, hp⟩ := putAt_sys (v := v) hs hi hj hm
  rw [hp, regWriteAt_ok ha hg (h a)]
  rfl

theorem putAt_err {t : State} (hg : (s.guard (s.req m) ⟨r, 0, i, 0⟩).wr = .ok)
    (h : ∀ a, s.regWrite (s.req m) ⟨r, 0, i, 0⟩ v a = (t, .err)) : s.putAt m r v 0 i = errResp t := by
  obtain ⟨a, ha, hp⟩ := putAt_sys (v := v) hs hi hj hm
  rw [hp, regWriteAt_err ha hg (h a)]
  rfl

theorem putAt_viol {k : Nat} (hg : (s.guard (s.req m) ⟨r, 0, i, 0⟩).wr = .viol k) :
    ∃ a, s.putAt m r v 0 i = errResp (s.violation (s.req m) a k .write (s.guard (s.req m) ⟨r, 0, i, 0⟩).own) := by
  obtain ⟨a, ha, hp⟩ := putAt_sys (v := v) hs hi hj hm
  rw [hp, regWriteAt_viol hg]
  exact ⟨a, rfl⟩

end

/-! ### The end of a channel -/

/-- Between two states only leash events and logs have changed: what a production on a channel does (R341, R342). -/
structure Produced (s t : State) : Prop where
  rest : t = { s with regs := t.regs, log := t.log, lsh := t.lsh }
  regs : KeepsRegs s t lossRegs

theorem Produced.refl (s : State) : Produced s s := ⟨rfl, fun _ _ _ _ _ => rfl⟩

theorem produced_of_logsOnly {s t : State} (h : LogsOnly s t) : Produced s t := ⟨by rw [h.rest], h.regs⟩

theorem produced_raiseEv (s : State) (g : Nat) (data : Byte) (tag : Tag) (rank : Nat) : Produced s (s.raiseEv g data tag rank) := by
  unfold State.raiseEv
  split
  · exact ⟨rfl, fun _ _ _ _ _ => rfl⟩
  · exact .refl s

theorem produced_produce (s : State) (g pkind pidx : Nat) (data : Byte) (tag : Tag) (o : Owner) (mno detail : Nat) :
    Produced s (s.produce g pkind pidx data tag o mno detail) := by
  unfold State.produce
  split
  · exact produced_raiseEv _ _ _ _ _
  · exact produced_of_logsOnly (logsOnly_violation _ _ _ _ _ _ _ _)

/-- Between two states a DMA channel has reported: its registers, leash events and logs. -/
structure ChannelMoved (rs : List RegName) (s t : State) : Prop where
  rest : t = { s with regs := t.regs, dma := t.dma, lsh := t.lsh, log := t.log }
  regs : KeepsRegs s t rs

namespace ChannelMoved

variable {rs : List RegName} {s a t : State}

theorem trans (h : ChannelMoved rs s a) (g : ChannelMoved rs a t) : ChannelMoved rs s t :=
  ⟨by rw [g.rest, h.rest], fun r p i j hr => (g.regs r p i j hr).trans (h.regs r p i j hr)⟩

theorem of_within (h : Within rs s t) (hr : t = { s with regs := t.regs, dma := t.dma, lsh := t.lsh, log := t.log }) : ChannelMoved rs s t :=
  ⟨hr, h.regs⟩

theorem of_produced (h : Produced s t) (hs : lossRegs ⊆ rs) : ChannelMoved rs s t :=
  ⟨by rw [h.rest], fun r p i j hr => h.regs r p i j fun hm => hr (hs hm)⟩

theorem mem (h : ChannelMoved rs s t) : t.mem = s.mem := by rw [h.rest]
theorem clk (h : ChannelMoved rs s t) : t.clk = s.clk := by rw [h.rest]

end ChannelMoved

/-- The registers that the start and the end of a channel can change (R333, R335). -/
def dmaRegs : List RegName := [.DMA_STAT, .DMA_LEN, .DMA_TAG_LO, .DMA_TAG_HI] ++ lossRegs

/-- A channel's status at its end, under the present tag. -/
def dmaEnded (s : State) (k : Nat) : State :=
  ((s.clrb F.DMA_STAT.busy 0 k).setb F.DMA_STAT.done 0 k).setPair .DMA_TAG_LO .DMA_TAG_HI s.now 0 k

theorem produced_dmaDone (s : State) (k : Nat) : Produced (dmaEnded s k) (s.dmaDone k) := by
  have h : s.dmaDone k = if (dmaEnded s k).bit F.DMA_CTL.done_en 0 k then
      (dmaEnded s k).produce (256 + (dmaEnded s k).f F.DMA_CTL.done_ch 0 k) 5 k 0 (dmaEnded s k).now ((dmaEnded s k).owner (.dma k)) 49
        (256 + (dmaEnded s k).f F.DMA_CTL.done_ch 0 k)
    else dmaEnded s k := rfl
  rw [h]
  split
  · exact produced_produce _ _ _ _ _ _ _ _ _
  · exact .refl _

theorem channelMoved_dmaDone (s : State) (k : Nat) : ChannelMoved dmaRegs s (s.dmaDone k) := by
  have h : Within dmaRegs s (dmaEnded s k) := .setPair (.put (.put (.refl s)))
  exact .trans (.of_within h rfl) (.of_produced (produced_dmaDone s k) (by decide))

theorem dmaDone_dma (s : State) (k : Nat) : (s.dmaDone k).dma = s.dma := by
  rw [(produced_dmaDone s k).rest]
  rfl

/-- A production leaves the registers of DMA channels. -/
theorem rd_produced {s t : State} (h : Produced s t) {r : RegName} (hr : r ∉ lossRegs) (p i j : Nat) : t.rd r p i j = s.rd r p i j :=
  h.regs r p i j hr

/-- A channel that has ended is done and no longer busy (R335). -/
theorem dmaDone_status (s : State) (k : Nat) :
    (s.dmaDone k).bit F.DMA_STAT.busy 0 k = false ∧ (s.dmaDone k).bit F.DMA_STAT.done 0 k = true ∧
      (s.dmaDone k).bit F.DMA_STAT.clamp 0 k = s.bit F.DMA_STAT.clamp 0 k ∧ (s.dmaDone k).f F.DMA_LEN.len 0 k = s.f F.DMA_LEN.len 0 k := by
  have hst := rd_produced (produced_dmaDone s k) (r := .DMA_STAT) (by decide) 0 k 0
  have hlen := rd_produced (produced_dmaDone s k) (r := .DMA_LEN) (by decide) 0 k 0
  have bit (f : Fld) (hf : f.r = .DMA_STAT) : (s.dmaDone k).bit f 0 k = (dmaEnded s k).bit f 0 k := by
    rw [State.bit, State.f, hf, hst]
    simp only [State.bit, State.f, hf]
  refine ⟨?_, ?_, ?_, ?_⟩
  · rw [bit _ rfl, dmaEnded, bit_setPair_name _ (by decide) (by decide), bit_setb_apart _ (by decide), bit_clrb_self _ _ _ _ _ (by decide)]
  · rw [bit _ rfl, dmaEnded, bit_setPair_name _ (by decide) (by decide), bit_setb_self _ _ _ _ _ (by decide)]
  · rw [bit _ rfl, dmaEnded, bit_setPair_name _ (by decide) (by decide), bit_setb_apart _ (by decide), bit_clrb_apart _ (by decide)]
  · refine (congrArg F.DMA_LEN.len.get hlen).trans ?_
    show (dmaEnded s k).f F.DMA_LEN.len 0 k = _
    rw [dmaEnded, f_setPair_name _ (by decide) (by decide), f_setb_apart _ (by decide), f_clrb_apart _ (by decide)]

theorem dmaEnd_more {s : State} {k : Nat} (h : s.f F.DMA_LEN.len 0 k ≠ 0) : s.dmaEnd k = s := by
  rw [State.dmaEnd, if_neg (by simp [h])]

/-- With nothing left and no chain the channel ends (R334). -/
theorem dmaEnd_done {s : State} {k : Nat} (h : s.f F.DMA_LEN.len 0 k = 0) (hc : s.bit F.DMA_CTL.chain 0 k = false) :
    s.dmaEnd k = s.dmaDone k := by
  rw [State.dmaEnd, if_pos (by simp [h, State.dmaChains, hc])]

theorem channelMoved_dmaEnd (s : State) (k : Nat) : ChannelMoved dmaRegs s (s.dmaEnd k) := by
  unfold State.dmaEnd
  split
  · exact channelMoved_dmaDone s k
  · exact ⟨rfl, fun _ _ _ _ _ => rfl⟩

theorem dmaEnd_keeps (s : State) (k : Nat) :
    (s.dmaEnd k).dma = s.dma ∧ (s.dmaEnd k).bit F.DMA_STAT.clamp 0 k = s.bit F.DMA_STAT.clamp 0 k ∧
      (s.dmaEnd k).f F.DMA_LEN.len 0 k = s.f F.DMA_LEN.len 0 k := by
  obtain ⟨-, -, hclamp, hlen⟩ := dmaDone_status s k
  unfold State.dmaEnd
  split
  · exact ⟨dmaDone_dma s k, hclamp, hlen⟩
  · exact ⟨rfl, rfl, rfl⟩

/-! ### Start -/

/-- The source, the destination and the length of a channel as its registers give them, cut to both address spaces (R333). -/
def dmaSrc (s : State) (k : Nat) : Nat := (s.pairAt .DMA_SRC_LO .DMA_SRC_HI 0 k).toNat % 2 ^ 52
def dmaDst (s : State) (k : Nat) : Nat := (s.pairAt .DMA_DST_LO .DMA_DST_HI 0 k).toNat % 2 ^ 52
def dmaCut (s : State) (k : Nat) : Nat := min (s.f F.DMA_LEN.len 0 k * 4) (min (s.roomAt (dmaSrc s k)) (s.roomAt (dmaDst s k)))

/-- A channel with its length cut: the registers. -/
def dmaSized (s : State) (k : Nat) : State :=
  ((s.setb F.DMA_STAT.busy 0 k).put F.DMA_LEN.len ((dmaCut s k + 3) / 4) 0 k).setIf (dmaCut s k != s.f F.DMA_LEN.len 0 k * 4)
    F.DMA_STAT.clamp 0 k

/-- A channel that runs with its registers loaded. -/
def dmaLoaded (s : State) (k : Nat) : State :=
  { dmaSized s k with dma := s.dma.set {} k { src := dmaSrc s k, dst := dmaDst s k, left := dmaCut s k } }

theorem roomAt_within {rs : List RegName} {s t : State} (h : Within rs s t) (a : Nat) (hr : RegName.FAB_NODE ∉ rs := by decide) :
    t.roomAt a = s.roomAt a := by
  have hn : t.node = s.node := h.f_eq F.FAB_NODE.node 0 0 0 hr
  rw [State.roomAt, State.localAddr, hn]
  rfl

theorem dmaLoad_setb_busy (s : State) (k : Nat) : (s.setb F.DMA_STAT.busy 0 k).dmaLoad k = dmaLoaded s k := by
  have h : Within [.DMA_STAT] s (s.setb F.DMA_STAT.busy 0 k) := .put (.refl s)
  have hsrc := pairAt_within h .DMA_SRC_LO .DMA_SRC_HI 0 k 0
  have hdst := pairAt_within h .DMA_DST_LO .DMA_DST_HI 0 k 0
  have hlen := h.f_eq F.DMA_LEN.len 0 k 0
  unfold State.dmaLoad dmaLoaded dmaSized dmaCut dmaSrc dmaDst
  simp only [hsrc, hdst, hlen, roomAt_within h, State.setIf]
  split <;> rfl

theorem dmaStart_busy {s : State} {k : Nat} (h : ¬ (s.bit F.DMA_STAT.busy 0 k = false ∧ s.bit F.DMA_STAT.halted 0 k = false)) :
    s.dmaStart k = (s, false) := by
  refine if_pos ?_
  cases hb : s.bit F.DMA_STAT.busy 0 k <;> cases hh : s.bit F.DMA_STAT.halted 0 k <;> simp_all

theorem dmaStart_idle {s : State} {k : Nat} (h : s.bit F.DMA_STAT.busy 0 k = false ∧ s.bit F.DMA_STAT.halted 0 k = false) :
    s.dmaStart k = ((dmaLoaded s k).dmaEnd k, true) := by
  rw [← dmaLoad_setb_busy]
  exact if_neg (by simp [h.1, h.2])

theorem dmaCut_lt (s : State) (k : Nat) : (dmaCut s k + 3) / 4 < 2 ^ 22 := by
  have hl : s.f F.DMA_LEN.len 0 k < 2 ^ 22 := f_lt s F.DMA_LEN.len 0 k 0
  have hc : dmaCut s k ≤ s.f F.DMA_LEN.len 0 k * 4 := Nat.min_le_left _ _
  omega

/-- What the registers of a started channel hold before it may end at once. -/
theorem dmaSized_status (s : State) (k : Nat) :
    (dmaSized s k).f F.DMA_LEN.len 0 k = (dmaCut s k + 3) / 4 % 2 ^ 22 ∧
      (dmaSized s k).bit F.DMA_STAT.clamp 0 k = (s.bit F.DMA_STAT.clamp 0 k || dmaCut s k != s.f F.DMA_LEN.len 0 k * 4) ∧
      (dmaSized s k).bit F.DMA_STAT.busy 0 k = true ∧ (dmaSized s k).bit F.DMA_STAT.done 0 k = s.bit F.DMA_STAT.done 0 k := by
  unfold dmaSized
  refine ⟨?_, ?_, ?_, ?_⟩
  · rw [f_setIf_apart _ _ (by decide), f_put_self _ _ _ _ _ _ (by decide)]
    rfl
  · rw [bit_setIf_self _ _ _ _ _ _ (by decide), bit_put_apart _ (by decide), bit_setb_apart _ (by decide)]
  · rw [bit_setIf_apart _ _ (by decide), bit_put_apart _ (by decide), bit_setb_self _ _ _ _ _ (by decide)]
  · rw [bit_setIf_apart _ _ (by decide), bit_put_apart _ (by decide), bit_setb_apart _ (by decide)]

/-- What the start of an idle channel leaves (R333, R334). -/
structure DmaStarted (s t : State) (k : Nat) : Prop where
  dma : t.dma.get {} k = { src := dmaSrc s k, dst := dmaDst s k, left := dmaCut s k }
  len : t.f F.DMA_LEN.len 0 k = (dmaCut s k + 3) / 4 % 2 ^ 22
  clamp : t.bit F.DMA_STAT.clamp 0 k = (s.bit F.DMA_STAT.clamp 0 k || dmaCut s k != s.f F.DMA_LEN.len 0 k * 4)
  runs : dmaCut s k ≠ 0 → t.bit F.DMA_STAT.busy 0 k = true ∧ t.bit F.DMA_STAT.done 0 k = s.bit F.DMA_STAT.done 0 k
  ends : dmaCut s k = 0 → s.bit F.DMA_CTL.chain 0 k = false → t.bit F.DMA_STAT.busy 0 k = false ∧ t.bit F.DMA_STAT.done 0 k = true
  moved : ChannelMoved dmaRegs s t

theorem within_dmaSized (s : State) (k : Nat) : Within dmaRegs s (dmaSized s k) := .setIf (.put (.put (.refl s)))

theorem dmaStarted_dmaEnd (s : State) (k : Nat) : DmaStarted s ((dmaLoaded s k).dmaEnd k) k := by
  obtain ⟨hlen, hclamp, hbusy, hdone⟩ := dmaSized_status s k
  obtain ⟨edma, eclamp, elen⟩ := dmaEnd_keeps (dmaLoaded s k) k
  have hlt := dmaCut_lt s k
  have hrest : dmaSized s k = { s with regs := (dmaSized s k).regs } := by
    unfold dmaSized State.setIf
    split <;> rfl
  have hmoved : ChannelMoved dmaRegs s (dmaLoaded s k) :=
    ⟨by unfold dmaLoaded; rw [hrest], (within_dmaSized s k).regs⟩
  refine ⟨?_, elen.trans hlen, eclamp.trans hclamp, fun hc => ?_, fun hc hch => ?_, hmoved.trans (channelMoved_dmaEnd _ k)⟩
  · rw [edma]
    exact (SMap_get_set _ _ _ _ _).trans (if_pos rfl)
  · have hne : (dmaLoaded s k).f F.DMA_LEN.len 0 k ≠ 0 := by
      rw [show (dmaLoaded s k).f F.DMA_LEN.len 0 k = (dmaCut s k + 3) / 4 % 2 ^ 22 from hlen]
      omega
    rw [dmaEnd_more hne]
    exact ⟨hbusy, hdone⟩
  · have h0 : (dmaLoaded s k).f F.DMA_LEN.len 0 k = 0 := by
      rw [show (dmaLoaded s k).f F.DMA_LEN.len 0 k = (dmaCut s k + 3) / 4 % 2 ^ 22 from hlen, hc]
      rfl
    have hchain : (dmaLoaded s k).bit F.DMA_CTL.chain 0 k = false := by
      rw [← hch]
      exact (within_dmaSized s k).bit_eq F.DMA_CTL.chain 0 k 0
    obtain ⟨db, dd, -, -⟩ := dmaDone_status (dmaLoaded s k) k
    rw [dmaEnd_done h0 hchain]
    exact ⟨db, dd⟩

end Sys2Proof.Proofs
end

section
/-! Bursts of DMA channels (R333 to R335): ranges of SRAM words read and written, the halt of a channel, and the move of one burst. -/

namespace Sys2Proof.Proofs
open Sys2Proof Sys2Proof.Machine Sys2Proof.Laws

/-! ### Ranges of words -/

theorem pieces_nil (f a : Nat) : pieces f a 0 = [] := by cases f <;> rfl

/-- A range of whole words is cut into its words. -/
theorem pieces_cons {f a : Nat} (h4 : a % 4 = 0) (w : Nat) : pieces (f + 1) a (4 * (w + 1)) = (a, 4) :: pieces f (a + 4) (4 * w) := by
  have hm : min (4 * (w + 1)) (4 - a % 4) = 4 := by omega
  rw [pieces, if_neg (by omega)]
  simp only [hm, show 4 * (w + 1) - 4 = 4 * w by omega]

theorem mem_pieces {f a w : Nat} (h4 : a % 4 = 0) {e : Nat × Nat} (he : e ∈ pieces f a (4 * w)) : ∃ j < w, e = (a + 4 * j, 4) := by
  induction w generalizing f a with
  | zero => rw [Nat.mul_zero, pieces_nil] at he; cases he
  | succ w ih =>
    cases f with
    | zero => cases he
    | succ f =>
      rw [pieces_cons h4] at he
      rcases List.mem_cons.mp he with rfl | he
      · exact ⟨0, Nat.succ_pos w, rfl⟩
      · obtain ⟨j, hj, rfl⟩ := ih (by omega) he
        exact ⟨j + 1, by omega, by rw [Nat.mul_add, Nat.mul_one, Nat.add_assoc, Nat.add_comm 4]⟩

/-- A range of SRAM words that a region admits has no bad piece. -/
theorem rangeBad_none {s : State} {q : Req} {acc : AccKind} {a w : Nat} (h4 : a % 4 = 0)
    (h : ∀ j < w, isSram (a + 4 * j) = true ∧ s.regionOk q acc (a + 4 * j) 4 = true) : s.rangeBad q acc a (4 * w) = none := by
  refine List.find?_eq_none.mpr fun e he => ?_
  obtain ⟨j, hj, rfl⟩ := mem_pieces h4 he
  obtain ⟨hs, hr⟩ := h j hj
  simp [unalias_sram hs, hr]

theorem regionOk_ram {s t : State} (h : t = { s with mem := t.mem, ram := t.ram }) (q : Req) (acc : AccKind) (a n : Nat) :
    t.regionOk q acc a n = s.regionOk q acc a n := by
  rw [h]
  rfl

theorem Shared.regionOk {s t : State} (h : Shared s t) (q : Req) (acc : AccKind) (a n : Nat) : t.regionOk q acc a n = s.regionOk q acc a n :=
  regionOk_ram (by rw [h.rest]) q acc a n

/-! ### Reading a range -/

/-- The bytes of a range, word by word. -/
theorem bytes_succ (s : State) (a w : Nat) : s.bytes a (4 * (w + 1)) = s.bytes a 4 ++ s.bytes (a + 4) (4 * w) := by
  unfold State.bytes
  rw [show 4 * (w + 1) = 4 + 4 * w by omega, List.range_add, List.map_append, List.map_map]
  simp only [Function.comp_def, Nat.add_assoc]

theorem Shared.bytes {s t : State} (h : Shared s t) (a n : Nat) : t.bytes a n = s.bytes a n := by
  unfold State.bytes
  simp only [h.byte]

/-- A word answers its four bytes. -/
theorem toBytes_word (s : State) (a : Nat) : toBytes 4 (s.word a).toNat = s.bytes a 4 := by
  have hl : (s.bytes a 4).length = 4 := by simp [State.bytes]
  have hb := toBytes_ofBytes (s.bytes a 4)
  have hlt : ofBytes (s.bytes a 4) < 2 ^ 32 := by
    have := ofBytes_toBytes 4 (ofBytes (s.bytes a 4))
    rw [hl] at hb
    rw [hb] at this
    omega
  rw [hl] at hb
  rw [State.word, BitVec.toNat_ofNat, Nat.mod_eq_of_lt hlt, hb]

/-- One step of a range's read. -/
def readStep (q : Req) (r : State × Except Nat (List Byte)) (e : Nat × Nat) : State × Except Nat (List Byte) :=
  match r.2 with
  | .error c => (r.1, .error c)
  | .ok bs =>
    match r.1.localRead q e.1 e.2 with
    | (s1, .ok d) => (s1, .ok (bs ++ toBytes e.2 d.toNat))
    | (s1, .ue) => (s1, .error 2)
    | (s1, _) => (s1, .error 1)

theorem readRange_eq (s : State) (q : Req) (a n : Nat) : s.readRange q a n =
    match s.rangeBad q .read a n with
    | some e => (s.refuse q .read e.1 e.2, .error 1)
    | none => (piecesOf a n).foldl (readStep q) (s, .ok []) := rfl

/-- Words that a master may read, all of them good. -/
def WordsGood (s : State) (q : Req) (a w : Nat) : Prop := ∀ j < w, WordGood s (a + 4 * j) ∧ s.regionOk q .read (a + 4 * j) 4 = true

theorem readStep_good {s : State} {q : Req} {a : Nat} (hq : 8 ≤ q.mno) (h : WordGood s a) (hr : s.regionOk q .read a 4 = true) (bs : List Byte) :
    ∃ t, readStep q (s, .ok bs) (a, 4) = (t, .ok (bs ++ s.bytes a 4)) ∧ Shared s t := by
  obtain ⟨t, ht, hs⟩ := memRead_good hq hr h
  refine ⟨t, ?_, hs⟩
  have hl : s.localRead q a 4 = (t, .ok (s.word a)) := by rw [localRead_mem (isMem_sram h.sram), ht]
  simp only [readStep, hl, toBytes_word]

theorem foldl_readStep {q : Req} (hq : 8 ≤ q.mno) {w f : Nat} (hf : w ≤ f) {s : State} {a : Nat} (h4 : a % 4 = 0) (h : WordsGood s q a w)
    (bs : List Byte) : ∃ t, (pieces f a (4 * w)).foldl (readStep q) (s, .ok bs) = (t, .ok (bs ++ s.bytes a (4 * w))) ∧ Shared s t := by
  induction w generalizing s a f bs with
  | zero => exact ⟨s, by rw [Nat.mul_zero, pieces_nil]; simp [State.bytes], .refl s⟩
  | succ w ih =>
    obtain ⟨f, rfl⟩ : ∃ g, f = g + 1 := ⟨f - 1, by omega⟩
    obtain ⟨h0, hr0⟩ := h 0 (Nat.succ_pos w)
    obtain ⟨t1, ht1, hs1⟩ := readStep_good hq h0 hr0 bs
    have hw : WordsGood t1 q (a + 4) w := fun j hj => by
      obtain ⟨hg, hr⟩ := h (j + 1) (by omega)
      rw [show a + 4 * (j + 1) = a + 4 + 4 * j by omega] at hg hr
      exact ⟨hg.shared hs1, (hs1.regionOk _ _ _ _).trans hr⟩
    obtain ⟨t, ht, hs⟩ := ih (f := f) (by omega) (by omega) hw (bs ++ s.bytes a 4)
    refine ⟨t, ?_, hs1.trans hs⟩
    rw [pieces_cons h4, List.foldl_cons, show (a, 4) = (a + 4 * 0, 4) from rfl, ht1, Nat.mul_zero, Nat.add_zero, ht, hs1.bytes, bytes_succ,
      List.append_assoc]

/-- A range of good words is read whole, and nothing but the states of cached lines changes (R301, R409). -/
theorem readRange_good {s : State} {q : Req} (hq : 8 ≤ q.mno) {a w : Nat} (h4 : a % 4 = 0) (h : WordsGood s q a w) :
    ∃ t, s.readRange q a (4 * w) = (t, .ok (s.bytes a (4 * w))) ∧ Shared s t := by
  rw [readRange_eq, rangeBad_none h4 fun j hj => ⟨(h j hj).1.sram, (h j hj).2⟩]
  exact foldl_readStep hq (by omega) h4 h []

/-! ### Writing a range -/

/-- One step of a range's write. -/
def writeStep (q : Req) (a : Nat) (bs : List Byte) (r : State × Nat) (e : Nat × Nat) : State × Nat :=
  if r.2 ≠ 0 then r
  else
    match r.1.localWrite q e.1 e.2 (BitVec.ofNat 32 (ofBytes ((bs.drop (e.1 - a)).take e.2))) with
    | (s1, .ok _) => (s1, 0)
    | (s1, .ue) => (s1, 2)
    | (s1, _) => (s1, 1)

theorem writeRange_eq (s : State) (q : Req) (a : Nat) (bs : List Byte) : s.writeRange q a bs =
    match s.rangeBad q .write a bs.length with
    | some e => (s.refuse q .write e.1 e.2, 1)
    | none => (piecesOf a bs.length).foldl (writeStep q a bs) (s, 0) := rfl

/-- Words that a master may write, with no damaged copy. -/
def WordsFree (s : State) (q : Req) (a w : Nat) : Prop :=
  ∀ j < w, isSram (a + 4 * j) = true ∧ s.pageClosedAt (a + 4 * j) = false ∧ LineClean s (lineOf (a + 4 * j)) ∧
    s.regionOk q .write (a + 4 * j) 4 = true

/-- Between two states the bytes from `a` up to `e` have been written from `bs`, which starts at `o`: beside memory, only the states of
cached lines have changed. -/
structure WroteBytes (s t : State) (a e o : Nat) (bs : List Byte) : Prop where
  rest : t = { s with mem := t.mem, ram := t.ram }
  byte : ∀ c, t.byte c = if a ≤ c ∧ c < e then bs.getD (c - o) 0 else s.byte c

theorem ofBytes_lt (bs : List Byte) : ofBytes bs < 256 ^ bs.length := by
  have h := ofBytes_toBytes bs.length (ofBytes bs)
  rw [toBytes_ofBytes] at h
  rw [h]
  exact Nat.mod_lt _ (Nat.pow_pos (by decide))

theorem toBytes_chunk {bs : List Byte} (h : bs.length = 4) : toBytes 4 (BitVec.ofNat 32 (ofBytes bs)).toNat = bs := by
  have hlt := ofBytes_lt bs
  rw [h] at hlt
  have hb := toBytes_ofBytes bs
  rw [h] at hb
  rw [BitVec.toNat_ofNat, Nat.mod_eq_of_lt (by omega), hb]

theorem writeStep_free {s : State} {q : Req} {o a : Nat} {bs : List Byte} (hq : 8 ≤ q.mno) (h4 : a % 4 = 0) (hoa : o ≤ a)
    (hl : a + 4 ≤ o + bs.length) (hs : isSram a = true) (hp : s.pageClosedAt a = false) (hc : LineClean s (lineOf a))
    (hr : s.regionOk q .write a 4 = true) :
    ∃ t, writeStep q o bs (s, 0) (a, 4) = (t, 0) ∧ WroteBytes s t a (a + 4) o bs ∧ t.ram.closed = s.ram.closed ∧
      ∀ line, LineClean s line → LineClean t line := by
  obtain ⟨t, ht, hw, -⟩ := memWrite_clean hq hs h4 hr hp hc (BitVec.ofNat 32 (ofBytes ((bs.drop (a - o)).take 4)))
  have hchunk : ((bs.drop (a - o)).take 4).length = 4 := by simp; omega
  refine ⟨t, ?_, ⟨hw.rest, fun c => ?_⟩, hw.closed, hw.clean⟩
  · simp only [writeStep, localWrite_mem (isMem_sram hs), ht, ne_eq, not_true_eq_false, if_false]
  · rw [hw.byte, toBytes_chunk hchunk]
    by_cases hin : a ≤ c ∧ c < a + 4
    · rw [if_pos hin, if_pos hin, List.getD_eq_getElem _ _ (by omega), List.getD_eq_getElem _ _ (by omega), List.getElem_take, List.getElem_drop]
      congr 1
      omega
    · rw [if_neg hin, if_neg hin]

theorem foldl_writeStep {q : Req} (hq : 8 ≤ q.mno) {o : Nat} {bs : List Byte} {w f : Nat} (hf : w ≤ f) {s : State} {a : Nat} (h4 : a % 4 = 0)
    (hoa : o ≤ a) (hl : a + 4 * w ≤ o + bs.length) (h : WordsFree s q a w) :
    ∃ t, (pieces f a (4 * w)).foldl (writeStep q o bs) (s, 0) = (t, 0) ∧ WroteBytes s t a (a + 4 * w) o bs := by
  induction w generalizing s a f with
  | zero => exact ⟨s, by rw [Nat.mul_zero, pieces_nil]; rfl, rfl, fun c => (if_neg (by omega)).symm⟩
  | succ w ih =>
    obtain ⟨f, rfl⟩ : ∃ g, f = g + 1 := ⟨f - 1, by omega⟩
    obtain ⟨hs0, hp0, hc0, hr0⟩ := h 0 (Nat.succ_pos w)
    obtain ⟨t1, ht1, hw1, hclosed, hclean⟩ := writeStep_free (bs := bs) hq h4 hoa (by omega) hs0 hp0 hc0 hr0
    have hw : WordsFree t1 q (a + 4) w := fun j hj => by
      obtain ⟨hs, hp, hc, hr⟩ := h (j + 1) (by omega)
      rw [show a + 4 * (j + 1) = a + 4 + 4 * j by omega] at hs hp hc hr
      refine ⟨hs, ?_, hclean _ hc, (regionOk_ram hw1.rest _ _ _ _).trans hr⟩
      rw [State.pageClosedAt, hclosed]
      exact hp
    obtain ⟨t, ht, hrest, hbyte⟩ := ih (f := f) (by omega) (by omega) (by omega) (by omega) hw
    refine ⟨t, ?_, by rw [hrest, hw1.rest], fun c => ?_⟩
    · rw [pieces_cons h4, List.foldl_cons, ht1, ht]
    · rw [hbyte, hw1.byte]
      by_cases hlater : a + 4 ≤ c ∧ c < a + 4 + 4 * w
      · rw [if_pos hlater, if_pos (by omega)]
      · rw [if_neg hlater]
        by_cases hfirst : a ≤ c ∧ c < a + 4
        · rw [if_pos hfirst, if_pos (by omega)]
        · rw [if_neg hfirst, if_neg (by omega)]

/-- Bytes written to a range of SRAM words are there, and no other byte changes (R301, R409). -/
theorem writeRange_free {s : State} {q : Req} (hq : 8 ≤ q.mno) {a w : Nat} {bs : List Byte} (hb : bs.length = 4 * w) (h4 : a % 4 = 0)
    (h : WordsFree s q a w) : ∃ t, s.writeRange q a bs = (t, 0) ∧ WroteBytes s t a (a + 4 * w) a bs := by
  rw [writeRange_eq, hb, rangeBad_none h4 fun j hj => ⟨(h j hj).1, (h j hj).2.2.2⟩]
  exact foldl_writeStep hq (by omega) h4 (Nat.le_refl a) (by omega) h

/-! ### The halt of a channel -/

/-- A channel's status when it halts. -/
def dmaHalted (s : State) (k cause : Nat) (g : Tag) : State :=
  (((s.clrb F.DMA_STAT.busy 0 k).setb F.DMA_STAT.halted 0 k).put F.DMA_STAT.cause cause 0 k).setPair .DMA_TAG_LO .DMA_TAG_HI g 0 k

/-- A channel that halts is no longer busy and names its cause (R335). -/
theorem dmaHalt_status (s : State) (k : Nat) {cause : Nat} (hc : cause < 4) (g : Tag) :
    (s.dmaHalt k cause g).bit F.DMA_STAT.busy 0 k = false ∧ (s.dmaHalt k cause g).bit F.DMA_STAT.halted 0 k = true ∧
      (s.dmaHalt k cause g).f F.DMA_STAT.cause 0 k = cause ∧ (s.dmaHalt k cause g).mem = s.mem ∧ (s.dmaHalt k cause g).dma = s.dma := by
  have hw : Within alarmRegs (dmaHalted s k cause g) (s.dmaHalt k cause g) := within_alarm _ _ _ _ _ _ _ _
  have hr : Reported (dmaHalted s k cause g) (s.dmaHalt k cause g) := reported_alarm _ _ _ _ _ _ _ _
  refine ⟨?_, ?_, ?_, hw.mem, hr.dma⟩
  · rw [hw.bit_eq F.DMA_STAT.busy, dmaHalted, bit_setPair_name _ (by decide) (by decide), bit_put_apart _ (by decide),
      bit_setb_apart _ (by decide), bit_clrb_self _ _ _ _ _ (by decide)]
  · rw [hw.bit_eq F.DMA_STAT.halted, dmaHalted, bit_setPair_name _ (by decide) (by decide), bit_put_apart _ (by decide),
      bit_setb_self _ _ _ _ _ (by decide)]
  · rw [hw.f_eq F.DMA_STAT.cause, dmaHalted, f_setPair_name _ (by decide) (by decide), f_put_self _ _ _ _ _ _ (by decide)]
    exact Nat.mod_eq_of_lt hc

/-! ### One burst -/

theorem dma_ofNat (k : DmaIx) : Fin.ofNat 32 k.val = k := Fin.ext (Nat.mod_eq_of_lt k.isLt)

theorem dmaBurst_away {s : State} {k : DmaIx} (h : s.bit F.DMA_STAT.busy 0 k = false ∨ (s.dma.get {} k).wait ≠ 0) : s.dmaBurst k = s := by
  refine if_pos ?_
  rcases h with h | h <;> simp [h]

/-- What a burst does with the bytes that its source answers. -/
def dmaAnswered (k : Nat) : State × Except Nat (List Byte) → State
  | (s, .ok bs) => s.dmaPut k bs
  | (s, .error c) => s.dmaHalt k c

/-- What a burst from another node does, by the lane to that node. -/
def dmaAsked (s : State) (k : DmaIx) : Option Nat → State
  | none => s.dmaHalt k 3
  | some ln =>
    let s1 := (s.issue ln 1 (reqFrame (s.req (.dma k)) (s.dma.get {} k).src (s.burstLen k) []) (.dma k)).1
    { s1 with dma := s1.dma.set {} k { s.dma.get {} k with wait := 1, wlen := s.burstLen k } }

/-- A burst of a running channel with nothing outstanding and bytes left, by where its source lies (R333, R335). -/
theorem dmaBurst_moves {s : State} {k : DmaIx} (hb : s.bit F.DMA_STAT.busy 0 k = true) (hw : (s.dma.get {} k).wait = 0)
    (hl : (s.dma.get {} k).left ≠ 0) :
    let o := (s.dma.get {} k).src % 2 ^ 44
    s.dmaBurst k =
      if s.localAddr (s.dma.get {} k).src then
        if 2 ^ 32 ≤ o then (s.refuse (s.req (.dma k)) .read o (s.burstLen k)).dmaHalt k 1
        else dmaAnswered k (s.readRange (s.req (.dma k)) o (s.burstLen k))
      else dmaAsked s k (s.laneTo ((s.dma.get {} k).src / 2 ^ 44)) := by
  have hq : s.req (.dma (Fin.ofNat 32 k.val)) = s.req (.dma k) := by rw [dma_ofNat]
  unfold State.dmaBurst
  dsimp only
  rw [if_neg (by simp [hb, hw]), if_neg hl, hq]
  rfl

theorem burstLen_local {s : State} {k : Nat} (hs : s.localAddr (s.dma.get {} k).src = true) (hd : s.localAddr (s.dma.get {} k).dst = true) :
    s.burstLen k = min 64 (s.dma.get {} k).left := by
  unfold State.burstLen
  simp only [hs, hd, if_true]
  omega

/-- A transfer after a burst of `n` bytes. -/
def dmaMoved (d : DmaRun) (n : Nat) : DmaRun := { d with src := d.src + n, dst := d.dst + n, left := d.left - n, wait := 0, wlen := 0, stop := false }

/-- What a written burst leaves of its channel (R333, R334). -/
structure BurstStepped (s t : State) (k n : Nat) : Prop where
  dma : t.dma.get {} k = dmaMoved (s.dma.get {} k) n
  len : t.f F.DMA_LEN.len 0 k = ((s.dma.get {} k).left - n + 3) / 4 % 2 ^ 22
  last : (s.dma.get {} k).left ≤ n → (s.dma.get {} k).stop = false → s.bit F.DMA_CTL.chain 0 k = false →
    t.bit F.DMA_STAT.busy 0 k = false ∧ t.bit F.DMA_STAT.done 0 k = true
  stops : (s.dma.get {} k).stop = true → t.bit F.DMA_STAT.busy 0 k = false
  more : 4 ≤ n → n < (s.dma.get {} k).left → (s.dma.get {} k).left / 4 < 2 ^ 22 → (s.dma.get {} k).stop = false → s.bit F.DMA_STAT.busy 0 k = true →
    t.bit F.DMA_STAT.busy 0 k = true

/-- The channel with its addresses and its length moved on by a burst. -/
def burstMoved (s : State) (k n : Nat) : State :=
  ({ s with dma := s.dma.set {} k (dmaMoved (s.dma.get {} k) n) } : State).put F.DMA_LEN.len (((s.dma.get {} k).left - n + 3) / 4) 0 k

theorem dmaStep_eq (s : State) (k n : Nat) : s.dmaStep k n =
    if (s.dma.get {} k).stop then (burstMoved s k n).clrb F.DMA_STAT.busy 0 k else (burstMoved s k n).dmaEnd k := rfl

theorem burstMoved_facts (s : State) (k n : Nat) :
    (burstMoved s k n).dma.get {} k = dmaMoved (s.dma.get {} k) n ∧
    (burstMoved s k n).f F.DMA_LEN.len 0 k = ((s.dma.get {} k).left - n + 3) / 4 % 2 ^ 22 ∧ Within [.DMA_LEN] s (burstMoved s k n) :=
  ⟨(SMap_get_set _ _ _ _ _).trans (if_pos rfl), f_put_self _ F.DMA_LEN.len _ 0 k 0 (by decide), .put (.hidden (.refl s))⟩

theorem boot_eq {s t : State} (h : t.rd .IMG_BANK = s.rd .IMG_BANK) : t.boot = s.boot := congrArg F.IMG_BANK.boot.get h

theorem boot_burstMoved (s : State) (k n : Nat) : (burstMoved s k n).boot = s.boot :=
  boot_eq ((burstMoved_facts s k n).2.2.regs _ _ _ _ (by decide))

/-- The step of a burst that has been written changes nothing in memory. -/
theorem dmaStep_keeps (s : State) (k n : Nat) : (s.dmaStep k n).mem = s.mem ∧ (s.dmaStep k n).ram = s.ram ∧ (s.dmaStep k n).boot = s.boot := by
  rw [dmaStep_eq]
  split
  · exact ⟨rfl, rfl, (boot_eq (rd_put_name _ (by decide) _ _ _ _ _ _ _)).trans (boot_burstMoved s k n)⟩
  · have hm := channelMoved_dmaEnd (burstMoved s k n) k
    exact ⟨hm.mem, by rw [hm.rest]; rfl, (boot_eq (hm.regs _ _ _ _ (by decide))).trans (boot_burstMoved s k n)⟩

theorem burstStepped_dmaStep (s : State) (k n : Nat) : BurstStepped s (s.dmaStep k n) k n := by
  obtain ⟨hdma, hlen, hw⟩ := burstMoved_facts s k n
  have hchain := hw.bit_eq F.DMA_CTL.chain 0 k 0
  have hbusy := hw.bit_eq F.DMA_STAT.busy 0 k 0
  rw [dmaStep_eq]
  cases hs : (s.dma.get {} k).stop with
  | true =>
    rw [if_pos rfl]
    exact ⟨hdma, (f_clrb_apart _ (by decide) _ _ _ _ _ _).trans hlen, fun _ h => (Bool.false_ne_true (h.symm.trans hs)).elim,
      fun _ => bit_clrb_self _ _ _ _ _ (by decide), fun _ _ _ h => (Bool.false_ne_true (h.symm.trans hs)).elim⟩
  | false =>
    rw [if_neg Bool.false_ne_true]
    obtain ⟨edma, -, elen⟩ := dmaEnd_keeps (burstMoved s k n) k
    refine ⟨by rw [edma]; exact hdma, elen.trans hlen,
      fun hl _ hc => ?_, fun h => (Bool.false_ne_true (hs.symm.trans h)).elim, fun hn hl h22 _ hb => ?_⟩
    · have h0 : (burstMoved s k n).f F.DMA_LEN.len 0 k = 0 := by
        rw [hlen, Nat.sub_eq_zero_of_le hl]
        rfl
      obtain ⟨db, dd, -, -⟩ := dmaDone_status (burstMoved s k n) k
      rw [dmaEnd_done h0 (hchain.trans hc)]
      exact ⟨db, dd⟩
    · have hne : (burstMoved s k n).f F.DMA_LEN.len 0 k ≠ 0 := by
        rw [hlen]
        omega
      rw [dmaEnd_more hne]
      exact hbusy.trans hb

end Sys2Proof.Proofs
end

section
/-! DMA_START, DMA_STOP, DMA_BURST and HALTED_CLEAR (R53, R333 to R335). -/

namespace Sys2Proof.Proofs
open Sys2Proof Sys2Proof.Machine Sys2Proof.Laws

/-! ### A burst inside the local map -/

theorem reqDma_mno (s : State) (k : DmaIx) : 8 ≤ (s.req (.dma k)).mno := Nat.le_trans (by decide) (Nat.le_add_right 12 k.val)

theorem dmaPut_local {s : State} {k : DmaIx} {bs : List Byte} {w : Nat} (hb : bs.length = 4 * w)
    (hd : s.localAddr (s.dma.get {} k).dst = true) (h4 : (s.dma.get {} k).dst % 2 ^ 44 % 4 = 0) (ho : (s.dma.get {} k).dst % 2 ^ 44 < 2 ^ 32)
    (h : WordsFree s (s.req (.dma k)) ((s.dma.get {} k).dst % 2 ^ 44) w) :
    ∃ t, s.dmaPut k bs = t.dmaStep k (4 * w) ∧
      WroteBytes s t ((s.dma.get {} k).dst % 2 ^ 44) ((s.dma.get {} k).dst % 2 ^ 44 + 4 * w) ((s.dma.get {} k).dst % 2 ^ 44) bs := by
  obtain ⟨t, ht, hw⟩ := writeRange_free (reqDma_mno s k) hb h4 h
  refine ⟨t, ?_, hw⟩
  unfold State.dmaPut
  simp only [dma_ofNat]
  rw [if_pos hd, if_neg (Nat.not_le.mpr ho), ht, hb]
  rfl

theorem WordsFree.shared {s t : State} {q : Req} {a w : Nat} (h : WordsFree s q a w) (g : Shared s t) : WordsFree t q a w := fun j hj => by
  obtain ⟨hs, hp, hc, hr⟩ := h j hj
  exact ⟨hs, (g.closed _).trans hp, g.clean _ hc, (g.regionOk _ _ _ _).trans hr⟩

/-- Between two states a burst of `n` bytes has gone from `src` to `dst`, and its channel has moved on. -/
structure Burst (s t : State) (k src dst n : Nat) : Prop where
  byte : ∀ a, t.byte a = if dst ≤ a ∧ a < dst + n then s.byte (src + (a - dst)) else s.byte a
  step : BurstStepped s t k n

theorem BurstStepped.of_ram {s u t : State} {k n : Nat} (h : BurstStepped u t k n) (hu : u = { s with mem := u.mem, ram := u.ram }) :
    BurstStepped s t k n := by
  rw [hu] at h
  exact ⟨h.dma, h.len, h.last, h.stops, h.more⟩

theorem getD_bytes (s : State) (a : Nat) {n i : Nat} (h : i < n) : (s.bytes a n).getD i 0 = s.byte (a + i) := by
  rw [State.bytes, List.getD_eq_getElem _ _ (by simpa using h), List.getElem_map, List.getElem_range]

theorem byte_congr {s t : State} (hm : t.mem = s.mem) (hr : t.ram = s.ram) (hb : t.boot = s.boot) (a : Nat) : t.byte a = s.byte a := by
  unfold State.byte State.wvalid State.cell State.nvKey
  rw [hm, hr, hb]

/-- A burst between words of SRAM that its channel may read and write moves its bytes (R333). -/
theorem dmaBurst_local {s : State} {k : DmaIx} {w : Nat} (hb : s.bit F.DMA_STAT.busy 0 k = true) (hwait : (s.dma.get {} k).wait = 0)
    (hl : (s.dma.get {} k).left ≠ 0) (hs : s.localAddr (s.dma.get {} k).src = true) (hd : s.localAddr (s.dma.get {} k).dst = true)
    (hn : min 64 (s.dma.get {} k).left = 4 * w)
    (hs4 : (s.dma.get {} k).src % 2 ^ 44 % 4 = 0) (hd4 : (s.dma.get {} k).dst % 2 ^ 44 % 4 = 0)
    (hsrc : (s.dma.get {} k).src % 2 ^ 44 < 2 ^ 32) (hdst : (s.dma.get {} k).dst % 2 ^ 44 < 2 ^ 32)
    (hr : WordsGood s (s.req (.dma k)) ((s.dma.get {} k).src % 2 ^ 44) w)
    (hf : WordsFree s (s.req (.dma k)) ((s.dma.get {} k).dst % 2 ^ 44) w) :
    Burst s (s.dmaBurst k) k ((s.dma.get {} k).src % 2 ^ 44) ((s.dma.get {} k).dst % 2 ^ 44) (4 * w) := by
  obtain ⟨t, ht, hsh⟩ := readRange_good (reqDma_mno s k) hs4 hr
  have hlen : (s.bytes ((s.dma.get {} k).src % 2 ^ 44) (4 * w)).length = 4 * w := by simp [State.bytes]
  have hdma : t.dma.get {} k = s.dma.get {} k := by rw [hsh.rest]
  have hreq : t.req (.dma k) = s.req (.dma k) := by rw [hsh.rest]; rfl
  have hloc : t.localAddr (s.dma.get {} k).dst = true := by rw [hsh.rest]; exact hd
  obtain ⟨u, hu, hw⟩ := dmaPut_local (s := t) (k := k) hlen (by rw [hdma]; exact hloc) (by rw [hdma]; exact hd4) (by rw [hdma]; exact hdst)
    (by rw [hdma, hreq]; exact hf.shared hsh)
  have hburst : s.dmaBurst k = u.dmaStep k (4 * w) := by
    rw [dmaBurst_moves hb hwait hl, if_pos hs, if_neg (Nat.not_le.mpr hsrc), burstLen_local hs hd, hn, ht]
    exact hu
  obtain ⟨hmem, hram, hboot⟩ := dmaStep_keeps u k (4 * w)
  rw [hdma] at hw
  rw [hburst]
  refine ⟨fun a => ?_, (burstStepped_dmaStep u k (4 * w)).of_ram (by rw [hw.rest, hsh.rest])⟩
  rw [byte_congr hmem hram hboot, hw.byte, hsh.byte]
  by_cases ha : (s.dma.get {} k).dst % 2 ^ 44 ≤ a ∧ a < (s.dma.get {} k).dst % 2 ^ 44 + 4 * w
  · rw [if_pos ha, if_pos ha, getD_bytes _ _ (by omega)]
  · rw [if_neg ha, if_neg ha]

/-! ### A burst that its channel cannot make -/

/-- The first word of a range that its region refuses is a bad piece. -/
theorem rangeBad_some {s : State} {q : Req} {acc : AccKind} {a n : Nat} (h4 : a % 4 = 0) (hn : 4 ≤ n) (hm : isMem a = true)
    (hr : s.regionOk q acc (unalias a) 4 = false) : ∃ e, s.rangeBad q acc a n = some e := by
  refine ⟨(a, 4), ?_⟩
  obtain ⟨m, rfl⟩ : ∃ m, n = m + 1 := ⟨n - 1, by omega⟩
  have hp : ∃ es, piecesOf a (m + 1) = (a, 4) :: es := by
    have h : min (m + 1) (4 - a % 4) = 4 := by omega
    unfold piecesOf
    rw [pieces, if_neg (by omega)]
    simp only [h]
    exact ⟨_, rfl⟩
  obtain ⟨es, hes⟩ := hp
  rw [State.rangeBad, hes, List.find?_cons_of_pos (by simp [hm, hr])]

/-- A channel halted in a state that only its violation has changed. -/
theorem halts_of_logsOnly {s u : State} (h : LogsOnly s u) (k : Nat) {cause : Nat} (hc : cause < 4) (g : Tag) :
    let t := u.dmaHalt k cause g
    t.bit F.DMA_STAT.busy 0 k = false ∧ t.bit F.DMA_STAT.halted 0 k = true ∧ t.f F.DMA_STAT.cause 0 k = cause ∧ t.mem = s.mem ∧
      t.dma = s.dma := by
  obtain ⟨hb, hh, hca, hm, hd⟩ := dmaHalt_status u k hc g
  exact ⟨hb, hh, hca, by rw [hm, h.rest], by rw [hd, h.rest]⟩

/-- A read that the channel's region refuses halts it before anything is written (R335). -/
theorem dmaBurst_refused {s : State} {k : DmaIx} (hb : s.bit F.DMA_STAT.busy 0 k = true) (hw : (s.dma.get {} k).wait = 0)
    (hl : (s.dma.get {} k).left ≠ 0) (hs : s.localAddr (s.dma.get {} k).src = true) (h4 : (s.dma.get {} k).src % 2 ^ 44 % 4 = 0)
    (hn : 4 ≤ s.burstLen k) (hm : isMem ((s.dma.get {} k).src % 2 ^ 44) = true)
    (hr : s.regionOk (s.req (.dma k)) .read (unalias ((s.dma.get {} k).src % 2 ^ 44)) 4 = false) :
    ∃ u, LogsOnly s u ∧ s.dmaBurst k = u.dmaHalt k 1 := by
  rw [dmaBurst_moves hb hw hl, if_pos hs]
  split
  · exact ⟨_, logsOnly_violation _ _ _ _ _ _ _ _, rfl⟩
  · obtain ⟨e, he⟩ := rangeBad_some h4 hn hm hr
    rw [readRange_eq, he]
    exact ⟨_, logsOnly_violation _ _ _ _ _ _ _ _, rfl⟩

/-- A read of another node is sent and is outstanding (R333, R416). -/
theorem dmaBurst_remote {s : State} {k : DmaIx} {ln : Nat} (hb : s.bit F.DMA_STAT.busy 0 k = true) (hw : (s.dma.get {} k).wait = 0)
    (hl : (s.dma.get {} k).left ≠ 0) (hs : s.localAddr (s.dma.get {} k).src = false)
    (hln : s.laneTo ((s.dma.get {} k).src / 2 ^ 44) = some ln) :
    (s.dmaBurst k).dma.get {} k = { s.dma.get {} k with wait := 1, wlen := s.burstLen k } ∧ (s.dmaBurst k).mem = s.mem := by
  rw [dmaBurst_moves hb hw hl, if_neg (ne_true_of_eq_false hs), hln]
  refine ⟨(SMap_get_set _ _ _ _ _).trans (if_pos rfl), ?_⟩
  show (State.send _ ln 1 _).mem = s.mem
  rw [send_rest]

/-! ### The owner's commands -/

theorem admits_mapped {o : Owner} {q : Req} (h : q.admits o = true) : q.mapped = true := by
  rw [Req.admits, Bool.and_eq_true, Bool.and_eq_true] at h
  exact h.1.1

section
variable {s : State} {m : Master} {k : DmaIx} (h : (s.req m).admits (s.owner (.dma k)) = true)
include h

theorem dmaCmd_ok {v : Word} {t : State} (ht : s.hookDma .DMA_CMD k v = (t, .ok)) : s.putAt m .DMA_CMD v 0 k = ok t :=
  putAt_ok rfl k.isLt (by decide) (admits_mapped h) ((guard_owned_wr _ _).1 h) fun _ => ht

theorem dmaCmd_err {v : Word} {t : State} (ht : s.hookDma .DMA_CMD k v = (t, .err)) : s.putAt m .DMA_CMD v 0 k = errResp t :=
  putAt_err rfl k.isLt (by decide) (admits_mapped h) ((guard_owned_wr _ _).1 h) fun _ => ht

theorem dmaStat_ok {v : Word} {t : State} (ht : s.hookDma .DMA_STAT k v = (t, .ok)) : s.putAt m .DMA_STAT v 0 k = ok t :=
  putAt_ok rfl k.isLt (by decide) (admits_mapped h) ((guard_owned_wr _ _).1 h) fun _ => ht

end

theorem hookDma_start (s : State) (k : Nat) : s.hookDma .DMA_CMD k 1 = ((s.dmaStart k).1, if (s.dmaStart k).2 then .ok else .err) := rfl

theorem hookDma_stop (s : State) (k : Nat) : s.hookDma .DMA_CMD k 2 = (s.dmaStop k, .ok) := rfl

/-- A channel whose halt is cleared. -/
def dmaCleared (s : State) (k : Nat) : State := (s.clrb F.DMA_STAT.halted 0 k).put F.DMA_STAT.cause 0 0 k

theorem clear_halted (w : Word) : RegName.DMA_STAT.row.write w 4 = F.DMA_STAT.halted.put w 0 := by
  have hm : F.DMA_STAT.halted.mask = 4 := by decide
  simp [Row.write, Fld.put, hm, show RegName.DMA_STAT.row.rw = 0 from rfl, show RegName.DMA_STAT.row.w1c = 0x26 from rfl, BitVec.and_assoc]

theorem hookDma_clear (s : State) (k : Nat) : s.hookDma .DMA_STAT k 4 = (dmaCleared s k, .ok) := by
  have h : s.hookDma .DMA_STAT k 4 = ((s.wr .DMA_STAT (RegName.DMA_STAT.row.write (s.rd .DMA_STAT 0 k) 4) 0 k).put F.DMA_STAT.cause 0 0 k, .ok) := rfl
  rw [h, clear_halted]
  rfl

theorem dmaCleared_status (s : State) (k : Nat) :
    (dmaCleared s k).bit F.DMA_STAT.halted 0 k = false ∧ (dmaCleared s k).f F.DMA_STAT.cause 0 k = 0 ∧
      (dmaCleared s k).bit F.DMA_STAT.busy 0 k = s.bit F.DMA_STAT.busy 0 k ∧
      (dmaCleared s k).bit F.DMA_STAT.done 0 k = s.bit F.DMA_STAT.done 0 k ∧
      (dmaCleared s k).bit F.DMA_STAT.clamp 0 k = s.bit F.DMA_STAT.clamp 0 k := by
  unfold dmaCleared
  refine ⟨?_, f_put_self _ _ _ _ _ _ (by decide), ?_, ?_, ?_⟩
  · rw [bit_put_apart _ (by decide), bit_clrb_self _ _ _ _ _ (by decide)]
  all_goals rw [bit_put_apart _ (by decide), bit_clrb_apart _ (by decide)]

theorem when_true {s : State} {c : Bool} {f : State → State} (h : c = true) : s.when_ c f = f s := if_pos h
theorem when_false {s : State} {c : Bool} {f : State → State} (h : c = false) : s.when_ c f = s := if_neg (ne_true_of_eq_false h)

theorem slot_ofNat (n : SlotIx) : Fin.ofNat 64 n.val = n := Fin.ext (Nat.mod_eq_of_lt n.isLt)

/-- A slot starts a channel that its tenant owns as that channel's owner does (R53). -/
theorem slotDma_owned {s : State} {n : SlotIx} {k : DmaIx} (h : (s.req (.slot n)).admits (s.owner (.dma k)) = true) :
    s.slotDma n k = s.dmaStart k := by
  unfold State.slotDma
  simp only [slot_ofNat]
  rw [if_neg (Nat.not_le.mpr k.isLt), if_neg (by simp [h])]

/-! ### The obligation -/

/-- The words of a burst: each fourth byte of its length starts one. -/
theorem words_of_bytes {P : Nat → Prop} {n w : Nat} (hn : n = 4 * w) (h : ∀ i, i < n → i % 4 = 0 → P i) (j : Nat) (hj : j < w) : P (4 * j) :=
  h _ (by omega) (by omega)

theorem min_whole {n : Nat} (h : n % 4 = 0) : ∃ w, min 64 n = 4 * w := ⟨min 64 n / 4, by omega⟩

theorem min_last {n : Nat} (h : n ≤ 64) : n ≤ min 64 n := by omega
theorem min_more {n : Nat} (h : 64 < n) : 4 ≤ min 64 n ∧ min 64 n < n := by omega

theorem isSram_of_range {a b n i : Nat} (ha : 0x10000000 ≤ a) (hb : a + n ≤ 0x12000000) (hi : b = a + i) (hin : i < n) : isSram b = true := by
  rw [isSram, decide_eq_true_iff]
  omega

/-- Settles O20: the start by its register effects, a burst by the ranges it reads and writes. -/
theorem dmaChannelsCarryOutTheirTransfers : Obligations.DmaChannelsCarryOutTheirTransfers := by
  refine ⟨fun k s => ?_, fun k s => ?_⟩
  · intro src dst len cut idle starts
    have done {i : Instr} (hi : idle) (h : exec i s = ok (s.dmaStart k).1) : starts i := by
      have hd := dmaStarted_dmaEnd s k
      rw [dmaStart_idle hi] at h
      show Accepts (exec i s) _
      rw [h]
      exact accepts_ok ⟨hd.dma, hd.len, hd.clamp, hd.runs, hd.ends, hd.moved.regs, by rw [hd.moved.rest]⟩
    refine ⟨fun m h => ⟨fun hi => done hi ?_, fun hi => ?_, fun hb => ?_, fun hb => ?_, ?_⟩, fun ht => ⟨fun hi => done hi ?_, fun hi => ?_⟩,
      fun ht => ?_, fun n h => ⟨fun hi => done hi ?_, fun hi => ?_⟩⟩
    · refine dmaCmd_ok h ?_
      rw [hookDma_start, dmaStart_idle hi]
      rfl
    · have he : s.putAt m .DMA_CMD 1 0 k = errResp s := by
        refine dmaCmd_err h ?_
        rw [hookDma_start, dmaStart_busy hi]
        rfl
      exact he
    · have he : s.putAt m .DMA_CMD 2 0 k = ok (s.dmaStop k) := dmaCmd_ok h (hookDma_stop s k)
      have hs : s.dmaStop k = { s with dma := s.dma.set {} k { s.dma.get {} k with stop := true } } := if_pos hb
      show Accepts (s.putAt m .DMA_CMD 2 0 k) _
      rw [he, hs]
      exact accepts_ok rfl
    · have he : s.putAt m .DMA_CMD 2 0 k = ok (s.dmaStop k) := dmaCmd_ok h (hookDma_stop s k)
      show NoEvent (s.putAt m .DMA_CMD 2 0 k) s
      rw [he]
      exact noEvent_ok (if_neg (ne_true_of_eq_false hb))
    · have he : s.putAt m .DMA_STAT 4 0 k = ok (dmaCleared s k) := dmaStat_ok h (hookDma_clear s k)
      have hw : Within [.DMA_STAT] s (dmaCleared s k) := .put (.put (.refl s))
      obtain ⟨hh, hc, hb, hd, hcl⟩ := dmaCleared_status s k
      show Accepts (s.putAt m .DMA_STAT 4 0 k) _
      rw [he]
      exact accepts_ok ⟨hh, hc, hb, hd, hcl, hw.regs, rfl⟩
    · exact congrArg ok (when_true (by simp [ht]))
    · exact noEvent_ok ((when_true (by simp [ht])).trans (congrArg Prod.fst (dmaStart_busy hi)))
    · exact noEvent_ok (when_false (by simp [ht]))
    · exact congrArg (fun r : State × Bool => ok r.1) (slotDma_owned h)
    · exact noEvent_ok (congrArg Prod.fst ((slotDma_owned h).trans (dmaStart_busy hi)))
  · intro d q n src dst
    refine ⟨fun h => noEvent_ok (dmaBurst_away h), fun hb hw hl => ⟨?moves, ?refused, ?noRoute, ?remote⟩⟩
    case moves =>
      intro hs hd hl4 hs4 hd4 hs0 hs1 hd0 hd1 hok
      obtain ⟨w, hn⟩ := min_whole hl4
      have hok := words_of_bytes hn hok
      have hburst := dmaBurst_local (w := w) hb hw hl hs hd hn hs4 hd4 (show src < 2 ^ 32 by omega) (show dst < 2 ^ 32 by omega)
        (fun j hj => by
          obtain ⟨hr, -, hp, -, hf, hc, hv⟩ := hok j hj
          exact ⟨⟨isSram_of_range hs0 hs1 rfl (by omega), (Nat.add_mul_mod_self_left src 4 j).trans hs4, hp, fun w hw => (hc w hw).1, hf, hv⟩, hr⟩)
        (fun j hj => by
          obtain ⟨-, hr, -, hp, -, hc, -⟩ := hok j hj
          exact ⟨isSram_of_range hd0 hd1 rfl (by omega), hp, fun w hw => (hc w hw).2, hr⟩)
      have hstep := hburst.step
      rw [← hn] at hburst hstep
      exact accepts_ok ⟨hburst.byte, hstep.dma, hstep.len, fun h => hstep.last (min_last h), hstep.stops,
        fun h h22 hstop => hstep.more (min_more h).1 (min_more h).2 h22 hstop hb⟩
    case refused =>
      intro hs h4 hn hm hr
      obtain ⟨u, hlog, hu⟩ := dmaBurst_refused hb hw hl hs h4 hn hm hr
      show Accepts (ok (s.dmaBurst k)) _
      rw [hu]
      exact accepts_ok (halts_of_logsOnly hlog k (by decide) _)
    case noRoute =>
      intro hs hln
      show Accepts (ok (s.dmaBurst k)) _
      rw [dmaBurst_moves hb hw hl, if_neg (ne_true_of_eq_false hs), hln]
      exact accepts_ok (halts_of_logsOnly (.refl s) k (by decide) _)
    case remote =>
      exact fun ln hs hln => accepts_ok (dmaBurst_remote hb hw hl hs hln)

end Sys2Proof.Proofs
end

section
/-! SLOT_ARM and SLOT_DISARM (R54 to R56): writes of a slot's control register by its owner. -/

namespace Sys2Proof.Proofs
open Sys2Proof Sys2Proof.Machine Sys2Proof.Laws

/-! ### The control word -/

theorem slotWord_arm (arm skip : Bool) (k : Fin 4) : (slotWord arm skip k).getLsbD 0 = arm := by revert arm skip k; decide

theorem slotWord_kind (arm skip : Bool) (k : Fin 4) : F.TIME_ACT_CTL.kind.get (slotWord arm skip k) = k := by revert arm skip k; decide

theorem slotWord_skip (arm skip : Bool) (k : Fin 4) : F.TIME_ACT_CTL.skip_late.get (slotWord arm skip k) = skip.toNat := by
  revert arm skip k; decide

theorem slotWord_write (arm skip : Bool) (k : Fin 4) : RegName.TIME_ACT_CTL.row.write 0 (slotWord arm skip k) = slotWord arm skip k := by
  revert arm skip k; decide

/-- A slot whose control register has been written whole. -/
def slotWritten (s : State) (n : Nat) (arm skip : Bool) (k : Fin 4) : State := s.wr .TIME_ACT_CTL (slotWord arm skip k) 0 n

theorem rd_slotWritten (s : State) (n : Nat) (arm skip : Bool) (k : Fin 4) : (slotWritten s n arm skip k).rd .TIME_ACT_CTL 0 n = slotWord arm skip k :=
  rd_wr_self _ _ _ _ _ _

theorem slotWritten_slot (s : State) (n : Nat) (arm skip : Bool) (k : Fin 4) :
    (slotWritten s n arm skip k).slotArmed n = arm ∧ (slotWritten s n arm skip k).bit F.TIME_ACT_CTL.skip_late 0 n = skip ∧
      (slotWritten s n arm skip k).f F.TIME_ACT_CTL.kind 0 n = k := by
  have h := rd_slotWritten s n arm skip k
  refine ⟨?_, ?_, ?_⟩
  · show (F.TIME_ACT_CTL.arm.get ((slotWritten s n arm skip k).rd .TIME_ACT_CTL 0 n) != 0) = arm
    rw [h]
    clear h
    revert arm skip k; decide
  · show (F.TIME_ACT_CTL.skip_late.get ((slotWritten s n arm skip k).rd .TIME_ACT_CTL 0 n) != 0) = skip
    rw [h]
    clear h
    revert arm skip k; decide
  · exact (congrArg F.TIME_ACT_CTL.kind.get h).trans (slotWord_kind arm skip k)

theorem slotsMoved_slotWritten (s : State) (n : Nat) (arm skip : Bool) (k : Fin 4) : SlotsMoved s (slotWritten s n arm skip k) :=
  ⟨.wr (.refl s), rfl, rfl⟩

theorem slotTgt_moved {s t : State} (h : SlotsMoved s t) (n : Nat) : t.slotTgt n = s.slotTgt n := pairAt_within h.within _ _ _ _ _

/-! ### The write by the slot's state -/

section
variable {s : State} {n : Nat} {arm skip : Bool} {k : Fin 4}

theorem slotCtl_other (ha : s.slotArmed n = true) (hk : s.f F.TIME_ACT_CTL.kind 0 n ≠ k) :
    s.slotCtl n (slotWord arm skip k) = (s.setIf (s.slotReached n) F.TIME_ACT_STAT.race 0 n, false) := by
  unfold State.slotCtl
  simp only [slotWord_kind]
  rw [if_pos ha, if_pos (Ne.symm hk)]

/-- A slot with its skip_late field replaced. -/
def slotSkipped (s : State) (n : Nat) (skip : Bool) : State := s.put F.TIME_ACT_CTL.skip_late skip.toNat 0 n

theorem slotCtl_armed (ha : s.slotArmed n = true) (hk : s.f F.TIME_ACT_CTL.kind 0 n = k) :
    s.slotCtl n (slotWord arm skip k) =
      if arm then (slotSkipped s n skip, true)
      else if s.slotReached n then
        (((slotSkipped s n skip).setb F.TIME_ACT_STAT.race 0 n).updClk fun c => { c with due := c.due ++ [n] }, true)
      else ((slotSkipped s n skip).clrb F.TIME_ACT_CTL.arm 0 n, true) := by
  have hr : (slotSkipped s n skip).slotReached n = s.slotReached n := by
    unfold State.slotReached State.slotTgt slotSkipped
    rw [pairAt_put _ (by decide) (by decide)]
    rfl
  unfold State.slotCtl
  simp only [slotWord_kind, slotWord_arm, slotWord_skip]
  rw [if_pos ha, if_neg (not_not_intro hk.symm), ← hr]
  rfl

theorem slotCtl_just (ha : s.slotArmed n = false) (hj : s.slotJust n = true) :
    s.slotCtl n (slotWord arm skip k) =
      if s.f F.TIME_ACT_CTL.kind 0 n ≠ k then (s.setb F.TIME_ACT_STAT.race 0 n, false)
      else (slotSkipped (s.setb F.TIME_ACT_STAT.race 0 n) n skip, true) := by
  unfold State.slotCtl
  simp only [slotWord_kind, slotWord_skip, ne_comm (a := (k : Nat))]
  rw [if_neg (ne_true_of_eq_false ha), if_pos hj]
  rfl

theorem slotCtl_free (ha : s.slotArmed n = false) (hj : s.slotJust n = false) :
    s.slotCtl n (slotWord arm skip k) =
      if arm && k.val == 3 then (s, false)
      else if arm && Tag.before (s.slotTgt n) s.now then ((slotWritten s n arm skip k).slotLate n, true)
      else (slotWritten s n arm skip k, true) := by
  unfold State.slotCtl
  simp only [slotWord_kind, slotWord_arm, slotWord_write]
  rw [if_neg (ne_true_of_eq_false ha), if_neg (ne_true_of_eq_false hj)]
  rw [← slotTgt_moved (slotsMoved_slotWritten s n arm skip k) n]
  rfl

/-! ### The owner's write -/

variable {m : Master} {n : SlotIx} (h : (s.req m).admits (s.owner (.slot n)) = true)
include h

theorem slotCmd_ok {v : Word} {t : State} (ht : s.slotCtl n v = (t, true)) : s.putAt m .TIME_ACT_CTL v 0 n = ok t := by
  refine putAt_ok rfl n.isLt (by decide) (admits_mapped h) (if_pos h) fun _ => ?_
  show ((s.slotCtl n v).1, if (s.slotCtl n v).2 then Wr.ok else Wr.err) = _
  rw [ht]
  rfl

theorem slotCmd_err {v : Word} {t : State} (ht : s.slotCtl n v = (t, false)) : s.putAt m .TIME_ACT_CTL v 0 n = errResp t := by
  refine putAt_err rfl n.isLt (by decide) (admits_mapped h) (if_pos h) fun _ => ?_
  show ((s.slotCtl n v).1, if (s.slotCtl n v).2 then Wr.ok else Wr.err) = _
  rw [ht]
  rfl

end

/-! ### What a slot's control register shows after the write -/

theorem slotSkipped_slot (s : State) (n : Nat) (skip : Bool) :
    (slotSkipped s n skip).slotArmed n = s.slotArmed n ∧ (slotSkipped s n skip).bit F.TIME_ACT_CTL.skip_late 0 n = skip ∧
      (slotSkipped s n skip).f F.TIME_ACT_CTL.kind 0 n = s.f F.TIME_ACT_CTL.kind 0 n ∧
      (slotSkipped s n skip).bit F.TIME_ACT_STAT.race 0 n = s.bit F.TIME_ACT_STAT.race 0 n := by
  refine ⟨bit_put_apart _ (by decide) _ _ _ _ _ _ _, ?_, f_put_apart _ (by decide) _ _ _ _ _ _ _, bit_put_apart _ (by decide) _ _ _ _ _ _ _⟩
  have h : (slotSkipped s n skip).f F.TIME_ACT_CTL.skip_late 0 n = _ := f_put_self _ _ _ _ _ _ (by decide)
  rw [State.bit, h]
  cases skip <;> rfl

theorem slotsMoved_slotSkipped (s : State) (n : Nat) (skip : Bool) : SlotsMoved s (slotSkipped s n skip) := ⟨.put (.refl s), rfl, rfl⟩

theorem slotsMoved_race (s : State) (n : Nat) : SlotsMoved s (s.setb F.TIME_ACT_STAT.race 0 n) := ⟨.put (.refl s), rfl, rfl⟩

theorem slotsMoved_raceIf (s : State) (c : Bool) (n : Nat) : SlotsMoved s (s.setIf c F.TIME_ACT_STAT.race 0 n) :=
  .ite (slotsMoved_race s n) (.refl s)

/-- Between a state and the one that answers a command, only slots have changed. -/
def SlotPlain (s t : State) : Prop :=
  KeepsRegs s t slotRegs ∧ t = { s with regs := t.regs, clk := t.clk, resp := t.resp } ∧ t.clk.tag = s.clk.tag

theorem SlotsMoved.plain {s u : State} (h : SlotsMoved s u) (r : Resp) : SlotPlain s { u with resp := r } :=
  ⟨h.within.regs, by rw [h.rest], by rw [h.clk]⟩

/-- An armed slot that is disarmed in its fire tick still fires (R56). -/
def slotRaced (s : State) (n : Nat) (skip : Bool) : State :=
  ((slotSkipped s n skip).setb F.TIME_ACT_STAT.race 0 n).updClk fun c => { c with due := c.due ++ [n] }

theorem slotRaced_slot (s : State) (n : Nat) (skip : Bool) :
    (slotRaced s n skip).slotArmed n = s.slotArmed n ∧ (slotRaced s n skip).bit F.TIME_ACT_STAT.race 0 n = true ∧
      n ∈ (slotRaced s n skip).clk.due ∧ SlotsMoved s (slotRaced s n skip) := by
  refine ⟨?_, bit_setb_self _ _ _ _ _ (by decide), List.mem_append_right _ List.mem_cons_self, ?_⟩
  · exact (bit_setb_apart _ (by decide) _ _ _ _ _ _).trans (slotSkipped_slot s n skip).1
  · exact ((slotsMoved_slotSkipped s n skip).trans (slotsMoved_race _ n)).trans ⟨.updClk (.refl _), rfl, rfl⟩

end Sys2Proof.Proofs
end

section
/-! SLOT_ARM and SLOT_DISARM (R54 to R56) by the state of the slot. -/

namespace Sys2Proof.Proofs
open Sys2Proof Sys2Proof.Machine Sys2Proof.Laws

theorem slotsMoved_disarmed (s : State) (n : Nat) (skip : Bool) : SlotsMoved s ((slotSkipped s n skip).clrb F.TIME_ACT_CTL.arm 0 n) :=
  (slotsMoved_slotSkipped s n skip).trans ⟨.put (.refl _), rfl, rfl⟩

section
variable {s : State} {m : Master} {n : SlotIx} (skip : Bool) (k : Fin 4) (h : (s.req m).admits (s.owner (.slot n)) = true)
include h

/-- An unarmed slot whose target has not passed is armed (R54). -/
theorem slotArm_ahead (ha : s.slotArmed n = false) (hj : s.slotJust n = false) (hk : k ≠ 3) (hb : Tag.before (s.slotTgt n) s.now = false) :
    exec (.slotArm m n skip k) s = ok (slotWritten s n true skip k) := by
  refine slotCmd_ok h ?_
  rw [slotCtl_free ha hj, if_neg (by simpa using Fin.val_ne_of_ne hk), if_neg (by simp [hb])]

/-- An unarmed slot whose target has passed is armed late (R54). -/
theorem slotArm_late (ha : s.slotArmed n = false) (hj : s.slotJust n = false) (hk : k ≠ 3) (hb : Tag.before (s.slotTgt n) s.now = true) :
    exec (.slotArm m n skip k) s = ok ((slotWritten s n true skip k).slotLate n) := by
  refine slotCmd_ok h ?_
  rw [slotCtl_free ha hj, if_neg (by simpa using Fin.val_ne_of_ne hk), if_pos (by simp [hb])]

theorem slotArm_reserved (ha : s.slotArmed n = false) (hj : s.slotJust n = false) (hk : k = 3) : exec (.slotArm m n skip k) s = errResp s := by
  refine slotCmd_err h ?_
  rw [slotCtl_free ha hj, if_pos (by simp [hk])]

theorem slotArm_again (ha : s.slotArmed n = true) (hk : s.f F.TIME_ACT_CTL.kind 0 n = k) :
    exec (.slotArm m n skip k) s = ok (slotSkipped s n skip) := by
  refine slotCmd_ok h ?_
  rw [slotCtl_armed ha hk, if_pos rfl]

theorem slotArm_other (ha : s.slotArmed n = true) (hk : s.f F.TIME_ACT_CTL.kind 0 n ≠ k) :
    exec (.slotArm m n skip k) s = errResp (s.setIf (s.slotReached n) F.TIME_ACT_STAT.race 0 n) :=
  slotCmd_err h (slotCtl_other ha hk)

theorem slotDisarm_ahead (ha : s.slotArmed n = true) (hk : s.f F.TIME_ACT_CTL.kind 0 n = k) (hr : s.slotReached n = false) :
    exec (.slotDisarm m n skip k) s = ok ((slotSkipped s n skip).clrb F.TIME_ACT_CTL.arm 0 n) := by
  refine slotCmd_ok h ?_
  rw [slotCtl_armed ha hk, if_neg Bool.false_ne_true, if_neg (ne_true_of_eq_false hr)]

/-- In its fire tick an armed slot fires in spite of the write (R56). -/
theorem slotDisarm_race (ha : s.slotArmed n = true) (hk : s.f F.TIME_ACT_CTL.kind 0 n = k) (hr : s.slotReached n = true) :
    exec (.slotDisarm m n skip k) s = ok (slotRaced s n skip) := by
  refine slotCmd_ok h ?_
  rw [slotCtl_armed ha hk, if_neg Bool.false_ne_true, if_pos hr]
  rfl

theorem slotDisarm_free (ha : s.slotArmed n = false) (hj : s.slotJust n = false) :
    exec (.slotDisarm m n skip k) s = ok (slotWritten s n false skip k) := by
  refine slotCmd_ok h ?_
  rw [slotCtl_free ha hj, if_neg (by simp), if_neg (by simp)]

/-- After the fire in the same tick a write sets race and arms nothing (R56). -/
theorem slotWrite_just (ha : s.slotArmed n = false) (hj : s.slotJust n = true) (arm : Bool) :
    ∃ t, s.putAt m .TIME_ACT_CTL (slotWord arm skip k) 0 n = .next t ∧ t.resp.err = decide (s.f F.TIME_ACT_CTL.kind 0 n ≠ k) ∧
      t.slotArmed n = false ∧ t.bit F.TIME_ACT_STAT.race 0 n = true ∧
      t.f F.TIME_ACT_CTL.kind 0 n = s.f F.TIME_ACT_CTL.kind 0 n ∧ SlotPlain s t := by
  have hm := slotsMoved_race s n
  have harm : (s.setb F.TIME_ACT_STAT.race 0 n).slotArmed n = false := (bit_setb_apart _ (by decide) _ _ _ _ _ _).trans ha
  have hkind : (s.setb F.TIME_ACT_STAT.race 0 n).f F.TIME_ACT_CTL.kind 0 n = s.f F.TIME_ACT_CTL.kind 0 n := f_setb_apart _ (by decide) _ _ _ _ _ _
  have hrace : (s.setb F.TIME_ACT_STAT.race 0 n).bit F.TIME_ACT_STAT.race 0 n = true := bit_setb_self _ _ _ _ _ (by decide)
  by_cases hk : s.f F.TIME_ACT_CTL.kind 0 n = k
  · have hc := slotCtl_just (n := n) (arm := arm) (skip := skip) (k := k) ha hj
    rw [if_neg (not_not_intro hk)] at hc
    obtain ⟨earm, -, ekind, erace⟩ := slotSkipped_slot (s.setb F.TIME_ACT_STAT.race 0 n) n skip
    exact ⟨_, slotCmd_ok h hc, by simp [hk], earm.trans harm, erace.trans hrace, ekind.trans hkind,
      (hm.trans (slotsMoved_slotSkipped _ n skip)).plain _⟩
  · have hc := slotCtl_just (n := n) (arm := arm) (skip := skip) (k := k) ha hj
    rw [if_pos hk] at hc
    exact ⟨_, slotCmd_err h hc, by simp [hk], harm, hrace, hkind, hm.plain _⟩

end

end Sys2Proof.Proofs
end

section
/-! The action of a fired slot (R53): an event, a word stored, or a DMA channel started. -/

namespace Sys2Proof.Proofs
open Sys2Proof Sys2Proof.Machine Sys2Proof.Laws

/-! ### A word stored by a master that does not cache -/

/-- Between two states caches have given up their copies: the directory, codewords, the logs and error responses (R312, R327). -/
structure Recalled (s t : State) : Prop where
  rest : t = { s with regs := t.regs, log := t.log, ram := t.ram, cores := t.cores }
  regs : KeepsRegs s t lossRegs
  valid : t.ram.valid = s.ram.valid

namespace Recalled

variable {s a t : State}

theorem refl (s : State) : Recalled s s := ⟨rfl, fun _ _ _ _ _ => rfl, rfl⟩

theorem trans (h : Recalled s a) (g : Recalled a t) : Recalled s t :=
  ⟨by rw [g.rest, h.rest], fun r p i j hr => (g.regs r p i j hr).trans (h.regs r p i j hr), g.valid.trans h.valid⟩

theorem of_logsOnly (h : LogsOnly s t) : Recalled s t := ⟨by rw [h.rest], h.regs, by rw [h.rest]⟩

theorem of_ram (h : t = { s with ram := t.ram }) (hv : t.ram.valid = s.ram.valid) : Recalled s t := by
  refine ⟨by rw [h], fun r p i j _ => ?_, hv⟩
  rw [h]
  rfl

theorem ite {c : Prop} {_ : Decidable c} (h : Recalled s a) (g : Recalled s t) : Recalled s (if c then a else t) := by split <;> assumption

theorem byte (h : Recalled s t) (a : Nat) : t.byte a = s.byte a := by
  have hm : t.mem = s.mem := by rw [h.rest]
  have hb : t.boot = s.boot := boot_eq (h.regs _ _ _ _ (by decide))
  unfold State.byte State.wvalid State.cell State.nvKey
  rw [hm, h.valid, hb]

end Recalled

theorem recalled_setCFlip (s : State) (line w : Nat) (v : Nat × Nat) : Recalled s (s.setCFlip line w v) := .of_ram rfl rfl
theorem recalled_setL1 (s : State) (line c : Nat) (x : Mesi) : Recalled s (s.setL1 line c x) := .of_ram rfl rfl
theorem recalled_setL2 (s : State) (line v : Nat) : Recalled s (s.setL2 line v) := .of_ram rfl rfl

theorem recalled_elogAdd (s : State) (a kind source mno : Nat) : Recalled s (s.elogAdd a kind source mno) :=
  .of_logsOnly (logsOnly_stageRec _ _ _)

theorem recalled_writeBack (s : State) (line c : Nat) : Recalled s (s.writeBack line c) := by
  unfold State.writeBack
  split
  · exact .refl s
  · exact (recalled_setCFlip _ _ _ _).trans (recalled_elogAdd _ _ _ _ _)
  · have h := (recalled_setCFlip s line c (0, 0)).trans (recalled_elogAdd _ (line * 64) 7 7 c)
    exact (h.trans (.of_ram rfl rfl)).trans ⟨rfl, fun _ _ _ _ _ => rfl, rfl⟩

theorem recalled_giveUp (s : State) (line c : Nat) (x : Mesi) : Recalled s (s.giveUp line c x) := by
  unfold State.giveUp
  split
  · exact .refl s
  · exact ((recalled_writeBack s line c).trans (recalled_setL1 _ _ _ _)).trans (recalled_setL2 _ _ _)
  · exact .ite ((recalled_setL1 _ _ _ _).trans (recalled_setCFlip _ _ _ _)) (recalled_setL1 _ _ _ _)

theorem recalled_recall (s : State) (line : Nat) : Recalled s (s.recall line) :=
  List.foldlRecOn _ _ (.refl s) fun _ hu _ _ => hu.trans (recalled_giveUp _ _ _ _)

theorem recalled_cohere_write {s : State} {q : Req} (hq : 8 ≤ q.mno) (a : Nat) : Recalled s (s.cohere q true a) := by
  unfold State.cohere
  rw [if_neg (Nat.not_lt.mpr hq)]
  exact .ite (recalled_recall s _) (.refl s)

theorem recalled_cacheMend (s : State) (by_ : Option Nat) (a : Nat) : Recalled s (s.cacheMend by_ a) := by
  unfold State.cacheMend
  split
  · exact .ite (recalled_setCFlip _ _ _ _) (.refl s)
  · exact .refl s

/-- Between two states a word has been stored in SRAM, whatever the caches held. -/
structure StoredWord (s t : State) (a : Nat) (v : Word) : Prop where
  word : t.word a = v
  byte : ∀ c, c / 4 ≠ a / 4 → t.byte c = s.byte c
  regs : KeepsRegs s t lossRegs
  clk : t.clk = s.clk

/-- A word that a master which does not cache stores (R301, R310, R327). -/
theorem memWrite_stores {s : State} {q : Req} {a : Nat} (hq : 8 ≤ q.mno) (ha : isSram a = true) (h4 : a % 4 = 0)
    (hr : s.regionOk q .write a 4 = true) (hp : s.pageClosedAt a = false) (v : Word) :
    ∃ t, s.memWrite q a 4 v = (t, .ok 0) ∧ StoredWord s t a v := by
  have hc := (recalled_cohere_write (s := s) hq a).trans (recalled_cacheMend _ ((s.cohere q true a).servedBy q a) a)
  refine ⟨_, memWrite_word ha hr hp v, ?_⟩
  generalize (s.cohere q true a).cacheMend ((s.cohere q true a).servedBy q a) a = u at hc
  have hw := stored_setWord u a v
  refine ⟨word_setWord u ha h4 v, fun c hne => ?_, fun r p i j hr => ?_, by rw [hw.rest, hc.rest]⟩
  · rw [byte_setWord u ha h4, if_neg (by omega), hc.byte]
  · rw [hw.rest]
    exact hc.regs r p i j hr

/-! ### Events in flight -/

/-- An event is placed behind those of earlier tags, and of the same tag and an earlier rank (R339). -/
theorem putEv_split (e : LEv) (l : List LEv) :
    ∃ xs ys, l = xs ++ ys ∧ putEv e l = xs ++ e :: ys ∧
      (∀ x ∈ xs, ¬ (Tag.before e.tag x.tag = true ∨ (e.tag = x.tag ∧ e.rank < x.rank))) ∧
      (∀ y, ys.head? = some y → Tag.before e.tag y.tag = true ∨ (e.tag = y.tag ∧ e.rank < y.rank)) := by
  have first (x : LEv) : (Tag.before e.tag x.tag || (e.tag == x.tag && decide (e.rank < x.rank))) = true ↔
      Tag.before e.tag x.tag = true ∨ (e.tag = x.tag ∧ e.rank < x.rank) := by simp
  induction l with
  | nil => exact ⟨[], [], rfl, rfl, nofun, nofun⟩
  | cons x l ih =>
    by_cases hx : Tag.before e.tag x.tag = true ∨ (e.tag = x.tag ∧ e.rank < x.rank)
    · refine ⟨[], x :: l, rfl, if_pos ((first x).mpr hx), nofun, fun y hy => ?_⟩
      obtain rfl := Option.some.inj hy
      exact hx
    · obtain ⟨xs, ys, hl, hp, hxs, hys⟩ := ih
      refine ⟨x :: xs, ys, by rw [hl]; rfl, ?_, fun y hy => ?_, hys⟩
      · rw [putEv, if_neg (mt (first x).mp hx), hp]
        rfl
      · rcases List.mem_cons.mp hy with rfl | hy
        · exact hx
        · exact hxs y hy

/-! ### The action -/

/-- A field of a channel is the pack's or the system's. -/
theorem lf_eq (s : State) (f : Fld) (g : Nat) :
    s.lf f g = if g < 256 then s.f f (g / 64) (g % 64) else s.f { f with r := f.r.sys } 0 (g - 256) := by
  unfold State.lf lshReg
  by_cases h : g < 256
  · rw [if_pos h, if_pos h]
  · rw [if_neg h, if_neg h]

theorem lf_within {rs : List RegName} {s t : State} (h : Within rs s t) (f : Fld) (g : Nat) (hf : f.r ∉ rs := by decide)
    (hs : f.r.sys ∉ rs := by decide) : t.lf f g = s.lf f g := by
  rw [lf_eq, lf_eq, h.f_eq f _ _ _ hf, h.f_eq { f with r := f.r.sys } _ _ _ hs]

theorem reqSlot_mno (s : State) (n : SlotIx) : (s.req (.slot n)).mno = 48 := rfl

theorem regionOk_slot {rs : List RegName} {s t : State} (h : Within rs s t) (q : Req) (hq : q.mno = 48) (acc : AccKind) (a n : Nat)
    (hb : RegName.MEM_RGN_BASE ∉ rs := by decide) (hl : RegName.MEM_RGN_LIMIT ∉ rs := by decide)
    (ha : RegName.MEM_RGN_ATTR ∉ rs := by decide) : t.regionOk q acc a n = s.regionOk q acc a n := by
  have attr (m e : Nat) : t.rd .MEM_RGN_ATTR 0 m e = s.rd .MEM_RGN_ATTR 0 m e := h.regs _ _ _ _ ha
  have base (m e : Nat) : t.f F.MEM_RGN_BASE.base 0 m e = s.f F.MEM_RGN_BASE.base 0 m e := h.f_eq _ _ _ _ hb
  have limit (m e : Nat) : t.f F.MEM_RGN_LIMIT.limit 0 m e = s.f F.MEM_RGN_LIMIT.limit 0 m e := h.f_eq _ _ _ _ hl
  unfold State.regionOk
  rw [if_pos hq, if_pos hq]
  unfold State.tenantRegion
  simp only [attr, base, limit]

section
variable {s : State} {n : SlotIx}

/-- A slot raises an event on a channel whose producer it is (R53). -/
theorem slotAct_raises (hk : s.f F.TIME_ACT_CTL.kind 0 n = 0) (ha : (s.rd .TIME_ACT_ADDR 0 n).toNat < 320)
    (hp : s.lf F.PLSH_PROD.pkind (s.rd .TIME_ACT_ADDR 0 n).toNat = 4) (hi : s.lf F.PLSH_PROD.pidx (s.rd .TIME_ACT_ADDR 0 n).toNat = n) :
    s.slotAct n = (s.raiseEv (s.rd .TIME_ACT_ADDR 0 n).toNat 0 s.now, true) := by
  unfold State.slotAct
  dsimp only
  rw [if_pos hk, if_neg (by omega), if_pos ⟨hp, hi⟩]

theorem slotAct_notProducer (hk : s.f F.TIME_ACT_CTL.kind 0 n = 0)
    (h : 320 ≤ (s.rd .TIME_ACT_ADDR 0 n).toNat ∨ s.lf F.PLSH_PROD.pkind (s.rd .TIME_ACT_ADDR 0 n).toNat ≠ 4 ∨
      s.lf F.PLSH_PROD.pidx (s.rd .TIME_ACT_ADDR 0 n).toNat ≠ n) : ∃ t, s.slotAct n = (t, false) ∧ LogsOnly s t := by
  unfold State.slotAct
  dsimp only
  rw [if_pos hk]
  split
  · exact ⟨_, rfl, logsOnly_violation _ _ _ _ _ _ _ _⟩
  · split
    · omega
    · exact ⟨_, rfl, logsOnly_violation _ _ _ _ _ _ _ _⟩

/-- A slot stores its word where its tenant's regions allow it (R53). -/
theorem slotAct_stores (hk : s.f F.TIME_ACT_CTL.kind 0 n = 1) {a : Nat}
    (haddr : (s.rd .TIME_ACT_ADDR 0 n).toNat - (s.rd .TIME_ACT_ADDR 0 n).toNat % 4 = a) (ha : isSram a = true)
    (hr : s.regionOk (s.req (.slot n)) .write a 4 = true) (hp : s.pageClosedAt a = false) :
    ∃ t, s.slotAct n = (t, true) ∧ StoredWord s t a (s.rd .TIME_ACT_DATA 0 n) := by
  have h4 : a % 4 = 0 := by omega
  obtain ⟨t, ht, hw⟩ := memWrite_stores (by rw [reqSlot_mno]; decide) ha h4 hr hp (s.rd .TIME_ACT_DATA 0 n)
  refine ⟨t, ?_, hw⟩
  unfold State.slotAct
  simp only [slot_ofNat]
  rw [if_neg (by omega), if_pos hk, haddr, busWrite_sram ha, ht]

theorem slotAct_dma (hk : s.f F.TIME_ACT_CTL.kind 0 n = 2) : s.slotAct n = s.slotDma n (s.rd .TIME_ACT_ADDR 0 n).toNat := by
  unfold State.slotAct
  dsimp only
  rw [if_neg (by omega), if_neg (by omega)]

theorem slotDma_notOwned {k : DmaIx} (h : (s.req (.slot n)).admits (s.owner (.dma k)) = false) :
    ∃ t, s.slotDma n k = (t, false) ∧ LogsOnly s t := by
  refine ⟨_, ?_, logsOnly_violation s (s.req (.slot n)) k 8 .event (some (s.owner (.dma k))) n (checkDomain k)⟩
  unfold State.slotDma
  simp only [slot_ofNat]
  rw [if_neg (Nat.not_le.mpr k.isLt), if_pos (by simp [h])]

end

end Sys2Proof.Proofs
end

section
/-! SLOT_FIRE and SLOT_REFUSAL (R52 to R58). -/

namespace Sys2Proof.Proofs
open Sys2Proof Sys2Proof.Machine Sys2Proof.Laws

/-! ### The slot in its fire tick -/

/-- A slot that has fired, before its action. -/
def slotFiring (s : State) (n : Nat) : State :=
  (((s.clrb F.TIME_ACT_CTL.arm 0 n).setb F.TIME_ACT_STAT.fired 0 n).setPair .TIME_ACT_FIRE_LO .TIME_ACT_FIRE_HI s.now 0 n).updClk
    fun k => { k with due := k.due.filter (· != n), fired := k.fired.set 0 n (k.raw + 1) }

/-- The slot fires in this tick: the timebase runs, and its target has come or it is late (R52, R54, R58). -/
def slotFires (s : State) (n : Nat) : Bool := !s.clk.stopped && ((s.slotArmed n && s.slotReached n) || s.clk.due.contains n)

/-- The refusal of an action on its way back (R53). -/
def slotNoted (s : State) (n : Nat) : State := s.updClk fun k => { k with slotRefs := k.slotRefs ++ [n] }

theorem slotGo_eq (s : State) (n : Nat) : s.slotGo n =
    if slotFires s n then
      if ((slotFiring s n).slotAct n).2 then ((slotFiring s n).slotAct n).1 else slotNoted ((slotFiring s n).slotAct n).1 n
    else s := by
  have h : (s.clk.stopped || !((s.slotArmed n && s.slotReached n) || s.clk.due.contains n)) = !slotFires s n := by
    rw [slotFires, Bool.not_and, Bool.not_not]
  unfold State.slotGo
  rw [h]
  cases slotFires s n <;> rfl

theorem slotGo_still {s : State} {n : Nat} (h : slotFires s n = false) : s.slotGo n = s := by
  rw [slotGo_eq, if_neg (ne_true_of_eq_false h)]

theorem slotGo_acts {s t : State} {n : Nat} (h : slotFires s n = true) (ht : (slotFiring s n).slotAct n = (t, true)) : s.slotGo n = t := by
  rw [slotGo_eq, if_pos h, ht, if_pos rfl]

theorem slotGo_refused {s t : State} {n : Nat} (h : slotFires s n = true) (ht : (slotFiring s n).slotAct n = (t, false)) :
    s.slotGo n = slotNoted t n := by
  rw [slotGo_eq, if_pos h, ht, if_neg Bool.false_ne_true]

theorem within_slotFiring (s : State) (n : Nat) : Within slotRegs s (slotFiring s n) := .updClk (.setPair (.put (.put (.refl s))))

theorem slotFiring_kind (s : State) (n : Nat) : (slotFiring s n).f F.TIME_ACT_CTL.kind 0 n = s.f F.TIME_ACT_CTL.kind 0 n := by
  show ((((s.clrb F.TIME_ACT_CTL.arm 0 n).setb F.TIME_ACT_STAT.fired 0 n).setPair .TIME_ACT_FIRE_LO .TIME_ACT_FIRE_HI s.now 0 n)).f
    F.TIME_ACT_CTL.kind 0 n = _
  rw [f_setPair_name _ (by decide) (by decide), f_setb_apart _ (by decide), f_clrb_apart _ (by decide)]

/-- What a state shows of a slot that has fired at the tag of `u` (R52). -/
structure SlotFired (u t : State) (n : Nat) : Prop where
  arm : t.slotArmed n = false
  fired : t.bit F.TIME_ACT_STAT.fired 0 n = true
  tag : t.pairAt .TIME_ACT_FIRE_LO .TIME_ACT_FIRE_HI 0 n = u.now
  due : n ∉ t.clk.due
  now : t.clk.tag = u.clk.tag
  just : t.slotJust n = true

theorem slotFired_slotFiring (s : State) (n : Nat) : SlotFired s (slotFiring s n) n := by
  refine ⟨?_, ?_, pairAt_setPair _ (by decide) _ _ _ _, ?_, rfl, ?_⟩
  · refine (bit_setPair_name _ (by decide) (by decide) _ _ _ _ _ _ _).trans ?_
    rw [bit_setb_apart _ (by decide), bit_clrb_self _ _ _ _ _ (by decide)]
  · exact (bit_setPair_name _ (by decide) (by decide) _ _ _ _ _ _ _).trans (bit_setb_self _ _ _ _ _ (by decide))
  · show n ∉ s.clk.due.filter (· != n)
    simp
  · show (SMap.get 0 (s.clk.fired.set 0 n (s.clk.raw + 1)) n == s.clk.raw + 1) = true
    rw [SMap_get_set, if_pos rfl, beq_self_eq_true]

/-- The action changes neither the slot's registers nor the clock, beside noting a refusal. -/
theorem SlotFired.kept {u a t : State} {n : Nat} {rs : List RegName} (h : SlotFired u a n) (hr : KeepsRegs a t rs)
    (hs : ∀ r ∈ slotRegs, r ∉ rs) (hc : t.clk = { a.clk with slotRefs := t.clk.slotRefs }) : SlotFired u t n := by
  have rd (r : RegName) (hm : r ∈ slotRegs) : t.rd r 0 n = a.rd r 0 n := hr r 0 n 0 (hs r hm)
  refine ⟨?_, ?_, ?_, by rw [hc]; exact h.due, by rw [hc]; exact h.now, ?_⟩
  · exact (congrArg (F.TIME_ACT_CTL.arm.get · != 0) (rd .TIME_ACT_CTL (by decide))).trans h.arm
  · exact (congrArg (F.TIME_ACT_STAT.fired.get · != 0) (rd .TIME_ACT_STAT (by decide))).trans h.fired
  · exact (congrArg₂ Tag.ofWords (rd .TIME_ACT_FIRE_HI (by decide)) (rd .TIME_ACT_FIRE_LO (by decide))).trans h.tag
  · rw [State.slotJust, hc]
    exact h.just

/-! ### The instant of the fire -/

theorem due_ticks (s : State) (n : Nat) : (s.ticks n).clk.due = s.clk.due := by
  unfold State.ticks
  split <;> rfl

theorem due_run (s : State) (n : Nat) : (s.run n).clk.due = s.clk.due := by
  unfold State.run
  split
  · rfl
  · split
    · exact due_ticks s n
    · rw [due_ticks, clk_settle, due_ticks]

theorem slotTgt_run (s : State) (n k : Nat) : (s.run n).slotTgt k = s.slotTgt k :=
  congrArg₂ Tag.ofWords (rd_run s n _ _ _ _ (by decide)) (rd_run s n _ _ _ _ (by decide))

/-- An armed slot that is not late waits for its target. -/
def slotWaits (s : State) (n : Nat) : Bool := s.slotArmed n && !s.clk.due.contains n

/-- The state at the instant of the fire: the clock runs on to the target (log 1). -/
def slotInstant (s : State) (n : Nat) : State := if slotWaits s n then s.run (s.ticksTo (s.slotTgt n)) else s

/-- Where the clock does not reach the target, the slot does not fire. -/
theorem slotFires_early {s : State} {n : Nat} (h : (slotWaits s n && Tag.after (s.slotTgt n) (slotInstant s n).now) = true) :
    slotFires (slotInstant s n) n = false := by
  obtain ⟨hw, ht⟩ := (Bool.and_eq_true _ _).mp h
  have hd : s.clk.due.contains n = false := by simpa using ((Bool.and_eq_true _ _).mp hw).2
  have hu : slotInstant s n = s.run (s.ticksTo (s.slotTgt n)) := if_pos hw
  have hr : (slotInstant s n).slotReached n = false := by
    rw [State.slotReached, hu, slotTgt_run, ← hu, ht]
    rfl
  have hdu : (slotInstant s n).clk.due.contains n = false := by rw [hu, due_run, hd]
  rw [slotFires, hr, hdu, Bool.and_false, Bool.or_self, Bool.and_false]

theorem slotFire_eq (s : State) (n : Nat) : s.slotFire n =
    if slotWaits s n && Tag.after (s.slotTgt n) (slotInstant s n).now then s else (slotInstant s n).slotGo n := by
  unfold State.slotFire State.atTag slotInstant
  show (if slotWaits s n then _ else _) = _
  cases slotWaits s n <;> rfl

theorem slotFire_fires {s : State} {n : Nat} (h : slotFires (slotInstant s n) n = true) : s.slotFire n = (slotInstant s n).slotGo n := by
  rw [slotFire_eq, if_neg fun he => Bool.false_ne_true ((slotFires_early he).symm.trans h)]

/-- A slot that does not fire leaves the state at its instant, or the state before where the clock stops short of it (log 1). -/
theorem slotFire_still {s : State} {n : Nat} (h : slotFires (slotInstant s n) n = false) :
    s.slotFire n = if slotWaits s n && Tag.after (s.slotTgt n) (slotInstant s n).now then s else slotInstant s n := by
  rw [slotFire_eq, slotGo_still h]

theorem mem_slotInstant (s : State) (n : Nat) : (slotInstant s n).mem = s.mem := by
  unfold slotInstant
  split
  · exact mem_run _ _
  · rfl

/-! ### The fire by the kind of its action -/

section
variable {u : State} {n : SlotIx}

/-- A fire whose action is performed. -/
theorem slotGo_done {rs : List RegName} {t : State} (hf : slotFires u n = true) (ht : (slotFiring u n).slotAct n = (t, true))
    (hr : KeepsRegs (slotFiring u n) t rs) (hs : ∀ r ∈ slotRegs, r ∉ rs) (hc : t.clk = (slotFiring u n).clk) :
    u.slotGo n = t ∧ SlotFired u t n ∧ t.clk.slotRefs = u.clk.slotRefs :=
  ⟨slotGo_acts hf ht, (slotFired_slotFiring u n).kept hr hs (by rw [hc]), by rw [hc]; rfl⟩

/-- A fire whose action is refused: the refusal is noted, and beside the slot and the logs nothing changes. -/
theorem slotGo_notDone {t : State} (hf : slotFires u n = true) (ht : (slotFiring u n).slotAct n = (t, false))
    (h : LogsOnly (slotFiring u n) t) :
    SlotFired u (u.slotGo n) n ∧ (u.slotGo n).clk.slotRefs = u.clk.slotRefs ++ [n.val] ∧ (u.slotGo n).lsh = u.lsh ∧
      (u.slotGo n).dma = u.dma ∧ (u.slotGo n).mem = u.mem := by
  rw [slotGo_refused hf ht]
  have hc : t.clk = (slotFiring u n).clk := by rw [h.rest]
  have hk : (slotNoted t n).clk = { t.clk with slotRefs := t.clk.slotRefs ++ [n.val] } := rfl
  refine ⟨(slotFired_slotFiring u n).kept (rs := lossRegs) h.regs (by decide) ?_, ?_, ?_, ?_, ?_⟩
  · rw [hk, hc]
  · rw [hk, hc]
    rfl
  · show t.lsh = u.lsh
    rw [h.rest]
    rfl
  · show t.dma = u.dma
    rw [h.rest]
    rfl
  · show t.mem = u.mem
    rw [h.rest]
    rfl

theorem slotFiring_rd {r : RegName} (h : r ∉ slotRegs) (p i j : Nat) : (slotFiring u n).rd r p i j = u.rd r p i j :=
  (within_slotFiring u n).regs r p i j h

/-- A slot of kind 0 raises its event (R53, R339). -/
theorem slotGo_raises (hf : slotFires u n = true) (hk : u.f F.TIME_ACT_CTL.kind 0 n = 0) {a : Nat} (haddr : (u.rd .TIME_ACT_ADDR 0 n).toNat = a)
    (ha : a < 320) (hp : u.lf F.PLSH_PROD.pkind a = 4) (hi : u.lf F.PLSH_PROD.pidx a = n) (he : u.lf F.PLSH_ATTR.en a ≠ 0) :
    ∃ t, u.slotGo n = t ∧ SlotFired u t n ∧ t.clk.slotRefs = u.clk.slotRefs ∧ t.mem = u.mem ∧
      t.lsh.flight.get [] a = putEv ⟨0, u.now, 0⟩ (u.lsh.flight.get [] a) := by
  have hw := within_slotFiring u n
  have haddr' : ((slotFiring u n).rd .TIME_ACT_ADDR 0 n).toNat = a := by rw [slotFiring_rd (r := .TIME_ACT_ADDR) (by decide), haddr]
  have hact := slotAct_raises (s := slotFiring u n) (n := n) ((slotFiring_kind u n).trans hk) (by rw [haddr']; exact ha)
    (by rw [haddr', lf_within hw F.PLSH_PROD.pkind]; exact hp) (by rw [haddr', lf_within hw F.PLSH_PROD.pidx]; exact hi)
  have hen : ((slotFiring u n).lf F.PLSH_ATTR.en a != 0) = true := by rw [lf_within hw F.PLSH_ATTR.en]; simpa using he
  rw [haddr'] at hact
  have hpr := produced_raiseEv (slotFiring u n) a 0 (slotFiring u n).now 0
  obtain ⟨hgo, hfired, hrefs⟩ := slotGo_done hf hact hpr.regs (by decide) (by rw [hpr.rest])
  refine ⟨_, hgo, hfired, hrefs, by rw [hpr.rest]; rfl, ?_⟩
  unfold State.raiseEv
  rw [if_pos hen]
  exact (SMap_get_set _ _ _ _ _).trans (if_pos rfl)

/-- A slot of kind 1 stores its word (R53). -/
theorem slotGo_stores (hf : slotFires u n = true) (hk : u.f F.TIME_ACT_CTL.kind 0 n = 1) {a : Nat}
    (haddr : (u.rd .TIME_ACT_ADDR 0 n).toNat - (u.rd .TIME_ACT_ADDR 0 n).toNat % 4 = a) (ha : isSram a = true)
    (hr : u.regionOk (u.req (.slot n)) .write a 4 = true) (hp : u.pageClosedAt a = false) :
    ∃ t, u.slotGo n = t ∧ SlotFired u t n ∧ t.clk.slotRefs = u.clk.slotRefs ∧ t.word a = u.rd .TIME_ACT_DATA 0 n ∧
      ∀ c, c / 4 ≠ a / 4 → t.byte c = u.byte c := by
  have hw := within_slotFiring u n
  have hreq : (slotFiring u n).req (.slot n) = u.req (.slot n) := rfl
  obtain ⟨t, ht, hst⟩ := slotAct_stores (s := slotFiring u n) (n := n) ((slotFiring_kind u n).trans hk)
    (a := a) (by rw [slotFiring_rd (r := .TIME_ACT_ADDR) (by decide), haddr]) ha (by rw [hreq, regionOk_slot hw _ rfl]; exact hr) hp
  obtain ⟨hgo, hfired, hrefs⟩ := slotGo_done hf ht hst.regs (by decide) hst.clk
  refine ⟨t, hgo, hfired, hrefs, hst.word.trans (slotFiring_rd (r := .TIME_ACT_DATA) (by decide) _ _ _), fun c hc => (hst.byte c hc).trans ?_⟩
  exact byte_congr (s := u) (t := slotFiring u n) rfl rfl (boot_eq (slotFiring_rd (r := .IMG_BANK) (by decide) _ _ _)) c

/-- A slot of kind 2 starts a channel that its tenant owns (R53). -/
theorem slotGo_starts (hf : slotFires u n = true) (hk : u.f F.TIME_ACT_CTL.kind 0 n = 2) {k : DmaIx}
    (haddr : (u.rd .TIME_ACT_ADDR 0 n).toNat = k) (ho : (u.req (.slot n)).admits (u.owner (.dma k)) = true)
    (hb : u.bit F.DMA_STAT.busy 0 k = false) (hh : u.bit F.DMA_STAT.halted 0 k = false) (hc : dmaCut u k ≠ 0) :
    ∃ t, u.slotGo n = t ∧ SlotFired u t n ∧ t.clk.slotRefs = u.clk.slotRefs ∧ t.bit F.DMA_STAT.busy 0 k = true := by
  have hw := within_slotFiring u n
  have hcut : dmaCut (slotFiring u n) k = dmaCut u k := by
    unfold dmaCut dmaSrc dmaDst
    rw [hw.f_eq F.DMA_LEN.len, pairAt_within hw .DMA_SRC_LO .DMA_SRC_HI, pairAt_within hw .DMA_DST_LO .DMA_DST_HI, roomAt_within hw, roomAt_within hw]
  have hst := dmaStarted_dmaEnd (slotFiring u n) k
  have hidle : (slotFiring u n).bit F.DMA_STAT.busy 0 k = false ∧ (slotFiring u n).bit F.DMA_STAT.halted 0 k = false :=
    ⟨(hw.bit_eq _ _ _ _).trans hb, (hw.bit_eq _ _ _ _).trans hh⟩
  have hact : (slotFiring u n).slotAct n = (((dmaLoaded (slotFiring u n) k).dmaEnd k), true) := by
    rw [slotAct_dma ((slotFiring_kind u n).trans hk), slotFiring_rd (r := .TIME_ACT_ADDR) (by decide), haddr,
      slotDma_owned (s := slotFiring u n) ho, dmaStart_idle hidle]
  obtain ⟨hgo, hfired, hrefs⟩ := slotGo_done hf hact hst.moved.regs (by decide) hst.moved.clk
  exact ⟨_, hgo, hfired, hrefs, (hst.runs (by rw [hcut]; exact hc)).1⟩

end

end Sys2Proof.Proofs
end

section
/-! The commands of slots (R52 to R58). -/

namespace Sys2Proof.Proofs
open Sys2Proof Sys2Proof.Machine Sys2Proof.Laws

/-- A refusal that has come back is shown in the slot's status (R53). -/
theorem slotRefusal_back {s : State} {n : SlotIx} (h : n.val ∈ s.clk.slotRefs) :
    s.slotRefusal n = (s.setb F.TIME_ACT_STAT.refused 0 n).updClk fun k => { k with slotRefs := dropFirst (· == n.val) k.slotRefs } :=
  if_pos (by simpa using h)

theorem slotRefusal_none {s : State} {n : SlotIx} (h : n.val ∉ s.clk.slotRefs) : s.slotRefusal n = s := if_neg (by simpa using h)

/-- Settles O28: the write of the control register by the slot's state, and the fire by the kind of its action. -/
theorem slotsArmAndFire : Obligations.SlotsArmAndFire := by
  intro n s kind slotRegs plain
  refine ⟨fun m sk k h => ⟨?ahead, ?late, ?reserved, ?again, ?other, ?disarm, ?race, ?free, ?just⟩, ?_⟩
  case ahead =>
    intro ha hj hk hb
    obtain ⟨harm, hskip, hkind⟩ := slotWritten_slot s n true sk k
    rw [slotArm_ahead sk k h ha hj hk hb]
    exact accepts_ok ⟨harm, hskip, hkind, (slotsMoved_slotWritten s n true sk k).plain _⟩
  case late =>
    intro ha hj hk hb
    have hm := slotsMoved_slotWritten s n true sk k
    obtain ⟨harm, hskip, -⟩ := slotWritten_slot s n true sk k
    obtain ⟨hlate, hdrops, hfires⟩ := slotLate_slot (slotWritten s n true sk k) n
    rw [hskip] at hdrops hfires
    have hnow : (slotWritten s n true sk k).now = s.now := by rw [State.now, hm.clk]; rfl
    rw [slotArm_late sk k h ha hj hk hb]
    have harmed : ((slotWritten s n true sk k).slotLate n).slotArmed n = !sk := by
      rcases Bool.eq_false_or_eq_true sk with hs | hs
      · exact (hdrops hs).1.trans (by rw [hs]; rfl)
      · exact ((hfires hs).1.trans harm).trans (by rw [hs]; rfl)
    exact accepts_ok ⟨hlate, harmed, fun hs => (hfires hs).2, fun hs => ⟨(hdrops hs).2.1, ((hdrops hs).2.2).trans hnow⟩,
      (hm.trans (slotsMoved_slotLate _ n)).plain _⟩
  case reserved => exact fun ha hj hk => slotArm_reserved sk k h ha hj hk
  case again =>
    intro ha hk
    obtain ⟨harm, hskip, hkind, -⟩ := slotSkipped_slot s n sk
    rw [slotArm_again sk k h ha hk]
    exact accepts_ok ⟨harm.trans ha, hskip, hkind.trans hk, (slotsMoved_slotSkipped s n sk).plain _⟩
  case other =>
    intro ha hk
    have hctl : (s.setIf (s.slotReached n) F.TIME_ACT_STAT.race 0 n).rd .TIME_ACT_CTL 0 n = s.rd .TIME_ACT_CTL 0 n := by
      unfold State.setIf
      split
      · exact rd_put_name _ (by decide) _ _ _ _ _ _ _
      · rfl
    exact ⟨_, slotArm_other sk k h ha hk, rfl, hctl, (slotsMoved_raceIf s _ n).plain _⟩
  case disarm =>
    intro ha hk hr
    rw [slotDisarm_ahead sk k h ha hk hr]
    exact accepts_ok ⟨bit_clrb_self (slotSkipped s n sk) F.TIME_ACT_CTL.arm 0 n 0 (by decide), (slotsMoved_disarmed s n sk).plain _⟩
  case race =>
    intro ha hk hr
    obtain ⟨harm, hrace, hdue, hm⟩ := slotRaced_slot s n sk
    rw [slotDisarm_race sk k h ha hk hr]
    exact accepts_ok ⟨harm.trans ha, hrace, hdue, hm.plain _⟩
  case free =>
    intro ha hj
    obtain ⟨harm, -, hkind⟩ := slotWritten_slot s n false sk k
    rw [slotDisarm_free sk k h ha hj]
    exact accepts_ok ⟨harm, hkind, (slotsMoved_slotWritten s n false sk k).plain _⟩
  case just =>
    intro ha hj i hi
    simp only [List.mem_cons, List.not_mem_nil, or_false] at hi
    rcases hi with rfl | rfl
    · exact slotWrite_just sk k h ha hj true
    · exact slotWrite_just sk k h ha hj false
  · intro waits u fires kind a q done refused
    have act {P : State → Prop} (hf : fires = true) {t : State} (hgo : u.slotGo n = t) (ht : SlotFired u t n)
        (hP : P { t with resp := { err := false, data := 0 } }) : done P := by
      show Accepts (ok (s.slotFire n)) _
      rw [slotFire_fires hf, show (slotInstant s n).slotGo n = t from hgo]
      exact accepts_ok ⟨ht.arm, ht.fired, ht.tag, ht.due, ht.now, ht.just, hP⟩
    have hmem : u.mem = s.mem := mem_slotInstant s n
    refine ⟨?still, ?raises, ?notProducer, ?stores, ?starts, ?notOwner, fun h => ?_, fun h => noEvent_ok (slotRefusal_none h)⟩
    case still =>
      intro hf
      show NoEvent (ok (s.slotFire n)) _
      rw [slotFire_still hf]
      rfl
    case raises =>
      intro hf hk ha hp hi he
      obtain ⟨t, hgo, ht, hrefs, hm, hfl⟩ := slotGo_raises hf hk rfl ha hp hi he
      obtain ⟨xs, ys, hl, hput, hxs, hys⟩ := putEv_split ⟨0, u.now, 0⟩ (u.lsh.flight.get [] a)
      exact act hf hgo ht ⟨⟨xs, ys, hl, hfl.trans hput, hxs, hys⟩, hrefs, hm.trans hmem⟩
    case notProducer =>
      intro hf hk hno
      obtain ⟨hw, hkind, haddr⟩ : Within Proofs.slotRegs u (slotFiring u n) ∧ (slotFiring u n).f F.TIME_ACT_CTL.kind 0 n = 0 ∧
        (slotFiring u n).rd .TIME_ACT_ADDR 0 n = u.rd .TIME_ACT_ADDR 0 n :=
        ⟨within_slotFiring u n, (slotFiring_kind u n).trans hk, slotFiring_rd (by decide) _ _ _⟩
      obtain ⟨t, ht, hlog⟩ := slotAct_notProducer (s := slotFiring u n) hkind (by
        rw [haddr, lf_within hw F.PLSH_PROD.pkind, lf_within hw F.PLSH_PROD.pidx]
        exact hno)
      obtain ⟨hfired, hrefs, hlsh, -, hm⟩ := slotGo_notDone hf ht hlog
      exact act hf rfl hfired ⟨hlsh, hrefs, hm.trans hmem⟩
    case stores =>
      intro hf hk ha hr hp
      obtain ⟨t, hgo, ht, hrefs, hword, hbyte⟩ := slotGo_stores hf hk rfl ha hr hp
      exact act hf hgo ht ⟨hword, fun c hc => hbyte c (by omega), hrefs⟩
    case starts =>
      intro k hf hk ha ho hb hh hl hs hd
      obtain ⟨t, hgo, ht, hrefs, hbusy⟩ := slotGo_starts hf hk ha ho hb hh (by
        unfold dmaCut dmaSrc dmaDst
        omega)
      exact act hf hgo ht ⟨hbusy, hrefs⟩
    case notOwner =>
      intro k hf hk ha ho
      obtain ⟨t, ht, hlog⟩ := slotDma_notOwned (s := slotFiring u n) (n := n) (k := k) ho
      have hact : (slotFiring u n).slotAct n = (t, false) := by
        rw [slotAct_dma ((slotFiring_kind u n).trans hk), slotFiring_rd (r := .TIME_ACT_ADDR) (by decide),
          show (u.rd .TIME_ACT_ADDR 0 n).toNat = k from ha, ht]
      obtain ⟨hfired, hrefs, -, hdma, -⟩ := slotGo_notDone hf hact hlog
      exact act hf rfl hfired ⟨hdma, hrefs⟩
    · have hw : Within [.TIME_ACT_STAT] s (s.setb F.TIME_ACT_STAT.refused 0 n) := .put (.refl s)
      show Accepts (ok (s.slotRefusal n)) _
      rw [slotRefusal_back h]
      exact accepts_ok ⟨bit_setb_self s F.TIME_ACT_STAT.refused 0 n 0 (by decide), rfl, hw.regs, rfl⟩

end Sys2Proof.Proofs
end

section
/-! Register pairs, results and uncached words (R46, R47, R83, R301, R302, R327). -/

namespace Sys2Proof.Proofs
open Sys2Proof Sys2Proof.Machine Sys2Proof.Laws

/-! ### The latches of a reader -/

theorem req_m (s : State) (m : Master) : (s.req m).m = m := by
  cases m with
  | fabric node rten sec =>
    unfold State.req
    dsimp only
    split <;> rfl
  | _ => rfl

theorem latch_updLatch (s : State) (m : Master) (f : Latch → Latch) : (s.updLatch m f).latch m = f (s.latch m) :=
  (SMap_get_set _ _ _ _ _).trans (if_pos rfl)

/-- The latches that a reader uses are those of its running bank, which a write of another register leaves. -/
theorem latch_wr (s : State) {r : RegName} (h : RegName.SCHED_STAT ≠ r ∧ RegName.SCHED_CTX_STAT ≠ r) (v : Word) (p i j : Nat) (m : Master) :
    (s.wr r v p i j).latch m = s.latch m := by
  have hr : (s.wr r v p i j).reader m = s.reader m := by
    cases m with
    | core c =>
      unfold State.reader State.runBank State.bit State.f
      simp only [rd_wr_name s (r' := F.SCHED_STAT.fast.r) h.1, rd_wr_name s (r' := F.SCHED_STAT.cur.r) h.1,
        rd_wr_name s (r' := F.SCHED_CTX_STAT.bank.r) h.2]
    | _ => rfl
  rw [State.latch, hr]
  rfl

/-! ### Pairs -/

/-- Pairs of registers outside the packs that T0, or the owner of a channel, reads. -/
def readPairs : List (RegName × RegName) :=
  [(.IMG_SWAP_AT_LO, .IMG_SWAP_AT_HI), (.IMG_SWAP_TAG_LO, .IMG_SWAP_TAG_HI), (.JNL_SLOG_LF_LO, .JNL_SLOG_LF_HI),
    (.MEM_ELOG_LL_LO, .MEM_ELOG_LL_HI), (.DMA_SRC_LO, .DMA_SRC_HI), (.DMA_DST_LO, .DMA_DST_HI), (.DMA_TAG_LO, .DMA_TAG_HI)]

/-- Those of them that are written. -/
def writePairs : List (RegName × RegName) :=
  [(.IMG_SWAP_AT_LO, .IMG_SWAP_AT_HI), (.DMA_SRC_LO, .DMA_SRC_HI), (.DMA_DST_LO, .DMA_DST_HI)]

/-- The guard of such a pair: T0's, or that of the channel's owner (R363, R372). -/
def pairGuard (s : State) (q : Req) (r : RegName) (i : Nat) : Guard :=
  if r.row.blk = .dma then .owned q (s.owner (.dma i)) else .t0 q false

/-- Who may use such a pair. -/
def pairMay (s : State) (q : Req) (r : RegName) (i : Nat) : Bool := if r.row.blk = .dma then q.admits (s.owner (.dma i)) else q.isT0

theorem pairGuard_may {s : State} {q : Req} {r : RegName} {i : Nat} (h : pairMay s q r i = true) :
    (pairGuard s q r i).rd = true ∧ (pairGuard s q r i).wr = .ok := by
  unfold pairMay at h
  unfold pairGuard
  split at h
  · next hr => rw [if_pos hr]; exact ⟨h, if_pos h⟩
  · next hr => rw [if_neg hr]; exact ⟨h, if_pos h⟩

/-- A place of such a pair has no pack and no second index. -/
theorem readPairs_place {e : RegName × RegName} (h : e ∈ readPairs) :
    (e.1.row.blk.space = .sys ∧ e.1.row.nJ = 1) ∧ e.2.row.blk.space = .sys ∧ e.2.row.nJ = 1 := by
  unfold readPairs at h
  fin_cases h <;> decide

theorem readPairs_guard (s : State) (q : Req) {e : RegName × RegName} (h : e ∈ readPairs) (i : Nat) :
    s.guard q ⟨e.1, 0, i, 0⟩ = pairGuard s q e.1 i ∧ s.guard q ⟨e.2, 0, i, 0⟩ = pairGuard s q e.1 i := by
  unfold readPairs at h
  fin_cases h <;> exact ⟨rfl, rfl⟩

/-- A read of the low word places the high word in the reader's latch; a read of the high word answers the latch (R46). -/
theorem readPairs_read (s : State) (q : Req) {e : RegName × RegName} (h : e ∈ readPairs) (i : Nat) :
    s.regRead q ⟨e.1, 0, i, 0⟩ = (s.updLatch q.m fun l => { l with hi := s.rd e.2 0 i }, s.rd e.1 0 i) ∧
      s.regRead q ⟨e.2, 0, i, 0⟩ = (s, (s.latch q.m).hi) := by
  unfold readPairs at h
  fin_cases h <;> exact ⟨rfl, rfl⟩

theorem writePairs_read {e : RegName × RegName} (h : e ∈ writePairs) : e ∈ readPairs ∧ e.1 ≠ e.2 ∧ e.1.row.rw = 0xFFFFFFFF ∧ e.1.row.w1c = 0 ∧
    e.2.row.w1c = 0 ∧ (RegName.SCHED_STAT ≠ e.1 ∧ RegName.SCHED_CTX_STAT ≠ e.1) ∧ RegName.SCHED_STAT ≠ e.2 ∧ RegName.SCHED_CTX_STAT ≠ e.2 := by
  unfold writePairs at h
  fin_cases h <;> decide

/-- The low word of a written pair, alone. -/
def lowWritten (s : State) (e : RegName × RegName) (i : Nat) (v : Word) : State := s.wr e.1 (e.1.row.write (s.rd e.1 0 i) v) 0 i

theorem writePairs_dev (s : State) (q : Req) {e : RegName × RegName} (h : e ∈ writePairs) (i : Nat) (v : Word) (a : Nat) :
    s.devWrite q ⟨e.1, 0, i, 0⟩ v a = (lowWritten s e i v, .ok) := by
  unfold writePairs at h
  fin_cases h <;> rfl

/-- A write of the high word goes to the writer's latch; a write of the low word commits both (R47). -/
theorem writePairs_write (s : State) (q : Req) {e : RegName × RegName} (h : e ∈ writePairs) (i : Nat) (v : Word) (a : Nat) :
    s.regWrite q ⟨e.2, 0, i, 0⟩ v a = (s.updLatch q.m fun l => { l with wr := some v }, .ok) ∧
      s.regWrite q ⟨e.1, 0, i, 0⟩ v a = s.loWrite q ⟨e.1, 0, i, 0⟩ e.2 v a := by
  unfold writePairs at h
  fin_cases h <;> exact ⟨rfl, rfl⟩

theorem and_ones (v : Word) : v &&& 4294967295#32 = v := BitVec.and_allOnes

theorem write_full {w : Row} (hr : w.rw = 0xFFFFFFFF) (hc : w.w1c = 0) (old v : Word) : w.write old v = v := by
  simp [Row.write, hr, hc, and_ones]

theorem write_zero {w : Row} (hc : w.w1c = 0) (v : Word) : w.write 0 v = v &&& w.rw := by
  simp [Row.write, hc, and_ones]

/-- What the write of a pair's low word leaves (R47). -/
structure PairWritten (s t : State) (m : Master) (e : RegName × RegName) (i : Nat) (v : Word) : Prop where
  lo : t.rd e.1 0 i = v
  hi : t.rd e.2 0 i = (s.latch m).wr.elim (s.rd e.2 0 i) (· &&& e.2.row.rw)
  latch : t.latch m = { s.latch m with wr := none }
  regs : KeepsRegs s t [e.1, e.2]
  rest : t = { s with regs := t.regs, rdr := t.rdr }

theorem loWrite_pair (s : State) (q : Req) {e : RegName × RegName} (h : e ∈ writePairs) (i : Nat) (v : Word) (a : Nat) :
    ∃ t, s.loWrite q ⟨e.1, 0, i, 0⟩ e.2 v a = (t, .ok) ∧ PairWritten s t q.m e i v := by
  obtain ⟨-, hne, hrw, hc1, hc2, hs1, hs2⟩ := writePairs_read h
  have hlo : (lowWritten s e i v).rd e.1 0 i = v := by rw [lowWritten, rd_wr_self, write_full hrw hc1]
  have hhi : (lowWritten s e i v).rd e.2 0 i = s.rd e.2 0 i := rd_wr_name s hne.symm _ _ _ _ _ _ _
  have hlatch : (lowWritten s e i v).latch q.m = s.latch q.m := latch_wr s hs1 _ _ _ _ _
  have hkeep : KeepsRegs s (lowWritten s e i v) [e.1, e.2] := fun r p i' j hr => by
    simp only [List.mem_cons, List.not_mem_nil, or_false, not_or] at hr
    exact rd_wr_name s hr.1 _ _ _ _ _ _ _
  unfold State.loWrite
  rw [writePairs_dev s q h]
  cases hw : (s.latch q.m).wr with
  | none => exact ⟨_, rfl, hlo, by rw [hw]; exact hhi, by rw [hlatch, ← hw], hkeep, rfl⟩
  | some w =>
    refine ⟨_, rfl, ?_, ?_, ?_, fun r p i' j hr => ?_, rfl⟩
    · exact (rd_wr_name _ hne _ _ _ _ _ _ _).trans hlo
    · rw [hw]
      exact (rd_wr_self _ _ _ _ _ _).trans (write_zero hc2 w)
    · rw [latch_updLatch, latch_wr _ hs2, hlatch]
    · refine (rd_wr_name _ ?_ _ _ _ _ _ _ _).trans (hkeep r p i' j hr)
      simp only [List.mem_cons, List.not_mem_nil, or_false, not_or] at hr
      exact hr.2

/-! ### Results -/

/-- A result's word is answered, the rest of its group is held for the reader, and the word's rc bits are cleared (R8, R83). -/
def ResultRead (s t : State) (m : Master) (x : RegAt) (g : List RegName) : Prop :=
  (t.latch m).res = g.map (fun r => s.rd r x.p x.i x.j) ∧ t.rd x.r x.p x.i x.j = s.rd x.r x.p x.i x.j &&& ~~~x.r.row.rc ∧
    KeepsRegs s t [x.r] ∧ t = { s with regs := t.regs, rdr := t.rdr, resp := t.resp }

theorem resRead_result (s : State) (m : Master) (x : RegAt) (v lo hi : RegName) (y : Resp) :
    (s.resRead m x v lo hi).2 = s.rd x.r x.p x.i x.j ∧ ResultRead s { (s.resRead m x v lo hi).1 with resp := y } m x [v, lo, hi] :=
  ⟨rfl, congrArg Latch.res (latch_updLatch (s.plainRead x).1 m fun l => { l with res := [v, lo, hi].map fun r => s.rd r x.p x.i x.j }),
    rd_wr_self _ _ _ _ _ _, fun r p i j hr => rd_wr_name s (by simpa using hr) _ _ _ _ _ _ _, rfl⟩

end Sys2Proof.Proofs
end

section
/-! READ_LATCH_LO, WRITE_LATCH_HI, LO_WRITE_COMMIT, RESULT_SNAPSHOT_READ and UNCACHED_ACCESS (R30, R46, R47, R83, R301, R302). -/

namespace Sys2Proof.Proofs
open Sys2Proof Sys2Proof.Machine Sys2Proof.Laws

/-! ### Register accesses by a command -/

/-- A register outside the packs with one index stands at a place that its index alone gives. -/
theorem sys_place {a : Nat} {x : RegAt} {r : RegName} (hx : regAt a = some x) (hr : x.r = r) (hs : r.row.blk.space = .sys) (hJ : r.row.nJ = 1) :
    x = ⟨r, 0, x.i, 0⟩ := by
  obtain ⟨-, hj, hp⟩ := regAt_inv hx
  obtain ⟨r', p, i, j⟩ := x
  obtain rfl : r' = r := hr
  obtain rfl : p = 0 := hp hs
  obtain rfl : j = 0 := by dsimp only at hj; omega
  rfl

section
variable {m : Master} {a : Word} {s : State} (hm : (s.req m).mapped = true) {x : RegAt} (hx : regAt (a.toNat - a.toNat % 4) = some x)
include hm hx

theorem cmdRead_ok (hg : (s.guard (s.req m) x).rd = true) :
    s.cmdRead m a.toNat = ok (s.regRead (s.req m) x).1 (s.regRead (s.req m) x).2 := by
  refine (rcFieldRead_eq hm hx).trans ?_
  rw [regReadAt_ok (by omega) hg]
  rfl

theorem cmdWrite_ok (hg : (s.guard (s.req m) x).wr = .ok) {v : Word} {t : State} (h : ∀ b, s.regWrite (s.req m) x v b = (t, .ok)) :
    s.cmdWrite m a.toNat v = ok t := by
  refine (registerWrite_eq hm hx).trans ?_
  rw [regWriteAt_ok (by omega) hg (h _)]
  rfl

/-- A read of TIME_NOW_LO answers the tag's low word, with the high word in the reader's latch (R31, R46). -/
theorem readTime_latches (hr : x.r = .TIME_NOW_LO) :
    Accepts (s.cmdRead m a.toNat) fun t => t.resp.data = s.now.lo ∧ t.latch m = { s.latch m with hi := s.now.hi } ∧
      t = { s with rdr := t.rdr, resp := t.resp } := by
  have hp : x = ⟨.TIME_NOW_LO, 0, x.i, 0⟩ := sys_place hx hr (by decide) (by decide)
  have hi : x.i = 0 := by
    have h : x.i < RegName.TIME_NOW_LO.row.nI := by rw [← hr]; exact (regAt_inv hx).1
    exact Nat.lt_one_iff.mp h
  rw [hi] at hp
  have hg : (s.guard (s.req m) ⟨.TIME_NOW_LO, 0, 0, 0⟩).rd = true := rfl
  have hread : s.regRead (s.req m) ⟨.TIME_NOW_LO, 0, 0, 0⟩ = (s.updLatch (s.req m).m fun l => { l with hi := s.now.hi }, s.now.lo) := rfl
  rw [← hp] at hg hread
  have hl := latch_updLatch s m fun l => { l with hi := s.now.hi }
  rw [cmdRead_ok hm hx hg, hread, req_m]
  exact accepts_ok ⟨rfl, hl, rfl⟩

variable {e : RegName × RegName}

theorem readPair_low (he : e ∈ readPairs) (hmay : pairMay s (s.req m) e.1 x.i = true) (hr : x.r = e.1) :
    Accepts (s.cmdRead m a.toNat) fun t => t.resp.data = s.rd e.1 0 x.i ∧ t.latch m = { s.latch m with hi := s.rd e.2 0 x.i } ∧
      t = { s with rdr := t.rdr, resp := t.resp } := by
  obtain ⟨⟨hs, hJ⟩, -⟩ := readPairs_place he
  have hp := sys_place hx hr hs hJ
  have hg := (readPairs_guard s (s.req m) he x.i).1
  have hread := (readPairs_read s (s.req m) he x.i).1
  rw [← hp] at hg hread
  have hl := latch_updLatch s m fun l => { l with hi := s.rd e.2 0 x.i }
  rw [cmdRead_ok hm hx (by rw [hg]; exact (pairGuard_may hmay).1), hread, req_m]
  exact accepts_ok ⟨rfl, hl, rfl⟩

theorem readPair_high (he : e ∈ readPairs) (hmay : pairMay s (s.req m) e.1 x.i = true) (hr : x.r = e.2) :
    Accepts (s.cmdRead m a.toNat) fun t => t.resp.data = (s.latch m).hi ∧ t = { s with resp := t.resp } := by
  obtain ⟨-, hs, hJ⟩ := readPairs_place he
  have hp := sys_place hx hr hs hJ
  have hg := (readPairs_guard s (s.req m) he x.i).2
  have hread := (readPairs_read s (s.req m) he x.i).2
  rw [← hp] at hg hread
  rw [cmdRead_ok hm hx (by rw [hg]; exact (pairGuard_may hmay).1), hread, req_m]
  exact accepts_ok ⟨rfl, rfl⟩

theorem writePair_high (he : e ∈ writePairs) (hmay : pairMay s (s.req m) e.1 x.i = true) (hr : x.r = e.2) (v : Word) :
    Accepts (s.cmdWrite m a.toNat v) fun t => t.latch m = { s.latch m with wr := some v } ∧ t = { s with rdr := t.rdr, resp := t.resp } := by
  obtain ⟨hrd, -⟩ := writePairs_read he
  obtain ⟨-, hs, hJ⟩ := readPairs_place hrd
  have hp := sys_place hx hr hs hJ
  have hg := (readPairs_guard s (s.req m) hrd x.i).2
  have hw (b : Nat) := (writePairs_write s (s.req m) he x.i v b).1
  rw [← hp] at hg hw
  have hl := latch_updLatch s m fun l => { l with wr := some v }
  rw [cmdWrite_ok hm hx (by rw [hg]; exact (pairGuard_may hmay).2) hw, req_m]
  exact accepts_ok ⟨hl, rfl⟩

theorem writePair_low (he : e ∈ writePairs) (hmay : pairMay s (s.req m) e.1 x.i = true) (hr : x.r = e.1) (v : Word) :
    ∃ t, s.cmdWrite m a.toNat v = ok t ∧ PairWritten s t m e x.i v := by
  obtain ⟨hrd, -⟩ := writePairs_read he
  obtain ⟨⟨hs, hJ⟩, -⟩ := readPairs_place hrd
  have hp := sys_place hx hr hs hJ
  have hg := (readPairs_guard s (s.req m) hrd x.i).1
  have hw (b : Nat) := (writePairs_write s (s.req m) he x.i v b).2
  obtain ⟨t, ht, hpw⟩ := loWrite_pair s (s.req m) he x.i v (a.toNat - a.toNat % 4)
  rw [← hp] at hg hw ht
  rw [req_m] at hpw
  refine ⟨t, (registerWrite_eq hm hx).trans ?_, hpw⟩
  rw [regWriteAt_ok (by omega) (by rw [hg]; exact (pairGuard_may hmay).2) ((hw _).trans ht)]
  rfl

/-- A read of a result's first word, by the registers of its group (R83). -/
theorem readResult {v lo hi : RegName} (hg : (s.guard (s.req m) x).rd = true) (hr : s.regRead (s.req m) x = s.resRead m x v lo hi) :
    Accepts (s.cmdRead m a.toNat) fun t => t.resp.data = s.rd x.r x.p x.i x.j ∧ ResultRead s t m x [v, lo, hi] := by
  rw [cmdRead_ok hm hx hg, hr]
  exact accepts_ok (resRead_result s m x v lo hi _)

end

/-- The register that a read of a result's first word takes. -/
theorem regRead_result (s : State) (q : Req) (p i j : Nat) :
    s.regRead q ⟨.ADC_RES, p, i, j⟩ =
        (if s.negSide p i then (s, 0) else s.resRead q.m ⟨.ADC_RES, p, i, j⟩ .ADC_RES_V .ADC_RES_TAG_LO .ADC_RES_TAG_HI) ∧
      s.regRead q ⟨.SDM_RES, p, i, j⟩ = s.resRead q.m ⟨.SDM_RES, p, i, j⟩ .SDM_RES_V .SDM_RES_TAG_LO .SDM_RES_TAG_HI ∧
      s.regRead q ⟨.RSV_SMP, p, i, j⟩ = s.resRead q.m ⟨.RSV_SMP, p, i, j⟩ .RSV_INFO .RSV_TAG_LO .RSV_TAG_HI :=
  ⟨rfl, rfl, rfl⟩

/-! ### Words of SRAM -/

theorem debugAccess_sram {a : Nat} (h : isSram a = true) (m : Master) : debugAccess m a = false := by
  have := of_decide_eq_true h
  cases m with
  | core c => exact decide_eq_false (by omega)
  | _ => rfl

section
variable {s : State} {m : Master} {a b : Nat} (hb : a - a % 4 = b) (hm : (s.req m).mapped = true) (hs : isSram b = true)
include hb hm hs

theorem cmdWrite_sram (v : Word) : s.cmdWrite m a v = rspOut (s.memWrite (s.req m) b 4 v) := by
  have hd : debugAccess m a = false := by rw [← debugAccess_aligned, hb, debugAccess_sram hs]
  rw [State.cmdWrite, if_neg (ne_true_of_eq_false hd), if_neg (by simp [hm]), hb, busWrite_sram hs]

theorem cmdRead_sram : s.cmdRead m a = rspOut (s.memRead (s.req m) .read b 4) := by
  have hd : debugAccess m a = false := by rw [← debugAccess_aligned, hb, debugAccess_sram hs]
  rw [State.cmdRead, if_neg (ne_true_of_eq_false hd), if_neg (by simp [hm]), hb, busRead_sram hs]

end

/-- Settles O25: pairs and results by what a read or a write of their registers does, words of SRAM by the access to memory. -/
theorem registerPairsAndResultsAreRead : Obligations.RegisterPairsAndResultsAreRead := by
  refine ⟨fun m a v s hm => ?pairs, fun m a v s hm => ?rest⟩
  case pairs =>
    intro b q x hx
    refine ⟨fun hr => readTime_latches hm hx hr, fun e he hmay => ⟨fun hr => readPair_low hm hx he hmay hr, fun hr => readPair_high hm hx he hmay hr⟩,
      fun e he hmay => ⟨fun hr => writePair_high hm hx he hmay hr v, fun hr => ?_⟩⟩
    obtain ⟨t, ht, hw⟩ := writePair_low hm hx he hmay hr v
    show Accepts (s.cmdWrite m a.toNat v) _
    rw [ht]
    exact accepts_ok ⟨hw.lo, hw.hi.trans (by cases (s.latch m).wr <;> rfl), hw.latch, hw.regs, by rw [hw.rest]⟩
  case rest =>
    intro b q
    refine ⟨fun x hx hg => ?_, fun w => by cases w <;> rfl, fun hq hb hp hc => ⟨fun hr => ?write, fun hr hf hv => ?read, fun hr => ?refused⟩⟩
    · obtain ⟨hadc, hsdm, hrsv⟩ := regRead_result s q x.p x.i x.j
      rw [show q.m = m from req_m s m] at hadc hsdm hrsv
      obtain ⟨r, p, i, j⟩ := x
      refine ⟨?_, ?_, ?_, ?_⟩
      · rintro rfl hn
        exact readResult hm hx hg (hadc.trans (if_neg (ne_true_of_eq_false hn)))
      · rintro rfl hn
        show NoEvent (s.cmdRead m a.toNat) s
        rw [cmdRead_ok hm hx hg, hadc.trans (if_pos hn)]
        rfl
      · rintro rfl
        exact readResult hm hx hg hsdm
      · rintro rfl
        exact readResult hm hx hg hrsv
    case write =>
      obtain ⟨t, ht, hw, hl⟩ := memWrite_clean (v := v) hq hb (by omega) hr hp fun w _ => hc w
      show Accepts (s.cmdWrite m a.toNat v) _
      rw [cmdWrite_sram rfl hm hb, ht]
      exact accepts_ok ⟨hw.word, fun c hcb => (hw.byte c).trans (if_neg hcb), fun hca c => hl hca c c.isLt, by rw [hw.rest]⟩
    case read =>
      obtain ⟨t, ht, hsh⟩ := memRead_good hq hr ⟨hb, by omega, hp, fun w _ => hc w, hf, hv⟩
      show Accepts (s.cmdRead m a.toNat) _
      rw [cmdRead_sram rfl hm hb, ht]
      exact accepts_ok ⟨rfl, by rw [hsh.rest], hsh.valid, hsh.flips⟩
    case refused =>
      have hlog : LogsOnly s (s.refuse q .write b 4) := logsOnly_violation _ _ _ _ _ _ _ _
      show ∃ t, s.cmdWrite m a.toNat v = .next t ∧ _
      rw [cmdWrite_sram rfl hm hb, memWrite_refused (by rw [unalias_sram hb]; exact hr)]
      exact ⟨_, rfl, rfl, by rw [hlog.rest], by rw [hlog.rest], hlog.regs⟩

end Sys2Proof.Proofs
end

section
/-! Den and Kennel: supplies, the wake, the field die's part of Kennel, and the completed entry (R431, R443, R446 to R448). -/

namespace Sys2Proof.Proofs
open Sys2Proof Sys2Proof.Machine Sys2Proof.Laws

/-! ### Supplies and the wake -/

/-- A supply group that is asked for, or no longer. -/
def supplyAsked (s : State) (core on : Bool) : State :=
  { s with pwr := { s.pwr with fldEn := if core then s.pwr.fldEn else on, coreEn := if core then on else s.pwr.coreEn,
                               enAt := s.pwr.enAt.set 0 core.toNat s.clk.raw } }

theorem supply_eq (s : State) (core on : Bool) : s.supply core on = s ∧ (if core then s.pwr.coreEn else s.pwr.fldEn) = on ∨
    s.supply core on = supplyAsked s core on := by
  by_cases h : (if core then s.pwr.coreEn else s.pwr.fldEn) = on
  · exact .inl ⟨if_pos h, h⟩
  · exact .inr (if_neg h)

/-- What a request to a supply group leaves: the power state alone, and of it neither the state of the device nor the wake (R431). -/
theorem supply_keeps (s : State) (core on : Bool) :
    s.supply core on = { s with pwr := (s.supply core on).pwr } ∧ (s.supply core on).pwr.mode = s.pwr.mode ∧
      (s.supply core on).pwr.target = s.pwr.target ∧ (s.supply core on).pwr.wake = s.pwr.wake := by
  rcases supply_eq s core on with ⟨h, -⟩ | h <;> rw [h] <;> exact ⟨rfl, rfl, rfl, rfl⟩

theorem supply_field (s : State) (on : Bool) : (s.supply false on).pwr.fldEn = on ∧ (s.supply false on).pwr.coreEn = s.pwr.coreEn := by
  rcases supply_eq s false on with ⟨h, hon⟩ | h <;> rw [h]
  · exact ⟨hon, rfl⟩
  · exact ⟨rfl, rfl⟩

theorem supply_core (s : State) (on : Bool) : (s.supply true on).pwr.coreEn = on ∧ (s.supply true on).pwr.fldEn = s.pwr.fldEn := by
  rcases supply_eq s true on with ⟨h, hon⟩ | h <;> rw [h]
  · exact ⟨hon, rfl⟩
  · exact ⟨rfl, rfl⟩

/-- The registers of a wake (R446). -/
def wakeRegs : List RegName := [.PWR_AO_CAUSE, .PWR_AO_TAG_LO, .PWR_AO_TAG_HI]

/-- Between two states of the power domain a wake may have come. -/
structure Woken (s t : State) : Prop where
  rest : t = { s with regs := t.regs, pwr := t.pwr }
  regs : KeepsRegs s t wakeRegs
  mode : t.pwr.mode = s.pwr.mode
  target : t.pwr.target = s.pwr.target
  wake : s.pwr.wake = true → t.pwr.wake = true

namespace Woken

variable {s a t : State}

theorem refl (s : State) : Woken s s := ⟨rfl, fun _ _ _ _ _ => rfl, rfl, rfl, id⟩

theorem trans (h : Woken s a) (g : Woken a t) : Woken s t :=
  ⟨by rw [g.rest, h.rest], fun r p i j hr => (g.regs r p i j hr).trans (h.regs r p i j hr), g.mode.trans h.mode, g.target.trans h.target,
    fun hw => g.wake (h.wake hw)⟩

theorem ite {c : Prop} {_ : Decidable c} (h : Woken s a) (g : Woken s t) : Woken s (if c then a else t) := by split <;> assumption

theorem supply (h : Woken s a) (core on : Bool) : Woken s (a.supply core on) := by
  obtain ⟨hr, hm, ht, hw⟩ := supply_keeps a core on
  refine h.trans ⟨by rw [hr], fun r p i j _ => by rw [hr]; rfl, hm, ht, fun h => hw.trans h⟩

theorem mem (h : Woken s t) : t.mem = s.mem := by rw [h.rest]
theorem lsh (h : Woken s t) : t.lsh = s.lsh := by rw [h.rest]

end Woken

/-- The supplies that the exit asks for: in Den both groups, in Kennel the field group first (R448). -/
def exitSupplies (s : State) (den : Bool) : State := if den then (s.supply false true).supply true true else s.supply false true

theorem woken_exitSupplies (s : State) (den : Bool) : Woken s (exitSupplies s den) :=
  .ite (((Woken.refl s).supply false true).supply true true) ((Woken.refl s).supply false true)

theorem fldEn_exitSupplies (s : State) (den : Bool) : (exitSupplies s den).pwr.fldEn = true := by
  unfold exitSupplies
  split
  · rw [(supply_core _ true).2, (supply_field s true).1]
  · exact (supply_field s true).1

/-- The state that a wake leaves, by where the device comes from. -/
def wakeFrom (s : State) : Nat := if s.pwr.target.isSome then s.pwr.target.getD 2 else s.pwr.mode

/-- The cause register and the tag of the first wake (R446). -/
def wakeNoted (s : State) : State :=
  if s.pwr.wake then s
  else (s.wr .PWR_AO_CAUSE (F.PWR_AO_CAUSE.from_.put (s.rd .PWR_AO_CAUSE &&& 0xFFFFE000) (wakeFrom s))).setPair .PWR_AO_TAG_LO .PWR_AO_TAG_HI s.now

/-- A wake recorded by its bit. -/
def wakeHeld (s : State) (b : Nat) : State :=
  { (wakeNoted s).putNbit .PWR_AO_CAUSE b true with pwr := { s.pwr with wake := true } }

theorem wakeNoted_rest (s : State) : wakeNoted s = { s with regs := (wakeNoted s).regs } := by
  unfold wakeNoted
  split <;> rfl

theorem wakePast_eq (s : State) (b : Nat) : s.wakePast b =
    if s.pwr.target.isNone then exitSupplies (wakeHeld s b) (decide (s.pwr.mode = 2)) else wakeHeld s b := by
  have hp : (wakeNoted s).pwr = s.pwr := by rw [wakeNoted_rest]
  have h : s.wakePast b =
      let s3 : State := { (wakeNoted s).putNbit .PWR_AO_CAUSE b true with pwr := { (wakeNoted s).pwr with wake := true } }
      if s3.pwr.target.isNone then (if s3.pwr.mode = 2 then (s3.supply false true).supply true true else s3.supply false true) else s3 := rfl
  rw [h, hp]
  unfold exitSupplies
  simp only [decide_eq_true_iff]
  rfl

theorem woken_wakeHeld (s : State) (b : Nat) : Woken s (wakeHeld s b) := by
  have hw : Within wakeRegs s ((wakeNoted s).putNbit .PWR_AO_CAUSE b true) := .putNbit (.ite (.refl s) (.setPair (.wr (.refl s))))
  refine ⟨?_, hw.regs, rfl, rfl, fun _ => rfl⟩
  unfold wakeHeld
  rw [wakeNoted_rest]
  rfl

theorem woken_wakePast (s : State) (b : Nat) : Woken s (s.wakePast b) := by
  rw [wakePast_eq]
  exact .ite ((woken_wakeHeld s b).trans (woken_exitSupplies _ _)) (woken_wakeHeld s b)

/-- Once the entry has completed, a wake starts the exit (R446, R448). -/
theorem wakePast_exits {s : State} (h : s.pwr.target = none) (b : Nat) :
    (s.wakePast b).pwr.wake = true ∧ (s.wakePast b).pwr.fldEn = true ∧ (s.wakePast b).regs = (wakeHeld s b).regs := by
  have hx := woken_exitSupplies (wakeHeld s b) (decide (s.pwr.mode = 2))
  rw [wakePast_eq, if_pos (by rw [h]; rfl)]
  refine ⟨hx.wake rfl, fldEn_exitSupplies _ _, ?_⟩
  unfold exitSupplies
  split
  · rw [(supply_keeps _ true true).1, (supply_keeps _ false true).1]
  · rw [(supply_keeps _ false true).1]

/-! ### The field die's part of Kennel -/

/-- The registers of channels that the loss of the field die clears (R345). -/
def kennelRegs : List RegName := [.PLSH_FLAG, .PLSH_OVR, .PLSH_ATTR, .SLSH_FLAG, .SLSH_OVR, .SLSH_ATTR]

/-- A channel without flag, overrun and held event (R345). -/
def channelCleared (s : State) (g : Nat) : State :=
  if s.ringBit .PLSH_FLAG g || s.ringBit .PLSH_OVR g || s.lf F.PLSH_ATTR.held g != 0 then
    ((s.putRing .PLSH_FLAG g false).putRing .PLSH_OVR g false).putLf F.PLSH_ATTR.held 0 g
  else s

/-- The first `n` channels cleared. -/
def channelsCleared (n : Nat) (s : State) : State := (List.range n).foldl channelCleared s

/-- The supplies and the router off. -/
def fieldOff (s : State) : State :=
  ((({ s with lsh := {} } : State).supply false false).supply true false).updPwr fun k => { k with fldOk := false, coreOk := false }

theorem kennelPart_eq (s : State) : s.kennelPart = fieldOff (channelsCleared 320 s.traceLost) := rfl

theorem lshReg_kennel {r : RegName} (g : Nat) (hr : r ∈ kennelRegs) (hs : r.sys ∈ kennelRegs) : (lshReg g r).1 ∈ kennelRegs := by
  unfold lshReg
  split <;> assumption

theorem within_channelCleared (s : State) (g : Nat) :
    Within kennelRegs s (channelCleared s g) ∧ channelCleared s g = { s with regs := (channelCleared s g).regs } := by
  unfold channelCleared
  split
  · refine ⟨?_, rfl⟩
    have h1 : Within kennelRegs s (s.putRing .PLSH_FLAG g false) := .putNbit (.refl s) (lshReg_kennel g (by decide) (by decide))
    have h2 : Within kennelRegs _ ((s.putRing .PLSH_FLAG g false).putRing .PLSH_OVR g false) := h1.putNbit (lshReg_kennel g (by decide) (by decide))
    exact h2.put (f := { F.PLSH_ATTR.held with r := (lshReg g .PLSH_ATTR).1 }) (lshReg_kennel g (by decide) (by decide))
  · exact ⟨.refl s, rfl⟩

/-- What the entry into Kennel does to the field die, and what it leaves (R345, R447, R452). -/
structure KennelTaken (s t : State) : Prop where
  within : Within kennelRegs s t
  clk : t.clk = s.clk
  lsh : t.lsh = {}
  fldEn : t.pwr.fldEn = false
  coreEn : t.pwr.coreEn = false
  mode : t.pwr.mode = s.pwr.mode
  target : t.pwr.target = s.pwr.target
  wake : t.pwr.wake = s.pwr.wake

theorem traceLost_keeps (s : State) : s.traceLost = { s with log := s.traceLost.log, pwr := { s.pwr with marker := s.traceLost.pwr.marker } } := by
  unfold State.traceLost
  split <;> rfl

theorem within_channelsCleared (n : Nat) (s : State) :
    Within kennelRegs s (channelsCleared n s) ∧ channelsCleared n s = { s with regs := (channelsCleared n s).regs } :=
  List.foldlRecOn (motive := fun u => Within kennelRegs s u ∧ u = { s with regs := u.regs }) _ _ ⟨.refl s, rfl⟩ fun u hu g _ => by
    obtain ⟨hw, hr⟩ := within_channelCleared u g
    exact ⟨hu.1.trans hw, by rw [hr, hu.2]⟩

theorem kennelTaken_fieldOff (s : State) : KennelTaken s (fieldOff s) := by
  obtain ⟨hr1, hm1, ht1, hw1⟩ := supply_keeps { s with lsh := {} } false false
  obtain ⟨hr2, hm2, ht2, hw2⟩ := supply_keeps (({ s with lsh := {} } : State).supply false false) true false
  have hrest : fieldOff s = { s with lsh := {}, pwr := (fieldOff s).pwr } := by
    unfold fieldOff
    rw [hr2, hr1]
    rfl
  refine ⟨.hidden (.refl s) (by rw [hrest]) (by rw [hrest]) (by rw [hrest]), by rw [hrest], by rw [hrest], ?_, ?_, hm2.trans hm1, ht2.trans ht1,
    hw2.trans hw1⟩
  · exact ((supply_core _ false).2).trans (supply_field _ false).1
  · exact (supply_core _ false).1

theorem kennelTaken (s : State) : KennelTaken s s.kennelPart := by
  obtain ⟨hw, hr⟩ := within_channelsCleared 320 s.traceLost
  have ht := traceLost_keeps s
  have hwt : Within kennelRegs s s.traceLost := .hidden (.refl s) (by rw [ht]) (by rw [ht]) (by rw [ht])
  have hf := kennelTaken_fieldOff (channelsCleared 320 s.traceLost)
  have hp : (channelsCleared 320 s.traceLost).pwr = s.traceLost.pwr := by rw [hr]
  have hc : (channelsCleared 320 s.traceLost).clk = s.clk := by rw [hr, ht]
  rw [kennelPart_eq]
  refine ⟨(hwt.trans hw).trans hf.within, hf.clk.trans hc, hf.lsh, hf.fldEn, hf.coreEn, ?_, ?_, ?_⟩
  · rw [hf.mode, hp, ht]
  · rw [hf.target, hp, ht]
  · rw [hf.wake, hp, ht]

end Sys2Proof.Proofs
end

section
/-! LOW_POWER_ENTRY_COMPLETE, DEN_TIMEOUT and WAKE_TIMER (R443, R446 to R448). -/

namespace Sys2Proof.Proofs
open Sys2Proof Sys2Proof.Machine Sys2Proof.Laws

/-! ### The completed entry -/

/-- The state of the power domain once the entry has completed. -/
def lowMode (s : State) (g : Nat) : State :=
  (s.clrb F.PWR_STAT.busy).updPwr fun k => { k with mode := g, target := none, entryCyc := s.clk.aoCycles }

/-- The supplies of Den: the core group stays on where the trace is retained (R447). -/
def denPart (s : State) (ret : Bool) : State := (s.supply true ret).updPwr fun k => { k with coreOk := k.coreOk && ret }

/-- The device in Den or in Kennel, before the pins are looked at. -/
def lowEntered (s : State) (g : Nat) : State :=
  if g = 3 then (lowMode s g).kennelPart else denPart (lowMode s g) (s.bit F.PWR_DEN_CTL.trc_ret)

/-- The pins whose level wakes the device (R449). -/
def wakingPins (s : State) (g : Nat) : List Nat :=
  (List.range 8).filter fun n => s.levelWake n && s.bit (if g = 3 then F.PWR_WHISTLE.wake_ken else F.PWR_WHISTLE.wake_den) 0 n

def pinsWake (s : State) (g : Nat) : State := (wakingPins s g).foldl (fun s n => s.wakePast n) s

theorem lowPowerIn_away {s : State} (h : s.pwr.target = none ∨ s.pwr.past = false) : s.lowPowerIn = s := by
  unfold State.lowPowerIn
  rcases h with h | h
  · rw [h]
  · split
    · rfl
    · exact if_pos (by rw [h]; rfl)

theorem lowPowerIn_done {s : State} {g : Nat} (ht : s.pwr.target = some g) (hp : s.pwr.past = true) :
    s.lowPowerIn =
      if (pinsWake (lowEntered s g) g).pwr.wake then exitSupplies (pinsWake (lowEntered s g) g) (decide (g = 2)) else pinsWake (lowEntered s g) g := by
  have hif (u : State) : (if g = 2 then (u.supply false true).supply true true else u.supply false true) = exitSupplies u (decide (g = 2)) := by
    unfold exitSupplies
    simp only [decide_eq_true_iff]
  unfold State.lowPowerIn
  rw [ht]
  dsimp only
  rw [if_neg (by rw [hp]; decide), ← hif]
  rfl

/-- What the device in Den or in Kennel keeps of the state before (R443, R447). -/
structure LowEntered (s t : State) (g : Nat) : Prop where
  within : Within (.PWR_STAT :: kennelRegs) s t
  busy : t.bit F.PWR_STAT.busy = false
  mode : t.pwr.mode = g
  target : t.pwr.target = none
  wake : t.pwr.wake = s.pwr.wake
  kennel : g = 3 → t.lsh = {} ∧ t.pwr.fldEn = false ∧ t.pwr.coreEn = false
  den : g ≠ 3 → t.pwr.coreEn = s.bit F.PWR_DEN_CTL.trc_ret

theorem lowEntered_keeps (s : State) (g : Nat) : LowEntered s (lowEntered s g) g := by
  have hw : Within [.PWR_STAT] s (lowMode s g) := .hidden (.put (.refl s) (f := F.PWR_STAT.busy) (n := 0) (p := 0) (i := 0) (j := 0))
  have hbusy : (lowMode s g).bit F.PWR_STAT.busy = false := bit_clrb_self s F.PWR_STAT.busy 0 0 0 (by decide)
  unfold lowEntered
  split
  · next h3 =>
    have hk := kennelTaken (lowMode s g)
    exact ⟨hw.mono.trans (hk.within.mono (List.subset_cons_self _ _)), (hk.within.bit_eq F.PWR_STAT.busy 0 0 0).trans hbusy, hk.mode, hk.target, hk.wake,
      fun _ => ⟨hk.lsh, hk.fldEn, hk.coreEn⟩, fun h => (h h3).elim⟩
  · next h3 =>
    obtain ⟨hr, hm, ht, hwk⟩ := supply_keeps (lowMode s g) true (s.bit F.PWR_DEN_CTL.trc_ret)
    have hrest : denPart (lowMode s g) (s.bit F.PWR_DEN_CTL.trc_ret) =
        { lowMode s g with pwr := (denPart (lowMode s g) (s.bit F.PWR_DEN_CTL.trc_ret)).pwr } := by
      unfold denPart
      rw [hr]
      rfl
    have hd : Within [] (lowMode s g) (denPart (lowMode s g) (s.bit F.PWR_DEN_CTL.trc_ret)) :=
      .hidden (.refl _) (by rw [hrest]) (by rw [hrest]) (by rw [hrest])
    exact ⟨hw.mono.trans (hd.mono (List.nil_subset _)), (hd.bit_eq F.PWR_STAT.busy 0 0 0).trans hbusy, hm, ht, hwk, fun h => (h3 h).elim,
      fun _ => (supply_core _ _).1⟩

theorem woken_pinsWake (s : State) (g : Nat) : Woken s (pinsWake s g) :=
  List.foldlRecOn _ _ (.refl s) fun _ hu n _ => hu.trans (woken_wakePast _ n)

theorem levelWake_within {rs : List RegName} {s t : State} (h : Within rs s t) (n : Nat) (hr : RegName.PWR_WHISTLE ∉ rs := by decide) :
    t.levelWake n = s.levelWake n := by
  unfold State.levelWake
  rw [h.f_eq F.PWR_WHISTLE.det _ _ _ hr, h.bit_eq F.PWR_WHISTLE.en _ _ _ hr, h.bit_eq F.PWR_WHISTLE.live _ _ _ hr]

/-- Where no pin has its level, none wakes the device. -/
theorem pinsWake_none {s : State} {g : Nat} (h : ∀ n < 8, s.levelWake n = false) : pinsWake s g = s := by
  have hn : wakingPins s g = [] := List.filter_eq_nil_iff.mpr fun n hn => by simp [h n (List.mem_range.mp hn)]
  rw [pinsWake, hn]
  rfl

/-- The state after the entry: asleep, or on its way out by a wake that was held or that a pin gives (R443, R446, R448). -/
theorem lowPowerIn_woken {s : State} {g : Nat} (ht : s.pwr.target = some g) (hp : s.pwr.past = true) :
    Woken (lowEntered s g) s.lowPowerIn ∧ (s.pwr.wake = true → s.lowPowerIn.pwr.fldEn = true) ∧
      (s.pwr.wake = false → (∀ n < 8, s.levelWake n = false) → s.lowPowerIn = lowEntered s g) := by
  have hl := lowEntered_keeps s g
  have hpins := woken_pinsWake (lowEntered s g) g
  rw [lowPowerIn_done ht hp]
  refine ⟨.ite (hpins.trans (woken_exitSupplies _ _)) hpins, fun hw => ?_, fun hw hlv => ?_⟩
  · rw [if_pos (hpins.wake (hl.wake.trans hw))]
    exact fldEn_exitSupplies _ _
  · have hnone : pinsWake (lowEntered s g) g = lowEntered s g :=
      pinsWake_none fun n hn => (levelWake_within hl.within n).trans (hlv n hn)
    rw [hnone, if_neg (by rw [hl.wake, hw]; decide)]

/-! ### The timeout of Den -/

/-- A device that has gone on from Den to Kennel. -/
def denLeft (s : State) : State := (s.setb F.PWR_AO_CAUSE.den_to).updPwr fun k => { k with mode := 3 }

theorem denLeft_keeps (s : State) : (denLeft s).pwr = { s.pwr with mode := 3 } ∧ (denLeft s).clk = s.clk ∧ (denLeft s).lsh = s.lsh ∧
    (denLeft s).mem = s.mem ∧ (denLeft s).bit F.PWR_AO_CAUSE.den_to = true :=
  ⟨rfl, rfl, rfl, rfl, bit_setb_self s F.PWR_AO_CAUSE.den_to 0 0 0 (by decide)⟩

/-- The instant of the timeout. -/
def denInstant (s : State) : State := s.run (s.aoRaw (s.pwr.entryCyc + 32768 * s.f F.PWR_DEN_CTL.den_to) - s.clk.raw)

theorem denTimeout_due {s : State} (h : (s.pwr.mode == 2 && !s.pwr.wake && s.f F.PWR_DEN_CTL.den_to != 0) = true) :
    s.denTimeout = denLeft (denInstant s).kennelPart := if_pos h

/-- What the timeout of Den leaves: the device in Kennel (R447). -/
structure DenLeft (s t : State) : Prop where
  mode : t.pwr.mode = 3
  clk : t.clk = (denInstant s).clk
  cause : t.bit F.PWR_AO_CAUSE.den_to = true
  lsh : t.lsh = {}
  fldEn : t.pwr.fldEn = false
  coreEn : t.pwr.coreEn = false
  mem : t.mem = s.mem

theorem mem_denInstant (s : State) : (denInstant s).mem = s.mem := by rw [denInstant, mem_run]

theorem denLeft_taken {s u : State} (hk : KennelTaken (denInstant s) u) : DenLeft s (denLeft u) := by
  obtain ⟨hp, hc, hl, hm, hb⟩ := denLeft_keeps u
  exact ⟨congrArg PwrSt.mode hp, hc.trans hk.clk, hb, hl.trans hk.lsh, (congrArg PwrSt.fldEn hp).trans hk.fldEn,
    (congrArg PwrSt.coreEn hp).trans hk.coreEn, (hm.trans hk.within.mem).trans (mem_denInstant s)⟩

theorem denTimeout_away {s : State} (h : (s.pwr.mode == 2 && !s.pwr.wake && s.f F.PWR_DEN_CTL.den_to != 0) = false) : s.denTimeout = s :=
  if_neg (ne_true_of_eq_false h)

/-! ### The wake timer -/

theorem wakeTimer_away {s : State} (h : s.rd .PWR_AO_WAKE = 0 ∨ s.pwr.mode < 2) : s.wakeTimer = s := if_pos (by simpa using h)

/-- The instant of the wake timer. -/
def timerInstant (s : State) : State := s.run (s.aoRaw (s.pwr.entryCyc + (s.rd .PWR_AO_WAKE).toNat) - s.clk.raw)

/-- In Den and in Kennel every wake is one past the point of no return (R446). -/
theorem wake_past {s : State} (hm : s.pwr.mode = 2 ∨ s.pwr.mode = 3) (hp : s.pwr.past = true) (ht : s.pwr.target = none) (b : Nat) :
    s.wake b true = s.wakePast b := by
  unfold State.wake
  simp only [ht, hp, Option.isSome_none, Bool.false_eq_true, if_false, if_true]
  exact if_neg (by rcases hm with h | h <;> rw [h] <;> decide)

theorem wakeTimer_wakes {s : State} (hr : s.rd .PWR_AO_WAKE ≠ 0) (hm : s.pwr.mode = 2 ∨ s.pwr.mode = 3) (hp : s.pwr.past = true)
    (ht : s.pwr.target = none) : s.wakeTimer = (timerInstant s).wakePast 8 := by
  have hpwr : (timerInstant s).pwr = s.pwr := pwr_run _ _
  have h1 : s.wakeTimer = (timerInstant s).wake 8 true := if_neg (by
    simp only [Bool.or_eq_true, decide_eq_true_iff, not_or]
    exact ⟨hr, by omega⟩)
  rw [h1]
  exact wake_past (by rw [hpwr]; exact hm) (by rw [hpwr]; exact hp) (by rw [hpwr]; exact ht) 8

/-- The registers of a wake (R446): its bit, and for the first one where the device comes from and the tag. -/
theorem wakeHeld_regs (u : State) :
    (wakeHeld u 8).bit F.PWR_AO_CAUSE.timer = true ∧
      (u.pwr.wake = false → (wakeHeld u 8).f F.PWR_AO_CAUSE.from_ = wakeFrom u % 4 ∧
        (wakeHeld u 8).pairAt .PWR_AO_TAG_LO .PWR_AO_TAG_HI = u.now) := by
  have hself : (wakeHeld u 8).f F.PWR_AO_CAUSE.timer = 1 := f_put_self (wakeNoted u) F.PWR_AO_CAUSE.timer 1 0 0 0 (by decide)
  refine ⟨by rw [State.bit, hself]; rfl, fun hw => ?_⟩
  have hn : wakeNoted u = (u.wr .PWR_AO_CAUSE (F.PWR_AO_CAUSE.from_.put (u.rd .PWR_AO_CAUSE &&& 0xFFFFE000) (wakeFrom u))).setPair .PWR_AO_TAG_LO
      .PWR_AO_TAG_HI u.now := if_neg (ne_true_of_eq_false hw)
  constructor
  · have h1 : (wakeHeld u 8).f F.PWR_AO_CAUSE.from_ = (wakeNoted u).f F.PWR_AO_CAUSE.from_ :=
      f_put_apart (wakeNoted u) (f := F.PWR_AO_CAUSE.timer) (by decide) _ _ _ _ _ _ _
    rw [h1, hn, f_setPair_name _ (by decide) (by decide), State.f]
    rw [show F.PWR_AO_CAUSE.from_.r = .PWR_AO_CAUSE from rfl, rd_wr_self]
    exact Fld_get_put _ _ _ (by decide)
  · have h1 : (wakeHeld u 8).pairAt .PWR_AO_TAG_LO .PWR_AO_TAG_HI = (wakeNoted u).pairAt .PWR_AO_TAG_LO .PWR_AO_TAG_HI :=
      pairAt_put (wakeNoted u) (f := F.PWR_AO_CAUSE.timer) (by decide) (by decide) _ _ _ _ _ _ _
    rw [h1, hn]
    exact pairAt_setPair _ (by decide) _ _ _ _

end Sys2Proof.Proofs
end

section
/-! DEN and KENNEL (R443, R447): what an accepted entry does in the tick after the command. -/

namespace Sys2Proof.Proofs
open Sys2Proof Sys2Proof.Machine Sys2Proof.Laws

/-! ### Records -/

/-- Between two states records have been made: registers of the logs and of the trace, and the logs. -/
structure Recorded (s t : State) : Prop where
  within : Within ([.TRC_STAT, .TRC_CNT] ++ lossRegs) s t
  rest : t = { s with regs := t.regs, log := t.log }

theorem Recorded.trans {s a t : State} (h : Recorded s a) (g : Recorded a t) : Recorded s t := ⟨h.within.trans g.within, by rw [g.rest, h.rest]⟩

theorem recorded_inc (s : State) {f : Fld} (h : f.r ∈ [RegName.TRC_STAT, .TRC_CNT] ++ lossRegs) : Recorded s (s.inc f) := by
  refine ⟨.inc (.refl s) h, ?_⟩
  unfold State.inc
  split <;> rfl

theorem recorded_gaps (s : State) (gaps : List TrcRec) : Recorded s (gaps.foldl (fun s _ => (s.setb F.TRC_STAT.gap).inc F.TRC_CNT.gaps) s) :=
  List.foldlRecOn (motive := fun u => Recorded s u) gaps _ ⟨.refl s, rfl⟩ fun u hu _ _ =>
    hu.trans (Recorded.trans (a := u.setb F.TRC_STAT.gap) ⟨.put (.refl u), rfl⟩ (recorded_inc _ (by decide)))

theorem recorded_trace (s : State) (cls : Nat) (g : Tag) : Recorded s (s.trace cls g) := by
  unfold State.trace
  split
  · exact ⟨.refl s, rfl⟩
  · extract_lets fill wait drop r gaps log s1
    split
    · exact ⟨.hidden (.refl s), rfl⟩
    · exact Recorded.trans (a := s1) ⟨.hidden (.refl s), rfl⟩ (recorded_gaps s1 gaps)

theorem recorded_pwrRecord (s : State) (src dst : Nat) (ab : Bool) (cause lost : Word) (g : Tag) :
    Recorded s (s.pwrRecord src dst ab cause lost g) := by
  have h := logsOnly_stageRec s 9 { a := BitVec.ofNat 32 (4 + src * 2 ^ 8 + dst * 2 ^ 11 + ab.toNat * 2 ^ 14), b := cause, c := lost,
                                    first := g, last := 0, key := 64 * slogDomain 4 0 }
  exact Recorded.trans ⟨Within.mono (.of_logsOnly (rs := lossRegs) h) (List.subset_append_right _ _), by rw [h.rest]⟩ (recorded_trace _ 0 g)

/-! ### Links that leave -/

/-- Between two states lanes have left or gone on with their drain: none has come UP (R422). -/
structure LanesLeft (s t : State) : Prop where
  within : Within linkRegs s t
  pwr : t.pwr = s.pwr
  stopped : t.net.stopped = s.net.stopped
  lanes : ∀ k, s.lnSt k ≠ 4 → t.lnSt k ≠ 4

namespace LanesLeft

variable {s a t : State}

theorem refl (s : State) : LanesLeft s s := ⟨.refl s, rfl, rfl, fun _ h => h⟩

theorem trans (h : LanesLeft s a) (g : LanesLeft a t) : LanesLeft s t :=
  ⟨h.within.trans g.within, g.pwr.trans h.pwr, g.stopped.trans h.stopped, fun k hk => g.lanes k (h.lanes k hk)⟩

theorem ite {c : Prop} {_ : Decidable c} (h : LanesLeft s a) (g : LanesLeft s t) : LanesLeft s (if c then a else t) := by split <;> assumption

theorem of_net (hr : t = { s with net := t.net }) (hs : t.net.stopped = s.net.stopped) : LanesLeft s t :=
  ⟨.hidden (.refl s) (by rw [hr]) (by rw [hr]) (by rw [hr]), by rw [hr], hs, fun k hk => by rw [hr]; exact hk⟩

end LanesLeft

theorem stopped_send (s : State) (ln ty : Nat) (f : Frame) : (s.send ln ty f).net.stopped = s.net.stopped := by
  unfold State.send State.transmit State.owedSent
  dsimp only
  split
  · split <;> rfl
  · rfl

theorem lanesLeft_send (s : State) (ln ty : Nat) (f : Frame) : LanesLeft s (s.send ln ty f) := .of_net (send_rest s ln ty f) (stopped_send s ln ty f)

theorem lanesLeft_setLink (s : State) (ln : Nat) {st : Nat} (h : st % 8 ≠ 4) : LanesLeft s (s.setLink ln st) := by
  have hn := noted_setLink s ln st
  refine ⟨within_setLink s ln st, hn.pwr, by rw [hn.net], fun k hk => ?_⟩
  rw [lnSt_setLink]
  split <;> assumption

theorem lanesLeft_laneDown (s : State) (ln : Nat) : LanesLeft s (s.laneDown ln) :=
  LanesLeft.trans (a := s.clearLane ln) (.of_net rfl rfl) (lanesLeft_setLink _ ln (st := 0) (by decide))

theorem lanesLeft_drainGoes (s : State) (ln : Nat) : LanesLeft s (s.drainGoes ln) := by
  unfold State.drainGoes
  split
  · exact .refl s
  · extract_lets idle frame s1
    have h1 : LanesLeft s s1 := .ite (LanesLeft.trans (a := s.updNet _) (.of_net rfl rfl) (lanesLeft_send _ _ _ _)) (.refl s)
    exact .ite (h1.trans (lanesLeft_laneDown s1 ln)) h1

/-- A lane that drains until a tag. -/
def drainTimed (s : State) (ln : Nat) (g : Tag) : State := s.updNet fun n => { n with drain := n.drain.set 0 ln g }

theorem lanesLeft_drainTimed (s : State) (ln : Nat) (g : Tag) : LanesLeft s (drainTimed s ln g) := .of_net rfl rfl

theorem leaveLink_up {s : State} {ln : Nat} (h : s.lnSt ln = 4) :
    ∃ g, s.leaveLink ln = (drainTimed (s.setLink ln 5) ln g).drainGoes ln := ⟨_, if_pos h⟩

theorem leaveLink_away {s : State} {ln : Nat} (h : s.lnSt ln ≠ 4) : s.leaveLink ln = s := if_neg h

theorem lanesLeft_leaveLink (s : State) (ln : Nat) : LanesLeft s (s.leaveLink ln) := by
  by_cases h : s.lnSt ln = 4
  · obtain ⟨g, hg⟩ := leaveLink_up h
    rw [hg]
    exact ((lanesLeft_setLink s ln (st := 5) (by decide)).trans (lanesLeft_drainTimed _ ln g)).trans (lanesLeft_drainGoes _ ln)
  · rw [leaveLink_away h]
    exact .refl s

/-- A lane that was UP has left (R422). -/
theorem leaveLink_left (s : State) (ln : Nat) : (s.leaveLink ln).lnSt ln ≠ 4 := by
  by_cases h : s.lnSt ln = 4
  · obtain ⟨g, hg⟩ := leaveLink_up h
    have h5 : (s.setLink ln 5).lnSt ln ≠ 4 := by
      rw [lnSt_setLink, if_pos rfl]
      decide
    rw [hg]
    exact (lanesLeft_drainGoes _ ln).lanes ln ((lanesLeft_drainTimed _ ln g).lanes ln h5)
  · rw [leaveLink_away h]
    exact h

/-! ### The start of an entry -/

/-- A sensor supply that the entry turns off (R443). -/
def supplyOut (s : State) (n : Nat) : State := (s.clrb F.PWR_SENS_CTL.en 0 n).sensOff n

def suppliesOut (s : State) : State := (List.range 8).foldl supplyOut s

/-- The first `n` channels marked to stop. -/
def channelsStopped (n : Nat) (s : State) : State := (List.range n).foldl (fun s k => s.dmaStop k) s

def transfersStopped (s : State) : State := (channelsStopped 32 s).updNet fun n => { n with stopped := true }

def linksLeave (s : State) : State := (List.range 4).foldl (fun s ln => s.leaveLink ln) s

theorem entryStarts_eq (s : State) : s.entryStarts = linksLeave (transfersStopped (suppliesOut s.slotsOff)) := rfl

/-- Between two states supplies of sensors have been turned off. -/
structure SuppliesOut (s t : State) : Prop where
  within : Within [.PWR_SENS_CTL, .PWR_SENS_STAT] s t
  pwr : t.pwr = { s.pwr with sens := t.pwr.sens }

theorem suppliesOut_supplyOut (s : State) (n : Nat) : SuppliesOut s (supplyOut s n) := by
  have h : Within [.PWR_SENS_CTL, .PWR_SENS_STAT] s
      (((s.clrb F.PWR_SENS_CTL.en 0 n).clrb F.PWR_SENS_STAT.on 0 n).clrb F.PWR_SENS_STAT.ilim 0 n) := .put (.put (.put (.refl s)))
  exact ⟨h.hidden, rfl⟩

theorem SuppliesOut.trans {s a t : State} (h : SuppliesOut s a) (g : SuppliesOut a t) : SuppliesOut s t :=
  ⟨h.within.trans g.within, by rw [g.pwr, h.pwr]⟩

theorem suppliesOut_all (s : State) : SuppliesOut s (suppliesOut s) :=
  List.foldlRecOn _ _ ⟨.refl s, rfl⟩ fun _ hu n _ => hu.trans (suppliesOut_supplyOut _ n)

theorem suppliesOut_en (s : State) {n : Nat} (hn : n < 8) : (suppliesOut s).bit F.PWR_SENS_CTL.en 0 n = false := by
  have own (u : State) (k : Nat) : (supplyOut u k).bit F.PWR_SENS_CTL.en 0 n = (u.clrb F.PWR_SENS_CTL.en 0 k).bit F.PWR_SENS_CTL.en 0 n := by
    show (((u.clrb F.PWR_SENS_CTL.en 0 k).clrb F.PWR_SENS_STAT.on 0 k).clrb F.PWR_SENS_STAT.ilim 0 k).bit F.PWR_SENS_CTL.en 0 n = _
    rw [bit_clrb_apart _ (by decide), bit_clrb_apart _ (by decide)]
  refine foldl_establishes (f := supplyOut) (Q := fun u => u.bit F.PWR_SENS_CTL.en 0 n = false) (fun u k hu => ?_) (x := n) (fun u => ?_)
    (List.mem_range.mpr hn) s
  · rw [own, bit_clrb u _ _ _ _ _ _ _ (by decide), hu, Bool.and_false]
  · rw [own, bit_clrb_self _ _ _ _ _ (by decide)]

theorem channelsStopped_rest (n : Nat) (s : State) : channelsStopped n s = { s with dma := (channelsStopped n s).dma } :=
  List.foldlRecOn (motive := fun u : State => u = { s with dma := u.dma }) _ _ rfl fun u hu k _ => by
    unfold State.dmaStop
    split
    · rw [hu]
    · exact hu

theorem transfersStopped_rest (s : State) : transfersStopped s = { s with dma := (transfersStopped s).dma, net := { s.net with stopped := true } } := by
  have h := channelsStopped_rest 32 s
  unfold transfersStopped
  generalize channelsStopped 32 s = u at h
  rw [h]
  rfl

theorem stopped_transfersStopped (s : State) : (transfersStopped s).net.stopped = true := rfl

theorem lanesLeft_linksLeave (s : State) : LanesLeft s (linksLeave s) :=
  List.foldlRecOn _ _ (.refl s) fun _ hu ln _ => hu.trans (lanesLeft_leaveLink _ ln)

theorem linksLeave_left (s : State) {ln : Nat} (h : ln < 4) : (linksLeave s).lnSt ln ≠ 4 :=
  foldl_establishes (f := fun s ln => s.leaveLink ln) (Q := fun u => u.lnSt ln ≠ 4) (fun u k hu => (lanesLeft_leaveLink u k).lanes ln hu)
    (fun u => leaveLink_left u ln) (List.mem_range.mpr h) s

/-- What the start of an entry leaves (R58, R422, R443). -/
structure EntryStarted (s t : State) : Prop where
  busy : t.bit F.PWR_STAT.busy = s.bit F.PWR_STAT.busy
  pwr : t.pwr = { s.pwr with sens := t.pwr.sens }
  stopped : t.net.stopped = true
  slots : ∀ n < 64, t.slotArmed n = false
  supplies : ∀ n < 8, t.bit F.PWR_SENS_CTL.en 0 n = false
  lanes : ∀ ln < 4, t.lnSt ln ≠ 4
  mem : t.mem = s.mem
  banks : t.banks = s.banks

theorem entryStarted_entryStarts (s : State) : EntryStarted s s.entryStarts := by
  have hs := slotsMoved_slotsOff s
  have hp := suppliesOut_all s.slotsOff
  have ht := transfersStopped_rest (suppliesOut s.slotsOff)
  have hl := lanesLeft_linksLeave (transfersStopped (suppliesOut s.slotsOff))
  have hnil : Within [] (suppliesOut s.slotsOff) (transfersStopped (suppliesOut s.slotsOff)) :=
    .hidden (.refl _) (by rw [ht]) (by rw [ht]) (by rw [ht])
  have htl : Within linkRegs (suppliesOut s.slotsOff) s.entryStarts := (hnil.mono (List.nil_subset _)).trans hl.within
  have hpwr : (transfersStopped (suppliesOut s.slotsOff)).pwr = (suppliesOut s.slotsOff).pwr := by rw [ht]
  have hspwr : s.slotsOff.pwr = s.pwr := by rw [hs.rest]
  refine ⟨?_, ?_, ?_, fun n hn => ?_, fun n hn => ?_, fun ln hln => linksLeave_left _ hln, ?_, ?_⟩
  · rw [htl.bit_eq F.PWR_STAT.busy, hp.within.bit_eq F.PWR_STAT.busy, hs.within.bit_eq F.PWR_STAT.busy]
  · have h : s.entryStarts.pwr = (suppliesOut s.slotsOff).pwr := hl.pwr.trans hpwr
    rw [h, ← hspwr]
    exact hp.pwr
  · rw [entryStarts_eq, hl.stopped]
    exact stopped_transfersStopped _
  · rw [State.slotArmed, htl.bit_eq F.TIME_ACT_CTL.arm, hp.within.bit_eq F.TIME_ACT_CTL.arm]
    exact slotsOff_slot s hn
  · rw [htl.bit_eq F.PWR_SENS_CTL.en]
    exact suppliesOut_en _ hn
  · exact htl.mem.trans (hp.within.mem.trans hs.within.mem)
  · exact htl.banks.trans (hp.within.banks.trans hs.within.banks)

end Sys2Proof.Proofs
end

section
/-! POINT_OF_NO_RETURN (R20, R43, R44, R422, R443): the drains that are left, the cores, the clocks and the timebase. -/

namespace Sys2Proof.Proofs
open Sys2Proof Sys2Proof.Machine Sys2Proof.Laws

/-! ### The deadline of a drain -/

/-- Between two states before the point of no return drains have ended: memory and the power state are as before. -/
structure DrainsEnded (s t : State) : Prop where
  mem : t.mem = s.mem
  pwr : t.pwr = s.pwr

namespace DrainsEnded

variable {s a t : State}

theorem refl (s : State) : DrainsEnded s s := ⟨rfl, rfl⟩

theorem trans (h : DrainsEnded s a) (g : DrainsEnded a t) : DrainsEnded s t := ⟨g.mem.trans h.mem, g.pwr.trans h.pwr⟩

end DrainsEnded

theorem drainsEnded_dmaHalt {s : State} (h : s.pwr.past = false) (k cause : Nat) (g : Tag) : DrainsEnded s (s.dmaHalt k cause g) := by
  have hw : Within alarmRegs (dmaHalted s k cause g) (s.dmaHalt k cause g) := within_alarm _ _ _ _ _ _ _ _
  have hn : Noted (dmaHalted s k cause g) (s.dmaHalt k cause g) := noted_alarm (s := dmaHalted s k cause g) h _ _ _ _ _ _ _
  exact ⟨hw.mem, hn.pwr⟩

/-- A channel that no longer waits for a response. -/
def answerDropped (s : State) (k : Nat) : State := { s with dma := s.dma.upd {} k fun d => { d with wait := 0, wlen := 0 } }

/-- The end of a request of a lane that goes down: a load's or store's answer, the halt of a channel, the status of a slot (R416). -/
theorem drainsEnded_reqEnd {s : State} (h : s.pwr.past = false) (r : OutReq) (status : Nat) (g : Tag) : DrainsEnded s (s.reqEnd r status g) := by
  unfold State.reqEnd
  split
  · exact ⟨rfl, rfl⟩
  · exact ⟨rfl, rfl⟩
  · next k _ => exact DrainsEnded.trans (a := answerDropped s k) ⟨rfl, rfl⟩ (drainsEnded_dmaHalt (s := answerDropped s k) h k 3 g)
  · exact ⟨rfl, rfl⟩

theorem drainsEnded_endLane {s : State} (h : s.pwr.past = false) (ln status : Nat) (g : Tag) : DrainsEnded s (s.endLane ln status g) := by
  unfold State.endLane
  refine List.foldlRecOn _ _ (motive := fun u => DrainsEnded s u) ⟨rfl, rfl⟩ fun u hu r _ => ?_
  exact hu.trans (drainsEnded_reqEnd (by rw [hu.pwr]; exact h) r status g)

theorem LanesLeft.ended {s t : State} (h : LanesLeft s t) : DrainsEnded s t := ⟨h.within.mem, h.pwr⟩

theorem drainsEnded_drainLate {s : State} (h : s.pwr.past = false) (ln : Nat) : DrainsEnded s (s.drainLate ln) := by
  have he := drainsEnded_endLane h ln 7 (s.net.drain.get 0 ln)
  have hs : DrainsEnded s ((s.endLane ln 7 (s.net.drain.get 0 ln)).setb F.FAB_LSTAT.drain_to 0 ln) := ⟨he.mem, he.pwr⟩
  exact hs.trans (lanesLeft_laneDown _ ln).ended

theorem drainsEnded_drainOver {s : State} (h : s.pwr.past = false) (ln : Nat) : DrainsEnded s (s.drainOver ln) := by
  unfold State.drainOver State.atTag
  split
  · dsimp only
    split
    · exact .refl s
    · have hr : DrainsEnded s (s.run (s.ticksTo (s.net.drain.get 0 ln))) := ⟨mem_run _ _, pwr_run _ _⟩
      exact hr.trans (drainsEnded_drainLate (by rw [pwr_run]; exact h) ln)
  · exact .refl s

/-- Links that still drain do so until their deadline (R422). -/
def drainsOver (s : State) : State := (List.range 4).foldl (fun s ln => s.drainOver ln) s

theorem drainsEnded_drainsOver {s : State} (h : s.pwr.past = false) : DrainsEnded s (drainsOver s) :=
  List.foldlRecOn _ _ (motive := fun u => DrainsEnded s u) (.refl s) fun u hu ln _ => hu.trans (drainsEnded_drainOver (by rw [hu.pwr]; exact h) ln)

/-- Where no link drains, nothing is left to end. -/
theorem drainsOver_none {s : State} (h : ∀ ln < 4, s.lnSt ln ≠ 5) : drainsOver s = s :=
  List.foldlRecOn _ _ (motive := fun u => u = s) rfl fun u hu ln hln => by
    rw [hu]
    exact if_neg (h ln (List.mem_range.mp hln))

/-! ### Cores, clocks and supplies -/

def coresHeld (s : State) : State := (List.range 12).foldl (fun s c => s.updCore c fun k => { k with held := true }) s

theorem coresHeld_rest (s : State) : coresHeld s = { s with cores := (coresHeld s).cores } :=
  List.foldlRecOn (motive := fun u : State => u = { s with cores := u.cores }) _ _ rfl fun u hu c _ => by
    unfold State.updCore State.setCore
    rw [hu]

theorem coresHeld_held (s : State) {c : Nat} (h : c < 12) : ((coresHeld s).core c).held = true := by
  have core (u : State) (d : Nat) : ((u.updCore d fun k => { k with held := true }).core c) = if c = d then { u.core d with held := true } else u.core c :=
    SMap_get_set _ _ _ _ _
  refine foldl_establishes (f := fun (s : State) c => s.updCore c fun k => { k with held := true }) (Q := fun u => (u.core c).held = true) (fun u d hu => ?_)
    (x := c) (fun u => ?_) (List.mem_range.mpr h) s
  · rw [core]
    split
    · rfl
    · exact hu
  · rw [core, if_pos rfl]

/-- Between two states clocks and supplies have gone off: the always-on time, memory, cores and the entry's target are as before. -/
structure Stilled (s t : State) : Prop where
  mem : t.mem = s.mem
  cores : t.cores = s.cores
  clk : t.clk = { s.clk with lost := t.clk.lost }
  target : t.pwr.target = s.pwr.target

namespace Stilled

variable {s a t : State}

theorem refl (s : State) : Stilled s s := ⟨rfl, rfl, rfl, rfl⟩

theorem trans (h : Stilled s a) (g : Stilled a t) : Stilled s t :=
  ⟨g.mem.trans h.mem, g.cores.trans h.cores, by rw [g.clk, h.clk], g.target.trans h.target⟩

theorem ite {c : Prop} {_ : Decidable c} (h : Stilled s a) (g : Stilled s t) : Stilled s (if c then a else t) := by split <;> assumption

theorem foldl {α : Type} {f : State → α → State} (hf : ∀ u x, Stilled u (f u x)) (xs : List α) (s : State) : Stilled s (xs.foldl f s) :=
  List.foldlRecOn xs f (.refl s) fun u hu x _ => hu.trans (hf u x)

end Stilled

theorem stilled_traceLost (s : State) : Stilled s s.traceLost := by
  have h := traceLost_keeps s
  exact ⟨by rw [h], by rw [h], by rw [h], by rw [h]⟩

theorem stilled_sensOff (s : State) (n : Nat) : Stilled s (s.sensOff n) := ⟨rfl, rfl, rfl, rfl⟩

theorem stilled_updSet (s : State) (p x : Nat) (f : Machine.PSet → Machine.PSet) : Stilled s (s.updSet p x f) := ⟨rfl, rfl, rfl, rfl⟩

theorem stilled_clkGone (s : State) (p : Nat) : Stilled s (((s.clrb F.PWM_STATUS.clk_ok p).setb F.PWM_STATUS.clk_lost p).updClk fun k =>
    if s.bit F.PWM_STATUS.clk_ok p then { k with lost := k.lost.set (0, 0) p (s.now, s.clk.raw) } else k) := by
  refine ⟨rfl, rfl, ?_, rfl⟩
  unfold State.updClk
  dsimp only
  split <;> rfl

theorem stilled_clockGone (s : State) (p : Nat) : Stilled s (clockGone s p) :=
  (stilled_clkGone s p).trans (.foldl (fun u x => stilled_updSet u p x _) _ _)

theorem stilled_clockLost (s : State) : Stilled s s.clockLost := by
  rw [clockLost_eq]
  exact .foldl stilled_clockGone _ s

theorem stilled_spiAbort (s : State) : Stilled s s.spiAbort := by
  unfold State.spiAbort
  refine .foldl (fun u k => .ite ?_ (.refl u)) _ s
  exact ⟨rfl, rfl, rfl, rfl⟩

/-- The trace that is not retained is lost (R452). -/
def traceKept (s : State) (g : Nat) : State := if g = 2 && s.bit F.PWR_DEN_CTL.trc_ret then coresHeld s else (coresHeld s).traceLost

def sensorsOff (s : State) : State := (List.range 8).foldl (fun s n => s.sensOff n) s

/-- Both die links down, past the point of no return. -/
def linksCut (s : State) : State := ((s.clrb F.PWR_D2D_STATUS.fld_up).clrb F.PWR_D2D_STATUS.mem_up).updPwr fun k => { k with past := true }

/-- Everything still, but for the timebase. -/
def allStill (s : State) (g : Nat) : State := (sensorsOff (traceKept s g)).clockLost.spiAbort

theorem pointOfNoReturn_eq {s : State} {g : Nat} (ht : s.pwr.target = some g) (hp : s.pwr.past = false) :
    s.pointOfNoReturn = (linksCut (allStill (drainsOver s) g)).aoHold := by
  unfold State.pointOfNoReturn
  rw [ht]
  dsimp only
  rw [if_neg (ne_true_of_eq_false hp)]
  rfl

theorem pointOfNoReturn_away {s : State} (h : s.pwr.target = none ∨ s.pwr.past = true) : s.pointOfNoReturn = s := by
  unfold State.pointOfNoReturn
  rcases h with h | h
  · rw [h]
  · split
    · rfl
    · exact if_pos h

theorem stilled_allStill (s : State) (g : Nat) : Stilled (coresHeld s) (allStill s g) := by
  have h1 : Stilled (coresHeld s) (traceKept s g) := .ite (.refl _) (stilled_traceLost _)
  have h2 : Stilled (traceKept s g) (sensorsOff (traceKept s g)) := .foldl stilled_sensOff _ _
  exact ((h1.trans h2).trans (stilled_clockLost _)).trans (stilled_spiAbort _)

/-- What the point of no return leaves (R20, R43, R44, R443). -/
structure PastReturn (s t : State) : Prop where
  past : t.pwr.past = true
  target : t.pwr.target = s.pwr.target
  cores : ∀ c < 12, (t.core c).held = true
  field : t.fieldUp = false
  memory : t.memUp = false
  clocks : ∀ p < 4, ClkAbsent t p
  mem : t.mem = s.mem
  stopped : t.clk.stopped = true
  raw : t.clk.raw = s.clk.raw
  tag : t.clk.tag = s.clk.aoTag + BitVec.ofNat 64 (16 * aoTicks (max s.clk.aoCycles (64 * (s.clk.raw - s.clk.aoAt) / 1953125)))

theorem linksCut_bits (s : State) : (linksCut s).bit F.PWR_D2D_STATUS.fld_up = false ∧ (linksCut s).bit F.PWR_D2D_STATUS.mem_up = false ∧
    Within [.PWR_D2D_STATUS] s (linksCut s) := by
  have hw : Within [.PWR_D2D_STATUS] s ((s.clrb F.PWR_D2D_STATUS.fld_up).clrb F.PWR_D2D_STATUS.mem_up) := .put (.put (.refl s))
  have hf : ((s.clrb F.PWR_D2D_STATUS.fld_up).clrb F.PWR_D2D_STATUS.mem_up).bit F.PWR_D2D_STATUS.fld_up = false := by
    rw [bit_clrb_apart _ (by decide), bit_clrb_self _ _ _ _ _ (by decide)]
  exact ⟨hf, bit_clrb_self (s.clrb F.PWR_D2D_STATUS.fld_up) F.PWR_D2D_STATUS.mem_up 0 0 0 (by decide), hw.hidden⟩

/-- The clock stopped, before the shadow's tag is taken. -/
def clockStopped (s : State) : State := s.updClk fun k => { k with stopped := true }

theorem clockStopped_clk (s : State) : (clockStopped s).clk = { s.clk with stopped := true } := rfl

theorem aoHold_eq (s : State) : s.aoHold = (clockStopped s).aoCount s.clk.raw := rfl

theorem aoCount_keeps (s : State) (q : Nat) : (s.aoCount q).pwr = s.pwr ∧ (s.aoCount q).cores = s.cores ∧ Within [] s (s.aoCount q) ∧
    (s.aoCount q).clk = { s.clk with raw := q, aoCycles := max s.clk.aoCycles (s.aoSince q), tag := s.aoTagAt (max s.clk.aoCycles (s.aoSince q)) } :=
  ⟨rfl, rfl, .hidden (.refl s), rfl⟩

/-- The stop of the timebase: its tag is that of the shadow's present cycle (R43, R44). -/
theorem aoHold_keeps (s : State) :
    s.aoHold.pwr = s.pwr ∧ s.aoHold.cores = s.cores ∧ Within [] s s.aoHold ∧ s.aoHold.clk.stopped = true ∧ s.aoHold.clk.raw = s.clk.raw ∧
      s.aoHold.clk.tag = s.clk.aoTag + BitVec.ofNat 64 (16 * aoTicks (max s.clk.aoCycles (64 * (s.clk.raw - s.clk.aoAt) / 1953125))) := by
  obtain ⟨hp, hc, hw, hk⟩ := aoCount_keeps (clockStopped s) s.clk.raw
  have hs : Within [] s (clockStopped s) := .updClk (.refl s)
  rw [aoHold_eq, hk]
  refine ⟨hp, hc, hs.trans hw, rfl, rfl, ?_⟩
  rw [State.aoTagAt, State.aoSince, clockStopped_clk]

/-- The cut of the links leaves clocks, cores and the entry's target. -/
theorem linksCut_keeps (s : State) :
    (linksCut s).pwr = { s.pwr with past := true } ∧ (linksCut s).cores = s.cores ∧ (linksCut s).clk = s.clk := ⟨rfl, rfl, rfl⟩

theorem clkAbsent_within {rs : List RegName} {s t : State} {p : Nat} (h : Within rs s t) (hs : ClkAbsent s p) (hr : RegName.PWM_STATUS ∉ rs := by decide) :
    ClkAbsent t p := by
  rw [ClkAbsent, h.bit_eq F.PWM_STATUS.clk_ok _ _ _ hr, h.bit_eq F.PWM_STATUS.clk_lost _ _ _ hr]
  exact hs

theorem clkAbsent_allStill (s : State) (g : Nat) {p : Nat} (hp : p < 4) : ClkAbsent (allStill s g) p :=
  clkAbsent_within (within_spiAbort _) (clkAbsent_clockLost _ hp)

theorem core_of_cores {s t : State} (h : t.cores = s.cores) (c : Nat) : t.core c = s.core c := by
  unfold State.core
  rw [h]

theorem pastReturn_linksCut (s : State) (g : Nat) : PastReturn s (linksCut (allStill s g)).aoHold := by
  have hr := coresHeld_rest s
  have hs := stilled_allStill s g
  have habsent (p : Nat) (hp : p < 4) := clkAbsent_allStill s g hp
  generalize allStill s g = u at hs habsent
  obtain ⟨hf, hm, hw⟩ := linksCut_bits u
  obtain ⟨hupwr, hucores, huclk⟩ := linksCut_keeps u
  obtain ⟨hpwr, hcores, hnil, hstop, hraw, htag⟩ := aoHold_keeps (linksCut u)
  have hclk : (linksCut u).clk = { s.clk with lost := u.clk.lost } := by rw [huclk, hs.clk, hr]
  refine ⟨by rw [hpwr, hupwr], ?_, fun c hc => ?_, (hnil.bit_eq F.PWR_D2D_STATUS.fld_up 0 0 0).trans hf,
    (hnil.bit_eq F.PWR_D2D_STATUS.mem_up 0 0 0).trans hm,
    fun p hp => clkAbsent_within hnil (clkAbsent_within hw (habsent p hp)), ?_, hstop, ?_, ?_⟩
  · rw [hpwr, hupwr]
    show u.pwr.target = _
    rw [hs.target, hr]
  · rw [core_of_cores (hcores.trans (hucores.trans hs.cores))]
    exact coresHeld_held s hc
  · rw [hnil.mem, hw.mem, hs.mem, hr]
  · rw [hraw, hclk]
  · rw [htag, hclk]

end Sys2Proof.Proofs
end

section
/-! DEN and KENNEL (R443) by who writes PWR_CMD and whether the entry is allowed, and the commands of Den and Kennel together. -/

namespace Sys2Proof.Proofs
open Sys2Proof Sys2Proof.Machine Sys2Proof.Laws

/-! ### The command of an entry -/

/-- The power domain of an entry that has been accepted. -/
def entryAccepted (s : State) (g : Nat) : State :=
  ((s.setb F.PWR_STAT.busy).clrb F.PWR_AO_CAUSE.den_to).updPwr fun k => { k with target := some g, past := false, wake := false }

/-- An entry that has been accepted and recorded. -/
def entryNoted (s : State) (g : Nat) : State := (entryAccepted s g).pwrRecord 0 g false 0 0 s.now

theorem pwrCmd_allowed {s : State} {c : Nat} (hc : c = 1 ∨ c = 2) (h : s.denOk = true) :
    s.pwrCmd c = (((entryNoted s (c + 1)).run 1).entryStarts, .ok) := by
  unfold State.pwrCmd
  rw [if_neg (by omega), if_neg (by rcases hc with rfl | rfl <;> simp [h])]
  rfl

theorem pwrCmd_refused {s : State} {c : Nat} (hc : c = 1 ∨ c = 2) (h : s.denOk = false) : s.pwrCmd c = (s.setb F.PWR_STAT.refused, .err) := by
  unfold State.pwrCmd
  rw [if_neg (by omega), if_pos (by simp [h])]

theorem denOk_mode {s : State} (h : s.denOk = true) : s.pwr.mode = 1 := by
  rw [State.denOk, Bool.and_eq_true] at h
  exact beq_iff_eq.mp h.2

/-- An accepted entry as it stands a tick after the command (R443). -/
theorem entryNoted_run (s : State) (g : Nat) :
    ((entryNoted s g).run 1).bit F.PWR_STAT.busy = true ∧ ((entryNoted s g).run 1).pwr = { s.pwr with target := some g, past := false, wake := false } ∧
      ((entryNoted s g).run 1).mem = s.mem ∧ ((entryNoted s g).run 1).banks = s.banks := by
  have hr := recorded_pwrRecord (entryAccepted s g) 0 g false 0 0 s.now
  have hbusy : (entryAccepted s g).bit F.PWR_STAT.busy = true := by
    have h : ((s.setb F.PWR_STAT.busy).clrb F.PWR_AO_CAUSE.den_to).bit F.PWR_STAT.busy = true := by
      rw [bit_clrb_apart _ (by decide), bit_setb_self _ _ _ _ _ (by decide)]
    exact h
  have hrun : ((entryNoted s g).run 1).bit F.PWR_STAT.busy = (entryNoted s g).bit F.PWR_STAT.busy :=
    congrArg (F.PWR_STAT.busy.get · != 0) (rd_run _ _ _ _ _ _ (by decide))
  have hpwr : (entryNoted s g).pwr = (entryAccepted s g).pwr := by rw [entryNoted, hr.rest]
  refine ⟨hrun.trans ((hr.within.bit_eq F.PWR_STAT.busy 0 0 0).trans hbusy), ?_, ?_, ?_⟩
  · rw [pwr_run, hpwr]
    rfl
  · rw [mem_run]
    exact hr.within.mem
  · rw [banks_run]
    exact hr.within.banks

/-- What an entry leaves once it has started (R58, R422, R443). -/
structure Entering (s t : State) (g : Nat) : Prop where
  started : EntryStarted ((entryNoted s g).run 1) t
  busy : t.bit F.PWR_STAT.busy = true
  pwr : t.pwr = { s.pwr with target := some g, past := false, wake := false, sens := t.pwr.sens }
  mem : t.mem = s.mem
  banks : t.banks = s.banks

theorem entering (s : State) (g : Nat) : Entering s ((entryNoted s g).run 1).entryStarts g := by
  obtain ⟨hbusy, hpwr, hmem, hbanks⟩ := entryNoted_run s g
  have h := entryStarted_entryStarts ((entryNoted s g).run 1)
  refine ⟨h, h.busy.trans hbusy, ?_, h.mem.trans hmem, h.banks.trans hbanks⟩
  have hp := h.pwr
  rw [hpwr] at hp
  exact hp

theorem isT0_mapped {q : Req} (h : q.isT0 = true) : q.mapped = true := by
  rw [Req.isT0, Bool.and_eq_true] at h
  exact h.1

theorem pwrCmd_write {s : State} {m : Master} {v : Word} {c : Nat} (hv : F.PWR_CMD.cmd.get v = c) (b : Nat) :
    s.regWrite (s.req m) ⟨.PWR_CMD, 0, 0, 0⟩ v b = s.pwrCmd c := by
  rw [← hv]
  rfl

section
variable {s : State} {m : Master} {v : Word} {c : Nat} (hv : F.PWR_CMD.cmd.get v = c) (hc : c = 1 ∨ c = 2)
include hv hc

/-- T0's command where the entry is allowed. -/
theorem entry_allowed (h0 : (s.req m).isT0 = true) (hd : s.denOk = true) :
    s.putAt m .PWR_CMD v = ok ((entryNoted s (c + 1)).run 1).entryStarts :=
  putAt_ok rfl (by decide) (by decide) (isT0_mapped h0) ((guard_t0_wr _).1 h0) fun b => (pwrCmd_write hv b).trans (pwrCmd_allowed hc hd)

/-- T0's command where the entry is not allowed. -/
theorem entry_refused (h0 : (s.req m).isT0 = true) (hd : s.denOk = false) : s.putAt m .PWR_CMD v = errResp (s.setb F.PWR_STAT.refused) :=
  putAt_err rfl (by decide) (by decide) (isT0_mapped h0) ((guard_t0_wr _).1 h0) fun b => (pwrCmd_write hv b).trans (pwrCmd_refused hc hd)

end

/-- The command of another tenant is refused and entered in its log (R363, R372). -/
theorem entry_notT0 {s : State} {m : Master} (h0 : (s.req m).isT0 = false) (v : Word) :
    ∃ t, s.putAt m .PWR_CMD v = .next t ∧ t.resp.err = true ∧ KeepsRegs s t lossRegs ∧
      t = { s with regs := t.regs, log := t.log, resp := t.resp } := by
  cases hm : (s.req m).mapped with
  | false =>
    unfold State.putAt
    rw [cmdWrite_unmapped hm]
    exact errResp_of_logsOnly (logsOnly_violation _ _ _ _ _ _ _ _)
  | true =>
    have hg : (s.guard (s.req m) ⟨.PWR_CMD, 0, 0, 0⟩).wr = .viol 6 := if_neg (ne_true_of_eq_false h0)
    obtain ⟨a, ha⟩ := putAt_viol (v := v) rfl (by decide) (by decide) hm hg
    rw [ha]
    exact errResp_of_logsOnly (logsOnly_violation _ _ _ _ _ _ _ _)

/-! ### The obligation -/

theorem accepts_denLeft {s t : State} (h : DenLeft s t) : Accepts (ok t) fun t => t.pwr.mode = 3 ∧ t.clk = (denInstant s).clk ∧
    t.bit F.PWR_AO_CAUSE.den_to = true ∧ t.lsh = {} ∧ t.pwr.fldEn = false ∧ t.pwr.coreEn = false ∧ t.mem = s.mem :=
  accepts_ok ⟨h.mode, h.clk, h.cause, h.lsh, h.fldEn, h.coreEn, h.mem⟩

/-- Settles O51: the entry by its command, the point of no return, the completed entry, the timeout of Den and the wake timer. -/
theorem lowPowerStatesAreEnteredAndLeft : Obligations.LowPowerStatesAreEnteredAndLeft := by
  intro s
  refine ⟨fun m e he => ?command, fun h => noEvent_ok (pointOfNoReturn_away h), fun h => noEvent_ok (lowPowerIn_away h),
    fun g ht => ⟨fun hp => ?past, fun hp => ?complete⟩, ?timeout, fun h => noEvent_ok (wakeTimer_away h), fun hr hm hp ht => ?timer⟩
  case command =>
    obtain ⟨c, v, hc, hv, hg, hx⟩ : ∃ c v, (c = 1 ∨ c = 2) ∧ F.PWR_CMD.cmd.get v = c ∧ e.2 = c + 1 ∧ exec e.1 s = s.putAt m .PWR_CMD v := by
      simp only [List.mem_cons, List.not_mem_nil, or_false] at he
      rcases he with rfl | rfl
      · exact ⟨1, 1, .inl rfl, by decide, rfl, rfl⟩
      · exact ⟨2, 2, .inr rfl, by decide, rfl, rfl⟩
    rw [hx, hg]
    refine ⟨fun h0 hd => ?_, fun h0 hd => ?_, fun h0 => entry_notT0 h0 v⟩
    · have h := entering s (c + 1)
      rw [entry_allowed hv hc h0 hd]
      generalize ((entryNoted s (c + 1)).run 1).entryStarts = t at h
      exact accepts_ok ⟨h.busy, congrArg PwrSt.target h.pwr, congrArg PwrSt.past h.pwr, congrArg PwrSt.wake h.pwr,
        (congrArg PwrSt.mode h.pwr).trans (denOk_mode hd), h.started.stopped, fun n => h.started.slots n n.isLt, fun n => h.started.supplies n n.isLt,
        fun ln => h.started.lanes ln ln.isLt, h.mem, h.banks⟩
    · have hw : Within [.PWR_STAT] s (s.setb F.PWR_STAT.refused) := .put (.refl s)
      exact ⟨_, entry_refused hv hc h0 hd, rfl, bit_setb_self s F.PWR_STAT.refused 0 0 0 (by decide), hw.regs, rfl⟩
  case past =>
    have hd := drainsEnded_drainsOver hp
    have h := pastReturn_linksCut (drainsOver s) g
    show Accepts (ok s.pointOfNoReturn) _
    rw [pointOfNoReturn_eq ht hp]
    generalize (linksCut (allStill (drainsOver s) g)).aoHold = t at h
    refine accepts_ok ⟨h.past, h.target.trans (by rw [hd.pwr, ht]), fun c => h.cores c c.isLt, h.field, h.memory, fun p => h.clocks p p.isLt, h.stopped,
      h.mem.trans hd.mem, fun hl => ?_⟩
    have hraw := h.raw
    have htag := h.tag
    rw [drainsOver_none fun ln hln => hl ⟨ln, hln⟩] at hraw htag
    exact ⟨hraw, htag⟩
  case complete =>
    obtain ⟨hw, hexit, hsleep⟩ := lowPowerIn_woken ht hp
    have hl := lowEntered_keeps s g
    refine accepts_ok ⟨?_, hw.mode.trans hl.mode, hw.target.trans hl.target, fun h3 => hw.lsh.trans (hl.kennel h3).1,
      fun hk => ⟨hw.wake (hl.wake.trans hk), hexit hk⟩, fun hk hlv => ?_, hw.mem.trans hl.within.mem⟩
    · exact (congrArg (F.PWR_STAT.busy.get · != 0) (hw.regs .PWR_STAT 0 0 0 (by decide))).trans hl.busy
    · have h := hsleep hk fun n hn => hlv ⟨n, hn⟩
      rw [h]
      exact ⟨hl.wake.trans hk, fun h3 => ⟨(hl.kennel h3).2.1, (hl.kennel h3).2.2⟩, hl.den⟩
  case timeout =>
    intro due
    refine ⟨fun h => noEvent_ok (denTimeout_away h), fun h => ?_⟩
    show Accepts (ok s.denTimeout) _
    rw [denTimeout_due h]
    exact accepts_denLeft (denLeft_taken (kennelTaken (denInstant s)))
  case timer =>
    have hpwr : (timerInstant s).pwr = s.pwr := pwr_run _ _
    have hw := woken_wakePast (timerInstant s) 8
    obtain ⟨hwake, hfld, hregs⟩ := wakePast_exits (s := timerInstant s) (by rw [hpwr]; exact ht) 8
    obtain ⟨htimer, hfirst⟩ := wakeHeld_regs (timerInstant s)
    have hfrom : wakeFrom (timerInstant s) % 4 = s.pwr.mode := by
      rw [wakeFrom, hpwr, ht, if_neg (by decide)]
      omega
    have rd (r : RegName) (p i j : Nat) : ((timerInstant s).wakePast 8).rd r p i j = (wakeHeld (timerInstant s) 8).rd r p i j := by
      unfold State.rd
      rw [hregs]
    show Accepts (ok s.wakeTimer) _
    rw [wakeTimer_wakes hr hm hp ht]
    refine accepts_ok ⟨(congrArg (F.PWR_AO_CAUSE.timer.get · != 0) (rd .PWR_AO_CAUSE 0 0 0)).trans htimer, hwake, hfld, fun hk => ?_, hw.regs,
      by rw [hw.rest]; rfl⟩
    obtain ⟨hf, htag⟩ := hfirst (by rw [hpwr]; exact hk)
    exact ⟨((congrArg F.PWR_AO_CAUSE.from_.get (rd .PWR_AO_CAUSE 0 0 0)).trans hf).trans hfrom,
      (congrArg₂ Tag.ofWords (rd .PWR_AO_TAG_HI 0 0 0) (rd .PWR_AO_TAG_LO 0 0 0)).trans htag⟩

end Sys2Proof.Proofs
end

section
/-! What a change of a pack's acquisition leaves (R63 to R94): the listed registers and the acquisition alone change; a sample-and-hold, a
sigma-delta channel and a resolver channel read after a write; and what a SAR's choice of its next sample does to the sample-and-holds. -/

namespace Sys2Proof.Proofs
open Sys2Proof Sys2Proof.Machine Sys2Proof.Laws

/-! ### Footprints -/

/-- Between two states only the listed registers and the acquisition have changed. -/
structure Acquired (rs : List RegName) (s t : State) : Prop where
  rest : t = { s with regs := t.regs, acqs := t.acqs }
  regs : KeepsRegs s t rs

namespace Acquired

variable {rs : List RegName} {s a t : State}

theorem refl (s : State) : Acquired rs s s := ⟨rfl, fun _ _ _ _ _ => rfl⟩

theorem trans (h : Acquired rs s a) (g : Acquired rs a t) : Acquired rs s t :=
  ⟨by rw [g.rest, h.rest], fun r p i j hr => (g.regs r p i j hr).trans (h.regs r p i j hr)⟩

theorem mono {rs' : List RegName} (h : Acquired rs s t) (hs : rs ⊆ rs' := by decide) : Acquired rs' s t :=
  ⟨h.rest, fun r p i j hr => h.regs r p i j fun hm => hr (hs hm)⟩

theorem within (h : Acquired rs s t) : Within rs s t := ⟨by rw [h.rest], by rw [h.rest], h.regs⟩

/-- A change of listed registers and of the acquisition follows. -/
theorem next (h : Acquired rs s a) (g : Within rs a t) (hr : t = { a with regs := t.regs, acqs := t.acqs } := by rfl) : Acquired rs s t :=
  h.trans ⟨hr, g.regs⟩

theorem put (h : Acquired rs s a) {f : Fld} {n p i j : Nat} (hr : f.r ∈ rs := by decide) : Acquired rs s (a.put f n p i j) :=
  h.next (.put (.refl a) hr)

theorem putNbit (h : Acquired rs s a) {r : RegName} {n p i j : Nat} {b : Bool} (hr : r ∈ rs := by decide) :
    Acquired rs s (a.putNbit r n b p i j) := h.next (.putNbit (.refl a) hr)

theorem wr (h : Acquired rs s a) {r : RegName} {v : Word} {p i j : Nat} (hr : r ∈ rs := by decide) : Acquired rs s (a.wr r v p i j) :=
  h.next (.wr (.refl a) hr)

theorem setPair (h : Acquired rs s a) {lo hi : RegName} {g : Tag} {p i j : Nat} (hl : lo ∈ rs := by decide) (hh : hi ∈ rs := by decide) :
    Acquired rs s (a.setPair lo hi g p i j) := h.next (.setPair (.refl a) hl hh)

theorem ite {c : Prop} {_ : Decidable c} (h : Acquired rs s a) (g : Acquired rs s t) : Acquired rs s (if c then a else t) := by
  split <;> assumption

theorem inc (h : Acquired rs s a) {f : Fld} {p i j : Nat} (hr : f.r ∈ rs := by decide) : Acquired rs s (a.inc f p i j) := by
  unfold State.inc
  split <;> exact h.put hr

theorem setIf (h : Acquired rs s a) {c : Bool} {f : Fld} {p i j : Nat} (hr : f.r ∈ rs := by decide) : Acquired rs s (a.setIf c f p i j) :=
  (h.put hr).ite h

theorem updAcq (h : Acquired rs s a) {p : Nat} {f : Acq → Acq} : Acquired rs s (a.updAcq p f) := h.next (.hidden (.refl a))

theorem clk (h : Acquired rs s t) : t.clk = s.clk := by rw [h.rest]
theorem was (h : Acquired rs s t) : t.was = s.was := by rw [h.rest]
theorem pset (h : Acquired rs s t) (p x : Nat) : t.pset p x = s.pset p x := by rw [h.rest]; rfl

/-- An unlisted register held at the start of the tick what it held there. -/
theorem rdWas_eq (h : Acquired rs s t) {r : RegName} (hr : r ∉ rs) (p i j : Nat) : t.rdWas r p i j = s.rdWas r p i j := by
  unfold State.rdWas
  rw [h.was, h.clk, h.regs r p i j hr]

theorem fWas_eq (h : Acquired rs s t) {g : Fld} (hg : g.r ∉ rs) (p i j : Nat) : t.fWas g p i j = s.fWas g p i j :=
  congrArg g.get (h.rdWas_eq hg p i j)

theorem f_eq (h : Acquired rs s t) {g : Fld} (hg : g.r ∉ rs) (p i j : Nat) : t.f g p i j = s.f g p i j := congrArg g.get (h.regs g.r p i j hg)

theorem bit_eq (h : Acquired rs s t) {g : Fld} (hg : g.r ∉ rs) (p i j : Nat) : t.bit g p i j = s.bit g p i j :=
  congrArg (· != 0) (h.f_eq hg p i j)

end Acquired

/-! ### The acquisition read after a change -/

theorem acq_updAcq (s : State) (p : Nat) (f : Acq → Acq) : (s.updAcq p f).acq p = f (s.acq p) := by
  simp [State.acq, State.updAcq]

theorem acq_of_acqs {s t : State} (h : t.acqs = s.acqs) (p : Nat) : t.acq p = s.acq p := by
  rw [State.acq, State.acq, h]

theorem sh_setSh (s : State) (p h : Nat) (k : Hold) (i : Nat) : (s.setSh p h k).sh p i = if i = h then k else s.sh p i := by
  simp [State.sh, State.setSh, acq_updAcq]

theorem rsvc_setRsvc (s : State) (p r : Nat) (k : Rsv) : (s.setRsvc p r k).rsvc p r = k := by
  simp [State.rsvc, State.setRsvc, acq_updAcq]

theorem sdmc_setSdmc (s : State) (p n : Nat) (k : Sdm) : (s.setSdmc p n k).sdmc p n = k := by
  simp [State.sdmc, State.setSdmc, acq_updAcq]

theorem sh_of_hold {s t : State} {p : Nat} (h : (t.acq p).hold = (s.acq p).hold) (i : Nat) : t.sh p i = s.sh p i := by
  rw [State.sh, State.sh, h]

/-! ### Sample-and-holds of a pack -/

/-- Between two states only the sample-and-holds of a pack and its ADC_STATUS have changed. -/
structure HoldsMoved (p : Nat) (s t : State) : Prop where
  acquired : Acquired [.ADC_STATUS] s t
  acq : t.acq p = { s.acq p with hold := (t.acq p).hold }

namespace HoldsMoved

variable {p : Nat} {s a t : State}

theorem refl (s : State) : HoldsMoved p s s := ⟨.refl s, rfl⟩

theorem trans (h : HoldsMoved p s a) (g : HoldsMoved p a t) : HoldsMoved p s t := ⟨h.acquired.trans g.acquired, by rw [g.acq, h.acq]⟩

theorem setSh (h : HoldsMoved p s a) {i : Nat} {k : Hold} : HoldsMoved p s (a.setSh p i k) :=
  h.trans ⟨.updAcq (.refl a), by rw [State.setSh, acq_updAcq]⟩

theorem sarBusy (h : HoldsMoved p s a) : HoldsMoved p s (a.sarBusy p) := h.trans ⟨.put (.refl a), rfl⟩

theorem out (h : HoldsMoved p s t) : (t.acq p).out = (s.acq p).out := by rw [h.acq]
theorem entHeld (h : HoldsMoved p s t) : (t.acq p).entHeld = (s.acq p).entHeld := by rw [h.acq]
theorem rsvc (h : HoldsMoved p s t) (r : Nat) : t.rsvc p r = s.rsvc p r := by rw [State.rsvc, h.acq]; rfl

end HoldsMoved

theorem sh_sarBusy (s : State) (p i : Nat) : (s.sarBusy p).sh p i = s.sh p i := rfl

/-! ### The next sample of a SAR -/

/-- A sample-and-hold as the SAR's choice finds it: a conversion that would start in this tick has not begun (R69). -/
def backed (s : State) (q : Hold) : Hold := if q.st = 2 ∧ q.at_ = s.clk.raw then { q with st := 1 } else q

/-- Both sample-and-holds of SAR `k` as its choice finds them. -/
def sarBacked (s : State) (p k : Nat) : State :=
  (s.setSh p (2 * k) (backed s (s.sh p (2 * k)))).setSh p (2 * k + 1) (backed s (s.sh p (2 * k + 1)))

/-- SAR `k` takes the sample of sample-and-hold `h`. -/
def sarTakes (s : State) (p k h : Nat) : State :=
  ((sarBacked s p k).setSh p h { backed s (s.sh p h) with st := 2, at_ := s.clk.raw }).sarBusy p

/-- Two sample-and-holds with the same sample, that differ at most in the SAR's stage; one is free where the other is. -/
structure SameHold (q q' : Hold) : Prop where
  rest : q' = { q with st := q'.st, at_ := q'.at_ }
  idle : q'.st = 0 ↔ q.st = 0

theorem SameHold.refl (q : Hold) : SameHold q q := ⟨rfl, Iff.rfl⟩

theorem SameHold.trans {q a q' : Hold} (h : SameHold q a) (g : SameHold a q') : SameHold q q' :=
  ⟨by rw [g.rest, h.rest], g.idle.trans h.idle⟩

theorem sameHold_backed (s : State) (q : Hold) : SameHold q (backed s q) := by
  unfold backed
  split
  · next h => exact ⟨rfl, by simp [h.1]⟩
  · exact .refl q

theorem backed_waiting (s : State) {q : Hold} (h : q.st = 1) : backed s q = q := if_neg (by omega)

/-- A SAR takes the sample of one of its sample-and-holds that wait, or none where it converts or none waits (R69). -/
theorem sarNext_cases (s : State) (p k : Nat) :
    (s.sarNext p k = s.sarBusy p ∧ ∀ h i, h / 2 = k → i / 2 = k → h ≠ i → (s.sh p i).st = 0 → (s.sh p h).st ≠ 1) ∨
      ∃ h, h / 2 = k ∧ (backed s (s.sh p h)).st = 1 ∧ s.sarNext p k = sarTakes s p k h := by
  have even : 2 * k / 2 = k := by omega
  have odd : (2 * k + 1) / 2 = k := by omega
  have none (hx : (backed s (s.sh p (2 * k))).st = 1 → (backed s (s.sh p (2 * k + 1))).st ≠ 0)
      (hy : (backed s (s.sh p (2 * k + 1))).st = 1 → (backed s (s.sh p (2 * k))).st ≠ 0) :
      ∀ h i, h / 2 = k → i / 2 = k → h ≠ i → (s.sh p i).st = 0 → (s.sh p h).st ≠ 1 := by
    intro h i hh hi hne h0 h1
    rw [← (sameHold_backed s _).idle] at h0
    rw [← backed_waiting s h1] at h1
    obtain ⟨rfl, rfl⟩ | ⟨rfl, rfl⟩ : h = 2 * k ∧ i = 2 * k + 1 ∨ h = 2 * k + 1 ∧ i = 2 * k := by omega
    · exact hx h1 h0
    · exact hy h1 h0
  unfold State.sarNext
  extract_lets back x y start yFirst
  change (x.st = 1 → y.st ≠ 0) → (y.st = 1 → x.st ≠ 0) → _ at none
  split
  · next h =>
    simp only [Bool.or_eq_true, decide_eq_true_eq] at h
    exact .inl ⟨rfl, none (by omega) (by omega)⟩
  · split
    · next h =>
      simp only [Bool.and_eq_true, decide_eq_true_eq] at h
      split
      · exact .inr ⟨2 * k + 1, odd, h.2, rfl⟩
      · exact .inr ⟨2 * k, even, h.1, rfl⟩
    · split
      · next h => exact .inr ⟨2 * k, even, h, rfl⟩
      · next hx =>
        split
        · next hy => exact .inr ⟨2 * k + 1, odd, hy, rfl⟩
        · next hy => exact .inl ⟨rfl, none (fun h => absurd h hx) (fun h => absurd h hy)⟩

theorem sh_sarBacked (s : State) (p k i : Nat) : (sarBacked s p k).sh p i = if i / 2 = k then backed s (s.sh p i) else s.sh p i := by
  simp only [sarBacked, sh_setSh]
  by_cases h1 : i = 2 * k + 1
  · rw [if_pos h1, if_pos (by omega), h1]
  · by_cases h0 : i = 2 * k
    · rw [if_neg h1, if_pos h0, if_pos (by omega), h0]
    · rw [if_neg h1, if_neg h0, if_neg (by omega)]

theorem sh_sarTakes (s : State) (p k h i : Nat) : (sarTakes s p k h).sh p i =
    if i = h then { backed s (s.sh p h) with st := 2, at_ := s.clk.raw } else (sarBacked s p k).sh p i := by
  rw [sarTakes, sh_sarBusy, sh_setSh]

theorem holdsMoved_sarNext (s : State) (p k : Nat) : HoldsMoved p s (s.sarNext p k) := by
  rcases sarNext_cases s p k with ⟨he, -⟩ | ⟨h, -, -, he⟩ <;> rw [he]
  · exact .sarBusy (.refl s)
  · exact .sarBusy (.setSh (.setSh (.setSh (.refl s))))

/-- Every sample-and-hold keeps its sample when a SAR takes its next one. -/
theorem sameHold_sarNext (s : State) (p k i : Nat) : SameHold (s.sh p i) ((s.sarNext p k).sh p i) := by
  rcases sarNext_cases s p k with ⟨he, -⟩ | ⟨h, -, hst, he⟩ <;> rw [he]
  · exact .refl _
  · rw [sh_sarTakes]
    split
    · next hi =>
      have hb := sameHold_backed s (s.sh p h)
      rw [hi]
      refine hb.trans ⟨rfl, ?_⟩
      rw [hst]
      exact ⟨nofun, nofun⟩
    · rw [sh_sarBacked]
      split
      · exact sameHold_backed s _
      · exact .refl _

/-- A SAR with nothing else takes the sample that waits at once (R64). -/
theorem sarNext_alone {s : State} {p h : Nat} (h1 : (s.sh p h).st = 1) (h0 : ∀ i, i / 2 = h / 2 → i ≠ h → (s.sh p i).st = 0) :
    ((s.sarNext p (h / 2)).sh p h).st = 2 := by
  rcases sarNext_cases s p (h / 2) with ⟨-, hn⟩ | ⟨i, hi, hst, he⟩
  · let i := if h % 2 = 0 then h + 1 else h - 1
    have hi : i / 2 = h / 2 ∧ i ≠ h := by
      unfold i
      split <;> omega
    exact absurd h1 (hn h i rfl hi.1 hi.2.symm (h0 i hi.1 hi.2))
  · have hih : i = h := by
      by_contra hne
      rw [(sameHold_backed s _).idle.mpr (h0 i hi hne)] at hst
      cases hst
    rw [he, sh_sarTakes, if_pos hih.symm]

end Sys2Proof.Proofs
end

section
/-! SAMPLE_HOLD (R63 to R70, R73): the hold that an entry takes or misses at its instant. -/

namespace Sys2Proof.Proofs
open Sys2Proof Sys2Proof.Machine Sys2Proof.Laws

/-! ### Bits of a register -/

theorem getLsbD_eq_get (r : RegName) (n : Nat) (w : Word) : w.getLsbD n = ((⟨r, n, 1⟩ : Fld).get w == 1) := by
  simp [Fld.get, BitVec.getLsbD, Nat.testBit_eq_decide_div_mod_eq, Nat.shiftRight_eq_div_pow]
  rfl

/-- A bit of a register reads as it was written. -/
theorem nbit_putNbit_self (s : State) (r : RegName) {n : Nat} (h : n < 32) (b : Bool) (p i j : Nat) :
    (s.putNbit r n b p i j).nbit r n p i j = b := by
  have hf : (s.putNbit r n b p i j).f ⟨r, n, 1⟩ p i j = b.toNat % 2 ^ 1 := f_put_self s ⟨r, n, 1⟩ _ _ _ _ h
  rw [State.nbit, getLsbD_eq_get r]
  change ((s.putNbit r n b p i j).f ⟨r, n, 1⟩ p i j == 1) = b
  rw [hf]
  cases b <;> rfl

theorem nbit_within {rs : List RegName} {s t : State} (h : Within rs s t) (r : RegName) (n p i j : Nat) (hr : r ∉ rs := by decide) :
    t.nbit r n p i j = s.nbit r n p i j := congrArg (·.getLsbD n) (h.regs r p i j hr)

/-! ### Missed holds -/

/-- The registers in which the acquisition notes and counts what happens to holds and samples. -/
abbrev noteRegs : List RegName := [.ADC_EVT_0, .ADC_EVT_1, .ADC_CNT]

/-- A missed hold of entry `e` is noted and counted (R70). -/
structure HoldMissed (s t : State) (p e : Nat) : Prop where
  noted : t.nbit .ADC_EVT_1 e p = true
  counted : t.f F.ADC_CNT.miss_cnt p = min (s.f F.ADC_CNT.miss_cnt p + 1) (2 ^ F.ADC_CNT.miss_cnt.w - 1)

/-- What a missed hold leaves: its event and count, and the repeat of the previous sample on its way (R70). -/
theorem missHold_keeps (s : State) (p e n : Nat) : Acquired [.ADC_EVT_1, .ADC_CNT] s (s.missHold p e n) ∧
    (s.missHold p e n).acq p = { s.acq p with out := ((s.missHold p e n).acq p).out } := by
  have h : Acquired [.ADC_EVT_1, .ADC_CNT] s ((s.putNbit .ADC_EVT_1 e true p).inc F.ADC_CNT.miss_cnt p) := .inc (.putNbit (.refl s))
  have hq : ((s.putNbit .ADC_EVT_1 e true p).inc F.ADC_CNT.miss_cnt p).acq p = s.acq p := by
    unfold State.inc
    split <;> rfl
  unfold State.missHold
  extract_lets s1
  split
  · exact ⟨h.updAcq, by rw [acq_updAcq, hq]⟩
  · exact ⟨h, by rw [hq]⟩

theorem holdMissed_missHold (s : State) {p e : Nat} (n : Nat) (he : e < 32) : HoldMissed s (s.missHold p e n) p e := by
  let s0 := s.putNbit .ADC_EVT_1 e true p
  have hn : s0.nbit .ADC_EVT_1 e p = true := nbit_putNbit_self s .ADC_EVT_1 he true p 0 0
  have hc : s0.f F.ADC_CNT.miss_cnt p = s.f F.ADC_CNT.miss_cnt p := (Within.putNbit (.refl s) : Within [.ADC_EVT_1] s s0).f_eq _ _ _ _
  have h1 : HoldMissed s (s0.inc F.ADC_CNT.miss_cnt p) p e :=
    ⟨(nbit_within (.inc (.refl s0) : Within [.ADC_CNT] s0 _) .ADC_EVT_1 e p 0 0).trans hn,
      hc ▸ f_inc_self s0 F.ADC_CNT.miss_cnt p 0 0 (by decide)⟩
  unfold State.missHold
  extract_lets s1
  split
  · exact ⟨h1.noted, h1.counted⟩
  · exact h1

theorem HoldMissed.trans {s a t : State} {p e : Nat} (h : HoldMissed s a p e) (g : Acquired [.ADC_STATUS] a t) : HoldMissed s t p e :=
  ⟨(nbit_within g.within .ADC_EVT_1 e p 0 0).trans h.noted, (g.f_eq (g := F.ADC_CNT.miss_cnt) (by decide) p 0 0).trans h.counted⟩

theorem HoldMissed.of_acqs {s a t : State} {p e : Nat} (h : HoldMissed a t p e) (g : Acquired [] s a) : HoldMissed s t p e :=
  ⟨h.noted, by rw [h.counted, g.f_eq (by decide)]⟩

/-! ### The sample of a hold -/

/-- The sample-and-hold of an entry. -/
abbrev entSh (s : State) (p e : Nat) : Nat := s.f F.ADC_ENT_CTL.sh p e

/-- The input of an entry. -/
abbrev entIn (s : State) (p e : Nat) : Nat := s.f F.ADC_ENT_CTL.input p e

/-- The sample-and-hold of entry `e` has taken the sample of its input at the present tick, with the gain and calibration then (R64, R73). -/
structure Sampled (s t : State) (p e : Nat) : Prop where
  n : (t.sh p (entSh s p e)).smp.n = entIn s p e
  tag : (t.sh p (entSh s p e)).smp.tag = s.now
  gain : (t.sh p (entSh s p e)).smp.gain = s.holdGain p (entIn s p e)
  cal : (t.sh p (entSh s p e)).smp.cal = s.calAdc p (entIn s p e)
  rsv : (t.sh p (entSh s p e)).rsv = none
  ent : (t.sh p (entSh s p e)).ent = e

/-- A sample-and-hold that has just taken entry `e`'s sample. -/
def heldSample (s : State) (p e : Nat) : Hold :=
  { st := 1
    smp := { n := entIn s p e, diff := s.diffOf p (entIn s p e), gain := s.holdGain p (entIn s p e), tag := s.now, cal := s.calAdc p (entIn s p e),
             due := (s.srcTime p (s.f F.ADC_ENT_CTL.src p e)).1 +
               min (s.f F.ADC_ENT_DUE.due p e) (s.srcTime p (s.f F.ADC_ENT_CTL.src p e)).2,
             axis := s.ainAxis p (entIn s p e), leIn := s.f F.ADC_ROUTE.le_in p (entIn s p e) }
    auto := s.fWas F.ADC_IN.auto p (entIn s p e) != 0
    recon := s.fWas F.ADC_IN.recon_en p (entIn s p e) != 0
    gmin := min (s.fWas F.ADC_IN.gmin p (entIn s p e)) (s.fWas F.ADC_IN.gmax p (entIn s p e))
    ent := e
    heldAt := s.clk.raw }

theorem takeHold_eq (s : State) (p e : Nat) :
    s.takeHold p e = (s.setSh p (entSh s p e) (heldSample s p e)).sarNext p (entSh s p e / 2) := rfl

theorem sh_holdSet (s : State) (p e : Nat) : (s.setSh p (entSh s p e) (heldSample s p e)).sh p (entSh s p e) = heldSample s p e := by
  rw [sh_setSh, if_pos rfl]

theorem holdsMoved_takeHold (s : State) (p e : Nat) : HoldsMoved p s (s.takeHold p e) :=
  .trans (.setSh (.refl s)) (holdsMoved_sarNext _ p _)

theorem sampled_takeHold (s : State) (p e : Nat) : Sampled s (s.takeHold p e) p e := by
  have h := sameHold_sarNext (s.setSh p (entSh s p e) (heldSample s p e)) p (entSh s p e / 2) (entSh s p e)
  rw [sh_holdSet, ← takeHold_eq] at h
  constructor <;> rw [h.rest] <;> rfl

/-- With nothing else to convert, the SAR starts at once (R64). -/
theorem takeHold_starts {s : State} {p e : Nat} (h0 : (s.sh p (2 * (entSh s p e / 2))).st = 0) (h1 : (s.sh p (2 * (entSh s p e / 2) + 1)).st = 0) :
    ((s.takeHold p e).sh p (entSh s p e)).st = 2 := by
  rw [takeHold_eq]
  refine sarNext_alone (by rw [sh_holdSet]; rfl) fun i hi hne => ?_
  rw [sh_setSh, if_neg hne]
  obtain rfl | rfl : i = 2 * (entSh s p e / 2) ∨ i = 2 * (entSh s p e / 2) + 1 := by omega
  · exact h0
  · exact h1

section
variable {s a t : State} {p : Nat} (h : Acquired noteRegs s a)
include h

theorem holdGain_noted (hg : (a.acq p).gain = (s.acq p).gain) (n : Nat) : a.holdGain p n = s.holdGain p n := by
  rw [State.holdGain, State.holdGain, h.fWas_eq (by decide), h.fWas_eq (by decide), hg]

theorem ainAxis_noted (n : Nat) : a.ainAxis p n = s.ainAxis p n := by
  unfold State.ainAxis State.negSide State.diffOf
  rw [h.bit_eq (by decide), h.f_eq (by decide)]

theorem gaitCal_noted (x i : Nat) : a.gaitCal p x i = s.gaitCal p x i := by
  unfold State.gaitCal
  rw [h.f_eq (by decide), h.f_eq (by decide)]

/-- The calibration of an input is that of its own registers and of its axis's gait (R73, R78). -/
theorem calAdc_noted (n : Nat) : a.calAdc p n = s.calAdc p n := by
  unfold State.calAdc
  rw [ainAxis_noted h]
  simp (disch := decide) only [gaitCal_noted h, h.f_eq, h.fWas_eq, h.rdWas_eq]

/-- What notes and counts alone have changed does not count for a sample. -/
theorem Sampled.of_noted {e : Nat} (hg : (a.acq p).gain = (s.acq p).gain) (k : Sampled a t p e) : Sampled s t p e := by
  obtain ⟨hn, htag, hgain, hcal, hrsv, hent⟩ := k
  have hs : entSh a p e = entSh s p e := h.f_eq (by decide) _ _ _
  have hi : entIn a p e = entIn s p e := h.f_eq (by decide) _ _ _
  rw [hs] at hn htag hgain hcal hrsv hent
  rw [hi] at hn hgain hcal
  rw [holdGain_noted h hg] at hgain
  rw [calAdc_noted h] at hcal
  rw [State.now, h.clk] at htag
  exact ⟨hn, htag, hgain, hcal, hrsv, hent⟩

end

/-! ### A hold at its instant -/

/-- The hold of the present period of its source is taken or missed. -/
def holdMarked (s : State) (p e : Nat) : State :=
  s.updAcq p fun q => { q with entHeld := q.entHeld.set 0 e ((s.srcTime p (s.f F.ADC_ENT_CTL.src p e)).1 + 1) }

/-- The sample-and-hold of entry `e` has been taken in this tick by an entry of a higher number (R70). -/
abbrev entBeats (s : State) (p e : Nat) : Prop :=
  (s.sh p (entSh s p e)).st ≠ 0 ∧ (s.sh p (entSh s p e)).rsv.isNone ∧ (s.sh p (entSh s p e)).heldAt = s.clk.raw ∧ e < (s.sh p (entSh s p e)).ent

/-- SAMPLE_HOLD at its instant: a hold that its entry misses, one that a hold of the same tick gives way to, or one that is taken (R70). -/
def holdNow (s : State) (p e : Nat) : State :=
  let k := s.sh p (entSh s p e)
  if s.shRsv p (entSh s p e) then (holdMarked s p e).missHold p e (entIn s p e)
  else if k.st ≠ 0 ∧ k.rsv.isNone ∧ k.heldAt = s.clk.raw ∧ e < k.ent then ((holdMarked s p e).missHold p k.ent k.smp.n).takeHold p e
  else if s.shBusy p (entSh s p e) then (holdMarked s p e).missHold p e (entIn s p e)
  else (holdMarked s p e).takeHold p e

/-- What a hold that is taken, missed or given way to leaves beside the sample-and-hold (R67). -/
structure HoldDone (rs : List RegName) (s t : State) (p e : Nat) : Prop where
  marked : SMap.get 0 (t.acq p).entHeld e = (s.srcTime p (s.f F.ADC_ENT_CTL.src p e)).1 + 1
  acquired : Acquired rs s t

theorem acquired_holdMarked (s : State) (p e : Nat) : Acquired [] s (holdMarked s p e) := .updAcq (.refl s)

theorem acq_holdMarked (s : State) (p e : Nat) : (holdMarked s p e).acq p =
    { s.acq p with entHeld := (s.acq p).entHeld.set 0 e ((s.srcTime p (s.f F.ADC_ENT_CTL.src p e)).1 + 1) } := acq_updAcq s p _

theorem sh_holdMarked (s : State) (p e i : Nat) : (holdMarked s p e).sh p i = s.sh p i := sh_of_hold (by rw [acq_holdMarked]) i

theorem HoldDone.of_entHeld {rs : List RegName} {s t : State} {p e : Nat} (h : (t.acq p).entHeld = ((holdMarked s p e).acq p).entHeld)
    (ha : Acquired rs s t) : HoldDone rs s t p e :=
  ⟨by rw [h, acq_holdMarked, SMap_get_set, if_pos rfl], ha⟩

section
variable {s : State} {p e : Nat}

/-- A free sample-and-hold takes the entry's sample (R64, R70). -/
theorem holdNow_free (hr : s.shRsv p (entSh s p e) = false) (hb : s.shBusy p (entSh s p e) = false) :
    Sampled s (holdNow s p e) p e ∧ HoldDone [.ADC_STATUS] s (holdNow s p e) p e ∧
      ((s.sh p (2 * (entSh s p e / 2))).st = 0 → (s.sh p (2 * (entSh s p e / 2) + 1)).st = 0 → ((holdNow s p e).sh p (entSh s p e)).st = 2) := by
  have h0 : (s.sh p (entSh s p e)).st = 0 := by
    rw [State.shBusy, Bool.or_eq_false_iff] at hb
    simpa using hb.1
  have he : holdNow s p e = (holdMarked s p e).takeHold p e := by
    unfold holdNow
    dsimp only
    rw [if_neg (ne_true_of_eq_false hr), if_neg fun h => h.1 h0, if_neg (ne_true_of_eq_false hb)]
  have hm := acquired_holdMarked s p e
  have hq := acq_holdMarked s p e
  have ht := holdsMoved_takeHold (holdMarked s p e) p e
  rw [he]
  refine ⟨(sampled_takeHold _ p e).of_noted hm.mono (by rw [hq]), .of_entHeld ht.entHeld (hm.mono.trans ht.acquired), fun hx hy => ?_⟩
  exact takeHold_starts (s := holdMarked s p e) (by rwa [sh_holdMarked]) (by rwa [sh_holdMarked])

/-- On a busy or reserved sample-and-hold the entry misses its hold (R70, R92). -/
theorem holdNow_misses (he : e < 32) (h : s.shRsv p (entSh s p e) = true ∨ s.shBusy p (entSh s p e) = true ∧ ¬ entBeats s p e) :
    HoldMissed s (holdNow s p e) p e ∧ HoldDone [.ADC_EVT_1, .ADC_CNT] s (holdNow s p e) p e ∧
      (holdNow s p e).sh p (entSh s p e) = s.sh p (entSh s p e) := by
  have hx : holdNow s p e = (holdMarked s p e).missHold p e (entIn s p e) := by
    unfold holdNow
    dsimp only
    rcases h with h | ⟨hb, hn⟩
    · rw [if_pos h]
    · by_cases hr : s.shRsv p (entSh s p e) = true
      · rw [if_pos hr]
      · rw [if_neg hr, if_neg hn, if_pos hb]
  obtain ⟨hk, hq⟩ := missHold_keeps (holdMarked s p e) p e (entIn s p e)
  have hm := acquired_holdMarked s p e
  rw [hx]
  exact ⟨(holdMissed_missHold _ _ he).of_acqs hm, .of_entHeld (by rw [hq]) (hm.mono.trans hk),
    (sh_of_hold (s := holdMarked s p e) (by rw [hq]) _).trans (sh_holdMarked s p e _)⟩

/-- Of two entries on one sample-and-hold in one tick the lower-numbered one takes it, and the other misses its hold (R70). -/
theorem holdNow_beats (hr : s.shRsv p (entSh s p e) = false) (hb : entBeats s p e) (hk : (s.sh p (entSh s p e)).ent < 32) :
    Sampled s (holdNow s p e) p e ∧ HoldDone [.ADC_STATUS, .ADC_EVT_1, .ADC_CNT] s (holdNow s p e) p e ∧
      HoldMissed s (holdNow s p e) p (s.sh p (entSh s p e)).ent := by
  let k := s.sh p (entSh s p e)
  have he : holdNow s p e = ((holdMarked s p e).missHold p k.ent k.smp.n).takeHold p e := by
    unfold holdNow
    dsimp only
    rw [if_neg (ne_true_of_eq_false hr), if_pos hb]
  obtain ⟨hmk, hq⟩ := missHold_keeps (holdMarked s p e) p k.ent k.smp.n
  have hm := acquired_holdMarked s p e
  have ha := hm.mono.trans hmk
  have ht := holdsMoved_takeHold ((holdMarked s p e).missHold p k.ent k.smp.n) p e
  rw [he]
  refine ⟨(sampled_takeHold _ p e).of_noted ha.mono (by rw [hq, acq_holdMarked]), .of_entHeld (by rw [ht.entHeld, hq]) (ha.mono.trans ht.acquired.mono),
    ((holdMissed_missHold _ _ hk).of_acqs hm).trans ht.acquired⟩

/-- A hold whose instant is past does not occur; one that is due is taken or missed at its instant (R67, log 1). -/
theorem sampleHold_due {due : Nat} (hd : s.holdDue p e = some due) :
    (due < s.clk.raw → s.sampleHold p e = s) ∧ (s.clk.raw ≤ due → s.sampleHold p e = holdNow (s.run (due - s.clk.raw)) p e) := by
  unfold State.sampleHold
  rw [hd]
  exact ⟨fun h => if_pos h, fun h => if_neg (Nat.not_lt.mpr h)⟩

theorem sampleHold_none (hd : s.holdDue p e = none) : s.sampleHold p e = s := by
  unfold State.sampleHold
  rw [hd]

end

end Sys2Proof.Proofs
end

section
/-! CONVERSION_END and RECONVERSION_END (R66, R73 to R76): the final result that leaves for the router, and the reconversion. -/

namespace Sys2Proof.Proofs
open Sys2Proof Sys2Proof.Machine Sys2Proof.Laws

/-! ### The conditions of a reconversion -/

section
variable {s t : State} {p : Nat} (h : Acquired noteRegs s t)
include h

theorem srcTime_noted (x : Nat) : t.srcTime p x = s.srcTime p x := by
  unfold State.srcTime
  rw [h.pset]

theorem entHolds_noted (e : Nat) : t.entHolds p e = s.entHolds p e := by
  simp (disch := decide) only [State.entHolds, State.negSide, State.diffOf, h.bit_eq, h.f_eq]

theorem srcNext_noted (x : Nat) : t.srcNext p x = s.srcNext p x := by
  simp (disch := decide) only [State.srcNext, State.baseDue, srcTime_noted h, h.pset, h.bit_eq]

variable (hq : t.acq p = s.acq p)
include hq

theorem entCount_noted (e : Nat) : t.entCount p e = s.entCount p e := by
  simp (disch := decide) only [State.entCount, ainAxis_noted h, h.f_eq, hq]

theorem holdDue_noted (e : Nat) : t.holdDue p e = s.holdDue p e := by
  simp (disch := decide) only [State.holdDue, srcTime_noted h, entHolds_noted h, entCount_noted h hq, h.f_eq, hq]

theorem holdsNext_noted (e : Nat) : t.holdsNext p e = s.holdsNext p e := by
  unfold State.holdsNext State.axSt
  rw [h.f_eq (g := F.ADC_ENT_CTL.input) (by decide), ainAxis_noted h]
  have hs (a : Nat) : t.setOfAxis p a = s.setOfAxis p a := by rw [h.rest]; rfl
  simp (disch := decide) only [entHolds_noted h, entCount_noted h hq, h.f_eq, hq, hs]

theorem entrySoon_noted (k w : Nat) : t.entrySoon p k w = s.entrySoon p k w := by
  unfold State.entrySoon
  rw [h.clk]
  simp (disch := decide) only [holdDue_noted h hq, holdsNext_noted h hq, srcNext_noted h, srcTime_noted h, h.f_eq]

/-- What is noted and counted does not count for a reconversion (R76). -/
theorem reconOk_noted (i : Nat) : t.reconOk p i = s.reconOk p i := by
  have hs (i : Nat) : t.sh p i = s.sh p i := sh_of_hold (by rw [hq]) i
  unfold State.reconOk
  rw [h.clk, hs, hs, entrySoon_noted h hq]

end

/-! ### A final result -/

/-- Sample-and-hold `h` is free and tracks its input again (R70). -/
theorem shFree_keeps (s : State) (p h : Nat) :
    HoldsMoved p s (s.shFree p h) ∧ ((s.shFree p h).sh p h).st = 0 ∧ ((s.shFree p h).sh p h).freeAt = s.clk.raw + 60 := by
  have hk := sameHold_sarNext (s.setSh p h { freeAt := s.clk.raw + 60 }) p (h / 2) h
  rw [sh_setSh, if_pos rfl] at hk
  exact ⟨.trans (.setSh (.refl s)) (holdsMoved_sarNext _ p _), hk.idle.mpr rfl, congrArg Hold.freeAt hk.rest⟩

/-- The next gain of an auto-range input changes that gain, and ADC_STATUS by its clamp (R74). -/
theorem nextGain_keeps (s : State) (p n g : Nat) (diff ovr : Bool) (c : BitVec 16) : Acquired [.ADC_STATUS] s (s.nextGain p n g diff ovr c) ∧
    (s.nextGain p n g diff ovr c).acq p = { s.acq p with gain := ((s.nextGain p n g diff ovr c).acq p).gain } := by
  have hq (b : Bool) (f : Fld) : (s.setIf b f p).acq p = s.acq p := by cases b <;> rfl
  unfold State.nextGain
  dsimp only
  exact ⟨.updAcq (.setIf (.refl s)), by rw [acq_updAcq, hq]⟩

/-- The final result of the sample in sample-and-hold `h`, with its code and flags. -/
def finalSamp (s : State) (p h : Nat) (c : BitVec 16) (fl : Nat) : Samp :=
  { (s.sh p h).smp with raw := codeVal (s.sh p h).smp.diff c, code := c.toNat, flags := fl }

theorem finalSamp_of_sh {s t : State} {p h : Nat} (hs : t.sh p h = s.sh p h) (c : BitVec 16) (fl : Nat) :
    finalSamp t p h c fl = finalSamp s p h c fl := by
  rw [finalSamp, finalSamp, hs]

/-- An entry's final result is on its way, and its sample-and-hold is free (R70, R75, R76). -/
structure EntrySent (rs : List RegName) (s t : State) (p h : Nat) (c : BitVec 16) (fl : Nat) : Prop where
  out : (t.acq p).out = (s.acq p).out ++ [finalSamp s p h c fl]
  free : (t.sh p h).st = 0
  freeAt : (t.sh p h).freeAt = s.clk.raw + 60
  acquired : Acquired rs s t

theorem entrySent_entryDone (s : State) (p h : Nat) (c : BitVec 16) (fl : Nat) : EntrySent [.ADC_STATUS] s (s.entryDone p h c fl) p h c fl := by
  unfold State.entryDone
  extract_lets k m s1 smp
  have h1 : Acquired [.ADC_STATUS] s s1 ∧ (s1.acq p).out = (s.acq p).out := by
    unfold s1
    split
    · obtain ⟨ha, hq⟩ := nextGain_keeps s p m.n m.gain m.diff (endOfScale m.diff c) c
      exact ⟨ha, by rw [hq]⟩
    · exact ⟨.refl s, rfl⟩
  obtain ⟨ha, hout⟩ := h1
  obtain ⟨hf, hst, hat⟩ := shFree_keeps (s1.updAcq p fun q => { q with out := q.out ++ [smp] }) p h
  refine ⟨?_, hst, hat.trans (by rw [updAcq_clk, ha.clk]), ha.updAcq.trans hf.acquired⟩
  rw [hf.out, acq_updAcq, hout]
  rfl

/-! ### The end of a conversion -/

theorem convEnd_none {s : State} {p k : Nat} (h : s.sarAt p k 2 = none) (c : BitVec 16) : s.convEnd p k c = s := by
  unfold State.convEnd
  rw [h]

theorem reconEnd_none {s : State} {p k : Nat} (h : s.sarAt p k 3 = none) (c : BitVec 16) : s.reconEnd p k c = s := by
  unfold State.reconEnd
  rw [h]

theorem convEnd_some {s : State} {p k h : Nat} (hk : s.sarAt p k 2 = some h) (c : BitVec 16) :
    s.convEnd p k c = (s.run ((s.sh p h).at_ + 167 - s.clk.raw)).convDone p h c := by
  unfold State.convEnd
  rw [hk]
  rfl

/-- The end of a reconversion at its instant (R66, R76). -/
theorem reconEnd_some {s u : State} {p k h : Nat} (hk : s.sarAt p k 3 = some h) (hu : u = s.run ((s.sh p h).at_ + 175 - s.clk.raw)) (c : BitVec 16) :
    s.reconEnd p k c = u.entryDone p h c (if endOfScale (u.sh p h).smp.diff c then 7 else 5) := by
  unfold State.reconEnd
  rw [hk, hu]
  rfl

/-- An over-range of an input is noted and counted (R75). -/
def overRanged (s : State) (p n : Nat) : State := (s.putNbit .ADC_EVT_0 n true p).inc F.ADC_CNT.ovr_cnt p

theorem overRanged_keeps (s : State) (p n : Nat) : Acquired [.ADC_EVT_0, .ADC_CNT] s (overRanged s p n) ∧ (overRanged s p n).acqs = s.acqs := by
  refine ⟨.inc (.putNbit (.refl s)), ?_⟩
  unfold overRanged State.inc
  split <;> rfl

/-- What an over-range leaves noted (R75). -/
structure OverRange (s t : State) (p n : Nat) : Prop where
  noted : n < 32 → t.nbit .ADC_EVT_0 n p = true
  counted : t.f F.ADC_CNT.ovr_cnt p = min (s.f F.ADC_CNT.ovr_cnt p + 1) (2 ^ F.ADC_CNT.ovr_cnt.w - 1)

theorem overRange_overRanged (s : State) (p n : Nat) : OverRange s (overRanged s p n) p n := by
  let s0 := s.putNbit .ADC_EVT_0 n true p
  have hc : s0.f F.ADC_CNT.ovr_cnt p = s.f F.ADC_CNT.ovr_cnt p := (Within.putNbit (.refl s) : Within [.ADC_EVT_0] s s0).f_eq _ _ _ _
  exact ⟨fun h => (nbit_within (.inc (.refl s0) : Within [.ADC_CNT] s0 _) .ADC_EVT_0 n p 0 0).trans (nbit_putNbit_self s .ADC_EVT_0 h true p 0 0),
    hc ▸ f_inc_self s0 F.ADC_CNT.ovr_cnt p 0 0 (by decide)⟩

theorem OverRange.trans {s a t : State} {p n : Nat} (h : OverRange s a p n) (g : Acquired [.ADC_STATUS] a t) : OverRange s t p n :=
  ⟨fun hn => (nbit_within g.within .ADC_EVT_0 n p 0 0).trans (h.noted hn), (g.f_eq (by decide) p 0 0).trans h.counted⟩

section
variable {s : State} {p h : Nat} {c : BitVec 16} (hr : (s.sh p h).rsv = none)
include hr

/-- A code within the scale is the final result, without flags (R75). -/
theorem convDone_clean (he : endOfScale (s.sh p h).smp.diff c = false) : s.convDone p h c = s.entryDone p h c 0 := by
  unfold State.convDone
  dsimp only
  rw [hr]
  exact if_neg (ne_true_of_eq_false he)

variable (he : endOfScale (s.sh p h).smp.diff c = true)
include he

/-- An over-range is converted again where it can be, else it is the final result (R75, R76). -/
theorem convDone_over : s.convDone p h c = if s.reconOk p h then
    ((overRanged s p (s.sh p h).smp.n).setSh p h
      { s.sh p h with st := 3, at_ := s.clk.raw, smp := { (s.sh p h).smp with gain := (s.sh p h).smp.gain - 1 } }).sarBusy p
    else (overRanged s p (s.sh p h).smp.n).entryDone p h c 3 := by
  obtain ⟨ha, hq⟩ := overRanged_keeps s p (s.sh p h).smp.n
  unfold State.convDone
  dsimp only
  rw [hr, ← reconOk_noted ha.mono (acq_of_acqs hq p), ← ha.clk]
  exact if_pos he

/-- An over-range that cannot be converted again is sent with ovr and clamp (R75). -/
theorem convDone_clamped (hk : s.reconOk p h = false) :
    EntrySent [.ADC_STATUS, .ADC_EVT_0, .ADC_CNT] s (s.convDone p h c) p h c 3 ∧ OverRange s (s.convDone p h c) p (s.sh p h).smp.n := by
  rw [convDone_over hr he, if_neg (ne_true_of_eq_false hk)]
  obtain ⟨ha, hq⟩ := overRanged_keeps s p (s.sh p h).smp.n
  have hacq := acq_of_acqs hq p
  have hd := entrySent_entryDone (overRanged s p (s.sh p h).smp.n) p h c 3
  refine ⟨⟨?_, hd.free, by rw [hd.freeAt, ha.clk], ha.mono.trans hd.acquired.mono⟩, (overRange_overRanged s p _).trans hd.acquired⟩
  rw [hd.out, finalSamp_of_sh (s := s) (sh_of_hold (by rw [hacq]) h), hacq]

/-- A reconversion starts at the next lower gain (R76). -/
theorem convDone_again (hk : s.reconOk p h = true) :
    ((s.convDone p h c).sh p h).st = 3 ∧ ((s.convDone p h c).sh p h).at_ = s.clk.raw ∧
      ((s.convDone p h c).sh p h).smp.gain = (s.sh p h).smp.gain - 1 ∧ ((s.convDone p h c).acq p).out = (s.acq p).out ∧
      OverRange s (s.convDone p h c) p (s.sh p h).smp.n := by
  rw [convDone_over hr he, if_pos hk]
  obtain ⟨ha, hq⟩ := overRanged_keeps s p (s.sh p h).smp.n
  let k : Hold := { s.sh p h with st := 3, at_ := s.clk.raw, smp := { (s.sh p h).smp with gain := (s.sh p h).smp.gain - 1 } }
  have hm : HoldsMoved p (overRanged s p (s.sh p h).smp.n) (((overRanged s p (s.sh p h).smp.n).setSh p h k).sarBusy p) := .sarBusy (.setSh (.refl _))
  have hs : (((overRanged s p (s.sh p h).smp.n).setSh p h k).sarBusy p).sh p h = k := by
    rw [sh_sarBusy, sh_setSh, if_pos rfl]
  refine ⟨by rw [hs], by rw [hs], by rw [hs], by rw [hm.out, acq_of_acqs hq], (overRange_overRanged s p _).trans hm.acquired⟩

end

end Sys2Proof.Proofs
end

section
/-! SAMPLE_ROUTER_DELIVERY, SELFCAL and SELFCAL_DONE (R70, R71, R77 to R83), and the family's commands that write a register of a pack. -/

namespace Sys2Proof.Proofs
open Sys2Proof Sys2Proof.Machine Sys2Proof.Laws

/-! ### Bits set to a truth value -/

theorem bit_putb_self (s : State) (f : Fld) (b : Bool) (p i j : Nat) (h : f.lo + f.w ≤ 32 ∧ f.w = 1) : (s.putb f b p i j).bit f p i j = b := by
  rw [State.putb, bit_put s f _ _ _ _ _ _ _ h.1, if_pos ⟨rfl, rfl, rfl⟩, h.2]
  cases b <;> rfl

theorem bit_putb_apart (s : State) {f g : Fld} (h : fldsApart f g) (b : Bool) (p i j p' i' j' : Nat) :
    (s.putb f b p i j).bit g p' i' j' = s.bit g p' i' j' := bit_put_apart s h _ _ _ _ _ _ _

/-! ### Input slots of the loop engine -/

theorem ax_updAx (s : State) (p a : Nat) (f : Ax → Ax) : (s.updAx p a f).ax p a = f (s.ax p a) := by
  simp [State.ax, State.updAx]

/-- A run that becomes ready leaves the input slots of its axis, and everything but the engine's view of axes. -/
theorem makeRunReady_keeps (s : State) (p a : Nat) :
    s.makeRunReady p a = { s with axs := (s.makeRunReady p a).axs } ∧ ((s.makeRunReady p a).ax p a).slots = (s.ax p a).slots := by
  unfold State.makeRunReady
  extract_lets k
  split
  · exact ⟨rfl, by rw [ax_updAx]⟩
  · exact ⟨rfl, rfl⟩

/-- A value that reaches an input slot changes the engine's view of the axis alone (R130). -/
theorem slotIn_rest (s : State) (p a i : Nat) (v : Word) (fl : Nat) (g : Tag) :
    s.slotIn p a i v fl g = { s with axs := (s.slotIn p a i v fl g).axs } := by
  unfold State.slotIn
  split
  · rfl
  · extract_lets k x fresh s1
    split
    · exact (makeRunReady_keeps s1 p a).1
    · rfl

/-- An input slot of an axis. -/
abbrev slotAt (s : State) (p a i : Nat) : InSlot := SMap.get {} (s.ax p a).slots i

/-- The slot holds the value with its flags and tag (R130). -/
theorem slotIn_slot (s : State) (p : Nat) {a i : Nat} (ha : a < 6) (hi : i < 16) (v : Word) (fl : Nat) (g : Tag) :
    (slotAt (s.slotIn p a i v fl g) p a i).v = v ∧ (slotAt (s.slotIn p a i v fl g) p a i).flags = fl ∧
      (slotAt (s.slotIn p a i v fl g) p a i).tag = g := by
  unfold State.slotIn
  rw [if_neg (by omega)]
  extract_lets k x fresh s1
  have h1 : slotAt s1 p a i = { x with v := v, flags := fl, tag := g, fresh := fresh } := by
    unfold slotAt s1
    rw [ax_updAx]
    dsimp only
    rw [SMap_get_set, if_pos rfl]
  split
  · have h2 : slotAt (s1.makeRunReady p a) p a i = slotAt s1 p a i := by rw [slotAt, slotAt, (makeRunReady_keeps s1 p a).2]
    rw [h2, h1]
    exact ⟨rfl, rfl, rfl⟩
  · rw [h1]
    exact ⟨rfl, rfl, rfl⟩

/-! ### Result registers -/

/-- The flags of a delivered sample: late and calibration beside those of its conversion (R71, R80). -/
def delivered (fl : Nat) (late x : Bool) : Nat := fl ||| (if late then 16 else 0) ||| (if x then 32 else 0)

theorem delivered_eq {fl : Nat} (h : fl < 8) (late x : Bool) : delivered fl late x = fl + (if late then 16 else 0) + (if x then 32 else 0) := by
  have all : ∀ n : Fin 8, ∀ late x : Bool, delivered n late x = n + (if late then 16 else 0) + (if x then 32 else 0) := by decide
  exact all ⟨fl, h⟩ late x

theorem calibrate_value (m : Samp) : (if m.cal.on then m.calibrate.1 else m.vraw) = m.calibrate.1 := by
  cases h : m.cal.on with
  | true => rfl
  | false => simp [Samp.calibrate, h]

/-- The registers of an input's result group and its notes. -/
abbrev entryRegs : List RegName := [.ADC_RES, .ADC_RES_V, .ADC_RES_TAG_LO, .ADC_RES_TAG_HI, .ADC_EVT_0, .ADC_EVT_2]

/-- The registers of a channel's result group and its notes. -/
abbrev channelRegs : List RegName := [.SDM_RES, .SDM_RES_V, .SDM_RES_TAG_LO, .SDM_RES_TAG_HI, .SDM_STAT]

/-- The result group of an input holds a sample (R65, R82, R83). -/
structure EntryResult (t : State) (p : Nat) (m : Samp) (v : Word) (fl : Nat) : Prop where
  code : t.f F.ADC_RES.code p m.n = m.code % 65536
  range : t.f F.ADC_RES.range p m.n = m.gain % 4
  new : t.bit F.ADC_RES.new p m.n = true
  flags : t.f F.ADC_RES.flags p m.n = fl % 256
  value : t.rd .ADC_RES_V p m.n = v
  tag : t.pairAt .ADC_RES_TAG_LO .ADC_RES_TAG_HI p m.n = m.tag

theorem EntryResult.of_regs {t u : State} {p : Nat} {m : Samp} {v : Word} {fl : Nat} (h : EntryResult t p m v fl) (hr : u.regs = t.regs) :
    EntryResult u p m v fl := by
  have hrd (r : RegName) (p i j : Nat) : u.rd r p i j = t.rd r p i j := by rw [State.rd, State.rd, hr]
  obtain ⟨h1, h2, h3, h4, h5, h6⟩ := h
  constructor <;> simpa only [State.bit, State.f, State.pairAt, hrd]

/-- A sample's word, value and tag, without the notes of its flags. -/
def resultWritten (s : State) (p : Nat) (m : Samp) (v : Word) (fl : Nat) : State :=
  ((((((s.put F.ADC_RES.code m.code p m.n).put F.ADC_RES.range m.gain p m.n).put F.ADC_RES.flags fl p m.n).put
    F.ADC_RES.cal_set m.cal.set p m.n).setb F.ADC_RES.new p m.n).wr .ADC_RES_V v p m.n).setPair .ADC_RES_TAG_LO .ADC_RES_TAG_HI m.tag p m.n

theorem entryResult_resultWritten (s : State) (p : Nat) (m : Samp) (v : Word) (fl : Nat) :
    EntryResult (resultWritten s p m v fl) p m v fl := by
  have hw (t : State) (f : Fld) (hf : f.r = .ADC_RES) : (t.wr .ADC_RES_V v p m.n).f f p m.n = t.f f p m.n :=
    congrArg f.get (rd_wr_name t (by rw [hf]; decide) v _ _ _ _ _ _)
  refine ⟨?_, ?_, ?_, ?_, ?_, pairAt_setPair _ (by decide) _ _ _ _⟩
  case refine_3 =>
    rw [resultWritten, bit_setPair_name _ (by decide) (by decide), State.bit, hw _ _ rfl]
    exact bit_setb_self _ _ _ _ _ (by decide)
  case refine_5 => rw [resultWritten, rd_setPair_name _ (by decide) (by decide), rd_wr_self]
  all_goals
    rw [resultWritten, f_setPair_name _ (by decide) (by decide), hw _ _ rfl]
    simp (disch := decide) only [State.setb, f_put_apart, f_put_self]
    rfl

theorem acquired_resultWritten (s : State) (p : Nat) (m : Samp) (v : Word) (fl : Nat) : Acquired entryRegs s (resultWritten s p m v fl) :=
  .setPair (.wr (.put (.put (.put (.put (.put (.refl s)))))))

theorem acqs_resultWritten (s : State) (p : Nat) (m : Samp) (v : Word) (fl : Nat) : (resultWritten s p m v fl).acqs = s.acqs := by
  simp only [resultWritten, State.setPair, wr_acqs, put_acqs, setb_acqs]

/-- An input's sample is written with its notes (R80 to R83). -/
theorem writeResult_entry (s : State) (p : Nat) {m : Samp} (hk : m.kind ≠ 1) (v : Word) (fl : Nat) (x : Bool) :
    EntryResult (s.writeResult p m v fl x) p m v fl ∧ Acquired entryRegs s (s.writeResult p m v fl x) ∧
      (s.writeResult p m v fl x).acqs = s.acqs := by
  have note (t : State) (c : Bool) (r : RegName) (n : Nat) (hr : r ∈ [RegName.ADC_EVT_0, .ADC_EVT_2])
      (h : EntryResult t p m v fl ∧ Acquired entryRegs s t ∧ t.acqs = s.acqs) :
      EntryResult (if c then t.putNbit r n true p else t) p m v fl ∧ Acquired entryRegs s (if c then t.putNbit r n true p else t) ∧
        (if c then t.putNbit r n true p else t).acqs = s.acqs := by
    split
    · obtain ⟨⟨h1, h2, h3, h4, h5, h6⟩, ha, hq⟩ := h
      have hw : Within [.ADC_EVT_0, .ADC_EVT_2] t (t.putNbit r n true p) := .putNbit (.refl t) hr
      exact ⟨⟨(hw.f_eq _ _ _ _).trans h1, (hw.f_eq _ _ _ _).trans h2, (hw.bit_eq _ _ _ _).trans h3, (hw.f_eq _ _ _ _).trans h4,
        (hw.regs _ _ _ _ (by decide)).trans h5, (pairAt_within hw _ _ _ _ _).trans h6⟩, ha.next (hw.mono), hq⟩
    · exact h
  have h2 := note _ x .ADC_EVT_0 (16 + m.n) (by decide)
    ⟨entryResult_resultWritten s p m v fl, acquired_resultWritten s p m v fl, acqs_resultWritten s p m v fl⟩
  have h3 := note _ (fl.testBit 4) .ADC_EVT_2 m.n (by decide) h2
  have h4 := note _ (fl.testBit 1) .ADC_EVT_2 (16 + m.n) (by decide) h3
  unfold State.writeResult
  rw [if_neg hk]
  exact h4

/-- A channel's output is written with its note (R82, R83, R86). -/
theorem writeResult_channel (s : State) (p : Nat) {m : Samp} (hk : m.kind = 1) (v : Word) (fl : Nat) (x : Bool) :
    Acquired channelRegs s (s.writeResult p m v fl x) ∧ (s.writeResult p m v fl x).acqs = s.acqs ∧
      (s.writeResult p m v fl x).rd .SDM_RES p m.n = BitVec.ofInt 32 m.raw ∧ (s.writeResult p m v fl x).rd .SDM_RES_V p m.n = v ∧
      (s.writeResult p m v fl x).pairAt .SDM_RES_TAG_LO .SDM_RES_TAG_HI p m.n = m.tag := by
  unfold State.writeResult
  rw [if_pos hk]
  extract_lets s1
  have hw : Within [.SDM_STAT] s1 (s1.setIf x F.SDM_STAT.cal_x p m.n) := .setIf (.refl s1)
  have h1 : Acquired channelRegs s s1 := .setPair (.wr (.wr (.refl s)))
  have hq : (s1.setIf x F.SDM_STAT.cal_x p m.n).acqs = s.acqs := by cases x <;> rfl
  refine ⟨h1.setIf, hq, ?_, ?_, ?_⟩
  · rw [hw.regs _ _ _ _ (by decide), rd_setPair_name _ (by decide) (by decide), rd_wr_name _ (by decide), rd_wr_self]
  · rw [hw.regs _ _ _ _ (by decide), rd_setPair_name _ (by decide) (by decide), rd_wr_self]
  · rw [pairAt_within hw _ _ _ _ _]
    exact pairAt_setPair _ (by decide) _ _ _ _

/-! ### The sample router -/

/-- The oldest sample on its way is taken off it. -/
def offItsWay (s : State) (p : Nat) (rest : List Samp) : State := s.updAcq p fun q => { q with out := rest }

theorem out_offItsWay (s : State) (p : Nat) (rest : List Samp) : ((offItsWay s p rest).acq p).out = rest := by
  rw [offItsWay, acq_updAcq]

/-- The flags with which a sample is delivered at present (R71, R80). -/
def deliveredNow (s : State) (m : Samp) : Nat := delivered m.flags (m.kind == 0 && decide (m.due < s.clk.raw)) m.calibrate.2

/-- An entry's sample at its result registers, and noted as delivered. -/
def entryDelivered (s : State) (p : Nat) (m : Samp) (rest : List Samp) : State :=
  ((offItsWay s p rest).writeResult p m m.calibrate.1 (deliveredNow s m) m.calibrate.2).updAcq p fun q => { q with got := q.got.set false m.n true }

section
variable {s : State} {p : Nat} {m : Samp} {rest : List Samp} (ho : (s.acq p).out = m :: rest)
include ho

theorem routerDeliver_entry (hk : m.kind = 0) :
    s.routerDeliver p = (entryDelivered s p m rest).slotIn p m.axis m.leIn m.calibrate.1 (deliveredNow s m) m.tag := by
  unfold State.routerDeliver
  rw [ho]
  dsimp only
  rw [if_neg (by omega), if_neg (by omega)]
  rfl

theorem routerDeliver_channel (hk : m.kind = 1) :
    s.routerDeliver p =
      if m.toSlot then ((offItsWay s p rest).writeResult p m m.calibrate.1 (deliveredNow s m) m.calibrate.2).slotIn p m.axis m.leIn
        m.calibrate.1 (deliveredNow s m) m.tag
      else (offItsWay s p rest).writeResult p m m.calibrate.1 (deliveredNow s m) m.calibrate.2 := by
  unfold State.routerDeliver
  rw [ho]
  dsimp only
  rw [if_neg (by omega), if_pos hk]
  rfl

theorem routerDeliver_repeat (hk : m.kind = 2) : ∃ v fl, s.routerDeliver p = (offItsWay s p rest).slotIn p m.axis m.leIn v fl m.tag := by
  unfold State.routerDeliver
  rw [ho]
  dsimp only
  rw [if_pos hk]
  split
  · exact ⟨_, _, rfl⟩
  · exact ⟨_, _, rfl⟩

end

/-- A delivered entry's sample: its result group, and everything else but the acquisition as before (R71, R82, R83). -/
theorem entryDelivered_keeps (s : State) (p : Nat) {m : Samp} (rest : List Samp) (hk : m.kind = 0) :
    EntryResult (entryDelivered s p m rest) p m m.calibrate.1 (deliveredNow s m) ∧ Acquired entryRegs s (entryDelivered s p m rest) ∧
      ((entryDelivered s p m rest).acq p).out = rest := by
  obtain ⟨hr, ha, hq⟩ := writeResult_entry (offItsWay s p rest) p (m := m) (by omega) m.calibrate.1 (deliveredNow s m) m.calibrate.2
  have h0 : Acquired entryRegs s (offItsWay s p rest) := .updAcq (.refl s)
  refine ⟨hr.of_regs (by rw [entryDelivered, updAcq_regs]), (h0.trans ha).updAcq, ?_⟩
  rw [entryDelivered, acq_updAcq]
  dsimp only
  rw [acq_of_acqs hq, out_offItsWay]

theorem routerDeliver_nil {s : State} {p : Nat} (h : (s.acq p).out = []) : s.routerDeliver p = s := by
  unfold State.routerDeliver
  rw [h]

/-! ### Commands that write a register of a pack -/

/-- A write that the block itself turns away is entered in the violation log (R81, R91). -/
theorem regWriteAt_turned {s s1 : State} {q : Req} {x : RegAt} {a k : Nat} {v : Word} (ha : a % 4 = 0) (hg : (s.guard q x).wr = .ok)
    (h : s.regWrite q x v a = (s1, .viol k)) : ∃ own dom, s.regWriteAt q (some x) a v = (s1.violation q a k .write own 0 dom, .refused) := by
  have hl : laneWord a v = v := by simp [laneWord, ha]
  simp only [State.regWriteAt, hg, hl, h]
  exact ⟨_, _, rfl⟩

section
variable {s : State} {m : Master} {r : RegName} {p i : Nat} {v : Word} {o : Owner} (hs : r.row.blk.space = .pack) (hp : p < 4) (hi : i < r.row.nI)
  (hj : 0 < r.row.nJ) (h : (s.req m).admits o = true) (hg : s.guard (s.req m) ⟨r, p, i, 0⟩ = .owned (s.req m) o)
include hs hp hi hj h

/-- A command that is a write of a pack's register acts at that register. -/
theorem packPut :
    ∃ a, a % 4 = 0 ∧ s.putAt m r v p i = rspOut (s.regWriteAt (s.req m) (some ⟨r, p, i, 0⟩) a v) :=
  ⟨_, addr_mod_four ⟨r, p, i, 0⟩, cmdWrite_reg (regAt_addr_pack (x := ⟨r, p, i, 0⟩) hi hj hs hp) (addr_mod_four _) (admits_mapped h) v⟩

include hg

theorem packPut_ok {t : State} (hw : ∀ a, s.regWrite (s.req m) ⟨r, p, i, 0⟩ v a = (t, .ok)) : s.putAt m r v p i = ok t := by
  obtain ⟨a, ha, he⟩ := packPut (v := v) hs hp hi hj h
  rw [he, regWriteAt_ok ha (by rw [hg]; exact if_pos h) (hw a)]
  rfl

theorem packPut_err {t : State} (hw : ∀ a, s.regWrite (s.req m) ⟨r, p, i, 0⟩ v a = (t, .err)) : s.putAt m r v p i = errResp t := by
  obtain ⟨a, ha, he⟩ := packPut (v := v) hs hp hi hj h
  rw [he, regWriteAt_err ha (by rw [hg]; exact if_pos h) (hw a)]
  rfl

/-- A write that the block turns away with an entry in the violation log. -/
theorem packPut_viol {k : Nat} (hw : ∀ a, s.regWrite (s.req m) ⟨r, p, i, 0⟩ v a = (s, .viol k)) :
    ∃ t, s.putAt m r v p i = errResp t ∧ LogsOnly s t := by
  obtain ⟨a, ha, he⟩ := packPut (v := v) hs hp hi hj h
  obtain ⟨own, dom, hx⟩ := regWriteAt_turned ha (by rw [hg]; exact if_pos h) (hw a)
  rw [he, hx]
  exact ⟨_, rfl, logsOnly_violation _ _ _ _ _ _ _ _⟩

end

/-! ### Self-calibration -/

/-- What keeps a self-calibration from starting (R77). -/
abbrev calBarred (s : State) (p : Nat) : Bool :=
  (List.range 6).any (fun a => s.axSt p a == 2 || s.axSt p a == 3 || s.axSt p a == 4) || s.bit F.ADC_STATUS.cal_busy p ||
    s.bit F.CMP_GSTAT.rdbk_busy p

section
variable {s : State} {m : Master} {p : PackIx} (h : (s.req m).admits (s.owner (.pack p)) = true)
include h

theorem selfcal_starts (hb : calBarred s p = false) : s.putAt m .ADC_CTL 1 p = ok (s.setb F.ADC_STATUS.cal_busy p) := by
  refine packPut_ok rfl p.isLt (by decide) (by decide) h rfl fun _ => ?_
  show ((s.selfcalStart p).1, if (s.selfcalStart p).2 then Wr.ok else Wr.err) = _
  rw [State.selfcalStart, if_neg (ne_true_of_eq_false hb)]
  rfl

theorem selfcal_refused (hb : calBarred s p = true) : s.putAt m .ADC_CTL 1 p = errResp (s.setb F.ADC_STATUS.refused p) := by
  refine packPut_err rfl p.isLt (by decide) (by decide) h rfl fun _ => ?_
  show ((s.selfcalStart p).1, if (s.selfcalStart p).2 then Wr.ok else Wr.err) = _
  rw [State.selfcalStart, if_pos hb]
  rfl

end

theorem selfcalEnd_idle {s : State} {p : Nat} (h : s.bit F.ADC_STATUS.cal_busy p = false) (good : Bool) : s.selfcalEnd p good = s :=
  if_neg (ne_true_of_eq_false h)

/-- A self-calibration ends with its result (R77). -/
theorem selfcalEnd_keeps {s : State} {p : Nat} (h : s.bit F.ADC_STATUS.cal_busy p = true) (good : Bool) :
    (s.selfcalEnd p good).bit F.ADC_STATUS.cal_busy p = false ∧ (s.selfcalEnd p good).bit F.ADC_STATUS.cal_ok p = good ∧
      (s.selfcalEnd p good).bit F.ADC_STATUS.cal_fail p = (!good) ∧ Within [.ADC_STATUS] s (s.selfcalEnd p good) := by
  rw [State.selfcalEnd, if_pos h]
  refine ⟨?_, ?_, bit_putb_self _ _ _ _ _ _ (by decide), .put (.put (.put (.refl s)))⟩
  · rw [bit_putb_apart _ (by decide), bit_putb_apart _ (by decide), bit_clrb_self _ _ _ _ _ (by decide)]
  · rw [bit_putb_apart _ (by decide), bit_putb_self _ _ _ _ _ _ (by decide)]

end Sys2Proof.Proofs
end

section
/-! SAMPLE_HOLD, CONVERSION_END, RECONVERSION_END, SAMPLE_ROUTER_DELIVERY, SELFCAL and SELFCAL_DONE together (R63 to R83). -/

namespace Sys2Proof.Proofs
open Sys2Proof Sys2Proof.Machine Sys2Proof.Laws

/-! ### The commands -/

/-- The acquisition's own clocks run (R443, R444). -/
abbrev acqLive (s : State) : Bool := !s.pwr.past && s.pwr.mode != 2 && s.pwr.mode != 3

theorem sampleHold_away {s : State} {p : PackIx} {e : Fin 32} (h : s.bit F.PWM_STATUS.clk_ok p = false ∨ s.holdDue p e = none) :
    NoEvent (exec (.sampleHold p e) s) s := by
  refine noEvent_ok (t := s.clocked p fun s => s.sampleHold p e) ?_
  rcases h with h | h
  · exact when_false h
  · cases hc : s.bit F.PWM_STATUS.clk_ok p with
    | false => exact when_false hc
    | true => exact (when_true hc).trans (sampleHold_none h)

theorem sampleHold_exec {s : State} {p : PackIx} {e : Fin 32} (h : s.bit F.PWM_STATUS.clk_ok p = true) :
    exec (.sampleHold p e) s = ok (s.sampleHold p e) := congrArg ok (when_true (f := fun s => s.sampleHold p e) h)

theorem conversionEnd_exec {s : State} (h : acqLive s = true) (p : PackIx) (k : Fin 4) (c : BitVec 16) :
    exec (.conversionEnd p k c) s = ok (s.convEnd p k c) := congrArg ok (when_true (f := fun s => s.convEnd p k c) h)

theorem reconversionEnd_exec {s : State} (h : acqLive s = true) (p : PackIx) (k : Fin 4) (c : BitVec 16) :
    exec (.reconversionEnd p k c) s = ok (s.reconEnd p k c) := congrArg ok (when_true (f := fun s => s.reconEnd p k c) h)

theorem conversionEnd_away {s : State} {p : PackIx} {k : Fin 4} (c : BitVec 16) (h : acqLive s = false ∨ s.sarAt p k 2 = none) :
    NoEvent (exec (.conversionEnd p k c) s) s := by
  refine noEvent_ok (t := s.acqClocked fun s => s.convEnd p k c) ?_
  rcases h with h | h
  · exact when_false h
  · cases hl : acqLive s with
    | false => exact when_false hl
    | true => exact (when_true hl).trans (convEnd_none h c)

theorem reconversionEnd_away {s : State} {p : PackIx} {k : Fin 4} (c : BitVec 16) (h : acqLive s = false ∨ s.sarAt p k 3 = none) :
    NoEvent (exec (.reconversionEnd p k c) s) s := by
  refine noEvent_ok (t := s.acqClocked fun s => s.reconEnd p k c) ?_
  rcases h with h | h
  · exact when_false h
  · cases hl : acqLive s with
    | false => exact when_false hl
    | true => exact (when_true hl).trans (reconEnd_none h c)

/-- What an entry's delivery leaves, its input slot with it (R71, R82, R83). -/
theorem entryDelivery_accepted {s : State} {p : PackIx} {m : Samp} {rest : List Samp} (ho : (s.acq p).out = m :: rest) (hk : m.kind = 0) :
    ∃ t, exec (.sampleRouterDelivery p) s = ok t ∧ EntryResult t p m m.calibrate.1 (deliveredNow s m) ∧ (t.acq p).out = rest ∧
      KeepsRegs s t entryRegs ∧ t = { s with regs := t.regs, acqs := t.acqs, axs := t.axs } ∧
      (m.axis < 6 → m.leIn < 16 → (slotAt t p m.axis m.leIn).v = m.calibrate.1 ∧ (slotAt t p m.axis m.leIn).flags = deliveredNow s m ∧
        (slotAt t p m.axis m.leIn).tag = m.tag) := by
  obtain ⟨hr, ha, hout⟩ := entryDelivered_keeps s p rest hk
  have hrest := slotIn_rest (entryDelivered s p m rest) p m.axis m.leIn m.calibrate.1 (deliveredNow s m) m.tag
  have hslot := fun hx hi => slotIn_slot (entryDelivered s p m rest) p (a := m.axis) (i := m.leIn) hx hi m.calibrate.1 (deliveredNow s m) m.tag
  refine ⟨_, congrArg ok (routerDeliver_entry ho hk), ?_⟩
  generalize (entryDelivered s p m rest).slotIn p m.axis m.leIn m.calibrate.1 (deliveredNow s m) m.tag = t at hrest hslot
  have hregs : t.regs = (entryDelivered s p m rest).regs := by rw [hrest]
  refine ⟨hr.of_regs hregs, ?_, fun r q i j hn => ?_, by rw [hrest, ha.rest], hslot⟩
  · rw [hrest]
    exact hout
  · rw [State.rd, hregs]
    exact ha.regs r q i j hn

/-- What a channel's delivery leaves (R82, R83, R86). -/
theorem channelDelivery_accepted {s : State} {p : PackIx} {m : Samp} {rest : List Samp} (ho : (s.acq p).out = m :: rest) (hk : m.kind = 1) :
    Accepts (exec (.sampleRouterDelivery p) s) fun t =>
      (t.acq p).out = rest ∧ t.rd .SDM_RES p m.n = BitVec.ofInt 32 m.raw ∧ t.pairAt .SDM_RES_TAG_LO .SDM_RES_TAG_HI p m.n = m.tag ∧
      t.rd .SDM_RES_V p m.n = m.calibrate.1 ∧ KeepsRegs s t channelRegs := by
  obtain ⟨ha, hq, hres, hval, htag⟩ := writeResult_channel (offItsWay s p rest) p hk m.calibrate.1 (deliveredNow s m) m.calibrate.2
  have hkeep : KeepsRegs s ((offItsWay s p rest).writeResult p m m.calibrate.1 (deliveredNow s m) m.calibrate.2) channelRegs :=
    fun r q i j hn => ha.regs r q i j hn
  have hout : (((offItsWay s p rest).writeResult p m m.calibrate.1 (deliveredNow s m) m.calibrate.2).acq p).out = rest := by
    rw [acq_of_acqs hq, out_offItsWay]
  show Accepts (ok (s.routerDeliver p)) _
  rw [routerDeliver_channel ho hk]
  generalize (offItsWay s p rest).writeResult p m m.calibrate.1 (deliveredNow s m) m.calibrate.2 = w at *
  split
  · rw [slotIn_rest]
    exact accepts_ok ⟨hout, hres, htag, hval, hkeep⟩
  · exact accepts_ok ⟨hout, hres, htag, hval, hkeep⟩

/-! ### The obligation -/

/-- Settles O30: a hold at its instant by what its sample-and-hold does, a conversion by its code, a delivery by the kind of its sample,
and the self-calibration by what bars it. -/
theorem samplesAreHeldConvertedAndDelivered : Obligations.SamplesAreHeldConvertedAndDelivered := by
  intro p s
  refine ⟨fun e => ⟨sampleHold_away, fun due hc hd => ⟨fun hlt => ?past, fun hle => ?hold⟩⟩,
    fun k c => ⟨conversionEnd_away c, reconversionEnd_away c, fun h hl hk => ?conv, fun h hl hk => ?recon⟩,
    fun h => noEvent_ok (routerDeliver_nil h), fun m rest ho hk hn hf => ?entry, fun m rest ho hk _ => ?channel, fun m rest ho hk => ?missed,
    fun m h => ⟨fun hb => ?start, fun hb => ?refused⟩, fun good => ⟨fun h => noEvent_ok (selfcalEnd_idle h good), fun h => ?done⟩⟩
  case past =>
    rw [sampleHold_exec hc, (sampleHold_due hd).1 hlt]
    rfl
  case hold =>
    rw [sampleHold_exec hc, (sampleHold_due hd).2 hle]
    intro u n h k marked taken missed beats
    have done {rs : List RegName} {t : State} (hm : HoldDone rs u t p e) (r : Resp) : marked { t with resp := r } :=
      ⟨hm.marked, by rw [hm.acquired.rest]⟩
    have takes {t : State} (hs : Sampled u t p e) (r : Resp) : taken { t with resp := r } := ⟨hs.n, hs.tag, hs.gain, hs.cal, hs.rsv, hs.ent⟩
    refine ⟨fun hr hb => ?_, fun hx => ?_, fun hr hb hlt => ?_⟩
    · obtain ⟨hs, hm, hst⟩ := holdNow_free hr hb
      generalize holdNow u p e = t at hs hm hst
      exact accepts_ok ⟨takes hs _, done hm _, hst, hm.acquired.regs⟩
    · obtain ⟨hs, hm, hsame⟩ := holdNow_misses e.isLt hx
      generalize holdNow u p e = t at hs hm hsame
      exact accepts_ok ⟨⟨hs.noted, hs.counted⟩, done hm _, hsame, hm.acquired.regs⟩
    · obtain ⟨hs, hm, hmiss⟩ := holdNow_beats hr hb hlt
      generalize holdNow u p e = t at hs hm hmiss
      exact accepts_ok ⟨takes hs _, done hm _, ⟨hmiss.noted, hmiss.counted⟩, hm.acquired.regs⟩
  case conv =>
    rw [conversionEnd_exec hl, convEnd_some hk]
    intro u m sent hr
    have sends {rs : List RegName} {t : State} {fl : Nat} (hd : EntrySent rs u t p h c fl) (r : Resp) : sent { t with resp := r } fl :=
      ⟨hd.out, hd.free, hd.freeAt, by rw [hd.acquired.rest]⟩
    refine ⟨fun he => ?_, fun he hrec => ?_, fun he hrec => ?_⟩
    · have hd : EntrySent [.ADC_STATUS] u (u.convDone p h c) p h c 0 := by
        rw [convDone_clean hr he]
        exact entrySent_entryDone u p h c 0
      generalize u.convDone p h c = t at hd
      exact accepts_ok ⟨sends hd _, hd.acquired.regs⟩
    · obtain ⟨hd, ho⟩ := convDone_clamped hr he hrec
      generalize u.convDone p h c = t at hd ho
      exact accepts_ok ⟨sends hd _, fun hn => ho.noted (Nat.lt_trans hn (by decide)), ho.counted⟩
    · obtain ⟨hst, hat, hgain, hout, ho⟩ := convDone_again hr he hrec
      generalize u.convDone p h c = t at hst hat hgain hout ho
      exact accepts_ok ⟨hst, hat, hgain, hout, fun hn => ho.noted (Nat.lt_trans hn (by decide))⟩
  case recon =>
    rw [reconversionEnd_exec hl, reconEnd_some hk rfl]
    intro u m
    have hd := entrySent_entryDone u p h c (if endOfScale (u.sh p h).smp.diff c then 7 else 5)
    generalize u.entryDone p h c (if endOfScale (u.sh p h).smp.diff c then 7 else 5) = t at hd
    exact accepts_ok ⟨hd.out, hd.free, hd.acquired.regs, by rw [hd.acquired.rest]⟩
  case entry =>
    obtain ⟨t, ht, hr, hout, hregs, hrest, hslot⟩ := entryDelivery_accepted ho hk
    have hfl : deliveredNow s m = m.flags + (if m.due < s.clk.raw then 16 else 0) + (if m.calibrate.2 then 32 else 0) := by
      rw [deliveredNow, delivered_eq hf, hk]
      simp
    have hlt : deliveredNow s m % 256 = deliveredNow s m := by
      rw [hfl]
      split <;> split <;> omega
    rw [ht]
    refine accepts_ok ?_
    dsimp only
    rw [calibrate_value, ← hfl]
    exact ⟨hout, hr.code, hr.range, hr.new, hr.tag, hr.flags.trans hlt, hr.value, hslot, hregs, by rw [hrest]⟩
  case channel =>
    rw [calibrate_value]
    exact channelDelivery_accepted ho hk
  case missed =>
    obtain ⟨v, fl, he⟩ := routerDeliver_repeat ho hk
    show Accepts (ok (s.routerDeliver p)) _
    rw [he, slotIn_rest]
    exact accepts_ok ⟨out_offItsWay s p rest, rfl⟩
  case start =>
    show Accepts (s.putAt m .ADC_CTL 1 p) _
    rw [selfcal_starts h hb]
    exact accepts_ok ⟨bit_setb_self s F.ADC_STATUS.cal_busy p 0 0 (by decide),
      (Within.put (.refl s) : Within [.ADC_STATUS] s (s.setb F.ADC_STATUS.cal_busy p)).regs, rfl⟩
  case refused =>
    exact ⟨_, selfcal_refused h hb, rfl, bit_setb_self s F.ADC_STATUS.refused _ _ _ (by decide), bit_setb_apart s (by decide) _ _ _ _ _ _,
      (Within.put (.refl s) : Within [.ADC_STATUS] s (s.setb F.ADC_STATUS.refused p)).regs⟩
  case done =>
    obtain ⟨hbusy, hok, hfail, hw⟩ := selfcalEnd_keeps h good
    exact accepts_ok ⟨hbusy, hok, hfail, hw.regs⟩

end Sys2Proof.Proofs
end

section
/-! What a source of the muzzle leaves (R202 to R210): the acquisition, and the levels of every source but a comparator. -/

namespace Sys2Proof.Proofs
open Sys2Proof Sys2Proof.Machine Sys2Proof.Laws

/-- Between two states the acquisition and the levels of the sources that are no comparators have stayed. -/
structure Spared (s t : State) : Prop where
  acqs : t.acqs = s.acqs
  live : ∀ p i j, i ≠ 0 → t.rd .MUZ_LIVE p i j = s.rd .MUZ_LIVE p i j

namespace Spared

variable {rs : List RegName} {s a t : State}

theorem refl (s : State) : Spared s s := ⟨rfl, fun _ _ _ _ => rfl⟩

theorem trans (h : Spared s a) (g : Spared a t) : Spared s t :=
  ⟨g.acqs.trans h.acqs, fun p i j hi => (g.live p i j hi).trans (h.live p i j hi)⟩

theorem of_within (h : Within rs s t) (hq : t.acqs = s.acqs := by rfl) (hn : RegName.MUZ_LIVE ∉ rs := by decide) : Spared s t :=
  ⟨hq, fun p i j _ => h.regs _ p i j hn⟩

/-- A change of other registers and of hidden state follows. -/
theorem next (h : Spared s a) (g : Within rs a t) (hq : t.acqs = a.acqs := by rfl) (hn : RegName.MUZ_LIVE ∉ rs := by decide) : Spared s t :=
  h.trans (of_within g hq hn)

theorem hidden (h : Spared s a) (hr : t.regs = a.regs := by rfl) (hq : t.acqs = a.acqs := by rfl) : Spared s t :=
  h.trans ⟨hq, fun _ _ _ _ => by rw [State.rd, hr]; rfl⟩

theorem wr (h : Spared s a) {r : RegName} {v : Word} {p i j : Nat} (hr : r ≠ .MUZ_LIVE := by decide) : Spared s (a.wr r v p i j) :=
  h.next (.wr (.refl a) (List.mem_singleton.mpr rfl)) rfl (by simpa using hr.symm)

/-- A field write: also of a bit that is set or cleared. -/
theorem put (h : Spared s a) {f : Fld} {n p i j : Nat} (hr : f.r ≠ .MUZ_LIVE := by decide) : Spared s (a.put f n p i j) := h.wr hr

theorem putNbit (h : Spared s a) {r : RegName} {n p i j : Nat} {b : Bool} (hr : r ≠ .MUZ_LIVE := by decide) :
    Spared s (a.putNbit r n b p i j) := h.wr hr

theorem wrLe (h : Spared s a) {r : RegName} {v : Word} {p i j : Nat} (hr : r ≠ .MUZ_LIVE := by decide) : Spared s (a.wrLe r v p i j) :=
  (h.wr (v := v) (p := p) (i := i) (j := j) hr).hidden
theorem updAx (h : Spared s a) {p x : Nat} {f : Ax → Ax} : Spared s (a.updAx p x f) := h.hidden
theorem updSet (h : Spared s a) {p x : Nat} {f : Machine.PSet → Machine.PSet} : Spared s (a.updSet p x f) := h.hidden
theorem later (h : Spared s a) {e : Soon} : Spared s (a.later e) := h.hidden

theorem setPair (h : Spared s a) {lo hi : RegName} {g : Tag} {p i j : Nat} (hl : lo ≠ .MUZ_LIVE := by decide)
    (hh : hi ≠ .MUZ_LIVE := by decide) : Spared s (a.setPair lo hi g p i j) := (h.wr hl).wr hh

theorem inc (h : Spared s a) {f : Fld} {p i j : Nat} (hr : f.r ≠ .MUZ_LIVE := by decide) : Spared s (a.inc f p i j) := by
  unfold State.inc
  split <;> exact h.put hr

theorem ite {c : Prop} {_ : Decidable c} (h : Spared s a) (g : Spared s t) : Spared s (if c then a else t) := by
  split <;> assumption

theorem setIf (h : Spared s a) {c : Bool} {f : Fld} {p i j : Nat} (hr : f.r ≠ .MUZ_LIVE := by decide) : Spared s (a.setIf c f p i j) :=
  (h.put hr).ite h

theorem foldl (h : Spared s a) {α : Type} {f : State → α → State} (hf : ∀ u x, Spared u (f u x)) (xs : List α) : Spared s (xs.foldl f a) :=
  List.foldlRecOn xs f h fun u hu x _ => hu.trans (hf u x)

theorem of_noted (hn : Noted s t) (h : Within rs s t) (hl : RegName.MUZ_LIVE ∉ rs := by decide) : Spared s t :=
  of_within h (by rw [hn.rest]) hl

end Spared

/-! ### Alarms and journals -/

theorem spared_alarm (s : State) (ts : List Nat) (kind idx code : Nat) (d6 d7 : Word) (g : Tag) :
    Spared s (s.alarm ts kind idx code d6 d7 g) := .of_within (within_alarm s ts kind idx code d6 d7 g) (by rw [(reported_alarm ..).rest])

theorem spared_putPf (s : State) (f : Fld) (v n : Nat) (hp : RegName.MUZ_LIVE ∉ [f.r, f.r.sys] := by decide) : Spared s (s.putPf f v n) :=
  .of_within (.putPf (.refl s) (List.mem_cons_self ..) (List.mem_cons_of_mem _ (List.mem_cons_self ..))) rfl hp

theorem spared_engCkpt (s : State) (p : Nat) : Spared s (s.engCkpt p) := by
  have late : Spared s ((s.putPf F.PJNL_PSTAT.late_ckpt 1 p).updPair p fun k => { k with deferred := true }) :=
    (spared_putPf s F.PJNL_PSTAT.late_ckpt 1 p).hidden
  unfold State.engCkpt
  extract_lets s1
  have h1 : Spared s s1 := (Spared.hidden (.refl s)).trans (spared_putPf _ F.PJNL_PFILL.fill 0 p)
  have h2 : Spared s (s1.setPairTag .PJNL_PCTAG_LO .PJNL_PCTAG_HI s1.now p) :=
    h1.next (.setPairTag (.refl s1) : Within [.PJNL_PCTAG_LO, .PJNL_PCTAG_HI, .SJNL_PCTAG_LO, .SJNL_PCTAG_HI] s1 _)
  exact .ite (.refl s) (.ite late (h2.trans (.of_noted (noted_jnl _ _ _) (within_jnl _ _ _))))

theorem spared_endRecovery (s : State) (n : Nat) : Spared s (s.endRecovery n) := by
  unfold State.endRecovery
  dsimp -zeta only
  extract_lets len s2 s3 s4 s5
  have h2 : Spared s s2 := ((Spared.hidden (.refl s)).trans (spared_putPf _ F.PJNL_PSTAT.rec _ _)).trans (spared_putPf _ F.PJNL_PREC.last _ _)
  have h3 : Spared s s3 := .ite (h2.trans (spared_putPf s2 F.PJNL_PREC.max_ _ _)) h2
  have h5 : Spared s s5 := (h3.trans (spared_alarm s3 _ _ _ _ _ _ _)).trans
    (.of_noted (noted_slogAdd _ _ _ _ _ _) (.of_logsOnly (logsOnly_stageRec _ _ _) (List.Subset.refl _)))
  exact .ite (h5.trans (spared_engCkpt s5 n)) h5

/-! ### Runs, sets and axes -/

theorem spared_driveSet (s : State) (p x : Nat) : Spared s (s.driveSet p x) :=
  .of_within (.of_driven (driven_driveSet s p x) (List.Subset.refl _)) (by rw [(driven_driveSet s p x).rest])

theorem spared_muzRefresh (s : State) (p x : Nat) : Spared s (s.muzRefresh p x) :=
  (Spared.put (.put (.put (.refl s)))).trans (spared_driveSet _ p x)

theorem spared_axRefresh (s : State) (p a : Nat) : Spared s (s.axRefresh p a) := by
  unfold State.axRefresh
  split
  · exact (spared_muzRefresh s p _).trans (spared_driveSet _ p _)
  · exact .refl s

theorem spared_coefApply (s : State) (p a : Nat) : Spared s (s.coefApply p a) := by
  unfold State.coefApply
  exact .updAx (.foldl (.refl s) (fun u w => .wrLe (.refl u)) _)

theorem spared_dropRun (s : State) (p a : Nat) : Spared s (s.dropRun p a) := by
  unfold State.dropRun
  extract_lets s1
  have h1 : Spared s s1 := .trans (.put (.put (.refl s))) (spared_coefApply _ p a)
  exact .ite (.ite (h1.trans (spared_endRecovery s1 p)) h1) (.refl s)

theorem spared_faultNoted (s : State) (p a cause : Nat) : Spared s (s.faultNoted p a cause) := by
  unfold State.faultNoted
  extract_lets s1 s2
  have h1 : Spared s s1 := .put (.refl s)
  have h2 : Spared s s2 := .ite h1 (.put (.put h1))
  exact h2.trans (spared_alarm _ _ _ _ _ _ _ _)

theorem spared_axSafe (s : State) (p a cause : Nat) : Spared s (s.axSafe p a cause) :=
  .ite (.trans (.put ((spared_faultNoted s p a cause).trans (spared_dropRun _ p a))) (spared_axRefresh _ p a))
    (.ite (.put (.refl s)) (.refl s))

theorem spared_startSeq0 (s : State) (p x : Nat) : Spared s (s.startSeq0 p x) := by
  have legs (u : State) (l : Nat) : Spared u ((u.clrb F.PWM_LEGSTAT.en p l).setb F.PWM_LEGSTAT.seq p l) := .put (.put (.refl u))
  exact .ite (.refl s) (.later (.foldl (.updSet (.put (.refl s))) legs _))

theorem spared_cancelPend (s : State) (p x : Nat) : Spared s (s.cancelPend p x) := .foldl (.put (.refl s)) (fun u _ => .put (.refl u)) _

/-! ### Trips -/

theorem spared_alarmFix (s : State) (w0 : Word) (old new : Tag) (d6 : Word) (n : Nat) : Spared s (s.alarmFix w0 old new d6 n) := by
  unfold State.alarmFix
  extract_lets hit fix
  refine .ite (.hidden (.refl s)) ?_
  split
  · exact .of_noted (noted_setAq _ _ _ _) (within_setAq _ _ _ _)
  · exact .refl s

theorem spared_joinTrip (s : State) (p st x : Nat) (g : Tag) : Spared s (s.joinTrip p st x g) := by
  unfold State.joinTrip
  extract_lets old new s1 s2
  have h1 : Spared s s1 := .setPair (.put (.refl s))
  have h2 : Spared s s2 := .ite (.hidden h1) h1
  exact .foldl h2 (fun u n => spared_alarmFix u _ _ _ _ n) _

theorem spared_incident (s : State) (p st : Nat) (g : Tag) : Spared s (s.incident p st g) := by
  unfold State.incident
  extract_lets first joins opened s1
  have ho : Spared s opened := .put (.put (.put (.refl s)))
  have h1 : Spared s s1 := .ite (.put (.refl s)) ho.hidden
  exact .put h1

theorem spared_trip (s : State) (p st x : Nat) (g : Tag) : Spared s (s.trip p st x g) := by
  unfold State.trip
  extract_lets s0 s1 s2 s3 s4
  have h0 : Spared s s0 := .updSet (.refl s)
  have h2 : Spared s s2 := .inc (.put (.setPair (.put (.put h0))))
  have h3 : Spared s s3 := (h2.trans (spared_incident s2 p st g)).trans (spared_muzRefresh _ p st)
  have h4 : Spared s s4 := by
    unfold s4
    split
    · exact h3.trans (spared_axSafe s3 p _ 6)
    · exact .trans (.put (h3.trans (spared_cancelPend s3 p st))) (spared_startSeq0 _ p st)
  exact .later ((h4.trans (spared_alarm _ _ _ _ _ _ _ _)).trans (spared_muzRefresh _ p st))

theorem spared_assertTo (s : State) (p st x : Nat) (g : Tag) : Spared s (s.assertTo p st x g) := by
  unfold State.assertTo
  extract_lets s1
  have h1 : Spared s s1 := .ite (spared_joinTrip s p st x g) (.refl s)
  exact .ite (.trans (.put h1) (spared_muzRefresh _ p st)) (.ite (spared_trip s p st x g) (.refl s))

/-- A comparator's source notes its level in the first word alone. -/
theorem spared_srcEval0 (s : State) (p : Nat) {x : Nat} (hx : x < 32) (g : Tag) : Spared s (s.srcEval0 p x g) := by
  have hi : x / 32 = 0 := by omega
  have level (v : Bool) : Spared s (s.putNbit .MUZ_LIVE (x % 32) v p (x / 32)) :=
    ⟨rfl, fun p' i' j' h => by rw [hi]; exact (rd_wr ..).trans (if_neg fun he => h he.2.2.1)⟩
  unfold State.srcEval0
  extract_lets now was s1 s2
  have h1 : Spared s s1 := level now
  have h2 : Spared s s2 := .putNbit h1
  exact .ite (.foldl h2 (fun u st => .ite (spared_assertTo u p st x g) (.refl u)) _) h1

theorem spared_pcmPass (s : State) (p : Nat) : Spared s (s.pcmPass p) := by
  refine List.foldlRecOn _ _ (.refl s) fun u hu n hn => hu.trans ?_
  have hlt := List.mem_range.mp hn
  extract_lets ds s1 s2
  have h1 : Spared u s1 := .setIf (.put (.refl u))
  have h2 : Spared u s2 := .ite (.hidden h1) h1
  exact .ite (.refl u) ((h2.trans (spared_srcEval0 s2 p (by omega) u.now)).trans (spared_srcEval0 _ p (by omega) u.now))

theorem spared_pcmRefresh (s : State) (p : Nat) : Spared s (s.pcmRefresh p) := .ite (.foldl (.refl s) (fun u _ => spared_pcmPass u p) _) (.refl s)

theorem spared_srcPulse (s : State) (p x : Nat) (g : Tag) : Spared s (s.srcPulse p x g) :=
  .trans (.foldl (.putNbit (.refl s)) (fun u st => .ite (spared_assertTo u p st x g) (.refl u)) _) (spared_pcmRefresh _ p)

/-- A pulse keeps memory, and every register that no trip writes. -/
theorem within_srcPulse (s : State) (p x : Nat) (g : Tag) : Within (.LE_AX_STAT :: haltRegs) s (s.srcPulse p x g) :=
  ((Halts.of_within (.putNbit (.refl s))).foldl (fun u st => .ite (halts_assertTo u p st x g) (.refl u)) _ |>.trans (halts_pcmRefresh _ p)).within

end Sys2Proof.Proofs
end

section
/-! SDM_ENABLE, DECIMATOR_OUTPUT, FAST_PATH_OUTPUT, MODULATOR_STUCK and STUCK_CLEAR (R84 to R90). -/

namespace Sys2Proof.Proofs
open Sys2Proof Sys2Proof.Machine Sys2Proof.Laws

/-! ### Words of a register -/

theorem bit_eq_getLsbD (s : State) {f : Fld} (h : f.w = 1) (p i j : Nat) : s.bit f p i j = (s.rd f.r p i j).getLsbD f.lo := by
  obtain ⟨r, lo, w⟩ := f
  obtain rfl : w = 1 := h
  rw [getLsbD_eq_get r]
  have hlt : (⟨r, lo, 1⟩ : Fld).get (s.rd r p i j) < 2 := Nat.mod_lt _ Nat.two_pos
  change ((⟨r, lo, 1⟩ : Fld).get (s.rd r p i j) != 0) = _
  interval_cases (⟨r, lo, 1⟩ : Fld).get (s.rd r p i j) <;> rfl

/-! ### Enabling a channel -/

/-- A channel's configuration as it is stored, each part within its range (R84, R88). -/
def sdmConfigured (s : State) (p n : Nat) (v : Word) : State :=
  let d := clampTo 4 100 (F.SDM_CH.clk_div.get v)
  let y := clampTo 0 (d.1 - 1) (F.SDM_CH.cap_dly.get v)
  (((s.wr .SDM_CH (RegName.SDM_CH.row.write 0 v) p n).put F.SDM_CH.clk_div d.1 p n).put F.SDM_CH.cap_dly y.1 p n).setIf (d.2 || y.2)
    F.SDM_STAT.cfg_clamp p n

theorem hookSdm_channel {s : State} {p n : Nat} (h : (decide (s.f F.SDM_CH.axis p n < 6) && s.axLk p (s.f F.SDM_CH.axis p n)) = false) (v : Word) :
    s.hookSdm .SDM_CH p n v =
      (if v.getLsbD 0 && !s.bit F.SDM_CH.en p n then (sdmConfigured s p n v).sdmOn p n
        else if !v.getLsbD 0 && s.bit F.SDM_CH.en p n then (sdmConfigured s p n v).sdmOff p n else sdmConfigured s p n v, .ok) := by
  unfold State.hookSdm
  dsimp only
  rw [if_neg (ne_true_of_eq_false h)]
  rfl

/-- A channel's configuration as stored: its registers, and the acquisition as before. -/
theorem sdmConfigured_keeps (s : State) (p n : Nat) (v : Word) :
    Acquired [.SDM_CH, .SDM_STAT] s (sdmConfigured s p n v) ∧ (sdmConfigured s p n v).acqs = s.acqs ∧
      (sdmConfigured s p n v).bit F.SDM_CH.en p n = v.getLsbD 0 ∧ (sdmConfigured s p n v).bit F.SDM_CH.sync p n = v.getLsbD 19 ∧
      (sdmConfigured s p n v).f F.SDM_CH.clk_div p n = max 4 (min (F.SDM_CH.clk_div.get v) 100) := by
  unfold sdmConfigured
  extract_lets d y
  have stored {g : Fld} (hr : g.r = .SDM_CH) (hw : g.w = 1) (hb : RegName.SDM_CH.row.rw.getLsbD g.lo = true)
      (hd : fldsApart F.SDM_CH.clk_div g) (hy : fldsApart F.SDM_CH.cap_dly g)
      (hs : fldsApart F.SDM_STAT.cfg_clamp g) :
      ((((s.wr .SDM_CH (RegName.SDM_CH.row.write 0 v) p n).put F.SDM_CH.clk_div d.1 p n).put F.SDM_CH.cap_dly y.1 p n).setIf (d.2 || y.2)
        F.SDM_STAT.cfg_clamp p n).bit g p n = v.getLsbD g.lo := by
    rw [bit_setIf_apart _ _ hs, bit_put_apart _ hy, bit_put_apart _ hd, bit_eq_getLsbD _ hw, hr, rd_wr_self, write_zero rfl,
      BitVec.getLsbD_and, hb, Bool.and_true]
  refine ⟨.setIf (.put (.put (.wr (.refl s)))), ?_, stored (g := F.SDM_CH.en) rfl rfl (by decide) (by decide) (by decide) (by decide),
    stored (g := F.SDM_CH.sync) rfl rfl (by decide) (by decide) (by decide) (by decide), ?_⟩
  · cases d.2 || y.2 <;> rfl
  · have hd : d.1 = max 4 (min (F.SDM_CH.clk_div.get v) 100) := rfl
    rw [f_setIf_apart _ _ (by decide), f_put_apart _ (by decide), f_put_self _ _ _ _ _ _ (by decide), hd]
    exact Nat.mod_eq_of_lt (by change _ < 2 ^ 7; omega)

/-- Settling starts anew (R87). -/
theorem unsettle_keeps (s : State) (p n : Nat) :
    Acquired [.SDM_STAT] s (s.unsettle p n) ∧ (s.unsettle p n).sdmc p n = { s.sdmc p n with outs := 0 } ∧
      (s.unsettle p n).bit F.SDM_STAT.unsettled p n = decide (1 < s.sdmN p n) :=
  ⟨.put (.updAcq (.refl s)), sdmc_setSdmc s p n _, bit_putb_self _ _ _ _ _ _ (by decide)⟩

/-- A channel that is enabled starts unsettled (R87, R88). -/
theorem sdmOn_keeps (s : State) (p n : Nat) :
    Acquired [.SDM_STAT] s (s.sdmOn p n) ∧ (s.sdmOn p n).sdmc p n = { outs := 0, clk := !s.bit F.SDM_CH.sync p n } ∧
      (s.sdmOn p n).bit F.SDM_STAT.unsettled p n = decide (1 < s.sdmN p n) := by
  obtain ⟨ha, hc, hu⟩ := unsettle_keeps (s.setSdmc p n { clk := !s.bit F.SDM_CH.sync p n }) p n
  rw [sdmc_setSdmc] at hc
  exact ⟨(Acquired.updAcq (.refl s)).trans ha, hc, hu⟩

/-- A channel that is disabled has no state, and its fast path no level. -/
theorem sdmOff_keeps (s : State) (p : Nat) {n : Nat} (hn : n < 32) :
    Acquired [.MUZ_LIVE] s (s.sdmOff p n) ∧ (s.sdmOff p n).sdmc p n = {} ∧ (s.sdmOff p n).nbit .MUZ_LIVE n p 1 = false :=
  ⟨.putNbit (.updAcq (.refl s)), sdmc_setSdmc s p n _, nbit_putNbit_self _ _ hn _ _ _ _⟩

section
variable {s : State} {m : Master} {p : PackIx} {n : Fin 8} (h : (s.req m).admits (s.boundOwner p (s.f F.SDM_CH.axis p n)) = true)
  (hl : (decide (s.f F.SDM_CH.axis p n < 6) && s.axLk p (s.f F.SDM_CH.axis p n)) = false)
include h hl

theorem sdmEnable_exec (v : Word) :
    exec (.sdmEnable m p n v) s =
      ok (if v.getLsbD 0 && !s.bit F.SDM_CH.en p n then (sdmConfigured s p n v).sdmOn p n
        else if !v.getLsbD 0 && s.bit F.SDM_CH.en p n then (sdmConfigured s p n v).sdmOff p n else sdmConfigured s p n v) :=
  packPut_ok rfl p.isLt n.isLt (by decide) h rfl fun _ => hookSdm_channel hl v

theorem sdmEnable_keeps (v : Word) : ∃ t, exec (.sdmEnable m p n v) s = ok t ∧ t.bit F.SDM_CH.en p n = v.getLsbD 0 ∧
    t.f F.SDM_CH.clk_div p n = max 4 (min (F.SDM_CH.clk_div.get v) 100) ∧
    (v.getLsbD 0 = true → s.bit F.SDM_CH.en p n = false →
      t.sdmc p n = { outs := 0, clk := !v.getLsbD 19 } ∧ t.bit F.SDM_STAT.unsettled p n = decide (1 < s.sdmN p n)) ∧
    (v.getLsbD 0 = false → s.bit F.SDM_CH.en p n = true → t.sdmc p n = {} ∧ t.nbit .MUZ_LIVE n p 1 = false) ∧
    (v.getLsbD 0 = s.bit F.SDM_CH.en p n → t.acqs = s.acqs) ∧ KeepsRegs s t [.SDM_CH, .SDM_STAT, .MUZ_LIVE] := by
  obtain ⟨ha, hq, hen, hsync, hdiv⟩ := sdmConfigured_keeps s p n v
  have hx := sdmEnable_exec h hl v
  have hN : (sdmConfigured s p n v).sdmN p n = s.sdmN p n := congrArg (max 1) (ha.f_eq (g := F.SDM_FLT.order) (by decide) _ _ _)
  generalize sdmConfigured s p n v = u at *
  cases hv : v.getLsbD 0 with
  | true =>
    rw [hv] at hx hen
    cases hb : s.bit F.SDM_CH.en p n with
    | true =>
      rw [hb] at hx
      exact ⟨u, hx, hen, hdiv, nofun, nofun, fun _ => hq, ha.mono.regs⟩
    | false =>
      rw [hb] at hx
      obtain ⟨hon, hc, hu⟩ := sdmOn_keeps u p n
      rw [hsync] at hc
      exact ⟨u.sdmOn p n, hx, (hon.bit_eq (by decide) _ _ _).trans hen, (hon.f_eq (by decide) _ _ _).trans hdiv,
        fun _ _ => ⟨hc, hu.trans (by rw [hN])⟩, nofun, nofun, (ha.mono.trans hon.mono).regs⟩
  | false =>
    rw [hv] at hx hen
    cases hb : s.bit F.SDM_CH.en p n with
    | true =>
      rw [hb] at hx
      obtain ⟨hoff, hc, hlow⟩ := sdmOff_keeps u p (n := n) (by omega)
      exact ⟨u.sdmOff p n, hx, (hoff.bit_eq (by decide) _ _ _).trans hen, (hoff.f_eq (by decide) _ _ _).trans hdiv, nofun,
        fun _ _ => ⟨hc, hlow⟩, nofun, (ha.mono.trans hoff.mono).regs⟩
    | false =>
      rw [hb] at hx
      exact ⟨u, hx, hen, hdiv, nofun, nofun, fun _ => hq, ha.mono.regs⟩

end

/-! ### The value of a window at order 1 -/

/-- The first sum of `n` successive elements of a list of `n` is the list's. -/
theorem movingSum_whole {n : Nat} {xs : List Int} (hn : 0 < n) (hl : xs.length = n) : (movingSum n xs).headD 0 = xs.sum := by
  have hsum := List.sum_take_add_sum_drop xs (n - 1)
  obtain ⟨x, hx⟩ : ∃ x, xs.drop (n - 1) = [x] := List.length_eq_one_iff.mp (by rw [List.length_drop]; omega)
  rw [movingSum, hx]
  rw [hx, List.sum_singleton] at hsum
  cases xs with
  | nil => simp at hx
  | cons y ys => exact hsum

/-- One for each bit that is 1 and minus one for each that is 0 (R86). -/
theorem sum_signs (bits : List Bool) : (bits.map fun b => if b then (1 : Int) else -1).sum = 2 * (bits.count true : Int) - bits.length := by
  induction bits with
  | nil => rfl
  | cons b bs ih => cases b <;> simp [ih] <;> omega

theorem sincOut_one {n : Nat} {bits : List Bool} (hn : 0 < n) (hl : n ≤ bits.length) :
    sincOut 1 n (lastBits 1 n bits) = 2 * ((bits.drop (bits.length - n)).count true : Int) - n := by
  have hd : lastBits 1 n bits = bits.drop (bits.length - n) := by
    rw [lastBits, sincLen]
    congr 2
    omega
  have hlen : (bits.drop (bits.length - n)).length = n := by
    rw [List.length_drop]
    omega
  calc sincOut 1 n (lastBits 1 n bits)
    _ = (movingSum n ((bits.drop (bits.length - n)).map fun b => if b then 1 else -1)).headD 0 := by rw [hd]; rfl
    _ = 2 * ((bits.drop (bits.length - n)).count true : Int) - n := by rw [movingSum_whole hn (by rw [List.length_map, hlen]), sum_signs, hlen]

/-! ### Outputs of the decimator -/

/-- An output of a channel's decimator has left for the router (R86, R87). -/
structure DecimatorSent (u t : State) (p n : Nat) (raw : Int) (tag : Tag) : Prop where
  acquired : Acquired [.SDM_STAT] u t
  sent : ∃ m : Samp, (t.acq p).out = (u.acq p).out ++ [m] ∧ m.kind = 1 ∧ m.n = n ∧ m.tag = tag ∧
    m.den = u.f F.SDM_FLT.osr p n ^ u.sdmN p n ∧ m.raw = raw
  outs : (t.sdmc p n).outs = min ((u.sdmc p n).outs + 1) 3
  j : (t.sdmc p n).j = (u.sdmc p n).j + 1
  unsettled : t.bit F.SDM_STAT.unsettled p n = decide ((u.sdmc p n).outs + 2 < u.sdmN p n)

theorem decimatorSent_sdmOut (u : State) (p n : Nat) (bits : List Bool) (tag : Tag) (slot : Bool) :
    DecimatorSent u (u.sdmOut p n bits tag slot) p n (sincOut (u.sdmN p n) (u.f F.SDM_FLT.osr p n) bits) tag := by
  unfold State.sdmOut
  extract_lets k ord osr flags smp s1
  have hc : ((s1.setSdmc p n { k with outs := min (k.outs + 1) 3, j := k.j + 1 }).putb F.SDM_STAT.unsettled
      (decide (k.outs + 2 < ord)) p n).sdmc p n = { k with outs := min (k.outs + 1) 3, j := k.j + 1 } := sdmc_setSdmc s1 p n _
  refine ⟨.put (.updAcq (.updAcq (.refl u))), ⟨smp, ?_, rfl, rfl, rfl, rfl, rfl⟩, by rw [hc], by rw [hc],
    bit_putb_self _ _ _ _ _ _ (by decide)⟩
  change ((s1.setSdmc p n _).acq p).out = _
  rw [State.setSdmc, acq_updAcq]
  change (s1.acq p).out = _
  rw [acq_updAcq]

/-- The instant of a channel's output: a synchronised one's is the end of its window (R88). -/
abbrev outputInstant (s : State) (p n : Nat) : State := if s.bit F.SDM_CH.sync p n then s.run (s.sdmWindow p n - s.clk.raw) else s

/-- An enabled channel whose modulator clock runs delivers an output (R86, R88). -/
theorem decimatorSent_decimOut {s : State} {p n : Nat} (he : s.bit F.SDM_CH.en p n = true)
    (hc : (!s.bit F.SDM_CH.sync p n || (s.sdmc p n).clk) = true) (bits : List Bool) :
    let u := outputInstant s p n
    DecimatorSent u (s.decimOut p n bits) p n (sincOut (u.sdmN p n) (u.f F.SDM_FLT.osr p n) bits)
      (if s.bit F.SDM_CH.sync p n && u.bit F.PWM_STATUS.clk_ok p then u.tagOf (s.sdmWindow p n) else u.fieldNow p) := by
  unfold State.decimOut outputInstant
  rw [he]
  cases hs : s.bit F.SDM_CH.sync p n with
  | true =>
    rw [hs] at hc
    change (s.sdmc p n).clk = true at hc
    dsimp only
    rw [hc]
    exact decimatorSent_sdmOut _ p n bits _ _
  | false => exact decimatorSent_sdmOut _ p n bits _ _

/-- A channel that is not enabled, or whose modulator clock waits, delivers nothing. -/
theorem decimOut_none {s : State} {p n : Nat} (h : (s.bit F.SDM_CH.en p n && (!s.bit F.SDM_CH.sync p n || (s.sdmc p n).clk)) = false)
    (bits : List Bool) : s.decimOut p n bits = s := by
  unfold State.decimOut
  cases he : s.bit F.SDM_CH.en p n with
  | false => rfl
  | true =>
    cases hs : s.bit F.SDM_CH.sync p n with
    | false => simp [he, hs] at h
    | true =>
      have hc : (s.sdmc p n).clk = false := by simpa [he, hs] using h
      simp [hc]

/-! ### Fast paths -/

/-- A fast path takes a level: the acquisition stays, and the muzzle shows it (R89, R201). -/
theorem fastLevel_keeps (s : State) (p : Nat) {n : Nat} (hn : n < 32) (on : Bool) :
    (s.fastLevel p n on).acqs = s.acqs ∧ (s.fastLevel p n on).nbit .MUZ_LIVE n p 1 = on ∧
      Within (.LE_AX_STAT :: haltRegs) s (s.fastLevel p n on) := by
  unfold State.fastLevel
  extract_lets was s1
  have h1 : s1.nbit .MUZ_LIVE n p 1 = on := nbit_putNbit_self s _ hn _ _ _ _
  have hw : Within (.LE_AX_STAT :: haltRegs) s s1 := .putNbit (.refl s)
  split
  · have hp := spared_srcPulse s1 p (32 + n) (s1.fieldNow p)
    exact ⟨hp.acqs, (congrArg (·.getLsbD n) (hp.live p 1 0 (by decide))).trans h1, hw.trans (within_srcPulse _ _ _ _)⟩
  · exact ⟨rfl, h1, hw⟩

theorem fastOut_off {s : State} {p n : Nat} (h : (s.bit F.SDM_CH.en p n && s.bit F.SDM_FLT.f_en p n) = false) (bits : List Bool) :
    s.fastOut p n bits = s := by
  unfold State.fastOut
  rw [if_pos (by rw [← Bool.not_and, h]; rfl)]

/-- The number of settled outputs in a row beyond a threshold, with the channel's next output (R89). -/
abbrev beyondNext (s : State) (p n b : Nat) : State :=
  s.setSdmc p n { s.sdmc p n with fast := min ((s.sdmc p n).fast + 1) 3, beyond := b }

/-- The channel's trip is noted and counted. -/
abbrev fastTripped (s : State) (p n : Nat) : State := (s.setb F.SDM_STAT.f_trip p n).inc F.SDM_STAT.f_trip_cnt p n

/-- The outputs in a row beyond a threshold after one of value `v` at order 1 (R89). -/
def fastRun (s : State) (p n : Nat) (v : Int) : Nat :=
  let r := s.f F.SDM_FLT.f_osr p n
  if (BitVec.ofNat 16 (s.f F.SDM_FTHR.f_hi p n)).toInt * r < v * 32768 ∨ v * 32768 < (BitVec.ofNat 16 (s.f F.SDM_FTHR.f_lo p n)).toInt * r then
    min ((s.sdmc p n).beyond + 1) 9
  else 0

section
variable {s : State} {p n : Nat} (he : s.bit F.SDM_CH.en p n = true) (hf : s.bit F.SDM_FLT.f_en p n = true)
  (h1 : max 1 (s.f F.SDM_FLT.f_order p n) = 1) (bits : List Bool) {b : Nat}
  (hb : fastRun s p n (sincOut 1 (s.f F.SDM_FLT.f_osr p n) bits) = b)
include he hf h1 hb

/-- At order 1 every output is settled. -/
theorem fastOut_eq : s.fastOut p n bits =
    (if b = s.f F.SDM_FLT.f_cnt p n + 1 then fastTripped (beyondNext s p n b) p n else beyondNext s p n b).fastLevel p n
      (decide (s.f F.SDM_FLT.f_cnt p n + 1 ≤ b)) := by
  unfold State.fastOut
  rw [he, hf, h1, ← hb]
  simp only [fastRun, Nat.le_add_left, pow_one, decide_true, Bool.true_and, decide_eq_true_eq, Bool.not_true, Bool.or_self,
    Bool.false_eq_true, if_false]
  rfl

/-- A channel's output at order 1 beyond neither threshold withdraws its level, and one beyond them trips at the (f_cnt + 1)th in a row
(R89). -/
theorem fastOut_keeps (hn : n < 32) :
    ((s.fastOut p n bits).sdmc p n).beyond = b ∧
      (b = s.f F.SDM_FLT.f_cnt p n + 1 → (s.fastOut p n bits).bit F.SDM_STAT.f_trip p n = true) ∧
      (s.fastOut p n bits).nbit .MUZ_LIVE n p 1 = decide (s.f F.SDM_FLT.f_cnt p n + 1 ≤ b) ∧
      (s.fastOut p n bits).mem = s.mem ∧ (b = 0 → KeepsRegs s (s.fastOut p n bits) [.MUZ_LIVE]) := by
  rw [fastOut_eq he hf h1 bits hb]
  have hc : (beyondNext s p n b).sdmc p n = { s.sdmc p n with fast := min ((s.sdmc p n).fast + 1) 3, beyond := b } := sdmc_setSdmc s p n _
  have hs : Acquired [.SDM_STAT] s (beyondNext s p n b) := .updAcq (.refl s)
  obtain ⟨t, ht, hw, hq, htrip⟩ : ∃ t,
      (if b = s.f F.SDM_FLT.f_cnt p n + 1 then fastTripped (beyondNext s p n b) p n else beyondNext s p n b) = t ∧
      Within [.SDM_STAT] s t ∧ t.acqs = (beyondNext s p n b).acqs ∧
      (b = s.f F.SDM_FLT.f_cnt p n + 1 → t.bit F.SDM_STAT.f_trip p n = true) := by
    refine ⟨_, rfl, ?_⟩
    split
    · unfold fastTripped State.inc
      split <;> exact ⟨.put (.put hs.within), rfl, fun _ => by rw [bit_put_apart _ (by decide), bit_setb_self _ _ _ _ _ (by decide)]⟩
    · next hx => exact ⟨hs.within, rfl, fun h => absurd h hx⟩
  obtain ⟨hacqs, hlive, hrest⟩ := fastLevel_keeps t p hn (decide (s.f F.SDM_FLT.f_cnt p n + 1 ≤ b))
  rw [ht]
  refine ⟨?_, fun h => (hrest.bit_eq F.SDM_STAT.f_trip p n 0).trans (htrip h), hlive, hrest.mem.trans hw.mem, fun h0 => ?_⟩
  · rw [State.sdmc, acq_of_acqs (hacqs.trans hq), ← State.sdmc, hc]
  · rw [if_neg (by omega)] at ht
    subst h0 ht
    exact (Acquired.putNbit (.updAcq (.refl s)) : Acquired [.MUZ_LIVE] s _).regs

end

/-! ### A stuck modulator -/

theorem stuck_none {s : State} {p n : Nat} (h : s.bit F.SDM_CH.en p n = false ∨ s.bit F.SDM_STAT.stuck p n = true) : s.stuck p n = s := by
  unfold State.stuck
  rcases h with h | h <;> simp [h]

/-- A stuck modulator is noted, and an alarm says so (R90). -/
theorem stuck_keeps {s : State} {p n : Nat} (he : s.bit F.SDM_CH.en p n = true) (hk : s.bit F.SDM_STAT.stuck p n = false) :
    (s.stuck p n).bit F.SDM_STAT.stuck p n = true ∧ (s.stuck p n).bit F.SDM_STAT.stuck_seen p n = true ∧
      Within (.SDM_STAT :: alarmRegs) s (s.stuck p n) ∧ (s.stuck p n).acqs = s.acqs := by
  unfold State.stuck
  rw [if_neg (by simp [he, hk])]
  extract_lets s1
  have h1 : Within (.SDM_STAT :: alarmRegs) s s1 := .put (.put (.refl s))
  have hs : s1.bit F.SDM_STAT.stuck p n = true := by rw [bit_setb_apart _ (by decide), bit_setb_self _ _ _ _ _ (by decide)]
  have hseen : s1.bit F.SDM_STAT.stuck_seen p n = true := bit_setb_self _ _ _ _ _ (by decide)
  have hq : s1.acqs = s.acqs := rfl
  generalize s1 = t at h1 hs hseen hq
  have hw := within_alarm t [(t.boundOwner p (t.f F.SDM_CH.axis p n)).ten] 8 (16 * p + n) 1 0 0 t.now
  exact ⟨(hw.bit_eq F.SDM_STAT.stuck p n 0).trans hs, (hw.bit_eq F.SDM_STAT.stuck_seen p n 0).trans hseen, h1.trans hw.mono,
    by rw [(reported_alarm ..).rest, hq]⟩

theorem unstick_none {s : State} {p n : Nat} (h : s.bit F.SDM_STAT.stuck p n = false) : s.unstick p n = s := if_neg (ne_true_of_eq_false h)

/-- A modulator that moves again settles anew (R87, R90). -/
theorem unstick_keeps {s : State} {p n : Nat} (h : s.bit F.SDM_STAT.stuck p n = true) :
    (s.unstick p n).bit F.SDM_STAT.stuck p n = false ∧ ((s.unstick p n).sdmc p n).outs = 0 ∧
      (s.unstick p n).bit F.SDM_STAT.unsettled p n = decide (1 < s.sdmN p n) ∧ Acquired [.SDM_STAT] s (s.unstick p n) := by
  rw [State.unstick, if_pos h]
  obtain ⟨ha, hc, hu⟩ := unsettle_keeps (s.clrb F.SDM_STAT.stuck p n) p n
  have hs : (s.clrb F.SDM_STAT.stuck p n).bit F.SDM_STAT.stuck p n = false := bit_clrb_self _ _ _ _ _ (by decide)
  refine ⟨?_, by rw [hc], hu.trans ?_, (Acquired.put (.refl s)).trans ha⟩
  · rw [State.unsettle, bit_putb_apart _ (by decide)]
    exact hs
  · have hw : Within [.SDM_STAT] s (s.clrb F.SDM_STAT.stuck p n) := .put (.refl s)
    rw [State.sdmN, hw.f_eq F.SDM_FLT.order p n 0]
    rfl

end Sys2Proof.Proofs
end

section
/-! CAL_SET_COMMIT (R81): the staged words and the configuration of a calibration set are written together. -/

namespace Sys2Proof.Proofs
open Sys2Proof Sys2Proof.Machine Sys2Proof.Laws

/-- The staged value of a calibration word. -/
abbrev stagedAt (s : State) (p key : Nat) : Option Word := SMap.get none (s.acq p).staged key

/-- Between two states only set `k` of the listed registers of pack `p` has changed, beside the acquisition and the words kept from the start
of the tick. -/
structure SetWritten (p k : Nat) (rs : List RegName) (s t : State) : Prop where
  rest : t = { s with regs := t.regs, acqs := t.acqs, was := t.was }
  kept : ∀ r q i j, ¬ (r ∈ rs ∧ q = p ∧ i = k) → t.rd r q i j = s.rd r q i j

namespace SetWritten

variable {p k : Nat} {rs : List RegName} {s a t : State}

theorem refl (s : State) : SetWritten p k rs s s := ⟨rfl, fun _ _ _ _ _ => rfl⟩

theorem trans (h : SetWritten p k rs s a) (g : SetWritten p k rs a t) : SetWritten p k rs s t :=
  ⟨by rw [g.rest, h.rest], fun r q i j hn => (g.kept r q i j hn).trans (h.kept r q i j hn)⟩

theorem mono {rs' : List RegName} (h : SetWritten p k rs s t) (hs : rs ⊆ rs') : SetWritten p k rs' s t :=
  ⟨h.rest, fun r q i j hn => h.kept r q i j fun hx => hn ⟨hs hx.1, hx.2⟩⟩

end SetWritten

/-- A word of a calibration set is written, its value at the start of the tick kept. -/
def calWord (s : State) (r : RegName) (p k : Nat) (v : Word) : State := (s.keepWas r p k 0).wr r v p k

theorem keepWas_rest (s : State) (r : RegName) (p i j : Nat) : s.keepWas r p i j = { s with was := (s.keepWas r p i j).was } := by
  unfold State.keepWas
  extract_lets old
  split
  · rfl
  · split <;> rfl

theorem setWritten_calWord (s : State) (r : RegName) (p k : Nat) (v : Word) : SetWritten p k [r] s (calWord s r p k v) := by
  unfold calWord
  rw [keepWas_rest]
  refine ⟨rfl, fun r' q i j hn => (rd_wr ..).trans (if_neg fun h => hn ?_)⟩
  exact ⟨List.mem_singleton.mpr h.1, h.2.1, h.2.2.1⟩

theorem acqs_calWord (s : State) (r : RegName) (p k : Nat) (v : Word) : (calWord s r p k v).acqs = s.acqs := by
  unfold calWord
  rw [keepWas_rest, wr_acqs]

/-- A staged word is written to its register. -/
def calTake (s : State) (p k key : Nat) (r : RegName) : State :=
  match stagedAt s p key with
  | some v => (calWord s r p k v).updAcq p fun q => { q with staged := q.staged.set none key none }
  | none => s

/-- A staged word reaches its register, the other staged words stay. -/
theorem calTake_keeps (s : State) (p k key : Nat) (r : RegName) :
    SetWritten p k [r] s (calTake s p k key r) ∧ (calTake s p k key r).rd r p k = (stagedAt s p key).getD (s.rd r p k) ∧
      ∀ key', key' ≠ key → stagedAt (calTake s p k key r) p key' = stagedAt s p key' := by
  unfold calTake
  cases h : stagedAt s p key with
  | none => exact ⟨.refl s, rfl, fun _ _ => rfl⟩
  | some v =>
    have hw := setWritten_calWord s r p k v
    have hq := acqs_calWord s r p k v
    have hv : (calWord s r p k v).rd r p k = v := rd_wr_self ..
    dsimp only
    generalize calWord s r p k v = t at hw hq hv
    refine ⟨⟨by rw [hw.rest]; rfl, hw.kept⟩, hv, fun key' hk => ?_⟩
    rw [stagedAt, acq_updAcq, acq_of_acqs hq]
    exact SMap_get_set_ne (none : Option Word) none _ _ _ none hk

/-- The staged words of a set are written, and its configuration. -/
def setCommitted (s : State) (p k base : Nat) (o g l c : RegName) (v : Word) : State :=
  calWord (calTake (calTake (calTake s p k base o) p k (base + 1) g) p k (base + 2) l) c p k v

theorem setCommitted_keeps (s : State) (p k base : Nat) {o g l c : RegName} (h : [o, g, l, c].Nodup) (v : Word) :
    SetWritten p k [o, g, l, c] s (setCommitted s p k base o g l c v) ∧
      (setCommitted s p k base o g l c v).rd o p k = (stagedAt s p base).getD (s.rd o p k) ∧
      (setCommitted s p k base o g l c v).rd g p k = (stagedAt s p (base + 1)).getD (s.rd g p k) ∧
      (setCommitted s p k base o g l c v).rd l p k = (stagedAt s p (base + 2)).getD (s.rd l p k) ∧
      (setCommitted s p k base o g l c v).rd c p k = v := by
  obtain ⟨h1, ho, st1⟩ := calTake_keeps s p k base o
  generalize hs1 : calTake s p k base o = s1 at *
  obtain ⟨h2, hg, st2⟩ := calTake_keeps s1 p k (base + 1) g
  generalize hs2 : calTake s1 p k (base + 1) g = s2 at *
  obtain ⟨h3, hl, st3⟩ := calTake_keeps s2 p k (base + 2) l
  have he : setCommitted s p k base o g l c v = calWord (calTake s2 p k (base + 2) l) c p k v := by rw [setCommitted, hs1, hs2]
  generalize calTake s2 p k (base + 2) l = s3 at *
  have h4 := setWritten_calWord s3 c p k v
  rw [he]
  simp only [List.nodup_cons, List.mem_cons, List.not_mem_nil, or_false, not_or, not_false_eq_true, List.nodup_nil, and_true] at h
  obtain ⟨⟨hog, hol, hoc⟩, ⟨hgl, hgc⟩, hlc⟩ := h
  have apart {rs : List RegName} {r r' : RegName} {a t : State} (hw : SetWritten p k [r'] a t) (hn : r ≠ r') : t.rd r p k = a.rd r p k :=
    hw.kept r p k 0 fun hx => hn (List.mem_singleton.mp hx.1)
  refine ⟨(((h1.mono (by simp)).trans (h2.mono (by simp))).trans (h3.mono (by simp))).trans (h4.mono (by simp)), ?_, ?_, ?_, rd_wr_self ..⟩
  · rw [apart (rs := []) h4 hoc, apart (rs := []) h3 hol, apart (rs := []) h2 hog, ho]
  · rw [apart (rs := []) h4 hgc, apart (rs := []) h3 hgl, hg, apart (rs := []) h1 (Ne.symm hog), st1 _ (by omega)]
  · rw [apart (rs := []) h4 hlc, hl, apart (rs := []) h2 (Ne.symm hgl), apart (rs := []) h1 (Ne.symm hol), st2 _ (by omega), st1 _ (by omega)]

theorem calWrite_locked {s : State} {p k : Nat} {sdm : Bool} (h : s.calLocked p (s.calAxis p sdm k) = true) (v : Word) :
    s.calWrite p sdm k 3 v = (s, .viol 5) := if_pos h

theorem calWrite_adc {s : State} {p k : Nat} (h : s.calLocked p (s.ainAxis p (k / 4)) = false) (v : Word) :
    s.calWrite p false k 3 v =
      (setCommitted s p k ((2 * k + false.toNat) * 4) .ADC_CAL_OFS .ADC_CAL_GAIN .ADC_CAL_LVL .ADC_CAL_CFG (v &&& 7), .ok) := by
  have hw : RegName.ADC_CAL_CFG.row.write 0 v = v &&& 7 := write_zero rfl v
  rw [← hw]
  exact if_neg (ne_true_of_eq_false h)

theorem calWrite_sdm {s : State} {p k : Nat} (h : s.calLocked p (s.f F.SDM_CH.axis p (k / 4)) = false) (v : Word) :
    s.calWrite p true k 3 v =
      (setCommitted s p k ((2 * k + true.toNat) * 4) .SDM_CAL_OFS .SDM_CAL_GAIN .SDM_CAL_LVL .SDM_CAL_CFG (v &&& 7), .ok) := by
  have hw : RegName.SDM_CAL_CFG.row.write 0 v = v &&& 7 := write_zero rfl v
  rw [← hw]
  exact if_neg (ne_true_of_eq_false h)

section
variable {s : State} {m : Master} {p : PackIx} {k : Fin 64} (v : Word)

theorem calSetCommit_adc (h : (s.req m).admits (s.ainOwner p (k / 4)) = true) (hl : s.calLocked p (s.ainAxis p (k / 4)) = false) :
    exec (.calSetCommit m p false k v) s =
      ok (setCommitted s p k ((2 * k + false.toNat) * 4) .ADC_CAL_OFS .ADC_CAL_GAIN .ADC_CAL_LVL .ADC_CAL_CFG (v &&& 7)) :=
  packPut_ok rfl p.isLt k.isLt (by decide) h rfl fun _ => calWrite_adc hl v

theorem calSetCommit_locked (h : (s.req m).admits (s.ainOwner p (k / 4)) = true) (hl : s.calLocked p (s.ainAxis p (k / 4)) = true) :
    ∃ t, exec (.calSetCommit m p false k v) s = .next t ∧ t.resp.err = true ∧ KeepsRegs s t lossRegs ∧ t.acqs = s.acqs := by
  obtain ⟨t, he, hlog⟩ := packPut_viol (m := m) (r := .ADC_CAL_CFG) (v := v) (k := 5) rfl p.isLt k.isLt (by decide) h rfl
    fun _ => calWrite_locked (sdm := false) hl v
  obtain ⟨u, hu, herr, hregs, hrest⟩ := errResp_of_logsOnly hlog
  exact ⟨u, he.trans hu, herr, hregs, by rw [hrest]⟩

theorem calSetCommit_sdm (hk : k.val < 32) (h : (s.req m).admits (s.boundOwner p (s.f F.SDM_CH.axis p (k / 4))) = true)
    (hl : s.calLocked p (s.f F.SDM_CH.axis p (k / 4)) = false) :
    exec (.calSetCommit m p true k v) s =
      ok (setCommitted s p k ((2 * k + true.toNat) * 4) .SDM_CAL_OFS .SDM_CAL_GAIN .SDM_CAL_LVL .SDM_CAL_CFG (v &&& 7)) := by
  have hc : exec (.calSetCommit m p true k v) s = s.putAt m .SDM_CAL_CFG v p k := if_pos (decide_eq_true hk)
  rw [hc]
  exact packPut_ok rfl p.isLt hk (by decide) h rfl fun _ => calWrite_sdm hl v

theorem calSetCommit_illFormed (hk : 32 ≤ k.val) : exec (.calSetCommit m p true k v) s = .fault .illFormed :=
  if_neg fun hc => absurd (of_decide_eq_true hc) (by omega)

end

end Sys2Proof.Proofs
end

section
/-! RESOLVER_ENABLE, RESOLVER_HOLD and the pairs of a resolver channel (R91 to R94). -/

namespace Sys2Proof.Proofs
open Sys2Proof Sys2Proof.Machine Sys2Proof.Laws

/-! ### Enabling a channel -/

/-- The tag of the next tick follows from the clock and its rate. -/
theorem now_ticks_one {s t : State} (hc : t.clk = s.clk) (hr : t.rd .TIME_RATE = s.rd .TIME_RATE) : (t.ticks 1).now = (s.ticks 1).now := by
  unfold State.ticks State.tickRate
  rw [hc, hr]
  split
  · simp only [State.now, State.aoCount, State.updClk, State.aoSince, State.aoTagAt, hc]
  · simp only [State.now, State.updClk, hc]

/-- A channel's configuration as it is stored: its inputs are even, else they are taken down and noted (R91). -/
def rsvConfigured (s : State) (p r : Nat) (v : Word) : State :=
  (s.wr .RSV_CTL (v &&& 0xFFFFDD) p r).setIf ((F.RSV_CTL.in_sin.get v) % 2 = 1 || (F.RSV_CTL.in_cos.get v) % 2 = 1) F.RSV_STAT.cfg_clamp p r

theorem rsvConfigured_keeps (s : State) (p r : Nat) (v : Word) :
    Acquired [.RSV_CTL, .RSV_STAT] s (rsvConfigured s p r v) ∧ (rsvConfigured s p r v).rd .RSV_CTL p r = v &&& 0xFFFFDD ∧
      (v.getLsbD 1 = true ∨ v.getLsbD 5 = true → (rsvConfigured s p r v).bit F.RSV_STAT.cfg_clamp p r = true) := by
  have odd (f : Fld) (hw : f.w = 4) (h : v.getLsbD f.lo = true) : f.get v % 2 = 1 := by
    rw [Fld.get, hw, Nat.mod_mod_of_dvd _ (by decide), Nat.shiftRight_eq_div_pow]
    rw [BitVec.getLsbD, Nat.testBit_eq_decide_div_mod_eq] at h
    exact of_decide_eq_true h
  unfold rsvConfigured
  refine ⟨.setIf (.wr (.refl s)), ?_, fun h => ?_⟩
  · have hw : Within [.RSV_STAT] (s.wr .RSV_CTL (v &&& 0xFFFFDD) p r) ((s.wr .RSV_CTL (v &&& 0xFFFFDD) p r).setIf
      ((F.RSV_CTL.in_sin.get v) % 2 = 1 || (F.RSV_CTL.in_cos.get v) % 2 = 1) F.RSV_STAT.cfg_clamp p r) := .setIf (.refl _)
    rw [hw.regs _ _ _ _ (by decide), rd_wr_self]
  · have hc : (decide ((F.RSV_CTL.in_sin.get v) % 2 = 1) || decide ((F.RSV_CTL.in_cos.get v) % 2 = 1)) = true := by
      rcases h with h | h
      · rw [decide_eq_true (odd F.RSV_CTL.in_sin rfl h), Bool.true_or]
      · rw [decide_eq_true (odd F.RSV_CTL.in_cos rfl h), Bool.or_true]
    rw [State.setIf, if_pos hc]
    exact bit_setb_self _ _ _ _ _ (by decide)

/-- A channel starts: its excitation is at phase 0 at the next tick (R91). -/
def rsvStarted (s : State) (p r : Nat) : State :=
  ((s.setb F.RSV_STAT.run p r).setPair .RSV_START_LO .RSV_START_HI (s.ticks 1).now p r).setRsvc p r
    { s.rsvc p r with start := s.clk.raw + 1, next := 0 }

theorem rsvStarted_keeps (s : State) (p r : Nat) :
    Acquired [.RSV_STAT, .RSV_START_LO, .RSV_START_HI] s (rsvStarted s p r) ∧ (rsvStarted s p r).bit F.RSV_STAT.run p r = true ∧
      (rsvStarted s p r).bit F.RSV_STAT.cfg_clamp p r = s.bit F.RSV_STAT.cfg_clamp p r ∧
      (rsvStarted s p r).pairAt .RSV_START_LO .RSV_START_HI p r = (s.ticks 1).now ∧ ((rsvStarted s p r).rsvc p r).start = s.clk.raw + 1 := by
  have ha : Acquired [.RSV_STAT, .RSV_START_LO, .RSV_START_HI] s
      ((s.setb F.RSV_STAT.run p r).setPair .RSV_START_LO .RSV_START_HI (s.ticks 1).now p r) := .setPair (.put (.refl s))
  unfold rsvStarted
  refine ⟨ha.updAcq, ?_, ?_, pairAt_setPair _ (by decide) _ _ _ _, by rw [rsvc_setRsvc]⟩
  · exact (bit_setPair_name (s.setb F.RSV_STAT.run p r) (by decide) (by decide) _ _ _ _ _ _ _).trans (bit_setb_self _ _ _ _ _ (by decide))
  · exact (bit_setPair_name (s.setb F.RSV_STAT.run p r) (by decide) (by decide) _ _ _ _ _ _ _).trans (bit_setb_apart _ (by decide) _ _ _ _ _ _)

section
variable {s : State} {m : Master} {p : PackIx} {r : Fin 2} (h : (s.req m).admits (s.boundOwner p (s.f F.RSV_CTL.axis p r)) = true)

theorem hookRsv_control {r : Nat} (hl : (decide (s.f F.RSV_CTL.axis p r < 6) && s.axLk p (s.f F.RSV_CTL.axis p r)) = false) (v : Word) :
    s.hookRsv .RSV_CTL p r 0 v =
      (if v.getLsbD 0 && !s.bit F.RSV_CTL.en p r then rsvStarted (rsvConfigured s p r v) p r
        else if !v.getLsbD 0 then (rsvConfigured s p r v).clrb F.RSV_STAT.run p r else rsvConfigured s p r v, .ok) := by
  have hw : RegName.RSV_CTL.row.write 0 (v &&& 0xFFFFFFDD) = v &&& 0xFFFFDD := by
    rw [write_zero rfl, BitVec.and_assoc]
    rfl
  unfold State.hookRsv
  dsimp only
  rw [if_neg (ne_true_of_eq_false hl), hw]
  change (if _ then (rsvStarted (rsvConfigured s p r v) p r, Wr.ok) else if _ then ((rsvConfigured s p r v).clrb F.RSV_STAT.run p r, Wr.ok) else
    (rsvConfigured s p r v, Wr.ok)) = _
  split
  · rfl
  · split <;> rfl

include h

/-- What the control word of an unlocked channel leaves (R91). -/
theorem resolverEnable_keeps (hl : (decide (s.f F.RSV_CTL.axis p r < 6) && s.axLk p (s.f F.RSV_CTL.axis p r)) = false) (v : Word) :
    ∃ t, exec (.resolverEnable m p r v) s = ok t ∧ Acquired [.RSV_CTL, .RSV_STAT, .RSV_START_LO, .RSV_START_HI] s t ∧
      t.rd .RSV_CTL p r = v &&& 0xFFFFDD ∧ (v.getLsbD 0 = false → t.bit F.RSV_STAT.run p r = false) ∧
      (v.getLsbD 0 = true → s.bit F.RSV_CTL.en p r = false → t.bit F.RSV_STAT.run p r = true ∧
        t.pairAt .RSV_START_LO .RSV_START_HI p r = (s.ticks 1).now ∧ (t.rsvc p r).start = s.clk.raw + 1) ∧
      (v.getLsbD 1 = true ∨ v.getLsbD 5 = true → t.bit F.RSV_STAT.cfg_clamp p r = true) := by
  obtain ⟨ha, hrd, hcl⟩ := rsvConfigured_keeps s p r v
  refine ⟨_, packPut_ok rfl p.isLt r.isLt (by decide) h rfl fun _ => hookRsv_control hl v, ?_⟩
  have hnow : ((rsvConfigured s p r v).ticks 1).now = (s.ticks 1).now := now_ticks_one ha.clk (ha.regs _ _ _ _ (by decide))
  have hclk := ha.clk
  generalize rsvConfigured s p r v = u at ha hrd hcl hnow hclk
  cases hv : v.getLsbD 0 with
  | false =>
    have hw : Acquired [.RSV_STAT] u (u.clrb F.RSV_STAT.run p r) := .put (.refl u)
    exact ⟨ha.mono.trans hw.mono, (hw.regs _ _ _ _ (by decide)).trans hrd, fun _ => bit_clrb_self _ _ _ _ _ (by decide), nofun,
      fun ho => (bit_clrb_apart _ (by decide) _ _ _ _ _ _).trans (hcl ho)⟩
  | true =>
    cases he : s.bit F.RSV_CTL.en p r with
    | true => exact ⟨ha.mono, hrd, nofun, nofun, hcl⟩
    | false =>
      obtain ⟨hs, hrun, hclamp, htag, hstart⟩ := rsvStarted_keeps u p r
      exact ⟨ha.mono.trans hs.mono, (hs.regs _ _ _ _ (by decide)).trans hrd, nofun,
        fun _ _ => ⟨hrun, htag.trans hnow, hstart.trans (by rw [hclk])⟩, fun ho => hclamp.trans (hcl ho)⟩

theorem resolverEnable_locked (hl : (decide (s.f F.RSV_CTL.axis p r < 6) && s.axLk p (s.f F.RSV_CTL.axis p r)) = true) (v : Word) :
    ∃ t, exec (.resolverEnable m p r v) s = .next t ∧ t.resp.err = true ∧ KeepsRegs s t lossRegs := by
  obtain ⟨t, he, hlog⟩ := packPut_viol (m := m) (r := .RSV_CTL) (v := v) (k := 4) rfl p.isLt r.isLt (by decide) h rfl fun _ => if_pos hl
  obtain ⟨u, hu, herr, hregs, -⟩ := errResp_of_logsOnly hlog
  exact ⟨u, he.trans hu, herr, hregs⟩

end

/-! ### The instants of a channel's holds -/

/-- The first tick at or after `t` that lies a whole number of cycles of `n` ticks after `o` (R92). -/
def cycleNext (n o t : Nat) : Nat := if t ≤ o then o else o + (t - o + n - 1) / n * n

theorem le_cycleNext {n : Nat} (hn : 0 < n) (o t : Nat) : t ≤ cycleNext n o t := by
  unfold cycleNext
  split
  · assumption
  · have := Nat.div_add_mod (t - o + n - 1) n
    have := Nat.mod_lt (t - o + n - 1) hn
    rw [Nat.mul_comm]
    omega

theorem cycleNext_lt {n o t : Nat} (h : o < t + n) : cycleNext n o t < t + n := by
  unfold cycleNext
  split
  · exact h
  · have := Nat.div_mul_le_self (t - o + n - 1) n
    omega

theorem cycleNext_mod (n : Nat) {c o : Nat} (h : o < n) (t : Nat) : (cycleNext n (c + o) t - c) % n = o := by
  unfold cycleNext
  split
  · rw [Nat.add_sub_cancel_left, Nat.mod_eq_of_lt h]
  · rw [Nat.add_assoc, Nat.add_sub_cancel_left, Nat.add_mul_mod_self_right, Nat.mod_eq_of_lt h]

/-- The cycle of a channel's excitation in ticks (R91). -/
abbrev rsvCycle (s : State) (p r : Nat) : Nat := 64 * max 1 (s.f F.RSV_EXC.exc_div p r)

/-- The first instant at or after `t` of the peak at `q` quarters of a cycle (R92). -/
abbrev rsvPeak (s : State) (p r q t : Nat) : Nat :=
  cycleNext (rsvCycle s p r) ((s.rsvc p r).start + (q * (rsvCycle s p r / 4) + s.f F.RSV_PH.ph p r) % rsvCycle s p r) t

theorem rsvDue_eq (s : State) (p r t : Nat) :
    s.rsvDue p r t = if rsvPeak s p r 1 t ≤ rsvPeak s p r 3 t then (rsvPeak s p r 1 t, false) else (rsvPeak s p r 3 t, true) := rfl

theorem rsvDue_cases (s : State) (p r t : Nat) :
    s.rsvDue p r t = (rsvPeak s p r 1 t, false) ∨ s.rsvDue p r t = (rsvPeak s p r 3 t, true) := by
  rw [rsvDue_eq]
  split
  · exact .inl rfl
  · exact .inr rfl

theorem rsvCycle_pos (s : State) (p r : Nat) : 0 < rsvCycle s p r := by
  unfold rsvCycle
  omega

theorem le_rsvDue (s : State) (p r t : Nat) : t ≤ (s.rsvDue p r t).1 := by
  rcases rsvDue_cases s p r t with h | h <;> rw [h] <;> exact le_cycleNext (rsvCycle_pos s p r) _ _

/-- The next hold lies within a cycle, at its peak's place in it (R92). -/
theorem rsvDue_within (s : State) (p r : Nat) {t : Nat} (h : (s.rsvc p r).start ≤ t) :
    (s.rsvDue p r t).1 < t + rsvCycle s p r ∧ ((s.rsvDue p r t).1 - (s.rsvc p r).start) % rsvCycle s p r =
      ((if (s.rsvDue p r t).2 then 3 else 1) * (rsvCycle s p r / 4) + s.f F.RSV_PH.ph p r) % rsvCycle s p r := by
  have hn := rsvCycle_pos s p r
  have peak (q : Nat) : rsvPeak s p r q t < t + rsvCycle s p r ∧
      (rsvPeak s p r q t - (s.rsvc p r).start) % rsvCycle s p r = (q * (rsvCycle s p r / 4) + s.f F.RSV_PH.ph p r) % rsvCycle s p r := by
    have ho := Nat.mod_lt (q * (rsvCycle s p r / 4) + s.f F.RSV_PH.ph p r) hn
    exact ⟨cycleNext_lt (by omega), cycleNext_mod _ ho t⟩
  rcases rsvDue_cases s p r t with hd | hd <;> rw [hd] <;> exact peak _

/-! ### Holding a pair -/

/-- The next hold instant of a channel from the present on. -/
abbrev rsvNext (s : State) (p r : Nat) : Nat × Bool := s.rsvDue p r (max (s.rsvc p r).next (max (s.rsvc p r).start s.clk.raw))

theorem rsvHold_none {s : State} {p r : Nat} {pol : Bool} (h : (s.bit F.RSV_STAT.run p r && (rsvNext s p r).2 == pol) = false) :
    s.rsvHold p r pol = s := if_neg (ne_true_of_eq_false h)

theorem rsvHold_due {s : State} {p r : Nat} {pol : Bool} (h : (s.bit F.RSV_STAT.run p r && (rsvNext s p r).2 == pol) = true) :
    s.rsvHold p r pol = (s.run ((rsvNext s p r).1 - s.clk.raw)).rsvTake p r pol := by
  have hle : _ ≤ (rsvNext s p r).1 := le_rsvDue s p r (max (s.rsvc p r).next (max (s.rsvc p r).start s.clk.raw))
  refine (if_pos h).trans (if_neg ?_)
  change ¬ (rsvNext s p r).1 < s.clk.raw
  omega

/-- A channel's two sample-and-holds are free and are two. -/
abbrev pairFree (u : State) (p r : Nat) : Prop :=
  u.shBusy p (u.f F.RSV_CTL.sh_sin p r) = false ∧ u.shBusy p (u.f F.RSV_CTL.sh_cos p r) = false ∧
    u.f F.RSV_CTL.sh_sin p r ≠ u.f F.RSV_CTL.sh_cos p r

/-- A pair that cannot be held is skipped, and noted (R92). -/
theorem rsvTake_skips {u : State} {p r : Nat} (h : u.shBusy p (u.f F.RSV_CTL.sh_sin p r) = true ∨
      u.shBusy p (u.f F.RSV_CTL.sh_cos p r) = true ∨ u.f F.RSV_CTL.sh_sin p r = u.f F.RSV_CTL.sh_cos p r) (pol : Bool) :
    (u.rsvTake p r pol).bit F.RSV_STAT.miss p r = true ∧ ((u.rsvTake p r pol).rsvc p r).next = u.clk.raw + 1 ∧
      Acquired [.RSV_STAT] u (u.rsvTake p r pol) := by
  unfold State.rsvTake
  extract_lets a b k0 s0 k1 s1 smp s2 s3
  have hs0 : (s0.rsvc p r).next = u.clk.raw + 1 := by rw [rsvc_setRsvc]
  rw [if_pos (by rw [Bool.or_eq_true, Bool.or_eq_true, beq_iff_eq, or_assoc]; exact h)]
  exact ⟨bit_setb_self _ _ _ _ _ (by decide), hs0, .put (.updAcq (.refl u))⟩

/-- Both windings of a channel are held at the present tick. -/
structure PairHeld (u t : State) (p r : Nat) (pol : Bool) : Prop where
  acquired : Acquired [.ADC_STATUS] u t
  rsv : t.rsvc p r = { u.rsvc p r with next := u.clk.raw + 1, pol := pol, tag := u.now, lo := u.fWas F.RSV_AMP.lo p r,
                                       hi := u.fWas F.RSV_AMP.hi p r, sin := none, cos := none, flags := 0, open_ := true }
  winding : ∀ isSin : Bool, let q := t.sh p (if isSin then u.f F.RSV_CTL.sh_sin p r else u.f F.RSV_CTL.sh_cos p r)
    q.rsv = some (r, isSin) ∧ q.smp.tag = u.now ∧ q.st ≠ 0

theorem rsvTake_holds {u : State} {p r : Nat} (h : pairFree u p r) (pol : Bool) : PairHeld u (u.rsvTake p r pol) p r pol := by
  obtain ⟨ha, hb, hne⟩ := h
  unfold State.rsvTake
  extract_lets a b k0 s0 k1 s1 smp s2 s3
  rw [if_neg (by rw [Bool.or_eq_true, Bool.or_eq_true, beq_iff_eq, ha, hb]; simpa using hne)]
  have h1 : s1.rsvc p r = { s0.rsvc p r with pol := pol, tag := u.now, lo := u.fWas F.RSV_AMP.lo p r, hi := u.fWas F.RSV_AMP.hi p r,
                                             sin := none, cos := none, flags := 0, open_ := true } := rsvc_setRsvc s0 p r _
  have h0 : s0.rsvc p r = { u.rsvc p r with next := u.clk.raw + 1 } := rsvc_setRsvc u p r _
  have hm : HoldsMoved p s1 ((s3.sarNext p (a / 2)).sarNext p (b / 2)) :=
    (HoldsMoved.trans (.setSh (.setSh (.refl s1))) (holdsMoved_sarNext s3 p (a / 2))).trans (holdsMoved_sarNext _ p (b / 2))
  have hk (i : Nat) : SameHold (s3.sh p i) (((s3.sarNext p (a / 2)).sarNext p (b / 2)).sh p i) :=
    (sameHold_sarNext s3 p (a / 2) i).trans (sameHold_sarNext _ p (b / 2) i)
  have held {q q' : Hold} {isSin : Bool} (hq : SameHold q q') (hr : q.rsv = some (r, isSin)) (ht : q.smp.tag = u.now) (hst : q.st = 1) :
      q'.rsv = some (r, isSin) ∧ q'.smp.tag = u.now ∧ q'.st ≠ 0 :=
    ⟨(congrArg Hold.rsv hq.rest).trans hr, (congrArg (·.smp.tag) hq.rest).trans ht, fun hz => by have := hq.idle.mp hz; omega⟩
  have hsin : s3.sh p a = { st := 1, smp := smp (u.f F.RSV_CTL.in_sin p r), rsv := some (r, true), heldAt := u.clk.raw } := by
    rw [sh_setSh, if_neg hne, sh_setSh, if_pos rfl]
  have hcos : s3.sh p b = { st := 1, smp := smp (u.f F.RSV_CTL.in_cos p r), rsv := some (r, false), heldAt := u.clk.raw } := by
    rw [sh_setSh, if_pos rfl]
  refine ⟨(Acquired.updAcq (.updAcq (.refl u))).trans hm.acquired, by rw [hm.rsvc, h1, h0], fun isSin => ?_⟩
  cases isSin with
  | true => exact held (hk a) (by rw [hsin]) (by rw [hsin]) (by rw [hsin])
  | false => exact held (hk b) (by rw [hcos]) (by rw [hcos]) (by rw [hcos])

end Sys2Proof.Proofs
end

section
/-! The pairs of a resolver channel (R92 to R94): a pair enters position 0 of its FIFO when its second winding has been converted. -/

namespace Sys2Proof.Proofs
open Sys2Proof Sys2Proof.Machine Sys2Proof.Laws

/-- The registers of a channel's FIFO of pairs. -/
abbrev fifoRegs : List RegName := [.RSV_SMP, .RSV_INFO, .RSV_TAG_LO, .RSV_TAG_HI]

/-- The entry at position `i` of the FIFO is copied to the next position. -/
def pairShift (p r : Nat) (s : State) (i : Nat) : State :=
  (((s.wr .RSV_SMP (s.rd .RSV_SMP p r i) p r (i + 1)).wr .RSV_INFO (s.rd .RSV_INFO p r i) p r (i + 1)).wr .RSV_TAG_LO
    (s.rd .RSV_TAG_LO p r i) p r (i + 1)).wr .RSV_TAG_HI (s.rd .RSV_TAG_HI p r i) p r (i + 1)

theorem acquired_pairShift (p r : Nat) (s : State) (i : Nat) : Acquired fifoRegs s (pairShift p r s i) := .wr (.wr (.wr (.wr (.refl s))))

theorem acqs_pairShift (p r : Nat) (s : State) (i : Nat) : (pairShift p r s i).acqs = s.acqs := by
  simp only [pairShift, wr_acqs]

theorem rd_pairShift (p r : Nat) (s : State) (i : Nat) {g : RegName} (hg : g ∈ fifoRegs) (j : Nat) :
    (pairShift p r s i).rd g p r j = if j = i + 1 then s.rd g p r i else s.rd g p r j := by
  simp only [List.mem_cons, List.not_mem_nil, or_false] at hg
  obtain rfl | rfl | rfl | rfl := hg <;> simp [pairShift, rd_wr]

/-- Every entry of the FIFO has moved on by one position. -/
def pairsMoved (s : State) (p r : Nat) : State := [2, 1, 0].foldl (pairShift p r) s

theorem acquired_pairsMoved (s : State) (p r : Nat) : Acquired fifoRegs s (pairsMoved s p r) :=
  ((acquired_pairShift p r s 2).trans (acquired_pairShift p r _ 1)).trans (acquired_pairShift p r _ 0)

theorem acqs_pairsMoved (s : State) (p r : Nat) : (pairsMoved s p r).acqs = s.acqs := by
  simp only [pairsMoved, List.foldl, acqs_pairShift]

theorem rd_pairsMoved (s : State) (p r : Nat) {g : RegName} (hg : g ∈ fifoRegs) {i : Nat} (hi : i < 3) :
    (pairsMoved s p r).rd g p r (i + 1) = s.rd g p r i := by
  simp only [pairsMoved, List.foldl, rd_pairShift p r _ _ hg]
  interval_cases i <;> rfl

/-- A pair is written at position 0, with its tag and its notes (R93, R94). -/
def pairWritten (s : State) (p r : Nat) (k : Rsv) (w : Word) (bad : Bool) : State :=
  (((((((s.wr .RSV_SMP w p r 0).setPair .RSV_TAG_LO .RSV_TAG_HI k.tag p r 0).wr .RSV_INFO 0 p r 0).putb F.RSV_INFO.pol k.pol p r 0).putb
    F.RSV_INFO.amp_bad bad p r 0).put F.RSV_INFO.flags k.flags p r 0).put F.RSV_INFO.seq k.seq p r 0)

theorem acquired_pairWritten (s : State) (p r : Nat) (k : Rsv) (w : Word) (bad : Bool) : Acquired fifoRegs s (pairWritten s p r k w bad) :=
  .put (.put (.put (.put (.wr (.setPair (.wr (.refl s)))))))

theorem acqs_pairWritten (s : State) (p r : Nat) (k : Rsv) (w : Word) (bad : Bool) : (pairWritten s p r k w bad).acqs = s.acqs := by
  simp only [pairWritten, State.putb, State.setPair, put_acqs, wr_acqs]

theorem rd_pairWritten (s : State) (p r : Nat) (k : Rsv) (w : Word) (bad : Bool) (g : RegName) (i : Nat) :
    (pairWritten s p r k w bad).rd g p r (i + 1) = s.rd g p r (i + 1) := by
  simp [pairWritten, State.putb, State.setPair, rd_put, rd_wr]

theorem pairWritten_first (s : State) (p r : Nat) (k : Rsv) (w : Word) (bad : Bool) :
    (pairWritten s p r k w bad).rd .RSV_SMP p r 0 = w ∧ (pairWritten s p r k w bad).pairAt .RSV_TAG_LO .RSV_TAG_HI p r 0 = k.tag ∧
      (pairWritten s p r k w bad).f F.RSV_INFO.seq p r 0 = k.seq % 256 := by
  have h1 : Within [.RSV_INFO] ((s.wr .RSV_SMP w p r 0).setPair .RSV_TAG_LO .RSV_TAG_HI k.tag p r 0) (pairWritten s p r k w bad) :=
    .put (.put (.put (.put (.wr (.refl _)))))
  refine ⟨?_, ?_, f_put_self _ _ _ _ _ _ (by decide)⟩
  · rw [h1.regs _ _ _ _ (by decide), rd_setPair_name _ (by decide) (by decide), rd_wr_self]
  · rw [pairAt_within h1 _ _ _ _ _]
    exact pairAt_setPair _ (by decide) _ _ _ _

/-- What follows of a pair's amplitude: a bad one is noted and counted, and a second one in a row raises an alarm (R94). -/
def ampJudged (s : State) (p r : Nat) (bad : Bool) (run : Nat) : State :=
  let s5 := if bad then (s.setb F.RSV_STAT.amp_bad p r).inc F.RSV_STAT.amp_cnt p r else s
  if 2 ≤ run then s5.alarm [(s5.boundOwner p (s5.f F.RSV_CTL.axis p r)).ten] 8 (16 * p + 8 + r) 2 0 0 s5.now else s5

theorem ampJudged_keeps (s : State) (p r : Nat) (bad : Bool) (run : Nat) :
    Within (.RSV_STAT :: alarmRegs) s (ampJudged s p r bad run) ∧ (ampJudged s p r bad run).acqs = s.acqs := by
  unfold ampJudged
  extract_lets s5
  have h5 : Within (.RSV_STAT :: alarmRegs) s s5 ∧ s5.acqs = s.acqs := by
    unfold s5
    split
    · exact ⟨.inc (.put (.refl s)), by unfold State.inc; split <;> rfl⟩
    · exact ⟨.refl s, rfl⟩
  split
  · exact ⟨h5.1.trans (within_alarm _ _ _ _ _ _ _ _).mono, by rw [(reported_alarm ..).rest, h5.2]⟩
  · exact h5

/-- The channel's state once a pair has been filed (R93). -/
def pairNext (k : Rsv) (bad : Bool) : Rsv :=
  { k with sin := none, cos := none, open_ := false, seq := (k.seq + 1) % 256, held := min (k.held + 1) 4,
           badRun := min (if bad then k.badRun + 1 else 0) 2 }

/-- The amplitude of a pair lies outside the bounds that were in force at its hold (R94). -/
def ampBad (k : Rsv) (sn cs : BitVec 16) : Bool :=
  let a := sn.toInt.natAbs * sn.toInt.natAbs + cs.toInt.natAbs * cs.toInt.natAbs
  decide (a < k.lo * 32768 ∨ k.hi * 32768 < a)

theorem pairIn_eq (s : State) (p r : Nat) (k : Rsv) (sn cs : BitVec 16) :
    s.pairIn p r k sn cs =
      ampJudged ((pairWritten (pairsMoved s p r) p r k (cs.setWidth 32 <<< 16 ||| sn.setWidth 32) (ampBad k sn cs)).setRsvc p r
        (pairNext k (ampBad k sn cs))) p r (ampBad k sn cs) (if ampBad k sn cs then k.badRun + 1 else 0) := rfl

/-- A pair is at position 0 of the channel's FIFO, and the older ones are one position on (R93). -/
structure PairFiled (u t : State) (p r : Nat) (k : Rsv) (w : Word) : Prop where
  word : t.rd .RSV_SMP p r 0 = w
  tag : t.pairAt .RSV_TAG_LO .RSV_TAG_HI p r 0 = k.tag
  seq : t.f F.RSV_INFO.seq p r 0 = k.seq % 256
  older : ∀ g ∈ fifoRegs, ∀ i, i < 3 → t.rd g p r (i + 1) = u.rd g p r i
  next : (t.rsvc p r).seq = (k.seq + 1) % 256
  hold : (t.acq p).hold = (u.acq p).hold
  mem : t.mem = u.mem

theorem pairFiled_pairIn (u : State) (p r : Nat) (k : Rsv) (sn cs : BitVec 16) :
    PairFiled u (u.pairIn p r k sn cs) p r k (cs.setWidth 32 <<< 16 ||| sn.setWidth 32) := by
  rw [pairIn_eq]
  generalize ampBad k sn cs = bad
  generalize cs.setWidth 32 <<< 16 ||| sn.setWidth 32 = w
  obtain ⟨hw, htag, hseq⟩ := pairWritten_first (pairsMoved u p r) p r k w bad
  have holder (g : RegName) (hg : g ∈ fifoRegs) (i : Nat) (hi : i < 3) :
      (pairWritten (pairsMoved u p r) p r k w bad).rd g p r (i + 1) = u.rd g p r i := by rw [rd_pairWritten, rd_pairsMoved u p r hg hi]
  have hq : (pairWritten (pairsMoved u p r) p r k w bad).acqs = u.acqs := (acqs_pairWritten ..).trans (acqs_pairsMoved u p r)
  have ha : Acquired fifoRegs u (pairWritten (pairsMoved u p r) p r k w bad) :=
    (acquired_pairsMoved u p r).trans (acquired_pairWritten _ _ _ _ _ _)
  generalize pairWritten (pairsMoved u p r) p r k w bad = v at hw htag hseq holder hq ha
  have hv : Acquired [] v (v.setRsvc p r (pairNext k bad)) := .updAcq (.refl v)
  obtain ⟨hj, hacq⟩ := ampJudged_keeps (v.setRsvc p r (pairNext k bad)) p r bad (if bad then k.badRun + 1 else 0)
  generalize ampJudged (v.setRsvc p r (pairNext k bad)) p r bad (if bad then k.badRun + 1 else 0) = t at hj hacq
  have ht : Within (.RSV_STAT :: alarmRegs) v t := hv.within.mono.trans hj
  have hout : ∀ g ∈ fifoRegs, g ∉ (RegName.RSV_STAT :: alarmRegs) := by decide
  refine ⟨(ht.regs _ _ _ _ (by decide)).trans hw, (pairAt_within ht _ _ _ _ _).trans htag, (ht.f_eq F.RSV_INFO.seq _ _ _).trans hseq,
    fun g hg i hi => (ht.regs _ _ _ _ (hout g hg)).trans (holder g hg i hi), ?_, ?_, ht.mem.trans ha.within.mem⟩
  · rw [State.rsvc, acq_of_acqs hacq, ← State.rsvc, rsvc_setRsvc]
    rfl
  · rw [acq_of_acqs hacq, State.setRsvc, acq_updAcq]
    dsimp only
    rw [acq_of_acqs hq]

/-! ### The conversion of the second winding -/

/-- The cosine's conversion, where the sine's has ended, files the pair and frees its sample-and-hold (R92, R93). -/
theorem pairFiled_rsvDone {u : State} {p r : Nat} {x : BitVec 16} (hx : (u.rsvc p r).sin = some x) (h : Nat) (c : BitVec 16) :
    ∃ s1 k, PairFiled s1 (u.rsvDone p h r false c) p r k (c.setWidth 32 <<< 16 ||| x.setWidth 32) ∧ k.tag = (u.rsvc p r).tag ∧
      k.seq = (u.rsvc p r).seq ∧ Acquired [.RSV_STAT, .ADC_STATUS] u s1 ∧ (s1.sh p h).st = 0 := by
  unfold State.rsvDone
  extract_lets ovr s1 k0 k
  obtain ⟨hm, hst, -⟩ := shFree_keeps (u.setIf ovr F.RSV_STAT.ovr p r) p h
  have hn : Acquired [.RSV_STAT] u (u.setIf ovr F.RSV_STAT.ovr p r) := .setIf (.refl u)
  have hk0 : k0 = u.rsvc p r := by
    have hq : (u.setIf ovr F.RSV_STAT.ovr p r).acqs = u.acqs := by cases ovr <;> rfl
    exact (hm.rsvc r).trans (by rw [State.rsvc, acq_of_acqs hq, ← State.rsvc])
  clear_value k0
  have hsin : k.sin = some x := (congrArg Rsv.sin hk0).trans hx
  have hcos : k.cos = some c := rfl
  have htag : k.tag = (u.rsvc p r).tag := by rw [← hk0]
  have hseq : k.seq = (u.rsvc p r).seq := by rw [← hk0]
  rw [hsin, hcos]
  exact ⟨s1, k, pairFiled_pairIn s1 p r k x c, htag, hseq, hn.mono.trans hm.acquired.mono, hst⟩

theorem convDone_winding {u : State} {p h r : Nat} {isSin : Bool} (hr : (u.sh p h).rsv = some (r, isSin)) (c : BitVec 16) :
    u.convDone p h c = u.rsvDone p h r isSin c := by
  unfold State.convDone
  extract_lets q
  rw [show q.rsv = some (r, isSin) from hr]

end Sys2Proof.Proofs
end

section
/-! Sigma-delta channels, calibration sets and resolver channels together (R81, R84 to R94). -/

namespace Sys2Proof.Proofs
open Sys2Proof Sys2Proof.Machine Sys2Proof.Laws

/-! ### Windows of modulator bits -/

section
variable {s : State} {p : PackIx} {n : Fin 8} {bits : List Bool}

/-- The window covers the main decimator's filter where the channel is enabled (R86). -/
abbrev decimCovered (s : State) (p : PackIx) (n : Fin 8) (bits : List Bool) : Prop :=
  s.bit F.SDM_CH.en p n = true → s.sdmN p n * (s.f F.SDM_FLT.osr p n - 1) + 1 ≤ bits.length

theorem decimatorOutput_exec (hb : bits ≠ []) (hc : decimCovered s p n bits) :
    exec (.decimatorOutput p n bits) s = ok (s.acqClocked fun u => u.decimOut p n (lastBits (s.sdmN p n) (s.f F.SDM_FLT.osr p n) bits)) := by
  refine if_pos ?_
  rw [bitsWf, Bool.and_eq_true, Bool.or_eq_true]
  refine ⟨by simpa using hb, ?_⟩
  cases he : s.bit F.SDM_CH.en p n with
  | false => exact .inl rfl
  | true => exact .inr (decide_eq_true (hc he))

theorem decimatorOutput_illFormed (h : bits = [] ∨ (s.bit F.SDM_CH.en p n = true ∧
    bits.length < s.sdmN p n * (s.f F.SDM_FLT.osr p n - 1) + 1)) : exec (.decimatorOutput p n bits) s = .fault .illFormed := by
  refine if_neg ?_
  rcases h with rfl | ⟨he, hlen⟩
  · simp [bitsWf]
  · have hn : ¬ sincLen (s.sdmN p n) (s.f F.SDM_FLT.osr p n) ≤ bits.length := Nat.not_le.mpr hlen
    rw [he, decide_eq_false hn]
    simp

theorem decimatorOutput_away (hb : bits ≠ []) (hc : decimCovered s p n bits)
    (h : (acqLive s && s.bit F.SDM_CH.en p n && (!s.bit F.SDM_CH.sync p n || (s.sdmc p n).clk)) = false) :
    NoEvent (exec (.decimatorOutput p n bits) s) s := by
  rw [decimatorOutput_exec hb hc]
  refine noEvent_ok ?_
  cases hl : acqLive s with
  | false => exact when_false hl
  | true =>
    rw [hl, Bool.true_and] at h
    exact (when_true hl).trans (decimOut_none h _)

theorem decimatorOutput_sends (hb : bits ≠ []) (hc : decimCovered s p n bits) (hl : acqLive s = true) (he : s.bit F.SDM_CH.en p n = true)
    (hclk : (!s.bit F.SDM_CH.sync p n || (s.sdmc p n).clk) = true) :
    let u := outputInstant s p n
    ∃ t, exec (.decimatorOutput p n bits) s = ok t ∧
      DecimatorSent u t p n (sincOut (u.sdmN p n) (u.f F.SDM_FLT.osr p n) (lastBits (s.sdmN p n) (s.f F.SDM_FLT.osr p n) bits))
        (if s.bit F.SDM_CH.sync p n && u.bit F.PWM_STATUS.clk_ok p then u.tagOf (s.sdmWindow p n) else u.fieldNow p) :=
  ⟨_, (decimatorOutput_exec hb hc).trans (congrArg ok (when_true hl)), decimatorSent_decimOut he hclk _⟩

/-- The window covers the fast path's filter where the fast path is enabled (R89). -/
abbrev fastCovered (s : State) (p : PackIx) (n : Fin 8) (bits : List Bool) : Prop :=
  (s.bit F.SDM_CH.en p n && s.bit F.SDM_FLT.f_en p n) = true →
    max 1 (s.f F.SDM_FLT.f_order p n) * (s.f F.SDM_FLT.f_osr p n - 1) + 1 ≤ bits.length

theorem fastPathOutput_exec (hb : bits ≠ []) (hc : fastCovered s p n bits) :
    exec (.fastPathOutput p n bits) s =
      ok (s.acqClocked fun u => u.fastOut p n (lastBits (max 1 (s.f F.SDM_FLT.f_order p n)) (s.f F.SDM_FLT.f_osr p n) bits)) := by
  refine if_pos ?_
  rw [bitsWf, Bool.and_eq_true, Bool.or_eq_true]
  refine ⟨by simpa using hb, ?_⟩
  cases he : s.bit F.SDM_CH.en p n && s.bit F.SDM_FLT.f_en p n with
  | false => exact .inl rfl
  | true => exact .inr (decide_eq_true (hc he))

theorem fastPathOutput_away (hb : bits ≠ []) (hc : fastCovered s p n bits)
    (h : (s.bit F.SDM_CH.en p n && s.bit F.SDM_FLT.f_en p n) = false ∨ acqLive s = false) :
    NoEvent (exec (.fastPathOutput p n bits) s) s := by
  rw [fastPathOutput_exec hb hc]
  refine noEvent_ok ?_
  cases hl : acqLive s with
  | false => exact when_false hl
  | true => exact (when_true hl).trans (fastOut_off (h.resolve_right (by rw [hl]; decide)) _)

end

/-! ### Modulators -/

section
variable {s : State} {p : PackIx} {n : Fin 8}

theorem modulatorStuck_away (h : acqLive s = false ∨ s.bit F.SDM_CH.en p n = false ∨ s.bit F.SDM_STAT.stuck p n = true) :
    NoEvent (exec (.modulatorStuck p n) s) s := by
  refine noEvent_ok (t := s.acqClocked fun s => s.stuck p n) ?_
  cases hl : acqLive s with
  | false => exact when_false hl
  | true => exact (when_true hl).trans (stuck_none (h.resolve_left (by rw [hl]; decide)))

theorem stuckClear_away (h : acqLive s = false ∨ s.bit F.SDM_STAT.stuck p n = false) : NoEvent (exec (.stuckClear p n) s) s := by
  refine noEvent_ok (t := s.acqClocked fun s => s.unstick p n) ?_
  cases hl : acqLive s with
  | false => exact when_false hl
  | true => exact (when_true hl).trans (unstick_none (h.resolve_left (by rw [hl]; decide)))

end

/-! ### Resolver holds -/

theorem resolverHold_away {s : State} {p : PackIx} {r : Fin 2} {pol : Bool}
    (h : (s.bit F.PWM_STATUS.clk_ok p && s.bit F.RSV_STAT.run p r && (rsvNext s p r).2 == pol) = false) :
    NoEvent (exec (.resolverHold p r pol) s) s := by
  refine noEvent_ok (t := s.clocked p fun s => s.rsvHold p r pol) ?_
  cases hc : s.bit F.PWM_STATUS.clk_ok p with
  | false => exact when_false hc
  | true =>
    rw [hc, Bool.true_and] at h
    exact (when_true hc).trans (rsvHold_none h)

theorem resolverHold_exec {s : State} {p : PackIx} {r : Fin 2} {pol : Bool}
    (h : (s.bit F.PWM_STATUS.clk_ok p && s.bit F.RSV_STAT.run p r && (rsvNext s p r).2 == pol) = true) :
    exec (.resolverHold p r pol) s = ok ((s.run ((rsvNext s p r).1 - s.clk.raw)).rsvTake p r pol) := by
  rw [Bool.and_assoc, Bool.and_eq_true] at h
  exact congrArg ok ((when_true h.1).trans (rsvHold_due h.2))

/-! ### The obligation -/

/-- Settles O31: the channels' enables by what they store, their outputs by the state of the filter, the calibration sets by their lock,
and the resolver channels by their enable, their holds and the pairs that their conversions file. -/
theorem sigmaDeltaAndResolverChannelsComplete : Obligations.SigmaDeltaAndResolverChannelsComplete := by
  refine ⟨⟨fun m p n v s => ?enable, fun p n s => ⟨fun bits hb hc => ⟨decimatorOutput_away hb hc, fun hruns hord hosr => ?output⟩,
      fun bits h => decimatorOutput_illFormed h, fun bits => ?fast, fun hl he hk => ?stuck, modulatorStuck_away, fun hl hk => ?clear,
      stuckClear_away⟩, fun m p k cfg s => ?sets⟩,
    fun p r s => ⟨fun m v h => ?control, fun pol => ?hold, fun n hdiv hn hstart => ?due, fun k h c x hpast h2 h3 hk => ?pair⟩⟩
  case enable =>
    intro a h hl
    obtain ⟨t, ht, hen, hdiv, hon, hoff, hsame, hregs⟩ := sdmEnable_keeps h hl v
    rw [ht]
    exact accepts_ok ⟨hen, hdiv, hon, hoff, hsame, hregs⟩
  case output =>
    rw [Bool.and_eq_true, Bool.and_eq_true] at hruns
    obtain ⟨⟨hl, he⟩, hclk⟩ := hruns
    obtain ⟨t, ht, hs⟩ := decimatorOutput_sends hb hc hl he hclk
    obtain ⟨m, hout, hkind, hn, htag, hden, hraw⟩ := hs.sent
    have hN : (outputInstant s p n).sdmN p n = s.sdmN p n := congrArg (max 1) hord
    have hu := hs.unsettled
    rw [hosr, hN] at hden hraw
    rw [hN] at hu
    rw [ht]
    refine accepts_ok ⟨m, hout, hkind, hn, htag, hden, fun h1 h0 => ?_, hs.outs, hs.j, hu, hs.acquired.regs, by rw [hs.acquired.rest]⟩
    have h1' : s.sdmN p n = 1 := h1
    have hlen : s.sdmN p n * (s.f F.SDM_FLT.osr p n - 1) + 1 ≤ bits.length := hc he
    rw [h1'] at hlen
    rw [hraw, h1']
    exact sincOut_one h0 (by omega)
  case fast =>
    intro fo fr fruns ones hi lo hb hc
    refine ⟨fastPathOutput_away hb hc, fun hf hl h1 h0 => ?_⟩
    have hlen : fo * (fr - 1) + 1 ≤ bits.length := hc hf
    have hx := (fastPathOutput_exec hb hc).trans (congrArg ok (when_true hl))
    obtain ⟨he, hfe⟩ := Bool.and_eq_true_iff.mp hf
    rw [h1] at hlen
    have hv := sincOut_one h0 (by omega : fr ≤ bits.length)
    have hkeeps (b : Nat) := fun hrun => fastOut_keeps he hfe h1 (lastBits 1 fr bits) (b := b) hrun (by omega : n.val < 32)
    rw [show max 1 (s.f F.SDM_FLT.f_order p n) = 1 from h1] at hx
    rw [hx]
    generalize s.fastOut p n (lastBits 1 fr bits) = t at hkeeps
    refine ⟨fun hin => ?_, fun hout => ?_⟩
    · obtain ⟨hbeyond, -, hlive, hmem, hregs⟩ := hkeeps 0 (by rw [hv]; exact if_neg hin)
      exact accepts_ok ⟨hbeyond, hlive.trans (decide_eq_false (by omega)), hregs rfl, hmem⟩
    · obtain ⟨hbeyond, htrip, hlive, hmem, -⟩ := hkeeps (min ((s.sdmc p n).beyond + 1) 9) (by rw [hv]; exact if_pos hout)
      have hcnt : s.f F.SDM_FLT.f_cnt p n < 8 := Nat.mod_lt _ (by decide)
      exact accepts_ok ⟨hbeyond, fun hlast => ⟨htrip (by omega), hlive.trans (decide_eq_true (by omega))⟩, hmem⟩
  case stuck =>
    obtain ⟨hstuck, hseen, hw, hq⟩ := stuck_keeps he hk
    have hx : exec (.modulatorStuck p n) s = ok (s.stuck p n) := congrArg ok (when_true (f := fun s => s.stuck p n) hl)
    rw [hx]
    exact accepts_ok ⟨hstuck, hseen, hw.regs, hw.mem, hq⟩
  case clear =>
    obtain ⟨hstuck, houts, hun, ha⟩ := unstick_keeps hk
    have hx : exec (.stuckClear p n) s = ok (s.unstick p n) := congrArg ok (when_true (f := fun s => s.unstick p n) hl)
    rw [hx]
    exact accepts_ok ⟨hstuck, houts, hun, ha.regs, by rw [ha.rest]⟩
  case sets =>
    intro commits
    have done {sdm : Bool} {o g l c : RegName} (hn : [o, g, l, c].Nodup) :
        Accepts (ok (setCommitted s p k ((2 * k + sdm.toNat) * 4) o g l c (cfg &&& 7))) (commits sdm o g l c) := by
      obtain ⟨hs, ho, hg, hl, hc⟩ := setCommitted_keeps s p k ((2 * k + sdm.toNat) * 4) hn (cfg &&& 7)
      generalize setCommitted s p k ((2 * k + sdm.toNat) * 4) o g l c (cfg &&& 7) = t at hs ho hg hl hc
      have other (r : RegName) {i : Nat} (hi : i ≠ k) : t.rd r p i = s.rd r p i := hs.kept r p i 0 fun h => hi h.2.2
      exact accepts_ok ⟨ho, hg, hl, hc, fun i hi => ⟨other o hi, other g hi, other l hi, other c hi⟩,
        fun r q i j hr => hs.kept r q i j fun h => hr h.1, by rw [hs.rest]⟩
    refine ⟨fun h => ⟨fun hl => ?_, fun hl => calSetCommit_locked cfg h hl⟩, fun hk h hl => ?_, fun hk => calSetCommit_illFormed cfg hk⟩
    · rw [calSetCommit_adc cfg h hl]
      exact done (by decide)
    · rw [calSetCommit_sdm cfg hk h hl]
      exact done (by decide)
  case control =>
    intro locked
    refine ⟨fun hl => ?_, fun hl => resolverEnable_locked h hl v⟩
    obtain ⟨t, ht, ha, hrd, hoff, hon, hclamp⟩ := resolverEnable_keeps h hl v
    rw [ht]
    exact accepts_ok ⟨hrd, hoff, hon, hclamp, ha.regs, by rw [ha.rest]⟩
  case hold =>
    intro x on u a b
    refine ⟨resolverHold_away, fun hon ha hb hne => ?_, fun hon hskip => ?_⟩
    · have hp := rsvTake_holds (u := u) ⟨ha, hb, hne⟩ pol
      rw [resolverHold_exec hon]
      change Accepts (ok (u.rsvTake p r pol)) _
      generalize u.rsvTake p r pol = t at hp
      obtain ⟨hsr, hst, hs0⟩ := hp.winding true
      obtain ⟨hcr, hct, hc0⟩ := hp.winding false
      have hr := hp.rsv
      exact accepts_ok ⟨hsr, hcr, hst, hct, hs0, hc0, congrArg Rsv.tag hr, congrArg Rsv.pol hr, congrArg Rsv.next hr, congrArg Rsv.lo hr,
        congrArg Rsv.hi hr, hp.acquired.regs, by rw [hp.acquired.rest]⟩
    · obtain ⟨hmiss, hnext, ha⟩ := rsvTake_skips (u := u) hskip pol
      rw [resolverHold_exec hon]
      change Accepts (ok (u.rsvTake p r pol)) _
      generalize u.rsvTake p r pol = t at hmiss hnext ha
      exact accepts_ok ⟨hmiss, hnext, ha.regs, by rw [ha.rest]⟩
  case due =>
    have hcyc : rsvCycle s p r = n := by
      unfold rsvCycle
      omega
    have hw := rsvDue_within s p r hstart
    rw [hcyc] at hw
    exact ⟨le_rsvDue s p r s.clk.raw, hw⟩
  case pair =>
    intro u hr hx
    have hl : acqLive s = true := by simp [acqLive, hpast, h2, h3]
    obtain ⟨s1, q, hf, htag, hseq, ha, hst⟩ := pairFiled_rsvDone hx h c
    rw [conversionEnd_exec hl, convEnd_some hk, convDone_winding hr]
    generalize State.rsvDone _ p h r false c = t at hf
    have older (g : RegName) (hg : g ∈ fifoRegs) (i : Nat) (hi : i < 3) : t.rd g p r (i + 1) = u.rd g p r i :=
      (hf.older g hg i hi).trans (ha.regs g p r i ((by decide : ∀ g ∈ fifoRegs, g ∉ [RegName.RSV_STAT, .ADC_STATUS]) g hg))
    have hmem : s1.mem = s.mem := ha.within.mem.trans (mem_run _ _)
    exact accepts_ok ⟨hf.word, hf.tag.trans htag, hf.seq.trans (by rw [hseq]),
      fun i hi => ⟨older _ (by decide) i hi, older _ (by decide) i hi, older _ (by decide) i hi⟩,
      (congrArg Hold.st (sh_of_hold hf.hold h)).trans hst, hf.next.trans (by rw [hseq]), hf.mem.trans hmem⟩

end Sys2Proof.Proofs
end

section
/-! The stop of a run with prog_err (R127, R141): the fault action that follows leaves the engine free, keeps prog_err, and releases nothing
of the run. -/

namespace Sys2Proof.Proofs
open Sys2Proof Sys2Proof.Machine Sys2Proof.Laws

/-! ### A free engine -/

/-- The registers other than LE_AX_STAT that a fault of an axis without a run can change. -/
def faultRegs : List RegName := haltRegs.filter (· != .LE_STATUS)

/-- Where the engine of pack `p` was free it has stayed free between two states, with at most registers of a fault changed, and axis `a`
shows prog_err as before. -/
structure StaysFree (p a : Nat) (s t : State) : Prop where
  keeps : s.busy p = false →
    Within (.LE_AX_STAT :: faultRegs) s t ∧ t.bit F.LE_AX_STAT.prog_err p a = s.bit F.LE_AX_STAT.prog_err p a

theorem busy_within {rs : List RegName} {s t : State} (h : Within rs s t) (p : Nat) (hr : RegName.LE_STATUS ∉ rs := by decide) :
    t.busy p = s.busy p := h.bit_eq F.LE_STATUS.busy p 0 0 hr

theorem runAxis_within {rs : List RegName} {s t : State} (h : Within rs s t) (p : Nat) (hr : RegName.LE_STATUS ∉ rs := by decide) :
    t.runAxis p = s.runAxis p := h.f_eq F.LE_STATUS.cur p 0 0 hr

namespace StaysFree

variable {p a : Nat} {s u t : State}

theorem refl (s : State) : StaysFree p a s s := ⟨fun _ => ⟨.refl s, rfl⟩⟩

theorem trans (h : StaysFree p a s u) (g : StaysFree p a u t) : StaysFree p a s t := by
  refine ⟨fun hb => ?_⟩
  obtain ⟨hw, he⟩ := h.keeps hb
  obtain ⟨gw, ge⟩ := g.keeps ((busy_within hw p).trans hb)
  exact ⟨hw.trans gw, ge.trans he⟩

theorem of_within (h : Within faultRegs s t) : StaysFree p a s t := ⟨fun _ => ⟨h.mono (List.subset_cons_self _ _), h.bit_eq _ _ _ _⟩⟩

/-- A change of other registers follows. -/
theorem next (h : StaysFree p a s u) (g : Within faultRegs u t) : StaysFree p a s t := h.trans (of_within g)

/-- The write of another field of LE_AX_STAT follows. -/
theorem putAx (h : StaysFree p a s u) {f : Fld} {n q x : Nat} (hr : f.r = .LE_AX_STAT := by rfl)
    (hf : fldsApart f F.LE_AX_STAT.prog_err := by decide) : StaysFree p a s (u.put f n q x) :=
  h.trans ⟨fun _ => ⟨.put (.refl u) (by rw [hr]; exact List.mem_cons_self), bit_put_apart u hf n q x 0 p a 0⟩⟩

theorem ite {c : Prop} {_ : Decidable c} (h : StaysFree p a s u) (g : StaysFree p a s t) : StaysFree p a s (if c then u else t) := by
  split <;> assumption

theorem foldl (h : StaysFree p a s u) {α : Type} {f : State → α → State} (hf : ∀ v x, StaysFree p a v (f v x)) (xs : List α) :
    StaysFree p a s (xs.foldl f u) := List.foldlRecOn xs f h fun v hv x _ => hv.trans (hf v x)

end StaysFree

/-! ### Sets and sources -/

theorem faultRegs_driveSet (s : State) (p x : Nat) : Within faultRegs s (s.driveSet p x) := .of_driven (driven_driveSet s p x)

theorem faultRegs_alarm (s : State) (ts : List Nat) (kind idx code : Nat) (d6 d7 : Word) (g : Tag) :
    Within faultRegs s (s.alarm ts kind idx code d6 d7 g) := (within_alarm s ts kind idx code d6 d7 g).mono

theorem faultRegs_muzRefresh (s : State) (p x : Nat) : Within faultRegs s (s.muzRefresh p x) :=
  .trans (.put (.put (.put (.refl s)))) (faultRegs_driveSet _ p x)

theorem faultRegs_axRefresh (s : State) (p x : Nat) : Within faultRegs s (s.axRefresh p x) := by
  unfold State.axRefresh
  split
  · exact (faultRegs_muzRefresh s p _).trans (faultRegs_driveSet _ p _)
  · exact .refl s

theorem faultRegs_startSeq0 (s : State) (p x : Nat) : Within faultRegs s (s.startSeq0 p x) := by
  have legs (u : State) (l : Nat) : Within faultRegs u ((u.clrb F.PWM_LEGSTAT.en p l).setb F.PWM_LEGSTAT.seq p l) := .put (.put (.refl u))
  exact .ite (.refl s) (.later (.foldl (.updSet (.put (.refl s))) legs _))

theorem faultRegs_cancelPend (s : State) (p x : Nat) : Within faultRegs s (s.cancelPend p x) :=
  .foldl (.put (.refl s)) (fun u _ => .put (.refl u)) _

theorem faultRegs_alarmFix (s : State) (w0 : Word) (old new : Tag) (d6 : Word) (n : Nat) : Within faultRegs s (s.alarmFix w0 old new d6 n) := by
  unfold State.alarmFix
  extract_lets hit fix
  refine .ite (.pwr (.refl s)) ?_
  split
  · exact (within_setAq _ _ _ _).mono
  · exact .refl s

theorem faultRegs_joinTrip (s : State) (p st x : Nat) (g : Tag) : Within faultRegs s (s.joinTrip p st x g) := by
  unfold State.joinTrip
  extract_lets old new s1 s2
  have h1 : Within faultRegs s s1 := .setPair (.put (.refl s))
  exact .foldl (.ite (.incTag h1) h1) (fun u n => faultRegs_alarmFix u _ _ _ _ n) _

theorem faultRegs_incident (s : State) (p st : Nat) (g : Tag) : Within faultRegs s (s.incident p st g) := by
  unfold State.incident
  extract_lets first joins opened s1
  have ho : Within faultRegs s opened := .put (.put (.put (.refl s)))
  have h1 : Within faultRegs s s1 := .ite (.put (.refl s)) ho.incTag
  exact .put h1

/-! ### Faults and trips where no run is in progress -/

variable {p a : Nat}

theorem staysFree_dropRun (s : State) (x : Nat) : StaysFree p a s (s.dropRun p x) := by
  refine ⟨fun hb => ?_⟩
  rw [State.dropRun, if_neg (by rw [show s.bit F.LE_STATUS.busy p = false from hb]; simp)]
  exact ⟨.refl s, rfl⟩

theorem staysFree_faultNoted (s : State) (x cause : Nat) : StaysFree p a s (s.faultNoted p x cause) := by
  unfold State.faultNoted
  extract_lets s1 s2
  have h1 : StaysFree p a s s1 := .putAx (.refl s)
  have h2 : StaysFree p a s s2 := .ite h1 (.putAx (.putAx h1))
  exact h2.next (faultRegs_alarm _ _ _ _ _ _ _ _)

theorem staysFree_axSafe (s : State) (x cause : Nat) : StaysFree p a s (s.axSafe p x cause) :=
  .ite (((staysFree_faultNoted s x cause).trans (staysFree_dropRun _ x)).putAx.next (faultRegs_axRefresh _ p x))
    (.ite (.putAx (.refl s)) (.refl s))

theorem staysFree_trip (s : State) (st x : Nat) (g : Tag) : StaysFree p a s (s.trip p st x g) := by
  unfold State.trip
  extract_lets s0 s1 s2 s3 s4
  have h2 : Within faultRegs s s2 := .inc (.put (.setPair (.put (.put (.updSet (.refl s))))))
  have h3 : Within faultRegs s s3 := (h2.trans (faultRegs_incident s2 p st g)).trans (faultRegs_muzRefresh _ p st)
  have h4 : StaysFree p a s s4 := by
    unfold s4
    split
    · exact (StaysFree.of_within h3).trans (staysFree_axSafe s3 _ 6)
    · exact .of_within (.trans (.put (h3.trans (faultRegs_cancelPend s3 p st))) (faultRegs_startSeq0 _ p st))
  exact h4.next (.later ((faultRegs_alarm _ _ _ _ _ _ _ _).trans (faultRegs_muzRefresh _ p st)))

theorem staysFree_assertTo (s : State) (st x : Nat) (g : Tag) : StaysFree p a s (s.assertTo p st x g) := by
  unfold State.assertTo
  extract_lets s1
  have h1 : Within faultRegs s s1 := .ite (faultRegs_joinTrip s p st x g) (.refl s)
  exact .ite (.of_within (.trans (.put h1) (faultRegs_muzRefresh _ p st))) (.ite (staysFree_trip s st x g) (.refl s))

theorem staysFree_srcEval0 (s : State) (x : Nat) (g : Tag) : StaysFree p a s (s.srcEval0 p x g) := by
  unfold State.srcEval0
  extract_lets now was s1 s2
  have h1 : Within faultRegs s s1 := .putNbit (.refl s)
  have h2 : StaysFree p a s s2 := .of_within (.putNbit h1)
  exact .ite (.foldl h2 (fun u st => .ite (staysFree_assertTo u st x g) (.refl u)) _) (.of_within h1)

theorem staysFree_pcmPass (s : State) : StaysFree p a s (s.pcmPass p) := by
  refine .foldl (.refl s) (fun u n => ?_) _
  extract_lets ds s1 s2
  have h1 : Within faultRegs u s1 := .setIf (.put (.refl u))
  have h2 : Within faultRegs u s2 := .ite (.updCmp h1) h1
  exact .ite (.refl u) (((StaysFree.of_within h2).trans (staysFree_srcEval0 s2 n u.now)).trans (staysFree_srcEval0 _ (16 + n) u.now))

theorem staysFree_pcmRefresh (s : State) : StaysFree p a s (s.pcmRefresh p) := .ite (.foldl (.refl s) (fun u _ => staysFree_pcmPass u) _) (.refl s)

theorem staysFree_runChanged (s : State) (x : Nat) (was : Bool) : StaysFree p a s (s.runChanged p x was) := by
  have h1 : StaysFree p a s (s.pcmRefresh p) := staysFree_pcmRefresh s
  have running (u : State) : StaysFree p a u (u.muzRunning p x) :=
    .trans (.foldl (.refl u) (fun v n => .ite (staysFree_assertTo v x n v.now) (.refl v)) _) (staysFree_pcmRefresh _)
  exact .ite (h1.trans (running _)) h1

theorem staysFree_axShutdown (s : State) (x : Nat) : StaysFree p a s (s.axShutdown p x) := by
  unfold State.axShutdown
  extract_lets s1
  have h1 : StaysFree p a s s1 := (staysFree_dropRun s x).putAx
  split
  · exact ((h1.next (faultRegs_startSeq0 s1 p _)).next (faultRegs_axRefresh _ p x)).trans (staysFree_runChanged _ _ _)
  · exact h1

/-- The fault action of an axis leaves a free engine free (R141). -/
theorem staysFree_axFault (s : State) (x cause : Nat) : StaysFree p a s (s.axFault p x cause) := by
  have hn := staysFree_faultNoted (p := p) (a := a) s x cause
  unfold State.axFault
  extract_lets st act s1
  refine .ite (.ite (hn.trans (staysFree_axShutdown _ x)) (.ite ?_ (staysFree_axSafe s x cause))) (staysFree_axSafe s x cause)
  exact hn.next (.hidden (.refl _))

/-! ### The run in progress -/

theorem faultRegs_engCkpt (s : State) (p : Nat) : Within faultRegs s (s.engCkpt p) :=
  .ite (.refl s) (.ite (.updPair (.putPf (.refl s))) (.trans (.setPairTag (.putPf (.updPair (.refl s)))) (within_jnl _ _ _).mono))

theorem faultRegs_endRecovery (s : State) (n : Nat) : Within faultRegs s (s.endRecovery n) := by
  unfold State.endRecovery
  dsimp -zeta only
  extract_lets len s2 s3 s4 s5
  have h2 : Within faultRegs s s2 := .putPf (.putPf (.fresh (.refl s)))
  have h3 : Within faultRegs s s3 := .ite (.putPf h2) h2
  have h5 : Within faultRegs s s5 := (h3.trans (faultRegs_alarm _ _ _ _ _ _ _ _)).trans (.of_logsOnly (logsOnly_stageRec _ _ _))
  exact .ite (h5.trans (faultRegs_engCkpt s5 n)) h5

theorem faultRegs_coefApply (s : State) (p x : Nat) : Within faultRegs s (s.coefApply p x) := by
  unfold State.coefApply
  exact .updAx (.foldl (.refl s) (fun u _ => .wrLe (.refl u)) _)

/-- A run that is stopped frees the engine (R127). -/
theorem stopRun_frees {s : State} (h : s.busy p = true) : (s.stopRun p).busy p = false ∧ (s.stopRun p).f F.LE_STATUS.cur p = 7 := by
  let s0 := (s.clrb F.LE_STATUS.busy p).put F.LE_STATUS.cur 7 p
  have h0 : s0.busy p = false ∧ s0.f F.LE_STATUS.cur p = 7 :=
    ⟨(bit_put_apart _ (by decide) _ _ _ _ _ _ _).trans (bit_clrb_self _ _ _ _ _ (by decide)), f_put_self _ _ _ _ _ _ (by decide)⟩
  have h1 := faultRegs_coefApply s0 p (s.runAxis p)
  have hw : Within faultRegs s0 (s.stopRun p) := by
    rw [State.stopRun, State.dropRun, if_pos (by rw [show s.bit F.LE_STATUS.busy p = true from h]; exact beq_self_eq_true _)]
    exact .ite (h1.trans (faultRegs_endRecovery _ p)) h1
  exact ⟨(busy_within hw p).trans h0.1, (runAxis_within hw p).trans h0.2⟩

/-- A run that is stopped with prog_err: the engine is free, and the registers of a halt alone have changed (R127, R141). -/
structure ProgErred (s t : State) (p : Nat) : Prop where
  busy : t.busy p = false
  cur : t.f F.LE_STATUS.cur p = 7
  err : t.bit F.LE_AX_STAT.prog_err p (s.runAxis p) = true
  within : Within (.LE_AX_STAT :: haltRegs) s t

theorem progErr_progErred {s : State} (h : s.busy p = true) : ProgErred s (s.progErr p) p := by
  let s1 := s.setb F.LE_AX_STAT.prog_err p (s.runAxis p)
  have h1 : Within [.LE_AX_STAT] s s1 := .put (.refl s)
  have h2 : Within haltRegs s1 (s1.stopRun p) := within_dropRun s1 p _
  obtain ⟨hb, hc⟩ := stopRun_frees ((busy_within h1 p).trans h)
  obtain ⟨hw, he⟩ := (staysFree_axFault (p := p) (a := s.runAxis p) (s1.stopRun p) (s.runAxis p) 4).keeps hb
  rw [State.progErr, if_pos h]
  exact ⟨(busy_within hw p).trans hb, (runAxis_within hw p).trans hc,
    he.trans ((h2.bit_eq _ _ _ _).trans (bit_setb_self s _ _ _ _ (by decide))), (h1.mono.trans (h2.mono (List.subset_cons_self _ _))).trans hw.mono⟩

end Sys2Proof.Proofs
end

section
/-! Operations of the loop engine (R127, R128, R385): when the run in progress executes one, what it leaves within the run's limits, and how
it stops the run at them. -/

namespace Sys2Proof.Proofs
open Sys2Proof Sys2Proof.Machine Sys2Proof.Laws

/-! ### The fetch of an operation -/

theorem leRead_clean {s : State} {p : Nat} {r : RegName} {i j : Nat} (h : s.ram.leFlips.get 0 (leKey p r i j) = 0) :
    s.leRead p [(r, i, j)] = (s, true) := by
  simp [State.leRead, h]

section
variable {s : State} {p : PackIx} {i : Instr} {n : Nat} {f : State → State}

theorem leFetch_away {o : Option Instr} (h : s.busy p = false) : s.leFetch p o f = s := if_neg (by simp [h])

theorem leFetch_other {o : Option Instr} (h : s.leNext p ≠ o) (hc : s.ram.leFlips.get 0 (leKey p .LE_PROGMEM (s.eng p).pc 0) = 0) :
    s.leFetch p o f = s := if_neg (by simp [leRead_clean hc, h])

theorem leFetch_runs {o : Option Instr} (h : s.runsNext p o) : s.leFetch p o f = f s := by
  obtain ⟨hb, hn, hc⟩ := h
  rw [State.leFetch, if_pos (by simp [hb, hn]), State.leUse, leRead_clean hc]
  rfl

/-! ### The engine after an operation -/

theorem eng_updEng (s : State) (p : Nat) (g : Eng → Eng) (q : Nat) : (s.updEng p g).eng q = if q = p then g (s.eng p) else s.eng q := by
  simp [State.eng, State.updEng]

/-- The engine after an operation of `n` steps that has left its registers as in `k`. -/
def engStepped (n : Nat) (k : Eng) : Eng := { k.advance with steps := k.steps + n }

/-- The run in progress after its operation: moved on within its limits, stopped with prog_err at them (R127). -/
theorem leOp_runs (hr : s.runsNext p (some i)) (hw : Within [.PJNL_PFILL] s (f s)) :
    (s.opFits p n ((f s).eng p) → s.leOp p i n f = (f s).updEng p (engStepped n)) ∧
      (¬ s.opFits p n ((f s).eng p) → s.leOp p i n f = ((f s).updEng p (engStepped n)).progErr p) := by
  have hsteps : ((f s).updEng p (engStepped n)).f F.LE_AX_STEPS.steps p (((f s).updEng p (engStepped n)).ea p) =
      s.f F.LE_AX_STEPS.steps p (s.runAxis p) := by
    change (f s).f F.LE_AX_STEPS.steps p ((f s).runAxis p) = _
    rw [runAxis_within hw, hw.f_eq F.LE_AX_STEPS.steps]
  have heng : ((f s).updEng p (engStepped n)).eng p = engStepped n ((f s).eng p) := by rw [eng_updEng, if_pos rfl]
  have hx : s.leOp p i n f = if s.f F.LE_AX_STEPS.steps p (s.runAxis p) ≤ ((f s).eng p).steps + n || 4095 < ((f s).eng p).advance.pc then
      ((f s).updEng p (engStepped n)).progErr p else (f s).updEng p (engStepped n) := by
    rw [State.leOp, leFetch_runs hr]
    dsimp only
    rw [if_neg (by simp [busy_within hw, hr.1])]
    change (if ((f s).updEng p (engStepped n)).f F.LE_AX_STEPS.steps p (((f s).updEng p (engStepped n)).ea p) ≤
      (((f s).updEng p (engStepped n)).eng p).steps || 4095 < (((f s).updEng p (engStepped n)).eng p).pc then _ else _) = _
    rw [hsteps, heng]
    rfl
  have hfits : s.opFits p n ((f s).eng p) ↔ ¬ (s.f F.LE_AX_STEPS.steps p (s.runAxis p) ≤ ((f s).eng p).steps + n ||
      4095 < ((f s).eng p).advance.pc) = true := by
    simp [State.opFits]
  rw [hx, hfits]
  exact ⟨fun h => if_neg h, fun h => if_pos (not_not.mp h)⟩

/-- At the run's limits the operation stops the run with prog_err (R127). -/
theorem leOp_stops (hr : s.runsNext p (some i)) (hw : Within [.PJNL_PFILL] s (f s)) (hno : ¬ s.opFits p n ((f s).eng p)) :
    RunStopped (ok (s.leOp p i n f)) s p := by
  have hu : Within [.PJNL_PFILL] s ((f s).updEng p (engStepped n)) := .hidden hw
  have ht := progErr_progErred ((busy_within hu p).trans hr.1)
  have hst : Within (.PJNL_PFILL :: .LE_AX_STAT :: haltRegs) s _ := hu.mono.trans (ht.within.mono (List.subset_cons_self _ _))
  rw [(leOp_runs hr hw).2 hno]
  refine accepts_ok ⟨ht.busy, ht.cur, ?_, hst.mem, fun r hr q x j => hst.regs r q x j ?_⟩
  · rw [← runAxis_within hu p]
    exact ht.err
  · revert r
    decide

end

/-! ### Operations without a free value -/

/-- Between two states the engine of pack `p` has come to hold `k` and the pair's journal has taken the records `js`; nothing else has
changed. -/
structure EngDone (p : Nat) (k : Eng) (js : List JRec) (s t : State) : Prop where
  eng : t.eng p = k
  engs : ∀ q, q ≠ p → t.eng q = s.eng q
  jnl : s.paired p = true → (t.pair p).jnl = (s.pair p).jnl ++ js
  quiet : s.paired p = false ∨ js = [] → t.pairs = s.pairs ∧ t.regs = s.regs
  regs : KeepsRegs s t [.PJNL_PFILL]
  rest : t = { s with engs := t.engs, pairs := t.pairs, regs := t.regs }

namespace EngDone

variable {p : Nat} {k k' : Eng} {js js' : List JRec} {s u t : State}

theorem refl (s : State) : EngDone p (s.eng p) [] s s :=
  ⟨rfl, fun _ _ => rfl, fun _ => (List.append_nil _).symm, fun _ => ⟨rfl, rfl⟩, fun _ _ _ _ _ => rfl, rfl⟩

theorem within (h : EngDone p k js s t) : Within [.PJNL_PFILL] s t := ⟨by rw [h.rest], by rw [h.rest], h.regs⟩

theorem paired_eq (hp : p < 4) (h : EngDone p k js s t) : t.paired p = s.paired p := by
  unfold State.paired State.pf
  rw [pairReg, if_pos hp]
  exact congrArg (· != 0) (h.within.f_eq F.PJNL_PSTAT.paired p 0 0)

theorem updEng (h : EngDone p k js s t) (g : Eng → Eng) : EngDone p (g k) js s (t.updEng p g) :=
  ⟨by rw [eng_updEng, if_pos rfl, h.eng], fun q hq => by rw [eng_updEng, if_neg hq, h.engs q hq], h.jnl, h.quiet, h.regs,
    by rw [State.updEng, h.rest]⟩

theorem trans (hp : p < 4) (h : EngDone p k js s u) (g : EngDone p k' js' u t) : EngDone p k' (js ++ js') s t := by
  have hw := h.within.trans g.within
  refine ⟨g.eng, fun q hq => (g.engs q hq).trans (h.engs q hq), fun hb => ?_, fun hn => ?_, hw.regs, by rw [g.rest, h.rest]⟩
  · rw [g.jnl ((h.paired_eq hp).trans hb), h.jnl hb, List.append_assoc]
  · obtain ⟨hpairs, hregs⟩ := h.quiet (hn.imp_right fun he => (List.append_eq_nil_iff.mp he).1)
    obtain ⟨gpairs, gregs⟩ := g.quiet (hn.imp (h.paired_eq hp).trans fun he => (List.append_eq_nil_iff.mp he).2)
    exact ⟨gpairs.trans hpairs, gregs.trans hregs⟩

end EngDone

/-- A command that is an operation of the run in progress, by what its effect on the engine leaves. -/
theorem engOp_of_done {i : Instr} {s : State} {p : PackIx} {n : Nat} {f : State → State} {k : Eng} {js : List JRec}
    (hx : exec i s = ok (s.leOp p i n f)) (h : EngDone p k js s (f s)) : EngOp i s p n k js := by
  have hk := h.eng
  subst hk
  unfold EngOp
  rw [hx]
  refine ⟨fun hb => noEvent_ok (leFetch_away hb), fun hn hc => noEvent_ok (leFetch_other hn hc), fun hr hfit => ?_,
    fun hr hno => leOp_stops hr h.within hno⟩
  rw [(leOp_runs hr h.within).1 hfit]
  have ht := h.updEng (engStepped n)
  exact accepts_ok ⟨ht.eng, fun q hq => ht.engs q fun he => hq (Fin.ext he), ht.jnl, ht.quiet, ht.regs, by rw [ht.rest]⟩

/-! ### Operations with free values -/

/-- Between two states the engine of pack `p` alone has changed, and free values may have been taken. -/
structure EngDrawn (p : Nat) (s t : State) : Prop where
  engs : ∀ q, q ≠ p → t.eng q = s.eng q
  rest : t = { s with engs := t.engs, free := t.free }

theorem EngDrawn.within {p : Nat} {s t : State} (h : EngDrawn p s t) : Within [.PJNL_PFILL] s t :=
  .hidden (.refl s) (by rw [h.rest]) (by rw [h.rest]) (by rw [h.rest])

theorem engDrawn_updEng {p : Nat} {s u : State} (h : u = { s with free := u.free }) (g : Eng → Eng) : EngDrawn p s (u.updEng p g) := by
  have he : u.eng = s.eng := by rw [h]; rfl
  exact ⟨fun q hq => by rw [eng_updEng, if_neg hq, he], by rw [State.updEng, h]⟩

/-- An operation `i` of `n` steps on the run in progress of pack `p`, after which the engine's registers satisfy `P`, its position moved on. -/
def FreeOp (i : Instr) (s : State) (p : PackIx) (n : Nat) (P : Eng → Prop) : Prop :=
  (s.busy p = false → NoEvent (exec i s) s) ∧
  (s.runsNext p (some i) → s.opFits p n (s.eng p) → Accepts (exec i s) fun t =>
    (∃ q, P q ∧ t.eng p = { q.advance with steps := (s.eng p).steps + n }) ∧
    (∀ r, r ≠ p.val → t.eng r = s.eng r) ∧ t = { s with engs := t.engs, free := t.free, resp := t.resp }) ∧
  (s.runsNext p (some i) → ¬ s.opFits p n (s.eng p) → RunStopped (exec i s) s p)

/-- Two engines stand at the same point of their program. -/
structure SamePoint (k q : Eng) : Prop where
  pc : q.pc = k.pc
  rep : q.rep = k.rep
  steps : q.steps = k.steps

theorem SamePoint.advance_pc {k q : Eng} (h : SamePoint k q) : q.advance.pc = k.advance.pc := by
  unfold Eng.advance
  rw [h.rep, h.pc]
  split
  · split
    · split <;> rfl
    · rfl
  · rfl

theorem SamePoint.opFits {k q : Eng} (h : SamePoint k q) {s : State} {p n : Nat} : s.opFits p n q ↔ s.opFits p n k := by
  rw [State.opFits, State.opFits, h.advance_pc, h.steps]

theorem freeOp_of_drawn {i : Instr} {s : State} {p : PackIx} {n : Nat} {f : State → State} {P : Eng → Prop}
    (hx : exec i s = ok (s.leOp p i n f)) (h : EngDrawn p s (f s)) (hp : SamePoint (s.eng p) ((f s).eng p)) (hP : P ((f s).eng p)) :
    FreeOp i s p n P := by
  unfold FreeOp
  rw [hx]
  refine ⟨fun hb => noEvent_ok (leFetch_away hb), fun hr hfit => ?_, fun hr hno => leOp_stops hr h.within (mt hp.opFits.mp hno)⟩
  rw [(leOp_runs hr h.within).1 (hp.opFits.mpr hfit)]
  refine accepts_ok ⟨⟨_, hP, ?_⟩, fun r hr => ?_, by rw [State.updEng, h.rest]⟩
  · change ((f s).updEng p (engStepped n)).eng p = _
    rw [eng_updEng, if_pos rfl, engStepped, hp.steps]
  · change ((f s).updEng p (engStepped n)).eng r = _
    rw [eng_updEng, if_neg hr, h.engs r hr]

end Sys2Proof.Proofs
end

section
/-! Inputs of a run and the CORDIC unit (R122, R126, R127, R130, R131, R146, R385). -/

namespace Sys2Proof.Proofs
open Sys2Proof Sys2Proof.Machine Sys2Proof.Laws

/-! ### Journaled inputs -/

/-- A record in the journal of a pack's pair (R385). -/
theorem engDone_jnl {p : Nat} (hp : p < 4) (s : State) (r : JRec) : EngDone p (s.eng p) [r] s (s.jnl p r) := by
  have fill (u : State) (v : Nat) (f : Fld) (hf : f.r = .PJNL_PFILL) :
      u.putPf f v p = u.put { f with r := .PJNL_PFILL } v p 0 := by
    rw [State.putPf, hf, pairReg, if_pos hp]
  unfold State.jnl
  split
  · next hb =>
    extract_lets s1 k s2 s3
    have h2 : s2 = s1.put F.PJNL_PFILL.fill k p 0 := fill s1 k _ rfl
    have h3 : Within [.PJNL_PFILL] s s3 ∧ s3 = { s1 with regs := s3.regs } := by
      unfold s3
      rw [fill s2 k F.PJNL_PFILL.peak rfl, h2]
      exact ⟨.ite (.put (.put (.updPair (.refl s)))) (.put (.updPair (.refl s))), by split <;> rfl⟩
    have hj : (s1.pair p).jnl = (s.pair p).jnl ++ [r] := congrArg Pair.jnl ((pair_updPair s p p _).trans (if_pos rfl))
    rw [if_neg (by omega)]
    exact ⟨by rw [h3.2]; rfl, fun _ _ => by rw [h3.2]; rfl, fun _ => by rw [h3.2]; exact hj,
      fun hn => absurd hn (by simp [hb]), h3.1.regs, by rw [h3.2]; rfl⟩
  · next hb =>
    exact ⟨rfl, fun _ _ => rfl, fun h => absurd h hb, fun _ => ⟨rfl, rfl⟩, fun _ _ _ _ _ => rfl, rfl⟩

/-- Input `n`, where the run has not read it. -/
def unread (k : Eng) (n : Nat) : List Nat := if n ∈ k.read then [] else [n]

/-- A run has read further inputs. -/
def hasRead (k : Eng) (ns : List Nat) : Eng := { k with read := ns ++ k.read }

/-- An input is journaled at its first read in the run (R385). -/
theorem engDone_runRec {p : Nat} (hp : p < 4) (s : State) {n : Nat} {x y : Word} {t : Tag} {rec : Nat → JRec}
    (hr : rec n = { ty := 8, pos := s.runAxis p, a := BitVec.ofNat 32 n, x := x, y := y, tag := t }) :
    EngDone p (hasRead (s.eng p) (unread (s.eng p) n)) ((unread (s.eng p) n).map rec) s (s.runRec p n x y t) := by
  unfold unread State.runRec
  by_cases hn : n ∈ (s.eng p).read
  · rw [if_pos hn, if_pos (List.contains_iff_mem.mpr hn)]
    exact .refl s
  · rw [if_neg hn, if_neg (by simpa using hn), List.map_singleton, hr]
    exact (engDone_jnl hp s _).updEng fun k => hasRead k [n]

/-- What the run in progress is presented in slot `i`. -/
abbrev runSlot (s : State) (p i : Nat) : InSlot := SMap.get {} (s.ax p (s.runAxis p)).slots i

/-- The record of slot `i` as an input of the run in progress. -/
def slotRec (s : State) (p i : Nat) : JRec :=
  { ty := 8, pos := s.runAxis p, a := BitVec.ofNat 32 i, x := (runSlot s p i).pv, y := BitVec.ofNat 32 (runSlot s p i).pw, tag := (runSlot s p i).ptag }

theorem slotNow_lt {s : State} {p i : Nat} (h : i < 16) : s.slotNow p i = runSlot s p i := if_neg (by omega)

theorem readSlot_lt {s : State} {p i : Nat} (h : i < 16) :
    s.readSlot p i = s.runRec p i (runSlot s p i).pv (BitVec.ofNat 32 (runSlot s p i).pw) (runSlot s p i).ptag := by
  rw [State.readSlot, if_neg (by omega), slotNow_lt h]

theorem engDone_readSlot {p : Nat} (hp : p < 4) (s : State) {i : Nat} (h : i < 16) :
    EngDone p (hasRead (s.eng p) (unread (s.eng p) i)) ((unread (s.eng p) i).map (slotRec s p)) s (s.readSlot p i) := by
  rw [readSlot_lt h]
  exact engDone_runRec hp s rfl

theorem EngDone.slotRec_eq {p : Nat} {k : Eng} {js : List JRec} {s t : State} (h : EngDone p k js s t) : slotRec t p = slotRec s p := by
  have ha : t.runAxis p = s.runAxis p := runAxis_within h.within p
  have hx : t.axs = s.axs := by rw [h.rest]
  funext i
  simp only [slotRec, runSlot, State.ax, ha, hx]

/-- Slots read one after the other: those that exist and have not been read are journaled in that order (R130, R385). -/
theorem engDone_readSlots {p : Nat} (hp : p < 4) {is : List Nat} (hn : is.Nodup) (s : State) :
    let ns := is.filter fun i => decide (i < 16) && !(s.eng p).read.contains i
    EngDone p (hasRead (s.eng p) ns.reverse) (ns.map (slotRec s p)) s (is.foldl (fun u i => u.readSlot p i) s) := by
  induction is generalizing s with
  | nil => exact .refl s
  | cons i is ih =>
    obtain ⟨hi, hn⟩ := List.nodup_cons.mp hn
    intro ns
    rw [List.foldl_cons]
    by_cases hnew : i < 16 ∧ i ∉ (s.eng p).read
    · have h1 := engDone_readSlot hp s hnew.1
      have h2 := ih hn (s.readSlot p i)
      have hsame : (is.filter fun j => decide (j < 16) && !(i :: (s.eng p).read).contains j) =
          is.filter fun j => decide (j < 16) && !(s.eng p).read.contains j :=
        List.filter_congr fun j hj => by
          have hne : j ≠ i := fun he => hi (he ▸ hj)
          simp [hne]
      rw [unread, if_neg hnew.2] at h1
      rw [h1.eng, h1.slotRec_eq] at h2
      have hns : ns = i :: is.filter fun j => decide (j < 16) && !(s.eng p).read.contains j :=
        List.filter_cons_of_pos (by simpa using hnew)
      have h := h1.trans hp h2
      simp only [hasRead, List.cons_append, List.nil_append, hsame] at h
      rw [hns]
      simpa [hasRead] using h
    · have hsame : s.readSlot p i = s := by
        unfold State.readSlot
        split
        · rfl
        · exact if_pos (List.contains_iff_mem.mpr (by_contra fun h => hnew ⟨by omega, h⟩))
      rw [hsame, show ns = is.filter _ from List.filter_cons_of_neg (by simpa using hnew)]
      exact ih hn s

/-! ### Vectors -/

/-- A change of the engine's registers at the same point of its program, with free values taken. -/
theorem freeOp_of_update {i : Instr} {s u : State} {p : PackIx} {n : Nat} {f : State → State} {P : Eng → Prop} {g : Eng → Eng}
    (hx : exec i s = ok (s.leOp p i n f)) (hf : f s = u.updEng p g) (hu : u = { s with free := u.free })
    (hg : SamePoint (s.eng p) (g (s.eng p))) (hP : P (g (s.eng p))) : FreeOp i s p n P := by
  have he : (f s).eng p = g (s.eng p) := by
    rw [hf, eng_updEng, if_pos rfl, hu]
    rfl
  exact freeOp_of_drawn hx (hf ▸ engDrawn_updEng hu g) (he ▸ hg) (he ▸ hP)

theorem samePoint_setVec (k : Eng) (d : Nat) (g : Nat → Word) : SamePoint k (k.setVec d g) := ⟨rfl, rfl, rfl⟩

/-! ### The CORDIC unit -/

section
variable (s : State) (p : PackIx) (d a b : VReg)

/-- The engine of the run in progress with the lanes of register `d` set. -/
abbrev cordicLanes (ws : List Word) : Eng := (s.eng p).setVec d fun i => ws.getD i 0

/-- csc: values near the cosine and the sine, fixed ones for what is no angle (R126, log 40). -/
theorem csc_completes : FreeOp (.csc p d a) s p 8 fun q => match turn64 ((s.eng p).lane a 0) with
    | none => q = cordicLanes s p d [qnan, qnan, 0, 0]
    | some f => ∃ u v, q = cordicLanes s p d [nearOr u (cosSin f).1, nearOr v (cosSin f).2, 0, 0] := by
  cases hf : turn64 ((s.eng p).lane a 0) with
  | none =>
    refine freeOp_of_update (u := s.fresh.1.fresh.1) (g := fun k => k.setVec d fun i => if i < 2 then qnan else 0) rfl ?_ rfl
      (samePoint_setVec _ _ _) rfl
    dsimp only
    rw [hf]
  | some f =>
    refine freeOp_of_update (u := s.fresh.1.fresh.1) (g := fun k => k.setVec d fun i =>
      if i = 0 then nearOr s.fresh.2 (cosSin f).1 else if i = 1 then nearOr s.fresh.1.fresh.2 (cosSin f).2 else 0) rfl ?_ rfl
      (samePoint_setVec _ _ _) ⟨_, _, rfl⟩
    dsimp only
    rw [hf]

/-- crot: two rotations, each with a cosine and a sine near the exact ones (R126, log 40). -/
theorem crot_completes : FreeOp (.crot p d a b) s p 8 fun q => ∃ w0 w1 w2 w3,
    let u := rotated ((s.eng p).lane a 0) ((s.eng p).lane a 1) ((s.eng p).lane b 0) w0 w1
    let v := rotated ((s.eng p).lane a 2) ((s.eng p).lane a 3) ((s.eng p).lane b 1) w2 w3
    q = cordicLanes s p d [u.1, u.2, v.1, v.2] :=
  freeOp_of_update (u := s.fresh.1.fresh.1.fresh.1.fresh.1) rfl rfl rfl (samePoint_setVec _ _ _) ⟨_, _, _, _, rfl⟩

/-- The angle that cvec gives of a vector with angle reference `r`: near it, and in [0, 1). -/
abbrev cvecAngle (g : Word) (r : Int) : Word :=
  if ltW (nearOr g r) 0 || leW 0x3F800000 (nearOr g r) then fxWord (min r (2 ^ 62 - 2 ^ 38)) else nearOr g r

/-- cvec: magnitude and angle near the exact ones, fixed results for (0, 0), a NaN and an infinity (R126, R127, log 40). -/
theorem cvec_completes : FreeOp (.cvec p d a) s p 9 fun q =>
    match fval (ftz ((s.eng p).lane a 0)), fval (ftz ((s.eng p).lane a 1)) with
    | .fin sx mx ex, .fin sy my ey =>
      if mx = 0 ∧ my = 0 then q = cordicLanes s p d [0, 0, 0, 0]
      else ∃ w g, q = cordicLanes s p d [magWord w (scaled sx mx ex (min ex ey)) (scaled sy my ey (min ex ey)) (min ex ey),
        cvecAngle g (angleRef (scaled sx mx ex (min ex ey)) (scaled sy my ey (min ex ey))), 0, 0]
    | vx, vy => if vx.isNan || vy.isNan then q = cordicLanes s p d [qnan, qnan, 0, 0]
      else ∃ g : Nat, g < 2 ^ 24 ∧ q = cordicLanes s p d [0x7F800000, ratWord g (2 ^ 24), 0, 0] := by
  have sets (P : Eng → Prop) (m g : Word) (f : State → State) (hx : exec (.cvec p d a) s = ok (s.leOp p (.cvec p d a) 9 f))
      (hf : f s = s.fresh.1.fresh.1.updEng p fun k => k.setVec d fun i => if i = 0 then m else if i = 1 then g else 0)
      (hP : P (cordicLanes s p d [m, g, 0, 0])) : FreeOp (.cvec p d a) s p 9 P :=
    freeOp_of_update hx hf rfl (samePoint_setVec _ _ _) hP
  cases hx : fval (ftz ((s.eng p).lane a 0)) <;> cases hy : fval (ftz ((s.eng p).lane a 1))
  case fin.fin sx mx ex sy my ey =>
    by_cases h0 : mx = 0 ∧ my = 0
    · refine sets _ 0 0 _ rfl ?_ ((if_pos h0).mpr rfl)
      dsimp only
      rw [hx, hy]
      exact if_pos h0
    · refine sets _ _ _ _ rfl ?_ ((if_neg h0).mpr ⟨s.fresh.2, s.fresh.1.fresh.2, rfl⟩)
      dsimp only
      rw [hx, hy]
      exact if_neg h0
  case nan.nan | nan.inf | nan.fin | inf.nan | fin.nan =>
    refine sets _ qnan qnan _ rfl ?_ rfl
    dsimp only
    rw [hx, hy]
    rfl
  case inf.inf | inf.fin | fin.inf =>
    refine sets _ 0x7F800000 _ _ rfl ?_ ⟨s.fresh.1.fresh.2.toNat % 2 ^ 24, Nat.mod_lt _ (by decide), rfl⟩
    dsimp only
    rw [hx, hy]
    rfl

/-- eout: the staged angle is the fraction of a turn, free for what is no number (R122, R128, log 40). -/
theorem eout_completes : FreeOp (.eout p a) s p 2 fun q => match floorOf ((s.eng p).lane a 0) with
    | some (_, m, e) => q = { s.eng p with eout := some (m * 2 ^ 32 / 2 ^ (-e).toNat) }
    | none => ∃ w : Word, q = { s.eng p with eout := some w.toNat } := by
  cases hf : floorOf ((s.eng p).lane a 0) with
  | none =>
    refine freeOp_of_update (u := s.fresh.1) (g := fun k => { k with eout := some s.fresh.2.toNat }) rfl ?_ rfl ⟨rfl, rfl, rfl⟩ ⟨_, rfl⟩
    dsimp only
    rw [hf]
  | some x =>
    obtain ⟨n, m, e⟩ := x
    refine freeOp_of_update (u := s.fresh.1) (g := fun k => { k with eout := some (m * 2 ^ 32 / 2 ^ (-e).toNat) }) rfl ?_ rfl ⟨rfl, rfl, rfl⟩ rfl
    dsimp only
    rw [hf]

end

/-! ### The obligation -/

/-- Settles O35: each input is what the run's slots hold, journaled at its first read, and each CORDIC operation a change of lanes alone. -/
theorem engineInputsAndCordic : Obligations.EngineInputsAndCordic := by
  intro p d a b n sl s k x slot since recOf new k1 js free lanes
  have hsl := sl.isLt
  have hslot : s.slotNow p sl = runSlot s p sl := slotNow_lt hsl
  have lane {w w' : Word} (hw : w' = w) :
      EngDone p (k1.setLane d n w) js s ((s.readSlot p sl).updEng p fun q => q.setLane d n w') := by
    rw [hw]
    exact (engDone_readSlot p.isLt s hsl).updEng fun q => q.setLane d n w
  refine ⟨engOp_of_done rfl (lane ?lin), ?lin4, engOp_of_done rfl (lane ?lflg), engOp_of_done rfl (lane ?ltg),
    fun e => ⟨fun h => ?empty, fun smp info t h => ?pair⟩, ?lsp, csc_completes s p d a, crot_completes s p d a b, cvec_completes s p d a,
    eout_completes s p a⟩
  case lin => rw [hslot]
  case lflg => rw [hslot]
  case ltg => rw [hslot]; rfl
  case lin4 =>
    intro ns
    have h := engDone_readSlots p.isLt (is := (List.range 4).map (sl.val + ·))
      (List.nodup_range.map fun i j he => Nat.add_left_cancel he) s
    have hp : (fun i : Nat => (s.slotNow p (sl + i)).pv) = fun i : Nat => if sl + i < 16 then (slot (sl + i)).pv else 0 := by
      funext i
      split
      · next hi => rw [slotNow_lt hi]
      · next hi => exact congrArg InSlot.pv (if_pos (Nat.not_lt.mp hi))
    rw [← hp]
    rw [List.foldl_map] at h
    exact engOp_of_done rfl (h.updEng fun q => q.setVec d fun i => (s.slotNow p (sl + i)).pv)
  case empty =>
    refine engOp_of_done rfl ?_
    dsimp only
    rw [hslot, h]
    exact (EngDone.refl s).updEng fun q => q.setVec d fun _ => 0
  case pair =>
    intro code m
    refine engOp_of_done rfl ?_
    dsimp only
    rw [hslot, h]
    exact (engDone_runRec p.isLt s rfl).updEng fun q => q.setVec d _
  case lsp => exact engOp_of_done rfl ((engDone_runRec p.isLt s rfl).updEng fun q => q.setLane d n _)

end Sys2Proof.Proofs
end

section
/-! Position interfaces: what their changes leave, a register's history and standstill, and the latches taken before an event (R110 to
R117). -/

namespace Sys2Proof.Proofs
open Sys2Proof Sys2Proof.Machine Sys2Proof.Laws

/-! ### Footprints -/

/-- Between two states only the listed registers, the position interfaces and the free values drawn have changed. -/
structure Tracked (rs : List RegName) (s t : State) : Prop where
  rest : t = { s with regs := t.regs, poss := t.poss, free := t.free }
  regs : KeepsRegs s t rs

namespace Tracked

variable {rs : List RegName} {s a t : State}

theorem refl (s : State) : Tracked rs s s := ⟨rfl, fun _ _ _ _ _ => rfl⟩

theorem trans (h : Tracked rs s a) (g : Tracked rs a t) : Tracked rs s t :=
  ⟨by rw [g.rest, h.rest], fun r p i j hr => (g.regs r p i j hr).trans (h.regs r p i j hr)⟩

theorem mono {rs' : List RegName} (h : Tracked rs s t) (hs : rs ⊆ rs' := by decide) : Tracked rs' s t :=
  ⟨h.rest, fun r p i j hr => h.regs r p i j fun hm => hr (hs hm)⟩

theorem within (h : Tracked rs s t) : Within rs s t := ⟨by rw [h.rest], by rw [h.rest], h.regs⟩

/-- A change of listed registers, of interfaces and of free values follows. -/
theorem next (h : Tracked rs s a) (g : Within rs a t) (hr : t = { a with regs := t.regs, poss := t.poss, free := t.free } := by rfl) :
    Tracked rs s t := h.trans ⟨hr, g.regs⟩

theorem put (h : Tracked rs s a) {f : Fld} {n p i j : Nat} (hr : f.r ∈ rs := by decide) : Tracked rs s (a.put f n p i j) :=
  h.next (.put (.refl a) hr)

theorem wr (h : Tracked rs s a) {r : RegName} {v : Word} {p i j : Nat} (hr : r ∈ rs := by decide) : Tracked rs s (a.wr r v p i j) :=
  h.next (.wr (.refl a) hr)

theorem ite {c : Prop} {_ : Decidable c} (h : Tracked rs s a) (g : Tracked rs s t) : Tracked rs s (if c then a else t) := by
  split <;> assumption

theorem setIf (h : Tracked rs s a) {c : Bool} {f : Fld} {p i j : Nat} (hr : f.r ∈ rs := by decide) : Tracked rs s (a.setIf c f p i j) :=
  (h.put hr).ite h

theorem updPos (h : Tracked rs s a) {p i : Nat} {f : Pos → Pos} : Tracked rs s (a.updPos p i f) := h.next (.hidden (.refl a))

end Tracked

/-! ### An interface read after a change -/

theorem pos_updPos (s : State) (p i : Nat) (f : Pos → Pos) : (s.updPos p i f).pos p i = f (s.pos p i) := by
  simp [State.pos, State.updPos]

theorem pos_of_poss {s t : State} (h : t.poss = s.poss) (p i : Nat) : t.pos p i = s.pos p i := by
  rw [State.pos, State.pos, h]

theorem pos_run (s : State) (n p i : Nat) : (s.run n).pos p i = s.pos p i := pos_of_poss (by rw [(run_frame s n).rest]) p i

theorem tracked_histClear (s : State) (p i : Nat) : Tracked [.POS_SPD] s (s.histClear p i) := .updPos (.wr (.refl s))

theorem pos_histClear (s : State) (p i : Nat) :
    (s.histClear p i).pos p i =
      { s.pos p i with hist := [], pre := none, win := (s.pos p i).win.map fun e => (e.1, e.2.1, false) } := pos_updPos _ p i _

theorem tracked_setStill (s : State) (p i : Nat) : Tracked [.POS_STAT] s (s.setStill p i) := .updPos (.put (.refl s))

theorem pos_setStill (s : State) (p i : Nat) : (s.setStill p i).pos p i = { s.pos p i with edges := 0, last := none } := pos_updPos _ p i _

theorem tracked_sectorFromLevels (s : State) (p i : Nat) : Tracked [.POS_SECT] s (s.sectorFromLevels p i) := by
  unfold State.sectorFromLevels
  extract_lets st s1
  have h1 : Tracked [.POS_SECT] s s1 := .put (.refl s)
  split
  · split
    · exact .updPos (.put (.put h1))
    · exact .put h1
  · exact h1

/-- Where the sector is read from the levels, no free value is drawn, and a history stays as it was. -/
theorem sectorFromLevels_keeps (s : State) (p i : Nat) :
    (s.sectorFromLevels p i).free = s.free ∧ ((s.sectorFromLevels p i).pos p i).hist = (s.pos p i).hist := by
  unfold State.sectorFromLevels
  extract_lets st s1
  split
  · split
    · exact ⟨rfl, by rw [pos_updPos]; rfl⟩
    · exact ⟨rfl, rfl⟩
  · exact ⟨rfl, rfl⟩

/-! ### Latches -/

/-- Latches have been taken between two states: of the interface only what they take has changed. -/
structure Snapped (p i : Nat) (s t : State) : Prop where
  tracked : Tracked [] s t
  pos : t.pos p i = { s.pos p i with win := (t.pos p i).win, pre := (t.pos p i).pre, fl := (t.pos p i).fl, lq := (t.pos p i).lq }

namespace Snapped

variable {p i : Nat} {s a t : State}

theorem refl (s : State) : Snapped p i s s := ⟨.refl s, rfl⟩

theorem trans (h : Snapped p i s a) (g : Snapped p i a t) : Snapped p i s t := ⟨h.tracked.trans g.tracked, by rw [g.pos, h.pos]⟩

theorem hist (h : Snapped p i s t) : (t.pos p i).hist = (s.pos p i).hist := by rw [h.pos]

end Snapped

/-- A latch takes the counter, and ends the window and its flags (R111, R115, R116). -/
theorem latchEval_keeps (s : State) (p i : Nat) (l : Tag) :
    Snapped p i s (s.latchEval p i l).1 ∧ (s.latchEval p i l).2.1 = s.rd .POS_CNT p i ∧
      ((s.latchEval p i l).1.pos p i).win = [] ∧ ((s.latchEval p i l).1.pos p i).fl = 0 := by
  unfold State.latchEval
  dsimp only
  generalize latchSpeed _ _ _ _ _ _ _ _ = q
  generalize hd : (if q.2 = 0 then s.fresh else (s, ratWord q.1 q.2)) = a
  have ha : Tracked [] s a.1 ∧ a.1.pos p i = s.pos p i := by
    rw [← hd]
    split
    · exact ⟨⟨rfl, fun _ _ _ _ _ => rfl⟩, rfl⟩
    · exact ⟨.refl s, rfl⟩
  exact ⟨⟨.updPos ha.1, by rw [pos_updPos, ha.2]⟩, rfl, by rw [pos_updPos], by rw [pos_updPos]⟩

/-- No edge of a window and no flag waits for a latch. -/
def WindowEnded (p i : Nat) (s : State) : Prop := (s.pos p i).win = [] ∧ (s.pos p i).fl = 0

/-- A latch of the queue, which takes what stands where its instant is before `t` and it has taken nothing. -/
def snapStep (p i : Nat) (t : Tag) (e : State × List PLatch) (q : PLatch) : State × List PLatch :=
  if q.val.isNone && Tag.before q.tag t then
    ((e.1.latchEval p i q.tag).1, e.2 ++ [{ q with val := some (e.1.latchEval p i q.tag).2 }])
  else (e.1, e.2 ++ [q])

/-- `n` latches of the queue have been gone through. -/
structure SnapDone (p i n : Nat) (a b : State × List PLatch) : Prop where
  snapped : Snapped p i a.1 b.1
  out : ∃ os, os.length = n ∧ b.2 = a.2 ++ os
  ended : WindowEnded p i a.1 → WindowEnded p i b.1

theorem snapDone_step (p i : Nat) (t : Tag) (e : State × List PLatch) (q : PLatch) : SnapDone p i 1 e (snapStep p i t e q) := by
  unfold snapStep
  split
  · obtain ⟨hs, -, hw, hf⟩ := latchEval_keeps e.1 p i q.tag
    exact ⟨hs, ⟨_, rfl, rfl⟩, fun _ => ⟨hw, hf⟩⟩
  · exact ⟨.refl e.1, ⟨_, rfl, rfl⟩, id⟩

theorem snapDone_foldl (p i : Nat) (t : Tag) (qs : List PLatch) (e : State × List PLatch) :
    SnapDone p i qs.length e (qs.foldl (snapStep p i t) e) := by
  induction qs generalizing e with
  | nil => exact ⟨.refl e.1, ⟨[], rfl, (List.append_nil _).symm⟩, id⟩
  | cons q qs ih =>
    obtain ⟨hs, ⟨os, hn, ho⟩, he⟩ := snapDone_step p i t e q
    obtain ⟨gs, ⟨os', hn', ho'⟩, ge⟩ := ih (snapStep p i t e q)
    exact ⟨hs.trans gs, ⟨os ++ os', by simp [hn, hn', Nat.add_comm], by rw [List.foldl_cons, ho', ho, List.append_assoc]⟩, fun h => ge (he h)⟩

/-- The latches before something of tag `t`, one by one (R115). -/
theorem posSnap_eq (s : State) (p i : Nat) (t : Tag) :
    s.posSnap p i t = ((s.pos p i).lq.foldl (snapStep p i t) (s, [])).1.updPos p i fun k =>
      { k with lq := ((s.pos p i).lq.foldl (snapStep p i t) (s, [])).2 } := rfl

theorem snapped_posSnap (s : State) (p i : Nat) (t : Tag) : Snapped p i s (s.posSnap p i t) := by
  have h := (snapDone_foldl p i t (s.pos p i).lq (s, [])).snapped
  rw [posSnap_eq]
  exact ⟨.updPos h.tracked, by rw [pos_updPos, h.pos]⟩

/-- The first latch of a queue, whose instant is before `t`, holds the counter of its instant, and the others wait on (R115, R116). -/
theorem posSnap_first {s : State} {p i : Nat} {q : PLatch} {qs : List PLatch} (h : (s.pos p i).lq = q :: qs) {t : Tag}
    (ht : Tag.before q.tag t = true) :
    ∃ v os, ((s.posSnap p i t).pos p i).lq = { q with val := some v } :: os ∧ os.length = qs.length ∧
      v.1 = (q.val.map (·.1)).getD (s.rd .POS_CNT p i) ∧ (q.val = none → WindowEnded p i (s.posSnap p i t)) := by
  have hw (a : State) (l : List PLatch) : WindowEnded p i a → WindowEnded p i (a.updPos p i fun k => { k with lq := l }) := fun hw => by
    rw [WindowEnded, pos_updPos]
    exact hw
  rw [posSnap_eq, h, List.foldl_cons, pos_updPos]
  obtain ⟨raw, tag, val⟩ := q
  cases val with
  | none =>
    obtain ⟨-, hc, he⟩ := latchEval_keeps s p i tag
    have hstep : snapStep p i t (s, []) ⟨raw, tag, none⟩ = ((s.latchEval p i tag).1, [⟨raw, tag, some (s.latchEval p i tag).2⟩]) := by
      rw [snapStep, if_pos (by exact ht)]
      rfl
    rw [hstep]
    obtain ⟨-, ⟨os, hn, ho⟩, hend⟩ := snapDone_foldl p i t qs ((s.latchEval p i tag).1, [⟨raw, tag, some (s.latchEval p i tag).2⟩])
    exact ⟨_, os, ho, hn, hc, fun _ => hw _ _ (hend he)⟩
  | some v =>
    have hstep : snapStep p i t (s, []) ⟨raw, tag, some v⟩ = (s, [⟨raw, tag, some v⟩]) := rfl
    rw [hstep]
    obtain ⟨-, ⟨os, hn, ho⟩, -⟩ := snapDone_foldl p i t qs (s, [⟨raw, tag, some v⟩])
    exact ⟨v, os, ho, hn, rfl, nofun⟩

end Sys2Proof.Proofs
end

section
/-! The edges of a position interface: what an accepted change of its pins counts, and what it leaves (R98 to R109). -/

namespace Sys2Proof.Proofs
open Sys2Proof Sys2Proof.Machine Sys2Proof.Laws

/-! ### Footprints of an edge -/

/-- The registers of an interface but its configuration and pin diagnostics. -/
def countedRegs : List RegName :=
  [.POS_CNT, .POS_WRAP, .POS_STAT, .POS_ETAG_LO, .POS_ETAG_HI, .POS_SPD, .POS_SECT, .POS_ICAP, .POS_ITAG_LO, .POS_ITAG_HI, .POS_REF, .POS_IDX,
   .POS_IERR, .POS_SCAP, .POS_STAG_LO, .POS_STAG_HI, .POS_SCNT]

/-- The registers that an accepted change of the pins can change: those, an alarm's, and those of a dropped event. -/
def edgeRegs : List RegName := countedRegs ++ alarmRegs ++ lossRegs

/-- Between two states an interface has handled an edge: beside the listed registers no other has changed, and the accepted pins and the
levels that they present stand as they did. -/
structure Edged (rs : List RegName) (p i : Nat) (s t : State) : Prop where
  within : Within rs s t
  pins : (t.pos p i).pins = (s.pos p i).pins
  lvl : (t.pos p i).lvl = (s.pos p i).lvl

namespace Edged

variable {rs : List RegName} {p i : Nat} {s a t : State}

theorem refl (s : State) : Edged rs p i s s := ⟨.refl s, rfl, rfl⟩

theorem trans (h : Edged rs p i s a) (g : Edged rs p i a t) : Edged rs p i s t :=
  ⟨h.within.trans g.within, g.pins.trans h.pins, g.lvl.trans h.lvl⟩

theorem mono {rs' : List RegName} (h : Edged rs p i s t) (hs : rs ⊆ rs' := by decide) : Edged rs' p i s t := ⟨h.within.mono hs, h.pins, h.lvl⟩

/-- A change that leaves the interfaces. -/
theorem of_poss (h : Within rs s t) (hp : t.poss = s.poss := by rfl) : Edged rs p i s t :=
  ⟨h, congrArg Pos.pins (pos_of_poss hp p i), congrArg Pos.lvl (pos_of_poss hp p i)⟩

theorem wr (h : Edged rs p i s a) {r : RegName} {v : Word} {q l j : Nat} (hr : r ∈ rs := by decide) : Edged rs p i s (a.wr r v q l j) :=
  h.trans (of_poss (.wr (.refl a) hr))

theorem put (h : Edged rs p i s a) {f : Fld} {n q l j : Nat} (hr : f.r ∈ rs := by decide) : Edged rs p i s (a.put f n q l j) := h.wr hr

theorem setPair (h : Edged rs p i s a) {lo hi : RegName} {g : Tag} {q l j : Nat} (hl : lo ∈ rs := by decide)
    (hh : hi ∈ rs := by decide) : Edged rs p i s (a.setPair lo hi g q l j) := (h.wr hl).wr hh

theorem ite {c : Prop} {_ : Decidable c} (h : Edged rs p i s a) (g : Edged rs p i s t) : Edged rs p i s (if c then a else t) := by
  split <;> assumption

theorem setIf (h : Edged rs p i s a) {c : Bool} {f : Fld} {q l j : Nat} (hr : f.r ∈ rs := by decide) : Edged rs p i s (a.setIf c f q l j) :=
  (h.put hr).ite h

theorem inc (h : Edged rs p i s a) {f : Fld} {q l j : Nat} (hr : f.r ∈ rs := by decide) : Edged rs p i s (a.inc f q l j) := by
  unfold State.inc
  split <;> exact h.put hr

theorem updPos (h : Edged rs p i s a) {f : Pos → Pos} (hf : ∀ k, (f k).pins = k.pins ∧ (f k).lvl = k.lvl := by exact fun _ => ⟨rfl, rfl⟩) :
    Edged rs p i s (a.updPos p i f) :=
  h.trans ⟨.hidden (.refl a), by rw [pos_updPos, (hf _).1], by rw [pos_updPos, (hf _).2]⟩

theorem histClear (h : Edged rs p i s a) (hr : RegName.POS_SPD ∈ rs := by decide) : Edged rs p i s (a.histClear p i) := .updPos (.wr h hr)

theorem of_snapped (h : Snapped p i s t) : Edged rs p i s t := ⟨h.tracked.within.mono (List.nil_subset _), by rw [h.pos], by rw [h.pos]⟩

end Edged

/-! ### Alarms and events of an interface -/

theorem poss_posAlarm (s : State) (p i code : Nat) (g : Tag) : (s.posAlarm p i code g).poss = s.poss := by
  rw [State.posAlarm, (reported_alarm ..).rest]

theorem edged_posAlarm (s : State) (p i code : Nat) (g : Tag) : Edged alarmRegs p i s (s.posAlarm p i code g) :=
  .of_poss (within_alarm s _ _ _ _ _ _ g) (poss_posAlarm s p i code g)

/-- An event of the interface's channel stages at most a record of a log (R101, R338). -/
theorem posEvent_keeps (s : State) (p i : Nat) (d : Byte) (g : Tag) :
    Within lossRegs s (s.posEvent p i d g) ∧ (s.posEvent p i d g).poss = s.poss := by
  unfold State.posEvent
  split
  · have h := produced_produce s (64 * p + s.f F.POS_CFG.lsh_ch p i) 1 i d g (s.posOwner p i) 49 (64 * p + s.f F.POS_CFG.lsh_ch p i)
    exact ⟨⟨by rw [h.rest], by rw [h.rest], h.regs⟩, by rw [h.rest]⟩
  · exact ⟨.refl s, rfl⟩

theorem edged_posEvent (s : State) (p i : Nat) (d : Byte) (g : Tag) : Edged lossRegs p i s (s.posEvent p i d g) :=
  .of_poss (posEvent_keeps s p i d g).1 (posEvent_keeps s p i d g).2

/-! ### A counted edge -/

/-- One edge has been counted up or down with its tag, at one interface of a pack (R98, R102, R104). -/
structure Counted (p i : Nat) (up : Bool) (g : Tag) (s t : State) : Prop where
  cnt : t.rd .POS_CNT p i = if up then s.rd .POS_CNT p i + 1 else s.rd .POS_CNT p i - 1
  dir : t.bit F.POS_STAT.dir p i = !up
  tag : t.pairAt .POS_ETAG_LO .POS_ETAG_HI p i = g
  others : ∀ j, j ≠ i → t.rd .POS_CNT p j = s.rd .POS_CNT p j

/-- The registers that a counted edge changes (R98, R102, R104). -/
def countRegs : List RegName := [.POS_CNT, .POS_WRAP, .POS_STAT, .POS_ETAG_LO, .POS_ETAG_HI]

theorem Counted.next {p i : Nat} {up : Bool} {g : Tag} {s a t : State} {rs : List RegName} (h : Counted p i up g s a) (k : Within rs a t)
    (hr : ∀ r ∈ countRegs, r ∉ rs := by decide) : Counted p i up g s t :=
  ⟨(k.regs _ p i 0 (hr _ (by decide))).trans h.cnt, (k.bit_eq _ p i 0 (hr _ (by decide))).trans h.dir,
    (pairAt_within k _ _ p i 0 (hr _ (by decide)) (hr _ (by decide))).trans h.tag, fun j hj => (k.regs _ p j 0 (hr _ (by decide))).trans (h.others j hj)⟩

theorem Counted.of_before {p i : Nat} {up : Bool} {g : Tag} {s a t : State} {rs : List RegName} (h : Counted p i up g a t) (k : Within rs s a)
    (hr : RegName.POS_CNT ∉ rs := by decide) : Counted p i up g s t :=
  ⟨by rw [h.cnt, k.regs _ p i 0 hr], h.dir, h.tag, fun j hj => (h.others j hj).trans (k.regs _ p j 0 hr)⟩

theorem Counted.clrbStill {p i : Nat} {up : Bool} {g : Tag} {s a : State} (h : Counted p i up g s a) :
    Counted p i up g s (a.clrb F.POS_STAT.still p i) := by
  have k : Within [.POS_STAT] a (a.clrb F.POS_STAT.still p i) := .put (.refl a)
  exact ⟨(k.regs _ p i 0 (by decide)).trans h.cnt, (bit_clrb_apart a (by decide) p i 0 p i 0).trans h.dir,
    (pairAt_within k _ _ p i 0).trans h.tag, fun j hj => (k.regs _ p j 0 (by decide)).trans (h.others j hj)⟩

/-- The direction and the tag of an edge are written after its count. -/
theorem counted_noted {p i : Nat} {up : Bool} {s a : State} (g : Tag)
    (hc : a.rd .POS_CNT p i = if up then s.rd .POS_CNT p i + 1 else s.rd .POS_CNT p i - 1)
    (ho : ∀ j, j ≠ i → a.rd .POS_CNT p j = s.rd .POS_CNT p j) :
    Counted p i up g s ((a.putb F.POS_STAT.dir (!up) p i).setPair .POS_ETAG_LO .POS_ETAG_HI g p i) := by
  have k : Within [.POS_STAT, .POS_ETAG_LO, .POS_ETAG_HI] a ((a.putb F.POS_STAT.dir (!up) p i).setPair .POS_ETAG_LO .POS_ETAG_HI g p i) :=
    .setPair (.put (.refl a))
  refine ⟨(k.regs _ p i 0 (by decide)).trans hc, ?_, pairAt_setPair _ (by decide) g p i 0, fun j hj => (k.regs _ p j 0 (by decide)).trans (ho j hj)⟩
  exact (congrArg (F.POS_STAT.dir.get · != 0) (rd_setPair_name _ (by decide) (by decide) g p i 0 p i 0)).trans
    (bit_putb_self a F.POS_STAT.dir (!up) p i 0 (by decide))

/-- An edge counts one step in the direction of its levels and dir_inv (R98, R102, R104). -/
theorem countEdge_counts (s : State) (p i : Nat) (fwd : Bool) (g : Tag) :
    Counted p i (fwd != s.bit F.POS_CFG.dir_inv p i) g s (s.countEdge p i fwd g) ∧ Edged countRegs p i s (s.countEdge p i fwd g) := by
  unfold State.countEdge
  extract_lets up c c' w s1 su sd s2 k chg s3
  have h1 : Edged countRegs p i s s1 := .wr (.refl s)
  have h2 : Within [.POS_STAT, .POS_WRAP] s1 s2 ∧ s2.poss = s1.poss := by
    unfold s2
    split
    · split
      · exact ⟨.put (.put (.refl s1)), rfl⟩
      · exact ⟨.wr (.put (.refl s1)), rfl⟩
    · split
      · split
        · exact ⟨.put (.put (.refl s1)), rfl⟩
        · exact ⟨.wr (.put (.refl s1)), rfl⟩
      · exact ⟨.refl s1, rfl⟩
  obtain ⟨h2, hp2⟩ := h2
  clear_value s2 chg
  have h3 : Edged countRegs p i s s3 := .updPos (.setPair (.put (.setIf (h1.trans (.of_poss h2.mono hp2)))))
  have cnt (q j : Nat) : (s2.setIf chg F.POS_STAT.dir_chg p i).rd .POS_CNT q j = s1.rd .POS_CNT q j :=
    (h2.setIf (c := chg)).regs _ q j 0 (by decide)
  have c3 : Counted p i up g s s3 := (counted_noted g ((cnt p i).trans (rd_wr_self s _ _ _ _ _))
    fun j hj => (cnt p j).trans (by rw [rd_wr, if_neg fun h => hj h.2.2.1])).next (rs := []) (.updPos (.refl _))
  split
  · exact ⟨c3.clrbStill, .put h3⟩
  · exact ⟨c3, h3⟩

/-! ### An accepted Hall state -/

/-- A valid Hall state has been seen: its sector, without what it counts (R99). -/
def hallSeen (s : State) (p i v : Nat) : State :=
  ((s.put F.POS_SECT.sector v p i).setb F.POS_SECT.sect_valid p i).updPos p i fun k => { k with hallOk := true }

theorem edged_hallSeen (s : State) (p i v : Nat) : Edged [.POS_SECT] p i s (hallSeen s p i v) := .updPos (.put (.put (.refl s)))

/-- An invalid Hall state has been seen (R98, R100). -/
def hallBad (s : State) (p i : Nat) (g : Tag) : State :=
  ((s.setb F.POS_STAT.hall_inv p i).clrb F.POS_SECT.sect_valid p i).posAlarm p i 1 g

/-- The registers of an interface's status and of an alarm. -/
def hallRegs : List RegName := [.POS_STAT, .POS_SECT, .POS_SPD] ++ alarmRegs

theorem edged_hallBad (s : State) (p i : Nat) (g : Tag) : Edged hallRegs p i s (hallBad s p i g) :=
  .trans (.put (.put (.refl s))) ((edged_posAlarm _ p i 1 g).mono)

/-- A Hall state that is no neighbour of the one before skips (R100, R103). -/
def hallSkips (s : State) (p i : Nat) : State :=
  ((s.setb F.POS_STAT.hall_skip p i).histClear p i).updPos p i fun k => { k with fl := k.fl ||| 2 }

theorem edged_hallSkips (s : State) (p i : Nat) : Edged [.POS_STAT, .POS_SPD] p i s (hallSkips s p i) := .updPos (.histClear (.put (.refl s)))

/-- The event of an accepted Hall state. -/
abbrev hallEvent (s t : State) (p i : Nat) (g : Tag) : State := t.posEvent p i (BitVec.ofNat 8 (s.posLevels p i)) g

theorem hallEdge_none {s : State} {p i : Nat} (h : hallSector (s.f F.POS_HMAP.map p i) (s.posLevels p i) = none) (g : Tag) :
    s.hallEdge p i g = hallEvent s (hallBad s p i g) p i g := by
  unfold State.hallEdge
  dsimp only
  rw [h]
  rfl

theorem hallEdge_some {s : State} {p i v : Nat} (h : hallSector (s.f F.POS_HMAP.map p i) (s.posLevels p i) = some v) (g : Tag) :
    s.hallEdge p i g = hallEvent s (if !(s.pos p i).hallOk || v == s.f F.POS_SECT.sector p i then hallSeen s p i v
      else if v = (s.f F.POS_SECT.sector p i + 1) % 6 then (hallSeen s p i v).countEdge p i true g
      else if v = (s.f F.POS_SECT.sector p i + 5) % 6 then (hallSeen s p i v).countEdge p i false g
      else hallSkips (hallSeen s p i v) p i) p i g := by
  unfold State.hallEdge
  dsimp only
  rw [h]
  rfl

theorem edged_hallEdge (s : State) (p i : Nat) (g : Tag) : Edged edgeRegs p i s (s.hallEdge p i g) := by
  have seen (v : Nat) : Edged edgeRegs p i s (hallSeen s p i v) := (edged_hallSeen s p i v).mono
  cases h : hallSector (s.f F.POS_HMAP.map p i) (s.posLevels p i) with
  | none =>
    rw [hallEdge_none h]
    exact (edged_hallBad s p i g).mono.trans (edged_posEvent _ p i _ g).mono
  | some v =>
    rw [hallEdge_some h]
    refine Edged.trans ?_ (edged_posEvent _ p i _ g).mono
    exact .ite (seen v) (.ite ((seen v).trans (countEdge_counts _ p i true g).2.mono)
      (.ite ((seen v).trans (countEdge_counts _ p i false g).2.mono) ((seen v).trans (edged_hallSkips _ p i).mono)))

/-- An invalid Hall state is flagged and counts nothing (R98, R100). -/
theorem hallEdge_invalid {s : State} {p i : Nat} (h : hallSector (s.f F.POS_HMAP.map p i) (s.posLevels p i) = none) (g : Tag) :
    (s.hallEdge p i g).bit F.POS_STAT.hall_inv p i = true ∧ (s.hallEdge p i g).bit F.POS_SECT.sect_valid p i = false ∧
      (s.hallEdge p i g).rd .POS_CNT p i = s.rd .POS_CNT p i := by
  have hm : Within (alarmRegs ++ lossRegs) ((s.setb F.POS_STAT.hall_inv p i).clrb F.POS_SECT.sect_valid p i) (s.hallEdge p i g) := by
    rw [hallEdge_none h]
    exact (edged_posAlarm _ p i 1 g).within.mono.trans (edged_posEvent _ p i _ g).within.mono
  have hb : Within [.POS_STAT, .POS_SECT] s ((s.setb F.POS_STAT.hall_inv p i).clrb F.POS_SECT.sect_valid p i) := .put (.put (.refl s))
  refine ⟨(hm.bit_eq F.POS_STAT.hall_inv p i 0).trans ?_, (hm.bit_eq F.POS_SECT.sect_valid p i 0).trans (bit_clrb_self _ _ p i 0 (by decide)), 
    (hm.regs .POS_CNT p i 0 (by decide)).trans (hb.regs .POS_CNT p i 0 (by decide))⟩
  exact (bit_clrb_apart _ (by decide) p i 0 p i 0).trans (bit_setb_self s F.POS_STAT.hall_inv p i 0 (by decide))

theorem hallSector_lt {map st v : Nat} (h : hallSector map st = some v) : v < 6 := by
  unfold hallSector at h
  dsimp only at h
  split at h
  · cases h
  · split at h
    · cases h
    · cases h
      omega

/-- The sector of a valid Hall state stands, after what it counts. -/
structure SectorSeen (p i v : Nat) (t : State) : Prop where
  sector : t.f F.POS_SECT.sector p i = v
  valid : t.bit F.POS_SECT.sect_valid p i = true

theorem sectorSeen_hallSeen (s : State) (p i : Nat) {v : Nat} (h : v < 6) : SectorSeen p i v (hallSeen s p i v) := by
  refine ⟨?_, bit_setb_self (s.put F.POS_SECT.sector v p i) F.POS_SECT.sect_valid p i 0 (by decide)⟩
  calc (hallSeen s p i v).f F.POS_SECT.sector p i = (s.put F.POS_SECT.sector v p i).f F.POS_SECT.sector p i :=
        f_setb_apart (s.put F.POS_SECT.sector v p i) (f := F.POS_SECT.sect_valid) (by decide) p i 0 p i 0
    _ = v % 2 ^ F.POS_SECT.sector.w := f_put_self s _ v p i 0 (by decide)
    _ = v := Nat.mod_eq_of_lt (Nat.lt_trans h (by decide))

theorem SectorSeen.next {p i v : Nat} {a t : State} {rs : List RegName} (h : SectorSeen p i v a) (k : Within rs a t)
    (hr : RegName.POS_SECT ∉ rs := by decide) : SectorSeen p i v t := ⟨(k.f_eq _ p i 0 hr).trans h.sector, (k.bit_eq _ p i 0 hr).trans h.valid⟩

section
variable {s : State} {p i v : Nat} (h : hallSector (s.f F.POS_HMAP.map p i) (s.posLevels p i) = some v) (hk : (s.pos p i).hallOk = true)
include h hk

/-- A step to the next sector counts one edge forward, one to the sector before one backward (R98, R99). -/
theorem hallEdge_counts (g : Tag) (fwd : Bool) (hv : v = (s.f F.POS_SECT.sector p i + if fwd then 1 else 5) % 6) :
    SectorSeen p i v (s.hallEdge p i g) ∧ Counted p i (fwd != s.bit F.POS_CFG.dir_inv p i) g s (s.hallEdge p i g) := by
  obtain ⟨hc, he⟩ := countEdge_counts (hallSeen s p i v) p i fwd g
  have hseen := (edged_hallSeen s p i v).within
  have ht : s.hallEdge p i g = hallEvent s ((hallSeen s p i v).countEdge p i fwd g) p i g := by
    have hne : (!(s.pos p i).hallOk || v == s.f F.POS_SECT.sector p i) = false := by
      rw [hk, Bool.not_true, Bool.false_or, beq_eq_false_iff_ne]
      split at hv <;> omega
    rw [hallEdge_some h, hne, if_neg Bool.false_ne_true]
    cases fwd with
    | true => rw [if_pos (by simpa using hv)]
    | false =>
      have hv5 : v = (s.f F.POS_SECT.sector p i + 5) % 6 := by simpa using hv
      rw [if_neg (by omega), if_pos hv5]
  rw [ht]
  have hev := (edged_posEvent ((hallSeen s p i v).countEdge p i fwd g) p i (BitVec.ofNat 8 (s.posLevels p i)) g).within
  rw [hseen.bit_eq F.POS_CFG.dir_inv p i 0] at hc
  exact ⟨((sectorSeen_hallSeen s p i (hallSector_lt h)).next he.within).next hev, (hc.of_before hseen).next hev⟩

/-- A jump is flagged, empties the history and counts nothing (R100, R103). -/
theorem hallEdge_jumps (g : Tag) (h0 : v ≠ s.f F.POS_SECT.sector p i) (h1 : v ≠ (s.f F.POS_SECT.sector p i + 1) % 6)
    (h5 : v ≠ (s.f F.POS_SECT.sector p i + 5) % 6) :
    SectorSeen p i v (s.hallEdge p i g) ∧ (s.hallEdge p i g).bit F.POS_STAT.hall_skip p i = true ∧ ((s.hallEdge p i g).pos p i).hist = [] ∧
      (s.hallEdge p i g).rd .POS_CNT p i = s.rd .POS_CNT p i := by
  have ht : s.hallEdge p i g = hallEvent s (hallSkips (hallSeen s p i v) p i) p i g := by
    rw [hallEdge_some h, if_neg (by simp [hk, h0]), if_neg h1, if_neg h5]
  rw [ht]
  obtain ⟨hev, hpos⟩ := posEvent_keeps (hallSkips (hallSeen s p i v) p i) p i (BitVec.ofNat 8 (s.posLevels p i)) g
  have hskip := (edged_hallSkips (hallSeen s p i v) p i).within
  refine ⟨((sectorSeen_hallSeen s p i (hallSector_lt h)).next hskip).next hev, ?_, ?_, ?_⟩
  · have hb : Within [.POS_SPD] ((hallSeen s p i v).setb F.POS_STAT.hall_skip p i) (hallSkips (hallSeen s p i v) p i) :=
      .updPos (tracked_histClear _ p i).within
    exact (hev.bit_eq F.POS_STAT.hall_skip p i 0).trans
      ((hb.bit_eq F.POS_STAT.hall_skip p i 0).trans (bit_setb_self (hallSeen s p i v) F.POS_STAT.hall_skip p i 0 (by decide)))
  · rw [pos_of_poss hpos, hallSkips, pos_updPos, pos_histClear]
  · exact (hev.regs _ p i 0 (by decide)).trans ((hskip.regs _ p i 0 (by decide)).trans ((edged_hallSeen s p i v).within.regs _ p i 0 (by decide)))

end

/-! ### An accepted change of A, B and Z -/

/-- Both of A and B at once is no quadrature step: it is flagged, and the history is emptied (R103). -/
theorem abEdge_both {s : State} {p i old : Nat} (ha : (s.posLevels p i).testBit 0 ≠ old.testBit 0) (hb : (s.posLevels p i).testBit 1 ≠ old.testBit 1)
    (g : Tag) : (s.abEdge p i old g).bit F.POS_STAT.quad_err p i = true ∧ ((s.abEdge p i old g).pos p i).hist = [] ∧
      Edged [.POS_STAT, .POS_SPD] p i s (s.abEdge p i old g) := by
  have ht : s.abEdge p i old g = ((s.setb F.POS_STAT.quad_err p i).histClear p i).updPos p i fun k => { k with fl := k.fl ||| 2 } :=
    if_pos (by rw [Bool.and_eq_true, bne_iff_ne, bne_iff_ne]; exact ⟨ha, hb⟩)
  rw [ht]
  have hb : Within [.POS_SPD] (s.setb F.POS_STAT.quad_err p i)
      (((s.setb F.POS_STAT.quad_err p i).histClear p i).updPos p i fun k => { k with fl := k.fl ||| 2 }) := .updPos (tracked_histClear _ p i).within
  refine ⟨(hb.bit_eq F.POS_STAT.quad_err p i 0).trans (bit_setb_self s F.POS_STAT.quad_err p i 0 (by decide)), ?_,
    .updPos (.histClear (.put (.refl s)))⟩
  rw [pos_updPos, pos_histClear]

/-- A change of A alone counts in the direction that its new level gives (R102). -/
theorem abEdge_a {s : State} {p i old : Nat} (ha : (s.posLevels p i).testBit 0 ≠ old.testBit 0) (hb : (s.posLevels p i).testBit 1 = old.testBit 1)
    (g : Tag) : s.abEdge p i old g = s.countEdge p i ((s.posLevels p i).testBit 0 != (s.posLevels p i).testBit 1) g := by
  unfold State.abEdge
  dsimp only
  rw [if_neg (by simp [hb]), if_pos (bne_iff_ne.mpr ha)]

/-- A change of B alone counts in the other direction (R102). -/
theorem abEdge_b {s : State} {p i old : Nat} (ha : (s.posLevels p i).testBit 0 = old.testBit 0) (hb : (s.posLevels p i).testBit 1 ≠ old.testBit 1)
    (g : Tag) : s.abEdge p i old g = s.countEdge p i ((s.posLevels p i).testBit 0 == (s.posLevels p i).testBit 1) g := by
  unfold State.abEdge
  dsimp only
  rw [if_neg (by simp [ha]), if_neg (by simp [ha]), if_pos (bne_iff_ne.mpr hb)]

theorem edged_abEdge (s : State) (p i old : Nat) (g : Tag) : Edged edgeRegs p i s (s.abEdge p i old g) :=
  .ite (.updPos (.histClear (.put (.refl s)))) (.ite (countEdge_counts s p i _ g).2.mono (.ite (countEdge_counts s p i _ g).2.mono (.refl s)))

/-- A counter value and a tag stand captured by an index (R106). -/
structure Captured (p i : Nat) (c : Word) (g : Tag) (t : State) : Prop where
  cap : t.rd .POS_ICAP p i = c
  tag : t.pairAt .POS_ITAG_LO .POS_ITAG_HI p i = g
  seen : t.bit F.POS_STAT.idx_seen p i = true

theorem Captured.next {p i : Nat} {c : Word} {g : Tag} {a t : State} {rs : List RegName} (h : Captured p i c g a) (k : Within rs a t)
    (hr : ∀ r ∈ [RegName.POS_ICAP, .POS_ITAG_LO, .POS_ITAG_HI, .POS_STAT], r ∉ rs := by decide) : Captured p i c g t :=
  ⟨(k.regs _ p i 0 (hr _ (by decide))).trans h.cap, (pairAt_within k _ _ p i 0 (hr _ (by decide)) (hr _ (by decide))).trans h.tag,
    (k.bit_eq _ p i 0 (hr _ (by decide))).trans h.seen⟩

/-- A slip beside it is another bit of the status. -/
theorem Captured.slip {p i : Nat} {c : Word} {g : Tag} {a : State} (h : Captured p i c g a) : Captured p i c g (a.setb F.POS_STAT.idx_slip p i) := by
  have k : Within [.POS_STAT] a (a.setb F.POS_STAT.idx_slip p i) := .put (.refl a)
  exact ⟨(k.regs _ p i 0 (by decide)).trans h.cap, (pairAt_within k _ _ p i 0).trans h.tag, (bit_setb_apart a (by decide) p i 0 p i 0).trans h.seen⟩

theorem captured_wr (s : State) (p i : Nat) (c : Word) (g : Tag) :
    Captured p i c g (((s.wr .POS_ICAP c p i).setPair .POS_ITAG_LO .POS_ITAG_HI g p i).setb F.POS_STAT.idx_seen p i) := by
  have k : Within [.POS_STAT] ((s.wr .POS_ICAP c p i).setPair .POS_ITAG_LO .POS_ITAG_HI g p i)
      (((s.wr .POS_ICAP c p i).setPair .POS_ITAG_LO .POS_ITAG_HI g p i).setb F.POS_STAT.idx_seen p i) := .put (.refl _)
  refine ⟨(k.regs _ p i 0 (by decide)).trans ?_, (pairAt_within k _ _ p i 0).trans (pairAt_setPair _ (by decide) g p i 0),
    bit_setb_self _ F.POS_STAT.idx_seen p i 0 (by decide)⟩
  rw [rd_setPair_name _ (by decide) (by decide), rd_wr_self]

/-- The registers that an index changes, with those of an alarm and of a dropped event (R106 to R109). -/
def indexRegs : List RegName :=
  .POS_STAT :: .POS_ICAP :: .POS_ITAG_LO :: .POS_ITAG_HI :: .POS_REF :: .POS_IDX :: .POS_IERR :: .POS_SCAP :: .POS_STAG_LO :: .POS_STAG_HI ::
    .POS_SCNT :: (alarmRegs ++ lossRegs)

/-- An accepted index captures the counter with its tag (R106). -/
theorem indexEdge_captures (s : State) (p i : Nat) (g : Tag) :
    Captured p i (s.rd .POS_CNT p i) g (s.indexEdge p i g) ∧ Edged indexRegs p i s (s.indexEdge p i g) := by
  unfold State.indexEdge
  extract_lets c s1 learn s2 e s3 s4a s5a s4
  have h1 : Edged indexRegs p i s s1 := .put (.setPair (.wr (.refl s)))
  have c1 : Captured p i c g s1 := captured_wr s p i c g
  have h3 : Edged [.POS_REF, .POS_IDX, .POS_IERR] p i s1 s3 := .wr (.ite (.put (.wr (.refl s1))) (.refl s1))
  have h4a : Edged [.POS_SCAP, .POS_STAG_LO, .POS_STAG_HI] p i s3 s4a := .ite (.refl s3) (.setPair (.wr (.refl s3)))
  have h5a : Edged [.POS_SCNT] p i (s4a.setb F.POS_STAT.idx_slip p i) s5a := .updPos (.inc (.refl _))
  have hal := edged_posAlarm s5a p i 2 g
  have h4 : Captured p i c g s4 ∧ Edged indexRegs p i s s4 := by
    unfold s4
    split
    · exact ⟨((((c1.next h3.within).next h4a.within).slip).next h5a.within).next hal.within,
        ((((h1.trans h3.mono).trans h4a.mono).put).trans h5a.mono).trans hal.mono⟩
    · exact ⟨c1.next h3.within, h1.trans h3.mono⟩
  have hev := edged_posEvent s4.fresh.1 p i (BitVec.ofNat 8 (s4.fresh.2.toNat % 8)) g
  exact ⟨(h4.1.next (rs := []) (.hidden (.refl s4))).next hev.within, (h4.2.trans (.of_poss (.hidden (.refl s4)))).trans hev.mono⟩

theorem edged_zEdge (s : State) (p i old l : Nat) (g : Tag) : Edged edgeRegs p i s (s.zEdge p i old l g) :=
  .ite (indexEdge_captures s p i g).2.mono (.refl s)

end Sys2Proof.Proofs
end

section
/-! The acceptance of a position interface's pins: the levels that it takes and the edge that they make (R97, R102, R106, R119). -/

namespace Sys2Proof.Proofs
open Sys2Proof Sys2Proof.Machine Sys2Proof.Laws

/-! ### Conditions of the pins -/

/-- Taking the conditions again changes nothing else of an interface (R119). -/
theorem posConds_keeps (s : State) (p i r : Nat) :
    s.posConds p i r = { s with poss := (s.posConds p i r).poss } ∧
      (s.posConds p i r).pos p i = { s.pos p i with cond := ((s.posConds p i r).pos p i).cond } := by
  refine List.foldlRecOn (motive := fun t : State => t = { s with poss := t.poss } ∧ t.pos p i = { s.pos p i with cond := (t.pos p i).cond })
    (List.range 12) _ ⟨rfl, rfl⟩ fun u hu b _ => ?_
  obtain ⟨hr, hp⟩ := hu
  dsimp only
  split
  · exact ⟨hr, hp⟩
  · refine ⟨?_, by rw [pos_updPos, hp]⟩
    rw [hr]
    rfl

theorem tracked_posConds (s : State) (p i r : Nat) : Tracked [] s (s.posConds p i r) := by
  have h := (posConds_keeps s p i r).1
  generalize s.posConds p i r = t at h
  rw [h]
  exact ⟨rfl, fun _ _ _ _ _ => rfl⟩

/-! ### The levels accepted -/

/-- The pins that the levels `new` change. -/
def changedPins (s : State) (p i new : Nat) : List Nat := (List.range 3).filter fun k => (s.pos p i).pins.getLsbD k != new.testBit k

/-- The latest tag of some pins' runs (log 128). -/
def latestTag (q : Pos) (ks : List Nat) : Tag :=
  match ks.map (SMap.get 0 q.runTag) with
  | [] => 0
  | t :: ts => ts.foldl Tag.later t

/-- A pin that changed is no longer stuck (R119). -/
def stuckCleared (p i : Nat) (s : State) (k : Nat) : State :=
  s.put F.POS_DSTAT.live (s.f F.POS_DSTAT.live p i &&& (4095 - 2 ^ (4 * k + 3))) p i

/-- The interface's pins stand at the levels `new`, without what their edges do. -/
def levelsTaken (s : State) (p i new : Nat) : State :=
  let s1 := s.updPos p i fun q => { q with
    pins := BitVec.ofNat 3 new
    st := (List.range 3).foldl (fun m k => m.set 0 k (if (changedPins s p i new).contains k then 0 else
      SMap.get 0 (s.pos p i).st k + (changedPins s p i new).length)) q.st }
  let s2 := ((changedPins s p i new).foldl (stuckCleared p i) s1).diagBit p i
  (s2.put F.POS_SECT.levels (s2.posLevels p i) p i).posConds p i s.clk.raw

/-- The edge of A and B at their tag, after the latches before it. -/
def abTaken (s0 s : State) (p i new : Nat) : State :=
  if (changedPins s0 p i new).any (· != 2) then
    (s.posSnap p i (latestTag (s0.pos p i) ((changedPins s0 p i new).filter (· != 2)))).abEdge p i (s0.posLevels p i)
      (latestTag (s0.pos p i) ((changedPins s0 p i new).filter (· != 2)))
  else s

/-- The edge of Z at its tag, after the latches before it. -/
def zTaken (s0 s : State) (p i new l : Nat) : State :=
  if (changedPins s0 p i new).contains 2 then
    (s.posSnap p i (SMap.get 0 (s0.pos p i).runTag 2)).zEdge p i (s0.posLevels p i) l (SMap.get 0 (s0.pos p i).runTag 2)
  else s

/-- What an accepted change does by the interface's mode. -/
theorem posApply_eq (s : State) (p i new : Nat) :
    s.posApply p i new =
      if s.f F.POS_CFG.mode p i = 1 then
        ((levelsTaken s p i new).posSnap p i (latestTag (s.pos p i) (changedPins s p i new))).hallEdge p i
          (latestTag (s.pos p i) (changedPins s p i new))
      else if s.f F.POS_CFG.mode p i = 2 ∨ s.f F.POS_CFG.mode p i = 3 then
        if (changedPins s p i new).any (· != 2) &&
            Tag.after (latestTag (s.pos p i) ((changedPins s p i new).filter (· != 2))) (SMap.get 0 (s.pos p i).runTag 2) then
          abTaken s (zTaken s (levelsTaken s p i new) p i new (s.posLevels p i)) p i new
        else zTaken s (abTaken s (levelsTaken s p i new) p i new) p i new ((levelsTaken s p i new).posLevels p i)
      else levelsTaken s p i new := rfl

/-- Between two states an interface's pin diagnostics have only ended: the sticky bits stand, and no live bit has been set (R119). -/
structure DiagEnded (p i : Nat) (s t : State) : Prop where
  sticky : ∀ b, b < 12 → t.nbit .POS_DSTAT b p i = s.nbit .POS_DSTAT b p i
  live : ∀ b, (t.f F.POS_DSTAT.live p i).testBit b = true → (s.f F.POS_DSTAT.live p i).testBit b = true

namespace DiagEnded

variable {p i : Nat} {s a t : State}

theorem trans (h : DiagEnded p i s a) (g : DiagEnded p i a t) : DiagEnded p i s t :=
  ⟨fun b hb => (g.sticky b hb).trans (h.sticky b hb), fun b hb => h.live b (g.live b hb)⟩

theorem of_within {rs : List RegName} (h : Within rs s t) (hr : RegName.POS_DSTAT ∉ rs := by decide) : DiagEnded p i s t :=
  ⟨fun b _ => nbit_within h _ b p i 0 hr, fun b hb => by rwa [h.f_eq _ p i 0 hr] at hb⟩

end DiagEnded

theorem diagEnded_stuckCleared (s : State) (p i k : Nat) : DiagEnded p i s (stuckCleared p i s k) := by
  refine ⟨fun b hb => ?_, fun b hb => ?_⟩
  · exact (congrArg (·.getLsbD b) (rd_wr_self s F.POS_DSTAT.live.r _ p i 0)).trans (getLsbD_put F.POS_DSTAT.live _ _ (Or.inl hb))
  · rw [stuckCleared, f_put_self _ _ _ _ _ _ (by decide), Nat.testBit_mod_two_pow, Nat.testBit_and] at hb
    simp only [Bool.and_eq_true] at hb
    exact hb.2.1

theorem diagEnded_stucksCleared (s : State) (p i : Nat) (ks : List Nat) : DiagEnded p i s (ks.foldl (stuckCleared p i) s) :=
  List.foldlRecOn (motive := DiagEnded p i s) ks _ (.of_within (.refl s) (rs := [])) fun u hu k _ => hu.trans (diagEnded_stuckCleared u p i k)

theorem tracked_stucksCleared (s : State) (p i : Nat) (ks : List Nat) : Tracked [.POS_DSTAT] s (ks.foldl (stuckCleared p i) s) :=
  List.foldlRecOn (motive := Tracked [.POS_DSTAT] s) ks _ (.refl s) fun _ hu _ _ => hu.put

theorem poss_stucksCleared (s : State) (p i : Nat) (ks : List Nat) : (ks.foldl (stuckCleared p i) s).poss = s.poss :=
  List.foldlRecOn (motive := fun t : State => t.poss = s.poss) ks _ rfl fun _ hu _ _ => hu

/-- What the levels' acceptance leaves: of the registers the pin diagnostics, the status and the levels change, and of the interface its
pins, their counts of other edges and the conditions (R97, R119). -/
structure LevelsTaken (p i new : Nat) (s t : State) : Prop where
  tracked : Tracked [.POS_DSTAT, .POS_STAT, .POS_SECT] s t
  pos : t.pos p i = { s.pos p i with pins := BitVec.ofNat 3 new, st := (t.pos p i).st, cond := (t.pos p i).cond }
  sector : t.f F.POS_SECT.sector p i = s.f F.POS_SECT.sector p i
  diag : DiagEnded p i s t

theorem levelsTaken_takes (s : State) (p i new : Nat) : LevelsTaken p i new s (levelsTaken s p i new) := by
  unfold levelsTaken
  extract_lets s1 s2
  have h1 : Tracked [.POS_DSTAT, .POS_STAT, .POS_SECT] s s1 := .updPos (.refl s)
  have hp1 : s1.pos p i = { s.pos p i with pins := BitVec.ofNat 3 new, st := (s1.pos p i).st } := by
    unfold s1
    rw [pos_updPos]
  have hc := tracked_stucksCleared s1 p i (changedPins s p i new)
  have h2 : Tracked [.POS_DSTAT, .POS_STAT, .POS_SECT] s1 s2 := .put hc.mono
  have hd : DiagEnded p i s1 s2 := (diagEnded_stucksCleared s1 p i _).trans (.of_within (.put (rs := [.POS_STAT]) (.refl _)))
  have hp2 : s2.pos p i = s1.pos p i := pos_of_poss (poss_stucksCleared s1 p i (changedPins s p i new)) p i
  have hs2 : s2.f F.POS_SECT.sector p i = s.f F.POS_SECT.sector p i :=
    (Within.put (rs := [.POS_DSTAT, .POS_STAT]) hc.within.mono).f_eq F.POS_SECT.sector p i 0
  have h4 := tracked_posConds (s2.put F.POS_SECT.levels (s2.posLevels p i) p i) p i s.clk.raw
  have hp4 := (posConds_keeps (s2.put F.POS_SECT.levels (s2.posLevels p i) p i) p i s.clk.raw).2
  refine ⟨((h1.trans h2).put).trans h4.mono, ?_, ?_, ?_⟩
  · refine hp4.trans ?_
    rw [show (s2.put F.POS_SECT.levels (s2.posLevels p i) p i).pos p i = s1.pos p i from hp2, hp4]
    rw [show (s2.put F.POS_SECT.levels (s2.posLevels p i) p i).pos p i = s1.pos p i from hp2, hp1]
  · exact (h4.within.f_eq F.POS_SECT.sector p i 0).trans ((f_put_apart s2 (by decide) _ p i 0 p i 0).trans hs2)
  · exact ((DiagEnded.of_within (Within.updPos (.refl s)) (rs := [])).trans hd).trans
      ((DiagEnded.of_within (.put (rs := [.POS_SECT]) (.refl s2))).trans (.of_within h4.within))

/-! ### The edge of an acceptance -/

theorem edged_posSnap (s : State) (p i : Nat) (g : Tag) : Edged edgeRegs p i s (s.posSnap p i g) := .of_snapped (snapped_posSnap s p i g)

theorem edged_abTaken (s0 s : State) (p i new : Nat) : Edged edgeRegs p i s (abTaken s0 s p i new) :=
  .ite ((edged_posSnap s p i _).trans (edged_abEdge _ p i _ _)) (.refl s)

theorem edged_zTaken (s0 s : State) (p i new l : Nat) : Edged edgeRegs p i s (zTaken s0 s p i new l) :=
  .ite ((edged_posSnap s p i _).trans (edged_zEdge _ p i _ l _)) (.refl s)

theorem edged_posApply (s : State) (p i new : Nat) : Edged edgeRegs p i (levelsTaken s p i new) (s.posApply p i new) := by
  rw [posApply_eq]
  exact .ite ((edged_posSnap _ p i _).trans (edged_hallEdge _ p i _))
    (.ite (.ite ((edged_zTaken s _ p i new _).trans (edged_abTaken s _ p i new)) ((edged_abTaken s _ p i new).trans (edged_zTaken s _ p i new _)))
      (.refl _))

/-! ### Pins ripe for acceptance -/

theorem posPends_same {s : State} {p i k : Nat} (h : SMap.get false (s.pos p i).lvl k = (s.pos p i).pins.getLsbD k) : s.posPends p i k = false := by
  rw [State.posPends, h, bne_self_eq_false, Bool.false_and]

/-- The levels of three pins, put together. -/
theorem levels_sum {f : Nat → Bool} {b : BitVec 3} (h : ∀ k, k < 3 → f k = b.getLsbD k) :
    (List.range 3).foldl (fun m k => if f k then m + 2 ^ k else m) 0 = b.toNat := by
  have all : ∀ c : BitVec 3, (List.range 3).foldl (fun m k => if c.getLsbD k then m + 2 ^ k else m) 0 = c.toNat := by decide
  rw [← all b]
  simp only [show List.range 3 = [0, 1, 2] from rfl, List.foldl_cons, List.foldl_nil, h 0 (by decide), h 1 (by decide), h 2 (by decide)]

/-- Where every pin's level is accepted already, nothing is. -/
theorem posAccept_same {s : State} {p i : Nat} (h : ∀ k, k < 3 → SMap.get false (s.pos p i).lvl k = (s.pos p i).pins.getLsbD k) :
    s.posAccept p i = s := by
  unfold State.posAccept
  dsimp only
  rw [levels_sum (b := (s.pos p i).pins) fun k hk => by rw [posPends_same (h k hk), Bool.false_and]; cases (s.pos p i).pins.getLsbD k <;> rfl]
  exact if_pos rfl

/-- Pins that have held new levels long enough take them. -/
theorem posAccept_ripe {s : State} {p i : Nat} {lv : BitVec 3} (hl : ∀ k, k < 3 → SMap.get false (s.pos p i).lvl k = lv.getLsbD k)
    (hf : ∀ k, k < 3 → s.pinFrozen p i k = false) (hr : ∀ k, k < 3 → s.posPends p i k = true → s.posRipe p i k ≤ s.clk.raw)
    (hn : lv ≠ (s.pos p i).pins) : s.posAccept p i = s.posApply p i lv.toNat := by
  have hk (k : Nat) (hk : k < 3) :
      ((s.pos p i).pins.getLsbD k != (s.posPends p i k && decide (s.posRipe p i k ≤ s.clk.raw))) = lv.getLsbD k := by
    have hp : s.posPends p i k = (lv.getLsbD k != (s.pos p i).pins.getLsbD k) := by rw [State.posPends, hl k hk, hf k hk, Bool.not_false, Bool.and_true]
    have hd : (s.posPends p i k && decide (s.posRipe p i k ≤ s.clk.raw)) = s.posPends p i k := by
      cases h : s.posPends p i k with
      | false => rfl
      | true => rw [Bool.true_and, decide_eq_true (hr k hk h)]
    rw [hd, hp]
    cases lv.getLsbD k <;> cases (s.pos p i).pins.getLsbD k <;> rfl
  unfold State.posAccept
  dsimp only
  rw [levels_sum hk]
  exact if_neg fun h => hn (BitVec.eq_of_toNat_eq h)

/-- An acceptance ends pin diagnostics at most, and leaves the memory (R119). -/
theorem posAccept_keeps (s : State) (p i : Nat) : DiagEnded p i s (s.posAccept p i) ∧ (s.posAccept p i).mem = s.mem := by
  unfold State.posAccept
  extract_lets new
  split
  · exact ⟨.of_within (.refl s) (rs := []), rfl⟩
  · have ht := levelsTaken_takes s p i new
    have he := (edged_posApply s p i new).within
    exact ⟨ht.diag.trans (.of_within he), he.mem.trans ht.tracked.within.mem⟩

end Sys2Proof.Proofs
end

section
/-! The timed events of a position interface: STANDSTILL_TIMEOUT, POSITION_LATCH, PIN_DIAGNOSTIC and its clearing, and the encoder
emulator's (R113, R115, R119, R122 to R124). -/

namespace Sys2Proof.Proofs
open Sys2Proof Sys2Proof.Machine Sys2Proof.Laws

/-! ### Standstill -/

/-- Standstill begins at its instant: the history and the last edge are gone, and the speed reads zero (R113). -/
structure StoodStill (p i : Nat) (u t : State) : Prop where
  tracked : Tracked [.POS_STAT, .POS_SPD] u t
  still : t.bit F.POS_STAT.still p i = true
  hist : (t.pos p i).hist = []
  last : (t.pos p i).last = none
  spd : t.rd .POS_SPD p i = 0

theorem stoodStill_setStill (s : State) (p i : Nat) : StoodStill p i s ((s.histClear p i).setStill p i) := by
  have h := (tracked_setStill (s.histClear p i) p i).within
  refine ⟨(tracked_histClear s p i).mono.trans (tracked_setStill _ p i).mono, bit_setb_self (s.histClear p i) F.POS_STAT.still p i 0 (by decide),
    by rw [pos_setStill, pos_histClear], by rw [pos_setStill], (h.regs .POS_SPD p i 0 (by decide)).trans ?_⟩
  exact rd_wr_self s .POS_SPD 0 p i 0

theorem StoodStill.of_before {p i : Nat} {s a t : State} (h : StoodStill p i a t) (k : Tracked [] s a) : StoodStill p i s t :=
  ⟨(k.mono).trans h.tracked, h.still, h.hist, h.last, h.spd⟩

theorem standstill_some {s : State} {p i : Nat} {g : Tag} (h : (s.pos p i).last = some g) :
    StoodStill p i (s.run (s.rawOf (g + BitVec.ofNat 64 (s.f F.POS_SPDCFG.ss_to p i * 1600000)) + s.f F.POS_CFG.flt p i + 4 - s.clk.raw))
      (s.standstill p i) := by
  unfold State.standstill
  rw [h]
  exact (stoodStill_setStill _ p i).of_before (snapped_posSnap _ p i _).tracked

theorem standstill_none {s : State} {p i : Nat} (h : (s.pos p i).last = none) : s.standstill p i = s := by
  unfold State.standstill
  rw [h]

/-! ### The encoder emulator -/

theorem within_updEmu {rs : List RegName} {s a : State} (h : Within rs s a) {p : Nat} {f : Emu → Emu} : Within rs s (a.updEmu p f) := h.hidden

theorem emu_updEmu (s : State) (p : Nat) (f : Emu → Emu) : (s.updEmu p f).emu p = f (s.emu p) := by
  simp [State.emu, State.updEmu]

/-- A source angle for the emulator changes its steps and its backlog alone (R123, R124). -/
theorem emuUpdate_keeps (s : State) (p angle per : Nat) :
    Within [.POS_EMU_STAT] s (s.emuUpdate p angle per) ∧ (s.emuUpdate p angle per).poss = s.poss ∧ (s.emuUpdate p angle per).axs = s.axs := by
  unfold State.emuUpdate
  extract_lets n new k d d' lost left s1 s2 gap
  have h1 : Within [.POS_EMU_STAT] s s1 := .put (.setIf (.refl s))
  have hr1 : s1.poss = s.poss ∧ s1.axs = s.axs := by
    unfold s1 State.setIf
    split <;> exact ⟨rfl, rfl⟩
  have h2 : Within [.POS_EMU_STAT] s s2 ∧ s2.poss = s1.poss ∧ s2.axs = s1.axs := by
    unfold s2
    split
    · refine ⟨.inc (.put h1), ?_⟩
      unfold State.inc
      split <;> exact ⟨rfl, rfl⟩
    · exact ⟨h1, rfl, rfl⟩
  exact ⟨h2.1.hidden, h2.2.1.trans hr1.1, h2.2.2.trans hr1.2⟩

/-! ### The delivery of a latch -/

/-- A value that reaches one input slot of an axis leaves the others (R130). -/
theorem slotIn_other (s : State) (p a i : Nat) {x : Nat} (hx : x ≠ i) (v : Word) (fl : Nat) (g : Tag) :
    slotAt (s.slotIn p a i v fl g) p a x = slotAt s p a x := by
  unfold State.slotIn
  split
  · rfl
  · extract_lets k y fresh s1
    have h1 : slotAt s1 p a x = slotAt s p a x := by
      unfold slotAt s1
      rw [ax_updAx]
      dsimp only
      rw [SMap_get_set, if_neg hx]
    split
    · rw [← h1, slotAt, slotAt, (makeRunReady_keeps s1 p a).2]
    · exact h1

/-- Two neighbouring slots filled in turn leave all but the engine's view of axes, and the first holds its value (R116). -/
theorem slotsIn_first (s : State) (p a x : Nat) (v w : Word) (fl : Nat) (g : Tag) :
    (s.slotIn p a x v fl g).slotIn p a (x + 1) w fl g = { s with axs := ((s.slotIn p a x v fl g).slotIn p a (x + 1) w fl g).axs } ∧
      (a < 6 → x < 15 → (slotAt ((s.slotIn p a x v fl g).slotIn p a (x + 1) w fl g) p a x).tag = g ∧
        (slotAt ((s.slotIn p a x v fl g).slotIn p a (x + 1) w fl g) p a x).v = v) := by
  refine ⟨?_, fun ha hx => ?_⟩
  · have h1 := slotIn_rest s p a x v fl g
    have h2 := slotIn_rest (s.slotIn p a x v fl g) p a (x + 1) w fl g
    generalize (s.slotIn p a x v fl g).slotIn p a (x + 1) w fl g = t at h2
    generalize s.slotIn p a x v fl g = u at h1 h2
    rw [h2, h1]
  · rw [slotIn_other _ p a (x + 1) (by omega)]
    obtain ⟨hv, -, ht⟩ := slotIn_slot s p ha (Nat.lt_succ_of_lt hx) v fl g
    exact ⟨ht, hv⟩

/-- A latch taken at `l` has been delivered: its speed, its fraction in the axis's input slot, and nothing of the interface (R115, R116). -/
structure LatchGiven (p i : Nat) (l : Tag) (cnt : Word) (s t : State) : Prop where
  within : Within [.POS_SPD, .POS_SECT, .POS_EMU_STAT] s t
  poss : t.poss = s.poss
  spd : (s.pos p i).hist.length < 2 → t.rd .POS_SPD p i = 0
  slot : s.f F.POS_CFG.axis p i < 6 → s.f F.POS_CFG.le_in p i < 15 →
    (slotAt t p (s.f F.POS_CFG.axis p i) (s.f F.POS_CFG.le_in p i)).tag = l ∧
      (slotAt t p (s.f F.POS_CFG.axis p i) (s.f F.POS_CFG.le_in p i)).v = s.posFraction p i cnt

/-- What follows changes neither the speed nor the slots. -/
theorem LatchGiven.next {p i : Nat} {l : Tag} {cnt : Word} {s a t : State} (h : LatchGiven p i l cnt s a) (k : Within [.POS_EMU_STAT] a t)
    (hp : t.poss = a.poss) (hx : t.axs = a.axs) : LatchGiven p i l cnt s t := by
  have hax (q b : Nat) : t.ax q b = a.ax q b := by rw [State.ax, State.ax, hx]
  refine ⟨h.within.trans k.mono, hp.trans h.poss, fun hl => (k.regs .POS_SPD p i 0 (by decide)).trans (h.spd hl), fun hb hl => ?_⟩
  rw [slotAt, hax]
  exact h.slot hb hl

theorem latchOut_gives (s : State) (p i : Nat) (l : Tag) (v : Word × Word × Nat × Nat) : LatchGiven p i l v.1 s (s.latchOut p i l v) := by
  obtain ⟨cnt, spd, flags, edges⟩ := v
  unfold State.latchOut
  dsimp -zeta only
  extract_lets s1 a x fr rps s2
  have h1 : Within [.POS_SPD, .POS_SECT] s s1 := .put (.wr (.refl s))
  have ha : a = s.f F.POS_CFG.axis p i := h1.f_eq _ p i 0
  have hx : x = s.f F.POS_CFG.le_in p i := h1.f_eq _ p i 0
  have hfr : fr = s.posFraction p i cnt := by
    unfold fr State.posFraction
    rw [h1.regs .POS_PITCH p i 0 (by decide), h1.regs .POS_REF p i 0 (by decide)]
  have hspd : (s.pos p i).hist.length < 2 → s1.rd .POS_SPD p i = 0 := fun h => by
    unfold s1
    rw [rd_put_name _ (by decide), rd_wr_self, if_pos h]
  obtain ⟨hrest, hslot⟩ := slotsIn_first s1 p a x fr rps flags l
  have hs2 : s2 = { s1 with axs := s2.axs } := hrest
  have hregs : s2.regs = s1.regs := by rw [hs2]
  have h2 : LatchGiven p i l cnt s s2 := by
    refine ⟨h1.mono.hidden hregs (by rw [hs2]) (by rw [hs2]), by rw [hs2]; rfl, fun h => ?_, fun hb hl => ?_⟩
    · rw [State.rd, hregs]
      exact hspd h
    · rw [← hfr, ← ha, ← hx]
      exact hslot (ha ▸ hb) (hx ▸ hl)
  split
  · obtain ⟨hw, hp, hax⟩ := emuUpdate_keeps s2 p (angle32 fr) (s2.srcTime p (s2.latchSrc p i)).2
    exact h2.next hw hp hax
  · exact h2

theorem posLatch_nil {s : State} {p i : Nat} (h : (s.pos p i).lq = []) : s.posLatch p i = s := by
  unfold State.posLatch
  rw [h]

theorem before_succ (g : Tag) : Tag.before g (g + 1) = true := by
  rw [before_iff, sub_add_cancel_left]
  decide

/-- The queue goes on with its other latches. -/
theorem snapped_dequeue (s : State) (p i : Nat) (qs : List PLatch) : Snapped p i s (s.updPos p i fun k => { k with lq := qs }) :=
  ⟨.updPos (.refl s), by rw [pos_updPos]⟩

/-- The first latch of the queue is delivered, with what it had taken before or takes now (R115, R116). -/
theorem posLatch_first {s : State} {p i : Nat} {q : PLatch} {qs : List PLatch} (h : (s.pos p i).lq = q :: qs) :
    ∃ a, Snapped p i (s.run (q.raw + s.f F.POS_CFG.flt p i + 4 - s.clk.raw)) a ∧ (a.pos p i).lq.length = qs.length ∧
      (q.val = none → WindowEnded p i a) ∧
      LatchGiven p i q.tag ((q.val.map (·.1)).getD (s.rd .POS_CNT p i)) a (s.posLatch p i) := by
  have hu : ((s.run (q.raw + s.f F.POS_CFG.flt p i + 4 - s.clk.raw)).pos p i).lq = q :: qs := by rw [pos_run, h]
  have hcnt := rd_run s (q.raw + s.f F.POS_CFG.flt p i + 4 - s.clk.raw) .POS_CNT p i 0 (by decide)
  unfold State.posLatch
  rw [h]
  dsimp only [State.atRaw]
  rw [← hcnt]
  generalize s.run (q.raw + s.f F.POS_CFG.flt p i + 4 - s.clk.raw) = u at hu
  obtain ⟨v, os, hlq, hlen, hv, hend⟩ := posSnap_first hu (before_succ q.tag)
  have hs := snapped_posSnap u p i (q.tag + 1)
  rw [← hv]
  generalize u.posSnap p i (q.tag + 1) = w at hlq hend hs
  rw [hlq]
  refine ⟨_, hs.trans (snapped_dequeue w p i os), by rw [pos_updPos]; exact hlen, fun hn => ?_, latchOut_gives _ p i q.tag v⟩
  obtain ⟨hw, hf⟩ := hend hn
  exact ⟨by rw [pos_updPos]; exact hw, by rw [pos_updPos]; exact hf⟩

/-! ### Pin diagnostics -/

/-- A live bit of the pin diagnostics is a bit of their register. -/
theorem live_testBit (s : State) (p i : Nat) {b : Nat} (h : b < 12) : (s.f F.POS_DSTAT.live p i).testBit b = s.nbit .POS_DSTAT (12 + b) p i := by
  show ((s.rd .POS_DSTAT p i).toNat >>> 12 % 2 ^ 12).testBit b = (s.rd .POS_DSTAT p i).toNat.testBit (12 + b)
  rw [Nat.testBit_mod_two_pow, Nat.testBit_shiftRight, decide_eq_true h, Bool.true_and]

/-- Another bit of a register is left by the write of one. -/
theorem nbit_putNbit_other (s : State) (r : RegName) {n k : Nat} (h : k ≠ n) (b : Bool) (p i : Nat) :
    (s.putNbit r n b p i).nbit r k p i = s.nbit r k p i :=
  (congrArg (·.getLsbD k) (rd_wr_self s r _ p i 0)).trans (getLsbD_put ⟨r, n, 1⟩ _ _ (by dsimp only; omega))

/-- A condition that does not hold, or stands noted, is no diagnostic. -/
theorem pinDiag_away {s : State} {p i k d : Nat} (h : (s.cond p i k d).1 = false ∨ (s.f F.POS_DSTAT.live p i).testBit (4 * k + d) = true) :
    s.pinDiag p i k d = s := if_pos (by rcases h with h | h <;> simp [h])

/-- A condition of a pin has been noted (R119). -/
structure PinNoted (p i b : Nat) (u t : State) : Prop where
  within : Within ([.POS_DSTAT, .POS_STAT] ++ alarmRegs) u t
  sticky : t.nbit .POS_DSTAT b p i = true
  live : (t.f F.POS_DSTAT.live p i).testBit b = true
  diag : t.bit F.POS_STAT.diag p i = true

theorem pinDiag_notes {s : State} {p i k d : Nat} (hc : (s.cond p i k d).1 = true) (hl : (s.f F.POS_DSTAT.live p i).testBit (4 * k + d) = false)
    (hb : 4 * k + d < 12) : PinNoted p i (4 * k + d) (s.run (s.dwellTick p i k d - s.clk.raw)) (s.pinDiag p i k d) := by
  unfold State.pinDiag
  extract_lets b
  rw [if_neg (by rw [hc, hl]; decide)]
  unfold State.atRaw
  generalize s.run (s.dwellTick p i k d - s.clk.raw) = u
  dsimp -zeta only
  extract_lets s0 s1
  have h0 : Within ([.POS_DSTAT, .POS_STAT] ++ alarmRegs) u s0 := (snapped_posSnap u p i _).tracked.within.mono (List.nil_subset _)
  have h2 : Within [.POS_STAT] s1 (s1.diagBit p i) := .put (.refl s1)
  have h3 := (edged_posAlarm (s1.diagBit p i) p i 3 (u.fieldNow p)).within
  have hlive : s1.nbit .POS_DSTAT (12 + b) p i = true := nbit_putNbit_self _ .POS_DSTAT (by omega) true p i 0
  have hset : (s1.f F.POS_DSTAT.live p i).testBit b = true := (live_testBit s1 p i hb).trans hlive
  have hne : (s1.f F.POS_DSTAT.live p i != 0) = true := by
    rw [bne_iff_ne]
    intro hz
    rw [hz, Nat.zero_testBit] at hset
    cases hset
  refine ⟨(((h0.putNbit).putNbit).put).trans h3.mono, ?_, ?_, ?_⟩
  · rw [nbit_within h3 .POS_DSTAT b p i 0, nbit_within h2 .POS_DSTAT b p i 0]
    exact (nbit_putNbit_other _ .POS_DSTAT (by omega) true p i).trans (nbit_putNbit_self s0 .POS_DSTAT (by omega) true p i 0)
  · rw [h3.f_eq F.POS_DSTAT.live p i 0, h2.f_eq F.POS_DSTAT.live p i 0]
    exact hset
  · exact (h3.bit_eq F.POS_STAT.diag p i 0).trans ((bit_putb_self s1 F.POS_STAT.diag _ p i 0 (by decide)).trans hne)

/-- A condition that holds, or is not noted, has no diagnostic to clear; stuck clears at the pin's next edge (R119). -/
theorem pinClear_away {s : State} {p i k d : Nat}
    (h : d = 3 ∨ (s.cond p i k d).1 = true ∨ (s.f F.POS_DSTAT.live p i).testBit (4 * k + d) = false) : s.pinClear p i k d = s :=
  if_pos (by rcases h with h | h | h <;> simp [h])

/-- A pin's condition has ended: its live bit is clear, its sticky bit stands (R119). -/
structure PinCleared (p i b : Nat) (u t : State) : Prop where
  diag : DiagEnded p i u t
  live : (t.f F.POS_DSTAT.live p i).testBit b = false
  mem : t.mem = u.mem
  held : u.bit F.PWM_STATUS.clk_ok p = false ∨ (∀ j, j < 3 → SMap.get false (u.pos p i).lvl j = (u.pos p i).pins.getLsbD j) →
    Within [.POS_DSTAT, .POS_STAT] u t

theorem diagEnded_putNbit (s : State) (p i : Nat) {b : Nat} (hb : b < 12) : DiagEnded p i s (s.putNbit .POS_DSTAT (12 + b) false p i) := by
  refine ⟨fun n hn => nbit_putNbit_other s .POS_DSTAT (by omega) false p i, fun n hn => ?_⟩
  have hlt : n < 12 := by
    by_contra hge
    rw [Nat.testBit_lt_two_pow ((f_lt _ F.POS_DSTAT.live p i 0).trans_le (Nat.pow_le_pow_right (by decide) (Nat.le_of_not_lt hge)))] at hn
    cases hn
  rw [live_testBit _ p i hlt] at hn ⊢
  rcases eq_or_ne n b with rfl | hne
  · rw [nbit_putNbit_self s .POS_DSTAT (by omega)] at hn
    cases hn
  · rwa [nbit_putNbit_other s .POS_DSTAT (by omega)] at hn

/-- The live bit of a condition that ended is clear, its sticky bit stands, and pins that freeze no more are accepted (R119). -/
theorem pinClear_clears {s : State} {p i k d : Nat} (hd : d ≠ 3) (hc : (s.cond p i k d).1 = false)
    (hl : (s.f F.POS_DSTAT.live p i).testBit (4 * k + d) = true) (hb : 4 * k + d < 12) :
    PinCleared p i (4 * k + d) (s.run (s.dwellTick p i k d - s.clk.raw)) (s.pinClear p i k d) := by
  unfold State.pinClear
  rw [if_neg (by simp [hd, hc, hl]), Nat.add_assoc]
  unfold State.atRaw
  generalize s.run (s.dwellTick p i k d - s.clk.raw) = u
  dsimp -zeta only
  extract_lets s1
  have hs := snapped_posSnap u p i (u.fieldNow p)
  have h1 : Within [.POS_DSTAT, .POS_STAT] u s1 := .put (.putNbit (hs.tracked.within.mono (List.nil_subset _)))
  have hw : Within [.POS_STAT] ((u.posSnap p i (u.fieldNow p)).putNbit .POS_DSTAT (12 + (4 * k + d)) false p i) s1 := .put (.refl _)
  have hd1 : DiagEnded p i u s1 := ((DiagEnded.of_within hs.tracked.within).trans (diagEnded_putNbit _ p i hb)).trans (.of_within hw)
  have hl1 : (s1.f F.POS_DSTAT.live p i).testBit (4 * k + d) = false := by
    rw [live_testBit s1 p i hb, nbit_within hw .POS_DSTAT _ p i 0, nbit_putNbit_self _ .POS_DSTAT (by omega)]
  have hpos : s1.pos p i = (u.posSnap p i (u.fieldNow p)).pos p i := pos_of_poss rfl p i
  split
  · next hclk =>
    obtain ⟨hda, hma⟩ := posAccept_keeps s1 p i
    refine ⟨hd1.trans hda, ?_, hma.trans h1.mem, fun hf => ?_⟩
    · cases h : ((s1.posAccept p i).f F.POS_DSTAT.live p i).testBit (4 * k + d) with
      | false => rfl
      | true => exact absurd (hda.live _ h) (ne_true_of_eq_false hl1)
    · rw [h1.bit_eq F.PWM_STATUS.clk_ok p 0 0] at hclk
      have hlv := hf.resolve_left (ne_false_of_eq_true hclk)
      rw [posAccept_same fun j hj => by rw [hpos, hs.pos]; exact hlv j hj]
      exact h1
  · exact ⟨hd1, hl1, h1.mem, fun _ => h1⟩

/-! ### Steps of the emulator's output -/

/-- Between two states only the emulator and its registers have changed. -/
structure EmuMoved (p : Nat) (s t : State) : Prop where
  within : Within [.POS_EMU_POS, .POS_EMU_STAT] s t
  rest : t = { s with regs := t.regs, emus := t.emus }

/-- One step toward the backlog, around the revolution (R122, R123). -/
theorem emuStep_moves {s : State} {p : Nat} (h : s.f F.POS_EMU_POS.state p < 4 * (s.f F.POS_EMU_CFG.lines_m1 p + 1)) :
    EmuMoved p s (s.emuStep p) ∧
      (0 < (s.emu p).todo → (s.emuStep p).f F.POS_EMU_POS.state p = (s.f F.POS_EMU_POS.state p + 1) % (4 * (s.f F.POS_EMU_CFG.lines_m1 p + 1)) ∧
        ((s.emuStep p).emu p).todo = (s.emu p).todo - 1) ∧
      ((s.emu p).todo < 0 →
        (s.emuStep p).f F.POS_EMU_POS.state p =
          (s.f F.POS_EMU_POS.state p + 4 * (s.f F.POS_EMU_CFG.lines_m1 p + 1) - 1) % (4 * (s.f F.POS_EMU_CFG.lines_m1 p + 1)) ∧
        ((s.emuStep p).emu p).todo = (s.emu p).todo + 1) := by
  have hlines : s.f F.POS_EMU_CFG.lines_m1 p < 65536 := f_lt s F.POS_EMU_CFG.lines_m1 p 0 0
  unfold State.emuStep
  extract_lets k n pos new s1
  have hn : new < n → (s1.put F.POS_EMU_STAT.backlog (s.f F.POS_EMU_STAT.backlog p - 1) p).f F.POS_EMU_POS.state p = new := fun hlt =>
    calc (s1.put F.POS_EMU_STAT.backlog (s.f F.POS_EMU_STAT.backlog p - 1) p).f F.POS_EMU_POS.state p = s1.f F.POS_EMU_POS.state p :=
          f_put_apart s1 (by decide) _ p 0 0 p 0 0
      _ = new % 2 ^ 18 := f_put_self s F.POS_EMU_POS.state new p 0 0 (by decide)
      _ = new := Nat.mod_eq_of_lt (hlt.trans_le (by unfold n State.emuStates; omega))
  have he : ((s1.put F.POS_EMU_STAT.backlog (s.f F.POS_EMU_STAT.backlog p - 1) p).emu p).todo = if 0 < k.todo then k.todo - 1 else k.todo + 1 :=
    congrArg Emu.todo (emu_updEmu (s.put F.POS_EMU_POS.state new p) p fun q =>
      { q with todo := if 0 < q.todo then q.todo - 1 else q.todo + 1, next := max s.clk.raw q.next + q.gap })
  have hpos : pos < n := h
  refine ⟨⟨.put (within_updEmu (.put (.refl s))), rfl⟩, fun ht => ?_, fun ht => ?_⟩
  · have hnew : new = (pos + 1) % n := by
      unfold new
      rw [if_pos ht]
      split
      · rw [show pos + 1 = n by omega, Nat.mod_self]
      · rw [Nat.mod_eq_of_lt (by omega)]
    exact ⟨(hn (hnew ▸ Nat.mod_lt _ (by omega))).trans hnew, he.trans (if_pos ht)⟩
  · have hneg : ¬ 0 < k.todo := Int.not_lt.mpr (Int.le_of_lt ht)
    have hnew : new = (pos + n - 1) % n := by
      unfold new
      rw [if_neg hneg]
      split
      · next h0 => rw [h0, Nat.zero_add, Nat.mod_eq_of_lt (by omega)]
      · rw [show pos + n - 1 = pos - 1 + n by omega, Nat.add_mod_right, Nat.mod_eq_of_lt (by omega)]
    exact ⟨(hn (hnew ▸ Nat.mod_lt _ (by omega))).trans hnew, he.trans (if_neg hneg)⟩

theorem emuEdge_steps {s : State} {p : Nat} (h : (s.emu p).todo ≠ 0) :
    s.emuEdge p = (s.run ((s.emu p).next - s.clk.raw)).emuStep p := if_neg h

/-- RESYNC moves the output to the source and drops the backlog (R124). -/
theorem emuResync_moves (s : State) (p : Nat) :
    EmuMoved p s (s.emuResync p) ∧ (s.emuResync p).f F.POS_EMU_POS.state p = (s.emu p).src % 2 ^ F.POS_EMU_POS.state.w ∧
      ((s.emuResync p).emu p).todo = 0 ∧ (s.emuResync p).f F.POS_EMU_STAT.backlog p = 0 := by
  refine ⟨⟨within_updEmu (.put (.put (.refl s))), rfl⟩, ?_, by rw [State.emuResync, emu_updEmu], ?_⟩
  · exact (f_put_apart (s.put F.POS_EMU_POS.state (s.emu p).src p) (f := F.POS_EMU_STAT.backlog) (by decide) 0 p 0 0 p 0 0).trans
      (f_put_self s F.POS_EMU_POS.state _ p 0 0 (by decide))
  · exact f_put_self (s.put F.POS_EMU_POS.state (s.emu p).src p) F.POS_EMU_STAT.backlog 0 p 0 0 (by decide)

end Sys2Proof.Proofs
end

section
/-! Sensor supplies: PWR_SENS_CTL, and an output that turns on, limits, trips and retries (R121). -/

namespace Sys2Proof.Proofs
open Sys2Proof Sys2Proof.Machine Sys2Proof.Laws

/-! ### Footprints -/

/-- Between two states only the listed registers and the power state have changed. -/
structure Supplied (rs : List RegName) (s t : State) : Prop where
  regs : KeepsRegs s t rs
  rest : t = { s with regs := t.regs, pwr := t.pwr }

namespace Supplied

variable {rs : List RegName} {s a t : State}

theorem refl (s : State) : Supplied rs s s := ⟨fun _ _ _ _ _ => rfl, rfl⟩

theorem trans (h : Supplied rs s a) (g : Supplied rs a t) : Supplied rs s t :=
  ⟨fun r p i j hr => (g.regs r p i j hr).trans (h.regs r p i j hr), by rw [g.rest, h.rest]⟩

theorem mono {rs' : List RegName} (h : Supplied rs s t) (hs : rs ⊆ rs' := by decide) : Supplied rs' s t :=
  ⟨fun r p i j hr => h.regs r p i j fun hm => hr (hs hm), h.rest⟩

theorem wr (h : Supplied rs s a) {r : RegName} {v : Word} {p i j : Nat} (hr : r ∈ rs := by decide) : Supplied rs s (a.wr r v p i j) :=
  h.trans ⟨(Within.wr (.refl a) hr).regs, rfl⟩

theorem put (h : Supplied rs s a) {f : Fld} {n p i j : Nat} (hr : f.r ∈ rs := by decide) : Supplied rs s (a.put f n p i j) := h.wr hr

theorem inc (h : Supplied rs s a) {f : Fld} {p i j : Nat} (hr : f.r ∈ rs := by decide) : Supplied rs s (a.inc f p i j) := by
  unfold State.inc
  split <;> exact h.put hr

theorem setSens (h : Supplied rs s a) {n : Nat} {k : Nat × Nat} : Supplied rs s (a.setSens n k) := h.trans ⟨fun _ _ _ _ _ => rfl, rfl⟩

/-- The error flag and the data of the last access apart. -/
theorem answered (h : Supplied rs s t) (y : Resp) :
    KeepsRegs s { t with resp := y } rs ∧ ({ t with resp := y } : State) = { s with regs := t.regs, pwr := t.pwr, resp := y } :=
  ⟨h.regs, by rw [h.rest]⟩

end Supplied

theorem sens_setSens (s : State) (n : Nat) (k : Nat × Nat) : (s.setSens n k).sens n = k := by
  simp [State.sens, State.setSens]

/-! ### An output turns off and on -/

/-- An output is off, and limits no current. -/
structure SupplyOff (n : Nat) (t : State) : Prop where
  on : t.bit F.PWR_SENS_STAT.on 0 n = false
  ilim : t.bit F.PWR_SENS_STAT.ilim 0 n = false

theorem supplied_sensOff (s : State) (n : Nat) : Supplied [.PWR_SENS_STAT] s (s.sensOff n) := .setSens (.put (.put (.refl s)))

theorem sensOff_off (s : State) (n : Nat) : SupplyOff n (s.sensOff n) :=
  ⟨(bit_clrb_apart (s.clrb F.PWR_SENS_STAT.on 0 n) (f := F.PWR_SENS_STAT.ilim) (by decide) 0 n 0 0 n 0).trans
      (bit_clrb_self s F.PWR_SENS_STAT.on 0 n 0 (by decide)),
    bit_clrb_self (s.clrb F.PWR_SENS_STAT.on 0 n) F.PWR_SENS_STAT.ilim 0 n 0 (by decide)⟩

theorem sensOn_on {s : State} (h : s.sensPower = true) (n : Nat) :
    (s.sensOn n).bit F.PWR_SENS_STAT.on 0 n = true ∧ Supplied [.PWR_SENS_STAT] s (s.sensOn n) := by
  rw [State.sensOn, if_pos h]
  exact ⟨bit_setb_self (s.sensOff n) F.PWR_SENS_STAT.on 0 n 0 (by decide), (supplied_sensOff s n).put⟩

theorem sensOn_unsupplied {s : State} (h : s.sensPower = false) (n : Nat) : s.sensOn n = s := if_neg (ne_true_of_eq_false h)

/-- An output turns on where the outputs have their supply, and else stays as it is. -/
theorem sensOn_keeps (s : State) (n : Nat) :
    (s.sensOn n).bit F.PWR_SENS_STAT.on 0 n = (s.sensPower || s.bit F.PWR_SENS_STAT.on 0 n) ∧ Supplied [.PWR_SENS_STAT] s (s.sensOn n) := by
  cases h : s.sensPower with
  | true =>
    rw [Bool.true_or]
    exact sensOn_on h n
  | false =>
    rw [sensOn_unsupplied h, Bool.false_or]
    exact ⟨rfl, .refl s⟩

/-! ### The enable -/

/-- The word of an enable: en, and auto_retry beside it. -/
abbrev enableWord (r : Bool) : Word := BitVec.ofNat 32 (1 + 2 * r.toNat)

/-- An enable with its retry bit has been written. -/
structure SupplyEnabled (n : Nat) (r : Bool) (s t : State) : Prop where
  en : t.bit F.PWR_SENS_CTL.en 0 n = true
  retry : t.bit F.PWR_SENS_CTL.auto_retry 0 n = r
  supplied : Supplied [.PWR_SENS_CTL, .PWR_SENS_STAT] s t

theorem supplyEnabled_wr (s : State) (n : Nat) (r : Bool) :
    SupplyEnabled n r s (s.wr .PWR_SENS_CTL (RegName.PWR_SENS_CTL.row.write 0 (enableWord r)) 0 n) := by
  have hv : F.PWR_SENS_CTL.en.get (RegName.PWR_SENS_CTL.row.write 0 (enableWord r)) = 1 ∧
      F.PWR_SENS_CTL.auto_retry.get (RegName.PWR_SENS_CTL.row.write 0 (enableWord r)) = r.toNat := by
    cases r <;> decide
  have hw := rd_wr_self s .PWR_SENS_CTL (RegName.PWR_SENS_CTL.row.write 0 (enableWord r)) 0 n 0
  refine ⟨?_, ?_, .wr (.refl s)⟩
  · exact congrArg (· != 0) ((congrArg F.PWR_SENS_CTL.en.get hw).trans hv.1)
  · refine (congrArg (· != 0) ((congrArg F.PWR_SENS_CTL.auto_retry.get hw).trans hv.2)).trans ?_
    cases r <;> rfl

theorem SupplyEnabled.next {n : Nat} {r : Bool} {s a t : State} (h : SupplyEnabled n r s a) (g : Supplied [.PWR_SENS_STAT] a t) :
    SupplyEnabled n r s t :=
  ⟨(congrArg (F.PWR_SENS_CTL.en.get · != 0) (g.regs .PWR_SENS_CTL 0 n 0 (by decide))).trans h.en,
    (congrArg (F.PWR_SENS_CTL.auto_retry.get · != 0) (g.regs .PWR_SENS_CTL 0 n 0 (by decide))).trans h.retry, h.supplied.trans g.mono⟩

/-- An enable turns on an output that was not enabled, and leaves one that was (R121). -/
theorem sensCtl_enables (s : State) (n : Nat) (r : Bool) :
    SupplyEnabled n r s (s.sensCtl n (enableWord r)) ∧
      (s.bit F.PWR_SENS_CTL.en 0 n = false →
        (s.sensCtl n (enableWord r)).bit F.PWR_SENS_STAT.on 0 n = (s.sensPower || s.bit F.PWR_SENS_STAT.on 0 n)) ∧
      (s.bit F.PWR_SENS_CTL.en 0 n = true → (s.sensCtl n (enableWord r)).bit F.PWR_SENS_STAT.on 0 n = s.bit F.PWR_SENS_STAT.on 0 n) := by
  unfold State.sensCtl
  extract_lets was s1
  rw [if_pos (show (enableWord r).getLsbD 0 = true by cases r <;> decide)]
  have h1 : SupplyEnabled n r s s1 := supplyEnabled_wr s n r
  have hon : s1.bit F.PWR_SENS_STAT.on 0 n = s.bit F.PWR_SENS_STAT.on 0 n :=
    congrArg (F.PWR_SENS_STAT.on.get · != 0) (rd_wr_name s (by decide) _ 0 n 0 0 n 0)
  obtain ⟨hb, hs⟩ := sensOn_keeps s1 n
  split
  · next hw => exact ⟨h1, fun h => absurd hw (ne_true_of_eq_false h), fun _ => hon⟩
  · next hw => exact ⟨h1.next hs, fun _ => hb.trans (by rw [hon]; rfl), fun h => absurd h hw⟩

/-! ### Limiting, trip and retry -/

/-- An output that has limited for 1 ms turns off as short, and is counted (R121). -/
structure SupplyTripped (n : Nat) (u t : State) : Prop where
  off : SupplyOff n t
  short : t.bit F.PWR_SENS_STAT.short 0 n = true
  cnt : t.f F.PWR_SENS_STAT.short_cnt 0 n = min (u.f F.PWR_SENS_STAT.short_cnt 0 n + 1) 0xFFFF
  since : t.sens n = (2, u.clk.raw)
  supplied : Supplied [.PWR_SENS_STAT] u t

theorem sensTrip_trips (s : State) (n : Nat) : SupplyTripped n s (s.sensTrip n) := by
  have hoff := sensOff_off s n
  have hcnt : ((s.sensOff n).setb F.PWR_SENS_STAT.short 0 n).f F.PWR_SENS_STAT.short_cnt 0 n = s.f F.PWR_SENS_STAT.short_cnt 0 n :=
    calc _ = (s.sensOff n).f F.PWR_SENS_STAT.short_cnt 0 n := f_setb_apart _ (by decide) 0 n 0 0 n 0
      _ = (s.clrb F.PWR_SENS_STAT.on 0 n).f F.PWR_SENS_STAT.short_cnt 0 n :=
        f_clrb_apart (s.clrb F.PWR_SENS_STAT.on 0 n) (f := F.PWR_SENS_STAT.ilim) (by decide) 0 n 0 0 n 0
      _ = s.f F.PWR_SENS_STAT.short_cnt 0 n := f_clrb_apart s (by decide) 0 n 0 0 n 0
  have bit (g : Fld) (hs : fldsApart F.PWR_SENS_STAT.short g) (hc : fldsApart F.PWR_SENS_STAT.short_cnt g) :
      (s.sensTrip n).bit g 0 n = (s.sensOff n).bit g 0 n :=
    (bit_inc_apart ((s.sensOff n).setb F.PWR_SENS_STAT.short 0 n) hc 0 n 0 0 n 0).trans (bit_setb_apart (s.sensOff n) hs 0 n 0 0 n 0)
  refine ⟨⟨(bit _ (by decide) (by decide)).trans hoff.on, (bit _ (by decide) (by decide)).trans hoff.ilim⟩, ?_, ?_, sens_setSens _ n _,
    .setSens (.inc (.put (supplied_sensOff s n)))⟩
  · exact (bit_inc_apart ((s.sensOff n).setb F.PWR_SENS_STAT.short 0 n) (f := F.PWR_SENS_STAT.short_cnt) (by decide) 0 n 0 0 n 0).trans
      (bit_setb_self (s.sensOff n) F.PWR_SENS_STAT.short 0 n 0 (by decide))
  · exact (f_inc_self ((s.sensOff n).setb F.PWR_SENS_STAT.short 0 n) F.PWR_SENS_STAT.short_cnt 0 n 0 (by decide)).trans
      (congrArg (fun c => min (c + 1) 0xFFFF) hcnt)

section
variable {s : State} {n : Nat}

theorem sensShort_off (h : s.bit F.PWR_SENS_STAT.on 0 n = false) (l : Bool) : s.sensShort n l = s := if_pos (by rw [h]; rfl)

variable (h : s.bit F.PWR_SENS_STAT.on 0 n = true)
include h

/-- The load has gone: the output limits no more. -/
theorem sensShort_gone :
    (s.sensShort n false).bit F.PWR_SENS_STAT.on 0 n = true ∧ (s.sensShort n false).bit F.PWR_SENS_STAT.ilim 0 n = false ∧
      (s.sensShort n false).sens n = (0, 0) ∧ Supplied [.PWR_SENS_STAT] s (s.sensShort n false) := by
  have ht : s.sensShort n false = (s.clrb F.PWR_SENS_STAT.ilim 0 n).setSens n (0, 0) := if_neg (by rw [h]; decide)
  rw [ht]
  exact ⟨(bit_clrb_apart s (f := F.PWR_SENS_STAT.ilim) (by decide) 0 n 0 0 n 0).trans h,
    bit_clrb_self s F.PWR_SENS_STAT.ilim 0 n 0 (by decide), sens_setSens _ n _, .setSens (.put (.refl s))⟩

/-- A load beyond the limit begins to be limited. -/
theorem sensShort_limits (hk : (s.sens n).1 ≠ 1) :
    (s.sensShort n true).bit F.PWR_SENS_STAT.on 0 n = true ∧ (s.sensShort n true).bit F.PWR_SENS_STAT.ilim 0 n = true ∧
      (s.sensShort n true).sens n = (1, s.clk.raw) ∧ Supplied [.PWR_SENS_STAT] s (s.sensShort n true) := by
  have ht : s.sensShort n true = (s.setb F.PWR_SENS_STAT.ilim 0 n).setSens n (1, s.clk.raw) := by
    rw [State.sensShort, if_neg (by rw [h]; decide), if_neg (by decide), if_neg hk]
  rw [ht]
  exact ⟨(bit_setb_apart s (f := F.PWR_SENS_STAT.ilim) (by decide) 0 n 0 0 n 0).trans h,
    bit_setb_self s F.PWR_SENS_STAT.ilim 0 n 0 (by decide), sens_setSens _ n _, .setSens (.put (.refl s))⟩

/-- A load still limited trips 1 ms after its start. -/
theorem sensShort_trips (hk : (s.sens n).1 = 1) :
    SupplyTripped n (s.run ((s.sens n).2 + 1000000 - s.clk.raw)) (s.sensShort n true) := by
  rw [State.sensShort, if_neg (by rw [h]; decide), if_neg (by decide), if_pos hk]
  exact sensTrip_trips _ n

end

/-- An output retries where it is enabled with retry and has been off by a short. -/
abbrev retries (s : State) (n : Nat) : Bool := s.bit F.PWR_SENS_CTL.en 0 n && s.bit F.PWR_SENS_CTL.auto_retry 0 n && (s.sens n).1 == 2

theorem sensRetry_again {s : State} {n : Nat} (h : retries s n = true) :
    s.sensRetry n = (s.run ((s.sens n).2 + 100000000 - s.clk.raw)).sensOn n := by
  rw [State.sensRetry, if_pos h, State.atRaw]

theorem sensRetry_not {s : State} {n : Nat} (h : retries s n = false) : s.sensRetry n = s := if_neg (ne_true_of_eq_false h)

end Sys2Proof.Proofs
end

section
/-! MODE_CHANGE, INV_CHANGE and POS_SNAPSHOT_READ, and all commands of position feedback but its edges together (R96, R97, R105). -/

namespace Sys2Proof.Proofs
open Sys2Proof Sys2Proof.Machine Sys2Proof.Laws

/-! ### A write of POS_CFG -/

/-- The word of POS_CFG is written, its input slot clamped, before what a change of mode or inv does (R96). -/
def cfgWritten (s : State) (p i : Nat) (v : Word) : State :=
  ((s.wr .POS_CFG (RegName.POS_CFG.row.write 0 v) p i).put F.POS_CFG.le_in (min (F.POS_CFG.le_in.get v) 14) p i).setIf
    (F.POS_CFG.le_in.get v == 15) F.POS_STAT.cfg_clamp p i

theorem cfgWritten_rest (s : State) (p i : Nat) (v : Word) : cfgWritten s p i v = { s with regs := (cfgWritten s p i v).regs } := by
  unfold cfgWritten State.setIf
  split <;> rfl

theorem tracked_cfgWritten (s : State) (p i : Nat) (v : Word) : Tracked [.POS_CFG, .POS_STAT] s (cfgWritten s p i v) :=
  .setIf (.put (.wr (.refl s)))

/-- The word as written keeps every defined bit. -/
theorem cfgWord_toNat (v : Word) : (RegName.POS_CFG.row.write 0 v).toNat = v.toNat % 2 ^ 31 := by
  rw [write_zero rfl, BitVec.toNat_and]
  exact Nat.and_two_pow_sub_one_eq_mod v.toNat 31

theorem get_cfgWord {g : Fld} (h : g.lo + g.w ≤ 31) (v : Word) : g.get (RegName.POS_CFG.row.write 0 v) = g.get v := by
  refine Nat.eq_of_testBit_eq fun k => ?_
  simp only [Fld.get, cfgWord_toNat, Nat.testBit_mod_two_pow, Nat.testBit_shiftRight]
  by_cases hk : k < g.w
  · rw [decide_eq_true (show g.lo + k < 31 by omega), Bool.true_and]
  · rw [decide_eq_false hk, Bool.false_and, Bool.false_and]

/-- A field of POS_CFG apart from the input slot reads as it was written. -/
theorem f_cfgWritten (s : State) (p i : Nat) (v : Word) {g : Fld} (hr : g.r = .POS_CFG) (ha : fldsApart F.POS_CFG.le_in g) (hg : g.lo + g.w ≤ 31) :
    (cfgWritten s p i v).f g p i = g.get v := by
  have hs : fldsApart F.POS_STAT.cfg_clamp g := Or.inl (by rw [hr]; decide)
  rw [cfgWritten, f_setIf_apart _ _ hs, f_put_apart _ ha, State.f, hr, rd_wr_self, get_cfgWord hg]

section
variable {s : State} {p i : Nat} {v : Word} (hl : (decide (s.f F.POS_CFG.axis p i < 6) && s.axLk p (s.f F.POS_CFG.axis p i)) = false)
include hl

/-- A write of POS_CFG on an unlocked interface, with a mode that any interface may take (R96, R97). -/
theorem hookPos_cfg (hm : F.POS_CFG.mode.get v < 4) :
    s.hookPos .POS_CFG p i v = (if F.POS_CFG.mode.get (s.rd .POS_CFG p i) ≠ F.POS_CFG.mode.get v then (cfgWritten s p i v).modeChange p i
      else if F.POS_CFG.inv.get (s.rd .POS_CFG p i) ≠ F.POS_CFG.inv.get v then (cfgWritten s p i v).invChange p i else cfgWritten s p i v, .ok) := by
  unfold State.hookPos
  dsimp only
  rw [if_neg (ne_true_of_eq_false hl), if_neg]
  · rfl
  · simp
    omega

/-- A mode other than the present one is changed to (R96). -/
theorem hookPos_mode (hm : F.POS_CFG.mode.get v < 4) (hne : F.POS_CFG.mode.get v ≠ s.f F.POS_CFG.mode p i) :
    s.hookPos .POS_CFG p i v = ((cfgWritten s p i v).modeChange p i, .ok) :=
  (hookPos_cfg hl hm).trans (congrArg (·, Wr.ok) (if_pos hne.symm))

/-- Where only inv changes, the levels are read anew (R97). -/
theorem hookPos_inv (hm : F.POS_CFG.mode.get v < 4) (he : F.POS_CFG.mode.get v = s.f F.POS_CFG.mode p i)
    (hi : v.getLsbD 30 ≠ s.bit F.POS_CFG.inv p i) : s.hookPos .POS_CFG p i v = ((cfgWritten s p i v).invChange p i, .ok) := by
  have hv : F.POS_CFG.inv.get (s.rd .POS_CFG p i) ≠ F.POS_CFG.inv.get v := fun h => hi (by
    rw [bit_eq_getLsbD s rfl, getLsbD_eq_get .POS_CFG, getLsbD_eq_get .POS_CFG]
    exact congrArg (· == 1) h.symm)
  exact (hookPos_cfg hl hm).trans (congrArg (·, Wr.ok) ((if_neg (not_not.mpr he.symm)).trans (if_pos hv)))

/-- A mode beyond the table's is an error (R96). -/
theorem hookPos_badMode (hm : 5 ≤ F.POS_CFG.mode.get v) : s.hookPos .POS_CFG p i v = (s, .err) := by
  unfold State.hookPos
  dsimp only
  rw [if_neg (ne_true_of_eq_false hl), if_pos (by simp [hm])]

end

/-! ### A change of mode, and of inv -/

/-- A change of mode begins anew: nothing counted, no history, standstill (R96, R113). -/
structure ModeChanged (p i : Nat) (s t : State) : Prop where
  tracked : Tracked [.POS_CNT, .POS_WRAP, .POS_SPD, .POS_STAT, .POS_SECT] s t
  free : t.free = s.free
  cnt : t.rd .POS_CNT p i = 0
  wrap : t.rd .POS_WRAP p i = 0
  spd : t.rd .POS_SPD p i = 0
  still : t.bit F.POS_STAT.still p i = true
  hist : (t.pos p i).hist = []

/-- Counter, wraps and speed are zeroed, and no edge is left to differ from. -/
structure CountZeroed (p i : Nat) (s t : State) : Prop where
  tracked : Tracked [.POS_CNT, .POS_WRAP, .POS_SPD] s t
  cnt : t.rd .POS_CNT p i = 0
  wrap : t.rd .POS_WRAP p i = 0
  spd : t.rd .POS_SPD p i = 0
  hist : (t.pos p i).hist = []

theorem countZeroed (s : State) (p i : Nat) : CountZeroed p i s ((((s.wr .POS_CNT 0 p i).wr .POS_WRAP 0 p i).wr .POS_SPD 0 p i).histClear p i) := by
  have hw : Tracked [.POS_CNT, .POS_WRAP, .POS_SPD] s (((s.wr .POS_CNT 0 p i).wr .POS_WRAP 0 p i).wr .POS_SPD 0 p i) := .wr (.wr (.wr (.refl s)))
  have h := tracked_histClear (((s.wr .POS_CNT 0 p i).wr .POS_WRAP 0 p i).wr .POS_SPD 0 p i) p i
  refine ⟨hw.trans h.mono, ?_, ?_, rd_wr_self (((s.wr .POS_CNT 0 p i).wr .POS_WRAP 0 p i).wr .POS_SPD 0 p i) .POS_SPD 0 p i 0,
    congrArg Pos.hist (pos_histClear _ p i)⟩
  · rw [h.regs .POS_CNT p i 0 (by decide), rd_wr_name _ (by decide), rd_wr_name _ (by decide), rd_wr_self]
  · rw [h.regs .POS_WRAP p i 0 (by decide), rd_wr_name _ (by decide), rd_wr_self]

theorem modeChange_changes (s : State) (p i : Nat) : ModeChanged p i s (s.modeChange p i) := by
  unfold State.modeChange
  extract_lets s1 s2
  have h1 : CountZeroed p i s s1 := countZeroed s p i
  have hfree : s1.free = s.free := rfl
  clear_value s1
  have hst := tracked_setStill s1 p i
  have h2 : Tracked [.POS_SECT] (s1.setStill p i) s2 := .updPos (.put (.put (.refl _)))
  have hh2 : (s2.pos p i).hist = (s1.pos p i).hist := by
    unfold s2
    rw [pos_updPos]
    show ((s1.setStill p i).pos p i).hist = (s1.pos p i).hist
    rw [pos_setStill]
  have h3 := tracked_sectorFromLevels s2 p i
  obtain ⟨hf, hh⟩ := sectorFromLevels_keeps s2 p i
  have keep : Within [.POS_STAT, .POS_SECT] s1 (s2.sectorFromLevels p i) := (hst.within.mono.trans h2.within.mono).trans h3.within.mono
  refine ⟨((h1.tracked.mono.trans hst.mono).trans h2.mono).trans h3.mono, hf.trans hfree, (keep.regs .POS_CNT p i 0 (by decide)).trans h1.cnt,
    (keep.regs .POS_WRAP p i 0 (by decide)).trans h1.wrap, (keep.regs .POS_SPD p i 0 (by decide)).trans h1.spd, ?_, hh.trans (hh2.trans h1.hist)⟩
  rw [h3.within.bit_eq F.POS_STAT.still p i 0, h2.within.bit_eq F.POS_STAT.still p i 0]
  exact bit_setb_self s1 F.POS_STAT.still p i 0 (by decide)

/-- A change of inv empties the history, and reads the levels anew (R97). -/
structure InvChanged (p i : Nat) (s t : State) : Prop where
  tracked : Tracked [.POS_SPD, .POS_SECT] s t
  spd : t.rd .POS_SPD p i = 0
  hist : (t.pos p i).hist = []

theorem invChange_changes (s : State) (p i : Nat) : InvChanged p i s (s.invChange p i) := by
  have h1 : Tracked [.POS_SPD, .POS_SECT] s (s.posSnap p i s.now) := (snapped_posSnap s p i s.now).tracked.mono (List.nil_subset _)
  have h3 := tracked_sectorFromLevels ((s.posSnap p i s.now).histClear p i) p i
  refine ⟨(h1.trans (tracked_histClear _ p i).mono).trans h3.mono, ?_, ?_⟩
  · exact (h3.regs .POS_SPD p i 0 (by decide)).trans (rd_wr_self _ .POS_SPD 0 p i 0)
  · exact (sectorFromLevels_keeps _ p i).2.trans (congrArg Pos.hist (pos_histClear _ p i))

/-! ### The commands of an interface's owner -/

/-- The rest of the counter's group. -/
abbrev posGroup (s : State) (p i : Nat) : List Word :=
  [s.rd .POS_WRAP p i, s.rd .POS_SPD p i, s.rd .POS_SECT p i, s.rd .POS_ETAG_LO p i, s.rd .POS_ETAG_HI p i]

/-- A reader holds the rest of the counter's group. -/
def groupHeld (s : State) (m : Master) (p i : Nat) : State := s.updLatch m fun l => { l with pos := l.pos.set [] (8 * p + i) (posGroup s p i) }

theorem pos_groupHeld (s : State) (m : Master) (p i : Nat) : ((groupHeld s m p i).latch m).pos.get [] (8 * p + i) = posGroup s p i := by
  rw [groupHeld, latch_updLatch]
  exact (SMap_get_set [] (s.latch m).pos (8 * p + i) (8 * p + i) (posGroup s p i)).trans (if_pos rfl)

section
variable {s : State} {p : PackIx} {i : Fin 6} {m : Master} (h : (s.req m).admits (s.posOwner p i) = true)
include h

/-- A read of the counter answers it, and the reader holds the rest of its group (R105). -/
theorem posSnapshotRead_eq : exec (.posSnapshotRead m p i) s = ok (groupHeld s m p i) (s.rd .POS_CNT p i) := by
  have hg : (s.guard (s.req m) ⟨.POS_CNT, p, i, 0⟩).rd = true := h
  have hread : s.regRead (s.req m) ⟨.POS_CNT, p, i, 0⟩ = (groupHeld s (s.req m).m p i, s.rd .POS_CNT p i) := rfl
  refine (cmdRead_reg (x := ⟨.POS_CNT, p, i, 0⟩) (regAt_addr_pack i.isLt Nat.one_pos rfl p.isLt) (addr_mod_four _) (admits_mapped h)).trans ?_
  rw [regReadAt_ok (addr_mod_four _) hg, hread, req_m]
  rfl

section
variable {v : Word} (hl : (decide (s.f F.POS_CFG.axis p i < 6) && s.axLk p (s.f F.POS_CFG.axis p i)) = false)
include hl

theorem modeChange_accepted (hm : F.POS_CFG.mode.get v < 4) (hne : F.POS_CFG.mode.get v ≠ s.f F.POS_CFG.mode p i) :
    exec (.modeChange m p i v) s = ok ((cfgWritten s p i v).modeChange p i) :=
  packPut_ok rfl p.isLt i.isLt (by decide) h rfl fun _ => hookPos_mode hl hm hne

theorem modeChange_turnedAway (hm : 5 ≤ F.POS_CFG.mode.get v) : TurnedAway (exec (.modeChange m p i v) s) s :=
  packPut_err rfl p.isLt i.isLt (by decide) h rfl fun _ => hookPos_badMode hl hm

theorem invChange_accepted (hm : F.POS_CFG.mode.get v < 4) (he : F.POS_CFG.mode.get v = s.f F.POS_CFG.mode p i)
    (hi : v.getLsbD 30 ≠ s.bit F.POS_CFG.inv p i) : exec (.invChange m p i v) s = ok ((cfgWritten s p i v).invChange p i) :=
  packPut_ok rfl p.isLt i.isLt (by decide) h rfl fun _ => hookPos_inv hl hm he hi

end

end

/-! ### The events of the pack's timebase, and of a powered field die -/

theorem clocked_exec {s : State} {p : Nat} {f : State → State} (h : s.bit F.PWM_STATUS.clk_ok p = true) : s.clocked p f = f s := when_true h

theorem clocked_away {s : State} {p : Nat} {f : State → State} (h : s.bit F.PWM_STATUS.clk_ok p = false ∨ f s = s) : s.clocked p f = s := by
  cases hc : s.bit F.PWM_STATUS.clk_ok p with
  | false => exact when_false hc
  | true => exact (when_true hc).trans (h.resolve_left (ne_false_of_eq_true hc))

theorem fieldOn_exec {s : State} {f : State → State} (h : s.pwr.mode ≠ 3) : s.fieldOn f = f s := when_true (bne_iff_ne.mpr h)

theorem fieldOn_away {s : State} {f : State → State} (h : s.pwr.mode = 3 ∨ f s = s) : s.fieldOn f = s := by
  by_cases hm : s.pwr.mode = 3
  · exact when_false (by rw [hm]; rfl)
  · exact (fieldOn_exec hm).trans (h.resolve_left hm)

theorem diagIx_lt (d : PinDiag) : diagIx d < 4 := by
  cases d <;> decide

theorem diagIx_stuck {d : PinDiag} : diagIx d = 3 ↔ d = .stuck := by
  cases d <;> decide

theorem posFraction_within {rs : List RegName} {s t : State} (h : Within rs s t) (p i : Nat) (c : Word) (hp : RegName.POS_PITCH ∉ rs := by decide)
    (hr : RegName.POS_REF ∉ rs := by decide) : t.posFraction p i c = s.posFraction p i c := by
  unfold State.posFraction
  rw [h.regs .POS_PITCH p i 0 hp, h.regs .POS_REF p i 0 hr]

/-- Where no free value has been drawn, registers and interfaces are all that changed. -/
theorem Tracked.rest_of_free {rs : List RegName} {s t : State} (h : Tracked rs s t) (hf : t.free = s.free) :
    t = { s with regs := t.regs, poss := t.poss } := by
  have hr := h.rest
  rw [hf] at hr
  exact hr

/-- What a change of mode leaves, its register with it (R96). -/
theorem modeChange_accepts {s : State} {p : PackIx} {i : Fin 6} {m : Master} {v : Word} (h : (s.req m).admits (s.posOwner p i) = true)
    (hl : (decide (s.f F.POS_CFG.axis p i < 6) && s.axLk p (s.f F.POS_CFG.axis p i)) = false) (hm : F.POS_CFG.mode.get v < 4)
    (hne : F.POS_CFG.mode.get v ≠ s.f F.POS_CFG.mode p i) :
    Accepts (exec (.modeChange m p i v) s) fun t => t.f F.POS_CFG.mode p i = F.POS_CFG.mode.get v ∧ t.rd .POS_CNT p i = 0 ∧
      t.rd .POS_WRAP p i = 0 ∧ t.rd .POS_SPD p i = 0 ∧ t.bit F.POS_STAT.still p i = true ∧ (t.pos p i).hist = [] ∧
      KeepsRegs s t [.POS_CFG, .POS_CNT, .POS_WRAP, .POS_SPD, .POS_STAT, .POS_SECT] ∧
      t = { s with regs := t.regs, poss := t.poss, resp := t.resp } := by
  rw [modeChange_accepted h hl hm hne]
  have hw := tracked_cfgWritten s p i v
  have hfree : (cfgWritten s p i v).free = s.free := by rw [cfgWritten_rest]
  have hmode := f_cfgWritten s p i v (g := F.POS_CFG.mode) rfl (by decide) (by decide)
  have hc := modeChange_changes (cfgWritten s p i v) p i
  have ht : Tracked [.POS_CFG, .POS_CNT, .POS_WRAP, .POS_SPD, .POS_STAT, .POS_SECT] s ((cfgWritten s p i v).modeChange p i) :=
    hw.mono.trans hc.tracked.mono
  have hrest := ht.rest_of_free (hc.free.trans hfree)
  generalize (cfgWritten s p i v).modeChange p i = t at hc ht hrest
  exact accepts_ok ⟨(hc.tracked.within.f_eq F.POS_CFG.mode p i 0).trans hmode, hc.cnt, hc.wrap, hc.spd, hc.still, hc.hist, ht.regs, by rw [hrest]⟩

/-- What a change of inv leaves, its register with it (R97). -/
theorem invChange_accepts {s : State} {p : PackIx} {i : Fin 6} {m : Master} {v : Word} (h : (s.req m).admits (s.posOwner p i) = true)
    (hl : (decide (s.f F.POS_CFG.axis p i < 6) && s.axLk p (s.f F.POS_CFG.axis p i)) = false) (hm : F.POS_CFG.mode.get v < 4)
    (he : F.POS_CFG.mode.get v = s.f F.POS_CFG.mode p i) (hi : v.getLsbD 30 ≠ s.bit F.POS_CFG.inv p i) :
    Accepts (exec (.invChange m p i v) s) fun t => t.bit F.POS_CFG.inv p i = v.getLsbD 30 ∧ t.rd .POS_CNT p i = s.rd .POS_CNT p i ∧
      (t.pos p i).hist = [] ∧ t.rd .POS_SPD p i = 0 ∧ KeepsRegs s t [.POS_CFG, .POS_SPD, .POS_STAT, .POS_SECT] ∧
      t = { s with regs := t.regs, poss := t.poss, free := t.free, resp := t.resp } := by
  rw [invChange_accepted h hl hm he hi]
  have hinv : (cfgWritten s p i v).bit F.POS_CFG.inv p i = v.getLsbD 30 := by
    rw [State.bit, f_cfgWritten s p i v rfl (by decide) (by decide), getLsbD_eq_get .POS_CFG]
    have hlt : F.POS_CFG.inv.get v < 2 := Nat.mod_lt _ (by decide)
    show (F.POS_CFG.inv.get v != 0) = (F.POS_CFG.inv.get v == 1)
    interval_cases F.POS_CFG.inv.get v <;> rfl
  have hc := invChange_changes (cfgWritten s p i v) p i
  have ht : Tracked [.POS_CFG, .POS_SPD, .POS_STAT, .POS_SECT] s ((cfgWritten s p i v).invChange p i) :=
    (tracked_cfgWritten s p i v).mono.trans hc.tracked.mono
  generalize (cfgWritten s p i v).invChange p i = t at hc ht
  exact accepts_ok ⟨(hc.tracked.within.bit_eq F.POS_CFG.inv p i 0).trans hinv, ht.regs .POS_CNT p i 0 (by decide), hc.hist, hc.spd, ht.regs,
    by rw [ht.rest]⟩

/-- What the delivery of the first latch leaves at its instant (R115, R116). -/
theorem positionLatch_accepts {s : State} {p : PackIx} {i : Fin 6} {q : PLatch} {qs : List PLatch} (hc : s.bit F.PWM_STATUS.clk_ok p = true)
    (hq : (s.pos p i).lq = q :: qs) :
    let u := s.run (q.raw + s.f F.POS_CFG.flt p i + 4 - s.clk.raw)
    Accepts (exec (.positionLatch p i) s) fun t => t.rd .POS_CNT p i = u.rd .POS_CNT p i ∧ (t.pos p i).hist = (u.pos p i).hist ∧
      ((u.pos p i).hist.length < 2 → t.rd .POS_SPD p i = 0) ∧ (t.pos p i).lq.length = qs.length ∧
      (q.val = none → (t.pos p i).fl = 0 ∧ (t.pos p i).win = []) ∧
      (u.f F.POS_CFG.axis p i < 6 → u.f F.POS_CFG.le_in p i < 15 →
        (slotAt t p (u.f F.POS_CFG.axis p i) (u.f F.POS_CFG.le_in p i)).tag = q.tag ∧
          (slotAt t p (u.f F.POS_CFG.axis p i) (u.f F.POS_CFG.le_in p i)).v = u.posFraction p i ((q.val.map (·.1)).getD (u.rd .POS_CNT p i))) ∧
      KeepsRegs u t [.POS_SPD, .POS_SECT, .POS_EMU_STAT] ∧ t.mem = s.mem := by
  intro u
  obtain ⟨a, hs, hlen, hend, hg⟩ := posLatch_first hq
  have hs : Snapped p i u a := hs
  have hcnt : u.rd .POS_CNT p i = s.rd .POS_CNT p i := rd_run s _ .POS_CNT p i 0 (by decide)
  have hum : u.mem = s.mem := mem_run s _
  clear_value u
  have ha : Within [] u a := hs.tracked.within
  show Accepts (ok (s.clocked p fun s => s.posLatch p i)) _
  rw [clocked_exec hc]
  generalize s.posLatch p i = t at hg
  have hpos : t.pos p i = a.pos p i := pos_of_poss hg.poss p i
  have hw : Within [.POS_SPD, .POS_SECT, .POS_EMU_STAT] u t := ha.mono.trans hg.within
  have hmem : t.mem = s.mem := hw.mem.trans hum
  refine accepts_ok ⟨hw.regs .POS_CNT p i 0 (by decide), ?_, fun hl => ?_, ?_, fun hn => ?_, fun hb hx => ?_, hw.regs, hmem⟩
  · exact (congrArg Pos.hist hpos).trans hs.hist
  · exact hg.spd (by rw [hs.hist]; exact hl)
  · exact (congrArg (fun k : Pos => k.lq.length) hpos).trans hlen
  · obtain ⟨hwin, hfl⟩ := hend hn
    exact ⟨(congrArg Pos.fl hpos).trans hfl, (congrArg Pos.win hpos).trans hwin⟩
  · have hslot := hg.slot
    rw [ha.f_eq F.POS_CFG.axis p i 0, ha.f_eq F.POS_CFG.le_in p i 0, posFraction_within ha] at hslot
    rw [hcnt]
    exact hslot hb hx

/-- Settles O33: each write of a register by its hook, each timed event by what it does at its instant, the sensor outputs by PWR_SENS_STAT. -/
theorem positionCommandsComplete : Obligations.PositionCommandsComplete := by
  refine ⟨fun p i s => ⟨fun m h => ⟨fun v hl => ⟨fun hm hne => ?mode, fun hm he hi => ?inv, modeChange_turnedAway h hl⟩, ?snap⟩,
      ?stillAway, fun g hc hg => ?still, ?latchAway, fun q qs hc hq => ?latch,
      fun k d => ⟨fun hp hc hl => ?diag, ?diagAway, fun hp hd hc hl => ?clear, ?clearAway⟩⟩,
    fun n s => ⟨fun m r h => ?enable, fun h l => noEvent_ok (sensShort_off h l),
      fun h => ⟨?gone, fun hk => ?limits, fun hk => ?trips⟩,
      ⟨fun ha hp => ?retry, fun ha hp => ?unsupplied, fun ha => ?noRetry⟩, ?ext, fun h => ?uv, fun h => ?uvOff⟩,
    fun p s => ⟨?emuAway, fun hc h0 hu hn => ⟨fun ht => ?up, fun ht => ?down⟩, fun m h => ?resync⟩⟩
  case mode => exact modeChange_accepts h hl hm hne
  case inv => exact invChange_accepts h hl hm he hi
  case snap =>
    rw [posSnapshotRead_eq h]
    exact accepts_ok ⟨rfl, pos_groupHeld s m p i, rfl⟩
  case stillAway => exact fun h => noEvent_ok (clocked_away (h.imp id standstill_none))
  case still =>
    have hs := standstill_some hg
    show Accepts (ok (s.clocked p fun s => s.standstill p i)) _
    rw [clocked_exec hc]
    generalize s.standstill p i = t at hs
    exact accepts_ok ⟨hs.still, hs.hist, hs.last, hs.spd, hs.tracked.regs, by rw [hs.tracked.rest]⟩
  case latchAway => exact fun h => noEvent_ok (clocked_away (h.imp id posLatch_nil))
  case latch => exact fun _ => positionLatch_accepts hc hq
  case diag =>
    have hb : 4 * k.val + diagIx d < 12 := by have := diagIx_lt d; omega
    have hn := pinDiag_notes hc hl hb
    show Accepts (ok (s.fieldOn fun s => s.pinDiag p i k (diagIx d))) _
    rw [fieldOn_exec hp]
    exact accepts_ok ⟨hn.sticky, hn.live, hn.diag, hn.within.regs, hn.within.mem.trans (mem_run s _)⟩
  case diagAway => exact fun h => noEvent_ok (fieldOn_away (h.imp id pinDiag_away))
  case clear =>
    have hb : 4 * k.val + diagIx d < 12 := by have := diagIx_lt d; omega
    have hn := pinClear_clears (fun h => hd (diagIx_stuck.mp h)) hc hl hb
    show Accepts (ok (s.fieldOn fun s => s.pinClear p i k (diagIx d))) _
    rw [fieldOn_exec hp]
    refine accepts_ok ⟨hn.live, hn.diag.sticky _ hb, hn.mem.trans (mem_run s _), fun h => (hn.held ?_).regs⟩
    exact h.imp id fun h j hj => h ⟨j, hj⟩
  case clearAway =>
    exact fun h => noEvent_ok (fieldOn_away (h.imp id fun h => pinClear_away (h.imp diagIx_stuck.mpr id)))
  case enable =>
    obtain ⟨he, hoff, hon⟩ := sensCtl_enables s n r
    have hx : exec (.sensorSupplyEnable m n r) s = ok (s.sensCtl n (enableWord r)) :=
      putAt_ok rfl n.isLt (by decide) (admits_mapped h) (if_pos h) fun _ => rfl
    rw [hx]
    exact accepts_ok ⟨he.en, he.retry, hoff, hon, he.supplied.answered _⟩
  case gone =>
    obtain ⟨hon, hi, hk, hs⟩ := sensShort_gone h
    exact accepts_ok (s := s.sensShort n false) ⟨hon, hi, hk, hs.answered _⟩
  case limits =>
    obtain ⟨hon, hi, hk, hs⟩ := sensShort_limits h hk
    exact accepts_ok (s := s.sensShort n true) ⟨hon, hi, hk, hs.answered _⟩
  case trips =>
    have ht := sensShort_trips h hk
    exact accepts_ok (s := s.sensShort n true) ⟨ht.off.on, ht.off.ilim, ht.short, ht.cnt, ht.since, ht.supplied.answered _⟩
  case retry =>
    obtain ⟨hon, hs⟩ := sensOn_on hp n
    rw [← sensRetry_again ha] at hon hs
    exact accepts_ok (s := s.sensRetry n) ⟨hon, hs.answered _⟩
  case unsupplied =>
    exact noEvent_ok (t := s.sensRetry n) ((sensRetry_again ha).trans (sensOn_unsupplied hp n))
  case noRetry => exact noEvent_ok (t := s.sensRetry n) (sensRetry_not ha)
  case ext =>
    exact accepts_ok (s := s.sensExt n) ⟨bit_setb_self s F.PWR_SENS_STAT.ext 0 n 0 (by decide), (Supplied.put (.refl s)).answered _⟩
  case uv =>
    have ht : s.sensUv n = s.setb F.PWR_SENS_STAT.uv 0 n := if_pos h
    show Accepts (ok (s.sensUv n)) _
    rw [ht]
    exact accepts_ok ⟨bit_setb_self s F.PWR_SENS_STAT.uv 0 n 0 (by decide), (Supplied.put (.refl s)).answered _⟩
  case uvOff => exact noEvent_ok (t := s.sensUv n) (if_neg (ne_true_of_eq_false h))
  case emuAway => exact fun h => noEvent_ok (clocked_away (h.imp id fun h => if_pos h))
  case up =>
    obtain ⟨hm, hup, -⟩ := emuStep_moves hn
    obtain ⟨hs, ht⟩ := hup (hu ▸ ht)
    rw [← emuEdge_steps h0] at hm hs ht
    show Accepts (ok (s.clocked p fun s => s.emuEdge p)) _
    rw [clocked_exec hc]
    exact accepts_ok ⟨hs, ht.trans (by rw [hu]), hm.within.regs, by rw [hm.rest]⟩
  case down =>
    obtain ⟨hm, -, hdown⟩ := emuStep_moves hn
    obtain ⟨hs, ht⟩ := hdown (hu ▸ ht)
    rw [← emuEdge_steps h0] at hm hs ht
    show Accepts (ok (s.clocked p fun s => s.emuEdge p)) _
    rw [clocked_exec hc]
    exact accepts_ok ⟨hs, ht.trans (by rw [hu]), hm.within.regs, by rw [hm.rest]⟩
  case resync =>
    obtain ⟨hm, hp, ht, hb⟩ := emuResync_moves s p
    have hx : exec (.resync m p) s = ok (s.emuResync p) := packPut_ok rfl p.isLt (by decide) (by decide) h rfl fun _ => rfl
    rw [hx]
    exact accepts_ok ⟨hp, ht, hb, hm.within.regs, by rw [hm.rest]⟩

end Sys2Proof.Proofs
end

section
/-! POSITION_EDGE up to the acceptance: the classes that the pins take, and the levels that they have held for flt ticks (R97, R118). -/

namespace Sys2Proof.Proofs
open Sys2Proof Sys2Proof.Machine Sys2Proof.Laws

/-! ### A class taken -/

/-- Between two states only the pins' classes and the interfaces have changed, and of one interface what its filters and conditions hold. -/
structure Filtered (p i : Nat) (s t : State) : Prop where
  rest : t = { s with fld := t.fld, poss := t.poss }
  pos : t.pos p i = { s.pos p i with lvl := (t.pos p i).lvl, runAt := (t.pos p i).runAt, runTag := (t.pos p i).runTag,
                                     capAt := (t.pos p i).capAt, cond := (t.pos p i).cond }

namespace Filtered

variable {p i : Nat} {s a t : State}

theorem refl (s : State) : Filtered p i s s := ⟨rfl, rfl⟩

theorem trans (h : Filtered p i s a) (g : Filtered p i a t) : Filtered p i s t := ⟨by rw [g.rest, h.rest], by rw [g.pos, h.pos]⟩

theorem clk (h : Filtered p i s t) : t.clk = s.clk := by rw [h.rest]

theorem pins (h : Filtered p i s t) : (t.pos p i).pins = (s.pos p i).pins := by rw [h.pos]

theorem within (h : Filtered p i s t) : Within [] s t := ⟨by rw [h.rest], by rw [h.rest], fun r q l j _ => by rw [h.rest]; rfl⟩

theorem rawOf (h : Filtered p i s t) (g : Tag) : t.rawOf g = s.rawOf g := by rw [h.rest]; rfl

theorem tagOf (h : Filtered p i s t) (r : Nat) : t.tagOf r = s.tagOf r := by rw [h.rest]; rfl

end Filtered

/-- The level that pin `k` presents. -/
abbrev lvlOf (s : State) (p i k : Nat) : Bool := SMap.get false (s.pos p i).lvl k

/-- The raw tick at which the level of pin `k` began. -/
abbrev runAtOf (s : State) (p i k : Nat) : Nat := SMap.get 0 (s.pos p i).runAt k

/-- The tag of the run that pin `k` begins at raw tick `r`: the edge's own where its fine capture is free (R97). -/
def runTagNow (s : State) (p i k r : Nat) (t : Tag) : Tag := if SMap.get 0 (s.pos p i).capAt k ≤ r then t else s.tagOf r

/-- Pin `k` has taken a class, by which it presents `lv` from raw tick `r` on. -/
structure Took (p i k : Nat) (lv : Bool) (r : Nat) (g : Tag) (s t : State) : Prop where
  filtered : Filtered p i s t
  lvl : lvlOf t p i k = lv
  run : lvlOf s p i k ≠ lv → runAtOf t p i k = r ∧ SMap.get 0 (t.pos p i).runTag k = g
  same : lvlOf s p i k = lv → runAtOf t p i k = runAtOf s p i k
  others : ∀ j, j ≠ k → lvlOf t p i j = lvlOf s p i j ∧ runAtOf t p i j = runAtOf s p i j ∧
    SMap.get 0 (t.pos p i).runTag j = SMap.get 0 (s.pos p i).runTag j ∧ SMap.get 0 (t.pos p i).capAt j = SMap.get 0 (s.pos p i).capAt j

theorem posTake_took (s : State) (p i r : Nat) (t : Tag) (k : Nat) (c : PinClass) :
    Took p i k (pinLevel ((s.pos p i).pins.getLsbD k) c) r (runTagNow s p i k r t) s (s.posTake p i r t k c) := by
  unfold State.posTake
  extract_lets q lv s1 fine
  obtain ⟨h1, hp1⟩ := posConds_keeps ({ s with fld := s.fld.set .open_ (fldPin p i k) c } : State) p i r
  have hr1 : s1 = { s with fld := s1.fld, poss := s1.poss } := by
    have h : s1 = { s with fld := s.fld.set .open_ (fldPin p i k) c, poss := s1.poss } := h1
    rw [h]
  have hp : s1.pos p i = { s.pos p i with cond := (s1.pos p i).cond } := hp1
  clear_value s1
  have hf : Filtered p i s s1 := ⟨hr1, by rw [hp]⟩
  split
  · next h =>
    have h : SMap.get false (s.pos p i).lvl k = lv := eq_of_beq h
    refine ⟨hf, by rw [lvlOf, hp]; exact h, fun hn => absurd h hn, fun _ => by rw [runAtOf, hp], fun j _ => ?_⟩
    rw [lvlOf, runAtOf, hp]
    exact ⟨rfl, rfl, rfl, rfl⟩
  · next h =>
    have h : SMap.get false (s.pos p i).lvl k ≠ lv := fun he => h (beq_iff_eq.mpr he)
    have hg : (if decide (SMap.get 0 q.capAt k ≤ r) then t else s.tagOf r) = runTagNow s p i k r t := by
      unfold runTagNow
      simp only [decide_eq_true_eq]
      congr
    refine ⟨hf.trans ⟨rfl, by rw [pos_updPos]⟩, ?_, fun _ => ⟨?_, ?_⟩, fun hn => absurd hn h, fun j hj => ?_⟩
    · rw [lvlOf, pos_updPos]
      exact (SMap_get_set ..).trans (if_pos rfl)
    · rw [runAtOf, pos_updPos]
      exact (SMap_get_set ..).trans (if_pos rfl)
    · rw [pos_updPos]
      exact ((SMap_get_set ..).trans (if_pos rfl)).trans hg
    · rw [lvlOf, runAtOf, pos_updPos, hp]
      refine ⟨(SMap_get_set ..).trans (if_neg hj), (SMap_get_set ..).trans (if_neg hj), (SMap_get_set ..).trans (if_neg hj), ?_⟩
      dsimp only
      split
      · exact (SMap_get_set ..).trans (if_neg hj)
      · rfl

/-! ### No acceptance before its time -/

/-- One look for a level held by raw tick `r`, of runs that began before tick `b`. -/
def upStep (p i r b : Nat) (s : State) : State :=
  match s.posDue p i with
  | some q => if q ≤ r ∧ (List.range 3).any fun k => s.posPends p i k && s.posRipe p i k == q && SMap.get 0 (s.pos p i).runAt k < b
      then s.atRaw q fun s => s.posAccept p i else s
  | none => s

theorem posUpTo_eq (s : State) (p i r b : Nat) : s.posUpTo p i r b = upStep p i r b (upStep p i r b (upStep p i r b s)) := by
  have h : s.posUpTo p i r b = [0, 1, 2].foldl (fun s _ => upStep p i r b s) s := rfl
  rw [h, List.foldl_cons, List.foldl_cons, List.foldl_cons, List.foldl_nil]

/-- Where no pin is ripe by the tick, or none that began before `b`, nothing is accepted. -/
theorem upStep_quiet {s : State} {p i r b : Nat} (h : ∀ k, k < 3 → s.posPends p i k = true → r < s.posRipe p i k ∨ b ≤ runAtOf s p i k) :
    upStep p i r b s = s := by
  unfold upStep
  split
  · next q _ =>
    refine if_neg fun ⟨hq, hany⟩ => ?_
    obtain ⟨k, hk, hb⟩ := List.any_eq_true.mp hany
    simp only [Bool.and_eq_true, beq_iff_eq, decide_eq_true_eq] at hb
    obtain ⟨⟨hp, hr⟩, hlt⟩ := hb
    rcases h k (List.mem_range.mp hk) hp with h1 | h1
    · omega
    · exact absurd hlt (Nat.not_lt.mpr h1)
  · rfl

theorem posUpTo_quiet {s : State} {p i r b : Nat} (h : ∀ k, k < 3 → s.posPends p i k = true → r < s.posRipe p i k ∨ b ≤ runAtOf s p i k) :
    s.posUpTo p i r b = s := by
  rw [posUpTo_eq, upStep_quiet h, upStep_quiet h, upStep_quiet h]

/-- The accepted levels are what the pins present. -/
def AllAccepted (p i : Nat) (s : State) : Prop := ∀ k, k < 3 → lvlOf s p i k = (s.pos p i).pins.getLsbD k

theorem AllAccepted.pends {p i k : Nat} {s : State} (h : AllAccepted p i s) (hk : k < 3) : s.posPends p i k = false := posPends_same (h k hk)

theorem posDue_none {p i : Nat} {s : State} (h : AllAccepted p i s) : s.posDue p i = none := by
  have hf : (List.range 3).filter (s.posPends p i) = [] := List.filter_eq_nil_iff.mpr fun k hk =>
    ne_true_of_eq_false (h.pends (List.mem_range.mp hk))
  rw [State.posDue, hf]
  rfl

/-- Where all pending pins ripen at one tick, that is the next acceptance. -/
theorem posDue_some {p i q : Nat} {s : State} (hk : ∃ k, k < 3 ∧ s.posPends p i k = true)
    (hq : ∀ k, k < 3 → s.posPends p i k = true → s.posRipe p i k = q) : s.posDue p i = some q := by
  obtain ⟨k, hk, hp⟩ := hk
  rw [State.posDue, List.min?_eq_some_iff]
  have mem {j : Nat} (hj : j ∈ (List.range 3).filter (s.posPends p i)) : j < 3 ∧ s.posPends p i j = true :=
    ⟨List.mem_range.mp (List.mem_filter.mp hj).1, (List.mem_filter.mp hj).2⟩
  refine ⟨List.mem_map.mpr ⟨k, List.mem_filter.mpr ⟨List.mem_range.mpr hk, hp⟩, hq k hk hp⟩, fun b hb => ?_⟩
  obtain ⟨j, hj, rfl⟩ := List.mem_map.mp hb
  exact (hq j (mem hj).1 (mem hj).2).ge

/-! ### After the last transition -/

/-- The acceptance at raw tick `q`, where one is due after tick `r`. -/
def acceptNext (s : State) (p i r : Nat) : Option Nat → State
  | some q => if r < q then s.atRaw q fun s => s.posAccept p i else s
  | none => s

/-- After its last transition an interface accepts the next level that it holds for flt ticks (R97). -/
def runOut (s : State) (p i : Nat) : State :=
  let s3 := s.posUpTo p i s.clk.raw (s.clk.raw + 1)
  acceptNext s3 p i s.clk.raw (s3.posDue p i)

theorem runOut_same {p i : Nat} {s : State} (h : AllAccepted p i s) : runOut s p i = s := by
  have hq : s.posUpTo p i s.clk.raw (s.clk.raw + 1) = s := posUpTo_quiet fun k hk hp => absurd hp (ne_true_of_eq_false (h.pends hk))
  unfold runOut
  rw [hq]
  dsimp only
  rw [posDue_none h]
  rfl

/-- Levels that began in this tick are accepted flt ticks later, together (log 1). -/
theorem runOut_accepts {p i : Nat} {s : State} (hk : ∃ k, k < 3 ∧ s.posPends p i k = true)
    (hr : ∀ k, k < 3 → s.posPends p i k = true → runAtOf s p i k = s.clk.raw)
    (hd : AllAccepted p i ((s.run (s.f F.POS_CFG.flt p i)).posAccept p i)) :
    runOut s p i = (s.run (s.f F.POS_CFG.flt p i)).posAccept p i := by
  have hripe (k : Nat) (h3 : k < 3) (hp : s.posPends p i k = true) : s.posRipe p i k = s.clk.raw + s.f F.POS_CFG.flt p i :=
    congrArg (· + _) (hr k h3 hp)
  have hdue := posDue_some hk hripe
  have hat : (s.atRaw (s.clk.raw + s.f F.POS_CFG.flt p i) fun s => s.posAccept p i) = (s.run (s.f F.POS_CFG.flt p i)).posAccept p i := by
    rw [State.atRaw, Nat.add_sub_cancel_left]
  unfold runOut
  dsimp only
  rcases Nat.eq_zero_or_pos (s.f F.POS_CFG.flt p i) with h0 | h0
  · have hfirst : upStep p i s.clk.raw (s.clk.raw + 1) s = (s.run (s.f F.POS_CFG.flt p i)).posAccept p i := by
      obtain ⟨k, h3, hp⟩ := hk
      have hany : ((List.range 3).any fun k => s.posPends p i k && s.posRipe p i k == s.clk.raw + s.f F.POS_CFG.flt p i &&
          SMap.get 0 (s.pos p i).runAt k < s.clk.raw + 1) = true := by
        refine List.any_eq_true.mpr ⟨k, List.mem_range.mpr h3, ?_⟩
        rw [hp, hripe k h3 hp, beq_self_eq_true, Bool.true_and, Bool.true_and]
        exact decide_eq_true (by rw [show SMap.get 0 (s.pos p i).runAt k = s.clk.raw from hr k h3 hp]; exact Nat.lt_succ_self _)
      unfold upStep
      rw [hdue]
      exact (if_pos ⟨by omega, hany⟩).trans hat
    rw [posUpTo_eq, hfirst, upStep_quiet fun k h3 hp => absurd hp (ne_true_of_eq_false (hd.pends h3)),
      upStep_quiet fun k h3 hp => absurd hp (ne_true_of_eq_false (hd.pends h3)), posDue_none hd]
    rfl
  · rw [posUpTo_quiet fun k h3 hp => Or.inl (by rw [hripe k h3 hp]; omega), hdue]
    exact (if_pos (by omega)).trans hat

/-! ### A list of transitions -/

/-- A transition while no edge is seen (R117). -/
def takeUnseen (p i : Nat) (s : State) (e : Tag × Fin 3 × PinClass) : State := s.posTake p i (s.rawOf e.1) e.1 e.2.1 e.2.2

/-- A transition, after the acceptances before it. -/
def takeSeen (p i : Nat) (s : State) (e : Tag × Fin 3 × PinClass) : State :=
  (s.posUpTo p i (s.rawOf e.1) (s.rawOf e.1)).posTake p i (s.rawOf e.1) e.1 e.2.1 e.2.2

/-- The raw tick of the last transition. -/
abbrev lastRaw (s : State) (tr : List (Tag × Fin 3 × PinClass)) : Nat := tr.foldl (fun m e => max m (s.rawOf e.1)) 0

/-- While the pack clock is absent the pins take their classes, and nothing is accepted (R117). -/
theorem posEdge_unseen {s : State} {p : Nat} (h : s.bit F.PWM_STATUS.clk_ok p = false) (i : Nat) (tr : List (Tag × Fin 3 × PinClass)) :
    s.posEdge p i tr = (tr.foldl (takeUnseen p i) s).run (lastRaw s tr - (tr.foldl (takeUnseen p i) s).clk.raw) := by
  unfold State.posEdge
  rw [h]
  rfl

theorem posEdge_seen {s : State} {p : Nat} (h : s.bit F.PWM_STATUS.clk_ok p = true) (i : Nat) (tr : List (Tag × Fin 3 × PinClass)) :
    s.posEdge p i tr = runOut ((tr.foldl (takeSeen p i) s).run (lastRaw s tr - (tr.foldl (takeSeen p i) s).clk.raw)) p i := by
  unfold State.posEdge
  extract_lets seen s1 s2 s3
  have h1 : s1 = tr.foldl (takeSeen p i) s := by
    refine congrArg (fun f => tr.foldl f s) (funext₂ fun u e => ?_)
    rw [show seen = true from h]
    rfl
  have h2 : s2 = (tr.foldl (takeSeen p i) s).run (lastRaw s tr - (tr.foldl (takeSeen p i) s).clk.raw) := by rw [← h1]
  rw [if_neg (by rw [show seen = true from h]; decide), ← h2]
  have h3 : runOut s2 p i = acceptNext s3 p i s2.clk.raw (s3.posDue p i) := rfl
  clear_value s3 s2
  rw [h3]
  cases s3.posDue p i <;> rfl

theorem filtered_takesUnseen (s : State) (p i : Nat) (tr : List (Tag × Fin 3 × PinClass)) : Filtered p i s (tr.foldl (takeUnseen p i) s) :=
  List.foldlRecOn (motive := Filtered p i s) tr _ (.refl s) fun u hu e _ => hu.trans (posTake_took u p i (u.rawOf e.1) e.1 e.2.1 e.2.2).filtered

/-- Every level that is not accepted began at raw tick `r`. -/
def StartedAt (p i r : Nat) (s : State) : Prop := ∀ k, k < 3 → lvlOf s p i k ≠ (s.pos p i).pins.getLsbD k → runAtOf s p i k = r

theorem AllAccepted.startedAt {p i : Nat} {s : State} (h : AllAccepted p i s) (r : Nat) : StartedAt p i r s := fun k hk hn => absurd (h k hk) hn

theorem pends_ne {s : State} {p i k : Nat} (h : s.posPends p i k = true) : lvlOf s p i k ≠ (s.pos p i).pins.getLsbD k := fun he =>
  absurd h (ne_true_of_eq_false (posPends_same he))

theorem Took.startedAt {p i k r : Nat} {lv : Bool} {g : Tag} {s t : State} (h : Took p i k lv r g s t) (hs : StartedAt p i r s) :
    StartedAt p i r t := by
  intro j hj hn
  rw [h.filtered.pins] at hn
  rcases eq_or_ne j k with rfl | hne
  · by_cases hl : lvlOf s p i j = lv
    · rw [h.same hl]
      exact hs j hj (by rw [hl, ← h.lvl]; exact hn)
    · exact (h.run hl).1
  · obtain ⟨hlv, hra, -⟩ := h.others j hne
    rw [hra]
    exact hs j hj (by rw [← hlv]; exact hn)

/-- In the tick in which all pending levels began, a transition is taken as it comes. -/
theorem takeSeen_took {p i : Nat} {s : State} {e : Tag × Fin 3 × PinClass} (h : StartedAt p i (s.rawOf e.1) s) :
    Took p i e.2.1 (pinLevel ((s.pos p i).pins.getLsbD e.2.1) e.2.2) (s.rawOf e.1) (runTagNow s p i e.2.1 (s.rawOf e.1) e.1) s (takeSeen p i s e) := by
  unfold takeSeen
  rw [posUpTo_quiet fun k hk hp => Or.inr (h k hk (pends_ne hp)).ge]
  exact posTake_took ..

theorem runTagNow_eq {p i k r : Nat} {g : Tag} {s t : State} (h : Filtered p i s t)
    (hc : SMap.get 0 (t.pos p i).capAt k = SMap.get 0 (s.pos p i).capAt k) : runTagNow t p i k r g = runTagNow s p i k r g := by
  rw [runTagNow, runTagNow, hc, h.tagOf]

/-- The pins have taken three classes in one tick. -/
structure Presents (p i : Nat) (lv : Fin 3 → Bool) (r : Nat) (g : Fin 3 → Tag) (s t : State) : Prop where
  filtered : Filtered p i s t
  lvl : ∀ k : Fin 3, lvlOf t p i k = lv k
  run : ∀ k : Fin 3, (s.pos p i).pins.getLsbD k ≠ lv k → runAtOf t p i k = r ∧ SMap.get 0 (t.pos p i).runTag k = g k

/-- One more pin takes a class in the tick `r` at which `s` presents what it accepted: what it presents then, the others as before. -/
theorem takeSeen_more {p i r : Nat} {s u : State} {t : Tag} (hr : s.rawOf t = r) (hf : Filtered p i s u) (hu : StartedAt p i r u) {k : Fin 3}
    (hc : SMap.get 0 (u.pos p i).capAt k = SMap.get 0 (s.pos p i).capAt k) (c : PinClass) :
    Took p i k (pinLevel ((s.pos p i).pins.getLsbD k) c) r (runTagNow s p i k r t) u (takeSeen p i u (t, k, c)) := by
  have hru : u.rawOf t = r := (hf.rawOf t).trans hr
  have h := takeSeen_took (s := u) (e := (t, k, c)) (by rw [hru]; exact hu)
  rw [hru, runTagNow_eq hf hc, hf.pins] at h
  exact h

theorem takesSeen_present {p i : Nat} {s : State} (ha : AllAccepted p i s) (t : Tag) (cl : Fin 3 → PinClass) :
    Presents p i (fun k => pinLevel ((s.pos p i).pins.getLsbD k) (cl k)) (s.rawOf t) (fun k => runTagNow s p i k (s.rawOf t) t) s
      ([((t, 0, cl 0) : Tag × Fin 3 × PinClass), (t, 1, cl 1), (t, 2, cl 2)].foldl (takeSeen p i) s) := by
  generalize hr : s.rawOf t = r
  have k0 := takeSeen_more hr (.refl s) (ha.startedAt r) (k := 0) rfl (cl 0)
  generalize hs1 : takeSeen p i s (t, 0, cl 0) = s1 at k0
  have q1 := k0.startedAt (ha.startedAt r)
  have k1 := takeSeen_more hr k0.filtered q1 (k := 1) (k0.others 1 (by decide)).2.2.2 (cl 1)
  generalize hs2 : takeSeen p i s1 (t, 1, cl 1) = s2 at k1
  have c2 := (k1.others 2 (by decide)).2.2.2.trans (k0.others 2 (by decide)).2.2.2
  have k2 := takeSeen_more hr (k0.filtered.trans k1.filtered) (k1.startedAt q1) (k := 2) c2 (cl 2)
  rw [List.foldl_cons, List.foldl_cons, List.foldl_cons, List.foldl_nil, hs1, hs2]
  generalize takeSeen p i s2 (t, 2, cl 2) = s3 at k2
  refine ⟨(k0.filtered.trans k1.filtered).trans k2.filtered, fun k => ?_, fun k hn => ?_⟩
  · match k with
    | 0 => exact (k2.others 0 (by decide)).1.trans ((k1.others 0 (by decide)).1.trans k0.lvl)
    | 1 => exact (k2.others 1 (by decide)).1.trans k1.lvl
    | 2 => exact k2.lvl
  · have hn : lvlOf s p i k ≠ pinLevel ((s.pos p i).pins.getLsbD k) (cl k) := fun h => hn ((ha k k.isLt).symm.trans h)
    match k with
    | 0 =>
      obtain ⟨hra, hrt⟩ := k0.run hn
      obtain ⟨-, ha1, ht1, -⟩ := k1.others 0 (by decide)
      obtain ⟨-, ha2, ht2, -⟩ := k2.others 0 (by decide)
      exact ⟨ha2.trans (ha1.trans hra), ht2.trans (ht1.trans hrt)⟩
    | 1 =>
      obtain ⟨hl0, -⟩ := k0.others 1 (by decide)
      obtain ⟨hra, hrt⟩ := k1.run (fun h => hn (hl0.symm.trans h))
      obtain ⟨-, ha2, ht2, -⟩ := k2.others 1 (by decide)
      exact ⟨ha2.trans hra, ht2.trans hrt⟩
    | 2 =>
      obtain ⟨hl0, -⟩ := k0.others 2 (by decide)
      obtain ⟨hl1, -⟩ := k1.others 2 (by decide)
      exact k2.run fun h => hn (hl0.symm.trans (hl1.symm.trans h))

/-! ### A level taken back -/

/-- Nothing has been accepted: the pins and the counts stand. -/
structure Unmoved (p i : Nat) (s t : State) : Prop where
  pins : (t.pos p i).pins = (s.pos p i).pins
  cnt : t.rd .POS_CNT p i = s.rd .POS_CNT p i
  wrap : t.rd .POS_WRAP p i = s.rd .POS_WRAP p i
  mem : t.mem = s.mem

theorem Filtered.unmoved_run {p i : Nat} {s a : State} (h : Filtered p i s a) (n : Nat) : Unmoved p i s (a.run n) :=
  ⟨by rw [pos_run, h.pins], (rd_run a n _ _ _ _ (by decide)).trans (h.within.regs _ _ _ _ (by decide)),
    (rd_run a n _ _ _ _ (by decide)).trans (h.within.regs _ _ _ _ (by decide)), (mem_run a n).trans h.within.mem⟩

/-- While the pack clock is absent no edge is seen (R117). -/
theorem unmoved_unseen {s : State} {p : Nat} (h : s.bit F.PWM_STATUS.clk_ok p = false) (i : Nat) (tr : List (Tag × Fin 3 × PinClass)) :
    Unmoved p i s (s.posEdge p i tr) := by
  rw [posEdge_unseen h]
  exact (filtered_takesUnseen s p i tr).unmoved_run _

/-- Where in the end the pins present what is accepted, nothing is. -/
theorem unmoved_seen {s : State} {p i : Nat} (h : s.bit F.PWM_STATUS.clk_ok p = true) {tr : List (Tag × Fin 3 × PinClass)}
    (hf : Filtered p i s (tr.foldl (takeSeen p i) s)) (ha : AllAccepted p i (tr.foldl (takeSeen p i) s)) : Unmoved p i s (s.posEdge p i tr) := by
  have hrun (n : Nat) : AllAccepted p i ((tr.foldl (takeSeen p i) s).run n) := fun k hk => by
    rw [lvlOf, pos_run]
    exact ha k hk
  rw [posEdge_seen h, runOut_same (hrun _)]
  exact hf.unmoved_run _

/-- A pin's class of a level, low or high. -/
abbrev levelClass (b : Bool) : PinClass := if b then .high else .low

theorem pinLevel_levelClass (acc b : Bool) : pinLevel acc (levelClass b) = b := by
  cases b <;> rfl

/-- A level that a pin takes back within flt ticks is not accepted (R97). -/
theorem takesBack {p i : Nat} {s : State} (ha : AllAccepted p i s) {t t1 : Tag} (k : Fin 3)
    (hlt : s.rawOf t1 < s.rawOf t + s.f F.POS_CFG.flt p i) :
    let tr : List (Tag × Fin 3 × PinClass) :=
      [(t, k, levelClass (!(s.pos p i).pins.getLsbD k)), (t1, k, levelClass ((s.pos p i).pins.getLsbD k))]
    Filtered p i s (tr.foldl (takeSeen p i) s) ∧ AllAccepted p i (tr.foldl (takeSeen p i) s) := by
  intro tr
  have k0 := takeSeen_more rfl (.refl s) (ha.startedAt (s.rawOf t)) (k := k) rfl (levelClass (!(s.pos p i).pins.getLsbD k))
  rw [pinLevel_levelClass] at k0
  unfold tr
  rw [List.foldl_cons, List.foldl_cons, List.foldl_nil]
  generalize takeSeen p i s (t, k, levelClass (!(s.pos p i).pins.getLsbD k)) = u at k0
  have hq : u.posUpTo p i (u.rawOf t1) (u.rawOf t1) = u := posUpTo_quiet fun j hj hp => Or.inl (by
    have hrun := k0.startedAt (ha.startedAt _) j hj (pends_ne hp)
    rw [State.posRipe, show SMap.get 0 (u.pos p i).runAt j = s.rawOf t from hrun, k0.filtered.rawOf,
      k0.filtered.within.f_eq F.POS_CFG.flt p i 0]
    exact hlt)
  have k1 := posTake_took u p i (u.rawOf t1) t1 k (levelClass ((s.pos p i).pins.getLsbD k))
  rw [pinLevel_levelClass] at k1
  rw [takeSeen, hq]
  refine ⟨k0.filtered.trans k1.filtered, fun j hj => ?_⟩
  rw [k1.filtered.pins, k0.filtered.pins]
  rcases eq_or_ne j k with rfl | hne
  · exact k1.lvl
  · exact (k1.others j hne).1.trans ((k0.others j hne).1.trans (ha j hj))

/-! ### The acceptance of levels held for flt ticks -/

/-- The pins present the levels `lv`, whose runs began at raw tick `r` with the tags `g` where they differ from the accepted ones. -/
structure Ripe (p i : Nat) (lv : BitVec 3) (r : Nat) (g : Fin 3 → Tag) (s b : State) : Prop where
  within : Within runRegs s b
  pos : b.pos p i = { s.pos p i with lvl := (b.pos p i).lvl, runAt := (b.pos p i).runAt, runTag := (b.pos p i).runTag,
                                     capAt := (b.pos p i).capAt, cond := (b.pos p i).cond }
  lvl : ∀ k, k < 3 → lvlOf b p i k = lv.getLsbD k
  run : ∀ k : Fin 3, (s.pos p i).pins.getLsbD k ≠ lv.getLsbD k → runAtOf b p i k = r ∧ SMap.get 0 (b.pos p i).runTag k = g k

namespace Ripe

variable {p i r : Nat} {lv : BitVec 3} {g : Fin 3 → Tag} {s b : State}

theorem of_presents (h : Presents p i (fun k => lv.getLsbD k) r g s b) : Ripe p i lv r g s b :=
  ⟨h.filtered.within.mono (List.nil_subset _), h.filtered.pos, fun k hk => h.lvl ⟨k, hk⟩, h.run⟩

/-- Time passes. -/
theorem later (h : Ripe p i lv r g s b) (n : Nat) : Ripe p i lv r g s (b.run n) := by
  refine ⟨h.within.trans ⟨mem_run b n, banks_run b n, (run_frame b n).regs⟩, ?_, fun k hk => ?_, fun k hk => ?_⟩
  · rw [pos_run, ← h.pos]
  · rw [lvlOf, pos_run]
    exact h.lvl k hk
  · rw [runAtOf, pos_run]
    exact h.run k hk

theorem pins (h : Ripe p i lv r g s b) : (b.pos p i).pins = (s.pos p i).pins := by rw [h.pos]

theorem frozen (h : Ripe p i lv r g s b) (k : Nat) : b.pinFrozen p i k = s.pinFrozen p i k := by
  rw [State.pinFrozen, State.pinFrozen, h.within.f_eq F.POS_DSTAT.live p i 0]

/-- A pending pin's level began at `r`. -/
theorem runAt_of_pends (h : Ripe p i lv r g s b) {k : Nat} (hk : k < 3) (hp : b.posPends p i k = true) : runAtOf b p i k = r := by
  have hn := pends_ne hp
  rw [h.pins, h.lvl k hk] at hn
  exact (h.run ⟨k, hk⟩ hn.symm).1

/-- Levels other than the accepted ones pend, where no pin is frozen. -/
theorem pends (h : Ripe p i lv r g s b) (hf : ∀ k, k < 3 → s.pinFrozen p i k = false) (hne : lv ≠ (s.pos p i).pins) :
    ∃ k, k < 3 ∧ b.posPends p i k = true := by
  by_contra hno
  refine hne (BitVec.eq_of_getLsbD_eq fun k hk => ?_)
  by_contra hd
  refine hno ⟨k, hk, ?_⟩
  rw [State.posPends, h.frozen, hf k hk, h.pins, show SMap.get false (b.pos p i).lvl k = lv.getLsbD k from h.lvl k hk]
  simpa using hd

end Ripe

/-- After an acceptance the pins stand at the levels taken, and present nothing else. -/
theorem posApply_pins {p i r : Nat} {lv : BitVec 3} {g : Fin 3 → Tag} {s b : State} (h : Ripe p i lv r g s b) :
    ((b.posApply p i lv.toNat).pos p i).pins = lv ∧ AllAccepted p i (b.posApply p i lv.toNat) := by
  have ht := levelsTaken_takes b p i lv.toNat
  have he := edged_posApply b p i lv.toNat
  have hp : ((b.posApply p i lv.toNat).pos p i).pins = lv := by
    rw [he.pins, ht.pos]
    simp
  refine ⟨hp, fun k hk => ?_⟩
  rw [hp, lvlOf, he.lvl, ht.pos]
  exact h.lvl k hk

/-- Three classes in one tick, one of them at least of another level, held for flt ticks, are accepted together (R97, log 1). -/
theorem posEdge_applies {p i : Nat} {s : State} {t : Tag} {cl : Fin 3 → PinClass} {lv : BitVec 3} (hc : s.bit F.PWM_STATUS.clk_ok p = true)
    (ha : AllAccepted p i s) (hf : ∀ k, k < 3 → s.pinFrozen p i k = false) (hr : s.clk.raw ≤ s.rawOf t)
    (hlv : ∀ k : Fin 3, pinLevel ((s.pos p i).pins.getLsbD k) (cl k) = lv.getLsbD k) (hne : lv ≠ (s.pos p i).pins) :
    ∃ b, Ripe p i lv (s.rawOf t) (fun k => runTagNow s p i k (s.rawOf t) t) s b ∧
      s.posEdge p i [((t, 0, cl 0) : Tag × Fin 3 × PinClass), (t, 1, cl 1), (t, 2, cl 2)] = b.posApply p i lv.toNat := by
  have hp := takesSeen_present ha t cl
  have hlast : lastRaw s [((t, 0, cl 0) : Tag × Fin 3 × PinClass), (t, 1, cl 1), (t, 2, cl 2)] = s.rawOf t := by simp [lastRaw]
  rw [posEdge_seen hc, hlast]
  generalize [((t, 0, cl 0) : Tag × Fin 3 × PinClass), (t, 1, cl 1), (t, 2, cl 2)].foldl (takeSeen p i) s = a at hp
  rw [funext hlv] at hp
  have hraw : (a.run (s.rawOf t - a.clk.raw)).clk.raw = s.rawOf t := by
    rw [raw_run, hp.filtered.clk]
    omega
  have hv := (Ripe.of_presents hp).later (s.rawOf t - a.clk.raw)
  generalize a.run (s.rawOf t - a.clk.raw) = v at hraw hv
  have hb := hv.later (v.f F.POS_CFG.flt p i)
  have happly : (v.run (v.f F.POS_CFG.flt p i)).posAccept p i = (v.run (v.f F.POS_CFG.flt p i)).posApply p i lv.toNat := by
    refine posAccept_ripe hb.lvl (fun k hk => (hb.frozen k).trans (hf k hk)) (fun k hk hp => ?_) (by rw [hb.pins]; exact hne)
    rw [State.posRipe, show SMap.get 0 ((v.run (v.f F.POS_CFG.flt p i)).pos p i).runAt k = s.rawOf t from hb.runAt_of_pends hk hp, raw_run, hraw,
      State.f, rd_run _ _ _ _ _ _ (by decide)]
    rfl
  refine ⟨_, hb, (runOut_accepts (hv.pends hf hne) (fun k hk hp => (hv.runAt_of_pends hk hp).trans hraw.symm) ?_).trans happly⟩
  rw [happly]
  exact (posApply_pins hb).2

end Sys2Proof.Proofs
end

section
/-! POSITION_EDGE from the acceptance on: the quadrature step, the index or the Hall step that the accepted levels make (R98 to R106). -/

namespace Sys2Proof.Proofs
open Sys2Proof Sys2Proof.Machine Sys2Proof.Laws

/-! ### Levels at the decoder -/

/-- Pin levels as the decoder sees them (R97). -/
abbrev decoded (s : State) (p i : Nat) (x : BitVec 3) : BitVec 3 := if s.bit F.POS_CFG.inv p i then ~~~x else x

theorem posLevels_decoded {s u : State} {p i : Nat} (h : u.bit F.POS_CFG.inv p i = s.bit F.POS_CFG.inv p i) :
    u.posLevels p i = (decoded s p i (u.pos p i).pins).toNat := by
  rw [State.posLevels, h]

theorem decoded_getLsbD (s : State) (p i : Nat) (x : BitVec 3) {k : Nat} (hk : k < 3) :
    (decoded s p i x).getLsbD k = (s.bit F.POS_CFG.inv p i != x.getLsbD k) := by
  unfold decoded
  cases s.bit F.POS_CFG.inv p i with
  | true => simp [hk]
  | false => simp

/-- Two levels differ at the decoder where they differ at the pin. -/
theorem decoded_eq_iff (s : State) (p i : Nat) (x y : BitVec 3) {k : Nat} (hk : k < 3) :
    (decoded s p i x).getLsbD k = (decoded s p i y).getLsbD k ↔ x.getLsbD k = y.getLsbD k := by
  rw [decoded_getLsbD s p i x hk, decoded_getLsbD s p i y hk]
  cases s.bit F.POS_CFG.inv p i <;> cases x.getLsbD k <;> cases y.getLsbD k <;> decide

/-! ### The tag of an acceptance -/

theorem later_cases (a b : Tag) : Tag.later a b = a ∨ Tag.later a b = b := by
  unfold Tag.later
  split
  · exact Or.inr rfl
  · exact Or.inl rfl

/-- The latest of some tags is one of them. -/
theorem latest_mem (t : Tag) (ts : List Tag) : ts.foldl Tag.later t ∈ t :: ts := by
  induction ts generalizing t with
  | nil => exact List.mem_singleton.mpr rfl
  | cons u us ih =>
    rw [List.foldl_cons]
    rcases List.mem_cons.mp (ih (Tag.later t u)) with h | h
    · rw [h]
      rcases later_cases t u with h | h <;> rw [h] <;> simp
    · simp [h]

/-- The latest tag of some pins' runs is the tag of one of them. -/
theorem latestTag_mem (q : Pos) {ks : List Nat} (h : ks ≠ []) : ∃ k ∈ ks, latestTag q ks = SMap.get 0 q.runTag k := by
  obtain ⟨k, ks, rfl⟩ := List.exists_cons_of_ne_nil h
  have hm : latestTag q (k :: ks) ∈ (k :: ks).map (SMap.get 0 q.runTag) := latest_mem _ _
  obtain ⟨j, hj, he⟩ := List.mem_map.mp hm
  exact ⟨j, hj, he.symm⟩

/-- A tag is that of a pin whose level `lv` changes. -/
def Tagged (s : State) (p i : Nat) (lv : BitVec 3) (g : Fin 3 → Tag) (x : Tag) : Prop :=
  ∃ k : Fin 3, (s.pos p i).pins.getLsbD k ≠ lv.getLsbD k ∧ x = g k

/-! ### The state in which the edge is handled -/

/-- The registers that an acceptance has changed before its edge is handled. -/
def acceptRegs : List RegName := [.POS_DSTAT, .POS_STAT, .POS_SECT] ++ runRegs

/-- The interface stands at the accepted levels `lv`, its edge to be handled. -/
structure AtEdge (p i : Nat) (lv : BitVec 3) (s c : State) : Prop where
  within : Within acceptRegs s c
  pins : (c.pos p i).pins = lv
  hallOk : (c.pos p i).hallOk = (s.pos p i).hallOk
  sector : c.f F.POS_SECT.sector p i = s.f F.POS_SECT.sector p i

theorem AtEdge.levels {p i : Nat} {lv : BitVec 3} {s c : State} (h : AtEdge p i lv s c) : c.posLevels p i = (decoded s p i lv).toNat := by
  rw [posLevels_decoded (h.within.bit_eq F.POS_CFG.inv p i 0), h.pins]

theorem AtEdge.level {p i : Nat} {lv : BitVec 3} {s c : State} (h : AtEdge p i lv s c) (k : Nat) :
    (c.posLevels p i).testBit k = (decoded s p i lv).getLsbD k := by
  rw [h.levels]
  rfl

section
variable {p i r : Nat} {lv : BitVec 3} {g : Fin 3 → Tag} {s b : State} (h : Ripe p i lv r g s b)
include h

theorem Ripe.atEdge (x : Tag) : AtEdge p i lv s ((levelsTaken b p i lv.toNat).posSnap p i x) := by
  have ht := levelsTaken_takes b p i lv.toNat
  have hs := snapped_posSnap (levelsTaken b p i lv.toNat) p i x
  refine ⟨(h.within.mono.trans ht.tracked.within.mono).trans (hs.tracked.within.mono (List.nil_subset _)), ?_, ?_, ?_⟩
  · rw [hs.pos, ht.pos]
    simp
  · rw [hs.pos, ht.pos, h.pos]
  · rw [hs.tracked.within.f_eq F.POS_SECT.sector p i 0, ht.sector, h.within.f_eq F.POS_SECT.sector p i 0]

theorem Ripe.levels : b.posLevels p i = (decoded s p i (s.pos p i).pins).toNat := by
  rw [posLevels_decoded (h.within.bit_eq F.POS_CFG.inv p i 0), h.pins]

theorem Ripe.mem_changed {k : Nat} : k ∈ changedPins b p i lv.toNat ↔ k < 3 ∧ (s.pos p i).pins.getLsbD k ≠ lv.getLsbD k := by
  rw [changedPins, List.mem_filter, List.mem_range, h.pins, bne_iff_ne]
  rfl

/-- The latest tag of some changed pins is that of one of them. -/
theorem Ripe.tagged {ks : List Nat} (hs : ∀ k ∈ ks, k ∈ changedPins b p i lv.toNat) (hne : ks ≠ []) :
    Tagged s p i lv g (latestTag (b.pos p i) ks) := by
  obtain ⟨k, hk, ht⟩ := latestTag_mem (b.pos p i) hne
  obtain ⟨h3, hd⟩ := h.mem_changed.mp (hs k hk)
  exact ⟨⟨k, h3⟩, hd, ht.trans (h.run ⟨k, h3⟩ hd).2⟩

/-- Pin 2 counts as Z, the others as A and B. -/
theorem Ripe.any_ab : (changedPins b p i lv.toNat).any (· != 2) = true ↔
    (s.pos p i).pins.getLsbD 0 ≠ lv.getLsbD 0 ∨ (s.pos p i).pins.getLsbD 1 ≠ lv.getLsbD 1 := by
  rw [List.any_eq_true]
  constructor
  · rintro ⟨k, hk, hn⟩
    obtain ⟨h3, hd⟩ := h.mem_changed.mp hk
    have hn : k ≠ 2 := bne_iff_ne.mp hn
    interval_cases k
    · exact Or.inl hd
    · exact Or.inr hd
    · exact absurd rfl hn
  · rintro (hd | hd)
    · exact ⟨0, h.mem_changed.mpr ⟨by decide, hd⟩, rfl⟩
    · exact ⟨1, h.mem_changed.mpr ⟨by decide, hd⟩, rfl⟩

theorem Ripe.contains_z : (changedPins b p i lv.toNat).contains 2 = true ↔ (s.pos p i).pins.getLsbD 2 ≠ lv.getLsbD 2 := by
  rw [List.contains_iff_mem, h.mem_changed]
  exact and_iff_right (by decide)

/-- In a quadrature mode, with Z as it was, the edge is that of A and B. -/
theorem Ripe.quadrature (hm : s.f F.POS_CFG.mode p i = 2 ∨ s.f F.POS_CFG.mode p i = 3) (hz : (s.pos p i).pins.getLsbD 2 = lv.getLsbD 2)
    (hab : (s.pos p i).pins.getLsbD 0 ≠ lv.getLsbD 0 ∨ (s.pos p i).pins.getLsbD 1 ≠ lv.getLsbD 1) :
    ∃ c x, AtEdge p i lv s c ∧ Tagged s p i lv g x ∧
      b.posApply p i lv.toNat = c.abEdge p i (decoded s p i (s.pos p i).pins).toNat x := by
  have hmode : b.f F.POS_CFG.mode p i = s.f F.POS_CFG.mode p i := h.within.f_eq F.POS_CFG.mode p i 0
  have hany := h.any_ab.mpr hab
  have hnoz (u : State) (l : Nat) : zTaken b u p i lv.toNat l = u := if_neg fun hc => h.contains_z.mp hc hz
  have hks : (changedPins b p i lv.toNat).filter (· != 2) ≠ [] := fun he => by
    obtain ⟨k, hk, hn⟩ := List.any_eq_true.mp hany
    exact absurd (List.mem_filter.mpr ⟨hk, hn⟩) (by rw [he]; exact List.not_mem_nil)
  refine ⟨_, _, h.atEdge (latestTag (b.pos p i) ((changedPins b p i lv.toNat).filter (· != 2))),
    h.tagged (fun k hk => (List.mem_filter.mp hk).1) hks, ?_⟩
  rw [posApply_eq, hmode, if_neg (by omega), if_pos hm, hnoz, hnoz, ite_self, abTaken, if_pos hany, h.levels]

/-- With A and B as they were, the edge of mode 2 is that of Z. -/
theorem Ripe.index (hm : s.f F.POS_CFG.mode p i = 2) (hz : (s.pos p i).pins.getLsbD 2 ≠ lv.getLsbD 2)
    (ha : (s.pos p i).pins.getLsbD 0 = lv.getLsbD 0) (hb : (s.pos p i).pins.getLsbD 1 = lv.getLsbD 1) :
    ∃ c x l, AtEdge p i lv s c ∧ Tagged s p i lv g x ∧
      b.posApply p i lv.toNat = c.zEdge p i (decoded s p i (s.pos p i).pins).toNat l x := by
  have hmode : b.f F.POS_CFG.mode p i = s.f F.POS_CFG.mode p i := h.within.f_eq F.POS_CFG.mode p i 0
  have hany : (changedPins b p i lv.toNat).any (· != 2) = false :=
    eq_false_of_ne_true fun hc => (h.any_ab.mp hc).elim (fun hd => hd ha) fun hd => hd hb
  have hnoab (u : State) : abTaken b u p i lv.toNat = u := if_neg (ne_true_of_eq_false hany)
  refine ⟨_, _, (levelsTaken b p i lv.toNat).posLevels p i, h.atEdge (SMap.get 0 (b.pos p i).runTag 2), ⟨2, hz, (h.run 2 hz).2⟩, ?_⟩
  rw [posApply_eq, hmode, if_neg (by omega), if_pos (Or.inl hm), hany, Bool.false_and, if_neg Bool.false_ne_true, hnoab, zTaken,
    if_pos (h.contains_z.mpr hz), h.levels]
  rfl

/-- In the Hall mode the edge is that of the state. -/
theorem Ripe.hall (hm : s.f F.POS_CFG.mode p i = 1) (hne : lv ≠ (s.pos p i).pins) :
    ∃ c x, AtEdge p i lv s c ∧ Tagged s p i lv g x ∧ b.posApply p i lv.toNat = c.hallEdge p i x := by
  have hmode : b.f F.POS_CFG.mode p i = s.f F.POS_CFG.mode p i := h.within.f_eq F.POS_CFG.mode p i 0
  have hks : changedPins b p i lv.toNat ≠ [] := fun he => hne (BitVec.eq_of_getLsbD_eq fun k hk => by
    by_contra hd
    exact absurd (h.mem_changed.mpr ⟨hk, fun hc => hd hc.symm⟩) (by rw [he]; exact List.not_mem_nil))
  exact ⟨_, _, h.atEdge (latestTag (b.pos p i) (changedPins b p i lv.toNat)), h.tagged (fun _ hk => hk) hks,
    (posApply_eq b p i lv.toNat).trans (if_pos (hmode.trans hm))⟩

end

/-! ### What the edge counts -/

/-- A counted step, told from the state before the acceptance. -/
structure Stepped (p i : Nat) (up : Bool) (T : Tag → Prop) (s t : State) : Prop where
  cnt : t.rd .POS_CNT p i = if up then s.rd .POS_CNT p i + 1 else s.rd .POS_CNT p i - 1
  dir : t.bit F.POS_STAT.dir p i = !up
  tag : T (t.pairAt .POS_ETAG_LO .POS_ETAG_HI p i)
  others : ∀ j, j ≠ i → t.rd .POS_CNT p j = s.rd .POS_CNT p j
  mem : t.mem = s.mem

/-- Nothing counted, told from the state before the acceptance. -/
structure Uncounted (p i : Nat) (s t : State) : Prop where
  cnt : t.rd .POS_CNT p i = s.rd .POS_CNT p i
  mem : t.mem = s.mem

section
variable {p i : Nat} {lv : BitVec 3} {s c t : State} (hc : AtEdge p i lv s c)
include hc

theorem Counted.stepped {up : Bool} {x : Tag} {T : Tag → Prop} (h : Counted p i up x c t) (hm : t.mem = c.mem) (hx : T x) :
    Stepped p i up T s t := by
  obtain ⟨hcnt, hdir, htag, hothers⟩ := h.of_before hc.within
  exact ⟨hcnt, hdir, htag.symm ▸ hx, hothers, hm.trans hc.within.mem⟩

theorem AtEdge.uncounted (hn : t.rd .POS_CNT p i = c.rd .POS_CNT p i) (hm : t.mem = c.mem) : Uncounted p i s t :=
  ⟨hn.trans (hc.within.regs .POS_CNT p i 0 (by decide)), hm.trans hc.within.mem⟩

end

section
variable {p i r : Nat} {lv : BitVec 3} {g : Fin 3 → Tag} {s b : State} (h : Ripe p i lv r g s b)
include h

section
variable (hm : s.f F.POS_CFG.mode p i = 2 ∨ s.f F.POS_CFG.mode p i = 3)
  (hz : (decoded s p i (s.pos p i).pins).getLsbD 2 = (decoded s p i lv).getLsbD 2)
include hm hz

/-- A change of A alone counts one step (R102). -/
theorem Ripe.a_steps (ha : (decoded s p i (s.pos p i).pins).getLsbD 0 ≠ (decoded s p i lv).getLsbD 0)
    (hb : (decoded s p i (s.pos p i).pins).getLsbD 1 = (decoded s p i lv).getLsbD 1) :
    Stepped p i (((decoded s p i lv).getLsbD 0 != (decoded s p i lv).getLsbD 1) != s.bit F.POS_CFG.dir_inv p i) (Tagged s p i lv g) s
      (b.posApply p i lv.toNat) := by
  obtain ⟨c, x, hc, hx, he⟩ := h.quadrature hm ((decoded_eq_iff s p i _ _ (by decide)).mp hz)
    (Or.inl (mt (decoded_eq_iff s p i _ _ (by decide)).mpr ha))
  rw [he, abEdge_a (by rw [hc.level]; exact ha.symm) (by rw [hc.level]; exact hb.symm), hc.level, hc.level]
  obtain ⟨hcount, hedge⟩ := countEdge_counts c p i ((decoded s p i lv).getLsbD 0 != (decoded s p i lv).getLsbD 1) x
  rw [hc.within.bit_eq F.POS_CFG.dir_inv p i 0] at hcount
  exact hcount.stepped hc hedge.within.mem hx

/-- A change of B alone counts one step (R102). -/
theorem Ripe.b_steps (ha : (decoded s p i (s.pos p i).pins).getLsbD 0 = (decoded s p i lv).getLsbD 0)
    (hb : (decoded s p i (s.pos p i).pins).getLsbD 1 ≠ (decoded s p i lv).getLsbD 1) :
    Stepped p i (((decoded s p i lv).getLsbD 0 == (decoded s p i lv).getLsbD 1) != s.bit F.POS_CFG.dir_inv p i) (Tagged s p i lv g) s
      (b.posApply p i lv.toNat) := by
  obtain ⟨c, x, hc, hx, he⟩ := h.quadrature hm ((decoded_eq_iff s p i _ _ (by decide)).mp hz)
    (Or.inr (mt (decoded_eq_iff s p i _ _ (by decide)).mpr hb))
  rw [he, abEdge_b (by rw [hc.level]; exact ha.symm) (by rw [hc.level]; exact hb.symm), hc.level, hc.level]
  obtain ⟨hcount, hedge⟩ := countEdge_counts c p i ((decoded s p i lv).getLsbD 0 == (decoded s p i lv).getLsbD 1) x
  rw [hc.within.bit_eq F.POS_CFG.dir_inv p i 0] at hcount
  exact hcount.stepped hc hedge.within.mem hx

/-- A change of both is an error that counts nothing (R103). -/
theorem Ripe.ab_errs (ha : (decoded s p i (s.pos p i).pins).getLsbD 0 ≠ (decoded s p i lv).getLsbD 0)
    (hb : (decoded s p i (s.pos p i).pins).getLsbD 1 ≠ (decoded s p i lv).getLsbD 1) :
    (b.posApply p i lv.toNat).bit F.POS_STAT.quad_err p i = true ∧ ((b.posApply p i lv.toNat).pos p i).hist = [] ∧
      Uncounted p i s (b.posApply p i lv.toNat) := by
  obtain ⟨c, x, hc, -, he⟩ := h.quadrature hm ((decoded_eq_iff s p i _ _ (by decide)).mp hz)
    (Or.inl (mt (decoded_eq_iff s p i _ _ (by decide)).mpr ha))
  obtain ⟨herr, hhist, hedge⟩ := abEdge_both (s := c) (p := p) (i := i) (old := (decoded s p i (s.pos p i).pins).toNat)
    (by rw [hc.level]; exact ha.symm) (by rw [hc.level]; exact hb.symm) x
  rw [he]
  exact ⟨herr, hhist, hc.uncounted (hedge.within.regs .POS_CNT p i 0 (by decide)) hedge.within.mem⟩

end

/-- A change of Z alone to the configured level captures the counter with its tag (R106). -/
theorem Ripe.z_captures (hm : s.f F.POS_CFG.mode p i = 2)
    (ha : (decoded s p i (s.pos p i).pins).getLsbD 0 = (decoded s p i lv).getLsbD 0)
    (hb : (decoded s p i (s.pos p i).pins).getLsbD 1 = (decoded s p i lv).getLsbD 1)
    (hz : (decoded s p i (s.pos p i).pins).getLsbD 2 ≠ (decoded s p i lv).getLsbD 2)
    (he : (decoded s p i lv).getLsbD 2 ≠ s.bit F.POS_IDX.z_edge p i) (hg : s.bit F.POS_IDX.z_gate p i = false) :
    (∃ x, Tagged s p i lv g x ∧ Captured p i (s.rd .POS_CNT p i) x (b.posApply p i lv.toNat)) ∧ Uncounted p i s (b.posApply p i lv.toNat) := by
  obtain ⟨c, x, l, hc, hx, ht⟩ := h.index hm (mt (decoded_eq_iff s p i _ _ (by decide)).mpr hz) ((decoded_eq_iff s p i _ _ (by decide)).mp ha)
    ((decoded_eq_iff s p i _ _ (by decide)).mp hb)
  obtain ⟨hcap, hedge⟩ := indexEdge_captures c p i x
  have hidx : c.zEdge p i (decoded s p i (s.pos p i).pins).toNat l x = c.indexEdge p i x := by
    refine if_pos ?_
    rw [hc.within.f_eq F.POS_CFG.mode p i 0, hc.within.bit_eq F.POS_IDX.z_edge p i 0, hc.within.bit_eq F.POS_IDX.z_gate p i 0, hm, hg, hc.level]
    simpa using ⟨hz.symm, he⟩
  rw [hc.within.regs .POS_CNT p i 0 (by decide)] at hcap
  rw [ht, hidx]
  exact ⟨⟨x, hx, hcap⟩, hc.uncounted (hedge.within.regs .POS_CNT p i 0 (by decide)) hedge.within.mem⟩

section
variable (hm : s.f F.POS_CFG.mode p i = 1) (hne : lv ≠ (s.pos p i).pins)
include hm hne

/-- An invalid Hall state is flagged and counts nothing (R98). -/
theorem Ripe.hall_errs (hv : hallSector (s.f F.POS_HMAP.map p i) (decoded s p i lv).toNat = none) :
    (b.posApply p i lv.toNat).bit F.POS_STAT.hall_inv p i = true ∧ (b.posApply p i lv.toNat).bit F.POS_SECT.sect_valid p i = false ∧
      Uncounted p i s (b.posApply p i lv.toNat) := by
  obtain ⟨c, x, hc, -, he⟩ := h.hall hm hne
  have hv' : hallSector (c.f F.POS_HMAP.map p i) (c.posLevels p i) = none := by rw [hc.within.f_eq F.POS_HMAP.map p i 0, hc.levels, hv]
  obtain ⟨hinv, hval, hcnt⟩ := hallEdge_invalid hv' x
  rw [he]
  exact ⟨hinv, hval, hc.uncounted hcnt (edged_hallEdge c p i x).within.mem⟩

variable {v : Nat} (hv : hallSector (s.f F.POS_HMAP.map p i) (decoded s p i lv).toNat = some v) (hk : (s.pos p i).hallOk = true)
include hv hk

/-- A step to a neighbouring sector counts one edge (R98, R99). -/
theorem Ripe.hall_steps (fwd : Bool) (hs : v = (s.f F.POS_SECT.sector p i + if fwd then 1 else 5) % 6) :
    SectorSeen p i v (b.posApply p i lv.toNat) ∧
      Stepped p i (fwd != s.bit F.POS_CFG.dir_inv p i) (Tagged s p i lv g) s (b.posApply p i lv.toNat) := by
  obtain ⟨c, x, hc, hx, he⟩ := h.hall hm hne
  have hv' : hallSector (c.f F.POS_HMAP.map p i) (c.posLevels p i) = some v := by rw [hc.within.f_eq F.POS_HMAP.map p i 0, hc.levels, hv]
  obtain ⟨hsec, hcount⟩ := hallEdge_counts hv' (hc.hallOk.trans hk) x fwd (by rw [hc.sector]; exact hs)
  rw [hc.within.bit_eq F.POS_CFG.dir_inv p i 0] at hcount
  rw [he]
  exact ⟨hsec, hcount.stepped hc (edged_hallEdge c p i x).within.mem hx⟩

/-- A jump is flagged and counts nothing (R100, R103). -/
theorem Ripe.hall_jumps (h0 : v ≠ s.f F.POS_SECT.sector p i) (h1 : v ≠ (s.f F.POS_SECT.sector p i + 1) % 6)
    (h5 : v ≠ (s.f F.POS_SECT.sector p i + 5) % 6) :
    SectorSeen p i v (b.posApply p i lv.toNat) ∧ (b.posApply p i lv.toNat).bit F.POS_STAT.hall_skip p i = true ∧
      ((b.posApply p i lv.toNat).pos p i).hist = [] ∧ Uncounted p i s (b.posApply p i lv.toNat) := by
  obtain ⟨c, x, hc, -, he⟩ := h.hall hm hne
  have hv' : hallSector (c.f F.POS_HMAP.map p i) (c.posLevels p i) = some v := by rw [hc.within.f_eq F.POS_HMAP.map p i 0, hc.levels, hv]
  obtain ⟨hsec, hskip, hhist, hcnt⟩ := hallEdge_jumps hv' (hc.hallOk.trans hk) x (by rw [hc.sector]; exact h0) (by rw [hc.sector]; exact h1)
    (by rw [hc.sector]; exact h5)
  rw [he]
  exact ⟨hsec, hskip, hhist, hc.uncounted hcnt (edged_hallEdge c p i x).within.mem⟩

end

end

/-! ### The command -/

theorem positionEdge_exec {s : State} (hm : s.pwr.mode ≠ 3) (p : PackIx) (i : Fin 6) (e : Tag × Fin 3 × PinClass)
    (more : List (Tag × Fin 3 × PinClass)) : exec (.positionEdge p i e more) s = ok (s.posEdge p i (e :: more)) :=
  congrArg ok (fieldOn_exec (f := fun s => s.posEdge p i (e :: more)) hm)

/-- Transitions after which nothing is accepted. -/
theorem Unmoved.accepts {s : State} (hm : s.pwr.mode ≠ 3) {p : PackIx} {i : Fin 6} {e : Tag × Fin 3 × PinClass}
    {more : List (Tag × Fin 3 × PinClass)} (h : Unmoved p i s (s.posEdge p i (e :: more))) :
    Accepts (exec (.positionEdge p i e more) s) fun u => (u.pos p i).pins = (s.pos p i).pins ∧ u.rd .POS_CNT p i = s.rd .POS_CNT p i ∧
      u.rd .POS_WRAP p i = s.rd .POS_WRAP p i ∧ u.mem = s.mem := by
  rw [positionEdge_exec hm]
  generalize s.posEdge p i (e :: more) = t at h
  exact accepts_ok ⟨h.pins, h.cnt, h.wrap, h.mem⟩

section
variable {s : State} {p : PackIx} {i : Fin 6} {t : Tag} {cl : Fin 3 → PinClass} {lv : BitVec 3} (hm : s.pwr.mode ≠ 3)
  (hc : s.bit F.PWM_STATUS.clk_ok p = true) (ha : AllAccepted p i s)
  (hlv : ∀ k : Fin 3, pinLevel ((s.pos p i).pins.getLsbD k) (cl k) = lv.getLsbD k)
include hm hc ha hlv

/-- Classes that present the accepted levels move no counter. -/
theorem positionEdge_same (he : (s.pos p i).pins = lv) :
    Accepts (exec (.positionEdge p i (t, 0, cl 0) [(t, 1, cl 1), (t, 2, cl 2)]) s) fun u => (u.pos p i).pins = (s.pos p i).pins ∧
      u.rd .POS_CNT p i = s.rd .POS_CNT p i ∧ u.rd .POS_WRAP p i = s.rd .POS_WRAP p i ∧ u.mem = s.mem := by
  have hp := takesSeen_present ha t cl
  refine (unmoved_seen hc hp.filtered fun k hk => ?_).accepts hm
  rw [hp.filtered.pins, he]
  exact (hp.lvl ⟨k, hk⟩).trans (hlv ⟨k, hk⟩)

/-- Classes that present other levels are accepted flt ticks later, with what the levels' edge does. -/
theorem positionEdge_applies (hf : ∀ k, k < 3 → s.pinFrozen p i k = false) (hr : s.clk.raw ≤ s.rawOf t) (hne : lv ≠ (s.pos p i).pins)
    {P : State → Prop} (hP : ∀ b, Ripe p i lv (s.rawOf t) (fun k => runTagNow s p i k (s.rawOf t) t) s b →
      ∀ y, P { b.posApply p i lv.toNat with resp := y }) :
    Accepts (exec (.positionEdge p i (t, 0, cl 0) [(t, 1, cl 1), (t, 2, cl 2)]) s) fun u => (u.pos p i).pins = lv ∧ P u := by
  obtain ⟨b, hb, hx⟩ := posEdge_applies hc ha hf hr hlv hne
  rw [positionEdge_exec hm, hx]
  have hpins := (posApply_pins hb).1
  have hPb := hP b hb
  generalize b.posApply p i lv.toNat = w at hpins hPb
  exact accepts_ok ⟨hpins, hPb _⟩

end

/-- Settles O32: what presents the accepted levels is not accepted, and what is accepted makes the edge of its mode. -/
theorem positionEdgesCount : Obligations.PositionEdgesCount := by
  intro p i t s was cnt r held
  refine ⟨fun h3 e more => noEvent_ok (fieldOn_away (Or.inl h3)), fun hm hc e more => (unmoved_unseen hc i (e :: more)).accepts hm,
    fun hm hc hk hr => ⟨fun t1 k h1 hlt => ?back, fun cl => ?_⟩⟩
  case back =>
    have ha : AllAccepted p i s := fun k h3 => (hk ⟨k, h3⟩).1
    obtain ⟨hf, hall⟩ := takesBack ha (t := t) (t1 := t1) k hlt
    have hclass : (if was.getLsbD k then PinClass.low else .high) = levelClass (!was.getLsbD k) := by
      cases was.getLsbD k <;> rfl
    show Accepts (exec (.positionEdge p i (t, k, if was.getLsbD k then .low else .high) _) s) _
    rw [hclass]
    exact (unmoved_seen hc hf hall).accepts hm
  intro lv more o inv old new mode tagged step kept okP
  have ha : AllAccepted p i s := fun k h3 => (hk ⟨k, h3⟩).1
  have hfz : ∀ k, k < 3 → s.pinFrozen p i k = false := fun k h3 => (hk ⟨k, h3⟩).2
  have hlv : ∀ k : Fin 3, pinLevel ((s.pos p i).pins.getLsbD k) (cl k) = lv.getLsbD k := fun k => by
    simp [lv, was]
  have hne : old ≠ new → lv ≠ (s.pos p i).pins := fun hd he => hd (congrArg inv he.symm)
  have hbit {k : Nat} (hd : old.getLsbD k ≠ new.getLsbD k) : old ≠ new := fun he => hd (congrArg (·.getLsbD k) he)
  have done {P : State → Prop} (hd : old ≠ new) (hP : ∀ b, Ripe p i lv r (fun k => runTagNow s p i k r t) s b →
      ∀ y, P { b.posApply p i lv.toNat with resp := y }) : okP P := positionEdge_applies hm hc ha hlv hfz hr (hne hd) hP
  have steps {up : Bool} {w : State} (h : Stepped p i up (Tagged s p i lv fun k => runTagNow s p i k r t) s w) (y : Resp) :
      step up { w with resp := y } := ⟨h.cnt, h.dir, h.tag, h.others, h.mem⟩
  have keeps {w : State} (h : Uncounted p i s w) (y : Resp) : kept { w with resp := y } := ⟨h.cnt, h.mem⟩
  refine ⟨fun he => positionEdge_same hm hc ha hlv he,
    fun hq hz => ⟨fun h0 h1 => done (hbit h0) fun b hb y => steps (hb.a_steps hq hz h0 h1) y,
      fun h0 h1 => done (hbit h1) fun b hb y => steps (hb.b_steps hq hz h0 h1) y, fun h0 h1 => done (hbit h0) fun b hb y => ?both⟩,
    fun hq h0 h1 hz he hg => done (hbit hz) fun b hb y => ?index,
    fun hq hd => ⟨fun v hv hok => ⟨fun _ hs => done hd fun b hb y => ?next, fun _ hs => done hd fun b hb y => ?before,
      fun _ h0 h1 h5 => done hd fun b hb y => ?jump⟩, fun hv => done hd fun b hb y => ?invalid⟩⟩
  case both =>
    obtain ⟨herr, hhist, hu⟩ := hb.ab_errs hq hz h0 h1
    generalize b.posApply p i lv.toNat = w at herr hhist hu
    exact ⟨herr, hhist, keeps hu y⟩
  case index =>
    obtain ⟨⟨x, hx, hcap⟩, hu⟩ := hb.z_captures hq h0 h1 hz he hg
    generalize b.posApply p i lv.toNat = w at hcap hu
    exact ⟨hcap.cap, hcap.tag.symm ▸ hx, hcap.seen, keeps hu y⟩
  case next =>
    obtain ⟨hsec, hst⟩ := hb.hall_steps hq (hne hd) hv hok true hs
    rw [Bool.true_bne] at hst
    generalize b.posApply p i lv.toNat = w at hsec hst
    exact ⟨⟨hsec.sector, hsec.valid⟩, steps hst y⟩
  case before =>
    obtain ⟨hsec, hst⟩ := hb.hall_steps hq (hne hd) hv hok false hs
    rw [Bool.false_bne] at hst
    generalize b.posApply p i lv.toNat = w at hsec hst
    exact ⟨⟨hsec.sector, hsec.valid⟩, steps hst y⟩
  case jump =>
    obtain ⟨hsec, hskip, hhist, hu⟩ := hb.hall_jumps hq (hne hd) hv hok h0 h1 h5
    generalize b.posApply p i lv.toNat = w at hsec hskip hhist hu
    exact ⟨⟨hsec.sector, hsec.valid⟩, hskip, hhist, keeps hu y⟩
  case invalid =>
    obtain ⟨hinv, hval, hu⟩ := hb.hall_errs hq (hne hd) hv
    generalize b.posApply p i lv.toNat = w at hinv hval hu
    exact ⟨hinv, hval, keeps hu y⟩

end Sys2Proof.Proofs
end
